-- ==== Sys2Proof/Word.lean ====
section
/-! DEFINITION. The word types of the Weacel W6416: a byte, a 32-bit register word (chapter 00, "Register and field
tables": all registers are 32 bits wide) and a string of bytes in rising address order. -/
namespace Sys2Proof

/-- One byte. -/
abbrev Byte := BitVec 8

/-- One register word: every set-up register is 32 bits wide (00_scope.md, "Register and field tables"). -/
abbrev Word := BitVec 32

/-- A string of bytes: host memory in rising address order, air and fabric frames in transmission order. -/
abbrev Bytes := List Byte

end Sys2Proof
end

