-- ==== Sys2Proof/Syntax.lean ====
section
/-! DEFINITION. The commands and events of the Weacel W6416, one constructor for each row of spec/opcode_table.json in the
table's order. A ring command names its descriptor by its tag among the outstanding descriptors of its ring (R319); what
the command reads from host memory, and what the outside world measures or decides in the step, is an operand. -/
namespace Sys2Proof

/-- One response burst of a bounding run as received (R151, R152): its 32 chips, first chip in bit 31, the time counter at
the last chip of the challenge at UTX and at the first chip of the response at UA1. -/
structure BoundRound where
  /-- received chips. Width: 32. -/
  chips : Nat
  /-- time counter at the last chip of the challenge. Width: 40. -/
  sent : Nat
  /-- time counter at the first chip of the response. Width: 40. -/
  heard : Nat
  deriving DecidableEq, Repr

/-- The physical outcomes of a start sequence (R373, R402): what the model does not compute. The first three verification
results are those of the images as delivered, whose bytes the spec does not give; an image written through ring 10 is verified
by computation. The bundle and role results apply to whatever image stands in flash. -/
structure StartResult where
  /-- loader copy 0, as delivered, verifies (R373 step 1) -/
  loader0 : Bool
  /-- loader copy 1, as delivered, verifies (R373 step 1) -/
  loader1 : Bool
  /-- the main image as delivered verifies (R373 step 2) -/
  main : Bool
  /-- its bundle signature verifies (R373 step 3) -/
  bundle : Bool
  /-- its role sections match their manifest digests (R373 step 4) -/
  roles : Bool
  /-- the key slots, counters and ceilings can be restored (R402 step 6, R410) -/
  restored : Bool
  /-- the AES known-answer tests pass (R402 step 6) -/
  knownAnswers : Bool
  /-- mask of the engines 0-14 that come out of reset (R402 step 7) -/
  engines : Nat
  /-- MiB of xSPI RAM found, 0 for none (R310, R436) -/
  xspi : Nat
  /-- mask of the calibrations of R136 that fail twice (R123) -/
  calFailed : Nat
  /-- swing at XI38 when reset is released, mV peak to peak (R432) -/
  swing38 : Nat
  /-- the NVWP pin is low (R365, R420) -/
  nvwp : Bool := false
  /-- sector headers of the store that read otherwise than they were programmed: area, sector, 16 bytes (R350, R363) -/
  headers : List (Nat × Nat × Bytes) := []
  /-- places in the store of records whose header check fails as they read (R353) -/
  badHeads : List Nat := []
  /-- places in the store of records whose CRC-32 fails as they read (R353) -/
  badData : List Nat := []
  /-- the first die temperature sample, which the start takes, 0.1 °C (R414) -/
  temp : Int := 250
  deriving DecidableEq, Repr

/-- A block as a Gaten receiver took it (R284, R285): what stood between K27.7 and K29.7. -/
structure LinkBlock where
  /-- tag byte. Width: 8. -/
  tag : Byte
  /-- data bytes. Width: 1-256 bytes where the rules are kept. -/
  data : Bytes
  /-- code violations seen inside the block. Width: 16. -/
  violations : Nat
  deriving DecidableEq, Repr

/-- The commands and events, by family. An operand with a value given has that value where a sender says no more. -/
inductive Instr where
  /-- REGISTER_WRITE (R5): a host write of `value` to the register at BAR0 offset `off`. -/
  | registerWrite (off value : Nat)
  /-- PROFILE_WRITE (R21): a host write of `value` to SYS_PROFILE.PROFILE. -/
  | profileWrite (value : Nat)
  /-- POLL_CYCLE_BOUNDARY (R25): an instant with a write, record or profile selection waiting while no wake pattern can start. -/
  | pollCycleBoundary
  /-- WAKE_PATTERN_START (R26): a wake pattern falls due; VLF stands at `vlf` mV. -/
  | wakePatternStart (vlf : Nat)
  /-- DUTY_TICK (R64): a 1 ms tick boundary with an emission due. -/
  | dutyTick
  /-- VLF_LOW_RETEST (R52): a 1 ms tick with a pattern or coil action held for VLF; VLF stands at `vlf` mV. -/
  | vlfLowRetest (vlf : Nat)
  /-- VLF_COLLAPSE (R52): VLF falls below 6.0 V during a pattern. -/
  | vlfCollapse (vlf : Nat)
  /-- BRIDGE_OVERCURRENT (R53): a leg of the channel's bridge exceeds 2.2 A; `toVlf` says which leg tripped. -/
  | bridgeOvercurrent (chan : Nat) (toVlf : Bool)
  /-- WAKE_PATTERN_END (R28): the last bit ends; resonance estimates (10 Hz units) and loop currents (mA) measured on the pattern's two channels. -/
  | wakePatternEnd (estA estB loopA loopB : Nat)
  /-- LF_START_WAIT_END (R65): 1.000 s has passed since the LF island started. -/
  | lfStartWaitEnd
  /-- LF_DIAG_PERIOD (R67): LF_DIAG.PERIOD has passed. -/
  | lfDiagPeriod
  /-- DIAG_NOW (R67): a write of 1 to LF_CTRL.DIAG_NOW. -/
  | diagNow
  /-- LF_REARM (R68): a write of 1 to the channel's bit of LF_CTRL.REARM. -/
  | lfRearm (chan : Nat)
  /-- LF_DIAG_BURST_END (R68): the channel's burst ends: overcurrent trip, burst current (mA) and resonance (10 Hz units). -/
  | lfDiagBurstEnd (chan : Nat) (trip : Bool) (current resonance : Nat)
  /-- ANNOUNCE_WINDOW_OPEN (R30): 0.500 ms have passed since the last bit of the wake pattern. -/
  | announceWindowOpen
  /-- SLOT_EMPTY_CLOSE (R30): no carrier has been detected in the slot's first 120 µs. -/
  | slotEmptyClose
  /-- SLOT_GUARD_END (R30): 40 µs have passed since the occupied slot's announce ended. -/
  | slotGuardEnd
  /-- ANNOUNCE_FRAME (R32): an announce ends: its RSSI in dBm and its 31 bytes after preamble and sync word. -/
  | announceFrame (rssi : Int) (frame : Bytes)
  /-- CHALLENGE_TURN (R34): the next challenge is due; the sub-GHz synthesiser is locked at once, or not. -/
  | challengeTurn (ctx : Nat) (lock : Bool)
  /-- RESPONSE_FRAME (R35): the response has ended; its start in 10 ns units after the last challenge bit left SG_RFOUT, its RSSI in dBm, its 10 bytes after preamble and sync word, and whether it was completed. -/
  | responseFrame (start10ns : Nat) (rssi : Int) (frame : Bytes) (complete : Bool)
  /-- RESPONSE_TIMEOUT (R34): no response has begun 1.500 ms after the challenge ended. -/
  | responseTimeout
  /-- UWB_ROUND_START (R37): the next UWB round is due: µs since the grant and COEX_REQ rose, time counter at the poll's RMARKER. -/
  | uwbRoundStart (sinceGrant sinceReq counter : Nat)
  /-- RANGE_GRANT_TIMEOUT (R38): 5.000 ms have passed since the context reached KEYED without a grant. -/
  | rangeGrantTimeout (ctx : Nat)
  /-- UWB_RESPONSE_FRAME (R145): the response frame: time counter at its RMARKER, carrier phase of each chain in 1/65,536 turn (none where FULL finds no first path), clock offset estimate in 0.01 ppm. -/
  | uwbResponseFrame (counter : Nat) (phases : List (Option Nat)) (offset : Int)
  /-- UWB_FINAL_TX (R118): the final's scheduled instant with the synthesiser locked: time counter at its RMARKER. -/
  | uwbFinalTx (counter : Nat)
  /-- UWB_REPORT_FRAME (R144): the report frame's 20 payload bytes. -/
  | uwbReportFrame (payload : Bytes)
  /-- UWB_RX_WINDOW_END (R117): the receive window ends without a frame. -/
  | uwbRxWindowEnd
  /-- UWB_LOCK_LOSS (R117): the UWB synthesiser loses lock. -/
  | uwbLockLoss
  /-- UWB_TX_WAIT_EXPIRY (R118): a frame held for lock has passed its scheduled instant. -/
  | uwbTxWaitExpiry
  /-- BOUNDING_RUN_COMPLETE (R154): the run's last round: each response burst as received, none where no burst came. -/
  | boundingRunComplete (rounds : List (Option BoundRound))
  /-- FUSION_COMPLETE (R158): SE6 finishes the context's fusion and decision. -/
  | fusionComplete (ctx : Nat)
  /-- GRANT_ANSWER_TIMEOUT (R41): 5.000 ms have passed since the request on this group bit of a context (16 for the transponder's) without an answer. -/
  | grantAnswerTimeout (ctx group : Nat)
  /-- RELEASE_LATCH_TAKEN (R232): the KEEP latch takes the group's request. -/
  | releaseLatchTaken (group : Nat)
  /-- COIL_POLL_START (R89): a coil poll falls due, or the coil is free for the next waiting job; VLF stands at `vlf` mV. -/
  | coilPollStart (vlf : Nat)
  /-- COIL_SETTLE_END (R74): the settle interval ends; 1 ms after turn-on the coil read this peak current (mA), its phase within 30° or not, the loop at full bridge duty or not. -/
  | coilSettleEnd (current : Nat) (phaseOk fullDuty : Bool)
  /-- COIL_OVERCURRENT (R74): a leg of the coil bridge exceeds 400 mA. -/
  | coilOvercurrent
  /-- COIL_VLF_COLLAPSE (R73): VLF falls below 6.0 V with the field on. -/
  | coilVlfCollapse
  /-- WALK_REPLY (R86): a WALK reply beginning `start` LF cycles after the EOF cell, each bit as the load levels of its two half-bits (true is loaded). -/
  | walkReply (start : Nat) (halves : List (Bool × Bool))
  /-- SELECTED_REPLY (R90): a reply to SELECT: start in LF cycles, coil peak current (mA), reply bytes from the type to the CRC. -/
  | selectedReply (start current : Nat) (frame : Bytes)
  /-- NONCE_REPLY (R81): a reply to GET_NONCE, operands as for selectedReply. -/
  | nonceReply (start current : Nat) (frame : Bytes)
  /-- AUTH_REPLY (R83): a completed reply to AUTH, operands as for selectedReply. -/
  | authReply (start current : Nat) (frame : Bytes)
  /-- PASSWORD_REPLY (R84): a completed reply to PASSWORD, operands as for selectedReply. -/
  | passwordReply (start current : Nat) (frame : Bytes)
  /-- SECURED_REPLY (R82): a reply to a secured request, operands as for selectedReply. -/
  | securedReply (start current : Nat) (frame : Bytes)
  /-- TPX_REPLY_MISSING (R79): the expected reply has not started, or was not completed; `sentInFull` says whether the request's EOF cell had ended. -/
  | tpxReplyMissing (current : Nat) (sentInFull : Bool)
  /-- TPX_REARM (R74): a write of 1 to TPX_CTRL.REARM. -/
  | tpxRearm
  /-- TPX_REPORT_BUFFER (R99): ring 4 REPORT_BUFFER. -/
  | tpxReportBuffer (tag : Nat)
  /-- POLL_NOW (R99): ring 4 POLL_NOW. -/
  | pollNow (tag : Nat)
  /-- INVENTORY (R99): ring 4 INVENTORY. -/
  | inventory (tag : Nat)
  /-- READ_BLOCK (R99): ring 4 READ_BLOCK. -/
  | readBlock (tag : Nat)
  /-- WRITE_BLOCK (R96): ring 4 WRITE_BLOCK with its 16 bytes. -/
  | writeBlock (tag : Nat) (data : Bytes)
  /-- SGR_SYNTH_LOCK (R105): the sub-GHz synthesiser locks. -/
  | sgrSynthLock
  /-- SGR_LOCK_LOSS (R107): the sub-GHz synthesiser loses lock. -/
  | sgrLockLoss
  /-- SGR_TX_WAIT_EXPIRY (R106): TX_WAIT_MAX has passed since the held transmit request. -/
  | sgrTxWaitExpiry
  /-- SGR_TX_END (R108): the switch sequence after the last transmitted bit ends. -/
  | sgrTxEnd
  /-- SGR_PACKET_RECEIVED (R136): a whole packet is received for a ring 5 RX_PACKET: its RSSI in dBm and the bytes after its sync word. -/
  | sgrPacketReceived (rssi : Int) (frame : Bytes)
  /-- SGR_RX_TIMEOUT (R137): the timeout of a ring 5 RX_PACKET runs out. -/
  | sgrRxTimeout
  /-- RSSI_MEASURE_END (R136): the measuring time of a ring 5 RSSI ends with this mean, dBm. -/
  | rssiMeasureEnd (mean : Int)
  /-- TEMPERATURE_SAMPLE (R414): SE13 samples the die temperature, 0.1 °C. -/
  | temperatureSample (tenths : Int)
  /-- QUIET_SLOT_TASK (R413): the next scheduled task's quiet slot comes; the operands are the static test of an LF diagnostic: leakage below 100 Ω to ground, to VLF. -/
  | quietSlotTask (leakGnd leakVlf : Bool)
  /-- TASK_DEADLINE_PREEMPT (R413): the next scheduled task's deadline passes; operands as for quietSlotTask. -/
  | taskDeadlinePreempt (leakGnd leakVlf : Bool)
  /-- SPARE_MEMORY_TEST (R413): the daily spare memory test ends. -/
  | spareMemoryTest (pass : Bool)
  /-- CAL_BLOCK_END (R121): the calibration block ends; `failed` is the mask of the calibrations that failed their own check. -/
  | calBlockEnd (failed : Nat)
  /-- OSC_MEASURE_END (R122): 32,768 KEEP cycles have been counted as `count` cycles of the 38.4 MHz clock. -/
  | oscMeasureEnd (count : Nat)
  /-- COEX_GRANT_CHANGE (R126): the COEX_GRANT pin takes this level. -/
  | coexGrantChange (level : Bool)
  /-- COEX_WAIT_EXPIRY (R127): a ring 5 transmission has waited SGR_COEX.WAIT. -/
  | coexWaitExpiry
  /-- TX_PACKET (R136): ring 5 TX_PACKET with its bytes. -/
  | txPacket (tag : Nat) (data : Bytes)
  /-- RX_PACKET (R136): ring 5 RX_PACKET. -/
  | rxPacket (tag : Nat)
  /-- CALIBRATE (R136): ring 5 CALIBRATE. -/
  | calibrate (tag : Nat)
  /-- REGREC_READ (R136): ring 5 REGREC_READ. -/
  | regrecRead (tag : Nat)
  /-- REGREC_WRITE (R130): ring 5 REGREC_WRITE with its 72 bytes. -/
  | regrecWrite (tag : Nat) (data : Bytes)
  /-- RSSI (R136): ring 5 RSSI. -/
  | rssi (tag : Nat)
  /-- PRX_REPORT_BUFFER (R163): ring 3 REPORT_BUFFER. -/
  | prxReportBuffer (tag : Nat)
  /-- TEST_POINT (R163): ring 3 TEST_POINT. -/
  | testPoint (tag : Nat)
  /-- ENCRYPT (R173): ring 7 ENCRYPT with the buffer's bytes. -/
  | encrypt (tag : Nat) (data : Bytes)
  /-- DECRYPT (R172): ring 7 DECRYPT with the buffer's bytes and the 32-byte side block. -/
  | decrypt (tag : Nat) (data side : Bytes)
  /-- MAC (R173): ring 7 MAC with the buffer's bytes. -/
  | mac (tag : Nat) (data : Bytes)
  /-- NONCE (R196): ring 7 NONCE. -/
  | nonce (tag : Nat)
  /-- COUNTER (R180): ring 7 COUNTER. -/
  | counter (tag : Nat)
  /-- PRIVET_REMASK (R188): the next slot's re-masking falls due. -/
  | privetRemask
  /-- DRBG_RESEED (R177): a reseed falls due and starts (false), or the reseed in progress ends (true). -/
  | drbgReseed (end_ : Bool)
  /-- ENTROPY_WINDOW_END (R179): a window of 1,024 raw bits has been produced and is tested: its first bit and the 1,023 that
  follow. -/
  | entropyWindowEnd (first : Bool) (rest : List Bool)
  /-- TRNG_STARTUP_TEST_END (R178): the start-up test over the 4,096 raw bits, first first, ends. -/
  | trngStartupTestEnd (bits : List Bool)
  /-- LOAD_CLEAR (R190): ring 8 LOAD_CLEAR with its 32 bytes. -/
  | loadClear (tag : Nat) (data : Bytes)
  /-- LOAD_WRAPPED (R190): ring 8 LOAD_WRAPPED with its 40 bytes. -/
  | loadWrapped (tag : Nat) (data : Bytes)
  /-- DERIVE (R190): ring 8 DERIVE with its context. -/
  | derive (tag : Nat) (data : Bytes)
  /-- ERASE (R190): ring 8 ERASE. -/
  | erase (tag : Nat)
  /-- NARROW (R190): ring 8 NARROW. -/
  | narrow (tag : Nat)
  /-- ATTEST (R195): ring 8 ATTEST. -/
  | attest (tag : Nat)
  /-- LC_NONCE (R193): ring 8 LC_NONCE. -/
  | lcNonce (tag : Nat)
  /-- LC_NONCE_EXPIRY (R193): 60 s have passed since the life-cycle nonce was issued. -/
  | lcNonceExpiry
  /-- LC_ADVANCE (R192): ring 8 LC_ADVANCE with its authorisation. -/
  | lcAdvance (tag : Nat) (data : Bytes)
  /-- ENROLL (R215): ring 2 ENROLL with its 32-byte entry. -/
  | enroll (tag : Nat) (data : Bytes)
  /-- REVOKE (R216): ring 2 REVOKE. -/
  | revoke (tag : Nat)
  /-- READ_SLOT (R227): ring 2 READ_SLOT. -/
  | readSlot (tag : Nat)
  /-- FIND (R227): ring 2 FIND. -/
  | find (tag : Nat)
  /-- LEARN_BEGIN (R217): ring 2 LEARN_BEGIN. -/
  | learnBegin (tag : Nat)
  /-- LEARN_ENTRIES (R217): ring 2 LEARN_ENTRIES with its entries. -/
  | learnEntries (tag : Nat) (data : Bytes)
  /-- LEARN_COMMIT (R217): ring 2 LEARN_COMMIT with its 32-byte digest. -/
  | learnCommit (tag : Nat) (data : Bytes)
  /-- LEARN_CANCEL (R217): ring 2 LEARN_CANCEL. -/
  | learnCancel (tag : Nat)
  /-- UNLOCK (R225): ring 2 UNLOCK. -/
  | unlock (tag : Nat)
  /-- DIGEST (R227): ring 2 DIGEST. -/
  | digest (tag : Nat)
  /-- LEARNED_SET_EFFECTIVE (R218): the RTC reaches the effective time of the committed set. -/
  | learnedSetEffective
  /-- LOCKOUT_END (R221): the RTC reaches the slot's LOCK_END. -/
  | lockoutEnd (slot : Nat)
  /-- UNKNOWN_LOCKOUT_END (R223): the lock of R223 ends. -/
  | unknownLockoutEnd
  /-- LOCKOUT_CHECKPOINT (R224): changed lock-out state falls due to be checkpointed, or retried. -/
  | lockoutCheckpoint
  /-- SESSION_TIMEOUT (R243): a KEEP tick falls at or after the deadline of the session in this table entry. -/
  | sessionTimeout (entry : Nat)
  /-- AUX_ADC_FRAME (R270): an auxiliary ADC frame converts DOOR0-3, RB0-1 and the two AUX pins in turn. -/
  | auxAdcFrame (doors rb aux : List Nat)
  /-- READBACK_TIMEOUT (R234): RBg has not matched its group for REL_RB.TIMEOUT. -/
  | readbackTimeout (group : Nat)
  /-- HOLD_SAMPLE (R246): a block of 80 decimator outputs is complete. -/
  | holdSample
  /-- HOLD_MAXTIME_EXPIRY (R246): the hold of the session in this entry reaches REL_HOLD.MAXTIME. -/
  | holdMaxtimeExpiry (entry : Nat)
  /-- QUEUE_WAIT_EXPIRY (R242): the queued request at this place has waited QWAIT. -/
  | queueWaitExpiry (place : Nat)
  /-- FAULT_GRACE_EXPIRY (R253): the fault grace time ends. -/
  | faultGraceExpiry
  /-- SESSION_CEILING_COMMIT (R240): SE12 comes to the session-number ceiling record; the supply check passes or not. -/
  | sessionCeilingCommit (suppliesOk : Bool) (verifyOk : Bool := true)
  /-- RELEASE_GRANT (R249): a RELEASE_GRANT frame arrives at P0. -/
  | releaseGrant (src dst seq : Nat) (payload : Bytes)
  /-- GRANT_ANSWER (R248): a GRANT_ANSWER frame arrives at P0. -/
  | grantAnswer (src dst seq : Nat) (payload : Bytes)
  /-- SESSION_END (R250): a SESSION_END frame arrives at P0. -/
  | sessionEnd (src dst seq : Nat) (payload : Bytes)
  /-- EVENT_BUFFER (R254): ring 1 EVENT_BUFFER. -/
  | eventBuffer (tag : Nat)
  /-- LIST (R255): ring 1 LIST. -/
  | list (tag : Nat)
  /-- END (R254): ring 1 END. -/
  | endSession (tag : Nat)
  /-- END_GROUP (R254): ring 1 END_GROUP. -/
  | endGroup (tag : Nat)
  /-- SET_DEADLINE (R254): ring 1 SET_DEADLINE. -/
  | setDeadline (tag : Nat)
  /-- END_REMOTE (R254): ring 1 END_REMOTE. -/
  | endRemote (tag : Nat)
  /-- GROUP_DISABLE (R256): a host write of 0 to REL_GROUPg.EN. -/
  | groupDisable (group : Nat)
  /-- DECIMATOR_RESULT (R264): the four channels deliver 24-bit results; `still` says which inputs have shown no transition for 256 cycles. -/
  | decimatorResult (codes : List Int) (still : List Bool)
  /-- CHANNEL_USABLE_RETURN (R260): the channel has given 1 s of clean results. -/
  | channelUsableReturn (chan : Nat)
  /-- XCHK_WINDOW_END (R268): MTR_XCHK.WINDOW seconds of results have passed. -/
  | xchkWindowEnd
  /-- METER_CHECKPOINT (R267): 10 s have passed since the last checkpoint with something changed, or a deferred one is retried. -/
  | meterCheckpoint
  /-- METER_SETTINGS_APPLY (R261): an instant with no session OPEN or HOLDING while settings wait. -/
  | meterSettingsApply
  /-- RECEIPT_FORMED (R271): SE9 forms the oldest due receipt. -/
  | receiptFormed
  /-- RECEIPT_COMMITTED (R274): SE12 comes to the receipt at the head of its queue. -/
  | receiptCommitted (suppliesOk verifyOk : Bool)
  /-- RECEIPT_COMMIT_RETRY (R274): a receipt commit deferred under the supply check is retried. -/
  | receiptCommitRetry
  /-- RECEIPT_KEY_USABLE (R273): the RECEIPT slot has become usable. -/
  | receiptKeyUsable
  /-- RECEIPT_BUFFER (R275): ring 6 RECEIPT_BUFFER. -/
  | receiptBuffer (tag : Nat)
  /-- ACK (R274): ring 6 ACK. -/
  | ack (tag : Nat)
  /-- READ_RECEIPT (R279): ring 6 READ_RECEIPT. -/
  | readReceipt (tag : Nat)
  /-- COUNTERS (R279): ring 6 COUNTERS. -/
  | counters (tag : Nat)
  /-- ROLL_NONCE (R278): ring 6 ROLL_NONCE. -/
  | rollNonce (tag : Nat)
  /-- ROLL_NONCE_EXPIRY (R278): 60 s have passed since the roll nonce was issued. -/
  | rollNonceExpiry
  /-- ROLLOVER (R278): ring 6 ROLLOVER with its authorisation. -/
  | rollover (tag : Nat) (data : Bytes)
  /-- COUNTER_LO_READ (R282): a host read of the _LO register of lifetime counter 0 IMP, 1 EXP, 2 CHIN, 3 CHOUT. -/
  | counterLoRead (counter : Nat)
  /-- LINK_LOSS (R286): the receiver of port 0 E, 1 W, 2 A, 3 B declares loss of link, with `codes` code violations seen. -/
  | linkLoss (port codes : Nat)
  /-- HELLO (R287): a HELLO frame arrives on the port. -/
  | hello (port : Nat) (frame : Bytes)
  /-- HELLO_TIMEOUT (R287): HELLO has timed out for 1 ms on the port. -/
  | helloTimeout (port : Nat)
  /-- IDLE_SEQUENCE_RUN (R287): the port's receiver has taken 1,024 consecutive idle sequences without error. -/
  | idleSequenceRun (port : Nat)
  /-- HELLO_SEND (R287): 100 µs have passed since the port's last HELLO. -/
  | helloSend (port : Nat)
  /-- JOIN_REQ_RETRY (R289): 10 ms have passed since the last unanswered JOIN_REQ. -/
  | joinReqRetry
  /-- JOIN_REQ (R289): the head receives a JOIN_REQ frame. -/
  | joinReq (port : Nat) (frame : Bytes)
  /-- JOIN_ANSWER (R289): a device receives a JOIN_ANSWER frame. -/
  | joinAnswer (port : Nat) (frame : Bytes)
  /-- ADDR_FULL_RETRY (R289): 10 s have passed since the answer ADDR_FULL. -/
  | addrFullRetry
  /-- LEAVE (R290): the head receives a LEAVE frame. -/
  | leave (port : Nat) (frame : Bytes)
  /-- POSITION_LEAVE_TIMEOUT (R290): the position has been unreachable for FAB_HOLD.LEAVE. -/
  | positionLeaveTimeout (pos : Nat)
  /-- TIME_SYNC_SEND (R292): 10 ms have passed since the source's last TIME_SYNC. -/
  | timeSyncSend
  /-- TIME_SYNC (R292): a TIME_SYNC frame arrives; own residence time in µs. -/
  | timeSync (port residence : Nat) (frame : Bytes)
  /-- TIME_SYNC_LOSS (R292): no TIME_SYNC has arrived for 100 ms. -/
  | timeSyncLoss
  /-- FRAME_RECEIVED (R299): a whole frame arrives on port 0 E, 1 W, 2 A, 3 B, as the blocks of one class that
  carried it: the first and those that follow. -/
  | frameReceived (port : Nat) (first : LinkBlock) (rest : List LinkBlock)
  /-- FRAME_SENT (R303): the last block of the first frame of output `out` (0 P0, 1 P1, 2 E, 3 W, 4 A, 5 B) in class `cls` has been sent. -/
  | frameSent (out cls : Nat)
  /-- SPILL_READBACK (R300): the first spilled frame of the queue is read back from the xSPI RAM. -/
  | spillReadback (out cls : Nat) (corrupt : Bool)
  /-- PORT_EVENT (R304): the head receives a PORT_EVENT frame. -/
  | portEvent (port : Nat) (frame : Bytes)
  /-- PREPARE (R304): a device receives a PREPARE frame. -/
  | prepare (port : Nat) (frame : Bytes)
  /-- READY (R304): the head receives a READY frame. -/
  | ready (port : Nat) (frame : Bytes)
  /-- FLIP (R304): a device receives a FLIP frame. -/
  | flip (port : Nat) (frame : Bytes)
  /-- RETIRED (R304): the head receives a RETIRED frame. -/
  | retired (port : Nat) (frame : Bytes)
  /-- CANCEL (R304): a device receives a CANCEL frame. -/
  | cancel (port : Nat) (frame : Bytes)
  /-- READY_TIMEOUT (R304): 10 ms have passed since PREPARE with a READY missing. -/
  | readyTimeout
  /-- RETIRE_TIMEOUT (R304): 100 ms have passed since FLIP. -/
  | retireTimeout
  /-- UPDATE_REPEAT (R304): 100 ms have passed since the CANCEL. -/
  | updateRepeat
  /-- UPDATE_HOLDOFF_END (R304): 200 µs have passed since the update completed. -/
  | updateHoldoffEnd
  /-- HOLD_TIME_EXPIRY (R305): FAB_HOLD.TIME has passed since the port went down. -/
  | holdTimeExpiry (port : Nat)
  /-- ASLEEP_HOLD_EXPIRY (R309): 5.0 ms have passed for frames held for an asleep port. -/
  | asleepHoldExpiry (port : Nat)
  /-- WAKE_SEQUENCE (R309): a wake sequence arrives on the port. -/
  | wakeSequence (port : Nat)
  /-- SEG_ADVERT_SEND (R308): 100 ms have passed since the last SEG_ADVERT, or a change calls for one. -/
  | segAdvertSend
  /-- SEG_ADVERT (R308): a SEG_ADVERT frame arrives. -/
  | segAdvert (port : Nat) (frame : Bytes)
  /-- REJOIN (R310): a write of 1 to FAB_CTRL.REJOIN. -/
  | rejoin
  /-- FAB_TIME_LO_READ (R310): a host read of FAB_TIME_LO. -/
  | fabTimeLoRead
  /-- UWB_TIME_LO_READ (R140): a host read of UWB_TIME_LO. -/
  | uwbTimeLoRead
  /-- SEND (R342): ring 12 SEND with its host data. -/
  | send (tag : Nat) (data : Bytes)
  /-- RECV_BUFFER (R342): ring 12 RECV_BUFFER. -/
  | recvBuffer (tag : Nat)
  /-- PEER_MESSAGE (R342): a peer message arrives at P0. -/
  | peerMessage (src seq time channel : Nat) (multicast : Bool) (data : Bytes)
  /-- PCIE_RESET (R314): PERST_N, or a function level reset. -/
  | pcieReset
  /-- SQ_TAIL (R318): a host write to the SQ_TAIL doorbell of a position's ring;
  `word` says that it is an aligned 32-bit write. -/
  | sqTail (pos ring value : Nat) (word : Bool := true)
  /-- CQ_HEAD (R318): a host write to the CQ_HEAD doorbell of a position's ring;
  `word` says that it is an aligned 32-bit write. -/
  | cqHead (pos ring value : Nat) (word : Bool := true)
  /-- DESCRIPTOR_FETCH (R319): the ring's server fetches the 32 descriptor bytes at its head. `nvwp` is the level of
  the NVWP pin, true for low, where it has changed by then (R365). -/
  | descriptorFetch (ring : Nat) (bytes : Bytes) (nvwp : Option Bool := none)
  /-- NOP (R316): the outstanding NOP with this tag is executed. -/
  | nop (ring tag : Nat)
  /-- ABORT (R323): the outstanding ABORT with this tag is decided. -/
  | abort (ring tag : Nat)
  /-- PCIE_DMA_ERROR (R322): an access of the ring on the PCIe link fails: kind 0 a descriptor fetch, 1 a completion write, 2 the host buffer of the outstanding command with this tag. -/
  | pcieDmaError (ring kind tag : Nat)
  /-- INTERRUPT_COALESCE_EXPIRY (R321): RING_COAL.TIME has passed since the first counted completion. -/
  | interruptCoalesceExpiry (ring : Nat)
  /-- RING_ENABLE (R347): a host write of 1 to the ring's ENABLE. -/
  | ringEnable (ring : Nat)
  /-- RING_DISABLE (R347): a host write of 0 to the ring's ENABLE. -/
  | ringDisable (ring : Nat)
  /-- RING_DRAINED (R347): no descriptor of the draining ring is outstanding. -/
  | ringDrained (ring : Nat)
  /-- BAR4_ACCESS (R313): a BAR4 access at position `pos`, register offset `off`. -/
  | bar4Access (pos off : Nat) (write : Bool) (value : Nat)
  /-- DOORBELL (R325): a DOORBELL frame arrives: kind 0 SQ_TAIL, 1 CQ_HEAD. -/
  | doorbell (seq ack ring kind value : Nat)
  /-- READ_REQ (R329): a READ_REQ frame arrives; the host memory answers `data`, or the read fails. -/
  | readReq (pos seq ack ring req len addr : Nat) (failed : Bool) (data : Bytes)
  /-- READ_DATA (R325): a READ_DATA frame arrives. -/
  | readData (seq ack ring req : Nat) (failed : Bool) (data : Bytes)
  /-- PROXY_WRITE (R329): a WRITE frame arrives; `failed` says that the host write fails. -/
  | proxyWrite (pos seq ack ring addr : Nat) (data : Bytes) (failed : Bool := false)
  /-- INTERRUPT (R329): an INTERRUPT frame arrives. -/
  | interrupt (pos seq ack ring vector : Nat)
  /-- REG_WRITE (R325): a REG_WRITE frame arrives. -/
  | regWrite (seq ack off value : Nat)
  /-- REG_READ (R325): a REG_READ frame arrives. -/
  | regRead (seq ack req off : Nat)
  /-- REG_DATA (R328): a REG_DATA frame arrives. -/
  | regData (pos seq ack req value : Nat)
  /-- PROXY_ACK (R326): an ACK frame, or the acknowledgement of another frame, arrives from `pos` in class `cls`. -/
  | proxyAck (pos cls ack : Nat)
  /-- PROXY_RTO_EXPIRY (R326): no acknowledgement has advanced on the link within RTO (or 100 ms once LOST). -/
  | proxyRtoExpiry (pos cls : Nat)
  /-- REGWAIT_EXPIRY (R328): the BAR4 read's REG_DATA has not arrived within REGWAIT. -/
  | regwaitExpiry (req : Nat)
  /-- CONFIG_APPLY (R334): ring 0 CONFIG_APPLY with the blob read from host memory. -/
  | configApply (tag : Nat) (data : Bytes)
  /-- CONFIG_EXPORT (R337): ring 0 CONFIG_EXPORT. -/
  | configExport (tag : Nat)
  /-- AUDIT_READ (R341): ring 0 AUDIT_READ. -/
  | auditRead (tag : Nat)
  /-- CONFIG_SAVE (R336): the configuration record falls due to be rewritten, or retried; `nvwp` as for DESCRIPTOR_FETCH. -/
  | configSave (nvwp : Option Bool := none)
  /-- AUDIT_COMMIT (R339): waiting audit entries fall due to be committed. -/
  | auditCommit
  /-- POST (R344): ring 15 POST with its host data. -/
  | post (tag : Nat) (data : Bytes)
  /-- MAILBOX_RECV_BUFFER (R344): ring 15 RECV_BUFFER. -/
  | mailboxRecvBuffer (tag : Nat)
  /-- APP_MESSAGE (R344): the firmware sends a message to the host. -/
  | appMessage (channel : Nat) (data : Bytes)
  /-- RECORD_WRITE_DONE (R352): SE12 finishes its next record; the supply check and the read-back of R352 went as the operands say. -/
  | recordWriteDone (suppliesOk verifyOk : Bool)
  /-- SECTOR_ERASE_DONE (R350): a sector erase of the area completes; `blank` says every byte reads 0xFF, and
  `suppliesOk` how the supply check before it went (R360). -/
  | sectorEraseDone (area : Nat) (blank : Bool) (suppliesOk : Bool := true)
  /-- VHOLD_READY (R360): VHOLD reaches 4.5 V, `riseUs` after it left 0.5 V. -/
  | vholdReady (riseUs : Nat)
  /-- MAIN_SUPPLY_FAILURE (R405): a supply (0 VDD_CORE, 1 VDD_IO, 2 VDD_ANA, 3 VDD_RF) has stood at `mv` mV for 10 µs; HOLD energy lets SE12 begin
  `finalRecords` records. Those at the places `unread` do not read back at first (R352). `flash` is what of an area's sector headers
  was cut (R363): the area, and 0 formatting, 1 IN_USE, 2 FULL, 3 the ERASING mark, 4 the erase. -/
  | mainSupplyFailure (vdd finalRecords : Nat) (mv : Nat := 0) (cut : Option Nat := none) (flash : Option (Nat × Nat) := none) (unread : List Nat := [])
  /-- SCRUB_PERIOD (R366): the periodic scrub pass ends; `weak` lists the places in the store of the records found weak, `headers`
  the sectors with a weak header, `unread` the places whose copy does not read back at first (R352). -/
  | scrubPeriod (weak : List Nat) (headers : List (Nat × Nat) := []) (suppliesOk : Bool := true) (unread : List Nat := [])
  /-- READ (R368): ring 9 READ. -/
  | read (tag : Nat)
  /-- WRITE (R368): ring 9 WRITE with its host data. -/
  | write (tag : Nat) (data : Bytes)
  /-- DELETE (R368): ring 9 DELETE. -/
  | delete (tag : Nat)
  /-- HOST_RECORD_LIST (R368): ring 9 LIST. -/
  | hostRecordList (tag : Nat)
  /-- WEAR (R368): ring 9 WEAR. -/
  | wear (tag : Nat)
  /-- SCRUB_NOW (R368): ring 9 SCRUB_NOW; the other operands are those of SCRUB_PERIOD. -/
  | scrubNow (tag : Nat) (weak : List Nat) (headers : List (Nat × Nat) := []) (suppliesOk : Bool := true) (unread : List Nat := [])
  /-- BEGIN (R374): ring 10 BEGIN with its 4,096-byte header, and what the supply check of R360 gives where only the header sector is left
  to program. -/
  | begin_ (tag : Nat) (data : Bytes) (suppliesOk : Bool := true)
  /-- CHUNK (R375): ring 10 CHUNK with its data; the supply check of R360 lets `sectors` of its sectors pass. -/
  | chunk (tag : Nat) (data : Bytes) (sectors : Nat)
  /-- CHUNK_DEFER_EXPIRY (R376): a sector of the chunk has been deferred for 1 s. -/
  | chunkDeferExpiry
  /-- ACTIVATE (R379): ring 10 ACTIVATE with 0 bytes or its blob; `bundleOk` says that the bundle signature verifies. -/
  | activate (tag : Nat) (data : Bytes) (bundleOk : Bool := true)
  /-- ROLE_HANDOVER_SWAP (R381): the old engine reaches its quiescent point; the role's section matches its manifest digest or not. -/
  | roleHandoverSwap (sectionOk : Bool)
  /-- APP_HANDOVER_POINT (R382): the running firmware calls its handover point. -/
  | appHandoverPoint
  /-- APP_WAIT_EXPIRY (R382): UPD_CTRL.APP_WAIT has passed since the load of the APP bank ended. -/
  | appWaitExpiry
  /-- RESTART (R390): ring 10 RESTART. -/
  | restart (tag : Nat)
  /-- EXPORT_ASSET (R386): ring 10 EXPORT_ASSET. -/
  | exportAsset (tag : Nat)
  /-- IMPORT_ASSET (R387): ring 10 IMPORT_ASSET with its record. -/
  | importAsset (tag : Nat) (data : Bytes) (suppliesOk : Bool)
  /-- SET_APPKEY (R390): ring 10 SET_APPKEY with its 64 bytes. -/
  | setAppkey (tag : Nat) (data : Bytes)
  /-- DEEP_AFTER_EXPIRY (R395): the idle conditions of R395 have held for DEEP_AFTER. -/
  | deepAfterExpiry
  /-- WAKE_SOURCE (R395): a wake source acts: 0 door crossing any code boundary, 1 door crossing the CLOSED–OPEN boundary, 2 fabric wake sequence, 3 RTC alarm, 4 PERST_N rising or a PCIe wake. -/
  | wakeSource (source : Nat)
  /-- SUPERVISION_EVENT_BUFFER (R416): ring 11 EVENT_BUFFER. -/
  | supervisionEventBuffer (tag : Nat)
  /-- SET_RTC (R400): ring 13 SET_RTC with its 0 or 16 bytes of authorisation. -/
  | setRtc (tag : Nat) (data : Bytes)
  /-- RTC_NONCE (R400): ring 13 RTC_NONCE. -/
  | rtcNonce (tag : Nat)
  /-- RTC_NONCE_EXPIRY (R400): 60 s have passed since the RTC nonce was issued. -/
  | rtcNonceExpiry
  /-- SELFTEST (R417): ring 13 SELFTEST. -/
  | selftest (tag : Nat)
  /-- PROD_TX (R417): ring 13 PROD_TX. -/
  | prodTx (tag : Nat)
  /-- PROD_TX_PERIOD (R417): the PROD_TX period passes. -/
  | prodTxPeriod
  /-- SCHEDULE (R417): ring 13 SCHEDULE. -/
  | schedule (tag : Nat)
  /-- MONITORS (R418): ring 14 MONITORS. -/
  | monitors (tag : Nat)
  /-- FAULTS (R418): ring 14 FAULTS. -/
  | faults (tag : Nat)
  /-- VBK_LOSS (R397): VBK falls to `mv` mV, below 2.0 V, while VDD_CORE is absent. -/
  | vbkLoss (mv : Nat := 0)
  /-- CLOCK_MONITOR_FLAG (R399): the monitor flags 0 the 38.4 MHz crystal or system PLL, 1 LF synthesiser, 2 RF synthesiser, 3 metrology PLL, 4 HOST PLL, 5 the 32.768 kHz crystal. -/
  | clockMonitorFlag (source : Nat)
  /-- XTAL32_RECOVER (R398): the 32.768 kHz crystal has run for 1 s. -/
  | xtal32Recover
  /-- POWER_ON_RESET (R401): VDD_CORE or VDD_IO rises through its reset threshold; VDD_IO samples at `vddIo` mV; VBK held the RTC;
  `levels` are VDD_CORE, VDD_ANA, VDD_RF, VLF, VBK and VHOLD in mV (R418). -/
  | powerOnReset (vddIo : Nat) (vbkHeld : Bool) (levels : List Nat := [800, 1800, 1800, 0, 3000, 0])
  /-- NRST (R401): NRST held low for at least 1 µs. -/
  | nrst
  /-- BROWN_OUT (R405): the failed supply crosses a threshold at `mv` mV: falls below its reset threshold, or has recovered for 1 ms. -/
  | brownOut (mv : Nat := 0)
  /-- PWR_RESTART (R412): a host write of 1 to PWR_CTRL.RESTART. -/
  | pwrRestart
  /-- AUTO_RESTART (R412): 1 s has passed since the grace time ended. -/
  | autoRestart
  /-- WATCHDOG_RESET (R401): SE13 has not reported to KEEP for 200 ms. -/
  | watchdogReset
  /-- START_SEQUENCE (R402): the start sequence runs to its end with these physical outcomes. -/
  | startSequence (r : StartResult)
  /-- ENGINE_CHECKPOINT (R11): an engine writes its state record. -/
  | engineCheckpoint (role : Nat)
  /-- ECC_ERROR (R406): an ECC error: memory 0 APP SRAM, 1 Sprig SRAM, 2 checkpoint area, 3 fabric cell, 4 key store; unit is the engine, frame place or slot. -/
  | eccError (memory unit : Nat) (double : Bool)
  /-- ENGINE_FAULT (R407): a Sprig engine fault is declared. -/
  | engineFault (role : Nat)
  /-- SPARE_TAKEOVER (R407): the spare ends loading the vacant role. -/
  | spareTakeover (loaded : Bool)
  /-- APP_FAULT (R409): an APP fault is declared. -/
  | appFault
  /-- RESEED_WAIT_EXPIRY (R179): a due reseed has waited 1.000 ms for a passing window. -/
  | reseedWaitExpiry
  /-- PCIE_LINK_UP (R311): the head's PCIe link comes up; the host sets the maximum read request. -/
  | pcieLinkUp (gen2 : Bool) (maxRead : Nat := 512)
  /-- PCIE_LINK_DOWN (R394): the head's PCIe link goes down. -/
  | pcieLinkDown
  /-- PCIE_POWER_STATE (R314): the host moves the function to D3hot, or to D0. -/
  | pciePowerState (d3hot : Bool)
  /-- MAILBOX_TAKE (R344): the firmware takes the oldest posted message. -/
  | mailboxTake
  /-- TAP_INSTRUCTION (R194): a test access port instruction: 0 BYPASS, 1 IDCODE, 2 SAMPLE/PRELOAD, 3 EXTEST, 4 Sehimbe debug access, other unsupported. -/
  | tapInstruction (instr : Nat)
  /-- BAD_ACCESS_READ (R312): an unaligned or non-32-bit BAR read, or, with `bar2Word`, an aligned 32-bit read of BAR2. -/
  | badAccessRead (bar2Word : Bool := false)
  deriving DecidableEq, Repr

end Sys2Proof
end

