-- ==== Sys2Proof/Machine/Bits.lean ====
section
/-! DEFINITION. Bit fields, byte order and saturating counts: the plain arithmetic every chapter shares (00_scope.md
R1 host byte order, R2 air and fabric byte order). -/
namespace Sys2Proof.Machine

/-- The `width`-bit field of `w` whose least significant bit is `lsb` (bit ranges are written [msb:lsb], 00_scope.md). -/
def bitField (w lsb width : Nat) : Nat := w / 2 ^ lsb % 2 ^ width

/-- `w` with the field at `lsb` of `width` bits replaced by `v`. -/
def setBitField (w lsb width v : Nat) : Nat :=
  w - bitField w lsb width * 2 ^ lsb + (v % 2 ^ width) * 2 ^ lsb

/-- Bit `n` of `w`. -/
def bitAt (w n : Nat) : Bool := w / 2 ^ n % 2 == 1

/-- A Bool as the bit the registers show. -/
def bit (b : Bool) : Nat := if b then 1 else 0

/-- The number with bit `n` of `w` set. -/
def setBit (w n : Nat) : Nat := if bitAt w n then w else w + 2 ^ n

/-- The number with bit `n` of `w` cleared. -/
def clearBit (w n : Nat) : Nat := if bitAt w n then w - 2 ^ n else w

/-- Every bit of `m` cleared in `w` (a W1C write of `m`, R4). -/
def clearBits (w m : Nat) : Nat := w - (w &&& m)

/-- How many of the low `n` bits of `w` are 1. -/
def popCount : Nat → Nat → Nat
  | 0, _ => 0
  | n + 1, w => w % 2 + popCount n (w / 2)

/-- The low `n` bytes of `w`, least significant byte first (R1, host structures). -/
def leBytes : Nat → Nat → Bytes
  | 0, _ => []
  | n + 1, w => BitVec.ofNat 8 w :: leBytes n (w / 256)

/-- The low `n` bytes of `w`, most significant byte first (R2, air, transponder link and fabric). -/
def beBytes (n w : Nat) : Bytes := (leBytes n w).reverse

/-- The number a little-endian byte string stands for (R1). -/
def leNat : Bytes → Nat
  | [] => 0
  | b :: bs => b.toNat + 256 * leNat bs

/-- The number a big-endian byte string stands for (R2). -/
def beNat (bs : Bytes) : Nat := leNat bs.reverse

/-- `len` bytes of `bs` from offset `off`. -/
def slice (bs : Bytes) (off len : Nat) : Bytes := (bs.drop off).take len

/-- Byte `i` of `bs`, 0 past its end. -/
def byteAt (bs : Bytes) (i : Nat) : Nat := (bs.getD i 0).toNat

/-- The little-endian number of `len` bytes at `off`. -/
def leAt (bs : Bytes) (off len : Nat) : Nat := leNat (slice bs off len)

/-- The big-endian number of `len` bytes at `off`. -/
def beAt (bs : Bytes) (off len : Nat) : Nat := beNat (slice bs off len)

/-- `n` zero bytes. -/
def zeroBytes (n : Nat) : Bytes := List.replicate n 0

/-- `bs` cut or zero-filled to exactly `n` bytes. -/
def padTo (n : Nat) (bs : Bytes) : Bytes := (bs ++ zeroBytes (n - bs.length)).take n

/-- Bytewise exclusive or of two strings, as long as the shorter. -/
def xorBytes (a b : Bytes) : Bytes := List.zipWith (· ^^^ ·) a b

/-- The signed value of a `w`-bit two's complement field. -/
def signed (w v : Nat) : Int := if v % 2 ^ w < 2 ^ (w - 1) then (v % 2 ^ w : Int) else (v % 2 ^ w : Int) - 2 ^ w

/-- The `w`-bit two's complement field that holds `v` (modulo 2^w). -/
def unsignedOf (w : Nat) (v : Int) : Nat := (v % (2 ^ w : Int)).toNat

/-- A count one higher that holds at the top of its `w`-bit field ("holds at 65,535"). -/
def satSucc (w v : Nat) : Nat := if v + 1 < 2 ^ w then v + 1 else 2 ^ w - 1

/-- `v` held at the top of a `w`-bit field. -/
def satTo (w v : Nat) : Nat := min v (2 ^ w - 1)

/-- The bytes cut into pieces of at most `n`, in order (`fuel` bounds the number of pieces). -/
def piecesFuel : Nat → Nat → Bytes → List Bytes
  | 0, _, _ => []
  | fuel + 1, n, bs => if bs.isEmpty then [] else bs.take n :: piecesFuel fuel n (bs.drop n)

/-- The bytes cut into pieces of at most `n`, in order. -/
def pieces (n : Nat) (bs : Bytes) : List Bytes := piecesFuel bs.length n bs

/-- Element `i` of a list, or `d`. -/
def nth {α : Type} (d : α) (l : List α) (i : Nat) : α := l.getD i d

/-- Replace the first element that satisfies `p` by its image under `f`; the others stay. -/
def updateFirst {α : Type} (p : α → Bool) (f : α → α) : List α → List α
  | [] => []
  | a :: l => if p a then f a :: l else a :: updateFirst p f l

/-- Remove the first element that satisfies `p`. -/
def removeFirst {α : Type} (p : α → Bool) : List α → List α
  | [] => []
  | a :: l => if p a then l else a :: removeFirst p l

/-- Division rounded half away from zero. -/
def divRound (a : Int) (b : Nat) : Int :=
  if 0 ≤ a then (2 * a + b) / (2 * b) else - ((2 * (-a) + b) / (2 * b))

end Sys2Proof.Machine
end

