-- ==== Sys2Proof/Machine/Crc.lean ====
section
/-! DEFINITION. The cyclic codes of the spec: CRC-8 of the radio frames (08_tokens_and_challenge.md), CRC-16 of the
transponder link and ring 5 (04 R78, 05 R139) and CRC-32 of the fabric, the blobs and the store (11 R294, 12 R331). All
run most significant bit first without reflection. -/
namespace Sys2Proof.Machine

/-- One bit of a cyclic code of width `w` with polynomial `poly`: the register after shifting in the bit `b`. -/
def crcBit (w poly crc : Nat) (b : Bool) : Nat :=
  let top := bitAt crc (w - 1)
  let sh := crc * 2 % 2 ^ w
  if top != b then Nat.xor sh poly else sh

/-- The low `n` bits of `v`, most significant first, run through the code. -/
def crcBits (w poly : Nat) : Nat → Nat → Nat → Nat
  | 0, _, crc => crc
  | n + 1, v, crc => crcBits w poly n v (crcBit w poly crc (bitAt v n))

/-- The code over bytes in transmission order. -/
def crcBytes (w poly : Nat) : Bytes → Nat → Nat
  | [], crc => crc
  | b :: bs, crc => crcBytes w poly bs (crcBits w poly 8 b.toNat crc)

/-- CRC-8, polynomial 0x07, as 08_tokens_and_challenge.md gives it for the sub-GHz frames. -/
def crc8 (bs : Bytes) : Nat := crcBytes 8 0x07 bs 0

/-- CRC-16, polynomial 0x1021, initial value 0xFFFF (04 R78). -/
def crc16 (bs : Bytes) : Nat := crcBytes 16 0x1021 bs 0xFFFF

/-- CRC-32, polynomial 0x04C1_1DB7, initial value and final XOR 0xFFFF_FFFF (11 R294). -/
def crc32 (bs : Bytes) : Nat := Nat.xor (crcBytes 32 0x04C11DB7 bs 0xFFFFFFFF) 0xFFFFFFFF

end Sys2Proof.Machine
end

