-- ==== Sys2Proof/Machine/Crypto.lean ====
section
/-! DEFINITION. The standard algorithms the spec names: AES-128, -192 and -256 (FIPS 197), CBC, CTR, CMAC (SP 800-38B), GCM
(SP 800-38D), key unwrap (SP 800-38F, KW), the counter-mode KDF (SP 800-108), SHA-256 (FIPS 180-4) and ECDSA on P-256
(FIPS 186-5). 07_cipher_and_keys.md R165, R167, R190, R195; 14_live_update.md R372. The spec names the standards and does
not repeat them: PRESUMED, log 22. -/
namespace Sys2Proof.Machine

/-! ### AES (FIPS 197) -/

/-- Multiplication by x in GF(2^8). -/
def xtime (b : Byte) : Byte := if b.msb then (b <<< 1) ^^^ 0x1b#8 else b <<< 1

/-- Multiplication in GF(2^8), `n` low bits of the second factor. -/
def gfMulBits : Nat → Byte → Byte → Byte
  | 0, _, _ => 0
  | n + 1, a, b => (if b.getLsbD 0 then a else 0#8) ^^^ gfMulBits n (xtime a) (b >>> 1)

/-- Multiplication in GF(2^8). -/
def gfMul (a b : Byte) : Byte := gfMulBits 8 a b

/-- The table of the S-box: its value at a is byte a of the number, least significant byte first. -/
def aesSboxTable : Nat :=
  0x16bb54b00f2d99416842e6bf0d89a18cdf2855cee9871e9b948ed9691198f8e19e1dc186b95735610ef6034866b53e708a8bbd4b1f74dde8c6b4a61c2e2578ba08ae7a65eaf4566ca94ed58d6d37c8e779e4959162acd3c25c2406490a3a32e0db0b5ede14b8ee4688902a22dc4f816073195d643d7ea7c41744975fec130ccdd2f3ff1021dab6bcf5389d928f40a351a89f3c507f02f94585334d43fbaaefd0cf584c4a39becb6a5bb1fc20ed00d153842fe329b3d63b52a05a6e1b1a2c830975b227ebe28012079a059618c323c7041531d871f1e5a534ccf73f362693fdb7c072a49cafa2d4adf04759fa7dc982ca76abd7fe2b670130c56f6bf27b777c63

/-- The table of the inverse S-box. -/
def aesSboxInvTable : Nat :=
  0x7d0c2155631469e126d677ba7e042b17619953833cbbebc8b0f52aae4d3be0a0ef9cc9939f7ae52d0d4ab519a97f51605fec8027591012b131c7078833a8dd1ff45acd78fec0db9a2079d2c64b3e56fc1bbe18aa0e62b76f89c5291d711af1476edf751ce837f9e28535ade72274ac9673e6b4f0cecff297eadc674f4111913a6b8a130103bdafc1020f3fca8f1e2cd00645b3b80558e4f70ad3bc8c00abd890849d8da75746155edab9edfd5048706c92b6655dcc5ca4d41698688664f6f87225d18b6d49a25b76b224d92866a12e084ec3fa420b954cee3d23c2a632947b54cbe9dec444438e3487ff2f9b8239e37cfbd7f3819ea340bf38a53630d56a0952

/-- The S-box. -/
def aesSbox (a : Byte) : Byte := BitVec.ofNat 8 (aesSboxTable / 2 ^ (8 * a.toNat))

/-- The inverse S-box. -/
def aesSboxInv (a : Byte) : Byte := BitVec.ofNat 8 (aesSboxInvTable / 2 ^ (8 * a.toNat))

/-- Byte `i` of a block. -/
def blkAt (b : Bytes) (i : Nat) : Byte := b.getD i 0

/-- ShiftRows. -/
def aesShift (b : Bytes) : Bytes := (List.range 16).map (fun i => blkAt b ((i / 4 + i % 4) % 4 * 4 + i % 4))

/-- Inverse ShiftRows. -/
def aesShiftInv (b : Bytes) : Bytes := (List.range 16).map (fun i => blkAt b ((i / 4 + 4 - i % 4) % 4 * 4 + i % 4))

/-- MixColumns. -/
def aesMix (b : Bytes) : Bytes :=
  (List.range 16).map (fun i =>
    let at_ (k : Nat) : Byte := blkAt b (i / 4 * 4 + (i % 4 + k) % 4)
    xtime (at_ 0) ^^^ xtime (at_ 1) ^^^ at_ 1 ^^^ at_ 2 ^^^ at_ 3)

/-- Inverse MixColumns. -/
def aesMixInv (b : Bytes) : Bytes :=
  (List.range 16).map (fun i =>
    let at_ (k : Nat) : Byte := blkAt b (i / 4 * 4 + (i % 4 + k) % 4)
    gfMul (at_ 0) 14 ^^^ gfMul (at_ 1) 11 ^^^ gfMul (at_ 2) 13 ^^^ gfMul (at_ 3) 9)

/-- One word of the key schedule after those in `rev` (latest first); `i` is its index. -/
def aesNextWord (nk i : Nat) (rcon : Byte) (rev : List Bytes) : Bytes :=
  let prev := rev.headD []
  let old := rev.getD (nk - 1) []
  let t :=
    if i % nk = 0 then xorBytes ((prev.drop 1 ++ prev.take 1).map aesSbox) [rcon, 0, 0, 0]
    else if 6 < nk && i % nk = 4 then prev.map aesSbox
    else prev
  xorBytes old t

/-- `n` further words of the key schedule. -/
def aesExpand (nk : Nat) : Nat → Nat → Byte → List Bytes → List Bytes
  | 0, _, _, rev => rev
  | n + 1, i, rcon, rev =>
    aesExpand nk n (i + 1) (if i % nk = 0 then xtime rcon else rcon) (aesNextWord nk i rcon rev :: rev)

/-- The round keys of a 16-, 24- or 32-byte key, first first. -/
def aesRoundKeys (key : Bytes) : List Bytes :=
  let nk := key.length / 4
  let words := (aesExpand nk (4 * (nk + 7) - nk) nk 1#8 ((pieces 4 key).reverse)).reverse
  pieces 16 words.flatten

/-- The middle and last rounds of encryption. -/
def aesRounds : List Bytes → Bytes → Bytes
  | [], b => b
  | [k], b => xorBytes (aesShift (b.map aesSbox)) k
  | k :: ks, b => aesRounds ks (xorBytes (aesMix (aesShift (b.map aesSbox))) k)

/-- Encrypt one block under round keys. -/
def aesEncRk (rks : List Bytes) (b : Bytes) : Bytes :=
  match rks with
  | [] => b
  | k :: ks => aesRounds ks (xorBytes b k)

/-- The middle and last rounds of decryption, round keys last first. -/
def aesRoundsInv : List Bytes → Bytes → Bytes
  | [], b => b
  | [k], b => xorBytes ((aesShiftInv b).map aesSboxInv) k
  | k :: ks, b => aesRoundsInv ks (aesMixInv (xorBytes ((aesShiftInv b).map aesSboxInv) k))

/-- Decrypt one block under round keys. -/
def aesDecRk (rks : List Bytes) (b : Bytes) : Bytes :=
  match rks.reverse with
  | [] => b
  | k :: ks => aesRoundsInv ks (xorBytes b k)

/-- Encrypt one block under a key of 16, 24 or 32 bytes. -/
def aesEncrypt (key b : Bytes) : Bytes := aesEncRk (aesRoundKeys key) b

/-- Decrypt one block. -/
def aesDecrypt (key b : Bytes) : Bytes := aesDecRk (aesRoundKeys key) b

/-! ### Modes -/

/-- ECB over whole blocks. -/
def ecb (f : Bytes → Bytes) (data : Bytes) : Bytes := ((pieces 16 data).map f).flatten

/-- CBC encryption over blocks. -/
def cbcEncBlocks (rks : List Bytes) : List Bytes → Bytes → Bytes
  | [], _ => []
  | b :: bs, iv => let c := aesEncRk rks (xorBytes b iv); c ++ cbcEncBlocks rks bs c

/-- CBC decryption over blocks. -/
def cbcDecBlocks (rks : List Bytes) : List Bytes → Bytes → Bytes
  | [], _ => []
  | b :: bs, iv => xorBytes (aesDecRk rks b) iv ++ cbcDecBlocks rks bs b

/-- The counter block after `c`: its last 4 bytes count on, modulo 2^32 (R173). -/
def ctrNext (c : Bytes) : Bytes := c.take 12 ++ beBytes 4 ((beAt c 12 4 + 1) % 2 ^ 32)

/-- CTR over pieces of at most 16 bytes. -/
def ctrBlocks (rks : List Bytes) : List Bytes → Bytes → Bytes
  | [], _ => []
  | b :: bs, c => xorBytes b (aesEncRk rks c) ++ ctrBlocks rks bs (ctrNext c)

/-- CTR from an initial counter block. -/
def aesCtr (key c data : Bytes) : Bytes := ctrBlocks (aesRoundKeys key) (pieces 16 data) c

/-- Doubling in GF(2^128) as CMAC takes it. -/
def cmacDouble (n : Nat) : Nat := if bitAt n 127 then Nat.xor (n * 2 % 2 ^ 128) 0x87 else n * 2

/-- The CMAC chain over the blocks. -/
def cmacChain (rks : List Bytes) : List Bytes → Bytes → Bytes
  | [], c => c
  | b :: bs, c => cmacChain rks bs (aesEncRk rks (xorBytes b c))

/-- CMAC, 16 bytes. -/
def cmac (key msg : Bytes) : Bytes :=
  let rks := aesRoundKeys key
  let l := beNat (aesEncRk rks (zeroBytes 16))
  let k1 := cmacDouble l
  let blocks := pieces 16 msg
  let last := blocks.getLastD []
  let final :=
    if last.length = 16 then xorBytes last (beBytes 16 k1)
    else xorBytes (padTo 16 (last ++ [0x80])) (beBytes 16 (cmacDouble k1))
  cmacChain rks (blocks.dropLast ++ [final]) (zeroBytes 16)

/-- Multiplication in the GCM field: `n` bits of `x`, most significant first, against `v`. -/
def gcmMulBits : Nat → Nat → Nat → Nat → Nat
  | 0, _, _, z => z
  | n + 1, x, v, z =>
    gcmMulBits n x (if v % 2 = 1 then Nat.xor (v / 2) (0xE1 * 2 ^ 120) else v / 2)
      (if bitAt x n then Nat.xor z v else z)

/-- GHASH over blocks. -/
def ghash (h : Nat) : List Bytes → Nat → Nat
  | [], y => y
  | b :: bs, y => ghash h bs (gcmMulBits 128 (Nat.xor y (beNat (padTo 16 b))) h 0)

/-- GCM with a 12-byte IV: the ciphertext or plaintext stream of `data` and the tag over `ct`. -/
def gcmStream (key iv data : Bytes) : Bytes := aesCtr key (ctrNext (iv ++ [0, 0, 0, 1])) data

/-- The GCM tag over additional data and ciphertext. -/
def gcmTag (key iv aad ct : Bytes) : Bytes :=
  let rks := aesRoundKeys key
  let h := beNat (aesEncRk rks (zeroBytes 16))
  let s := ghash h (pieces 16 aad ++ pieces 16 ct ++ [beBytes 8 (8 * aad.length) ++ beBytes 8 (8 * ct.length)]) 0
  xorBytes (beBytes 16 s) (aesEncRk rks (iv ++ [0, 0, 0, 1]))

/-- One step of key unwrap: `t` is the counter, `i` (from 1) the register. -/
def kwStep (rks : List Bytes) (t i : Nat) (ar : Bytes × List Bytes) : Bytes × List Bytes :=
  let (a, r) := ar
  let b := aesDecRk rks (xorBytes a (beBytes 8 t) ++ r.getD (i - 1) [])
  (b.take 8, r.set (i - 1) (b.drop 8))

/-- `k` steps of key unwrap, down to counter 1, over `n` registers. -/
def kwSteps (rks : List Bytes) (n : Nat) : Nat → Bytes × List Bytes → Bytes × List Bytes
  | 0, ar => ar
  | k + 1, ar => kwSteps rks n k (kwStep rks (k + 1) (k % n + 1) ar)

/-- Key unwrap (SP 800-38F, KW); none where the integrity check fails. -/
def keyUnwrap (key wrapped : Bytes) : Option Bytes :=
  let n := wrapped.length / 8 - 1
  let (a, r) := kwSteps (aesRoundKeys key) n (6 * n) (wrapped.take 8, pieces 8 (wrapped.drop 8))
  if a == List.replicate 8 0xA6#8 then some r.flatten else none

/-- Counter-mode KDF with CMAC (SP 800-108, R190): `bits` bits under `key`, label byte, context. -/
def kdf (key : Bytes) (label : Nat) (context : Bytes) (bits : Nat) : Bytes :=
  let block (i : Nat) : Bytes :=
    cmac key (beBytes 4 i ++ [BitVec.ofNat 8 label, 0] ++ context ++ beBytes 4 bits)
  (block 1 ++ (if 128 < bits then block 2 else [])).take (bits / 8)

/-! ### SHA-256 (FIPS 180-4) -/

/-- The 64 round constants as one number, the first in the most significant word. -/
def shaTable : Nat :=
  0x428a2f9871374491b5c0fbcfe9b5dba53956c25b59f111f1923f82a4ab1c5ed5d807aa9812835b01243185be550c7dc372be5d7480deb1fe9bdc06a7c19bf174e49b69c1efbe47860fc19dc6240ca1cc2de92c6f4a7484aa5cb0a9dc76f988da983e5152a831c66db00327c8bf597fc7c6e00bf3d5a7914706ca63511429296727b70a852e1b21384d2c6dfc53380d13650a7354766a0abb81c2c92e92722c85a2bfe8a1a81a664bc24b8b70c76c51a3d192e819d6990624f40e3585106aa07019a4c1161e376c082748774c34b0bcb5391c0cb34ed8aa4a5b9cca4f682e6ff3748f82ee78a5636f84c878148cc7020890befffaa4506cebbef9a3f7c67178f2

/-- The constant of the round after which `left` rounds remain. -/
def shaConst (left : Nat) : Word := BitVec.ofNat 32 (shaTable / 2 ^ (32 * left))

/-- The exclusive or of a word rotated right by each of these counts. -/
def turned (w : Word) (by_ : List Nat) : Word := by_.foldl (fun acc k => acc ^^^ w.rotateRight k) 0

/-- The word that enters the schedule behind the 16 in hand. -/
def shaEnters (win : List Word) : Word :=
  let p := win.getD 1 0
  let q := win.getD 14 0
  win.headD 0 + win.getD 9 0 + (turned p [7, 18] ^^^ (p >>> 3)) + (turned q [17, 19] ^^^ (q >>> 10))

/-- The eight working variables, a first, after a round that adds `x`. -/
def shaTurn (vars : List Word) (x : Word) : List Word :=
  let at_ (k : Nat) : Word := vars.getD k 0
  let pick := at_ 6 ^^^ (at_ 4 &&& (at_ 5 ^^^ at_ 6))
  let vote := (at_ 0 &&& at_ 1) ||| (at_ 2 &&& (at_ 0 ||| at_ 1))
  let up := x + at_ 7 + pick + turned (at_ 4) [6, 11, 25]
  (up + vote + turned (at_ 0) [2, 13, 22]) :: vars.take 3 ++ [at_ 3 + up] ++ (vars.drop 4).take 3

/-- `left` rounds: the window slides one word a round. -/
def shaRun : Nat → List Word → List Word → List Word
  | 0, _, vars => vars
  | left + 1, win, vars => shaRun left (win.drop 1 ++ [shaEnters win]) (shaTurn vars (win.headD 0 + shaConst left))

/-- Big-endian bytes as 32-bit words. -/
def beWords (b : Bytes) : List Word := (pieces 4 b).map (fun w => BitVec.ofNat 32 (beNat w))

/-- A 64-byte block goes into the hash value. -/
def shaBlock (hash : List Word) (block : Bytes) : List Word := hash.zipWith (· + ·) (shaRun 64 (beWords block) hash)

/-- The initial hash value, as bytes. -/
def shaStart : Nat := 0x6a09e667bb67ae853c6ef372a54ff53a510e527f9b05688c1f83d9ab5be0cd19

/-- SHA-256, 32 bytes. -/
def sha256 (msg : Bytes) : Bytes :=
  let tail := beBytes 8 (8 * msg.length)
  let fill := zeroBytes ((119 - msg.length % 64) % 64)
  let hash := (pieces 64 (msg ++ 0x80 :: fill ++ tail)).foldl shaBlock (beWords (beBytes 32 shaStart))
  hash.flatMap (fun w => beBytes 4 w.toNat)

/-! ### ECDSA on P-256 -/

/-- The field prime. -/
def p256P : Nat := 2 ^ 256 - 2 ^ 224 + 2 ^ 192 + 2 ^ 96 - 1
/-- The group order. -/
def p256N : Nat := 0xFFFFFFFF00000000FFFFFFFFFFFFFFFFBCE6FAADA7179E84F3B9CAC2FC632551
/-- The curve coefficient b. -/
def p256B : Nat := 0x5AC635D8AA3A93E7B3EBBD55769886BC651D06B0CC53B0F63BCE3C3E27D2604B
/-- The base point. -/
def p256G : Option (Nat × Nat) :=
  some (0x6B17D1F2E12C4247F8BCE6E563A440F277037D812DEB33A0F4A13945D898C296,
    0x4FE342E2FE1A7F9B8EE7EB4A7C0F9E162BCE33576B315ECECBB6406837BF51F5)

/-- `b` to the power of the low `n` bits of `e`, modulo `m`. -/
def powMod (m : Nat) : Nat → Nat → Nat → Nat → Nat
  | 0, _, _, acc => acc
  | n + 1, b, e, acc => powMod m n (b * b % m) (e / 2) (if e % 2 = 1 then acc * b % m else acc)

/-- The inverse modulo a prime below 2^256. -/
def invMod (m a : Nat) : Nat := powMod m 256 (a % m) (m - 2) 1

/-- Point addition; none is the point at infinity. -/
def p256Add : Option (Nat × Nat) → Option (Nat × Nat) → Option (Nat × Nat)
  | none, q => q
  | p, none => p
  | some (x1, y1), some (x2, y2) =>
    let m := p256P
    if x1 = x2 && (y1 + y2) % m = 0 then none
    else
      let l :=
        if x1 = x2 then (3 * x1 * x1 + (m - 3)) * invMod m (2 * y1) % m
        else (y2 + m - y1) * invMod m (x2 + m - x1) % m
      let x3 := (l * l + 2 * m - x1 - x2) % m
      some (x3, (l * (x1 + m - x3) + m - y1) % m)

/-- The multiple of a point by the low `n` bits of `k`. -/
def p256Mul : Nat → Nat → Option (Nat × Nat) → Option (Nat × Nat) → Option (Nat × Nat)
  | 0, _, _, acc => acc
  | n + 1, k, q, acc => p256Mul n (k / 2) (p256Add q q) (if k % 2 = 1 then p256Add acc q else acc)

/-- Is the point on the curve? -/
def p256On (q : Nat × Nat) : Bool :=
  decide (q.1 < p256P) && decide (q.2 < p256P) &&
    decide (q.2 * q.2 % p256P = (q.1 * q.1 * q.1 + (p256P - 3) * q.1 + p256B) % p256P)

/-- Verify an ECDSA P-256 signature (r, s) over a SHA-256 digest. -/
def ecdsaVerify (q : Nat × Nat) (digest : Bytes) (r s : Nat) : Bool :=
  if p256On q && decide (0 < r) && decide (r < p256N) && decide (0 < s) && decide (s < p256N) then
    let w := invMod p256N s
    let u1 := beNat digest * w % p256N
    let u2 := r * w % p256N
    match p256Add (p256Mul 256 u1 p256G none) (p256Mul 256 u2 (some q) none) with
    | some (x, _) => x % p256N == r
    | none => false
  else false

end Sys2Proof.Machine
end

