-- ==== Sys2Proof/Machine/Geometry.lean ====
section
/-! DEFINITION. The real functions that the proximity rules use, in fixed point: square root, angle of a vector, decibels
(06_proximity.md R148, R156, R157). Roots and angles are carried to 2^-40 and decibels to 2^-30 (log 37). -/
namespace Sys2Proof.Machine

/-- The low `k` bits of the integer square root above `r`. -/
def isqrtBits : Nat → Nat → Nat → Nat
  | 0, _, r => r
  | k + 1, n, r => isqrtBits k n (if (r + 2 ^ k) * (r + 2 ^ k) ≤ n then r + 2 ^ k else r)

/-- Integer square root, rounded down. -/
def isqrt (n : Nat) : Nat := isqrtBits (Nat.log2 n / 2 + 1) n 0

/-- `x` scaled down so that the larger of two magnitudes keeps about 100 bits. -/
def scaleDown (m : Nat) (x : Int) : Int := x / 2 ^ (Nat.log2 m - 100)

/-- Binary digits of the angle of (x, y) in turns: each digit says which half turn the vector lies in, and the angle is
doubled for the next. -/
def angleBits : Nat → Int → Int → Nat → Nat
  | 0, _, _, acc => acc
  | n + 1, x, y, acc =>
    let b := if y < 0 || (y = 0 && x < 0) then 1 else 0
    let x2 := x * x - y * y
    let y2 := 2 * x * y
    let m := max x2.natAbs y2.natAbs
    angleBits n (scaleDown m x2) (scaleDown m y2) (2 * acc + b)

/-- atan2(y, x) in 2^-40 turns, above minus and up to plus half a turn. -/
def atan2 (y x : Int) : Int :=
  let a := angleBits 40 x y 0
  if 2 ^ 39 < a then (a : Int) - 2 ^ 40 else a

/-- An angle of `atan2` in tenths of a degree, rounded to the nearest. -/
def tenthsDeg (a : Int) : Int := divRound (a * 3600) (2 ^ 40)

/-- The angle is at most `deg` degrees in magnitude. -/
def withinDeg (a : Int) (deg : Nat) : Bool := decide (a.natAbs * 360 ≤ deg * 2 ^ 40)

/-- Binary digits of a logarithm: `m` stands for m / 2^100 in [1, 2). -/
def logBits : Nat → Nat → Nat → Nat
  | 0, _, acc => acc
  | n + 1, m, acc =>
    let q := m * m / 2 ^ 100
    if 2 ^ 101 ≤ q then logBits n (q / 2) (2 * acc + 1) else logBits n q (2 * acc)

/-- Logarithm to base 2 of a positive number, in 2^-40. -/
def log2Fixed (n : Nat) : Nat := Nat.log2 n * 2 ^ 40 + logBits 40 (n * 2 ^ 100 / 2 ^ Nat.log2 n) 0

/-- 10 log10 of a positive ratio, in 2^-30 dB. -/
def decibels (num den : Nat) : Int :=
  ((log2Fixed num : Int) - (log2Fixed den : Int)) * 3010299956639812 / (10 ^ 15 * 1024)

/-- 10 to the power j / 20, times 10^15, for j below 20. -/
def tenTwentieths : List Nat :=
  [1000000000000000, 1122018454301963, 1258925411794167, 1412537544622754, 1584893192461113, 1778279410038923,
   1995262314968880, 2238721138568340, 2511886431509580, 2818382931264454, 3162277660168379, 3548133892335755,
   3981071705534973, 4466835921509631, 5011872336272723, 5623413251903491, 6309573444801932, 7079457843841379,
   7943282347242815, 8912509381337455]

/-- 10 to the power k / 20, times 10^15. -/
def tenPower (k : Nat) : Nat := 10 ^ (k / 20) * nth 0 tenTwentieths (k % 20)

/-- A field code of R60 in 2^-30 dB: (code - 1) × 0.5 dBµA/m. -/
def codeLevel (code : Nat) : Int := ((code : Int) - 1) * 2 ^ 29

end Sys2Proof.Machine
end

