-- ==== Sys2Proof/Config.lean ====
section
/-! DEFINITION. What the spec leaves open: free values, of which nothing can be evaluated, and contents of ROM and of the
delivered device that the spec does not give. -/
namespace Sys2Proof

/-- The 384 bits of conditioned entropy of the n-th seeding of the DRBG since the model began (07 R177): a free value
(log 5). -/
opaque Config.entropy : Nat → BitVec 384

/-- The nonce that joins the entropy where the n-th seeding is the first after a start (07 R175, SP 800-90A): a free value
(log 5). -/
opaque Config.seedNonce : Nat → BitVec 128

/-- The range, in nm, of an exchange whose four intervals are all zero: the formula of 06 R145 divides by their sum, and the
spec states no result there. A free value (log 39). -/
opaque Config.openRange : Int

/-- The 20 bytes of a production test frame (15 R417), whose content the spec does not give. A free value (log 43). -/
opaque Config.testFrame : Bytes

/-- The Sehimbe image key held in ROM, x then y (14 R372): a free value (log 16). -/
opaque Config.sehimbeKey : Nat × Nat

/-- The life-cycle and transport credentials the delivered device carries are written through ring 8; the device-unique
key is drawn at the first start (07 R182), so no constant stands for them. The header of the main image as delivered
(14 R371): a free value (log 16). -/
opaque Config.factoryHeader : Bytes

/-- Chunk `i` of the main image as delivered (14 R371): a free value (log 16). -/
opaque Config.factoryChunk : Nat → Bytes

/-- Header of loader copy `c` as delivered (14 R371): a free value (log 16). -/
opaque Config.factoryLoader : Nat → Bytes

/-- Body of loader copy `c` as delivered (14 R371): a free value (log 16). -/
opaque Config.factoryLoaderBody : Nat → Bytes

/-- The sectors byte that ring 9 WEAR writes for an area of 256 sectors (13 R368), a number the byte cannot hold: the spec
states no result. A free value (log 58). -/
opaque Config.wearSectors : BitVec 8

/-- Byte `i` of the data of a record whose format is internal to the W6416 (13 R354), by its key and sequence. A free value
(log 134). -/
opaque Config.internalData : Nat → Nat → Nat → Byte

/-- What the byte reads whose program was cut (13 R363), by the record's key, sequence and the byte. A free value (log 134). -/
opaque Config.cutByte : Nat → Nat → Nat → Byte

/-- The service gap, in µs, of the n-th single fault since the start (15 R407, R418), which the device measures and the spec
only bounds. A free value (log 60). -/
opaque Config.faultGap : Nat → BitVec 16

/-- The duration, in cycles of the 160 MHz PLL, of the n-th single fault's relock of the metrology PLL (15 R399), which the
device measures. A free value (log 65). -/
opaque Config.relockGap : Nat → BitVec 16

/-- In the tick of this number the EOF cell of a COMMIT ended before the field collapsed (04 R97): the cell ends within the tick and
the collapse is known by its tick alone. A free value (log 25). -/
opaque Config.commitEnded : Nat → Bool

/-- What the internal RC oscillator gains or loses in the tick of this number, in 1/125 of a KEEP cycle, of which a tick holds
4,096 (15 R398): the rule bounds it at 1.5 %. A free value (log 136). -/
opaque Config.rcError : Nat → Int

/-- The sealing key that slot 2 derives from the device-unique key (07 R182); the spec does not give the derivation. A free
value (log 64). -/
opaque Config.sealingKey : Nat → BitVec 256

/-- The result of the completion of a command whose chapter names none, by ring and opcode (15 R418). A free value (log 69). -/
opaque Config.openResult : Nat → Nat → BitVec 64

end Sys2Proof
end

