-- ==== Sys2Proof/Machine/Cells.lean ====
section
/-! DEFINITION. Sparse tables in one canonical form: keys strictly rising, and no entry equal to the value an unlisted
key reads as. Equal tables are equal data. The register file, the ring pairs, the key slots, the Holly table and the
other numbered things of the device are held in them. -/
namespace Sys2Proof.Machine

/-- A sparse table: (key, value) pairs. -/
abbrev Tbl (α : Type) := List (Nat × α)

/-- The value at `k`, `d` where nothing is listed. -/
def tblGet {α : Type} (d : α) : Tbl α → Nat → α
  | [], _ => d
  | (k', v) :: t, k => if k' = k then v else tblGet d t k

/-- The table without key `k`. -/
def tblErase {α : Type} : Tbl α → Nat → Tbl α
  | [], _ => []
  | (k', v) :: t, k => if k' = k then tblErase t k else (k', v) :: tblErase t k

/-- The table with `v` listed at `k`, in rising order of keys. -/
def tblInsert {α : Type} : Tbl α → Nat → α → Tbl α
  | [], k, v => [(k, v)]
  | (k', v') :: t, k, v =>
    if k < k' then (k, v) :: (k', v') :: t
    else if k = k' then (k, v) :: t
    else (k', v') :: tblInsert t k v

/-- Store `v` at `k`; storing what an unlisted key reads as removes the entry. -/
def tblPut {α : Type} [DecidableEq α] (d : α) (t : Tbl α) (k : Nat) (v : α) : Tbl α :=
  if v = d then tblErase t k else tblInsert t k v

/-- Change the value at `k` by `f`. -/
def tblMod {α : Type} [DecidableEq α] (d : α) (t : Tbl α) (k : Nat) (f : α → α) : Tbl α :=
  tblPut d t k (f (tblGet d t k))

/-- The canonical form: keys strictly rising and no default listed. -/
def tblWf {α : Type} [DecidableEq α] (d : α) : Tbl α → Bool
  | [] => true
  | (k, v) :: t => decide (v ≠ d) && t.all (fun e => decide (k < e.1)) && tblWf d t

/-- Register cells: the key of a field is its BAR0 offset times 32 plus its least significant bit. -/
abbrev Cells := Tbl Nat

end Sys2Proof.Machine
end

