-- ==== Sys2Proof/Machine/State.lean ====
section
/-! DEFINITION. The state of the Weacel W6416 as plain data: every register, table, queue, buffer, counter, mode and pin the
spec gives the block, the queue of waiting commands, and what has left the device. Each field's docstring says its width,
the rule of spec/ that names it and its reset value. -/
namespace Sys2Proof.Machine

/-! ## Cipher engine and key store (07_cipher_and_keys.md) -/

/-- The life-cycle states, coded as R195. -/
inductive LifeCycle where
  | blank | provisioned | field | returned | scrapped
  deriving DecidableEq, Repr

/-- One key slot (R182). The value is held as value xor mask, with the mask beside it. -/
structure KeySlot where
  /-- value xor mask. Width: 256. 07 R182. Reset: 0. -/
  masked : BitVec 256
  /-- mask. Width: 256. 07 R182, R188. Reset: 0 (DESIGN CHOICE, log 7). -/
  mask : BitVec 256
  /-- ATTR word of KEY_ATTRn. Width: 32. 07 R198. Reset: 0. -/
  attr : Nat
  /-- master mask of KEY_MASTERn. Width: 18. 07 R198. Reset: 0. -/
  master : Nat
  deriving DecidableEq, Repr

/-- An empty slot. -/
def KeySlot.empty : KeySlot := { masked := 0, mask := 0, attr := 0, master := 0 }

/-- The CTR_DRBG of the nonce service (R175). -/
structure Drbg where
  /-- Key. Width: 256. 07 R175. Reset: 0 until the seed is taken. -/
  key : BitVec 256
  /-- V. Width: 128. 07 R175. Reset: 0 until the seed is taken. -/
  v : BitVec 128
  /-- seedings since the model began: the argument of the free values Config.entropy and Config.seedNonce; the model's own field. 07 R177. Reset: 0 (DESIGN CHOICE, log 5). -/
  seeds : Nat
  /-- requests since the last reseed. Width: 16. 07 R177. Reset: 0. -/
  requests : Nat
  deriving DecidableEq, Repr

/-- A DRBG that has taken no seed. -/
def Drbg.reset : Drbg := { key := 0, v := 0, seeds := 0, requests := 0 }

/-- The repetition count test over the raw bits so far (R178). -/
structure RawRun where
  /-- latest raw bit. Width: 1. 07 R178. Reset: 0. -/
  bit : Bool
  /-- identical bits that end with it, counted to 41; 0 before the first bit. Width: 6. 07 R178. Reset: 0. -/
  run : Nat
  deriving DecidableEq, Repr

/-- The cipher engine, the nonce service, the counters and the key store. -/
structure Cip where
  /-- the 64 slots. Width: 64 × 256 twice, with ATTR and MASTER words. 07 R182. Reset: empty (NV, R443: slots 0 and 2 are filled at the start). -/
  slots : Tbl KeySlot
  /-- slot in the working key register; none while it holds no key. Width: 7. 07 R166. Reset: none. -/
  loaded : Option Nat
  /-- the loaded slot has been written since the register was loaded. Width: 1. 07 R166. Reset: 0. -/
  stale : Bool
  /-- the key in the working key register, xor its mask. Width: 256. 07 R166. Reset: 0. -/
  workMasked : BitVec 256
  /-- the mask of the working key register, renewed at each reload. Width: 256. 07 R166, R188. Reset: 0. -/
  workMask : BitVec 256
  /-- the nonce service. 07 R175. -/
  drbg : Drbg
  /-- tick of the last reseed. Width: ms. 07 R177. Reset: 0. -/
  lastReseed : Nat
  /-- a reseed that fell due waits for a window that passes. Width: 1. 07 R179. Reset: 0. -/
  reseedDue : Bool
  /-- the window tested last failed. Width: 1. 07 R179. Reset: 0. -/
  windowBad : Bool
  /-- start-up test failures since the start. Width: 2. 07 R179. Reset: 0. -/
  startupFails : Nat
  /-- ticks of the latest continuous failures. 07 R179. Reset: none. -/
  healthFails : List Nat
  /-- the run of identical raw bits. 07 R178. -/
  rawRun : RawRun
  /-- next slot to re-mask. Width: 6. 07 R188. Reset: 0. -/
  remask : Nat
  /-- slots not re-masked since the latest exit from BUD or TWIG: each is re-masked before its first use. Width: 64. 15 R396. Reset: 0. -/
  restMasks : Nat
  /-- slots whose re-masking fell due while they were being written. Width: 64. 07 R189. Reset: none. -/
  remaskDue : List Nat
  /-- counters c[s]. Width: 64 × 64. 07 R180. Reset: 0 for a device that has never started. -/
  counters : Cells
  /-- ceilings H[s] as persisted. Width: 64 × 64. 07 R180. Reset: 0 for a device that has never started. -/
  ceilings : Cells
  /-- life-cycle nonce held and tick of its issue. Width: 128. 07 R193. Reset: none. -/
  lcNonce : Option (Nat × Nat)
  /-- an LC_ADVANCE, tag and target state, that waits for the receipts of the sessions it has ended, and whether the records of
  its wipes stand. Width: 16, 3, 1. 07 R192. Reset: none. -/
  lcWaits : Option (Nat × Nat × Bool)
  /-- life-cycle state in the fuses. Width: 3. 07 R192. Reset: BLANK (DESIGN CHOICE, log 7). -/
  lifeCycle : LifeCycle
  /-- device identifier in the fuses. Width: 64. 07 R198. Reset: 0x57A4_0011_2C9E_3F60, the worked device of R195 (DESIGN CHOICE, log 7). -/
  deviceId : Nat
  /-- device-unique key in the fuses; none until the first start in BLANK. Width: 256. 07 R182. Reset: none. -/
  uniqueKey : Option Nat
  deriving DecidableEq, Repr

/-- The cipher engine and key store of a new device. -/
def Cip.reset : Cip :=
  { slots := [], loaded := none, stale := false, workMasked := 0, workMask := 0, drbg := Drbg.reset, lastReseed := 0,
    reseedDue := false, windowBad := false, startupFails := 0, healthFails := [], rawRun := ⟨false, 0⟩, remask := 0, restMasks := 0,
    remaskDue := [], counters := [], ceilings := [],
    lcNonce := none, lcWaits := none, lifeCycle := .blank, deviceId := 0x57A400112C9E3F60, uniqueKey := none }

/-! ## Tokens and the Holly table (08_tokens_and_challenge.md) -/

/-- One Holly slot, bytes 0-19 of the entry of R210. Identifier 0 marks an empty slot. -/
structure HollySlot where
  /-- token identifier. Width: 64. 08 R210. Reset: 0 empty. -/
  id : Nat
  /-- role 1-5. Width: 8. 08 R210. Reset: 0. -/
  role : Nat
  /-- release groups. Width: 8. 08 R210. Reset: 0. -/
  groups : Nat
  /-- zone mask. Width: 16. 08 R210. Reset: 0. -/
  zones : Nat
  /-- valid from. Width: 32. 08 R210. Reset: 0. -/
  validFrom : Nat
  /-- valid until. Width: 32. 08 R210. Reset: 0. -/
  validUntil : Nat
  deriving DecidableEq, Repr

/-- An empty Holly slot. -/
def HollySlot.empty : HollySlot := { id := 0, role := 0, groups := 0, zones := 0, validFrom := 0, validUntil := 0 }

/-- The lock-out state of one slot (R221). -/
structure LockState where
  /-- FAILS. Width: 8. 08 R221. Reset: 0. -/
  fails : Nat
  /-- WSTART. Width: 32. 08 R221. Reset: 0. -/
  wstart : Nat
  /-- LEVEL. Width: 8. 08 R221. Reset: 0. -/
  level : Nat
  /-- LOCK_START. Width: 32. 08 R221. Reset: 0. -/
  lockStart : Nat
  /-- LOCK_END. Width: 32. 08 R221. Reset: 0. -/
  lockEnd : Nat
  deriving DecidableEq, Repr

/-- A slot with no failure. -/
def LockState.zero : LockState := { fails := 0, wstart := 0, level := 0, lockStart := 0, lockEnd := 0 }

/-- The counter of R223. -/
structure UnknownState where
  /-- UFAILS. Width: 8. 08 R223. Reset: 0. -/
  fails : Nat
  /-- start of its window. Width: 32. 08 R223. Reset: 0. -/
  wstart : Nat
  /-- end of its lock. Width: 32. 08 R223. Reset: 0. -/
  lockEnd : Nat
  deriving DecidableEq, Repr

/-- No failure of an unknown identifier. -/
def UnknownState.zero : UnknownState := { fails := 0, wstart := 0, lockEnd := 0 }

/-- A set of the Holly table (R212, R217). -/
structure HollySet where
  /-- individual mode; otherwise Quickset. Width: 1. 08 R212. Reset: 0. -/
  individual : Bool
  /-- set epoch. Width: 32. 08 R212. Reset: 0. -/
  epoch : Nat
  /-- slots by index. Width: 128 or 2,048 entries. 08 R212. Reset: none. -/
  slots : Tbl HollySlot
  /-- effective time. Width: 32. 08 R218. Reset: 0. -/
  time : Nat
  deriving DecidableEq, Repr

/-- The table after an erase (R212): empty, Quickset, epoch 0. -/
def HollySet.empty : HollySet := { individual := false, epoch := 0, slots := [], time := 0 }

/-- A learn being staged (R217). -/
structure Learn where
  /-- individual mode named. Width: 1. 08 R217. -/
  individual : Bool
  /-- epoch named. Width: 32. 08 R217. -/
  epoch : Nat
  /-- entries staged as written, 32 bytes each, in order. 08 R217. -/
  entries : List Bytes
  /-- its LEARN_COMMIT waits for the store. Width: 1. 13 R360. -/
  committing : Bool
  deriving DecidableEq, Repr

/-- Tokens, the Holly table and the Thorn lock-out. -/
structure Aut where
  /-- the table in force. 08 R212. Reset: empty, Quickset, epoch 0. -/
  table : HollySet
  /-- generation of the set last written. Width: 32. 13 R356. Reset: 0. -/
  gen : Nat
  /-- generation of the set in force. Width: 32. 13 R356. Reset: 0. -/
  genInForce : Nat
  /-- lock-out state per slot. 08 R221. Reset: zero. -/
  locks : Tbl LockState
  /-- slots whose lock-out is held in force because the RTC was lost. 08 R224. Reset: none. -/
  heldLocks : List Nat
  /-- the lock of R223 is held in force because the RTC was lost. Width: 1. 08 R224. Reset: 0. -/
  heldUnknown : Bool
  /-- counter of unknown identifiers. 08 R223. Reset: zero. -/
  unknown : UnknownState
  /-- learn open. 08 R217. Reset: none. -/
  learn : Option Learn
  /-- committed learn awaiting its effective time. 08 R218. Reset: none. -/
  pendingSet : Option HollySet
  /-- lock-out state changed since its last checkpoint. Width: 1. 08 R224. Reset: 0. -/
  locksChanged : Bool
  /-- AUT_STATUS.MODE_CONFLICT. Width: 1. 08 R212. Reset: 0. -/
  modeConflict : Bool
  deriving DecidableEq, Repr

/-- The Holly table of a new device. -/
def Aut.reset : Aut :=
  { table := HollySet.empty, gen := 0, genInForce := 0, locks := [], heldLocks := [], heldUnknown := false,
    unknown := UnknownState.zero, learn := none, pendingSet := none, locksChanged := false, modeConflict := false }

/-! ## Transponder link (04_transponder_link.md) -/

/-- A pending check of a token write that a field collapse left open (R98). -/
structure PendingCheck where
  /-- tag identifier. Width: 64. 04 R98. -/
  id : Nat
  /-- block number. Width: 4. 04 R98. -/
  block : Nat
  /-- old bytes. Width: 16 bytes. 04 R98. -/
  old : Bytes
  /-- new bytes. Width: 16 bytes. 04 R98. -/
  new : Bytes
  deriving DecidableEq, Repr

/-- What the coil runs (R92, R99): a poll of R89, or a ring 4 command by its tag. -/
inductive CoilJob where
  | poll
  | pollNow (tag : Nat)
  | inventory (tag cap : Nat)
  | readBlock (tag id block : Nat)
  | writeBlock (tag id block : Nat) (data : Bytes)
  deriving DecidableEq, Repr

/-- The exchange a secured tag is in (R82, R90, R96). -/
inductive SecStep where
  /-- READ that resolves a pending check (R98) -/
  | check (c : PendingCheck)
  /-- READ of a READ_BLOCK -/
  | read
  /-- READ of the old bytes before STAGE (R98) -/
  | old
  /-- STAGE, first or second time -/
  | stage (again : Bool)
  /-- CONFIRM -/
  | confirm (again : Bool)
  /-- COMMIT, its frame begun at this tick -/
  | commit (sentAt : Nat)
  /-- VERIFY -/
  | verify
  deriving DecidableEq, Repr

/-- Where the coil stands (R86, R89). -/
inductive CoilPhase where
  /-- field off -/
  | off
  /-- field on, before the settle interval ends -/
  | settle
  /-- a WALK with these leading bits is sent; `tries` repeats were made under R87 -/
  | walk (len bits tries : Nat)
  /-- SELECT sent -/
  | select
  /-- GET_NONCE sent -/
  | getNonce
  /-- AUTH sent -/
  | auth
  /-- PASSWORD sent -/
  | password
  /-- a secured request sent -/
  | secured (step : SecStep)
  /-- the tag is keyed and its context waits for an owner's answer (GRANTING), the tag halted -/
  | granting
  deriving DecidableEq, Repr

/-- What the owners have answered to a context's session requests (R41). -/
structure Requests where
  /-- bits of the slot's groups whose request is unsettled. Width: 8. 02 R41. -/
  pending : List Nat
  /-- a session opened. Width: 1. 02 R41. -/
  opened : Bool
  /-- a session was renewed. Width: 1. 02 R41. -/
  renewed : Bool
  /-- a request is held. Width: 1. 02 R41. -/
  queued : Bool
  /-- report bits of byte 23 of R101: opened, renewed, queued per group bit 0 and 1. Width: 6. 04 R101. -/
  bits : Nat
  /-- session numbers on G0 and G1. Width: 32 each. 04 R101. -/
  numbers : List Nat
  deriving DecidableEq, Repr

/-- No request made. -/
def Requests.none : Requests :=
  { pending := [], opened := false, renewed := false, queued := false, bits := 0, numbers := [0, 0] }

/-- The transponder context of the tag being served (R48, R90). -/
structure CoilCtx where
  /-- token identifier. Width: 64. 04 R86. -/
  id : Nat
  /-- capability byte. Width: 8. 04 R85. -/
  cap : Nat
  /-- Nt held. Width: 128. 04 R81. -/
  nt : Nat
  /-- Nd sent. Width: 128. 04 R81. -/
  nd : Nat
  /-- Holly slot found at HELD; none for an identifier in no slot. Width: 11. 08 R222. -/
  slot : Option Nat
  /-- that slot's content as it was found. 02 R39. -/
  entry : HollySlot
  /-- set epoch in force when the tag was SELECTED. Width: 32. 08 R199. -/
  epoch : Nat
  /-- coil peak current at the latest reply, mA. Width: 16. 04 R101. -/
  current : Nat
  /-- Ks. Width: 128. 04 R81. -/
  ks : Nat
  /-- Kt. Width: 128. 04 R81. -/
  kt : Nat
  /-- frame counter of the latest secured request. Width: 32. 04 R82. -/
  counter : Nat
  /-- secured by password. Width: 1. 04 R84. -/
  byPassword : Bool
  /-- session requests. 02 R41. -/
  reqs : Requests
  /-- READ data of the old bytes. Width: 16 bytes. 04 R98. -/
  oldBytes : Bytes
  deriving DecidableEq, Repr

/-- The transponder link. -/
structure Tpx where
  /-- TPX_STATUS.STATE code. Width: 4. 04 R74, R102. Reset: 7 UNTESTED. -/
  coil : Nat
  /-- TPX_STATUS.ILAST. Width: 8. 04 R102. Reset: 0. -/
  ilast : Nat
  /-- phase of the coil poll or command; the field is on outside `off`. 04 R73, R86. Reset: off. -/
  phase : CoilPhase
  /-- job the field is on for. 04 R92. Reset: none. -/
  job : Option CoilJob
  /-- jobs waiting in order of arrival. 04 R92. Reset: none. -/
  queue : List CoilJob
  /-- the job due is held for VLF. Width: 1. 04 R73. Reset: 0. -/
  vlfHeld : Bool
  /-- tick at which the latest poll started; none before the first. Width: ms. 04 R89. Reset: none. -/
  lastStart : Option Nat
  /-- tick at which the field was last turned off; none before the first. Width: ms. 04 R73, R89. Reset: none. -/
  lastOff : Option Nat
  /-- the stack of the Bramble walk, top first: length and leading bits. Width: 64 × 7 + 64. 04 R86. Reset: empty. -/
  stack : List (Nat × Nat)
  /-- tags served in this walk. Width: 4. 04 R86. Reset: 0. -/
  served : Nat
  /-- identifiers found by an INVENTORY, in walk order. 04 R99. Reset: none. -/
  found : List Nat
  /-- contexts opened in this poll. Width: 4. 04 R99. Reset: 0. -/
  contexts : Nat
  /-- the job that ended last was a poll. Width: 1. 04 R92. Reset: 0. -/
  afterPoll : Bool
  /-- context of the tag being served. 04 R90. Reset: none. -/
  ctx : Option CoilCtx
  /-- phase recorded in SE2's latest checkpoint. 01 R11, 04 R94. Reset: off. -/
  mark : CoilPhase
  /-- pending checks held, at most 16. 04 R98. Reset: none (NV). -/
  checks : List PendingCheck
  deriving DecidableEq, Repr

/-- The transponder link after reset. -/
def Tpx.reset : Tpx :=
  { coil := 7, ilast := 0, phase := .off, job := none, queue := [], vlfHeld := false, lastStart := none,
    lastOff := none, stack := [], served := 0, found := [], contexts := 0, afterPoll := false, ctx := none, mark := .off,
    checks := [] }

/-! ## Release groups, doors and sessions (09_release_and_sessions.md) -/

/-- The state of a session table entry (R239). -/
inductive SessionPhase where
  | free | open | holding
  deriving DecidableEq, Repr

/-- One entry of the session table, with the counters of R266 and the receipt's evidence (R239, R266, R268-R272). -/
structure SessionEntry where
  /-- FREE, OPEN or HOLDING. Width: 2. 09 R239. Reset: FREE. -/
  phase : SessionPhase
  /-- session number. Width: 32. 09 R239. Reset: 0. -/
  number : Nat
  /-- group. Width: 1. 09 R239. Reset: 0. -/
  group : Nat
  /-- token identifier. Width: 64. 09 R239. Reset: 0. -/
  id : Nat
  /-- role. Width: 8. 09 R239. Reset: 0. -/
  role : Nat
  /-- transponder path. Width: 1. 09 R239. Reset: 0. -/
  coil : Bool
  /-- requester: a peer's device address; none for this device. Width: 16. 09 R239. Reset: none. -/
  peer : Option Nat
  /-- RTC second at which it opened. Width: 32. 09 R239. Reset: 0. -/
  opened : Nat
  /-- tick of its deadline. Width: ms. 09 R239, R243. Reset: 0. -/
  deadline : Nat
  /-- tick at which its hold began. Width: ms. 09 R246. Reset: 0. -/
  holdSince : Nat
  /-- import energy, mWh. Width: 48. 10 R266. Reset: 0. -/
  imp : Nat
  /-- export energy, mWh. Width: 48. 10 R266. Reset: 0. -/
  exp : Nat
  /-- charge in, mAh. Width: 48. 10 R266. Reset: 0. -/
  chIn : Nat
  /-- charge out, mAh. Width: 48. 10 R266. Reset: 0. -/
  chOut : Nat
  /-- unmetered time within the session, PLL cycles. Width: 64. 10 R264, R272. Reset: 0. -/
  gap : Nat
  /-- receipt flag bits 0 TAMPER, 1 SOURCE_B, 2 GAP, 3 NO_METER, 6 RTC_UNSET. Width: 8. 10 R272. Reset: 0. -/
  flags : Nat
  /-- largest window deviation. Width: 16. 10 R268. Reset: 0. -/
  dev : Nat
  deriving DecidableEq, Repr

/-- A FREE entry. -/
def SessionEntry.free : SessionEntry :=
  { phase := .free, number := 0, group := 0, id := 0, role := 0, coil := false, peer := none, opened := 0,
    deadline := 0, holdSince := 0, imp := 0, exp := 0, chIn := 0, chOut := 0, gap := 0, flags := 0, dev := 0 }

/-- An open or renewal request on a physical group (R241). -/
structure OpenReq where
  /-- group. Width: 1. 09 R241. -/
  group : Nat
  /-- token identifier. Width: 64. 09 R241. -/
  id : Nat
  /-- role. Width: 8. 09 R248. -/
  role : Nat
  /-- transponder path. Width: 1. 09 R248. -/
  coil : Bool
  /-- requester: a peer's device address; none for this device. Width: 16. 09 R242. -/
  peer : Option Nat
  /-- the peer's request number, or this device's own. Width: 16. 09 R248. -/
  reqNo : Nat
  /-- the context that made a local request: 0-15 LF, 16 transponder; none once it has returned to FREE. 09 R242. -/
  ctx : Option Nat
  /-- logical group of that context's request. Width: 1. 09 R247. -/
  logical : Nat
  /-- tick at which its wait began. Width: ms. 09 R242. -/
  since : Nat
  deriving DecidableEq, Repr

/-- One door input (R235, R236). -/
structure Door where
  /-- REL_DOORSTAT.STATEn code. Width: 3. 09 R236. Reset: 5 UNTESTED. -/
  state : Nat
  /-- reading of the latest run of samples. Width: 2. 09 R236. Reset: 0. -/
  reading : Nat
  /-- length of that run. Width: 8. 09 R236. Reset: 0. -/
  run : Nat
  deriving DecidableEq, Repr

/-- A door after reset. -/
def Door.reset : Door := { state := 5, reading := 0, run := 0 }

/-- The readback of one group (R234). -/
structure Readback where
  /-- latest reading: 0 low, 1 high, 2 between. Width: 2. 09 R234. Reset: 0. -/
  level : Nat
  /-- tick since which it has not matched the group; none while it matches. Width: ms. 09 R234. Reset: none. -/
  mismatch : Option Nat
  /-- opens are refused with RB_STUCK. Width: 1. 09 R234. Reset: 0. -/
  stuck : Bool
  /-- tick since which it has read low; none while it does not. Width: ms. 09 R234. Reset: none. -/
  lowSince : Option Nat
  deriving DecidableEq, Repr

/-- A readback after reset. -/
def Readback.reset : Readback := { level := 0, mismatch := none, stuck := false, lowSince := none }

/-- A request sent as a RELEASE_GRANT and not yet answered (R41, R248). -/
structure SentGrant where
  /-- request number. Width: 16. 09 R248. -/
  reqNo : Nat
  /-- owner's device address. Width: 16. 09 R248. -/
  owner : Nat
  /-- target group. Width: 1. 09 R248. -/
  group : Nat
  /-- token identifier. Width: 64. 09 R248. -/
  id : Nat
  /-- role. Width: 8. 09 R248. -/
  role : Nat
  /-- the context that waits for it; none once it has returned to FREE. 09 R255. -/
  ctx : Option Nat
  /-- logical group of the request. Width: 1. 09 R247. -/
  logical : Nat
  /-- path. Width: 1. 09 R248. -/
  coil : Bool
  deriving DecidableEq, Repr

/-- The release controller. -/
structure Rel where
  /-- session table, entries 0-7. 09 R239. Reset: FREE. -/
  sessions : Tbl SessionEntry
  /-- queued requests, oldest first, at most 8. 09 R242. Reset: none. -/
  queue : List OpenReq
  /-- opens that wait for a session-number ceiling. 09 R240. Reset: none. -/
  waiting : List OpenReq
  /-- next session number. Width: 33. 09 R240. Reset: 1 (NV). -/
  next : Nat
  /-- persisted ceiling: numbers below it may be issued. Width: 33. 09 R240. Reset: 1, nothing persisted. -/
  ceiling : Nat
  /-- RELA0, RELA1 pins as the KEEP latches drive them. Width: 2. 09 R231, R233. Reset: 0. -/
  relA : Nat
  /-- RELB0, RELB1 run their 1.000 kHz wave. Width: 2. 09 R231, R233. Reset: 0. -/
  relB : Nat
  /-- local requests answered OPENED that wait for the latch: context, logical group, group. 02 R41, 09 R232. Reset: none. -/
  latch : List (Nat × Nat × Nat)
  /-- doors 0-3. 09 R236. Reset: UNTESTED. -/
  doors : Tbl Door
  /-- readbacks of G0 and G1. 09 R234. Reset: low, nothing pending. -/
  rb : Tbl Readback
  /-- grants sent and unanswered, or answered QUEUED. 09 R248. Reset: none. -/
  sent : List SentGrant
  /-- request number of the next grant. Width: 16. 09 R248. Reset: 0 (DESIGN CHOICE, log 12). -/
  grantNo : Nat
  /-- latest hold sample, mA, and whether it is valid. Width: 24, 1. 09 R246. Reset: 0, invalid. -/
  hold : Nat × Bool
  /-- sum of |current A| over the block in progress, mA, and results in it. Width: 32, 7. 09 R246. Reset: 0. -/
  holdBlock : Nat × Nat
  /-- tick of the latest ring 11 event for a dropped frame. Width: ms. 09 R249. Reset: none. -/
  dropEvent : Option Nat
  deriving DecidableEq, Repr

/-- The release controller after reset. -/
def Rel.reset : Rel :=
  { sessions := [], queue := [], waiting := [], next := 1, ceiling := 1, relA := 0, relB := 0, latch := [], doors := [], rb := [],
    sent := [], grantNo := 0, hold := (0, false), holdBlock := (0, 0), dropEvent := none }

/-! ## Energy metrology and receipts (10_energy_metrology.md) -/

/-- One metrology channel (R259-R262). -/
structure Channel where
  /-- usable under R260; MTR_STATUS.USABLE shows it once a result has been delivered. Width: 1. 10 R260. Reset: 1 (neither condition of R260 holds). -/
  usable : Bool
  /-- results still to discard. Width: 2. 10 R259. Reset: 3. -/
  discard : Nat
  /-- consecutive calibrated results at the saturation value. Width: 5. 10 R260. Reset: 0. -/
  satRun : Nat
  /-- its input shows no transition for 256 cycles. Width: 1. 10 R260. Reset: 0. -/
  still : Bool
  /-- previous calibrated result, for the phase correction. Width: 24 signed. 10 R262. Reset: 0. -/
  prev : Int
  deriving DecidableEq, Repr

/-- A channel after reset. -/
def Channel.reset : Channel := { usable := true, discard := 3, satRun := 0, still := false, prev := 0 }

/-- A metering checkpoint (R267). -/
structure MeterCheckpoint where
  /-- lifetime import, mWh. Width: 48. 10 R267. -/
  imp : Nat
  /-- lifetime export, mWh. Width: 48. 10 R267. -/
  exp : Nat
  /-- lifetime charge in, mAh. Width: 48. 10 R267. -/
  chIn : Nat
  /-- lifetime charge out, mAh. Width: 48. 10 R267. -/
  chOut : Nat
  /-- gap time, PLL cycles. Width: 64. 10 R267. -/
  gap : Nat
  /-- RTC second. Width: 32. 10 R277. -/
  rtc : Nat
  /-- FINAL. Width: 1. 13 R362. -/
  final : Bool
  /-- session number of the bearer, 0 for none. Width: 32. 13 R354, 10 R266. -/
  bearer : Nat
  /-- the bearer's own counters: import, export, charge in, charge out. Width: 4 × 48. 13 R354. -/
  bearerOwn : List Nat
  deriving DecidableEq, Repr

/-- The figures of a receipt or roll-up before it is numbered and signed (R272, R276). -/
structure Draft where
  /-- kind 0x05 or 0x06. Width: 8. 10 R272. -/
  kind : Nat
  /-- session number. Width: 32. 10 R272. -/
  session : Nat
  /-- byte 14. Width: 8. 10 R272. -/
  byte14 : Nat
  /-- role. Width: 8. 10 R272. -/
  role : Nat
  /-- token identifier. Width: 64. 10 R272. -/
  id : Nat
  /-- open time. Width: 32. 10 R272. -/
  opened : Nat
  /-- end time. Width: 32. 10 R272. -/
  ended : Nat
  /-- end cause. Width: 8. 10 R272. -/
  cause : Nat
  /-- flags. Width: 8. 10 R272. -/
  flags : Nat
  /-- largest deviation. Width: 16. 10 R272. -/
  dev : Nat
  /-- session import, export, charge in, charge out. Width: 48 each. 10 R272. -/
  own : List Nat
  /-- lifetime import, export, charge in, charge out at the end. Width: 48 each. 10 R272. -/
  life : List Nat
  /-- unmetered time, s, rounded up. Width: 32. 10 R272. -/
  gap : Nat
  /-- sessions rolled up. Width: 32. 10 R276. -/
  rolled : Nat
  /-- first session rolled up. Width: 32. 10 R276. -/
  first : Nat
  deriving DecidableEq, Repr

/-- The open roll-up is a draft of kind 0x06 (R276). -/
abbrev RollUp := Draft

/-- The cross-check window in progress (R268). -/
structure XchkWindow where
  /-- results in it. Width: 32. 10 R268. Reset: 0. -/
  count : Nat
  /-- sum of power of pair A, µW. 10 R268. Reset: 0. -/
  powA : Int
  /-- sum of power of pair B, µW. 10 R268. Reset: 0. -/
  powB : Int
  /-- sum of |current| of pair A, mA. 10 R268. Reset: 0. -/
  curA : Nat
  /-- sum of |current| of pair B, mA. 10 R268. Reset: 0. -/
  curB : Nat
  /-- sum of signed current of the source pair, mA. 10 R282 MTR_CURR. Reset: 0. -/
  curSrc : Int
  /-- sum of power of the source pair, µW. 10 R282 MTR_PWR. Reset: 0. -/
  powSrc : Int
  /-- a pair was unusable, or the source was pair B, for part of it. Width: 1. 10 R268. Reset: 0. -/
  bad : Bool
  /-- session numbers OPEN or HOLDING during part of it. 10 R269. Reset: none. -/
  sessions : List Nat
  deriving DecidableEq, Repr

/-- An empty window. -/
def XchkWindow.reset : XchkWindow :=
  { count := 0, powA := 0, powB := 0, curA := 0, curB := 0, curSrc := 0, powSrc := 0, bad := false, sessions := [] }

/-- The metrology block and the receipts. -/
structure Mtr where
  /-- channels 0-3 (MDAT0-3). 10 R260. Reset: 3 results to discard. -/
  chans : Tbl Channel
  /-- accImp. Width: 64. 10 R264. Reset: 0. -/
  accImp : Nat
  /-- accExp. Width: 64. 10 R264. Reset: 0. -/
  accExp : Nat
  /-- accIn. Width: 64. 10 R264. Reset: 0. -/
  accIn : Nat
  /-- accOut. Width: 64. 10 R264. Reset: 0. -/
  accOut : Nat
  /-- accumulators whose residue holds energy of pair B: bit 0 import, 1 export, 2 charge in, 3 charge out. Width: 4. 10 R264, R272. Reset: 0. -/
  residueB : Nat
  /-- a result has been delivered since the start. Width: 1. 10 R259, R282. Reset: 0. -/
  delivered : Bool
  /-- lifetime import, mWh. Width: 48. 10 R265. Reset: 0 (NV). -/
  imp : Nat
  /-- lifetime export, mWh. Width: 48. 10 R265. Reset: 0 (NV). -/
  exp : Nat
  /-- lifetime charge in, mAh. Width: 48. 10 R265. Reset: 0 (NV). -/
  chIn : Nat
  /-- lifetime charge out, mAh. Width: 48. 10 R265. Reset: 0 (NV). -/
  chOut : Nat
  /-- gap time, PLL cycles. Width: 64. 10 R264. Reset: 0 (NV). -/
  gap : Nat
  /-- source of the latest result: 0 pair A, 1 pair B, 2 none. Width: 2. 10 R264. Reset: 2. -/
  source : Nat
  /-- counters or sessions changed since the last checkpoint. Width: 1. 10 R267. Reset: 0. -/
  changed : Bool
  /-- upper words latched by a read of a _LO register. Width: 4 × 16. 10 R282. Reset: 0. -/
  hiLatch : List Nat
  /-- cross-check window in progress. 10 R268. Reset: empty. -/
  window : XchkWindow
  /-- tick of the latest tamper event record. Width: ms. 10 R269. Reset: none. -/
  tamperEvent : Option Nat
  /-- a write of MTR_CTRL, MTR_CLK or MTR_DEC waits under R261 (MTR_STATUS.PENDING). Width: 1. 10 R261. Reset: 0. -/
  settingsPending : Bool
  /-- sessions that have ended and whose receipts SE9 has still to form, oldest first. 10 R271. Reset: none. -/
  due : List Draft
  /-- receipts formed and not committed: held unsigned (R273) or waiting for SE12 (R274), oldest first. 10 R273. Reset: none. -/
  formed : List Draft
  /-- the front of `formed` is with SE12. Width: 1. 10 R274. Reset: 0. -/
  committing : Bool
  /-- next receipt number. Width: 32. 10 R274. Reset: 1 (NV). -/
  rcptNext : Nat
  /-- highest receipt acknowledged. Width: 32. 10 R274. Reset: 0 (NV). -/
  rcptAck : Nat
  /-- highest acknowledgement deferred under the supply check, which is tried again. Width: 32. 10 R274. Reset: none. -/
  ackRetry : Option Nat
  /-- receipt-key epoch. Width: 16. 10 R278. Reset: 1 (NV). -/
  epoch : Nat
  /-- MTR_EPOCH.RELOADED. Width: 1. 10 R278. Reset: 0 (NV). -/
  reloaded : Bool
  /-- next receipt to write into a RECEIPT_BUFFER. Width: 32. 10 R275. Reset: 1. -/
  post : Nat
  /-- open roll-up. 10 R276. Reset: none (NV). -/
  rollup : Option RollUp
  /-- latest roll nonce, and whether it may still be used. Width: 128, 1. 10 R278. Reset: none. -/
  rollNonce : Option (Nat × Bool)
  /-- rotation of the AUX pins: the next pair is 2 × this. Width: 2. 10 R270. Reset: 0. -/
  auxTurn : Nat
  deriving DecidableEq, Repr

/-- Metrology after reset. -/
def Mtr.reset : Mtr :=
  { chans := [], accImp := 0, accExp := 0, accIn := 0, accOut := 0, residueB := 0, delivered := false, imp := 0, exp := 0, chIn := 0, chOut := 0, gap := 0,
    source := 2, changed := false, hiLatch := [0, 0, 0, 0], window := XchkWindow.reset, tamperEvent := none,
    settingsPending := false, due := [], formed := [], committing := false, rcptNext := 1, rcptAck := 0, ackRetry := none, epoch := 1,
    reloaded := false, post := 1, rollup := none, rollNonce := none, auxTurn := 0 }

/-! ## Host interface (12_host_interface.md) -/

/-- A 32-byte descriptor as its fields (R316). -/
structure Desc where
  /-- opcode. Width: 8. 12 R316. -/
  op : Nat
  /-- flags, bit 0 NO_INT. Width: 8. 12 R316. -/
  flags : Nat
  /-- tag. Width: 16. 12 R316. -/
  tag : Nat
  /-- length. Width: 32. 12 R316. -/
  len : Nat
  /-- host address. Width: 64. 12 R316. -/
  addr : Nat
  /-- parameter 0. Width: 64. 12 R316. -/
  p0 : Nat
  /-- parameter 1. Width: 64. 12 R316. -/
  p1 : Nat
  deriving DecidableEq, Repr

/-- A fetched descriptor whose completion has not been written (R319). -/
structure Outst where
  /-- the descriptor fetched. Width: 256. 12 R319. -/
  desc : Desc
  /-- its command has been taken up: executed, queued, or posted as a buffer. Width: 1. 12 R319. -/
  taken : Bool
  /-- it has passed its abort point. Width: 1. 12 R323. -/
  past : Bool
  /-- a PCIe reset has cut it off from its ring: it runs to its end, its host writes discarded and its completion not written. Width: 1. 12 R314. -/
  orphan : Bool
  deriving DecidableEq, Repr

/-- RING_STATUS.STATE (R347). -/
inductive RingPhase where
  | disabled | enabled | draining | error
  deriving DecidableEq, Repr

/-- One ring pair (R315, R347). -/
structure RingState where
  /-- RING_SQB base. Width: 64 (12 low bits zero). 12 R347. Reset: 0. -/
  sqBase : Nat
  /-- RING_CQB base. Width: 64 (12 low bits zero). 12 R347. Reset: 0. -/
  cqBase : Nat
  /-- RING_SIZE.SQK. Width: 5. 12 R347. Reset: 4. -/
  sqk : Nat
  /-- RING_SIZE.CQK. Width: 5. 12 R347. Reset: 4. -/
  cqk : Nat
  /-- RING_CTRL.INT_EN. Width: 1. 12 R347. Reset: 0. -/
  intEn : Bool
  /-- RING_CTRL.VECTOR once written; none while it has its reset value, the own position. Width: 6. 12 R347. Reset: own position. -/
  vector : Option Nat
  /-- RING_CTRL.COAL_CNT. Width: 8. 12 R347. Reset: 1. -/
  coalCnt : Nat
  /-- RING_COAL.TIME, µs. Width: 10. 12 R347. Reset: 50. -/
  coalTime : Nat
  /-- RING_STATUS.STATE and RING_CTRL.ENABLE. Width: 2. 12 R347. Reset: 0 DISABLED. -/
  phase : RingPhase
  /-- RING_STATUS.PHASE. Width: 1. 12 R320, R347. Reset: 1. -/
  cqPhase : Bool
  /-- RING_SQPTR.HEAD. Width: 16. 12 R347. Reset: 0. -/
  sqHead : Nat
  /-- RING_SQPTR.TAIL. Width: 16. 12 R347. Reset: 0. -/
  sqTail : Nat
  /-- RING_CQPTR.TAIL. Width: 16. 12 R347. Reset: 0. -/
  cqTail : Nat
  /-- RING_CQPTR.HEAD. Width: 16. 12 R347. Reset: 0. -/
  cqHead : Nat
  /-- RING_OVF.COUNT. Width: 32. 12 R347. Reset: 0. -/
  ovf : Nat
  /-- RING_ERR bits BAD_DB, DISABLED_DB, FETCH, WRITE. Width: 4. 12 R347. Reset: 0. -/
  err : Nat
  /-- outstanding descriptors in fetch order (RING_STATUS.OUTSTANDING is their number). Width: 0-64 of 256. 12 R319. Reset: none. -/
  outstanding : List Outst
  /-- completions counted since the ring's last interrupt. Width: 8. 12 R321. Reset: 0. -/
  coalPending : Nat
  /-- completions written and not yet consumed. Width: 17. 12 R319. Reset: 0. -/
  unread : Nat
  deriving DecidableEq, Repr

/-- A ring pair after reset (the Reset column of R347). -/
def RingState.reset : RingState :=
  { sqBase := 0, cqBase := 0, sqk := 4, cqk := 4, intEn := false, vector := none, coalCnt := 1, coalTime := 50,
    phase := .disabled, cqPhase := true, sqHead := 0, sqTail := 0, cqTail := 0, cqHead := 0, ovf := 0, err := 0,
    outstanding := [], coalPending := 0, unread := 0 }

/-- One entry of the clamp report window (R338). -/
structure ClampEntry where
  /-- register offset, 0xFFFF under R333. Width: 16. 12 R338. -/
  off : Nat
  /-- least significant bit of the field. Width: 8. 12 R338. -/
  lsb : Nat
  /-- width of the field. Width: 8. 12 R338. -/
  width : Nat
  /-- value written. Width: 32. 12 R338. -/
  written : Nat
  /-- value applied. Width: 32. 12 R338. -/
  applied : Nat
  /-- source: 0 register write, 1 blob, 2 regulatory record, 3 older blob. Width: 8. 12 R338. -/
  source : Nat
  /-- sequence. Width: 16. 12 R338. -/
  seq : Nat
  deriving DecidableEq, Repr

/-- One audit entry (R340). The sequence number is given when the change is made. -/
structure AuditEntry where
  /-- sequence number. Width: 32. 12 R340. -/
  seq : Nat
  /-- RTC seconds. Width: 32. 12 R340. -/
  rtc : Nat
  /-- source code. Width: 8. 12 R340. -/
  source : Nat
  /-- ring. Width: 8. 12 R340. -/
  ring : Nat
  /-- opcode. Width: 8. 12 R340. -/
  opcode : Nat
  /-- requester, the master mask bit number. Width: 8. 12 R340. -/
  requester : Nat
  /-- register offset. Width: 16. 12 R340. -/
  off : Nat
  /-- value before. Width: 32. 12 R340. -/
  before : Nat
  /-- value after. Width: 32. 12 R340. -/
  after : Nat
  /-- detail. Width: 64. 12 R340. -/
  detail : Nat
  deriving DecidableEq, Repr

/-- A proxy frame held by its sender (R325): header type, ring byte and body. -/
structure ProxyFrame where
  /-- proxy sequence, given when the frame is sent. Width: 16. 12 R326. -/
  seq : Nat
  /-- frame type of R325. Width: 8. 12 R325. -/
  kind : Nat
  /-- ring 0-15, 0xFF for frames of no ring. Width: 8. 12 R325. -/
  ring : Nat
  /-- body in transmission order. Width: bytes. 12 R325. -/
  body : Bytes
  deriving DecidableEq, Repr

/-- One end of a proxy link of one class (R325, R326). -/
structure ProxyLink where
  /-- next proxy sequence to give. Width: 16. 12 R326. Reset: 0. -/
  txNext : Nat
  /-- next proxy sequence expected from the peer. Width: 16. 12 R326. Reset: 0. -/
  rxNext : Nat
  /-- frames sent and not acknowledged, oldest first, at most 32. 12 R326. Reset: none. -/
  unacked : List ProxyFrame
  /-- frames waiting for a place among the 32, oldest first. 12 R326, R328. Reset: none. -/
  waiting : List ProxyFrame
  /-- resends since the last advance. Width: 8. 12 R326. Reset: 0. -/
  resends : Nat
  /-- the link is LOST. Width: 1. 12 R326. Reset: 0. -/
  lost : Bool
  deriving DecidableEq, Repr

/-- A link after a reset of both ends (R327). -/
def ProxyLink.reset : ProxyLink :=
  { txNext := 0, rxNext := 0, unacked := [], waiting := [], resends := 0, lost := false }

/-- A BAR4 read of a downstream position that waits for its REG_DATA (R328). -/
structure BarRead where
  /-- request number. Width: 16. 12 R325. -/
  req : Nat
  /-- position. Width: 6. 12 R313. -/
  pos : Nat
  /-- register offset. Width: 16. 12 R325. -/
  off : Nat
  deriving DecidableEq, Repr

/-- A ring 15 message posted and not yet taken by APP (R344). -/
structure MailboxMsg where
  /-- tag of its POST. Width: 16. 12 R344. -/
  tag : Nat
  /-- channel. Width: 16. 12 R344. -/
  channel : Nat
  /-- data. Width: 1-4,096 bytes. 12 R344. -/
  data : Bytes
  deriving DecidableEq, Repr

/-- A READ_REQ of this device that waits for its READ_DATA (R325). -/
structure HostRead where
  /-- request number. Width: 16. 12 R325. -/
  req : Nat
  /-- length. Width: 10. 12 R325. -/
  len : Nat
  /-- tag of the command whose host buffer it reads; none for a descriptor. Width: 16. 12 R322. -/
  tag : Option Nat
  deriving DecidableEq, Repr

/-- The host interface's own state. -/
structure Hif where
  /-- the PCIe function is in D3hot. Width: 1. 12 R314. Reset: 0. -/
  d3hot : Bool
  /-- HIF_SUBSYS as presented by the endpoint since the last PCIe reset. Width: 32. 12 R346. Reset: 0x0001_1F3C. -/
  subsys : Nat
  /-- maximum read request, bytes, as the host has set it: 128, 256 or 512. Width: 10. 12 R311. Reset: 512 (PRESUMED, log 133). -/
  maxRead : Nat
  /-- clamp report entries held, latest first, at most 64. 12 R338. Reset: none. -/
  clampLog : List ClampEntry
  /-- audit entries waiting in SRAM, oldest first, at most 256 while deferred. 12 R339. Reset: none. -/
  auditWaiting : List AuditEntry
  /-- the supply check has deferred a commit of audit entries since the last that succeeded. Width: 1. 12 R339. Reset: 0. -/
  auditDeferred : Bool
  /-- host writes and vectors that wait for D0, oldest first. 12 R314. Reset: none. -/
  stalled : List (Bool × Nat × Bytes)
  /-- MSI-X table words, key the word index 0-255; vector control words mask their vector when unlisted. Width: 64 × 128. 12 R345. Reset: zero, every vector masked (PRESUMED, log 19). -/
  msixTable : Cells
  /-- MSI-X pending bits. Width: 64. 12 R345. Reset: 0. -/
  pba : Nat
  /-- configuration changed since the last record saved. Width: 1. 12 R336. Reset: 0. -/
  cfgChanged : Bool
  /-- proxy links, key position × 2 + class (0 RANGE, 1 BULK); on a downstream device position 0 stands for the head. 12 R325. Reset: all reset. -/
  links : Tbl ProxyLink
  /-- BAR4 reads that wait for REG_DATA. 12 R328. Reset: none. -/
  barReads : List BarRead
  /-- RING_SQB, RING_CQB and RING_SIZE of downstream positions as the host has written them through BAR4, key position × 65,536 + offset; the head's own. Width: 32 each. 12 R322. Reset: none. -/
  ringRegs : Cells
  /-- request number of the next REG_READ. Width: 16. 12 R325. Reset: 0 (DESIGN CHOICE, log 12). -/
  regReq : Nat
  /-- request number of the next READ_REQ. Width: 16. 12 R325. Reset: 0 (DESIGN CHOICE, log 12). -/
  readReq : Nat
  /-- READ_REQs sent and unanswered. 12 R325. Reset: none. -/
  readsOpen : List HostRead
  /-- host bytes delivered by READ_DATA, latest first: request number, failed, data. 12 R325. Reset: none. -/
  readData : List (Nat × Bool × Bytes)
  /-- ring 15 messages not yet taken by APP, oldest first, at most 8. 12 R344. Reset: none. -/
  mailbox : List MailboxMsg
  /-- values that the latest profile selection set in the eleven bundle fields, in the order of R20. Width: each field's. 01 R20, R21. Reset: those of PACE. -/
  profileSet : List Nat
  deriving DecidableEq, Repr

/-- The host interface after reset. -/
def Hif.reset : Hif :=
  { d3hot := false, subsys := 0x00011F3C, maxRead := 512, clampLog := [], auditWaiting := [], auditDeferred := false, stalled := [], msixTable := [], pba := 0, cfgChanged := false, links := [],
    barReads := [], ringRegs := [], regReq := 0, readReq := 0, readsOpen := [], readData := [], mailbox := [],
    profileSet := [1000, 200, 2, 16, 0, 3, 1, 0, 64, 2, 1] }

/-! ## The Laurel store (13_laurel_store.md) -/

/-- The areas of the store in the order of the ring 9 mask (R348, R368). -/
inductive Area where
  | critA | critB | meter | state | receipt | audit
  deriving DecidableEq, Repr

/-- The data of a record (R354; formats other than host records are internal, so the data is held as what it stands
for). -/
inductive RecData where
  /-- configuration set header 0x0001: generation, part count, and the format of the configuration (14 R385) -/
  | cfgHeader (gen parts format : Nat)
  /-- configuration set part 0x0002-0x000F: generation and cells -/
  | cfgPart (gen : Nat) (cells : Cells)
  /-- regulatory record 0x0010: 72 bytes -/
  | regRec (bytes : Bytes)
  /-- sealed copy of a key slot 0x0020 + n: its 68 bytes -/
  | sealed (bytes : Bytes)
  /-- Holly set header 0x0060: generation, epoch, mode (1 individual), effective time, part count -/
  | hollyHeader (gen epoch : Nat) (individual : Bool) (time parts : Nat)
  /-- Holly part: generation and slots -/
  | hollyPart (gen : Nat) (slots : Tbl HollySlot)
  /-- metering checkpoint 0x0100: lifetime counters, gap time, bearer and its counters, FINAL -/
  | checkpoint (c : MeterCheckpoint)
  /-- session-table entry 0x0101 + n -/
  | session (e : SessionEntry)
  /-- lock-out state of a Holly part 0x0110 + n, tagged with the Holly generation -/
  | lockout (gen rtc : Nat) (slots : Tbl LockState)
  /-- state of R223, 0x013F -/
  | unknown (rtc : Nat) (u : UnknownState)
  /-- counter ceilings and the session-number ceiling 0x0140 -/
  | ceilings (h : Cells) (session : Nat)
  /-- 0x0141: highest receipt acknowledged, receipt-key epoch, next receipt number, RELOADED -/
  | receiptState (acked epoch next : Nat) (reloaded : Bool)
  /-- open roll-up 0x0142; none when no roll-up is open -/
  | rollup (r : Option RollUp)
  /-- pending checks 0x0143 -/
  | pendingChecks (l : List PendingCheck)
  /-- one receipt 0x0200 -/
  | receipt (number : Nat) (bytes : Bytes)
  /-- 1 to 31 audit entries 0x0300 -/
  | audit (l : List AuditEntry)
  /-- host record 0x8000-0x80FF -/
  | host (bytes : Bytes)
  /-- a value of one NV register field kept for the device itself (NVS_SCRUBLAST, HIF_AUDIT counts) -/
  | cell (key value : Nat)
  deriving DecidableEq, Repr

/-- A record as it stands in a flash (R352, R353). -/
structure StoredRec where
  /-- area. 13 R348. -/
  area : Area
  /-- sector within the area. Width: 8. 13 R348. -/
  sector : Nat
  /-- byte offset within the sector. Width: 12. 13 R352. -/
  offset : Nat
  /-- lap bit. Width: 1. 13 R351. -/
  lap : Bool
  /-- key. Width: 16. 13 R354. -/
  key : Nat
  /-- sequence. Width: 32. 13 R352. -/
  seq : Nat
  /-- flag bit 1 delete. Width: 1. 13 R352. -/
  delete : Bool
  /-- flag bit 2 scrub copy. Width: 1. 13 R352. -/
  scrub : Bool
  /-- the commit byte reads 0x00. Width: 1. 13 R353. -/
  committed : Bool
  /-- its header check passes. Width: 1. 13 R353. -/
  headOk : Bool
  /-- its CRC-32 passes. Width: 1. 13 R353. -/
  checks : Bool
  /-- byte at which a power loss cut its program; none for a record programmed to its end. Width: 11. 13 R363. -/
  cut : Option Nat
  /-- data. Width: 0-1,024 bytes. 13 R354. -/
  data : RecData
  deriving DecidableEq, Repr

/-- The bookkeeping of one area (R350, R351, R358). Sectors are written in ring order. -/
structure AreaState where
  /-- sector being written. Width: 8. 13 R351. Reset: 0. -/
  writeSector : Nat
  /-- next free byte in it. Width: 13. 13 R350. Reset: 16, after the sector header. -/
  fill : Nat
  /-- its lap bit. Width: 1. 13 R350. Reset: 0. -/
  lap : Bool
  /-- sectors of the area beside the write sector that are not formatted and free. Width: 8. 13 R351, R368. Reset: 0. -/
  taken : Nat
  /-- an erase is in progress. Width: 1. 13 R350. Reset: 0. -/
  erasing : Bool
  /-- FULL set on the write sector. Width: 1. 13 R350. Reset: 0. -/
  full : Bool
  /-- IN_USE set on the write sector. Width: 1. 13 R350, R363. Reset: 0. -/
  inUse : Bool
  /-- erase count of each sector. Width: 32. 13 R350. Reset: 0. -/
  erases : Cells
  /-- sectors whose header read weak and whose live records have still to be copied forward. Width: 8 each. 13 R366. Reset: none. -/
  weak : List Nat
  /-- sectors out of their turn in the ring that are marked ERASING. Width: 8 each. 13 R350, R366. Reset: none. -/
  erase : List Nat
  /-- sectors that do not count as formatted, erased before use. Width: 8 each. 13 R350, R363. Reset: none. -/
  unformatted : List Nat
  deriving DecidableEq, Repr

/-- A record a request has still to program. -/
structure RecItem where
  /-- area. 13 R357. -/
  area : Area
  /-- key. Width: 16. 13 R354. -/
  key : Nat
  /-- delete flag. Width: 1. 13 R352. -/
  delete : Bool
  /-- data length. Width: 11. 13 R352. -/
  len : Nat
  /-- data. 13 R354. -/
  data : RecData
  deriving DecidableEq, Repr

/-- What a request changes once its last record is committed (R360: a ring command whose change needs a record takes
effect, and completes, only then). -/
inductive NvEffect where
  /-- nothing beyond the record -/
  | none
  /-- the configuration record is saved (R336) -/
  | config
  /-- a regulatory record is accepted (R130) -/
  | regRec (tag : Nat) (bytes : Bytes)
  /-- a key slot takes its new content (R190) -/
  | slot (tag op n : Nat) (slot : KeySlot) (result : Nat)
  /-- the Holly table is changed by ring 2 command `op`, with the entry it enrols, or the identifier it revokes (R215-R217) -/
  | holly (tag op : Nat) (entry : HollySlot)
  /-- a learn is committed (R217) -/
  | learn (tag : Nat) (set : HollySet)
  /-- UNLOCK of an identifier, 0 for the counter of R223 (R225) -/
  | unlock (tag id : Nat)
  /-- ROLLOVER (R278) -/
  | rollover (tag newEpoch : Nat)
  /-- a session-number ceiling (R240) -/
  | sessionCeiling (ceiling : Nat)
  /-- a counter ceiling (R180) -/
  | counterCeiling (tag : Option Nat) (slot ceiling : Nat)
  /-- the counter ceilings that every start raises (R180) -/
  | startCeilings
  /-- a receipt (R274) -/
  | receipt (number : Nat) (bytes : Bytes)
  /-- an acknowledgement (R274); no tag where the device tries it again -/
  | ack (tag : Option Nat) (number : Nat)
  /-- ring 9 WRITE (R368) -/
  | hostWrite (tag key seq : Nat)
  /-- ring 9 DELETE (R368) -/
  | hostDelete (tag key present : Nat)
  /-- waiting audit entries (R339) -/
  | audit (count : Nat)
  /-- a metering checkpoint (R267) -/
  | checkpoint
  /-- lock-out state (R224) -/
  | lockout
  /-- an import (R388); no tag where a start completes one that was cut short -/
  | import (tag : Option Nat) (record : Bytes)
  /-- a life-cycle transition that wipes slots (R192) -/
  | lifeCycle (tag target : Nat)
  deriving DecidableEq, Repr

/-- A request waiting for SE12 (R19: served in arrival order). -/
structure NvReq where
  /-- records still to program, in order. 13 R357. -/
  items : List RecItem
  /-- its first program has started. Width: 1. 13 R357. -/
  started : Bool
  /-- what happens when the last is committed. 13 R360. -/
  eff : NvEffect
  deriving DecidableEq, Repr

/-- The Laurel store manager's state. -/
structure Nvs where
  /-- the records in the flashes, in the order programmed. Width: 512 KiB data flash and 2 MiB of code flash. 13 R348, R352. Reset: none (DESIGN CHOICE, log 13). -/
  recs : List StoredRec
  /-- the areas, key 0-5 in mask order. 13 R350. Reset: formatted, nothing written (DESIGN CHOICE, log 13). -/
  areas : Tbl AreaState
  /-- requests waiting for SE12, oldest first; NVS_STATUS.QUEUE is their number. 13 R19, R370. Reset: none. -/
  queue : List NvReq
  /-- VHOLD has reached 4.5 V since the start. Width: 1. 13 R360. Reset: 0. -/
  holdSeen : Bool
  /-- a main supply failure has been reported. Width: 1. 13 R362. Reset: 0. -/
  failing : Bool
  /-- keys whose copy B has still to be written. 13 R357. Reset: none. -/
  single : List Nat
  /-- areas (0-5) whose erase was interrupted and comes before any request in W2108 mode. 13 R367. Reset: none. -/
  repeatErase : List Nat
  /-- generation of the configuration set in force. Width: 32. 13 R356. Reset: 0. -/
  cfgGen : Nat
  /-- the metering checkpoint that stood at the start lacked FINAL: the next receipt carries the flag of R267. Width: 1. 13 R364. Reset: 0. -/
  firstReceiptFlag : Bool
  deriving DecidableEq, Repr

/-- An area with nothing written: its first sector formatted and every other sector free. -/
def AreaState.reset : AreaState :=
  { writeSector := 0, fill := 16, lap := false, taken := 0, erasing := false, full := false, inUse := false, erases := [],
    weak := [], erase := [], unformatted := [] }

/-- The store of a new device. -/
def Nvs.reset : Nvs :=
  { recs := [], areas := [], queue := [], holdSeen := false, failing := false, single := [], repeatErase := [], cfgGen := 0,
    firstReceiptFlag := false }

/-! ## Power, clocks and supervision (15_power_and_supervision.md) -/

/-- Where the device stands between reset and service (R346 SYS_STATE, R373 RECOVERY, R397 SEED, R410 FAILED). -/
inductive Mode where
  /-- VDD_CORE absent: only the RTC runs on VBK (R397) -/
  | seed
  /-- from the release of reset to the end of the start sequence (R402) -/
  | starting
  /-- SYS_STATE RUNNING -/
  | running
  /-- only APP, the host interface and the store run, waiting for an image (R373) -/
  | recovery
  /-- R410 -/
  | failed
  deriving DecidableEq, Repr

/-- One entry of the fault history (R418). -/
structure FaultEntry where
  /-- fault code. Width: 8. 15 R418. -/
  code : Nat
  /-- role or island. Width: 8. 15 R418. -/
  unit : Nat
  /-- gap in µs. Width: 16. 15 R418. -/
  gap : Nat
  /-- RTC. Width: 32. 15 R418. -/
  rtc : Nat
  /-- fabric time [31:0]. Width: 32. 15 R418. -/
  time : Nat
  deriving DecidableEq, Repr

/-- The scheduler's kinds of task (R413, R417): LF channel diagnostic, sub-GHz block, UWB block, oscillator trim. -/
inductive TaskKind where
  | lfDiag | sgrCal | uwbCal | oscTrim
  deriving DecidableEq, Repr

/-- A scheduled task (R413). -/
structure Task where
  /-- kind. 15 R413. -/
  kind : TaskKind
  /-- LF channel for a diagnostic, mask of calibrations for a block. Width: 8. 15 R413. -/
  arg : Nat
  /-- tick of its deadline. Width: ms. 15 R413. -/
  deadline : Nat
  /-- ring 13 SELFTEST tags that wait on it. 15 R417. -/
  selftests : List Nat
  /-- calibrations that the device itself or a SELFTEST asked for; a waiting CALIBRATE may ask for more. Width: 8. 05 R120, R121. -/
  own : Nat
  /-- it has been repeated once after a failure. Width: 1. 05 R123. -/
  repeated : Bool
  deriving DecidableEq, Repr

/-- A ring 13 SELFTEST in progress (R417). -/
structure SelfTest where
  /-- tag. Width: 16. -/
  tag : Nat
  /-- tasks not yet ended. Width: 5. 15 R417. -/
  waiting : Nat
  /-- tasks passed. Width: 5. 15 R417. -/
  passed : Nat
  /-- mask asked for. Width: 5. 15 R417. -/
  mask : Nat
  /-- LF channels whose diagnostic is still to end. Width: 8. 15 R417. -/
  channels : Nat
  deriving DecidableEq, Repr

/-- A ring 13 PROD_TX in progress (R417). -/
structure ProdTx where
  /-- tag. Width: 16. -/
  tag : Nat
  /-- radio: false sub-GHz, true UWB. Width: 1. 15 R417. -/
  uwb : Bool
  /-- frames still to send. Width: 16. 15 R417. -/
  left : Nat
  /-- frames sent. Width: 16. 15 R417. -/
  sent : Nat
  /-- period of its frames, µs. Width: 20. 15 R417. -/
  period : Nat
  /-- tick from which the next frame is due. Width: ms. 15 R413, R417. -/
  due : Nat
  deriving DecidableEq, Repr

/-- A faulted role waiting for the spare (R407, R408). -/
structure VacantRole where
  /-- role SE0-SE13. Width: 4. 15 R407. -/
  role : Nat
  /-- tick of the fault. Width: ms. 15 R407. -/
  since : Nat
  deriving DecidableEq, Repr

/-- Power, clocks and supervision. -/
structure Pwr where
  /-- the deep rung held, 3 TWIG or 4 COPPICE; none above them. Width: 3. 15 R395. Reset: none. -/
  deep : Option Nat
  /-- VDD_CORE, VDD_IO, VDD_ANA, VDD_RF, VLF, VBK, VHOLD in mV. Width: 16 each. 15 R404, R418; 16. Reset: 800, 1800, 1800, 1800, 0, 3000, 0 (DESIGN CHOICE, log 14). -/
  supplies : List Nat
  /-- die temperature, 0.1 °C, signed. Width: 16. 15 R414, R418. Reset: 0, as PWR_THERM.TEMP reads. -/
  temp : Int
  /-- governor level from the die temperature alone. Width: 2. 15 R414. Reset: 0. -/
  thermLevel : Nat
  /-- AUX pins that read hot. Width: 8. 15 R415. Reset: 0. -/
  ntcHot : Nat
  /-- sequence of the next event record. Width: 32. 15 R416. Reset: 1. -/
  eventSeq : Nat
  /-- fault history, latest first, at most 16; in KEEP SRAM. 15 R418. Reset: none. -/
  history : List FaultEntry
  /-- single faults since start. Width: 32. 15 R418. Reset: 0. -/
  singleFaults : Nat
  /-- RTC seconds of the automatic restarts within the latest 86,400 s; in KEEP SRAM. 15 R412. Reset: none. -/
  autoRestarts : List Nat
  /-- ticks of the latest relock per island (0 LF, 1 RF, 2 METER). 15 R399. Reset: none. -/
  relocks : Cells
  /-- tick at which the FAILED grace time ends; none when no grace runs. 09 R253. Reset: none. -/
  graceEnd : Option Nat
  /-- scheduler tasks in arrival order. 15 R413. Reset: none. -/
  tasks : List Task
  /-- the task running now. 15 R413. Reset: none. -/
  running : Option Task
  /-- SELFTESTs in progress. 15 R417. Reset: none. -/
  selftests : List SelfTest
  /-- PROD_TX in progress. 15 R417. Reset: none. -/
  prodTx : Option ProdTx
  /-- engines held in reset by a fault. 15 R407. Reset: none. -/
  deadEngines : List Nat
  /-- a faulted role that waits for the spare. 15 R407. Reset: none. -/
  vacant : Option VacantRole
  /-- what is addressed to that role, held until the spare runs it, and what the spare has still to take of it; the oldest first. 15 R408. Reset: none. -/
  inputs : List Instr
  /-- tick of the latest state record of each role, plus 1. Width: ms. 01 R11. Reset: none. -/
  checkpoints : Cells
  /-- the SPRIG island has stopped with the system PLL. Width: 1. 15 R399. Reset: 0. -/
  sprigStopped : Bool
  /-- RTC nonce held and tick of its issue. Width: 128. 15 R400. Reset: none. -/
  rtcNonce : Option (Nat × Nat)
  /-- tick of the latest small step. Width: ms. 15 R400. Reset: none. -/
  smallStep : Option Nat
  /-- RTC seconds since 2024-01-01. Width: 32. 15 R400. Reset: 0, lost at the first start (R397). -/
  rtc : Nat
  /-- place within the RTC second, in 1/125 of a KEEP cycle: 4,096 to the millisecond. Width: 22. 15 R400. Reset: 0. -/
  rtcPhase : Nat
  /-- error of the 32.768 kHz crystal run up since the RTC last added or dropped a KEEP cycle, in 1/9,765,625 of a cycle. Width: 25 signed. 05 R122. Reset: 0. -/
  rtcDrift : Int
  /-- the 38.4 MHz source is a TCXO. Width: 1. 16 R432. Reset: 0 until reset is released. -/
  tcxo : Bool
  /-- the supply that has failed, as 15 R404 lists them: 0 VDD_CORE, 1 VDD_IO, 2 VDD_ANA, 3 VDD_RF. Width: 2. 15 R405. Reset: none. -/
  failedSupply : Option Nat
  /-- the crystal amplifier of XI38 and XO38 is on. Width: 1. 16 R432, R420. Reset: 0 (off until reset is released). -/
  amp38 : Bool
  /-- APP serves its rings. Width: 1. 12 R346. Reset: 0. -/
  appServing : Bool
  /-- the start sequence has reached the steps at which the blocks take their pins. Width: 1. 16 R420, R421, R436. Reset: 0. -/
  pinsTaken : Bool
  deriving DecidableEq, Repr

/-- Power and supervision after reset. -/
def Pwr.reset : Pwr :=
  { deep := none, supplies := [800, 1800, 1800, 1800, 0, 3000, 0], temp := 0, thermLevel := 0,
    ntcHot := 0, eventSeq := 1, history := [], singleFaults := 0, autoRestarts := [], relocks := [],
    graceEnd := none, tasks := [], running := none, selftests := [], prodTx := none, deadEngines := [],
    vacant := none, inputs := [], checkpoints := [], sprigStopped := false, rtcNonce := none, smallStep := none, rtc := 0, rtcPhase := 0,
    rtcDrift := 0,
    tcxo := false, failedSupply := none, amp38 := false, appServing := false, pinsTaken := false }

/-! ## The poll cycle and its contexts (02_release_cycle.md, 06_proximity.md) -/

/-- The states of an authentication context between FREE and FREE (R43); a FREE context is none. -/
inductive CtxPhase where
  | held | challenging | keyed | ranging | bounding | fusing | granting
  deriving DecidableEq, Repr

/-- One completed exchange (R145, R148). -/
structure Exchange where
  /-- range, nm. Width: signed. 06 R145. -/
  range : Int
  /-- u × den, where den is 13,107,200 × PITCH. Width: signed. 06 R148. -/
  u : Int
  /-- v × den. Width: signed. 06 R148. -/
  v : Int
  /-- every chain had the path its mode asks for. Width: 1. 06 R148. -/
  paths : Bool
  /-- channel 9. Width: 1. 05 R112. -/
  nine : Bool
  /-- raw d1, d2, d3 in 1/65,536 turn. Width: 3 × 16. 06 R162. -/
  raw : List Nat
  /-- clock offset estimated, 0.01 ppm. Width: 16 signed. 06 R146. -/
  offset : Int
  deriving DecidableEq, Repr

/-- The result of a bounding run (R154). Distances are in 10^-14 mm. -/
structure BoundResult where
  /-- wrong rounds. Width: 7. 06 R154. -/
  wrong : Nat
  /-- good rounds. Width: 7. 06 R154. -/
  good : Nat
  /-- sum of the good distances. Width: signed. 06 R154. -/
  sum : Int
  /-- largest good distance. Width: signed. 06 R154. -/
  maxd : Int
  deriving DecidableEq, Repr

/-- One authentication context of the LF path (R42, R43). -/
structure Ctx where
  /-- state. Width: 3. 02 R43. -/
  phase : CtxPhase
  /-- announce slot. Width: 4. 02 R30. -/
  slot : Nat
  /-- token identifier. Width: 64. 08 R203. -/
  id : Nat
  /-- Nt of the announce. Width: 128. 08 R203. -/
  nt : Nat
  /-- the 31 bytes of the announce after its sync word, as received. Width: 31 bytes. 08 R203. -/
  announce : Bytes
  /-- announce RSSI, dBm, signed. Width: 8. 06 R162. -/
  rssi : Int
  /-- Holly slot found at HELD; none for an identifier in no slot. Width: 11. 08 R222. -/
  holly : Option Nat
  /-- that slot's content as it was found. 02 R39. -/
  entry : HollySlot
  /-- set epoch in force when the slot was found. Width: 32. 02 R39. -/
  epoch : Nat
  /-- channel of FS_A. Width: 3. 06 R156. -/
  chA : Nat
  /-- channel of FS_B; none when FS_B is not used. Width: 3. 06 R156. -/
  chB : Option Nat
  /-- loop currents attached to FS_A and FS_B, mA. Width: 12 each. 03 R60. -/
  loops : Nat × Nat
  /-- IPEAK in force when the announce came, mA. Width: 11. 03 R60. -/
  ipeak : Nat
  /-- Nd. Width: 128. 08 R204. -/
  nd : Nat
  /-- Kt. Width: 128. 08 R202. -/
  kt : Nat
  /-- Ks. Width: 128. 08 R208. -/
  ks : Nat
  /-- the challenge as sent. Width: bytes. 08 R205. -/
  challenge : Bytes
  /-- tick at which it reached KEYED. Width: ms. 02 R38. -/
  keyedAt : Nat
  /-- channel of its next round is 9. Width: 1. 05 R112. -/
  nextNine : Bool
  /-- exchanges completed, first first. 06 R145. -/
  exchanges : List Exchange
  /-- UWB channels used, bit 0 channel 5, bit 1 channel 9. Width: 2. 06 R162. -/
  channels : Nat
  /-- challenge bits of the bounding run. Width: 128. 06 R150. -/
  boundNonce : Nat
  /-- result of the bounding run; none before its end. 06 R154. -/
  bound : Option BoundResult
  /-- session requests. 02 R41. -/
  reqs : Requests
  /-- fused point, zone and tests as the report shows them. 06 R162. -/
  fused : Option Bytes
  /-- detail code. Width: 8. 06 R158. -/
  detail : Nat
  deriving DecidableEq, Repr

/-- Where the poll cycle stands (R25-R34). -/
inductive CyclePhase where
  /-- no cycle -/
  | idle
  /-- wake pattern being sent -/
  | pattern
  /-- the 0.500 ms between pattern and window -/
  | gap
  /-- the announce window; its slot is `slot` -/
  | window
  /-- challenges and responses -/
  | exchanges
  /-- every challenge settled; contexts still ranged, fused or granting -/
  | draining
  deriving DecidableEq, Repr

/-- The poll cycle. -/
structure Cyc where
  /-- phase. Width: 3. 02 R25. Reset: idle. -/
  phase : CyclePhase
  /-- slot open in the announce window. Width: 4. 02 R30. Reset: 0. -/
  slot : Nat
  /-- carrier was detected in that slot and an announce received. Width: 1. 02 R30. Reset: 0. -/
  slotBusy : Bool
  /-- contexts open, key the context number in order of allocation. Width: 16. 02 R32. Reset: none. -/
  ctxs : List (Nat × Ctx)
  /-- contexts allocated in this cycle. Width: 5. 02 R32. Reset: 0. -/
  allocated : Nat
  /-- the context whose challenge or response is on air; none between exchanges. Width: 4. 02 R34. Reset: none. -/
  onAir : Option Nat
  /-- contexts in KEYED or later, in the order in which they reached KEYED, not yet bounded. 02 R37. Reset: none. -/
  keyed : List Nat
  /-- identifiers that have reached KEYED in this cycle. 02 R36. Reset: none. -/
  keyedIds : List Nat
  /-- tick at which the cycle's first bit began; none before the first. Width: ms. 02 R26. Reset: none. -/
  startTick : Option Nat
  /-- COEX_REQ pin. Width: 1. 05 R124. Reset: 0. -/
  coexReq : Bool
  /-- COEX_PRI pin. Width: 1. 05 R124. Reset: 0. -/
  coexPri : Bool
  deriving DecidableEq, Repr

/-- The cycle after reset. -/
def Cyc.reset : Cyc :=
  { phase := .idle, slot := 0, slotBusy := false, ctxs := [], allocated := 0, onAir := none, keyed := [],
    keyedIds := [], startTick := none, coexReq := false, coexPri := false }

/-! ## Low-frequency field (03_lf_field.md) -/

/-- What is known of an LF channel by test (R68). UNUSED is the reading of a channel no enabled entry names, and
DETUNED and CURRENT_LOW stand beside a sound channel. -/
inductive ChanBase where
  | ok | openCircuit | shortGnd | shortVlf | untested
  deriving DecidableEq, Repr

/-- One LF channel (R51, R56, R68, R440). -/
structure LfChan where
  /-- finding of the latest diagnostic or trip. Width: 3. 03 R68. Reset: UNTESTED. -/
  base : ChanBase
  /-- DETUNED. Width: 1. 03 R56. Reset: 0. -/
  detuned : Bool
  /-- CURRENT_LOW. Width: 1. 03 R51. Reset: 0. -/
  currentLow : Bool
  /-- tracked resonance, 10 Hz units (LF_TRIM.RESFREQ). Width: 14. 03 R440. Reset: 0. -/
  resonance : Nat
  /-- LF_TRIM.VALID. Width: 1. 03 R440. Reset: 0. -/
  valid : Bool
  deriving DecidableEq, Repr

/-- A channel after reset. -/
def LfChan.reset : LfChan := { base := .untested, detuned := false, currentLow := false, resonance := 0, valid := false }

/-- A charge laid on the duty rings: ticks, length in µs and the channels named (R64). -/
structure LfCharge where
  /-- first tick. Width: ms. 03 R64. -/
  tick : Nat
  /-- length, µs. Width: 16. 03 R64. -/
  len : Nat
  /-- mask of the channels named. Width: 8. 03 R64. -/
  chans : Nat
  deriving DecidableEq, Repr

/-- A wake pattern as sent (R57, R58, R60). -/
structure Pattern where
  /-- schedule entry. Width: 3. 03 R61. -/
  entry : Nat
  /-- channel of bits 0-3. Width: 3. 03 R58. -/
  chA : Nat
  /-- channel of bits 4-7; none when the pattern runs on one channel. Width: 3. 03 R58. -/
  chB : Option Nat
  /-- PHASE of the entry. Width: 2. 03 R58. -/
  phase : Nat
  /-- carrier, 10 Hz units. Width: 14. 03 R55. -/
  freq : Nat
  /-- IPEAK in force, mA. Width: 11. 03 R51. -/
  ipeak : Nat
  /-- wake group. Width: 16. 03 R57. -/
  group : Nat
  /-- poll number. Width: 32. 03 R57. -/
  num : Nat
  /-- tick of its first bit. Width: ms. 02 R26. -/
  tick : Nat
  /-- a channel of the pair was cut off during the pattern: 0 none, 1 that of bits 0-3, 2 that of bits 4-7. Width: 2. 03 R53. -/
  cut : Nat
  /-- loop currents measured on the two channels, mA. Width: 12 each. 03 R60. Reset: 0 until the pattern ends. -/
  loopA : Nat
  /-- see loopA. Width: 12. 03 R60. -/
  loopB : Nat
  deriving DecidableEq, Repr

/-- The LF drive array. -/
structure Lf where
  /-- channels LF0-LF7. 03 R68. Reset: UNTESTED. -/
  chans : Tbl LfChan
  /-- charges within the latest 1,000 ticks, latest first: the duty rings. Width: 9 × 1,000 × 10. 03 R64. Reset: none. -/
  charges : List LfCharge
  /-- the wait of R65 has ended. Width: 1. 03 R65. Reset: 0. -/
  allowed : Bool
  /-- poll number of the latest pattern; none before the first after a start. Width: 32. 02 R29. Reset: none. -/
  pollNum : Option Nat
  /-- schedule entry used by the latest pattern. Width: 3. 03 R61. Reset: none. -/
  lastEntry : Option Nat
  /-- pattern in progress, or that of the cycle in progress. 03 R57. Reset: none. -/
  pattern : Option Pattern
  /-- tick of the first duty refusal of the due pattern. Width: ms. 03 R64. Reset: none. -/
  refusedAt : Option Nat
  /-- a due pattern is held for VLF. Width: 1. 03 R52. Reset: 0. -/
  vlfHeld : Bool
  /-- channels whose diagnostic burst waits for R64, VLF or R131, in order. 03 R67. Reset: none. -/
  burstWait : List Nat
  /-- channel whose diagnostic burst is being sent. Width: 3. 03 R67. Reset: none. -/
  burst : Option Nat
  deriving DecidableEq, Repr

/-- The LF array after reset. -/
def Lf.reset : Lf :=
  { chans := [], charges := [], allowed := false, pollNum := none, lastEntry := none, pattern := none,
    refusedAt := none, vlfHeld := false, burstWait := [], burst := none }

/-! ## Radios (05_radios.md) -/

/-- SGR_STATUS.STATE (R105). -/
inductive SgrPhase where
  | off | sleep | idle | synth | rx | tx | cal
  deriving DecidableEq, Repr

/-- What the sub-GHz transceiver works for. -/
inductive SgrWork where
  /-- nothing beyond its state -/
  | none
  /-- the poll cycle's frames -/
  | cycle
  /-- a ring 5 TX_PACKET waiting for the grant, held for lock, or on air: tag, bytes after the length byte, return state -/
  | txPacket (tag : Nat) (data : Bytes) (back : Nat)
  /-- a ring 5 RX_PACKET: tag, buffer length, return state -/
  | rxPacket (tag len back : Nat)
  /-- a ring 5 RSSI: tag -/
  | rssi (tag : Nat)
  /-- a production test frame -/
  | prod
  deriving DecidableEq, Repr

/-- A charge on a duty ring: tick and length in µs (R134, R135). -/
structure DutyCharge where
  /-- tick: of 1.000 s for the sub-GHz bands, of 1.000 ms for the UWB ring. 05 R134. -/
  tick : Nat
  /-- length, µs. Width: 32. 05 R134. -/
  len : Nat
  deriving DecidableEq, Repr

/-- The sub-GHz transceiver. -/
structure Sgr where
  /-- state. Width: 3. 05 R105. Reset: OFF. -/
  phase : SgrPhase
  /-- synthesiser locked. Width: 1. 05 R106. Reset: 0. -/
  lock : Bool
  /-- a transmit request is held for lock. Width: 1. 05 R106. Reset: 0. -/
  held : Bool
  /-- what it works for. 05 R105, R136. Reset: nothing. -/
  work : SgrWork
  /-- ring 5 jobs waiting for the gap after the cycle, oldest first. 01 R19. Reset: none. -/
  jobs : List SgrWork
  /-- a TX_PACKET waits for the grant. Width: 1. 05 R127. Reset: 0. -/
  grantWait : Bool
  /-- COEX_REQ raised for a ring 5 job. Width: 1. 05 R124. Reset: 0. -/
  coexReq : Bool
  /-- TRSW_TX active. Width: 1. 05 R108. Reset: 0. -/
  trswTx : Bool
  /-- TRSW_RX active. Width: 1. 05 R108. Reset: 0. -/
  trswRx : Bool
  /-- PA_EN active. Width: 1. 05 R108. Reset: 0. -/
  paEn : Bool
  /-- charges per band 0-3 within the latest 3,600 ticks of 1.000 s, latest first. 05 R134. Reset: none. -/
  charges : Tbl (List DutyCharge)
  /-- calibrations completed since the factory, mask of R136. Width: 7. 05 R123. Reset: 0 (DESIGN CHOICE, log 17). -/
  calDone : Nat
  /-- SGR_CALSTAT.TLAST as stored, 0.1 °C. Width: 16 signed. 05 R139. Reset: 0. -/
  tlast : Int
  /-- a sub-GHz calibration has run since start, so TLAST is a reference. Width: 1. 05 R120. Reset: 0. -/
  tlastValid : Bool
  /-- RTCERR, 0.1 ppm. Width: 16 signed. 05 R122. Reset: 0. -/
  rtcErr : Int
  /-- crystal trim in force. Width: 8. 05 R122. Reset: 128. -/
  trim : Nat
  /-- the oscillator count runs. Width: 1. 05 R122. Reset: 0. -/
  measuring : Bool
  /-- the count that runs repeats one that failed its check. Width: 1. 05 R123. Reset: 0. -/
  measureAgain : Bool
  /-- ring 5 CALIBRATE commands in progress: tag, mask still to end, mask completed. Width: 16, 7, 7. 05 R121, R136. Reset: none. -/
  calCmds : List (Nat × Nat × Nat)
  deriving DecidableEq, Repr

/-- The sub-GHz transceiver after reset. -/
def Sgr.reset : Sgr :=
  { phase := .off, lock := false, held := false, work := .none, jobs := [], grantWait := false, coexReq := false,
    trswTx := false, trswRx := false, paEn := false, charges := [], calDone := 0, tlast := 0, tlastValid := false,
    rtcErr := 0, trim := 128, measuring := false, measureAgain := false, calCmds := [] }

/-- UWB_STATUS.STATE (R117). -/
inductive UwbPhase where
  | off | idle | cal | rx | tx
  deriving DecidableEq, Repr

/-- Where a UWB round stands (R111, R151). -/
inductive RoundStep where
  /-- poll sent; the response is awaited -/
  | response
  /-- the final is due -/
  | final
  /-- the final is sent; the report is awaited -/
  | report
  /-- a bounding run -/
  | bounding
  deriving DecidableEq, Repr

/-- The UWB round in progress. -/
structure Round where
  /-- context. Width: 4. 05 R110. -/
  ctx : Nat
  /-- step. Width: 2. 05 R111. -/
  step : RoundStep
  /-- channel 9. Width: 1. 05 R112. -/
  nine : Bool
  /-- T1, corrected. Width: 40. 06 R145. -/
  t1 : Nat
  /-- T4, corrected. Width: 40. 06 R145. -/
  t4 : Nat
  /-- T5, corrected. Width: 40. 06 R145. -/
  t5 : Nat
  /-- phases of the response. 06 R148. -/
  phases : List (Option Nat)
  /-- clock offset estimate, 0.01 ppm. Width: 16 signed. 06 R146. -/
  offset : Int
  deriving DecidableEq, Repr

/-- The UWB transceiver. -/
structure Uwb where
  /-- state. Width: 3. 05 R117. Reset: OFF. -/
  phase : UwbPhase
  /-- channel locked or last locked is 9. Width: 1. 05 R140. Reset: 0. -/
  nine : Bool
  /-- synthesiser locked. Width: 1. 05 R117. Reset: 0. -/
  lock : Bool
  /-- UTRSW active. Width: 1. 05 R117. Reset: 0. -/
  utrsw : Bool
  /-- round in progress. 05 R110. Reset: none. -/
  round : Option Round
  /-- time counter. Width: 40. 05 R114. Reset: 0. -/
  time : Nat
  /-- UWB_TIME_HI as latched. Width: 8. 05 R140. Reset: 0. -/
  timeHi : Nat
  /-- charges within the latest 1,000 ticks, latest first. 05 R135. Reset: none. -/
  charges : List DutyCharge
  /-- calibrations completed since the factory, mask of R136. Width: 7. 05 R123. Reset: 0 (DESIGN CHOICE, log 17). -/
  calDone : Nat
  /-- temperature of the last UWB calibration, 0.1 °C. Width: 16 signed. 05 R120. Reset: 0. -/
  tlast : Int
  /-- a UWB calibration has run since start. Width: 1. 05 R120. Reset: 0. -/
  tlastValid : Bool
  deriving DecidableEq, Repr

/-- The UWB transceiver after reset. -/
def Uwb.reset : Uwb :=
  { phase := .off, nine := false, lock := false, utrsw := false, round := none, time := 0, timeHi := 0, charges := [],
    calDone := 0, tlast := 0, tlastValid := false }

/-- The coexistence input and the regulatory record. -/
structure Rad where
  /-- COEX_GRANT pin level. Width: 1. 05 R124. Reset: 0 (weak pull-down, R420). -/
  grantPin : Bool
  /-- regulatory record in force. Width: 72 bytes. 05 R128. Reset: none (NV). -/
  regRec : Option Bytes
  /-- regulatory record accepted and not yet in force. Width: 72 bytes. 05 R132. Reset: none. -/
  regPending : Option Bytes
  deriving DecidableEq, Repr

/-- Radio inputs and record after reset. -/
def Rad.reset : Rad := { grantPin := false, regRec := none, regPending := none }

/-! ## Gaten fabric (11_gaten_fabric.md) -/

/-- FAB_PORT.STATE (R310). -/
inductive PortPhase where
  | disabled | training | up | held | down | asleep
  deriving DecidableEq, Repr

/-- A bank of the forwarding tables (R303). -/
inductive BankState where
  | invalid | valid | retiring
  deriving DecidableEq, Repr

/-- Where a lookup sends a frame (R303). -/
inductive Route where
  | east | west | branchA | branchB | local_ | unreachable
  deriving DecidableEq, Repr

/-- One forwarding bank (R303). -/
structure Bank where
  /-- INVALID, VALID or RETIRING. Width: 2. 11 R303. Reset: INVALID. -/
  state : BankState
  /-- ring mode: line. Width: 1. 11 R303. Reset: 0 closed. -/
  line : Bool
  /-- ring order as carried in PREPARE, east-going. Width: 64 × 6. 11 R303. Reset: none. -/
  order : List Nat
  /-- port of each position of the own segment, E, W or local; unreachable where unlisted. 11 R303. Reset: unreachable. -/
  positions : Tbl Route
  /-- ports of the segments that branches advertise. 11 R303, R308. Reset: none. -/
  segments : List (Nat × Route)
  /-- port of every other segment. 11 R308. Reset: unreachable. -/
  other : Route
  deriving DecidableEq, Repr

/-- A bank never written. -/
def Bank.reset : Bank :=
  { state := .invalid, line := false, order := [], positions := [], segments := [], other := .unreachable }

/-- A frame in an output queue (R293, R299, R305). -/
structure QFrame where
  /-- header, payload and CRC-32. Width: 20-1,044 bytes. 11 R293. -/
  bytes : Bytes
  /-- stored in the spill region. Width: 1. 11 R299. -/
  spilled : Bool
  /-- shared cells it holds (the rest of its cells are of the queue's reserve). Width: 3. 11 R299. -/
  shared : Nat
  /-- it entered after the opposite ring port went down, and none of its blocks is in transmission. Width: 1. 11 R305. -/
  late : Bool
  /-- blocks of it that have left. Width: 3. 11 R285, R297. -/
  sent : Nat
  deriving DecidableEq, Repr

/-- One output queue. -/
structure OutQ where
  /-- frames in order. 11 R297, R302. Reset: none. -/
  frames : List QFrame
  /-- spilled(q). Width: 1. 11 R299. Reset: 0. -/
  spilling : Bool
  deriving DecidableEq, Repr

/-- An empty queue. -/
def OutQ.reset : OutQ := { frames := [], spilling := false }

/-- A link port E, W, A or B (R286, R287, R305). -/
structure Port where
  /-- state. Width: 3. 11 R310. Reset: DISABLED; an enabled port trains from step 7 of the start on (15 R402). -/
  phase : PortPhase
  /-- 1,024 idle sequences have been taken and the port sends HELLO. Width: 1. 11 R287. Reset: 0. -/
  sendsHello : Bool
  /-- the peer's HELLO has been heard. Width: 1. 11 R287. Reset: 0. -/
  heard : Bool
  /-- peer's address, 0xFFFF if none. Width: 16. 11 R296. Reset: 0xFFFF. -/
  peer : Nat
  /-- peer's device identifier. Width: 64. 11 R296. Reset: 0. -/
  peerId : Nat
  /-- peer's latest HELLO transmit time, to be echoed. Width: 48. 11 R296. Reset: 0. -/
  peerTime : Nat
  /-- own fabric time when that HELLO arrived. Width: 48. 11 R296. Reset: 0. -/
  heardAt : Nat
  /-- one-way link delay, ns. Width: 32. 11 R287. Reset: 0. -/
  delay : Nat
  /-- the port came UP after its hold time and waits for the next update. Width: 1. 11 R307. Reset: 0. -/
  waitsUpdate : Bool
  /-- blocks sent since the last idle sequence. Width: 3. 11 R286. Reset: 0. -/
  sinceIdle : Nat
  deriving DecidableEq, Repr

/-- A port after reset. -/
def Port.reset : Port :=
  { phase := .disabled, sendsHello := false, heard := false, peer := 0xFFFF, peerId := 0, peerTime := 0, heardAt := 0,
    delay := 0, waitsUpdate := false, sinceIdle := 0 }

/-- FAB_STATUS.JOIN (R310). -/
inductive JoinState where
  | joining | joined | addrFull | headConflict
  deriving DecidableEq, Repr

/-- A position the head knows (R289, R290). -/
structure Member where
  /-- device identifier. Width: 64. 11 R289. -/
  id : Nat
  /-- it sleeps at TWIG or below. Width: 1. 11 R290. -/
  asleep : Bool
  /-- its JOIN_REQ came round the west side of the ring. Width: 1. 11 R289, R296. -/
  west : Bool
  /-- hops that JOIN_REQ took on that side. Width: 10. 11 R294, R296. -/
  hops : Nat
  /-- sequence of the latest JOIN_REQ that was accepted. Width: 16. 11 R295. -/
  joinSeq : Nat
  deriving DecidableEq, Repr

/-- The head's table update (R304). -/
inductive UpdatePhase where
  | idle
  /-- PREPARE sent; positions that have not answered READY -/
  | preparing (missing : List Nat)
  /-- FLIP sent; positions that have not answered RETIRED -/
  | retiring (missing : List Nat)
  /-- the 200 µs after completion -/
  | holdoff
  /-- cancelled; repeated after 100 ms -/
  | cancelled
  deriving DecidableEq, Repr

/-- The fabric. -/
structure Fab where
  /-- ports 0 E, 1 W, 2 A, 3 B. 11 R310. Reset: TRAINING. -/
  ports : Tbl Port
  /-- output queues, key port × 4 + class, ports 0 P0 local, 1 P1 host, 2 E, 3 W, 4 A, 5 B. Width: 24 queues. 11 R297. Reset: empty. -/
  queues : Tbl OutQ
  /-- class plus 1 of the block in transmission at each output; 0 for none. Width: 3 each. 11 R297. Reset: none. -/
  tx : Cells
  /-- shared cells in use. Width: 12. 11 R299. Reset: 0. -/
  sharedUsed : Nat
  /-- cells in the spill region. Width: 19. 11 R300. Reset: 0. -/
  spilled : Nat
  /-- the device is the head. Width: 1. 11 R288. Reset: 0. -/
  head : Bool
  /-- address held. Width: 16. 11 R288. Reset: none. -/
  addr : Option Nat
  /-- join state. Width: 2. 11 R310. Reset: joining. -/
  join : JoinState
  /-- a JOIN_REQ waits for its answer. Width: 1. 11 R289. Reset: 0. -/
  asking : Bool
  /-- positions in use, key the position. 11 R290. Reset: none. -/
  members : Tbl Member
  /-- identifiers of the devices that have joined under this head, first joined first. Width: 64 each. 12 R327. Reset: none. -/
  joined : List Nat
  /-- positions in use as the latest PREPARE or join stated. Width: 64. 11 R310 FAB_INUSE. Reset: 0. -/
  inuse : Nat
  /-- segments advertised on branch B of each position, key the position, bit t for segment t. Width: 1,024 each. 11 R308. Reset: none. -/
  adverts : Cells
  /-- position whose branch A is UP; none for a root segment. Width: 6. 11 R308. Reset: none. -/
  uplink : Option Nat
  /-- current epoch. Width: 1. 11 R303. Reset: 0. -/
  epoch : Nat
  /-- banks 0 and 1. 11 R303. Reset: INVALID. -/
  banks : Tbl Bank
  /-- update number of the latest PREPARE. Width: 32. 11 R304. Reset: 0. -/
  update : Nat
  /-- the head's update. 11 R304. Reset: idle. -/
  upd : UpdatePhase
  /-- an update is due and waits. Width: 1. 11 R304. Reset: 0. -/
  updateDue : Bool
  /-- ring ports whose hold time has run out, as PORT_EVENTs tell the head: position and port. 11 R304. Reset: none. -/
  cuts : List (Nat × Nat)
  /-- fabric time, µs. Width: 48. 11 R292. Reset: 0. -/
  time : Nat
  /-- FAB_TIME_HI as latched. Width: 16. 11 R310. Reset: 0. -/
  timeHi : Nat
  /-- a TIME_SYNC has been received since start. Width: 1. 11 R292. Reset: 0. -/
  synced : Bool
  /-- hops of this device from the root head. Width: 16. 11 R292. Reset: 0. -/
  hops : Nat
  /-- sequence counters by destination × 8 + multicast × 4 + class. Width: 16 each. 11 R295. Reset: a free value of Config (TRNG), log 15. -/
  seqNext : Cells
  /-- last sequence accepted plus 1 by source × 4 + class; 0 for none. Width: 17 each. 11 R295. Reset: none. -/
  seqLast : Cells
  /-- xSPI RAM found at start, MiB; 0 for none. Width: 7. 11 R310. Reset: 0. -/
  xspi : Nat
  deriving DecidableEq, Repr

/-- The fabric after reset. -/
def Fab.reset : Fab :=
  { ports := [], queues := [], tx := [], sharedUsed := 0, spilled := 0, head := false, addr := none, join := .joining,
    asking := false, members := [], joined := [], inuse := 0, adverts := [], uplink := none, epoch := 0, banks := [], update := 0,
    upd := .idle, updateDue := false, cuts := [], time := 0, timeHi := 0, synced := false, hops := 0, seqNext := [],
    seqLast := [], xspi := 0 }

/-! ## Live update (14_live_update.md) -/

/-- UPD_STATUS.STATE below RECOVERY (R392; RECOVERY is the device's mode). -/
inductive UpdPhase where
  | idle | receiving | written | activating
  deriving DecidableEq, Repr

/-- Where a live ACTIVATE stands (R379). -/
inductive ActStep where
  /-- handing over this role next -/
  | role (n : Nat)
  /-- the APP bank is loaded and the handover point is awaited -/
  | app
  /-- APP runs the new bank and refills the old one until this tick (R382) -/
  | refill (due : Nat)
  deriving DecidableEq, Repr

/-- A live ACTIVATE in progress (R379). -/
structure Activation where
  /-- tag. Width: 16. 14 R390. -/
  tag : Nat
  /-- step. 14 R379. -/
  step : ActStep
  /-- roles handed over. Width: 4. 14 R379. -/
  roles : Nat
  /-- blob of the new format carried; none when it carries none. 14 R385. -/
  blob : Option Bytes
  /-- header of the image that APP ran before, which the old bank holds; none as delivered. Width: 4,096 bytes. 14 R382. -/
  old : Option Bytes
  deriving DecidableEq, Repr

/-- The image regions of the code flash and the update in progress. -/
structure Upd where
  /-- header of the main image in flash; none as delivered (Config.factoryHeader), empty once erased. Width: 4,096 bytes. 14 R371. Reset: as delivered. -/
  mainHeader : Option Bytes
  /-- chunks of the main image written through ring 10; an unlisted chunk is as delivered (Config.factoryChunk). Width: 65,536 bytes each. 14 R371. Reset: none. -/
  mainChunks : List (Nat × Bytes)
  /-- headers of loader copies 0 and 1 written through ring 10; empty once erased, an unlisted copy as delivered. Width: 4,096 bytes each. 14 R371. Reset: none. -/
  loaderHeaders : List (Nat × Bytes)
  /-- bodies of loader copies 0 and 1 written through ring 10. Width: up to 61,440 bytes each. 14 R371. Reset: none. -/
  loaderBodies : List (Nat × Bytes)
  /-- loader copy that ran at this start. Width: 1. 14 R373. Reset: 0. -/
  loaderRan : Nat
  /-- header of the running main image; none as delivered. Width: 4,096 bytes. 14 R373. Reset: none. -/
  running : Option Bytes
  /-- oldest microcode version running (UPD_VER_MC). Width: 32. 14 R380, R392. Reset: of the image, a free value (Config.factoryHeader). -/
  runningMicro : Option Nat
  /-- state record formats of the running roles SE0-SE13. Width: 14 × 8. 14 R380. Reset: 0. -/
  formats : List Nat
  /-- configuration format of the configuration in force. Width: 16. 14 R380, R385. Reset: 2 (HIF_CFGVER). -/
  cfgFormat : Nat
  /-- update phase. Width: 3. 14 R392. Reset: IDLE. -/
  phase : UpdPhase
  /-- header in progress. Width: 4,096 bytes. 14 R374. Reset: none. -/
  header : Bytes
  /-- the header in progress is of a loader image. Width: 1. 14 R374. Reset: 0. -/
  loader : Bool
  /-- the region's header sector is to be erased before the first chunk is written. Width: 1. 14 R374. Reset: 0. -/
  eraseHeader : Bool
  /-- chunks of the header in progress that count as written, bit i chunk i. Width: 29. 14 R374, R375. Reset: none. -/
  written : Nat
  /-- the CHUNK whose sectors wait under the supply check: its tag, and the chunk buffer. Width: 16, 65,536 bytes. 14 R375, R376. Reset: none. -/
  deferred : Option (Nat × Bytes)
  /-- live ACTIVATE in progress. 14 R379. Reset: none. -/
  act : Option Activation
  /-- asset record of an import whose first record has been programmed and that is not complete; the store's own (NV). 14 R388. Reset: none. -/
  importing : Option Bytes
  /-- UPD_FLOOR.SECVER in the fuses. Width: 8. 14 R392. Reset: 0 (DESIGN CHOICE, log 7). -/
  floor : Nat
  /-- UPD_APPKEY digest in the fuses. Width: 256. 14 R392. Reset: 0, unset. -/
  appKey : Nat
  /-- physical engine holding each role 0-14. Width: 15 × 4. 14 R392. Reset: role r on engine r. -/
  engmap : List Nat
  /-- a failed role is carried by the spare. Width: 1. 01 R14, 14 R392. Reset: none. -/
  spareRole : Option Nat
  deriving DecidableEq, Repr

/-- The update machinery after reset. -/
def Upd.reset : Upd :=
  { mainHeader := none, mainChunks := [], loaderHeaders := [], loaderBodies := [], loaderRan := 0, running := none,
    runningMicro := none, formats := List.replicate 14 0, cfgFormat := 2, phase := .idle, header := [], loader := false,
    eraseHeader := false, written := 0, deferred := none, act := none, importing := none, floor := 0, appKey := 0,
    engmap := List.range 15, spareRole := none }

/-! ## The whole device -/

/-- The endpoint function that a head presents while its PCIe link is up (12 R311). Sizes and offsets are in bytes. -/
structure PciFunction where
  vendor : Nat
  device : Nat
  revision : Nat
  classCode : Nat
  subsystemVendor : Nat
  subsystem : Nat
  /-- BAR0, BAR2 and BAR4, each 64-bit and non-prefetchable -/
  bars : List Nat
  /-- MSI-X vectors, and the offsets of the table and the pending bits in BAR0 -/
  msix : Nat × Nat × Nat
  maxPayload : Nat
  maxRead : Nat
  /-- supported: D3hot, ASPM L1, AER, function level reset; not L0s, INTx, MSI, SR-IOV, ATS or PASID -/
  supports : List String
  deriving DecidableEq, Repr

/-- A symbol of the 8b/10b code by the byte it stands for: control or data (11 R283, R284). -/
inductive Symbol where
  | k (b : Byte)
  | d (b : Byte)
  deriving DecidableEq, Repr

/-- What leaves the device: host memory writes, interrupts, answers, air and cable. Held latest first; the model's own
record of the effects that the spec gives the outside. -/
inductive Output where
  /-- a write of host memory (R316, R320, R325) -/
  | hostWrite (addr : Nat) (data : Bytes)
  /-- an MSI-X message of this vector (R321) -/
  | msix (vector : Nat)
  /-- the answer to a BAR read (R312, R313) -/
  | barAnswer (value : Nat)
  /-- a wake pattern (R57, R58): what it is made of, and for each of its 112 half-bits whether the carrier is on at the channel of
  bits 0-3 and at that of bits 4-7 -/
  | wakePattern (p : Pattern) (halves : List (Bool × Bool))
  /-- a diagnostic burst on this channel (R67) -/
  | lfBurst (chan : Nat)
  /-- a frame of the sub-GHz radio: channel, power and its bytes from the preamble on (R103, R104; 08 R203) -/
  | sgrFrame (chan power : Nat) (data : Bytes)
  /-- the sub-GHz switch (R108): time in µs from the first bit, or from the end of the last one, and the levels of TRSW_TX, TRSW_RX
  and PA_EN from then on -/
  | sgrSwitch (afterLast : Bool) (edges : List (Int × Bool × Bool × Bool))
  /-- a UWB frame of a round: 0 poll, 2 final, 4 bounding run, 5 production test (R110); its STS key and initial value (08 R201),
  none for a frame without STS; the chips of the run's challenge bursts, first chip highest (06 R150) -/
  | uwbFrame (kind : Nat) (nine : Bool) (sts : Option (Nat × Nat)) (bursts : List Nat)
  /-- a downlink frame of the coil (R78): its bit count with its CRC-16, its bits, first bit highest, and the cells SOF, data and
  EOF as sent, each with the first carrier period and the length of its pause, none where it has none (R75) -/
  | coilFrame (bits value : Nat) (cells : List (Option (Nat × Nat)))
  /-- 8b/10b symbols on port 0 E, 1 W, 2 A, 3 B, in the order sent (R283, R284) -/
  | link (port : Nat) (symbols : List Symbol)
  /-- a read of host memory, within the maximum read request and a 4 KiB page (R329) -/
  | hostRead (addr len : Nat)
  /-- the PCIe function as presented (R311) -/
  | presents (function : PciFunction)
  /-- a wake sequence on the port: one symbol, repeated for so many µs (R284, R309) -/
  | wake (port : Nat) (symbol : Symbol) (us : Nat)
  /-- a message handed to the firmware on APP (R344) -/
  | toApp (channel : Nat) (data : Bytes)
  deriving DecidableEq, Repr

/-- The state of the device. -/
structure State where
  /-- ticks of 1.000 ms since the model began; the model's own clock. 15 R393. Reset: 0 (DESIGN CHOICE, log 2). -/
  now : Nat
  /-- mode. 12 R346 SYS_STATE. Reset: starting. -/
  mode : Mode
  /-- set-up register fields as written (held), key offset × 32 + least significant bit. Width: the field's. 00 R4, R5; the register tables. Reset: the Reset column. -/
  heldCells : Cells
  /-- the same fields as in force. Width: the field's. 12 R441. Reset: the Reset column. -/
  forceCells : Cells
  /-- status, fault and count fields. Width: the field's. the register tables. Reset: the Reset column. -/
  statCells : Cells
  /-- NVWP pin asserted (low). Width: 1. 16 R420, 13 R365. Reset: 0 (pull-up). -/
  nvwp : Bool
  /-- instruction selected in the test access port, as TAP_INSTRUCTION codes it. Width: 3. 07 R194. Reset: 1 IDCODE (PRESUMED, log 18). -/
  tap : Nat
  /-- a profile selection or boundary write waits. Width: 1. 01 R22. Reset: 0. -/
  boundaryDue : Bool
  /-- host interface. -/
  hif : Hif
  /-- ring pairs 0-15. -/
  rings : Tbl RingState
  /-- Laurel store. -/
  nvs : Nvs
  /-- power, clocks and supervision. -/
  pwr : Pwr
  /-- cipher engine and key store. -/
  cip : Cip
  /-- tokens and Holly table. -/
  aut : Aut
  /-- release controller. -/
  rel : Rel
  /-- metrology and receipts. -/
  mtr : Mtr
  /-- low-frequency field. -/
  lf : Lf
  /-- poll cycle. -/
  cyc : Cyc
  /-- sub-GHz transceiver. -/
  sgr : Sgr
  /-- UWB transceiver. -/
  uwb : Uwb
  /-- coexistence grant and regulatory record. -/
  rad : Rad
  /-- transponder link. -/
  tpx : Tpx
  /-- fabric. -/
  fab : Fab
  /-- live update. -/
  upd : Upd
  /-- what has left the device, latest first; the model's own field. Reset: none. -/
  out : List Output
  /-- commands waiting, first in, first out. Reset: none. -/
  pending : List Instr
  deriving DecidableEq, Repr

/-- No fault: the spec gives every command of the table an effect, and an event that finds no state to act on leaves the
state as it is (00_scope.md R00), so no constructor exists. Raised by no meaning; safe. -/
inductive Fault where
  deriving DecidableEq, Repr

/-- Refusals. -/
inductive Refusal where
  /-- The command's meaning is not modelled yet; raised by the arm of exec that names it. Safe: the machine stops. -/
  | notModelled (mnemonic : String)
  deriving DecidableEq, Repr

/-- The machine right after reset: every register at its Reset column, the store and the tables of a device that has never
started, no command waiting. -/
def State.reset : State :=
  { now := 0, mode := .starting, heldCells := [], forceCells := [], statCells := [], nvwp := false, tap := 1,
    boundaryDue := false, hif := Hif.reset, rings := [], nvs := Nvs.reset, pwr := Pwr.reset, cip := Cip.reset,
    aut := Aut.reset, rel := Rel.reset, mtr := Mtr.reset, lf := Lf.reset, cyc := Cyc.reset, sgr := Sgr.reset,
    uwb := Uwb.reset, rad := Rad.reset, tpx := Tpx.reset, fab := Fab.reset, upd := Upd.reset, out := [],
    pending := [] }

end Sys2Proof.Machine
end

