-- ==== Sys2Proof/Machine/Drbg.lean ====
section
/-! DEFINITION. The CTR_DRBG of the nonce service and the health tests of its entropy source (07_cipher_and_keys.md R175, R177,
R178). The DRBG is that of NIST SP 800-90A with AES-256 and a derivation function, which the spec names and does not repeat:
PRESUMED, log 22. -/
namespace Sys2Proof.Machine

/-! ### The DRBG (R175, R177) -/

/-- The 128-bit value `k` steps after a counter. -/
def counterAfter (v : BitVec 128) (k : Nat) : Bytes := beBytes 16 (v + BitVec.ofNat 128 k).toNat

/-- The update of Key and V from 48 bytes of provided data: three blocks of the counters from `first` steps after V. -/
def Drbg.update (d : Drbg) (first : Nat) (provided : Bytes) : Drbg :=
  let rks := aesRoundKeys (beBytes 32 d.key.toNat)
  let t := xorBytes ([0, 1, 2].flatMap (fun k => aesEncRk rks (counterAfter d.v (first + k)))) provided
  { d with key := BitVec.ofNat 256 (beNat (t.take 32)), v := BitVec.ofNat 128 (beNat (t.drop 32)) }

/-- One request: a 128-bit value, and the state after the update that follows it. -/
def Drbg.next (d : Drbg) : Nat × Drbg :=
  (beNat (aesEncRk (aesRoundKeys (beBytes 32 d.key.toNat)) (counterAfter d.v 1)),
    { d.update 2 (zeroBytes 48) with requests := satSucc 16 d.requests })

/-- `n` blocks, each the encryption of the one before. -/
def blockRun (rks : List Bytes) : Nat → Bytes → Bytes
  | 0, _ => []
  | n + 1, x => let y := aesEncRk rks x; y ++ blockRun rks n y

/-- Bytes followed by zeros to a whole number of 16-byte blocks. -/
def wholeBlocks (b : Bytes) : Bytes := b ++ zeroBytes ((16 - b.length % 16) % 16)

/-- The derivation function: 48 bytes of seed from an input string, whose length, the length asked for, the string and 0x80 are
padded with zeros to whole blocks. -/
def seedFrom (input : Bytes) : Bytes :=
  let s := wholeBlocks (beBytes 4 input.length ++ beBytes 4 48 ++ input ++ [0x80])
  let fixed := aesRoundKeys ((List.range 32).map (BitVec.ofNat 8))
  let k := [0, 1, 2].flatMap (fun i => cmacChain fixed (pieces 16 (beBytes 4 i ++ zeroBytes 12 ++ s)) (zeroBytes 16))
  blockRun (aesRoundKeys (k.take 32)) 3 (k.drop 32)

/-- The seed is taken once the start-up test has passed: the entropy and the nonce of SP 800-90A come from the source, a free
value each (log 5). -/
def Drbg.start (d : Drbg) : Drbg :=
  let input := beBytes 48 (Config.entropy d.seeds).toNat ++ beBytes 16 (Config.seedNonce d.seeds).toNat
  { Drbg.update { d with key := 0, v := 0 } 1 (seedFrom input) with seeds := d.seeds + 1, requests := 0 }

/-- A reseed with 384 bits of conditioned entropy, a free value (log 5). -/
def Drbg.reseed (d : Drbg) : Drbg :=
  { d.update 1 (seedFrom (beBytes 48 (Config.entropy d.seeds).toNat)) with seeds := d.seeds + 1, requests := 0 }

/-! ### Health tests (R178) -/

/-- The run of identical bits that ends with the latest raw bit, counted to 41, and that bit; and whether a run of 41 has been
seen among these bits. -/
def repetition : List Bool → RawRun → Bool → RawRun × Bool
  | [], r, failed => (r, failed)
  | b :: bs, r, failed =>
    let n := if b == r.bit && r.run != 0 then min 41 (r.run + 1) else 1
    repetition bs ⟨b, n⟩ (failed || n = 41)

/-- The adaptive proportion test of one window: 795 or more bits equal to its first. -/
def proportionFails (window : List Bool) : Bool :=
  match window with
  | [] => false
  | b :: _ => decide (795 ≤ (window.filter (fun x => x == b)).length)

/-- Windows of 1,024 raw bits; the last may be shorter. -/
def rawWindows : Nat → List Bool → List (List Bool)
  | 0, _ => []
  | n + 1, bits => bits.take 1024 :: rawWindows n (bits.drop 1024)

end Sys2Proof.Machine
end

