-- ==== Sys2Proof/Machine/FieldTable.lean ====
section
/-! DEFINITION. The set-up registers as the spec's field tables give them: every field's BAR0 offset, place, width,
access code (R4), value used where no valid record exists, Out of range rule (R5) and the point at which a write takes
effect (R441). One row a field; RING_ registers (R347) and the MSI-X structures are not configuration and are held apart.
Sources: the register tables of 01, 03-15 (R20, R62, R102, R139, R140, R164, R197, R198, R230, R256, R282, R310, R346,
R370, R392, R419). -/
namespace Sys2Proof.Machine

/-- A field of a set-up register as the meanings name it: its cell key (BAR0 offset × 32 + least significant bit), its
width in bits and the value an unlisted cell reads as (the Reset column). -/
structure Fld where
  key : Nat
  width : Nat
  dflt : Nat
  deriving DecidableEq, Repr

/-- The access codes of R4. No W1S field exists in the tables. -/
inductive Access where
  | rw | ro | wo | w1c | rwl
  deriving DecidableEq, Repr

/-- A bound that depends on the device: the regulatory record in force or accepted (R128, R131), the xSPI device found
(R310) or the device's place in the segment (R310). -/
inductive Limit where
  | lfIpeak | lfFreq | lfDutyChan | lfDutyArray | tpxIpeak | sgrPower | uwbLevel | spillEn | spillSize | mcastHost
  deriving DecidableEq, Repr

/-- The Out of range column (R5): what is applied in place of an illegal value. -/
inductive Clamp where
  /-- every value legal -/
  | any
  /-- below the first bound the first, above the second the second -/
  | range (lo hi : Nat)
  /-- above the bound the value held before the write (SYS_PROFILE.PROFILE) -/
  | keepAbove (hi : Nat)
  /-- the listed values are replaced -/
  | table (pairs : List (Nat × Nat))
  /-- PRX_BOUND.ROUNDS: 0-47 to 32, 48-127 to 64 -/
  | rounds
  /-- PRX_ZONEn B [15:0]: RADIUS below 10 to 10 for a cylinder -/
  | zoneRadius
  /-- PRX_LFTAB FLO: 0x00 or above FHI to FHI -/
  | lftabFlo
  /-- a limit outside the field tables -/
  | limit (l : Limit)
  deriving DecidableEq, Repr

/-- When a write of the field takes effect (R441 and each chapter's register rule). -/
inductive Timing where
  /-- when written -/
  | immediate
  /-- at the next poll-cycle boundary (R22, R62, R139, R140, R161, R230, R419) -/
  | boundary
  /-- at the next coil field turn-on (R102) -/
  | fieldOn
  /-- at the next UWB round (R140) -/
  | uwbRound
  /-- at the next reseed (R197) -/
  | reseed
  /-- at the start of the next pass over slot 0 (R189) -/
  | maskPass
  /-- when no session is OPEN or HOLDING (R261) -/
  | meterSettings
  /-- at the next start (R370) -/
  | start
  /-- at the next start or REJOIN (R310) -/
  | rejoin
  /-- at the next BEGIN or ACTIVATE (R392) -/
  | update
  /-- at the next PCIe reset (R346) -/
  | pcieReset
  deriving DecidableEq, Repr

/-- One row of the field tables. A family of equal registers is one row with a stride and a count. `lifeCycles` names
the codes of the life-cycle states in which a RWL field is writable (codes of R195). -/
structure FieldSpec where
  off : Nat
  stride : Nat
  count : Nat
  lsb : Nat
  width : Nat
  acc : Access
  dflt : Nat
  clamp : Clamp
  timing : Timing
  lifeCycles : List Nat
  deriving DecidableEq, Repr

/-- A field of one register. -/
def mkFld (off lsb width dflt : Nat) : Fld := ⟨off * 32 + lsb, width, dflt⟩

/-- RO, 16 bits at 0x0000[0]; R346. -/
def Reg.sysIdVendor : Fld := mkFld 0 0 16 7996
/-- RO, 16 bits at 0x0000[16]; R346. -/
def Reg.sysIdDevice : Fld := mkFld 0 16 16 25622
/-- RO, 8 bits at 0x0004[0]; R346. -/
def Reg.sysRevisionStep : Fld := mkFld 4 0 8 1
/-- RO, 8 bits at 0x0004[8]; R346. -/
def Reg.sysRevisionRomver : Fld := mkFld 4 8 8 1
/-- RO, 2 bits at 0x0008[0]; R346. -/
def Reg.sysStateState : Fld := mkFld 8 0 2 0
/-- RO, 1 bits at 0x0008[2]; R346. -/
def Reg.sysStateAppServing : Fld := mkFld 8 2 1 0
/-- RW, 4 bits at 0x0040[0]; R20. -/
def Reg.sysProfileProfile : Fld := mkFld 64 0 4 1
/-- RO, 1 bits at 0x0040[4]; R21. -/
def Reg.sysProfileModified : Fld := mkFld 64 4 1 0
/-- RO, 1 bits at 0x0040[5]; R22. -/
def Reg.sysProfilePending : Fld := mkFld 64 5 1 0
/-- RW, 6 bits at 0x0400[0]; R346. -/
def Reg.hifCtrlErrvec : Fld := mkFld 1024 0 6 0
/-- RW, 1 bits at 0x0400[6]; R346. -/
def Reg.hifCtrlErrIntEn : Fld := mkFld 1024 6 1 1
/-- RO, 1 bits at 0x0404[0]; R346. -/
def Reg.hifStatusLinkUp : Fld := mkFld 1028 0 1 0
/-- RO, 1 bits at 0x0404[1]; R346. -/
def Reg.hifStatusGen2 : Fld := mkFld 1028 1 1 0
/-- RO, 1 bits at 0x0404[2]; R336. -/
def Reg.hifStatusCfgUnsaved : Fld := mkFld 1028 2 1 0
/-- W1C, 1 bits at 0x0408[0]; R312. -/
def Reg.hifFaultBadAccess : Fld := mkFld 1032 0 1 0
/-- W1C, 1 bits at 0x0408[1]; R313. -/
def Reg.hifFaultNoPosition : Fld := mkFld 1032 1 1 0
/-- W1C, 1 bits at 0x0408[2]; R328. -/
def Reg.hifFaultRegTimeout : Fld := mkFld 1032 2 1 0
/-- W1C, 1 bits at 0x0408[3]; R328. -/
def Reg.hifFaultRegDrop : Fld := mkFld 1032 3 1 0
/-- W1C, 1 bits at 0x0408[4]; R326. -/
def Reg.hifFaultProxyLost : Fld := mkFld 1032 4 1 0
/-- W1C, 1 bits at 0x0408[5]; R327. -/
def Reg.hifFaultPosRestart : Fld := mkFld 1032 5 1 0
/-- RW, 6 bits at 0x040C[0]; R346. -/
def Reg.hifProxyRto : Fld := mkFld 1036 0 6 4
/-- RW, 4 bits at 0x040C[8]; R346. -/
def Reg.hifProxyRetries : Fld := mkFld 1036 8 4 8
/-- RW, 5 bits at 0x040C[16]; R346. -/
def Reg.hifProxyRegwait : Fld := mkFld 1036 16 5 2
/-- RO, 32 bits at 0x0410[0]; R326. -/
def Reg.hifProxyLost (i : Nat) : Fld := mkFld (1040 + 4 * i) 0 32 0
/-- W1C, 32 bits at 0x0418[0]; R327. -/
def Reg.hifPosRestart (i : Nat) : Fld := mkFld (1048 + 4 * i) 0 32 0
/-- RO, 16 bits at 0x0420[0]; R346. -/
def Reg.hifCfgverCurrent : Fld := mkFld 1056 0 16 2
/-- RO, 32 bits at 0x0424[0]; R340. -/
def Reg.hifAuditSeqNext : Fld := mkFld 1060 0 32 1
/-- RO, 32 bits at 0x0428[0]; R339. -/
def Reg.hifAuditOvr : Fld := mkFld 1064 0 32 0
/-- RO, 32 bits at 0x042C[0]; R339. -/
def Reg.hifAuditLost : Fld := mkFld 1068 0 32 0
/-- RWL, 16 bits at 0x0430[0]; R346. -/
def Reg.hifSubsysSvid : Fld := mkFld 1072 0 16 7996
/-- RWL, 16 bits at 0x0430[16]; R346. -/
def Reg.hifSubsysSsid : Fld := mkFld 1072 16 16 1
/-- RO, 7 bits at 0x4800[0]; R338. -/
def Reg.hifClampHeld : Fld := mkFld 18432 0 7 0
/-- RO, 16 bits at 0x4800[16]; R338. -/
def Reg.hifClampOverwrites : Fld := mkFld 18432 16 16 0
/-- RO, 16 bits at 0x4804[0]; R338. -/
def Reg.hifClampNextSeq : Fld := mkFld 18436 0 16 0
/-- RW, 4 bits at 0x1000[0]; R310. -/
def Reg.fabCtrlPortEn : Fld := mkFld 4096 0 4 15
/-- WO, 1 bits at 0x1000[4]; R310. -/
def Reg.fabCtrlRejoin : Fld := mkFld 4096 4 1 0
/-- RW, 1 bits at 0x1000[5]; R304. -/
def Reg.fabCtrlReopt : Fld := mkFld 4096 5 1 1
/-- RW, 6 bits at 0x1004[0]; R310. -/
def Reg.fabAddrPos : Fld := mkFld 4100 0 6 0
/-- RW, 10 bits at 0x1004[6]; R310. -/
def Reg.fabAddrSeg : Fld := mkFld 4100 6 10 0
/-- RO, 1 bits at 0x1004[16]; R310. -/
def Reg.fabAddrValid : Fld := mkFld 4100 16 1 0
/-- RO, 1 bits at 0x1004[17]; R310. -/
def Reg.fabAddrHead : Fld := mkFld 4100 17 1 0
/-- RO, 2 bits at 0x1008[0]; R310. -/
def Reg.fabStatusJoin : Fld := mkFld 4104 0 2 0
/-- RO, 1 bits at 0x1008[2]; R310. -/
def Reg.fabStatusRing : Fld := mkFld 4104 2 1 0
/-- RO, 1 bits at 0x1008[3]; R292. -/
def Reg.fabStatusTimeOk : Fld := mkFld 4104 3 1 0
/-- RO, 7 bits at 0x1008[4]; R310. -/
def Reg.fabStatusInuse : Fld := mkFld 4104 4 7 0
/-- RO, 11 bits at 0x1008[11]; R310. -/
def Reg.fabStatusSegments : Fld := mkFld 4104 11 11 0
/-- RO, 3 bits at 0x100C[0]; R310. -/
def Reg.fabPortState0 : Fld := mkFld 4108 0 3 0
/-- RO, 3 bits at 0x100C[3]; R310. -/
def Reg.fabPortState1 : Fld := mkFld 4108 3 3 0
/-- RO, 3 bits at 0x100C[6]; R310. -/
def Reg.fabPortState2 : Fld := mkFld 4108 6 3 0
/-- RO, 3 bits at 0x100C[9]; R310. -/
def Reg.fabPortState3 : Fld := mkFld 4108 9 3 0
/-- RW, 8 bits at 0x1010[0]; R310. -/
def Reg.fabHoldTime : Fld := mkFld 4112 0 8 20
/-- RW, 8 bits at 0x1010[8]; R290. -/
def Reg.fabHoldLeave : Fld := mkFld 4112 8 8 60
/-- RW, 7 bits at 0x1014[0]; R310. -/
def Reg.fabBufMin : Fld := mkFld 4116 0 7 16
/-- RW, 5 bits at 0x1014[8]; R310. -/
def Reg.fabBufThresh : Fld := mkFld 4116 8 5 12
/-- RW, 1 bits at 0x1018[0]; R310. -/
def Reg.fabSpillEn : Fld := mkFld 4120 0 1 0
/-- RW, 7 bits at 0x1018[1]; R310. -/
def Reg.fabSpillSize : Fld := mkFld 4120 1 7 64
/-- RO, 1 bits at 0x1018[8]; R310. -/
def Reg.fabSpillPresent : Fld := mkFld 4120 8 1 0
/-- RO, 12 bits at 0x101C[0]; R310. -/
def Reg.fabPoolSharedUsed : Fld := mkFld 4124 0 12 0
/-- RO, 19 bits at 0x101C[12]; R310. -/
def Reg.fabPoolSpilled : Fld := mkFld 4124 12 19 0
/-- RO, 1 bits at 0x1020[0]; R304. -/
def Reg.fabEpochCur : Fld := mkFld 4128 0 1 0
/-- RO, 2 bits at 0x1020[1]; R304. -/
def Reg.fabEpochState : Fld := mkFld 4128 1 2 0
/-- RO, 12 bits at 0x1020[4]; R304. -/
def Reg.fabEpochOldcount : Fld := mkFld 4128 4 12 0
/-- RO, 16 bits at 0x1020[16]; R304. -/
def Reg.fabEpochUpdate : Fld := mkFld 4128 16 16 0
/-- RO, 32 bits at 0x1024[0]; R310. -/
def Reg.fabTimeLo : Fld := mkFld 4132 0 32 0
/-- RO, 16 bits at 0x1028[0]; R310. -/
def Reg.fabTimeHi : Fld := mkFld 4136 0 16 0
/-- RW, 15 bits at 0x102C[0]; R310. -/
def Reg.fabMcastLocal : Fld := mkFld 4140 0 15 0
/-- RW, 15 bits at 0x102C[16]; R310. -/
def Reg.fabMcastHost : Fld := mkFld 4140 16 15 0
/-- W1C, 4 bits at 0x1030[0]; R286. -/
def Reg.fabFaultLinkDown : Fld := mkFld 4144 0 4 0
/-- W1C, 1 bits at 0x1030[4]; R285. -/
def Reg.fabFaultCrc : Fld := mkFld 4144 4 1 0
/-- W1C, 1 bits at 0x1030[5]; R299. -/
def Reg.fabFaultDrop : Fld := mkFld 4144 5 1 0
/-- W1C, 1 bits at 0x1030[6]; R300. -/
def Reg.fabFaultSpillErr : Fld := mkFld 4144 6 1 0
/-- W1C, 1 bits at 0x1030[7]; R294. -/
def Reg.fabFaultHopExpired : Fld := mkFld 4144 7 1 0
/-- W1C, 1 bits at 0x1030[8]; R292. -/
def Reg.fabFaultTimeLost : Fld := mkFld 4144 8 1 0
/-- W1C, 1 bits at 0x1030[9]; R288. -/
def Reg.fabFaultHeadConflict : Fld := mkFld 4144 9 1 0
/-- W1C, 1 bits at 0x1030[10]; R308. -/
def Reg.fabFaultSegConflict : Fld := mkFld 4144 10 1 0
/-- W1C, 1 bits at 0x1030[11]; R289. -/
def Reg.fabFaultAddrFull : Fld := mkFld 4144 11 1 0
/-- W1C, 1 bits at 0x1030[12]; R304. -/
def Reg.fabFaultUpdateAbort : Fld := mkFld 4144 12 1 0
/-- RO, 32 bits at 0x1034[0]; R299. -/
def Reg.fabDrop (i : Nat) : Fld := mkFld (4148 + 4 * i) 0 32 0
/-- RO, 16 bits at 0x1044[0]; R285. -/
def Reg.fabLinkerrCrc (i : Nat) : Fld := mkFld (4164 + 4 * i) 0 16 0
/-- RO, 16 bits at 0x1044[16]; R285. -/
def Reg.fabLinkerrCode (i : Nat) : Fld := mkFld (4164 + 4 * i) 16 16 0
/-- RO, 32 bits at 0x1054[0]; R290. -/
def Reg.fabInuse (i : Nat) : Fld := mkFld (4180 + 4 * i) 0 32 0
/-- WO, 8 bits at 0x1400[0]; R69. -/
def Reg.lfCtrlRearm : Fld := mkFld 5120 0 8 0
/-- WO, 1 bits at 0x1400[8]; R67. -/
def Reg.lfCtrlDiagNow : Fld := mkFld 5120 8 1 0
/-- RW, 1 bits at 0x1400[9]; R62. -/
def Reg.lfCtrlTrackEn : Fld := mkFld 5120 9 1 1
/-- RW, 16 bits at 0x1404[0]; R62. -/
def Reg.lfPollInterval : Fld := mkFld 5124 0 16 200
/-- RW, 2 bits at 0x1404[16]; R62. -/
def Reg.lfPollPair : Fld := mkFld 5124 16 2 2
/-- RW, 1 bits at 0x1404[24]; R62. -/
def Reg.lfPollEn : Fld := mkFld 5124 24 1 1
/-- RW, 11 bits at 0x1408[0]; R128. -/
def Reg.lfDriveIpeak : Fld := mkFld 5128 0 11 1000
/-- RW, 14 bits at 0x140C[0]; R128. -/
def Reg.lfCarrierFreq : Fld := mkFld 5132 0 14 12500
/-- RW, 16 bits at 0x1410[0]; R62. -/
def Reg.lfWakeGroup : Fld := mkFld 5136 0 16 65535
/-- RO, 32 bits at 0x1414[0]; R50. -/
def Reg.lfPollnum : Fld := mkFld 5140 0 32 0
/-- RW, 6 bits at 0x1418[0]; R128. -/
def Reg.lfDutyCapChan : Fld := mkFld 5144 0 6 50
/-- RW, 7 bits at 0x1418[8]; R128. -/
def Reg.lfDutyCapArray : Fld := mkFld 5144 8 7 100
/-- RO, 16 bits at 0x141C[0]; R64. -/
def Reg.lfDutyStatDelays : Fld := mkFld 5148 0 16 0
/-- RO, 1 bits at 0x141C[16]; R64. -/
def Reg.lfDutyStatDelaying : Fld := mkFld 5148 16 1 0
/-- RW, 12 bits at 0x1420[0]; R67. -/
def Reg.lfDiagPeriod : Fld := mkFld 5152 0 12 60
/-- W1C, 8 bits at 0x1424[0]; R68. -/
def Reg.lfFaultChfault : Fld := mkFld 5156 0 8 0
/-- W1C, 1 bits at 0x1424[8]; R52. -/
def Reg.lfFaultVlfLow : Fld := mkFld 5156 8 1 0
/-- W1C, 1 bits at 0x1424[9]; R61. -/
def Reg.lfFaultSchedEmpty : Fld := mkFld 5156 9 1 0
/-- W1C, 1 bits at 0x1424[10]; R53. -/
def Reg.lfFaultAborted : Fld := mkFld 5156 10 1 0
/-- W1C, 1 bits at 0x1424[11]; R64. -/
def Reg.lfFaultDutyDelay : Fld := mkFld 5156 11 1 0
/-- RO, 4 bits at 0x1428[0]; R68. -/
def Reg.lfChanState0 : Fld := mkFld 5160 0 4 7
/-- RO, 4 bits at 0x1428[4]; R68. -/
def Reg.lfChanState1 : Fld := mkFld 5160 4 4 7
/-- RO, 4 bits at 0x1428[8]; R68. -/
def Reg.lfChanState2 : Fld := mkFld 5160 8 4 7
/-- RO, 4 bits at 0x1428[12]; R68. -/
def Reg.lfChanState3 : Fld := mkFld 5160 12 4 7
/-- RO, 4 bits at 0x1428[16]; R68. -/
def Reg.lfChanState4 : Fld := mkFld 5160 16 4 7
/-- RO, 4 bits at 0x1428[20]; R68. -/
def Reg.lfChanState5 : Fld := mkFld 5160 20 4 7
/-- RO, 4 bits at 0x1428[24]; R68. -/
def Reg.lfChanState6 : Fld := mkFld 5160 24 4 7
/-- RO, 4 bits at 0x1428[28]; R68. -/
def Reg.lfChanState7 : Fld := mkFld 5160 28 4 7
/-- RW, 3 bits at 0x1440[0]; R62. -/
def Reg.lfSched0Cha : Fld := mkFld 5184 0 3 0
/-- RW, 3 bits at 0x1440[4]; R62. -/
def Reg.lfSched0Chb : Fld := mkFld 5184 4 3 1
/-- RW, 2 bits at 0x1440[8]; R62. -/
def Reg.lfSched0Phase : Fld := mkFld 5184 8 2 1
/-- RW, 1 bits at 0x1440[12]; R62. -/
def Reg.lfSched0En : Fld := mkFld 5184 12 1 1
/-- RW, 3 bits at 0x1444[0]; R62. -/
def Reg.lfSched1Cha : Fld := mkFld 5188 0 3 2
/-- RW, 3 bits at 0x1444[4]; R62. -/
def Reg.lfSched1Chb : Fld := mkFld 5188 4 3 3
/-- RW, 2 bits at 0x1444[8]; R62. -/
def Reg.lfSched1Phase : Fld := mkFld 5188 8 2 1
/-- RW, 1 bits at 0x1444[12]; R62. -/
def Reg.lfSched1En : Fld := mkFld 5188 12 1 1
/-- RW, 3 bits at 0x1448[0]; R62. -/
def Reg.lfSched2Cha : Fld := mkFld 5192 0 3 4
/-- RW, 3 bits at 0x1448[4]; R62. -/
def Reg.lfSched2Chb : Fld := mkFld 5192 4 3 5
/-- RW, 2 bits at 0x1448[8]; R62. -/
def Reg.lfSched2Phase : Fld := mkFld 5192 8 2 1
/-- RW, 1 bits at 0x1448[12]; R62. -/
def Reg.lfSched2En : Fld := mkFld 5192 12 1 1
/-- RW, 3 bits at 0x144C[0]; R62. -/
def Reg.lfSched3Cha : Fld := mkFld 5196 0 3 6
/-- RW, 3 bits at 0x144C[4]; R62. -/
def Reg.lfSched3Chb : Fld := mkFld 5196 4 3 7
/-- RW, 2 bits at 0x144C[8]; R62. -/
def Reg.lfSched3Phase : Fld := mkFld 5196 8 2 1
/-- RW, 1 bits at 0x144C[12]; R62. -/
def Reg.lfSched3En : Fld := mkFld 5196 12 1 1
/-- RW, 3 bits at 0x1450[0]; R62. -/
def Reg.lfSched4Cha : Fld := mkFld 5200 0 3 0
/-- RW, 3 bits at 0x1450[4]; R62. -/
def Reg.lfSched4Chb : Fld := mkFld 5200 4 3 1
/-- RW, 2 bits at 0x1450[8]; R62. -/
def Reg.lfSched4Phase : Fld := mkFld 5200 8 2 1
/-- RW, 1 bits at 0x1450[12]; R62. -/
def Reg.lfSched4En : Fld := mkFld 5200 12 1 0
/-- RW, 3 bits at 0x1454[0]; R62. -/
def Reg.lfSched5Cha : Fld := mkFld 5204 0 3 0
/-- RW, 3 bits at 0x1454[4]; R62. -/
def Reg.lfSched5Chb : Fld := mkFld 5204 4 3 1
/-- RW, 2 bits at 0x1454[8]; R62. -/
def Reg.lfSched5Phase : Fld := mkFld 5204 8 2 1
/-- RW, 1 bits at 0x1454[12]; R62. -/
def Reg.lfSched5En : Fld := mkFld 5204 12 1 0
/-- RW, 3 bits at 0x1458[0]; R62. -/
def Reg.lfSched6Cha : Fld := mkFld 5208 0 3 0
/-- RW, 3 bits at 0x1458[4]; R62. -/
def Reg.lfSched6Chb : Fld := mkFld 5208 4 3 1
/-- RW, 2 bits at 0x1458[8]; R62. -/
def Reg.lfSched6Phase : Fld := mkFld 5208 8 2 1
/-- RW, 1 bits at 0x1458[12]; R62. -/
def Reg.lfSched6En : Fld := mkFld 5208 12 1 0
/-- RW, 3 bits at 0x145C[0]; R62. -/
def Reg.lfSched7Cha : Fld := mkFld 5212 0 3 0
/-- RW, 3 bits at 0x145C[4]; R62. -/
def Reg.lfSched7Chb : Fld := mkFld 5212 4 3 1
/-- RW, 2 bits at 0x145C[8]; R62. -/
def Reg.lfSched7Phase : Fld := mkFld 5212 8 2 1
/-- RW, 1 bits at 0x145C[12]; R62. -/
def Reg.lfSched7En : Fld := mkFld 5212 12 1 0
/-- RO, 14 bits at 0x1460[0]; R56. -/
def Reg.lfTrimResfreq (i : Nat) : Fld := mkFld (5216 + 4 * i) 0 14 0
/-- RO, 1 bits at 0x1460[14]; R56. -/
def Reg.lfTrimValid (i : Nat) : Fld := mkFld (5216 + 4 * i) 14 1 0
/-- RO, 20 bits at 0x1480[0]; R63. -/
def Reg.lfDutyuse (i : Nat) : Fld := mkFld (5248 + 4 * i) 0 20 0
/-- RW, 1 bits at 0x1800[0]; R102. -/
def Reg.tpxCtrlEn : Fld := mkFld 6144 0 1 0
/-- RW, 1 bits at 0x1800[1]; R84. -/
def Reg.tpxCtrlPwdEn : Fld := mkFld 6144 1 1 0
/-- RW, 4 bits at 0x1800[4]; R91. -/
def Reg.tpxCtrlZone : Fld := mkFld 6144 4 4 15
/-- WO, 1 bits at 0x1800[8]; R74. -/
def Reg.tpxCtrlRearm : Fld := mkFld 6144 8 1 0
/-- RW, 16 bits at 0x1804[0]; R102. -/
def Reg.tpxPollInterval : Fld := mkFld 6148 0 16 1000
/-- RW, 8 bits at 0x1808[0]; R128. -/
def Reg.tpxDriveIpeak : Fld := mkFld 6152 0 8 150
/-- RW, 5 bits at 0x180C[0]; R102. -/
def Reg.tpxTimingSettle : Fld := mkFld 6156 0 5 3
/-- RW, 4 bits at 0x1810[0]; R88. -/
def Reg.tpxWalkMaxtags : Fld := mkFld 6160 0 4 2
/-- RW, 2 bits at 0x1810[4]; R87. -/
def Reg.tpxWalkRetry : Fld := mkFld 6160 4 2 2
/-- RO, 4 bits at 0x1814[0]; R74. -/
def Reg.tpxStatusState : Fld := mkFld 6164 0 4 7
/-- RO, 8 bits at 0x1814[8]; R74. -/
def Reg.tpxStatusIlast : Fld := mkFld 6164 8 8 0
/-- RO, 1 bits at 0x1814[16]; R70. -/
def Reg.tpxStatusField : Fld := mkFld 6164 16 1 0
/-- W1C, 1 bits at 0x1818[0]; R74. -/
def Reg.tpxFaultCoil : Fld := mkFld 6168 0 1 0
/-- W1C, 1 bits at 0x1818[1]; R73. -/
def Reg.tpxFaultVlfLow : Fld := mkFld 6168 1 1 0
/-- W1C, 1 bits at 0x1818[2]; R87. -/
def Reg.tpxFaultWalkNoise : Fld := mkFld 6168 2 1 0
/-- W1C, 1 bits at 0x1818[3]; R88. -/
def Reg.tpxFaultWalkCap : Fld := mkFld 6168 3 1 0
/-- W1C, 1 bits at 0x1818[4]; R98. -/
def Reg.tpxFaultPendingFull : Fld := mkFld 6168 4 1 0
/-- RO, 32 bits at 0x181C[0]; R102. -/
def Reg.tpxPollcount : Fld := mkFld 6172 0 32 0
/-- RO, 5 bits at 0x1820[0]; R98. -/
def Reg.tpxPendingCount : Fld := mkFld 6176 0 5 0
/-- RW, 2 bits at 0x1C00[0]; R137. -/
def Reg.sgrCtrlTxoff : Fld := mkFld 7168 0 2 1
/-- RW, 2 bits at 0x1C00[2]; R137. -/
def Reg.sgrCtrlRxoff : Fld := mkFld 7168 2 2 0
/-- RW, 10 bits at 0x1C00[4]; R106. -/
def Reg.sgrCtrlTxWaitMax : Fld := mkFld 7168 4 10 100
/-- RW, 15 bits at 0x1C04[0]; R139. -/
def Reg.sgrFreqChan : Fld := mkFld 7172 0 15 22732
/-- RW, 2 bits at 0x1C04[16]; R103. -/
def Reg.sgrFreqRate : Fld := mkFld 7172 16 2 3
/-- RW, 6 bits at 0x1C08[0]; R128. -/
def Reg.sgrPaPower : Fld := mkFld 7176 0 6 48
/-- RW, 5 bits at 0x1C08[8]; R108. -/
def Reg.sgrPaLead : Fld := mkFld 7176 8 5 10
/-- RW, 1 bits at 0x1C08[16]; R108. -/
def Reg.sgrPaTrswPol : Fld := mkFld 7176 16 1 0
/-- RW, 1 bits at 0x1C08[17]; R108. -/
def Reg.sgrPaPaPol : Fld := mkFld 7176 17 1 0
/-- RW, 1 bits at 0x1C08[18]; R108. -/
def Reg.sgrPaPaUse : Fld := mkFld 7176 18 1 0
/-- RW, 5 bits at 0x1C0C[0]; R120. -/
def Reg.sgrCalTdelta : Fld := mkFld 7180 0 5 10
/-- RW, 12 bits at 0x1C0C[8]; R121. -/
def Reg.sgrCalDeadline : Fld := mkFld 7180 8 12 1000
/-- RO, 8 bits at 0x1C10[0]; R121. -/
def Reg.sgrCalstatTlast : Fld := mkFld 7184 0 8 0
/-- RO, 1 bits at 0x1C10[8]; R121. -/
def Reg.sgrCalstatValid : Fld := mkFld 7184 8 1 0
/-- RO, 1 bits at 0x1C10[9]; R121. -/
def Reg.sgrCalstatPending : Fld := mkFld 7184 9 1 0
/-- RO, 16 bits at 0x1C10[16]; R122. -/
def Reg.sgrCalstatRtcerr : Fld := mkFld 7184 16 16 0
/-- RW, 8 bits at 0x1C14[0]; R122. -/
def Reg.sgrXtrimBase : Fld := mkFld 7188 0 8 128
/-- RW, 8 bits at 0x1C14[8]; R122. -/
def Reg.sgrXtrimTc : Fld := mkFld 7188 8 8 0
/-- RO, 8 bits at 0x1C14[16]; R122. -/
def Reg.sgrXtrimApplied : Fld := mkFld 7188 16 8 128
/-- RO, 3 bits at 0x1C18[0]; R105. -/
def Reg.sgrStatusState : Fld := mkFld 7192 0 3 0
/-- RO, 1 bits at 0x1C18[3]; R104. -/
def Reg.sgrStatusLock : Fld := mkFld 7192 3 1 0
/-- RO, 1 bits at 0x1C18[4]; R133. -/
def Reg.sgrStatusBandOk : Fld := mkFld 7192 4 1 0
/-- RO, 8 bits at 0x1C18[8]; R139. -/
def Reg.sgrStatusRssi : Fld := mkFld 7192 8 8 128
/-- W1C, 1 bits at 0x1C1C[0]; R107. -/
def Reg.sgrFaultUnlock : Fld := mkFld 7196 0 1 0
/-- W1C, 1 bits at 0x1C1C[1]; R106. -/
def Reg.sgrFaultSynthBusy : Fld := mkFld 7196 1 1 0
/-- W1C, 1 bits at 0x1C1C[2]; R133. -/
def Reg.sgrFaultDuty : Fld := mkFld 7196 2 1 0
/-- W1C, 1 bits at 0x1C1C[3]; R133. -/
def Reg.sgrFaultBand : Fld := mkFld 7196 3 1 0
/-- W1C, 1 bits at 0x1C1C[4]; R131. -/
def Reg.sgrFaultNoRegrec : Fld := mkFld 7196 4 1 0
/-- W1C, 1 bits at 0x1C1C[5]; R123. -/
def Reg.sgrFaultCalFail : Fld := mkFld 7196 5 1 0
/-- RW, 1 bits at 0x1C20[0]; R124. -/
def Reg.sgrCoexEn : Fld := mkFld 7200 0 1 0
/-- RW, 1 bits at 0x1C20[1]; R124. -/
def Reg.sgrCoexGrantPol : Fld := mkFld 7200 1 1 0
/-- RW, 4 bits at 0x1C20[4]; R124. -/
def Reg.sgrCoexActMask : Fld := mkFld 7200 4 4 15
/-- RW, 8 bits at 0x1C20[8]; R127. -/
def Reg.sgrCoexWait : Fld := mkFld 7200 8 8 10
/-- RW, 16 bits at 0x1C20[16]; R125. -/
def Reg.sgrCoexHold : Fld := mkFld 7200 16 16 0
/-- RW, 6 bits at 0x1C24[0]; R137. -/
def Reg.sgrPktPreamble : Fld := mkFld 7204 0 6 4
/-- RW, 1 bits at 0x1C24[8]; R137. -/
def Reg.sgrPktSync32 : Fld := mkFld 7204 8 1 0
/-- RW, 1 bits at 0x1C24[9]; R137. -/
def Reg.sgrPktCrcEn : Fld := mkFld 7204 9 1 1
/-- RW, 1 bits at 0x1C24[10]; R137. -/
def Reg.sgrPktLenEn : Fld := mkFld 7204 10 1 1
/-- RW, 32 bits at 0x1C28[0]; R137. -/
def Reg.sgrSync : Fld := mkFld 7208 0 32 40555
/-- RO, 22 bits at 0x1C2C[0]; R133. -/
def Reg.sgrDutyuse (i : Nat) : Fld := mkFld (7212 + 4 * i) 0 22 0
/-- RO, 1 bits at 0x1C3C[0]; R131. -/
def Reg.sgrRegstatValid : Fld := mkFld 7228 0 1 0
/-- RO, 8 bits at 0x1C3C[8]; R139. -/
def Reg.sgrRegstatVersion : Fld := mkFld 7228 8 8 0
/-- RO, 16 bits at 0x1C3C[16]; R139. -/
def Reg.sgrRegstatRegion : Fld := mkFld 7228 16 16 0
/-- RW, 10 bits at 0x2000[0]; R118. -/
def Reg.uwbCtrlTxWaitMax : Fld := mkFld 8192 0 10 100
/-- RW, 1 bits at 0x2004[0]; R112. -/
def Reg.uwbChanEn5 : Fld := mkFld 8196 0 1 1
/-- RW, 1 bits at 0x2004[1]; R112. -/
def Reg.uwbChanEn9 : Fld := mkFld 8196 1 1 1
/-- RW, 1 bits at 0x2004[2]; R112. -/
def Reg.uwbChanHop : Fld := mkFld 8196 2 1 1
/-- RW, 2 bits at 0x2008[0]; R140. -/
def Reg.uwbPhyPsr : Fld := mkFld 8200 0 2 0
/-- RW, 2 bits at 0x2008[4]; R140. -/
def Reg.uwbPhyStscfg : Fld := mkFld 8200 4 2 3
/-- RW, 4 bits at 0x2008[8]; R140. -/
def Reg.uwbPhyPcode : Fld := mkFld 8200 8 4 9
/-- RW, 4 bits at 0x200C[0]; R140. -/
def Reg.uwbRangeAvg : Fld := mkFld 8204 0 4 1
/-- RW, 10 bits at 0x2010[0]; R128. -/
def Reg.uwbTxpwrLevel : Fld := mkFld 8208 0 10 413
/-- RW, 5 bits at 0x2014[0]; R120. -/
def Reg.uwbCalTdelta : Fld := mkFld 8212 0 5 10
/-- RW, 12 bits at 0x2014[8]; R121. -/
def Reg.uwbCalDeadline : Fld := mkFld 8212 8 12 1000
/-- RW, 16 bits at 0x2018[0]; R116. -/
def Reg.uwbAntdlyTx : Fld := mkFld 8216 0 16 16384
/-- RW, 16 bits at 0x201C[0]; R116. -/
def Reg.uwbAntdlyRx (i : Nat) : Fld := mkFld (8220 + 4 * i) 0 16 16384
/-- RO, 3 bits at 0x202C[0]; R140. -/
def Reg.uwbStatusState : Fld := mkFld 8236 0 3 0
/-- RO, 1 bits at 0x202C[3]; R140. -/
def Reg.uwbStatusChan : Fld := mkFld 8236 3 1 0
/-- RO, 1 bits at 0x202C[4]; R140. -/
def Reg.uwbStatusLock : Fld := mkFld 8236 4 1 0
/-- RO, 1 bits at 0x202C[5]; R124. -/
def Reg.uwbStatusGrant : Fld := mkFld 8236 5 1 0
/-- W1C, 1 bits at 0x2030[0]; R117. -/
def Reg.uwbFaultUnlock : Fld := mkFld 8240 0 1 0
/-- W1C, 1 bits at 0x2030[1]; R118. -/
def Reg.uwbFaultSynthBusy : Fld := mkFld 8240 1 1 0
/-- W1C, 1 bits at 0x2030[2]; R135. -/
def Reg.uwbFaultDuty : Fld := mkFld 8240 2 1 0
/-- W1C, 1 bits at 0x2030[3]; R112. -/
def Reg.uwbFaultChanNone : Fld := mkFld 8240 3 1 0
/-- W1C, 1 bits at 0x2030[4]; R123. -/
def Reg.uwbFaultCalFail : Fld := mkFld 8240 4 1 0
/-- W1C, 1 bits at 0x2030[5]; R126. -/
def Reg.uwbFaultGrantLost : Fld := mkFld 8240 5 1 0
/-- RO, 32 bits at 0x2034[0]; R114. -/
def Reg.uwbTimeLo : Fld := mkFld 8244 0 32 0
/-- RO, 8 bits at 0x2038[0]; R140. -/
def Reg.uwbTimeHi : Fld := mkFld 8248 0 8 0
/-- RO, 20 bits at 0x203C[0]; R135. -/
def Reg.uwbDutyuse : Fld := mkFld 8252 0 20 0
/-- RW, 1 bits at 0x2400[0]; R164. -/
def Reg.prxCtrlRaw : Fld := mkFld 9216 0 1 0
/-- RW, 1 bits at 0x2404[0]; R164. -/
def Reg.prxAoaMode : Fld := mkFld 9220 0 1 0
/-- RW, 3 bits at 0x2404[4]; R147. -/
def Reg.prxAoaMount : Fld := mkFld 9220 4 3 0
/-- RW, 8 bits at 0x2404[8]; R164. -/
def Reg.prxAoaPitch : Fld := mkFld 9220 8 8 187
/-- RW, 6 bits at 0x2404[16]; R164. -/
def Reg.prxAoaFov : Fld := mkFld 9220 16 6 60
/-- RW, 7 bits at 0x2408[0]; R164. -/
def Reg.prxBoundRounds : Fld := mkFld 9224 0 7 64
/-- RW, 3 bits at 0x2408[8]; R164. -/
def Reg.prxBoundErrmax : Fld := mkFld 9224 8 3 2
/-- RW, 11 bits at 0x2408[16]; R164. -/
def Reg.prxBoundMargin : Fld := mkFld 9224 16 11 300
/-- RW, 6 bits at 0x240C[0]; R142. -/
def Reg.prxWindowHalfwidth : Fld := mkFld 9228 0 6 10
/-- RO, 6 bits at 0x240C[8]; R142. -/
def Reg.prxWindowEffective : Fld := mkFld 9228 8 6 10
/-- RW, 8 bits at 0x240C[16]; R141. -/
def Reg.prxWindowPathdly : Fld := mkFld 9228 16 8 0
/-- RW, 16 bits at 0x2410[0]; R158. -/
def Reg.prxTol0Lf : Fld := mkFld 9232 0 16 500
/-- RW, 16 bits at 0x2410[16]; R158. -/
def Reg.prxTol0Bound : Fld := mkFld 9232 16 16 300
/-- RW, 8 bits at 0x2414[0]; R158. -/
def Reg.prxTol1Ang : Fld := mkFld 9236 0 8 20
/-- RW, 16 bits at 0x2414[16]; R158. -/
def Reg.prxTol1Range : Fld := mkFld 9236 16 16 300
/-- RW, 11 bits at 0x2418[0]; R156. -/
def Reg.prxLfrefIref : Fld := mkFld 9240 0 11 1000
/-- RO, 16 bits at 0x241C[0]; R164. -/
def Reg.prxStatImplausible : Fld := mkFld 9244 0 16 0
/-- RO, 16 bits at 0x241C[16]; R164. -/
def Reg.prxStatBoundfail : Fld := mkFld 9244 16 16 0
/-- RW, 10 bits at 0x2420[0]; R146. -/
def Reg.prxPhcal5C1 : Fld := mkFld 9248 0 10 0
/-- RW, 10 bits at 0x2420[16]; R146. -/
def Reg.prxPhcal5C2 : Fld := mkFld 9248 16 10 0
/-- RW, 10 bits at 0x2424[0]; R146. -/
def Reg.prxPhcal5C3 : Fld := mkFld 9252 0 10 0
/-- RW, 10 bits at 0x2428[0]; R146. -/
def Reg.prxPhcal9C1 : Fld := mkFld 9256 0 10 0
/-- RW, 10 bits at 0x2428[16]; R146. -/
def Reg.prxPhcal9C2 : Fld := mkFld 9256 16 10 0
/-- RW, 10 bits at 0x242C[0]; R146. -/
def Reg.prxPhcal9C3 : Fld := mkFld 9260 0 10 0
/-- RW, 16 bits at 0x2440[0]; R156. -/
def Reg.prxLfposX (i : Nat) : Fld := mkFld (9280 + 8 * i) 0 16 0
/-- RW, 16 bits at 0x2440[16]; R156. -/
def Reg.prxLfposY (i : Nat) : Fld := mkFld (9280 + 8 * i) 16 16 0
/-- RW, 16 bits at 0x2444[0]; R156. -/
def Reg.prxLfposZ (i : Nat) : Fld := mkFld (9284 + 8 * i) 0 16 0
/-- RW, 1 bits at 0x2480[0]; R160. -/
def Reg.prxZoneEn (i : Nat) : Fld := mkFld (9344 + 16 * i) 0 1 0
/-- RW, 1 bits at 0x2480[1]; R160. -/
def Reg.prxZoneShape (i : Nat) : Fld := mkFld (9344 + 16 * i) 1 1 0
/-- RW, 12 bits at 0x2480[8]; R160. -/
def Reg.prxZoneDmax (i : Nat) : Fld := mkFld (9344 + 16 * i) 8 12 250
/-- RW, 16 bits at 0x2484[0]; R160. -/
def Reg.prxZoneXmin (i : Nat) : Fld := mkFld (9348 + 16 * i) 0 16 0
/-- RW, 16 bits at 0x2484[16]; R160. -/
def Reg.prxZoneXmax (i : Nat) : Fld := mkFld (9348 + 16 * i) 16 16 0
/-- RW, 16 bits at 0x2488[0]; R160. -/
def Reg.prxZoneYmin (i : Nat) : Fld := mkFld (9352 + 16 * i) 0 16 0
/-- RW, 16 bits at 0x2488[16]; R160. -/
def Reg.prxZoneYmax (i : Nat) : Fld := mkFld (9352 + 16 * i) 16 16 0
/-- RW, 16 bits at 0x248C[0]; R160. -/
def Reg.prxZoneZmin (i : Nat) : Fld := mkFld (9356 + 16 * i) 0 16 0
/-- RW, 16 bits at 0x248C[16]; R160. -/
def Reg.prxZoneZmax (i : Nat) : Fld := mkFld (9356 + 16 * i) 16 16 0
/-- RW, 16 bits at 0x2580[0]; R157. -/
def Reg.prxLftabD (i : Nat) : Fld := mkFld (9600 + 4 * i) 0 16 0
/-- RW, 8 bits at 0x2580[16]; R157. -/
def Reg.prxLftabFhi (i : Nat) : Fld := mkFld (9600 + 4 * i) 16 8 0
/-- RW, 8 bits at 0x2580[24]; R157. -/
def Reg.prxLftabFlo (i : Nat) : Fld := mkFld (9600 + 4 * i) 24 8 0
/-- RW, 5 bits at 0x2800[0]; R230. -/
def Reg.autCtxCount : Fld := mkFld 10240 0 5 16
/-- RO, 5 bits at 0x2800[8]; R230. -/
def Reg.autCtxOpen : Fld := mkFld 10240 8 5 0
/-- RO, 1 bits at 0x2804[0]; R212. -/
def Reg.autStatusMode : Fld := mkFld 10244 0 1 0
/-- RO, 1 bits at 0x2804[1]; R212. -/
def Reg.autStatusModeConflict : Fld := mkFld 10244 1 1 0
/-- RO, 1 bits at 0x2804[2]; R230. -/
def Reg.autStatusLearning : Fld := mkFld 10244 2 1 0
/-- RO, 1 bits at 0x2804[3]; R218. -/
def Reg.autStatusPending : Fld := mkFld 10244 3 1 0
/-- RO, 1 bits at 0x2804[4]; R202. -/
def Reg.autStatusNoMaster : Fld := mkFld 10244 4 1 0
/-- RO, 1 bits at 0x2804[5]; R223. -/
def Reg.autStatusUnknownLocked : Fld := mkFld 10244 5 1 0
/-- RO, 12 bits at 0x2804[8]; R230. -/
def Reg.autStatusSlotsUsed : Fld := mkFld 10244 8 12 0
/-- RO, 32 bits at 0x2808[0]; R230. -/
def Reg.autEpoch : Fld := mkFld 10248 0 32 0
/-- RO, 32 bits at 0x280C[0]; R230. -/
def Reg.autPendingEpoch : Fld := mkFld 10252 0 32 0
/-- RO, 32 bits at 0x2810[0]; R230. -/
def Reg.autPendtime : Fld := mkFld 10256 0 32 0
/-- RO, 8 bits at 0x2814[0]; R223. -/
def Reg.autUnknownUfails : Fld := mkFld 10260 0 8 0
/-- RO, 8 bits at 0x2814[16]; R223. -/
def Reg.autUnknownRemain : Fld := mkFld 10260 16 8 0
/-- RO, 16 bits at 0x2818[0]; R230. -/
def Reg.autStat0Bad : Fld := mkFld 10264 0 16 0
/-- RO, 16 bits at 0x2818[16]; R230. -/
def Reg.autStat0Late : Fld := mkFld 10264 16 16 0
/-- RO, 16 bits at 0x281C[0]; R221. -/
def Reg.autStat1Lockouts : Fld := mkFld 10268 0 16 0
/-- RO, 12 bits at 0x281C[16]; R230. -/
def Reg.autStat1LockedNow : Fld := mkFld 10268 16 12 0
/-- RW, 1 bits at 0x2C00[0]; R242. -/
def Reg.relCtrlFull : Fld := mkFld 11264 0 1 1
/-- RW, 6 bits at 0x2C00[8]; R242. -/
def Reg.relCtrlQwait : Fld := mkFld 11264 8 6 10
/-- RW, 1 bits at 0x2C04[0]; R256. -/
def Reg.relGroupEn (i : Nat) : Fld := mkFld (11268 + 4 * i) 0 1 1
/-- RW, 1 bits at 0x2C04[1]; R248. -/
def Reg.relGroupPeerEn (i : Nat) : Fld := mkFld (11268 + 4 * i) 1 1 0
/-- RW, 1 bits at 0x2C04[2]; R246. -/
def Reg.relGroupHoldEn (i : Nat) : Fld := mkFld (11268 + 4 * i) 2 1 0
/-- RW, 17 bits at 0x2C04[8]; R243. -/
def Reg.relGroupTimeout (i : Nat) : Fld := mkFld (11268 + 4 * i) 8 17 900
/-- RW, 1 bits at 0x2C0C[0]; R247. -/
def Reg.relRoute0En : Fld := mkFld 11276 0 1 1
/-- RW, 1 bits at 0x2C0C[1]; R247. -/
def Reg.relRoute0Remote : Fld := mkFld 11276 1 1 0
/-- RW, 1 bits at 0x2C0C[2]; R247. -/
def Reg.relRoute0Target : Fld := mkFld 11276 2 1 0
/-- RW, 6 bits at 0x2C0C[8]; R247. -/
def Reg.relRoute0Position : Fld := mkFld 11276 8 6 0
/-- RW, 1 bits at 0x2C10[0]; R247. -/
def Reg.relRoute1En : Fld := mkFld 11280 0 1 1
/-- RW, 1 bits at 0x2C10[1]; R247. -/
def Reg.relRoute1Remote : Fld := mkFld 11280 1 1 0
/-- RW, 1 bits at 0x2C10[2]; R247. -/
def Reg.relRoute1Target : Fld := mkFld 11280 2 1 1
/-- RW, 6 bits at 0x2C10[8]; R247. -/
def Reg.relRoute1Position : Fld := mkFld 11280 8 6 0
/-- RW, 16 bits at 0x2C14[0]; R246. -/
def Reg.relHoldIthr : Fld := mkFld 11284 0 16 50
/-- RW, 10 bits at 0x2C14[16]; R246. -/
def Reg.relHoldMaxtime : Fld := mkFld 11284 16 10 600
/-- RW, 4 bits at 0x2C18[0]; R236. -/
def Reg.relDoormap : Fld := mkFld 11288 0 4 0
/-- RW, 4 bits at 0x2C18[4]; R236. -/
def Reg.relDoormap1 : Fld := mkFld 11288 4 4 0
/-- RW, 4 bits at 0x2C18[8]; R236. -/
def Reg.relDoormap2 : Fld := mkFld 11288 8 4 0
/-- RW, 4 bits at 0x2C18[12]; R236. -/
def Reg.relDoormap3 : Fld := mkFld 11288 12 4 0
/-- RW, 8 bits at 0x2C18[16]; R235. -/
def Reg.relDoorDebounce : Fld := mkFld 11288 16 8 20
/-- RO, 3 bits at 0x2C1C[0]; R235. -/
def Reg.relDoorState0 : Fld := mkFld 11292 0 3 5
/-- RO, 3 bits at 0x2C1C[4]; R235. -/
def Reg.relDoorState1 : Fld := mkFld 11292 4 3 5
/-- RO, 3 bits at 0x2C1C[8]; R235. -/
def Reg.relDoorState2 : Fld := mkFld 11292 8 3 5
/-- RO, 3 bits at 0x2C1C[12]; R235. -/
def Reg.relDoorState3 : Fld := mkFld 11292 12 3 5
/-- RW, 1 bits at 0x2C20[0]; R234. -/
def Reg.relRbEn0 : Fld := mkFld 11296 0 1 0
/-- RW, 1 bits at 0x2C20[1]; R234. -/
def Reg.relRbEn1 : Fld := mkFld 11296 1 1 0
/-- RW, 8 bits at 0x2C20[8]; R234. -/
def Reg.relRbTimeout : Fld := mkFld 11296 8 8 50
/-- RO, 2 bits at 0x2C20[16]; R234. -/
def Reg.relRbLevel : Fld := mkFld 11296 16 2 0
/-- RO, 2 bits at 0x2C24[0]; R256. -/
def Reg.relStatusReleased : Fld := mkFld 11300 0 2 0
/-- RO, 2 bits at 0x2C24[2]; R256. -/
def Reg.relStatusHolding : Fld := mkFld 11300 2 2 0
/-- RO, 4 bits at 0x2C24[4]; R256. -/
def Reg.relStatusOpen : Fld := mkFld 11300 4 4 0
/-- RO, 4 bits at 0x2C24[8]; R256. -/
def Reg.relStatusQueued : Fld := mkFld 11300 8 4 0
/-- RO, 1 bits at 0x2C24[12]; R256. -/
def Reg.relStatusGrace : Fld := mkFld 11300 12 1 0
/-- W1C, 2 bits at 0x2C28[0]; R234. -/
def Reg.relFaultRbLow : Fld := mkFld 11304 0 2 0
/-- W1C, 2 bits at 0x2C28[2]; R234. -/
def Reg.relFaultRbStuck : Fld := mkFld 11304 2 2 0
/-- W1C, 1 bits at 0x2C28[4]; R236. -/
def Reg.relFaultDoor : Fld := mkFld 11304 4 1 0
/-- W1C, 1 bits at 0x2C28[5]; R249. -/
def Reg.relFaultGrantDrop : Fld := mkFld 11304 5 1 0
/-- RO, 1 bits at 0x2C28[6]; R240. -/
def Reg.relFaultNumbersOut : Fld := mkFld 11304 6 1 0
/-- RO, 32 bits at 0x2C2C[0]; R240. -/
def Reg.relSessnumNext : Fld := mkFld 11308 0 32 1
/-- RWL, 5 bits at 0x2C30[0]; R253. -/
def Reg.relGraceTime : Fld := mkFld 11312 0 5 10
/-- RO, 16 bits at 0x2C34[0]; R249. -/
def Reg.relStatDropped : Fld := mkFld 11316 0 16 0
/-- RO, 16 bits at 0x2C34[16]; R249. -/
def Reg.relStatAccepted : Fld := mkFld 11316 16 16 0
/-- RW, 1 bits at 0x3000[0]; R282. -/
def Reg.mtrCtrlEn : Fld := mkFld 12288 0 1 1
/-- RW, 1 bits at 0x3000[1]; R268. -/
def Reg.mtrCtrlXchkEn : Fld := mkFld 12288 1 1 1
/-- RW, 1 bits at 0x3000[2]; R282. -/
def Reg.mtrCtrlGroup : Fld := mkFld 12288 2 1 0
/-- RW, 1 bits at 0x3000[3]; R282. -/
def Reg.mtrCtrlInvi : Fld := mkFld 12288 3 1 0
/-- RW, 7 bits at 0x3004[0]; R257. -/
def Reg.mtrClkDiv : Fld := mkFld 12292 0 7 8
/-- RW, 3 bits at 0x3004[8]; R257. -/
def Reg.mtrClkSkew : Fld := mkFld 12292 8 3 2
/-- RW, 1 bits at 0x3004[11]; R257. -/
def Reg.mtrClkInv1 : Fld := mkFld 12292 11 1 0
/-- RW, 2 bits at 0x3008[0]; R258. -/
def Reg.mtrDecOsr : Fld := mkFld 12296 0 2 2
/-- RO, 4 bits at 0x300C[0]; R260. -/
def Reg.mtrStatusUsable : Fld := mkFld 12300 0 4 0
/-- RO, 1 bits at 0x300C[4]; R262. -/
def Reg.mtrStatusSource : Fld := mkFld 12300 4 1 0
/-- RO, 1 bits at 0x300C[5]; R264. -/
def Reg.mtrStatusGap : Fld := mkFld 12300 5 1 0
/-- RO, 1 bits at 0x300C[6]; R261. -/
def Reg.mtrStatusPending : Fld := mkFld 12300 6 1 0
/-- RO, 1 bits at 0x300C[7]; R259. -/
def Reg.mtrStatusSettling : Fld := mkFld 12300 7 1 0
/-- W1C, 1 bits at 0x3010[0]; R269. -/
def Reg.mtrFaultTamper : Fld := mkFld 12304 0 1 0
/-- W1C, 1 bits at 0x3010[1]; R260. -/
def Reg.mtrFaultChanLost : Fld := mkFld 12304 1 1 0
/-- W1C, 1 bits at 0x3010[2]; R276. -/
def Reg.mtrFaultRollup : Fld := mkFld 12304 2 1 0
/-- W1C, 1 bits at 0x3010[3]; R274. -/
def Reg.mtrFaultNvDefer : Fld := mkFld 12304 3 1 0
/-- RO, 1 bits at 0x3010[4]; R276. -/
def Reg.mtrFaultRollupOpen : Fld := mkFld 12304 4 1 0
/-- RW, 8 bits at 0x3014[0]; R268. -/
def Reg.mtrXchkDev : Fld := mkFld 12308 0 8 10
/-- RW, 8 bits at 0x3014[8]; R268. -/
def Reg.mtrXchkWindow : Fld := mkFld 12308 8 8 1
/-- RW, 16 bits at 0x3018[0]; R268. -/
def Reg.mtrFloorPfloor : Fld := mkFld 12312 0 16 1000
/-- RW, 16 bits at 0x3018[16]; R268. -/
def Reg.mtrFloorIfloor : Fld := mkFld 12312 16 16 20
/-- RWL, 8 bits at 0x301C[0]; R263. -/
def Reg.mtrPhaseA : Fld := mkFld 12316 0 8 0
/-- RWL, 8 bits at 0x301C[8]; R263. -/
def Reg.mtrPhaseB : Fld := mkFld 12316 8 8 0
/-- RWL, 32 bits at 0x3020[0]; R263. -/
def Reg.mtrGain (i : Nat) : Fld := mkFld (12320 + 4 * i) 0 32 4194304
/-- RWL, 24 bits at 0x3030[0]; R263. -/
def Reg.mtrOff (i : Nat) : Fld := mkFld (12336 + 4 * i) 0 24 0
/-- RO, 32 bits at 0x3040[0]; R265. -/
def Reg.mtrLifeLo (i : Nat) : Fld := mkFld (12352 + 8 * i) 0 32 0
/-- RO, 16 bits at 0x3044[0]; R265. -/
def Reg.mtrLifeHi (i : Nat) : Fld := mkFld (12356 + 8 * i) 0 16 0
/-- RO, 32 bits at 0x3060[0]; R268. -/
def Reg.mtrPwr : Fld := mkFld 12384 0 32 0
/-- RO, 32 bits at 0x3064[0]; R268. -/
def Reg.mtrCurr : Fld := mkFld 12388 0 32 0
/-- RO, 32 bits at 0x3068[0]; R269. -/
def Reg.mtrTamper : Fld := mkFld 12392 0 32 0
/-- RO, 32 bits at 0x306C[0]; R274. -/
def Reg.mtrRcptNext : Fld := mkFld 12396 0 32 1
/-- RO, 32 bits at 0x3070[0]; R274. -/
def Reg.mtrRcptAck : Fld := mkFld 12400 0 32 0
/-- RO, 11 bits at 0x3074[0]; R274. -/
def Reg.mtrRcptStatUnacked : Fld := mkFld 12404 0 11 0
/-- RO, 16 bits at 0x3074[16]; R276. -/
def Reg.mtrRcptStatRolled : Fld := mkFld 12404 16 16 0
/-- RO, 16 bits at 0x3078[0]; R278. -/
def Reg.mtrEpoch : Fld := mkFld 12408 0 16 1
/-- RO, 1 bits at 0x3078[16]; R278. -/
def Reg.mtrEpochReloaded : Fld := mkFld 12408 16 1 0
/-- RO, 12 bits at 0x3080[0]; R270. -/
def Reg.mtrAuxCode (i : Nat) : Fld := mkFld (12416 + 4 * i) 0 12 0
/-- RO, 1 bits at 0x3080[12]; R270. -/
def Reg.mtrAuxValid (i : Nat) : Fld := mkFld (12416 + 4 * i) 12 1 0
/-- RW, 8 bits at 0x30A0[0]; R270. -/
def Reg.mtrAuxcfgPullup : Fld := mkFld 12448 0 8 0
/-- RO, 1 bits at 0x3400[0]; R178. -/
def Reg.cipStatusTrngReady : Fld := mkFld 13312 0 1 0
/-- RO, 1 bits at 0x3400[1]; R177. -/
def Reg.cipStatusReseeding : Fld := mkFld 13312 1 1 0
/-- RO, 6 bits at 0x3400[8]; R166. -/
def Reg.cipStatusLoaded : Fld := mkFld 13312 8 6 0
/-- RO, 1 bits at 0x3400[14]; R166. -/
def Reg.cipStatusLoadedValid : Fld := mkFld 13312 14 1 0
/-- RO, 8 bits at 0x3404[0]; R179. -/
def Reg.cipTrngRctFails : Fld := mkFld 13316 0 8 0
/-- RO, 8 bits at 0x3404[8]; R179. -/
def Reg.cipTrngAptFails : Fld := mkFld 13316 8 8 0
/-- RO, 8 bits at 0x3404[16]; R178. -/
def Reg.cipTrngStartups : Fld := mkFld 13316 16 8 0
/-- W1C, 1 bits at 0x3408[0]; R179. -/
def Reg.cipFaultHealth : Fld := mkFld 13320 0 1 0
/-- RO, 1 bits at 0x3408[1]; R179. -/
def Reg.cipFaultTrngFail : Fld := mkFld 13320 1 1 0
/-- RO, 32 bits at 0x340C[0]; R166. -/
def Reg.cipReloads : Fld := mkFld 13324 0 32 0
/-- RW, 16 bits at 0x3410[0]; R177. -/
def Reg.cipDrbgReseedReq : Fld := mkFld 13328 0 16 4096
/-- RW, 10 bits at 0x3410[16]; R177. -/
def Reg.cipDrbgReseedMs : Fld := mkFld 13328 16 10 1000
/-- RW, 11 bits at 0x3800[0]; R189. -/
def Reg.keyMaskPeriod : Fld := mkFld 14336 0 11 250
/-- RO, 3 bits at 0x3804[0]; R195. -/
def Reg.keyLifecycleState : Fld := mkFld 14340 0 3 0
/-- RO, 1 bits at 0x3804[8]; R194. -/
def Reg.keyLifecycleDebugOpen : Fld := mkFld 14340 8 1 0
/-- RO, 32 bits at 0x3808[0]; R198. -/
def Reg.keyOcc (i : Nat) : Fld := mkFld (14344 + 4 * i) 0 32 0
/-- RO, 32 bits at 0x3810[0]; R198. -/
def Reg.keyDevid (i : Nat) : Fld := mkFld (14352 + 4 * i) 0 32 0
/-- RO, 32 bits at 0x3900[0]; R198. -/
def Reg.keyAttr (i : Nat) : Fld := mkFld (14592 + 4 * i) 0 32 0
/-- RO, 18 bits at 0x3A00[0]; R198. -/
def Reg.keyMaster (i : Nat) : Fld := mkFld (14848 + 4 * i) 0 18 0
/-- RW, 1 bits at 0x3C00[0]; R370. -/
def Reg.nvsCtrlPumode : Fld := mkFld 15360 0 1 0
/-- RW, 1 bits at 0x3C00[1]; R366. -/
def Reg.nvsCtrlScrubEn : Fld := mkFld 15360 1 1 1
/-- RW, 5 bits at 0x3C04[0]; R366. -/
def Reg.nvsScrubPeriod : Fld := mkFld 15364 0 5 7
/-- RO, 1 bits at 0x3C08[0]; R365. -/
def Reg.nvsStatusNvwp : Fld := mkFld 15368 0 1 0
/-- RO, 1 bits at 0x3C08[1]; R360. -/
def Reg.nvsStatusHoldOk : Fld := mkFld 15368 1 1 0
/-- RO, 1 bits at 0x3C08[2]; R367. -/
def Reg.nvsStatusReady : Fld := mkFld 15368 2 1 0
/-- RO, 1 bits at 0x3C08[3]; R367. -/
def Reg.nvsStatusMode : Fld := mkFld 15368 3 1 0
/-- RO, 1 bits at 0x3C08[4]; R357. -/
def Reg.nvsStatusSingle : Fld := mkFld 15368 4 1 0
/-- RO, 8 bits at 0x3C08[8]; R370. -/
def Reg.nvsStatusQueue : Fld := mkFld 15368 8 8 0
/-- W1C, 1 bits at 0x3C0C[0]; R360. -/
def Reg.nvsFaultDeferred : Fld := mkFld 15372 0 1 0
/-- W1C, 1 bits at 0x3C0C[1]; R355. -/
def Reg.nvsFaultTie : Fld := mkFld 15372 1 1 0
/-- W1C, 1 bits at 0x3C0C[2]; R359. -/
def Reg.nvsFaultWear : Fld := mkFld 15372 2 1 0
/-- W1C, 1 bits at 0x3C0C[3]; R352. -/
def Reg.nvsFaultVerify : Fld := mkFld 15372 3 1 0
/-- W1C, 1 bits at 0x3C0C[4]; R364. -/
def Reg.nvsFaultTorn : Fld := mkFld 15372 4 1 0
/-- W1C, 1 bits at 0x3C0C[5]; R366. -/
def Reg.nvsFaultWeak : Fld := mkFld 15372 5 1 0
/-- W1C, 1 bits at 0x3C0C[6]; R355. -/
def Reg.nvsFaultLost : Fld := mkFld 15372 6 1 0
/-- W1C, 1 bits at 0x3C0C[7]; R364. -/
def Reg.nvsFaultPfIncomplete : Fld := mkFld 15372 7 1 0
/-- W1C, 1 bits at 0x3C0C[8]; R361. -/
def Reg.nvsFaultHoldSmall : Fld := mkFld 15372 8 1 0
/-- RO, 10 bits at 0x3C10[0]; R370. -/
def Reg.nvsHoldVhold : Fld := mkFld 15376 0 10 0
/-- RO, 17 bits at 0x3C14[0]; R359. -/
def Reg.nvsWeard : Fld := mkFld 15380 0 17 0
/-- RO, 14 bits at 0x3C18[0]; R359. -/
def Reg.nvsWearc : Fld := mkFld 15384 0 14 0
/-- RO, 16 bits at 0x3C1C[0]; R360. -/
def Reg.nvsStatDefers : Fld := mkFld 15388 0 16 0
/-- RO, 16 bits at 0x3C1C[16]; R352. -/
def Reg.nvsStatVerifyFails : Fld := mkFld 15388 16 16 0
/-- RO, 32 bits at 0x3C20[0]; R366. -/
def Reg.nvsScrublast : Fld := mkFld 15392 0 32 0
/-- RW, 1 bits at 0x4000[0]; R392. -/
def Reg.updCtrlMethod : Fld := mkFld 16384 0 1 0
/-- RW, 1 bits at 0x4000[1]; R382. -/
def Reg.updCtrlAppForce : Fld := mkFld 16384 1 1 0
/-- RW, 10 bits at 0x4000[8]; R382. -/
def Reg.updCtrlAppWait : Fld := mkFld 16384 8 10 100
/-- RO, 3 bits at 0x4004[0]; R392. -/
def Reg.updStatusState : Fld := mkFld 16388 0 3 0
/-- RO, 1 bits at 0x4004[3]; R383. -/
def Reg.updStatusMixed : Fld := mkFld 16388 3 1 0
/-- RO, 1 bits at 0x4004[4]; R380. -/
def Reg.updStatusRestartNeeded : Fld := mkFld 16388 4 1 0
/-- W1C, 1 bits at 0x4004[5]; R385. -/
def Reg.updStatusCfgReset : Fld := mkFld 16388 5 1 0
/-- RO, 1 bits at 0x4004[6]; R388. -/
def Reg.updStatusImported : Fld := mkFld 16388 6 1 0
/-- RO, 1 bits at 0x4004[7]; R392. -/
def Reg.updStatusSpareBusy : Fld := mkFld 16388 7 1 0
/-- RO, 8 bits at 0x4008[0]; R392. -/
def Reg.updProgressWritten : Fld := mkFld 16392 0 8 0
/-- RO, 8 bits at 0x4008[8]; R392. -/
def Reg.updProgressTotal : Fld := mkFld 16392 8 8 0
/-- RO, 4 bits at 0x4008[16]; R392. -/
def Reg.updProgressRoles : Fld := mkFld 16392 16 4 0
/-- RO, 32 bits at 0x400C[0]; R392. -/
def Reg.updVerApp : Fld := mkFld 16396 0 32 0
/-- RO, 32 bits at 0x4010[0]; R392. -/
def Reg.updVerMc : Fld := mkFld 16400 0 32 0
/-- RO, 32 bits at 0x4014[0]; R392. -/
def Reg.updVerLdr : Fld := mkFld 16404 0 32 0
/-- RO, 8 bits at 0x4018[0]; R392. -/
def Reg.updFloorSecver : Fld := mkFld 16408 0 8 0
/-- RO, 4 bits at 0x401C[0]; R392. -/
def Reg.updEngmap0 : Fld := mkFld 16412 0 4 0
/-- RO, 4 bits at 0x401C[4]; R392. -/
def Reg.updEngmap1 : Fld := mkFld 16412 4 4 1
/-- RO, 4 bits at 0x401C[8]; R392. -/
def Reg.updEngmap2 : Fld := mkFld 16412 8 4 2
/-- RO, 4 bits at 0x401C[12]; R392. -/
def Reg.updEngmap3 : Fld := mkFld 16412 12 4 3
/-- RO, 4 bits at 0x401C[16]; R392. -/
def Reg.updEngmap4 : Fld := mkFld 16412 16 4 4
/-- RO, 4 bits at 0x401C[20]; R392. -/
def Reg.updEngmap5 : Fld := mkFld 16412 20 4 5
/-- RO, 4 bits at 0x401C[24]; R392. -/
def Reg.updEngmap6 : Fld := mkFld 16412 24 4 6
/-- RO, 4 bits at 0x401C[28]; R392. -/
def Reg.updEngmap7 : Fld := mkFld 16412 28 4 7
/-- RO, 4 bits at 0x4020[0]; R392. -/
def Reg.updEngmap8 : Fld := mkFld 16416 0 4 8
/-- RO, 4 bits at 0x4020[4]; R392. -/
def Reg.updEngmap9 : Fld := mkFld 16416 4 4 9
/-- RO, 4 bits at 0x4020[8]; R392. -/
def Reg.updEngmap10 : Fld := mkFld 16416 8 4 10
/-- RO, 4 bits at 0x4020[12]; R392. -/
def Reg.updEngmap11 : Fld := mkFld 16416 12 4 11
/-- RO, 4 bits at 0x4020[16]; R392. -/
def Reg.updEngmap12 : Fld := mkFld 16416 16 4 12
/-- RO, 4 bits at 0x4020[20]; R392. -/
def Reg.updEngmap13 : Fld := mkFld 16416 20 4 13
/-- RO, 4 bits at 0x4020[24]; R392. -/
def Reg.updEngmap14 : Fld := mkFld 16416 24 4 14
/-- RO, 32 bits at 0x4040[0]; R392. -/
def Reg.updAppkey (i : Nat) : Fld := mkFld (16448 + 4 * i) 0 32 0
/-- WO, 1 bits at 0x4400[0]; R412. -/
def Reg.pwrCtrlRestart : Fld := mkFld 17408 0 1 0
/-- RWL, 1 bits at 0x4400[1]; R412. -/
def Reg.pwrCtrlAutoRestart : Fld := mkFld 17408 1 1 0
/-- RW, 3 bits at 0x4404[0]; R394. -/
def Reg.pwrIdleRung : Fld := mkFld 17412 0 3 1
/-- RW, 3 bits at 0x4404[4]; R395. -/
def Reg.pwrIdleDeep : Fld := mkFld 17412 4 3 3
/-- RW, 16 bits at 0x4404[16]; R395. -/
def Reg.pwrIdleDeepAfter : Fld := mkFld 17412 16 16 0
/-- RO, 3 bits at 0x4408[0]; R393. -/
def Reg.pwrStatusRung : Fld := mkFld 17416 0 3 0
/-- RO, 1 bits at 0x4408[3]; R397. -/
def Reg.pwrStatusRtcValid : Fld := mkFld 17416 3 1 0
/-- RO, 1 bits at 0x4408[4]; R398. -/
def Reg.pwrStatusKeepRc : Fld := mkFld 17416 4 1 0
/-- RO, 1 bits at 0x4408[5]; R404. -/
def Reg.pwrStatusIo33 : Fld := mkFld 17416 5 1 0
/-- RO, 2 bits at 0x4408[6]; R414. -/
def Reg.pwrStatusLevel : Fld := mkFld 17416 6 2 0
/-- RO, 1 bits at 0x4408[8]; R413. -/
def Reg.pwrStatusSpareBad : Fld := mkFld 17416 8 1 0
/-- RO, 4 bits at 0x440C[0]; R401. -/
def Reg.pwrResetCause : Fld := mkFld 17420 0 4 1
/-- RO, 2 bits at 0x440C[8]; R412. -/
def Reg.pwrResetAutoCount : Fld := mkFld 17420 8 2 0
/-- W1C, 1 bits at 0x4410[0]; R398. -/
def Reg.pwrFaultXtal32 : Fld := mkFld 17424 0 1 0
/-- W1C, 1 bits at 0x4410[1]; R399. -/
def Reg.pwrFaultRelock : Fld := mkFld 17424 1 1 0
/-- W1C, 1 bits at 0x4410[2]; R406. -/
def Reg.pwrFaultEccDouble : Fld := mkFld 17424 2 1 0
/-- W1C, 1 bits at 0x4410[3]; R407. -/
def Reg.pwrFaultTakeover : Fld := mkFld 17424 3 1 0
/-- W1C, 1 bits at 0x4410[4]; R407. -/
def Reg.pwrFaultAppRestart : Fld := mkFld 17424 4 1 0
/-- W1C, 1 bits at 0x4410[5]; R414. -/
def Reg.pwrFaultTherm : Fld := mkFld 17424 5 1 0
/-- W1C, 1 bits at 0x4410[6]; R415. -/
def Reg.pwrFaultNtc : Fld := mkFld 17424 6 1 0
/-- W1C, 1 bits at 0x4410[7]; R413. -/
def Reg.pwrFaultPreempt : Fld := mkFld 17424 7 1 0
/-- RO, 8 bits at 0x4414[0]; R410. -/
def Reg.pwrFailinfoCause : Fld := mkFld 17428 0 8 0
/-- RO, 8 bits at 0x4414[8]; R410. -/
def Reg.pwrFailinfoDetail : Fld := mkFld 17428 8 8 0
/-- RO, 32 bits at 0x4418[0]; R400. -/
def Reg.pwrRtc : Fld := mkFld 17432 0 32 0
/-- RW, 32 bits at 0x441C[0]; R395. -/
def Reg.pwrAlarm : Fld := mkFld 17436 0 32 0
/-- RW, 8 bits at 0x4420[0]; R414. -/
def Reg.pwrThermT1 : Fld := mkFld 17440 0 8 125
/-- RO, 8 bits at 0x4420[16]; R414. -/
def Reg.pwrThermTemp : Fld := mkFld 17440 16 8 0
/-- RW, 8 bits at 0x4424[0]; R415. -/
def Reg.pwrNtcEn : Fld := mkFld 17444 0 8 0
/-- RW, 12 bits at 0x4424[8]; R415. -/
def Reg.pwrNtcHot : Fld := mkFld 17444 8 12 1000
/-- RO, 8 bits at 0x4428[0]; R413. -/
def Reg.pwrSchedQueued : Fld := mkFld 17448 0 8 0
/-- RO, 16 bits at 0x4428[16]; R413. -/
def Reg.pwrSchedPreempts : Fld := mkFld 17448 16 16 0
/-- RO, 16 bits at 0x442C[0]; R406. -/
def Reg.pwrEccCorrected : Fld := mkFld 17452 0 16 0
/-- RO, 16 bits at 0x442C[16]; R406. -/
def Reg.pwrEccDouble : Fld := mkFld 17452 16 16 0

/-- The field rows of the SYS_ block. -/
def fieldsSys : List FieldSpec :=
  [
    ⟨0, 0, 1, 0, 16, .ro, 7996, .any, .immediate, []⟩,
    ⟨0, 0, 1, 16, 16, .ro, 25622, .any, .immediate, []⟩,
    ⟨4, 0, 1, 0, 8, .ro, 1, .any, .immediate, []⟩,
    ⟨4, 0, 1, 8, 8, .ro, 1, .any, .immediate, []⟩,
    ⟨8, 0, 1, 0, 2, .ro, 0, .any, .immediate, []⟩,
    ⟨8, 0, 1, 2, 1, .ro, 0, .any, .immediate, []⟩,
    ⟨64, 0, 1, 0, 4, .rw, 1, (.keepAbove 3), .boundary, []⟩,
    ⟨64, 0, 1, 4, 1, .ro, 0, .any, .immediate, []⟩,
    ⟨64, 0, 1, 5, 1, .ro, 0, .any, .immediate, []⟩
  ]

/-- The field rows of the HIF_ block. -/
def fieldsHif : List FieldSpec :=
  [
    ⟨1024, 0, 1, 0, 6, .rw, 0, .any, .immediate, []⟩,
    ⟨1024, 0, 1, 6, 1, .rw, 1, .any, .immediate, []⟩,
    ⟨1028, 0, 1, 0, 1, .ro, 0, .any, .immediate, []⟩,
    ⟨1028, 0, 1, 1, 1, .ro, 0, .any, .immediate, []⟩,
    ⟨1028, 0, 1, 2, 1, .ro, 0, .any, .immediate, []⟩,
    ⟨1032, 0, 1, 0, 1, .w1c, 0, .any, .immediate, []⟩,
    ⟨1032, 0, 1, 1, 1, .w1c, 0, .any, .immediate, []⟩,
    ⟨1032, 0, 1, 2, 1, .w1c, 0, .any, .immediate, []⟩,
    ⟨1032, 0, 1, 3, 1, .w1c, 0, .any, .immediate, []⟩,
    ⟨1032, 0, 1, 4, 1, .w1c, 0, .any, .immediate, []⟩,
    ⟨1032, 0, 1, 5, 1, .w1c, 0, .any, .immediate, []⟩,
    ⟨1036, 0, 1, 0, 6, .rw, 4, (.range 1 50), .immediate, []⟩,
    ⟨1036, 0, 1, 8, 4, .rw, 8, (.range 1 15), .immediate, []⟩,
    ⟨1036, 0, 1, 16, 5, .rw, 2, (.range 1 20), .immediate, []⟩,
    ⟨1040, 4, 2, 0, 32, .ro, 0, .any, .immediate, []⟩,
    ⟨1048, 4, 2, 0, 32, .w1c, 0, .any, .immediate, []⟩,
    ⟨1056, 0, 1, 0, 16, .ro, 2, .any, .immediate, []⟩,
    ⟨1060, 0, 1, 0, 32, .ro, 1, .any, .immediate, []⟩,
    ⟨1064, 0, 1, 0, 32, .ro, 0, .any, .immediate, []⟩,
    ⟨1068, 0, 1, 0, 32, .ro, 0, .any, .immediate, []⟩,
    ⟨1072, 0, 1, 0, 16, .rwl, 7996, .any, .pcieReset, [0, 1, 3]⟩,
    ⟨1072, 0, 1, 16, 16, .rwl, 1, .any, .pcieReset, [0, 1, 3]⟩
  ]

/-- The field rows of the FAB_ block, part 0. -/
def fieldsFab0 : List FieldSpec :=
  [
    ⟨4096, 0, 1, 0, 4, .rw, 15, .any, .immediate, []⟩,
    ⟨4096, 0, 1, 4, 1, .wo, 0, .any, .immediate, []⟩,
    ⟨4096, 0, 1, 5, 1, .rw, 1, .any, .immediate, []⟩,
    ⟨4100, 0, 1, 0, 6, .rw, 0, .any, .rejoin, []⟩,
    ⟨4100, 0, 1, 6, 10, .rw, 0, .any, .rejoin, []⟩,
    ⟨4100, 0, 1, 16, 1, .ro, 0, .any, .immediate, []⟩,
    ⟨4100, 0, 1, 17, 1, .ro, 0, .any, .immediate, []⟩,
    ⟨4104, 0, 1, 0, 2, .ro, 0, .any, .immediate, []⟩,
    ⟨4104, 0, 1, 2, 1, .ro, 0, .any, .immediate, []⟩,
    ⟨4104, 0, 1, 3, 1, .ro, 0, .any, .immediate, []⟩,
    ⟨4104, 0, 1, 4, 7, .ro, 0, .any, .immediate, []⟩,
    ⟨4104, 0, 1, 11, 11, .ro, 0, .any, .immediate, []⟩,
    ⟨4108, 0, 1, 0, 3, .ro, 0, .any, .immediate, []⟩,
    ⟨4108, 0, 1, 3, 3, .ro, 0, .any, .immediate, []⟩,
    ⟨4108, 0, 1, 6, 3, .ro, 0, .any, .immediate, []⟩,
    ⟨4108, 0, 1, 9, 3, .ro, 0, .any, .immediate, []⟩,
    ⟨4112, 0, 1, 0, 8, .rw, 20, (.range 1 200), .immediate, []⟩,
    ⟨4112, 0, 1, 8, 8, .rw, 60, (.range 1 255), .immediate, []⟩,
    ⟨4116, 0, 1, 0, 7, .rw, 16, (.range 1 64), .immediate, []⟩,
    ⟨4116, 0, 1, 8, 5, .rw, 12, (.range 1 16), .immediate, []⟩,
    ⟨4120, 0, 1, 0, 1, .rw, 0, (.limit .spillEn), .immediate, []⟩,
    ⟨4120, 0, 1, 1, 7, .rw, 64, (.limit .spillSize), .immediate, []⟩,
    ⟨4120, 0, 1, 8, 1, .ro, 0, .any, .immediate, []⟩,
    ⟨4124, 0, 1, 0, 12, .ro, 0, .any, .immediate, []⟩,
    ⟨4124, 0, 1, 12, 19, .ro, 0, .any, .immediate, []⟩,
    ⟨4128, 0, 1, 0, 1, .ro, 0, .any, .immediate, []⟩,
    ⟨4128, 0, 1, 1, 2, .ro, 0, .any, .immediate, []⟩,
    ⟨4128, 0, 1, 4, 12, .ro, 0, .any, .immediate, []⟩,
    ⟨4128, 0, 1, 16, 16, .ro, 0, .any, .immediate, []⟩,
    ⟨4132, 0, 1, 0, 32, .ro, 0, .any, .immediate, []⟩,
    ⟨4136, 0, 1, 0, 16, .ro, 0, .any, .immediate, []⟩,
    ⟨4140, 0, 1, 0, 15, .rw, 0, .any, .immediate, []⟩,
    ⟨4140, 0, 1, 16, 15, .rw, 0, (.limit .mcastHost), .immediate, []⟩,
    ⟨4144, 0, 1, 0, 4, .w1c, 0, .any, .immediate, []⟩,
    ⟨4144, 0, 1, 4, 1, .w1c, 0, .any, .immediate, []⟩,
    ⟨4144, 0, 1, 5, 1, .w1c, 0, .any, .immediate, []⟩,
    ⟨4144, 0, 1, 6, 1, .w1c, 0, .any, .immediate, []⟩,
    ⟨4144, 0, 1, 7, 1, .w1c, 0, .any, .immediate, []⟩,
    ⟨4144, 0, 1, 8, 1, .w1c, 0, .any, .immediate, []⟩,
    ⟨4144, 0, 1, 9, 1, .w1c, 0, .any, .immediate, []⟩
  ]

/-- The field rows of the FAB_ block, part 1. -/
def fieldsFab1 : List FieldSpec :=
  [
    ⟨4144, 0, 1, 10, 1, .w1c, 0, .any, .immediate, []⟩,
    ⟨4144, 0, 1, 11, 1, .w1c, 0, .any, .immediate, []⟩,
    ⟨4144, 0, 1, 12, 1, .w1c, 0, .any, .immediate, []⟩,
    ⟨4148, 4, 4, 0, 32, .ro, 0, .any, .immediate, []⟩,
    ⟨4164, 4, 4, 0, 16, .ro, 0, .any, .immediate, []⟩,
    ⟨4164, 4, 4, 16, 16, .ro, 0, .any, .immediate, []⟩,
    ⟨4180, 4, 2, 0, 32, .ro, 0, .any, .immediate, []⟩
  ]

/-- The field rows of the LF_ block, part 0. -/
def fieldsLf0 : List FieldSpec :=
  [
    ⟨5120, 0, 1, 0, 8, .wo, 0, .any, .immediate, []⟩,
    ⟨5120, 0, 1, 8, 1, .wo, 0, .any, .immediate, []⟩,
    ⟨5120, 0, 1, 9, 1, .rw, 1, .any, .boundary, []⟩,
    ⟨5124, 0, 1, 0, 16, .rw, 200, (.range 50 60000), .boundary, []⟩,
    ⟨5124, 0, 1, 16, 2, .rw, 2, (.table [(0, 1), (3, 2)]), .boundary, []⟩,
    ⟨5124, 0, 1, 24, 1, .rw, 1, .any, .boundary, []⟩,
    ⟨5128, 0, 1, 0, 11, .rw, 1000, (.limit .lfIpeak), .boundary, []⟩,
    ⟨5132, 0, 1, 0, 14, .rw, 12500, (.limit .lfFreq), .boundary, []⟩,
    ⟨5136, 0, 1, 0, 16, .rw, 65535, .any, .boundary, []⟩,
    ⟨5140, 0, 1, 0, 32, .ro, 0, .any, .immediate, []⟩,
    ⟨5144, 0, 1, 0, 6, .rw, 50, (.limit .lfDutyChan), .boundary, []⟩,
    ⟨5144, 0, 1, 8, 7, .rw, 100, (.limit .lfDutyArray), .boundary, []⟩,
    ⟨5148, 0, 1, 0, 16, .ro, 0, .any, .immediate, []⟩,
    ⟨5148, 0, 1, 16, 1, .ro, 0, .any, .immediate, []⟩,
    ⟨5152, 0, 1, 0, 12, .rw, 60, (.range 10 3600), .boundary, []⟩,
    ⟨5156, 0, 1, 0, 8, .w1c, 0, .any, .immediate, []⟩,
    ⟨5156, 0, 1, 8, 1, .w1c, 0, .any, .immediate, []⟩,
    ⟨5156, 0, 1, 9, 1, .w1c, 0, .any, .immediate, []⟩,
    ⟨5156, 0, 1, 10, 1, .w1c, 0, .any, .immediate, []⟩,
    ⟨5156, 0, 1, 11, 1, .w1c, 0, .any, .immediate, []⟩,
    ⟨5160, 0, 1, 0, 4, .ro, 7, .any, .immediate, []⟩,
    ⟨5160, 0, 1, 4, 4, .ro, 7, .any, .immediate, []⟩,
    ⟨5160, 0, 1, 8, 4, .ro, 7, .any, .immediate, []⟩,
    ⟨5160, 0, 1, 12, 4, .ro, 7, .any, .immediate, []⟩,
    ⟨5160, 0, 1, 16, 4, .ro, 7, .any, .immediate, []⟩,
    ⟨5160, 0, 1, 20, 4, .ro, 7, .any, .immediate, []⟩,
    ⟨5160, 0, 1, 24, 4, .ro, 7, .any, .immediate, []⟩,
    ⟨5160, 0, 1, 28, 4, .ro, 7, .any, .immediate, []⟩,
    ⟨5184, 0, 1, 0, 3, .rw, 0, .any, .boundary, []⟩,
    ⟨5184, 0, 1, 4, 3, .rw, 1, .any, .boundary, []⟩,
    ⟨5184, 0, 1, 8, 2, .rw, 1, (.table [(3, 0)]), .boundary, []⟩,
    ⟨5184, 0, 1, 12, 1, .rw, 1, .any, .boundary, []⟩,
    ⟨5188, 0, 1, 0, 3, .rw, 2, .any, .boundary, []⟩,
    ⟨5188, 0, 1, 4, 3, .rw, 3, .any, .boundary, []⟩,
    ⟨5188, 0, 1, 8, 2, .rw, 1, (.table [(3, 0)]), .boundary, []⟩,
    ⟨5188, 0, 1, 12, 1, .rw, 1, .any, .boundary, []⟩,
    ⟨5192, 0, 1, 0, 3, .rw, 4, .any, .boundary, []⟩,
    ⟨5192, 0, 1, 4, 3, .rw, 5, .any, .boundary, []⟩,
    ⟨5192, 0, 1, 8, 2, .rw, 1, (.table [(3, 0)]), .boundary, []⟩,
    ⟨5192, 0, 1, 12, 1, .rw, 1, .any, .boundary, []⟩
  ]

/-- The field rows of the LF_ block, part 1. -/
def fieldsLf1 : List FieldSpec :=
  [
    ⟨5196, 0, 1, 0, 3, .rw, 6, .any, .boundary, []⟩,
    ⟨5196, 0, 1, 4, 3, .rw, 7, .any, .boundary, []⟩,
    ⟨5196, 0, 1, 8, 2, .rw, 1, (.table [(3, 0)]), .boundary, []⟩,
    ⟨5196, 0, 1, 12, 1, .rw, 1, .any, .boundary, []⟩,
    ⟨5200, 0, 1, 0, 3, .rw, 0, .any, .boundary, []⟩,
    ⟨5200, 0, 1, 4, 3, .rw, 1, .any, .boundary, []⟩,
    ⟨5200, 0, 1, 8, 2, .rw, 1, (.table [(3, 0)]), .boundary, []⟩,
    ⟨5200, 0, 1, 12, 1, .rw, 0, .any, .boundary, []⟩,
    ⟨5204, 0, 1, 0, 3, .rw, 0, .any, .boundary, []⟩,
    ⟨5204, 0, 1, 4, 3, .rw, 1, .any, .boundary, []⟩,
    ⟨5204, 0, 1, 8, 2, .rw, 1, (.table [(3, 0)]), .boundary, []⟩,
    ⟨5204, 0, 1, 12, 1, .rw, 0, .any, .boundary, []⟩,
    ⟨5208, 0, 1, 0, 3, .rw, 0, .any, .boundary, []⟩,
    ⟨5208, 0, 1, 4, 3, .rw, 1, .any, .boundary, []⟩,
    ⟨5208, 0, 1, 8, 2, .rw, 1, (.table [(3, 0)]), .boundary, []⟩,
    ⟨5208, 0, 1, 12, 1, .rw, 0, .any, .boundary, []⟩,
    ⟨5212, 0, 1, 0, 3, .rw, 0, .any, .boundary, []⟩,
    ⟨5212, 0, 1, 4, 3, .rw, 1, .any, .boundary, []⟩,
    ⟨5212, 0, 1, 8, 2, .rw, 1, (.table [(3, 0)]), .boundary, []⟩,
    ⟨5212, 0, 1, 12, 1, .rw, 0, .any, .boundary, []⟩,
    ⟨5216, 4, 8, 0, 14, .ro, 0, .any, .immediate, []⟩,
    ⟨5216, 4, 8, 14, 1, .ro, 0, .any, .immediate, []⟩,
    ⟨5248, 4, 9, 0, 20, .ro, 0, .any, .immediate, []⟩
  ]

/-- The field rows of the TPX_ block. -/
def fieldsTpx : List FieldSpec :=
  [
    ⟨6144, 0, 1, 0, 1, .rw, 0, .any, .fieldOn, []⟩,
    ⟨6144, 0, 1, 1, 1, .rw, 0, .any, .fieldOn, []⟩,
    ⟨6144, 0, 1, 4, 4, .rw, 15, .any, .fieldOn, []⟩,
    ⟨6144, 0, 1, 8, 1, .wo, 0, .any, .immediate, []⟩,
    ⟨6148, 0, 1, 0, 16, .rw, 1000, (.range 200 60000), .fieldOn, []⟩,
    ⟨6152, 0, 1, 0, 8, .rw, 150, (.limit .tpxIpeak), .fieldOn, []⟩,
    ⟨6156, 0, 1, 0, 5, .rw, 3, (.range 1 20), .fieldOn, []⟩,
    ⟨6160, 0, 1, 0, 4, .rw, 2, (.range 1 8), .fieldOn, []⟩,
    ⟨6160, 0, 1, 4, 2, .rw, 2, .any, .fieldOn, []⟩,
    ⟨6164, 0, 1, 0, 4, .ro, 7, .any, .immediate, []⟩,
    ⟨6164, 0, 1, 8, 8, .ro, 0, .any, .immediate, []⟩,
    ⟨6164, 0, 1, 16, 1, .ro, 0, .any, .immediate, []⟩,
    ⟨6168, 0, 1, 0, 1, .w1c, 0, .any, .immediate, []⟩,
    ⟨6168, 0, 1, 1, 1, .w1c, 0, .any, .immediate, []⟩,
    ⟨6168, 0, 1, 2, 1, .w1c, 0, .any, .immediate, []⟩,
    ⟨6168, 0, 1, 3, 1, .w1c, 0, .any, .immediate, []⟩,
    ⟨6168, 0, 1, 4, 1, .w1c, 0, .any, .immediate, []⟩,
    ⟨6172, 0, 1, 0, 32, .ro, 0, .any, .immediate, []⟩,
    ⟨6176, 0, 1, 0, 5, .ro, 0, .any, .immediate, []⟩
  ]

/-- The field rows of the SGR_ block, part 0. -/
def fieldsSgr0 : List FieldSpec :=
  [
    ⟨7168, 0, 1, 0, 2, .rw, 1, (.table [(3, 0)]), .immediate, []⟩,
    ⟨7168, 0, 1, 2, 2, .rw, 0, (.table [(3, 0)]), .immediate, []⟩,
    ⟨7168, 0, 1, 4, 10, .rw, 100, (.range 0 1000), .immediate, []⟩,
    ⟨7172, 0, 1, 0, 15, .rw, 22732, (.range 0 26400), .boundary, []⟩,
    ⟨7172, 0, 1, 16, 2, .rw, 3, .any, .boundary, []⟩,
    ⟨7176, 0, 1, 0, 6, .rw, 48, (.limit .sgrPower), .immediate, []⟩,
    ⟨7176, 0, 1, 8, 5, .rw, 10, (.range 0 30), .immediate, []⟩,
    ⟨7176, 0, 1, 16, 1, .rw, 0, .any, .immediate, []⟩,
    ⟨7176, 0, 1, 17, 1, .rw, 0, .any, .immediate, []⟩,
    ⟨7176, 0, 1, 18, 1, .rw, 0, .any, .immediate, []⟩,
    ⟨7180, 0, 1, 0, 5, .rw, 10, (.range 2 30), .immediate, []⟩,
    ⟨7180, 0, 1, 8, 12, .rw, 1000, (.range 10 4000), .immediate, []⟩,
    ⟨7184, 0, 1, 0, 8, .ro, 0, .any, .immediate, []⟩,
    ⟨7184, 0, 1, 8, 1, .ro, 0, .any, .immediate, []⟩,
    ⟨7184, 0, 1, 9, 1, .ro, 0, .any, .immediate, []⟩,
    ⟨7184, 0, 1, 16, 16, .ro, 0, .any, .immediate, []⟩,
    ⟨7188, 0, 1, 0, 8, .rw, 128, .any, .immediate, []⟩,
    ⟨7188, 0, 1, 8, 8, .rw, 0, .any, .immediate, []⟩,
    ⟨7188, 0, 1, 16, 8, .ro, 128, .any, .immediate, []⟩,
    ⟨7192, 0, 1, 0, 3, .ro, 0, .any, .immediate, []⟩,
    ⟨7192, 0, 1, 3, 1, .ro, 0, .any, .immediate, []⟩,
    ⟨7192, 0, 1, 4, 1, .ro, 0, .any, .immediate, []⟩,
    ⟨7192, 0, 1, 8, 8, .ro, 128, .any, .immediate, []⟩,
    ⟨7196, 0, 1, 0, 1, .w1c, 0, .any, .immediate, []⟩,
    ⟨7196, 0, 1, 1, 1, .w1c, 0, .any, .immediate, []⟩,
    ⟨7196, 0, 1, 2, 1, .w1c, 0, .any, .immediate, []⟩,
    ⟨7196, 0, 1, 3, 1, .w1c, 0, .any, .immediate, []⟩,
    ⟨7196, 0, 1, 4, 1, .w1c, 0, .any, .immediate, []⟩,
    ⟨7196, 0, 1, 5, 1, .w1c, 0, .any, .immediate, []⟩,
    ⟨7200, 0, 1, 0, 1, .rw, 0, .any, .immediate, []⟩,
    ⟨7200, 0, 1, 1, 1, .rw, 0, .any, .immediate, []⟩,
    ⟨7200, 0, 1, 4, 4, .rw, 15, .any, .immediate, []⟩,
    ⟨7200, 0, 1, 8, 8, .rw, 10, (.range 1 255), .immediate, []⟩,
    ⟨7200, 0, 1, 16, 16, .rw, 0, .any, .immediate, []⟩,
    ⟨7204, 0, 1, 0, 6, .rw, 4, (.range 2 32), .immediate, []⟩,
    ⟨7204, 0, 1, 8, 1, .rw, 0, .any, .immediate, []⟩,
    ⟨7204, 0, 1, 9, 1, .rw, 1, .any, .immediate, []⟩,
    ⟨7204, 0, 1, 10, 1, .rw, 1, .any, .immediate, []⟩,
    ⟨7208, 0, 1, 0, 32, .rw, 40555, .any, .immediate, []⟩,
    ⟨7212, 4, 4, 0, 22, .ro, 0, .any, .immediate, []⟩
  ]

/-- The field rows of the SGR_ block, part 1. -/
def fieldsSgr1 : List FieldSpec :=
  [
    ⟨7228, 0, 1, 0, 1, .ro, 0, .any, .immediate, []⟩,
    ⟨7228, 0, 1, 8, 8, .ro, 0, .any, .immediate, []⟩,
    ⟨7228, 0, 1, 16, 16, .ro, 0, .any, .immediate, []⟩
  ]

/-- The field rows of the UWB_ block. -/
def fieldsUwb : List FieldSpec :=
  [
    ⟨8192, 0, 1, 0, 10, .rw, 100, (.range 0 1000), .uwbRound, []⟩,
    ⟨8196, 0, 1, 0, 1, .rw, 1, .any, .boundary, []⟩,
    ⟨8196, 0, 1, 1, 1, .rw, 1, .any, .boundary, []⟩,
    ⟨8196, 0, 1, 2, 1, .rw, 1, .any, .boundary, []⟩,
    ⟨8200, 0, 1, 0, 2, .rw, 0, .any, .boundary, []⟩,
    ⟨8200, 0, 1, 4, 2, .rw, 3, (.table [(0, 1), (2, 3)]), .boundary, []⟩,
    ⟨8200, 0, 1, 8, 4, .rw, 9, (.range 9 12), .boundary, []⟩,
    ⟨8204, 0, 1, 0, 4, .rw, 1, (.range 1 8), .boundary, []⟩,
    ⟨8208, 0, 1, 0, 10, .rw, 413, (.limit .uwbLevel), .uwbRound, []⟩,
    ⟨8212, 0, 1, 0, 5, .rw, 10, (.range 2 30), .uwbRound, []⟩,
    ⟨8212, 0, 1, 8, 12, .rw, 1000, (.range 10 4000), .uwbRound, []⟩,
    ⟨8216, 0, 1, 0, 16, .rw, 16384, .any, .uwbRound, []⟩,
    ⟨8220, 4, 4, 0, 16, .rw, 16384, .any, .uwbRound, []⟩,
    ⟨8236, 0, 1, 0, 3, .ro, 0, .any, .immediate, []⟩,
    ⟨8236, 0, 1, 3, 1, .ro, 0, .any, .immediate, []⟩,
    ⟨8236, 0, 1, 4, 1, .ro, 0, .any, .immediate, []⟩,
    ⟨8236, 0, 1, 5, 1, .ro, 0, .any, .immediate, []⟩,
    ⟨8240, 0, 1, 0, 1, .w1c, 0, .any, .immediate, []⟩,
    ⟨8240, 0, 1, 1, 1, .w1c, 0, .any, .immediate, []⟩,
    ⟨8240, 0, 1, 2, 1, .w1c, 0, .any, .immediate, []⟩,
    ⟨8240, 0, 1, 3, 1, .w1c, 0, .any, .immediate, []⟩,
    ⟨8240, 0, 1, 4, 1, .w1c, 0, .any, .immediate, []⟩,
    ⟨8240, 0, 1, 5, 1, .w1c, 0, .any, .immediate, []⟩,
    ⟨8244, 0, 1, 0, 32, .ro, 0, .any, .immediate, []⟩,
    ⟨8248, 0, 1, 0, 8, .ro, 0, .any, .immediate, []⟩,
    ⟨8252, 0, 1, 0, 20, .ro, 0, .any, .immediate, []⟩
  ]

/-- The field rows of the PRX_ block. -/
def fieldsPrx : List FieldSpec :=
  [
    ⟨9216, 0, 1, 0, 1, .rw, 0, .any, .boundary, []⟩,
    ⟨9220, 0, 1, 0, 1, .rw, 0, .any, .boundary, []⟩,
    ⟨9220, 0, 1, 4, 3, .rw, 0, (.table [(6, 0), (7, 0)]), .boundary, []⟩,
    ⟨9220, 0, 1, 8, 8, .rw, 187, (.range 100 187), .boundary, []⟩,
    ⟨9220, 0, 1, 16, 6, .rw, 60, (.range 10 60), .boundary, []⟩,
    ⟨9224, 0, 1, 0, 7, .rw, 64, .rounds, .boundary, []⟩,
    ⟨9224, 0, 1, 8, 3, .rw, 2, (.range 0 4), .boundary, []⟩,
    ⟨9224, 0, 1, 16, 11, .rw, 300, (.range 100 1000), .boundary, []⟩,
    ⟨9228, 0, 1, 0, 6, .rw, 10, (.range 2 50), .boundary, []⟩,
    ⟨9228, 0, 1, 8, 6, .ro, 10, .any, .immediate, []⟩,
    ⟨9228, 0, 1, 16, 8, .rw, 0, .any, .boundary, []⟩,
    ⟨9232, 0, 1, 0, 16, .rw, 500, (.range 50 5000), .boundary, []⟩,
    ⟨9232, 0, 1, 16, 16, .rw, 300, (.range 50 2000), .boundary, []⟩,
    ⟨9236, 0, 1, 0, 8, .rw, 20, (.range 1 90), .boundary, []⟩,
    ⟨9236, 0, 1, 16, 16, .rw, 300, (.range 20 2000), .boundary, []⟩,
    ⟨9240, 0, 1, 0, 11, .rw, 1000, (.range 50 1500), .boundary, []⟩,
    ⟨9244, 0, 1, 0, 16, .ro, 0, .any, .immediate, []⟩,
    ⟨9244, 0, 1, 16, 16, .ro, 0, .any, .immediate, []⟩,
    ⟨9248, 0, 1, 0, 10, .rw, 0, .any, .boundary, []⟩,
    ⟨9248, 0, 1, 16, 10, .rw, 0, .any, .boundary, []⟩,
    ⟨9252, 0, 1, 0, 10, .rw, 0, .any, .boundary, []⟩,
    ⟨9256, 0, 1, 0, 10, .rw, 0, .any, .boundary, []⟩,
    ⟨9256, 0, 1, 16, 10, .rw, 0, .any, .boundary, []⟩,
    ⟨9260, 0, 1, 0, 10, .rw, 0, .any, .boundary, []⟩,
    ⟨9280, 8, 8, 0, 16, .rw, 0, .any, .boundary, []⟩,
    ⟨9280, 8, 8, 16, 16, .rw, 0, .any, .boundary, []⟩,
    ⟨9284, 8, 8, 0, 16, .rw, 0, .any, .boundary, []⟩,
    ⟨9344, 16, 16, 0, 1, .rw, 0, .any, .boundary, []⟩,
    ⟨9344, 16, 16, 1, 1, .rw, 0, .any, .boundary, []⟩,
    ⟨9344, 16, 16, 8, 12, .rw, 250, (.range 10 3000), .boundary, []⟩,
    ⟨9348, 16, 16, 0, 16, .rw, 0, .any, .boundary, []⟩,
    ⟨9348, 16, 16, 16, 16, .rw, 0, .any, .boundary, []⟩,
    ⟨9352, 16, 16, 0, 16, .rw, 0, .zoneRadius, .boundary, []⟩,
    ⟨9352, 16, 16, 16, 16, .rw, 0, .any, .boundary, []⟩,
    ⟨9356, 16, 16, 0, 16, .rw, 0, .any, .boundary, []⟩,
    ⟨9356, 16, 16, 16, 16, .rw, 0, .any, .boundary, []⟩,
    ⟨9600, 4, 96, 0, 16, .rw, 0, .any, .boundary, []⟩,
    ⟨9600, 4, 96, 16, 8, .rw, 0, .any, .boundary, []⟩,
    ⟨9600, 4, 96, 24, 8, .rw, 0, .lftabFlo, .boundary, []⟩
  ]

/-- The field rows of the AUT_ block. -/
def fieldsAut : List FieldSpec :=
  [
    ⟨10240, 0, 1, 0, 5, .rw, 16, (.range 1 16), .boundary, []⟩,
    ⟨10240, 0, 1, 8, 5, .ro, 0, .any, .immediate, []⟩,
    ⟨10244, 0, 1, 0, 1, .ro, 0, .any, .immediate, []⟩,
    ⟨10244, 0, 1, 1, 1, .ro, 0, .any, .immediate, []⟩,
    ⟨10244, 0, 1, 2, 1, .ro, 0, .any, .immediate, []⟩,
    ⟨10244, 0, 1, 3, 1, .ro, 0, .any, .immediate, []⟩,
    ⟨10244, 0, 1, 4, 1, .ro, 0, .any, .immediate, []⟩,
    ⟨10244, 0, 1, 5, 1, .ro, 0, .any, .immediate, []⟩,
    ⟨10244, 0, 1, 8, 12, .ro, 0, .any, .immediate, []⟩,
    ⟨10248, 0, 1, 0, 32, .ro, 0, .any, .immediate, []⟩,
    ⟨10252, 0, 1, 0, 32, .ro, 0, .any, .immediate, []⟩,
    ⟨10256, 0, 1, 0, 32, .ro, 0, .any, .immediate, []⟩,
    ⟨10260, 0, 1, 0, 8, .ro, 0, .any, .immediate, []⟩,
    ⟨10260, 0, 1, 16, 8, .ro, 0, .any, .immediate, []⟩,
    ⟨10264, 0, 1, 0, 16, .ro, 0, .any, .immediate, []⟩,
    ⟨10264, 0, 1, 16, 16, .ro, 0, .any, .immediate, []⟩,
    ⟨10268, 0, 1, 0, 16, .ro, 0, .any, .immediate, []⟩,
    ⟨10268, 0, 1, 16, 12, .ro, 0, .any, .immediate, []⟩
  ]

/-- The field rows of the REL_ block, part 0. -/
def fieldsRel0 : List FieldSpec :=
  [
    ⟨11264, 0, 1, 0, 1, .rw, 1, .any, .immediate, []⟩,
    ⟨11264, 0, 1, 8, 6, .rw, 10, (.range 1 60), .immediate, []⟩,
    ⟨11268, 4, 2, 0, 1, .rw, 1, .any, .immediate, []⟩,
    ⟨11268, 4, 2, 1, 1, .rw, 0, .any, .immediate, []⟩,
    ⟨11268, 4, 2, 2, 1, .rw, 0, .any, .immediate, []⟩,
    ⟨11268, 4, 2, 8, 17, .rw, 900, (.range 1 86400), .immediate, []⟩,
    ⟨11276, 0, 1, 0, 1, .rw, 1, .any, .immediate, []⟩,
    ⟨11276, 0, 1, 1, 1, .rw, 0, .any, .immediate, []⟩,
    ⟨11276, 0, 1, 2, 1, .rw, 0, .any, .immediate, []⟩,
    ⟨11276, 0, 1, 8, 6, .rw, 0, .any, .immediate, []⟩,
    ⟨11280, 0, 1, 0, 1, .rw, 1, .any, .immediate, []⟩,
    ⟨11280, 0, 1, 1, 1, .rw, 0, .any, .immediate, []⟩,
    ⟨11280, 0, 1, 2, 1, .rw, 1, .any, .immediate, []⟩,
    ⟨11280, 0, 1, 8, 6, .rw, 0, .any, .immediate, []⟩,
    ⟨11284, 0, 1, 0, 16, .rw, 50, (.range 10 10000), .immediate, []⟩,
    ⟨11284, 0, 1, 16, 10, .rw, 600, (.range 10 600), .immediate, []⟩,
    ⟨11288, 0, 1, 0, 4, .rw, 0, .any, .immediate, []⟩,
    ⟨11288, 0, 1, 4, 4, .rw, 0, .any, .immediate, []⟩,
    ⟨11288, 0, 1, 8, 4, .rw, 0, .any, .immediate, []⟩,
    ⟨11288, 0, 1, 12, 4, .rw, 0, .any, .immediate, []⟩,
    ⟨11288, 0, 1, 16, 8, .rw, 20, (.range 1 255), .immediate, []⟩,
    ⟨11292, 0, 1, 0, 3, .ro, 5, .any, .immediate, []⟩,
    ⟨11292, 0, 1, 4, 3, .ro, 5, .any, .immediate, []⟩,
    ⟨11292, 0, 1, 8, 3, .ro, 5, .any, .immediate, []⟩,
    ⟨11292, 0, 1, 12, 3, .ro, 5, .any, .immediate, []⟩,
    ⟨11296, 0, 1, 0, 1, .rw, 0, .any, .immediate, []⟩,
    ⟨11296, 0, 1, 1, 1, .rw, 0, .any, .immediate, []⟩,
    ⟨11296, 0, 1, 8, 8, .rw, 50, (.range 5 250), .immediate, []⟩,
    ⟨11296, 0, 1, 16, 2, .ro, 0, .any, .immediate, []⟩,
    ⟨11300, 0, 1, 0, 2, .ro, 0, .any, .immediate, []⟩,
    ⟨11300, 0, 1, 2, 2, .ro, 0, .any, .immediate, []⟩,
    ⟨11300, 0, 1, 4, 4, .ro, 0, .any, .immediate, []⟩,
    ⟨11300, 0, 1, 8, 4, .ro, 0, .any, .immediate, []⟩,
    ⟨11300, 0, 1, 12, 1, .ro, 0, .any, .immediate, []⟩,
    ⟨11304, 0, 1, 0, 2, .w1c, 0, .any, .immediate, []⟩,
    ⟨11304, 0, 1, 2, 2, .w1c, 0, .any, .immediate, []⟩,
    ⟨11304, 0, 1, 4, 1, .w1c, 0, .any, .immediate, []⟩,
    ⟨11304, 0, 1, 5, 1, .w1c, 0, .any, .immediate, []⟩,
    ⟨11304, 0, 1, 6, 1, .ro, 0, .any, .immediate, []⟩,
    ⟨11308, 0, 1, 0, 32, .ro, 1, .any, .immediate, []⟩
  ]

/-- The field rows of the REL_ block, part 1. -/
def fieldsRel1 : List FieldSpec :=
  [
    ⟨11312, 0, 1, 0, 5, .rwl, 10, (.range 0 30), .immediate, [0, 1]⟩,
    ⟨11316, 0, 1, 0, 16, .ro, 0, .any, .immediate, []⟩,
    ⟨11316, 0, 1, 16, 16, .ro, 0, .any, .immediate, []⟩
  ]

/-- The field rows of the MTR_ block. -/
def fieldsMtr : List FieldSpec :=
  [
    ⟨12288, 0, 1, 0, 1, .rw, 1, .any, .meterSettings, []⟩,
    ⟨12288, 0, 1, 1, 1, .rw, 1, .any, .meterSettings, []⟩,
    ⟨12288, 0, 1, 2, 1, .rw, 0, .any, .meterSettings, []⟩,
    ⟨12288, 0, 1, 3, 1, .rw, 0, .any, .meterSettings, []⟩,
    ⟨12292, 0, 1, 0, 7, .rw, 8, (.range 8 64), .meterSettings, []⟩,
    ⟨12292, 0, 1, 8, 3, .rw, 2, .any, .meterSettings, []⟩,
    ⟨12292, 0, 1, 11, 1, .rw, 0, .any, .meterSettings, []⟩,
    ⟨12296, 0, 1, 0, 2, .rw, 2, .any, .meterSettings, []⟩,
    ⟨12300, 0, 1, 0, 4, .ro, 0, .any, .immediate, []⟩,
    ⟨12300, 0, 1, 4, 1, .ro, 0, .any, .immediate, []⟩,
    ⟨12300, 0, 1, 5, 1, .ro, 0, .any, .immediate, []⟩,
    ⟨12300, 0, 1, 6, 1, .ro, 0, .any, .immediate, []⟩,
    ⟨12300, 0, 1, 7, 1, .ro, 0, .any, .immediate, []⟩,
    ⟨12304, 0, 1, 0, 1, .w1c, 0, .any, .immediate, []⟩,
    ⟨12304, 0, 1, 1, 1, .w1c, 0, .any, .immediate, []⟩,
    ⟨12304, 0, 1, 2, 1, .w1c, 0, .any, .immediate, []⟩,
    ⟨12304, 0, 1, 3, 1, .w1c, 0, .any, .immediate, []⟩,
    ⟨12304, 0, 1, 4, 1, .ro, 0, .any, .immediate, []⟩,
    ⟨12308, 0, 1, 0, 8, .rw, 10, (.range 1 255), .immediate, []⟩,
    ⟨12308, 0, 1, 8, 8, .rw, 1, (.range 1 60), .immediate, []⟩,
    ⟨12312, 0, 1, 0, 16, .rw, 1000, (.range 1 65535), .immediate, []⟩,
    ⟨12312, 0, 1, 16, 16, .rw, 20, (.range 1 65535), .immediate, []⟩,
    ⟨12316, 0, 1, 0, 8, .rwl, 0, (.table [(128, 129)]), .immediate, [0, 1, 3]⟩,
    ⟨12316, 0, 1, 8, 8, .rwl, 0, (.table [(128, 129)]), .immediate, [0, 1, 3]⟩,
    ⟨12320, 4, 4, 0, 32, .rwl, 4194304, (.range 1 4294967295), .immediate, [0, 1, 3]⟩,
    ⟨12336, 4, 4, 0, 24, .rwl, 0, .any, .immediate, [0, 1, 3]⟩,
    ⟨12352, 8, 4, 0, 32, .ro, 0, .any, .immediate, []⟩,
    ⟨12356, 8, 4, 0, 16, .ro, 0, .any, .immediate, []⟩,
    ⟨12384, 0, 1, 0, 32, .ro, 0, .any, .immediate, []⟩,
    ⟨12388, 0, 1, 0, 32, .ro, 0, .any, .immediate, []⟩,
    ⟨12392, 0, 1, 0, 32, .ro, 0, .any, .immediate, []⟩,
    ⟨12396, 0, 1, 0, 32, .ro, 1, .any, .immediate, []⟩,
    ⟨12400, 0, 1, 0, 32, .ro, 0, .any, .immediate, []⟩,
    ⟨12404, 0, 1, 0, 11, .ro, 0, .any, .immediate, []⟩,
    ⟨12404, 0, 1, 16, 16, .ro, 0, .any, .immediate, []⟩,
    ⟨12408, 0, 1, 0, 16, .ro, 1, .any, .immediate, []⟩,
    ⟨12408, 0, 1, 16, 1, .ro, 0, .any, .immediate, []⟩,
    ⟨12416, 4, 8, 0, 12, .ro, 0, .any, .immediate, []⟩,
    ⟨12416, 4, 8, 12, 1, .ro, 0, .any, .immediate, []⟩,
    ⟨12448, 0, 1, 0, 8, .rw, 0, .any, .immediate, []⟩
  ]

/-- The field rows of the CIP_ block. -/
def fieldsCip : List FieldSpec :=
  [
    ⟨13312, 0, 1, 0, 1, .ro, 0, .any, .immediate, []⟩,
    ⟨13312, 0, 1, 1, 1, .ro, 0, .any, .immediate, []⟩,
    ⟨13312, 0, 1, 8, 6, .ro, 0, .any, .immediate, []⟩,
    ⟨13312, 0, 1, 14, 1, .ro, 0, .any, .immediate, []⟩,
    ⟨13316, 0, 1, 0, 8, .ro, 0, .any, .immediate, []⟩,
    ⟨13316, 0, 1, 8, 8, .ro, 0, .any, .immediate, []⟩,
    ⟨13316, 0, 1, 16, 8, .ro, 0, .any, .immediate, []⟩,
    ⟨13320, 0, 1, 0, 1, .w1c, 0, .any, .immediate, []⟩,
    ⟨13320, 0, 1, 1, 1, .ro, 0, .any, .immediate, []⟩,
    ⟨13324, 0, 1, 0, 32, .ro, 0, .any, .immediate, []⟩,
    ⟨13328, 0, 1, 0, 16, .rw, 4096, (.range 256 65535), .reseed, []⟩,
    ⟨13328, 0, 1, 16, 10, .rw, 1000, (.range 10 1000), .reseed, []⟩
  ]

/-- The field rows of the KEY_ block. -/
def fieldsKey : List FieldSpec :=
  [
    ⟨14336, 0, 1, 0, 11, .rw, 250, (.range 10 2000), .maskPass, []⟩,
    ⟨14340, 0, 1, 0, 3, .ro, 0, .any, .immediate, []⟩,
    ⟨14340, 0, 1, 8, 1, .ro, 0, .any, .immediate, []⟩,
    ⟨14344, 4, 2, 0, 32, .ro, 0, .any, .immediate, []⟩,
    ⟨14352, 4, 2, 0, 32, .ro, 0, .any, .immediate, []⟩,
    ⟨14592, 4, 64, 0, 32, .ro, 0, .any, .immediate, []⟩,
    ⟨14848, 4, 64, 0, 18, .ro, 0, .any, .immediate, []⟩
  ]

/-- The field rows of the NVS_ block. -/
def fieldsNvs : List FieldSpec :=
  [
    ⟨15360, 0, 1, 0, 1, .rw, 0, .any, .start, []⟩,
    ⟨15360, 0, 1, 1, 1, .rw, 1, .any, .immediate, []⟩,
    ⟨15364, 0, 1, 0, 5, .rw, 7, (.range 1 30), .immediate, []⟩,
    ⟨15368, 0, 1, 0, 1, .ro, 0, .any, .immediate, []⟩,
    ⟨15368, 0, 1, 1, 1, .ro, 0, .any, .immediate, []⟩,
    ⟨15368, 0, 1, 2, 1, .ro, 0, .any, .immediate, []⟩,
    ⟨15368, 0, 1, 3, 1, .ro, 0, .any, .immediate, []⟩,
    ⟨15368, 0, 1, 4, 1, .ro, 0, .any, .immediate, []⟩,
    ⟨15368, 0, 1, 8, 8, .ro, 0, .any, .immediate, []⟩,
    ⟨15372, 0, 1, 0, 1, .w1c, 0, .any, .immediate, []⟩,
    ⟨15372, 0, 1, 1, 1, .w1c, 0, .any, .immediate, []⟩,
    ⟨15372, 0, 1, 2, 1, .w1c, 0, .any, .immediate, []⟩,
    ⟨15372, 0, 1, 3, 1, .w1c, 0, .any, .immediate, []⟩,
    ⟨15372, 0, 1, 4, 1, .w1c, 0, .any, .immediate, []⟩,
    ⟨15372, 0, 1, 5, 1, .w1c, 0, .any, .immediate, []⟩,
    ⟨15372, 0, 1, 6, 1, .w1c, 0, .any, .immediate, []⟩,
    ⟨15372, 0, 1, 7, 1, .w1c, 0, .any, .immediate, []⟩,
    ⟨15372, 0, 1, 8, 1, .w1c, 0, .any, .immediate, []⟩,
    ⟨15376, 0, 1, 0, 10, .ro, 0, .any, .immediate, []⟩,
    ⟨15380, 0, 1, 0, 17, .ro, 0, .any, .immediate, []⟩,
    ⟨15384, 0, 1, 0, 14, .ro, 0, .any, .immediate, []⟩,
    ⟨15388, 0, 1, 0, 16, .ro, 0, .any, .immediate, []⟩,
    ⟨15388, 0, 1, 16, 16, .ro, 0, .any, .immediate, []⟩,
    ⟨15392, 0, 1, 0, 32, .ro, 0, .any, .immediate, []⟩
  ]

/-- The field rows of the UPD_ block. -/
def fieldsUpd : List FieldSpec :=
  [
    ⟨16384, 0, 1, 0, 1, .rw, 0, .any, .update, []⟩,
    ⟨16384, 0, 1, 1, 1, .rw, 0, .any, .update, []⟩,
    ⟨16384, 0, 1, 8, 10, .rw, 100, (.range 10 1000), .update, []⟩,
    ⟨16388, 0, 1, 0, 3, .ro, 0, .any, .immediate, []⟩,
    ⟨16388, 0, 1, 3, 1, .ro, 0, .any, .immediate, []⟩,
    ⟨16388, 0, 1, 4, 1, .ro, 0, .any, .immediate, []⟩,
    ⟨16388, 0, 1, 5, 1, .w1c, 0, .any, .immediate, []⟩,
    ⟨16388, 0, 1, 6, 1, .ro, 0, .any, .immediate, []⟩,
    ⟨16388, 0, 1, 7, 1, .ro, 0, .any, .immediate, []⟩,
    ⟨16392, 0, 1, 0, 8, .ro, 0, .any, .immediate, []⟩,
    ⟨16392, 0, 1, 8, 8, .ro, 0, .any, .immediate, []⟩,
    ⟨16392, 0, 1, 16, 4, .ro, 0, .any, .immediate, []⟩,
    ⟨16396, 0, 1, 0, 32, .ro, 0, .any, .immediate, []⟩,
    ⟨16400, 0, 1, 0, 32, .ro, 0, .any, .immediate, []⟩,
    ⟨16404, 0, 1, 0, 32, .ro, 0, .any, .immediate, []⟩,
    ⟨16408, 0, 1, 0, 8, .ro, 0, .any, .immediate, []⟩,
    ⟨16412, 0, 1, 0, 4, .ro, 0, .any, .immediate, []⟩,
    ⟨16412, 0, 1, 4, 4, .ro, 1, .any, .immediate, []⟩,
    ⟨16412, 0, 1, 8, 4, .ro, 2, .any, .immediate, []⟩,
    ⟨16412, 0, 1, 12, 4, .ro, 3, .any, .immediate, []⟩,
    ⟨16412, 0, 1, 16, 4, .ro, 4, .any, .immediate, []⟩,
    ⟨16412, 0, 1, 20, 4, .ro, 5, .any, .immediate, []⟩,
    ⟨16412, 0, 1, 24, 4, .ro, 6, .any, .immediate, []⟩,
    ⟨16412, 0, 1, 28, 4, .ro, 7, .any, .immediate, []⟩,
    ⟨16416, 0, 1, 0, 4, .ro, 8, .any, .immediate, []⟩,
    ⟨16416, 0, 1, 4, 4, .ro, 9, .any, .immediate, []⟩,
    ⟨16416, 0, 1, 8, 4, .ro, 10, .any, .immediate, []⟩,
    ⟨16416, 0, 1, 12, 4, .ro, 11, .any, .immediate, []⟩,
    ⟨16416, 0, 1, 16, 4, .ro, 12, .any, .immediate, []⟩,
    ⟨16416, 0, 1, 20, 4, .ro, 13, .any, .immediate, []⟩,
    ⟨16416, 0, 1, 24, 4, .ro, 14, .any, .immediate, []⟩,
    ⟨16448, 4, 8, 0, 32, .ro, 0, .any, .immediate, []⟩
  ]

/-- The field rows of the PWR_ block. -/
def fieldsPwr : List FieldSpec :=
  [
    ⟨17408, 0, 1, 0, 1, .wo, 0, .any, .immediate, []⟩,
    ⟨17408, 0, 1, 1, 1, .rwl, 0, .any, .immediate, [0, 1]⟩,
    ⟨17412, 0, 1, 0, 3, .rw, 1, (.range 0 2), .boundary, []⟩,
    ⟨17412, 0, 1, 4, 3, .rw, 3, (.range 3 4), .boundary, []⟩,
    ⟨17412, 0, 1, 16, 16, .rw, 0, .any, .boundary, []⟩,
    ⟨17416, 0, 1, 0, 3, .ro, 0, .any, .immediate, []⟩,
    ⟨17416, 0, 1, 3, 1, .ro, 0, .any, .immediate, []⟩,
    ⟨17416, 0, 1, 4, 1, .ro, 0, .any, .immediate, []⟩,
    ⟨17416, 0, 1, 5, 1, .ro, 0, .any, .immediate, []⟩,
    ⟨17416, 0, 1, 6, 2, .ro, 0, .any, .immediate, []⟩,
    ⟨17416, 0, 1, 8, 1, .ro, 0, .any, .immediate, []⟩,
    ⟨17420, 0, 1, 0, 4, .ro, 1, .any, .immediate, []⟩,
    ⟨17420, 0, 1, 8, 2, .ro, 0, .any, .immediate, []⟩,
    ⟨17424, 0, 1, 0, 1, .w1c, 0, .any, .immediate, []⟩,
    ⟨17424, 0, 1, 1, 1, .w1c, 0, .any, .immediate, []⟩,
    ⟨17424, 0, 1, 2, 1, .w1c, 0, .any, .immediate, []⟩,
    ⟨17424, 0, 1, 3, 1, .w1c, 0, .any, .immediate, []⟩,
    ⟨17424, 0, 1, 4, 1, .w1c, 0, .any, .immediate, []⟩,
    ⟨17424, 0, 1, 5, 1, .w1c, 0, .any, .immediate, []⟩,
    ⟨17424, 0, 1, 6, 1, .w1c, 0, .any, .immediate, []⟩,
    ⟨17424, 0, 1, 7, 1, .w1c, 0, .any, .immediate, []⟩,
    ⟨17428, 0, 1, 0, 8, .ro, 0, .any, .immediate, []⟩,
    ⟨17428, 0, 1, 8, 8, .ro, 0, .any, .immediate, []⟩,
    ⟨17432, 0, 1, 0, 32, .ro, 0, .any, .immediate, []⟩,
    ⟨17436, 0, 1, 0, 32, .rw, 0, .any, .immediate, []⟩,
    ⟨17440, 0, 1, 0, 8, .rw, 125, (.range 100 130), .immediate, []⟩,
    ⟨17440, 0, 1, 16, 8, .ro, 0, .any, .immediate, []⟩,
    ⟨17444, 0, 1, 0, 8, .rw, 0, .any, .immediate, []⟩,
    ⟨17444, 0, 1, 8, 12, .rw, 1000, (.range 1 4094), .immediate, []⟩,
    ⟨17448, 0, 1, 0, 8, .ro, 0, .any, .immediate, []⟩,
    ⟨17448, 0, 1, 16, 16, .ro, 0, .any, .immediate, []⟩,
    ⟨17452, 0, 1, 0, 16, .ro, 0, .any, .immediate, []⟩,
    ⟨17452, 0, 1, 16, 16, .ro, 0, .any, .immediate, []⟩
  ]

/-- The field rows of the clamp report window block. -/
def fieldsClamp : List FieldSpec :=
  [
    ⟨18432, 0, 1, 0, 7, .ro, 0, .any, .immediate, []⟩,
    ⟨18432, 0, 1, 16, 16, .ro, 0, .any, .immediate, []⟩,
    ⟨18436, 0, 1, 0, 16, .ro, 0, .any, .immediate, []⟩
  ]

/-- Every field row of the set-up blocks. -/
def fieldTable : List FieldSpec :=
  fieldsSys ++ fieldsHif ++ fieldsFab0 ++ fieldsFab1 ++ fieldsLf0 ++ fieldsLf1 ++ fieldsTpx ++ fieldsSgr0 ++ fieldsSgr1 ++ fieldsUwb ++ fieldsPrx ++ fieldsAut ++ fieldsRel0 ++ fieldsRel1 ++ fieldsMtr ++ fieldsCip ++ fieldsKey ++ fieldsNvs ++ fieldsUpd ++ fieldsPwr ++ fieldsClamp

/-- Does the row hold a field of the register at `off`? -/
def FieldSpec.covers (r : FieldSpec) (off : Nat) : Bool :=
  if r.count ≤ 1 then r.off == off
  else decide (r.off ≤ off) && (off - r.off) % r.stride == 0 && decide ((off - r.off) / r.stride < r.count)

/-- The fields of the register at `off`, in the order of the tables (rising least significant bit). -/
def fieldsAt (off : Nat) : List FieldSpec := fieldTable.filter (fun r => r.covers off)

/-- The row's field in the register at `off`. -/
def FieldSpec.fld (r : FieldSpec) (off : Nat) : Fld := mkFld off r.lsb r.width r.dflt

/-- Is the field part of the configuration (R330: the RW and RWL fields of every set-up block)? -/
def FieldSpec.isConfig (r : FieldSpec) : Bool :=
  match r.acc with
  | .rw | .rwl => true
  | .ro | .wo | .w1c => false

/-- Every register offset of one row. -/
def FieldSpec.offsets (r : FieldSpec) : List Nat :=
  if r.count ≤ 1 then [r.off] else (List.range r.count).map (fun i => r.off + r.stride * i)

/-- The offsets of every register that holds a configuration field, in ascending order (R337). -/
def insertOff : Nat → List Nat → List Nat
  | o, [] => [o]
  | o, x :: xs => if o < x then o :: x :: xs else if o = x then x :: xs else x :: insertOff o xs

/-- The offsets of every register that holds a configuration field, in ascending order (R337). -/
def configOffsets : List Nat :=
  ((fieldTable.filter FieldSpec.isConfig).flatMap FieldSpec.offsets).foldl (fun acc o => insertOff o acc) []

end Sys2Proof.Machine
end

