-- ==== Sys2Proof/Machine/Ops.lean ====
section
/-! DEFINITION. The named operations over registers, counters, outputs and random draws that every meaning shares. -/
namespace Sys2Proof.Machine

/-- What a command answers. -/
abbrev Ans := Host.Outcome State Fault Refusal

/-- The effect where the guard holds; otherwise the event finds nothing to act on and the state stays as it is
(00_scope.md, "Tables of states": an event that a table does not list for a state leaves it unchanged). -/
def State.when (c : Bool) (f : State → State) (s : State) : State := if c then f s else s

/-- A field as held: the value last written, after its clamp (R5, R441). -/
def State.held (s : State) (f : Fld) : Nat := tblGet f.dflt s.heldCells f.key

/-- A field as in force (R441). -/
def State.eff (s : State) (f : Fld) : Nat := tblGet f.dflt s.forceCells f.key

/-- A status, fault or count field. -/
def State.stat (s : State) (f : Fld) : Nat := tblGet f.dflt s.statCells f.key

/-- A one-bit field in force is 1. -/
def State.on (s : State) (f : Fld) : Bool := s.eff f != 0

/-- Hold a value in a field. -/
def State.setHeld (s : State) (f : Fld) (v : Nat) : State :=
  { s with heldCells := tblPut f.dflt s.heldCells f.key (v % 2 ^ f.width) }

/-- Bring a value into force in a field. -/
def State.setForce (s : State) (f : Fld) (v : Nat) : State :=
  { s with forceCells := tblPut f.dflt s.forceCells f.key (v % 2 ^ f.width) }

/-- Set a status field. -/
def State.setStat (s : State) (f : Fld) (v : Nat) : State :=
  { s with statCells := tblPut f.dflt s.statCells f.key (v % 2 ^ f.width) }

/-- Set a fault bit. -/
def State.raise (s : State) (f : Fld) : State := s.setStat f 1

/-- Set bit `n` of a fault field. -/
def State.raiseBit (s : State) (f : Fld) (n : Nat) : State := s.setStat f (setBit (s.stat f) n)

/-- Count one more; the count holds at the top of its field. -/
def State.bump (s : State) (f : Fld) : State := s.setStat f (satSucc f.width (s.stat f))

/-- Something leaves the device. -/
def State.emit (s : State) (o : Output) : State := { s with out := o :: s.out }

/-- A reseed starts. A request that arrives while it runs waits for its end, so its value is of the new seed: the seed is taken
here (log 124). -/
def reseedStarts (s : State) : State :=
  { s.setStat Reg.cipStatusReseeding 1 with cip := { s.cip with reseedDue := false, drbg := s.cip.drbg.reseed } }

/-- A request has been served. The last of RESEED_REQ since the latest reseed starts the next one, for whose end the requests that
follow wait; while the latest window of the source has failed, it waits for one that passes (07 R177, R179). -/
def reseedByCount (s : State) : State :=
  if s.eff Reg.cipDrbgReseedReq ≤ s.cip.drbg.requests && s.stat Reg.cipStatusReseeding ≠ 1 then
    if s.cip.windowBad then { s with cip := { s.cip with reseedDue := true } } else reseedStarts s
  else s

/-- The next value of the nonce service (07 R175), and the state that has drawn it. -/
def State.draw (s : State) : Nat × State :=
  (s.cip.drbg.next.1, reseedByCount { s with cip := { s.cip with drbg := s.cip.drbg.next.2 } })

/-- A fresh Privet mask from the nonce service (07 R176). -/
def State.drawMask (s : State) : BitVec 256 × State :=
  (BitVec.ofNat 256 (s.draw.1 * 2 ^ 128 + s.draw.2.draw.1), s.draw.2.draw.2)

/-- The NVWP pin, sampled as an operation is accepted (13 R365); it stands as it stood where the row names no level. -/
def State.sampleNvwp (s : State) (level : Option Bool) : State := { s with nvwp := level.getD s.nvwp }

/-- An engine carries role SE`r`: it stands in reset neither by a fault nor for want of a spare (15 R407). -/
def State.roleThere (s : State) (r : Nat) : Bool := !s.pwr.deadEngines.contains (s.upd.engmap.getD r r)

/-- Ring pair `n`. -/
def State.ring (s : State) (n : Nat) : RingState := tblGet RingState.reset s.rings n

/-- Replace ring pair `n`. -/
def State.setRing (s : State) (n : Nat) (r : RingState) : State :=
  { s with rings := tblPut RingState.reset s.rings n r }

/-- The RTC second. -/
def State.rtc (s : State) : Nat := s.pwr.rtc

/-- The RTC has not been lost since it was last set: PWR_STATUS.RTC_VALID. -/
def State.rtcSet (s : State) : Bool := s.stat Reg.pwrStatusRtcValid != 0

/-- This device's fabric address, 0xFFFF while it holds none (11 R296). -/
def State.addr (s : State) : Nat := s.fab.addr.getD 0xFFFF

/-- This device's position. -/
def State.pos (s : State) : Nat := s.addr % 64

/-- The device serves: SYS_STATE reads RUNNING. -/
def State.running (s : State) : Bool := s.mode == .running

/-- Life cycle code of R195. -/
def LifeCycle.code : LifeCycle → Nat
  | .blank => 0
  | .provisioned => 1
  | .field => 2
  | .returned => 3
  | .scrapped => 4

end Sys2Proof.Machine
end

