-- ==== Sys2Proof/Machine/FabricOps.lean ====
section
/-! DEFINITION. The Pleach core and the Gaten frames (11_gaten_fabric.md): headers, CRC, sequence counters, the tables'
lookup, the output queues with their cells and spill, and what a port that is not UP does to the frames queued for it. -/
namespace Sys2Proof.Machine

/-! ### Frames (R293-R295) -/

/-- Class codes of the header. -/
def clsCtrl : Nat := 0
/-- RELEASE. -/
def clsRelease : Nat := 1
/-- RANGE. -/
def clsRange : Nat := 2
/-- BULK. -/
def clsBulk : Nat := 3

/-- Destination address. -/
def frameDst (f : Bytes) : Nat := beAt f 0 2
/-- Source address. -/
def frameSrc (f : Bytes) : Nat := beAt f 2 2
/-- Class. -/
def frameCls (f : Bytes) : Nat := bitField (byteAt f 4) 6 2
/-- Epoch bit. -/
def frameEpoch (f : Bytes) : Nat := bitField (byteAt f 4) 5 1
/-- Multicast flag. -/
def frameMcast (f : Bytes) : Bool := bitAt (byteAt f 4) 4
/-- WRAPPED. -/
def frameWrapped (f : Bytes) : Bool := bitAt (byteAt f 4) 3
/-- ANON. -/
def frameAnon (f : Bytes) : Bool := bitAt (byteAt f 4) 2
/-- Type. -/
def frameType (f : Bytes) : Nat := byteAt f 5
/-- Sequence. -/
def frameSeq (f : Bytes) : Nat := beAt f 6 2
/-- Payload length. -/
def frameLen (f : Bytes) : Nat := beAt f 8 2 % 4096
/-- Hop limit. -/
def frameHops (f : Bytes) : Nat := beAt f 10 2 % 1024
/-- Origin time. -/
def frameTime (f : Bytes) : Nat := beAt f 12 4
/-- Payload. -/
def framePayload (f : Bytes) : Bytes := slice f 16 (frameLen f)

/-- The bytes the CRC-32 covers: header and payload with byte 4 bits 5 and 3 and bytes 10-11 taken as zero (R294). -/
def frameCovered (f : Bytes) : Bytes :=
  let b4 := byteAt f 4
  slice f 0 4 ++ [BitVec.ofNat 8 (clearBits b4 0x28)] ++ slice f 5 5 ++ zeroBytes 2 ++ slice f 12 (4 + frameLen f)

/-- The CRC-32 of a frame. -/
def frameCrc (f : Bytes) : Nat := crc32 (frameCovered f)

/-- The frame is whole and its CRC-32 passes. -/
def frameOk (f : Bytes) : Bool :=
  decide (f.length = 20 + frameLen f) && decide (frameLen f ≤ 1024) &&
    beAt f (16 + frameLen f) 4 == frameCrc f

/-- Rewrite byte 4. -/
def frameWithByte4 (f : Bytes) (v : Nat) : Bytes := slice f 0 4 ++ [BitVec.ofNat 8 v] ++ f.drop 5

/-- Set the epoch bit. -/
def frameTag (f : Bytes) (e : Nat) : Bytes := frameWithByte4 f (setBitField (byteAt f 4) 5 1 e)

/-- Set WRAPPED. -/
def frameWrap (f : Bytes) : Bytes := frameWithByte4 f (setBit (byteAt f 4) 3)

/-- Rewrite the hop limit. -/
def frameWithHops (f : Bytes) (h : Nat) : Bytes := slice f 0 10 ++ beBytes 2 h ++ f.drop 12

/-- Cells of 256 bytes a frame occupies (R299). -/
def frameCells (f : Bytes) : Nat := (f.length + 255) / 256

/-- The next sequence for a destination or group and class: the counter starts from a TRNG value at its first use and
adds 1 for each frame (R295). The table holds the next value plus 1. -/
def nextSeq (s : State) (dst : Nat) (mcast : Bool) (cls : Nat) : Nat × State :=
  let k := dst * 8 + bit mcast * 4 + cls
  let c := tblGet 0 s.fab.seqNext k
  let (v, s1) := if c = 0 then let (n, s') := s.draw; (n % 65536, s') else (c - 1, s)
  (v, { s1 with fab := { s1.fab with seqNext := tblPut 0 s1.fab.seqNext k ((v + 1) % 65536 + 1) } })

/-- Is sequence `q` of this source and class newer than the last accepted (R295)? -/
def seqNewer (s : State) (src cls q : Nat) : Bool :=
  let l := tblGet 0 s.fab.seqLast (src * 4 + cls)
  l = 0 || (let d := (q + 65536 - (l - 1)) % 65536; decide (1 ≤ d) && decide (d ≤ 32767))

/-- Sequence `q` is accepted. -/
def seqAccept (s : State) (src cls q : Nat) : State :=
  { s with fab := { s.fab with seqLast := tblPut 0 s.fab.seqLast (src * 4 + cls) (q % 65536 + 1) } }

/-- A frame of this device: header under R293, hop limit 1,023, origin time now, CRC-32. Answers the frame and its
sequence. -/
def buildFrame (s : State) (dst : Nat) (mcast anon : Bool) (cls typ : Nat) (payload : Bytes) : Bytes × Nat × State :=
  let (q, s1) := nextSeq s dst mcast cls
  let src := if anon then s.cip.deviceId % 65536 else s.addr
  let hdr := beBytes 2 dst ++ beBytes 2 src ++
    [BitVec.ofNat 8 (cls * 64 + s.fab.epoch * 32 + bit mcast * 16 + bit anon * 4), BitVec.ofNat 8 typ] ++
    beBytes 2 q ++ beBytes 2 payload.length ++ beBytes 2 1023 ++ beBytes 4 (s.fab.time % 2 ^ 32)
  let f := hdr ++ payload
  (f ++ beBytes 4 (frameCrc f), q, s1)

/-! ### Ports and queues (R297-R305) -/

/-- Port `p` (0 E, 1 W, 2 A, 3 B) as stored. -/
def State.port (s : State) (p : Nat) : Port := tblGet Port.reset s.fab.ports p

/-- Replace port `p`. -/
def State.setPort (s : State) (p : Nat) (q : Port) : State :=
  { s with fab := { s.fab with ports := tblPut Port.reset s.fab.ports p q } }

/-- Port `p` is enabled in FAB_CTRL.PORT_EN. -/
def portEnabled (s : State) (p : Nat) : Bool := bitAt (s.eff Reg.fabCtrlPortEn) p

/-- The FABRIC island runs and its ports have been started: in service and in FAILED, at BUD and above, while the system PLL runs
(15 R393, R399, R402, R411). -/
def fabricRuns (s : State) : Bool := (s.mode == .running || s.mode == .failed) && s.pwr.deep.isNone && !s.pwr.sprigStopped

/-- The state FAB_PORT reports. -/
def portPhase (s : State) (p : Nat) : PortPhase := if portEnabled s p then (s.port p).phase else .disabled

/-- Traffic may leave by port `p`: UP, and not waiting for an update under R307. -/
def portUsable (s : State) (p : Nat) : Bool := portPhase s p == .up && !(s.port p).waitsUpdate

/-- Output queue of output `o` (0 P0, 1 P1, 2 E, 3 W, 4 A, 5 B) and class `c`. -/
def State.queue (s : State) (o c : Nat) : OutQ := tblGet OutQ.reset s.fab.queues (o * 4 + c)

/-- Replace a queue. -/
def State.setQueue (s : State) (o c : Nat) (q : OutQ) : State :=
  { s with fab := { s.fab with queues := tblPut OutQ.reset s.fab.queues (o * 4 + c) q } }

/-- Cells on chip of a queue, chip(q) of R299. -/
def chipCells (q : OutQ) : Nat := (q.frames.map (fun f => if f.spilled then 0 else frameCells f.bytes)).sum

/-- SHARED of R299. -/
def sharedCells (s : State) : Nat := 2048 - 24 * s.eff Reg.fabBufMin

/-- THRESH of R299. -/
def threshCells (s : State) : Nat := sharedCells s * s.eff Reg.fabBufThresh / 16

/-- The spill is enabled and has room for `n` cells: the region is the first SIZE MiB of the RAM that was found (R299, R300). -/
def spillRoom (s : State) (n : Nat) : Bool :=
  s.on Reg.fabSpillEn && s.fab.xspi != 0 && decide (s.fab.spilled + n ≤ min (s.eff Reg.fabSpillSize) s.fab.xspi * 4096)

/-- The opposite ring output. -/
def oppositeOut (o : Nat) : Nat := if o = 2 then 3 else 2

/-- A frame that enters a ring port's queue after the opposite ring port went down stands behind the frames that move over
from it (R305). -/
def entersLate (s : State) (o : Nat) : Bool :=
  (o = 2 || o = 3) &&
    (let ph := portPhase s (oppositeOut o - 2); ph == .held || ph == .down || ph == .asleep)

/-- Put a frame behind the last one that is not late. -/
def insertAhead : List QFrame → QFrame → List QFrame
  | [], f => [f]
  | g :: gs, f => if g.late then f :: g :: gs else g :: insertAhead gs f

/-- Add a frame to a queue: at the back, or ahead of the late ones. -/
def OutQ.add (q : OutQ) (ahead : Bool) (f : QFrame) : OutQ :=
  { q with frames := if ahead then insertAhead q.frames f else q.frames ++ [f], spilling := q.spilling || f.spilled }

/-- A frame of class `c` is discarded and counted in FAB_DROP (R299, R303, R305). -/
def countDrop (s : State) (c : Nat) : State := s.bump (Reg.fabDrop c)

/-! ### Blocks and the transmitters (R284-R286, R297) -/

/-- The idle sequence K28.5 D16.2. -/
def symIdle : List Symbol := [.k 0xBC, .d 0x50]

/-- The symbol of the wake sequence, K28.7. -/
def symWake : Symbol := .k 0xFC

/-- The tag byte of a block: class, first-block flag, last-block flag. -/
def blockTag (cls : Nat) (first last : Bool) : Byte := BitVec.ofNat 8 (cls * 64 + bit first * 32 + bit last * 16)

/-- Block `i` of a frame: K27.7, tag, up to 256 data bytes, K29.7. A frame has as many blocks as cells. -/
def blockSymbols (f : Bytes) (i : Nat) : List Symbol :=
  [.k 0xFB, .d (blockTag (frameCls f) (i = 0) (i + 1 = frameCells f))] ++ (slice f (256 * i) 256).map Symbol.d ++ [.k 0xFD]

/-- Port `p` sends an idle sequence. -/
def sendIdle (s : State) (p : Nat) : State :=
  (s.setPort p { s.port p with sinceIdle := 0 }).emit (.link p symIdle)

/-- A port trains from the beginning: it sends idle sequences (R284, R287). One whose hold time had run out still waits for an
update (R307). -/
def portTrains (s : State) (p : Nat) : State :=
  let q := s.port p
  let t := s.setPort p { q with
    phase := .training, sendsHello := false, heard := false, waitsUpdate := q.waitsUpdate || q.phase == .down }
  if portEnabled t p then sendIdle t p else t

/-- Port `p` sends a block, and after every eighth an idle sequence. -/
def sendSymbols (s : State) (p : Nat) (block : List Symbol) : State :=
  let t := (s.setPort p { s.port p with sinceIdle := (s.port p).sinceIdle + 1 }).emit (.link p block)
  if 8 ≤ (t.port p).sinceIdle then sendIdle t p else t

/-- The classes in the order of R297. -/
def classOrder : List Nat := [clsRelease, clsCtrl, clsRange, clsBulk]

/-- Output `o` may send: P0 and P1 always, a link output while its port carries traffic. -/
def outputOpen (s : State) (o : Nat) : Bool := decide (o < 2) || portUsable s (o - 2)

/-- The highest class of output `o` with a block ready: its first frame is on chip. -/
def pickClass (s : State) (o : Nat) : Option Nat :=
  classOrder.find? fun c => match (s.queue o c).frames with
    | f :: _ => !f.spilled
    | [] => false

/-- The class of the block in transmission at output `o`. -/
def txClass (s : State) (o : Nat) : Option Nat :=
  match tblGet 0 s.fab.tx o with
  | 0 => none
  | c + 1 => some c

/-- Output `o` starts the next block: that of the highest class that has one ready. No frame goes ahead of one whose block
is in transmission. -/
def startBlock (s : State) (o : Nat) : State :=
  match (if outputOpen s o then pickClass s o else none) with
  | some c =>
    let q := s.queue o c
    let t := s.setQueue o c { q with frames := match q.frames with
      | f :: fs => { f with late := false } :: fs
      | [] => [] }
    { t with fab := { t.fab with tx := tblPut 0 t.fab.tx o (c + 1) } }
  | none => { s with fab := { s.fab with tx := tblPut 0 s.fab.tx o 0 } }

/-- Output `o` starts a block unless one is in transmission. -/
def kick (s : State) (o : Nat) : State := if (txClass s o).isSome then s else startBlock s o

/-- Every output starts a block unless one is in transmission. -/
def kickAll (s : State) : State := (List.range 6).foldl kick s

/-- The next block of the first frame of class `c` leaves output `o`. -/
def sendBlock (s : State) (o c : Nat) : State :=
  let q := s.queue o c
  match q.frames with
  | f :: fs =>
    let t := s.setQueue o c { q with frames := { f with sent := f.sent + 1 } :: fs }
    if o < 2 then t else sendSymbols t (o - 2) (blockSymbols f.bytes f.sent)
  | [] => s

/-- Blocks that the first frame of class `c` at output `o` has yet to send. -/
def blocksLeft (s : State) (o c : Nat) : Nat :=
  match (s.queue o c).frames with
  | f :: _ => frameCells f.bytes - f.sent
  | [] => 0

/-- The transmitter of port `p` stops: a frame it had begun is sent again from its first block. -/
def stopTx (s : State) (p : Nat) : State :=
  let t := classOrder.foldl (fun (t : State) c =>
    let q := t.queue (p + 2) c
    t.setQueue (p + 2) c { q with frames := q.frames.map (fun f => { f with sent := 0 }) }) s
  { t with fab := { t.fab with tx := tblPut 0 t.fab.tx (p + 2) 0 } }

/-! ### Storing and forwarding (R299-R305) -/

/-- Store one copy in the queue of output `o`: the decision of R299. `ahead` puts a wrapped frame ahead of every frame that
entered the queue after the other port went down. -/
def storeCopy (s : State) (o : Nat) (f : Bytes) (ahead : Bool) : State :=
  let c := frameCls f
  let n := frameCells f
  let q := s.queue o c
  let late := !ahead && entersLate s o
  let put (spilled : Bool) (shared : Nat) : State := s.setQueue o c (q.add ahead ⟨f, spilled, shared, late, 0⟩)
  let spillIt : State := let t := put true 0; { t with fab := { t.fab with spilled := s.fab.spilled + n } }
  let dropIt : State := (countDrop s c).raise Reg.fabFaultDrop
  if q.spilling then
    if spillRoom s n then spillIt else dropIt
  else if chipCells q + n ≤ s.eff Reg.fabBufMin then kick (put false 0) o
  else if s.fab.sharedUsed + n ≤ sharedCells s && (c = clsCtrl || decide (s.fab.sharedUsed + n ≤ threshCells s)) then
    let t := put false n
    kick { t with fab := { t.fab with sharedUsed := s.fab.sharedUsed + n } } o
  else if c != clsCtrl && spillRoom s n then spillIt
  else dropIt

/-- Return the cells of a frame that leaves a queue. -/
def freeCells (s : State) (f : QFrame) : State :=
  { s with fab := { s.fab with
      sharedUsed := s.fab.sharedUsed - f.shared,
      spilled := if f.spilled then s.fab.spilled - frameCells f.bytes else s.fab.spilled } }

/-- Send a unicast frame to output `o`. A ring port that is not usable wraps or holds it (R305, R309); a branch port that
is not usable holds it, or discards it once its hold time has run out. -/
def forward (s : State) (o : Nat) (f : Bytes) : State :=
  let c := frameCls f
  if o < 2 then storeCopy s o f false
  else
    let p := o - 2
    if portUsable s p then storeCopy s o f false
    else
      let ph := portPhase s p
      let holding := ph == .held || ph == .asleep
      let wake (t : State) : State := if ph == .asleep then t.emit (.wake p symWake 100) else t
      if o ≤ 3 then
        if frameWrapped f then countDrop s c
        else if (c = clsRange || c = clsBulk) && holding then wake (storeCopy s o f false)
        else if portUsable s (oppositeOut o - 2) then
          wake (storeCopy s (oppositeOut o) (frameWrap f) (c = clsCtrl || c = clsRelease))
        else wake (countDrop s c)
      else if holding then wake (storeCopy s o f false)
      else countDrop s c

/-- A copy for one link only: discarded uncounted unless the port carries traffic (R291 in line mode; TIME_SYNC and
SEG_ADVERT, which are sent over UP links). -/
def linkCopy (s : State) (o : Nat) (f : Bytes) : State :=
  if portUsable s (o - 2) then storeCopy s o f false else s

/-! ### Lookup (R303) -/

/-- Bank `e`. -/
def State.bank (s : State) (e : Nat) : Bank := tblGet Bank.reset s.fab.banks e

/-- Replace bank `e`. -/
def State.setBank (s : State) (e : Nat) (b : Bank) : State :=
  { s with fab := { s.fab with banks := tblPut Bank.reset s.fab.banks e b } }

/-- The output a route names. -/
def Route.out : Route → Option Nat
  | .local_ => some 0
  | .east => some 2
  | .west => some 3
  | .branchA => some 4
  | .branchB => some 5
  | .unreachable => none

/-- The route of an address in a bank: by position within the own segment, by segment otherwise. -/
def bankRoute (s : State) (b : Bank) (dst : Nat) : Route :=
  if dst = s.addr then .local_
  else if dst / 64 = s.addr / 64 then tblGet .unreachable b.positions (dst % 64)
  else match b.segments.find? (fun e => e.1 == dst / 64) with
    | some e => e.2
    | none => b.other

/-- The bank a frame is looked up under, and the frame tagged with it: from P0, P1 and branch ports the current one; from a
ring port the one its epoch bit names while that is VALID or RETIRING (R303). -/
def pickBank (s : State) (fromRing : Bool) (f : Bytes) : Nat × Bytes :=
  let e := frameEpoch f
  if fromRing && ((s.bank e).state == .valid || (s.bank e).state == .retiring) then (e, f)
  else (s.fab.epoch, frameTag f s.fab.epoch)

/-- Look a unicast frame up and store it. `input` is 0 for P0 and P1, 2 E, 3 W, 4 A, 5 B. While the current bank has never
been written, a frame goes on around the ring (DESIGN CHOICE, log 20). A WRAPPED frame whose lookup names the port it came
from goes on the way it travels (R306; DEDUCED, log 132), and an ANON frame never leaves the ring by a branch (R289). -/
def lookupForward (s : State) (input : Nat) (f : Bytes) : State :=
  let fromRing := decide (input = 2) || decide (input = 3)
  let (e, g) := pickBank s fromRing f
  let b := s.bank e
  if frameDst g = s.addr then storeCopy s 0 g false
  else if b.state == .invalid then
    if fromRing then forward s (oppositeOut input) g
    else if portUsable s 0 then forward s 2 g
    else if portUsable s 1 then forward s 3 g
    else countDrop s (frameCls g)
  else match (bankRoute s b (frameDst g)).out with
    | some o =>
      if frameAnon g && decide (4 ≤ o) then countDrop s (frameCls g)
      else forward s (if fromRing && frameWrapped g && o = input then oppositeOut input else o) g
    | none => countDrop s (frameCls g)

/-- The route this device would give a destination now (R343). -/
def reachable (s : State) (dst : Nat) : Bool :=
  let b := s.bank s.fab.epoch
  if dst = s.addr then true
  else if b.state == .invalid then portUsable s 0 || portUsable s 1
  else match bankRoute s b dst with
    | .unreachable => false
    | _ => true

/-- Does P0 belong to multicast group `g` (R291)? -/
def localMember (s : State) (g : Nat) : Bool := g = 15 || bitAt (s.eff Reg.fabMcastLocal) g

/-- The ring runs in line mode under the current bank. -/
def ringLine (s : State) : Bool := (s.bank s.fab.epoch).line

/-- Multicast frames go as in line mode: the current bank says so, or none has been written yet and a copy goes each way
(DESIGN CHOICE, log 20). -/
def mcastLine (s : State) : Bool := ringLine s || (s.bank s.fab.epoch).state == .invalid

/-- A copy of a multicast frame for an onward ring port. In line mode it is discarded uncounted unless the port is UP, and
never moved (R291); in a closed ring R305 holds for it as for every frame. -/
def mcastCopy (s : State) (o : Nat) (f : Bytes) : State := if mcastLine s then linkCopy s o f else forward s o f

/-- A copy for P1: on the head, where FAB_MCAST.HOST makes it a member of the group (R291, R301). -/
def hostCopy (s : State) (f : Bytes) : State :=
  if s.fab.head && bitAt (s.eff Reg.fabMcastHost) (frameDst f % 16) then storeCopy s 1 f false else s

/-- Send a multicast frame of this device, which enters at P0: a copy for P1 by membership, and one east in a closed ring or
one each way in a line; another segment's group is discarded and counted (R291, R301). P0, where it entered, takes no copy
(DESIGN CHOICE, log 20). -/
def originateMcast (s : State) (f : Bytes) : State :=
  if !frameAnon f && frameDst f / 64 != s.addr / 64 then countDrop s (frameCls f)
  else
    let g := frameTag f s.fab.epoch
    let t := hostCopy s g
    if mcastLine s then mcastCopy (mcastCopy t 2 g) 3 g else mcastCopy t 2 g

/-- Send a frame of this device. Answers the sequence used. -/
def sendFrame (s : State) (dst : Nat) (mcast anon : Bool) (cls typ : Nat) (payload : Bytes) : Nat × State :=
  let (f, q, s1) := buildFrame s dst mcast anon cls typ payload
  (q, if mcast then originateMcast s1 f else lookupForward s1 0 f)

/-- Send a CTRL frame to the head of the segment. -/
def sendToHead (s : State) (typ : Nat) (payload : Bytes) : State :=
  (sendFrame s (s.addr / 64 * 64) false false clsCtrl typ payload).2

/-- Send a CTRL frame to group 15 of the segment. -/
def sendGroup15 (s : State) (typ : Nat) (payload : Bytes) : State :=
  (sendFrame s (s.addr / 64 * 64 + 15) true false clsCtrl typ payload).2

/-- Frames in the buffers that carry epoch `e` (R303). -/
def epochCount (s : State) (e : Nat) : Nat :=
  (s.fab.queues.map (fun kq => (kq.2.frames.filter (fun f => frameEpoch f.bytes == e)).length)).sum

/-- Positions in use: as the head knows them, else as the latest PREPARE or join stated. -/
def inuseMask (s : State) : Nat := if s.fab.head then (s.fab.members.map Prod.fst).foldl setBit 0 else s.fab.inuse

/-- Segments known: the own one and every one that a branch advertises (R290, R308). -/
def segmentsKnown (s : State) : Nat := s.fab.adverts.foldl (fun m e => Nat.lor m e.2) (2 ^ (s.addr / 64))

/-- How many segments the fabric reports (FAB_STATUS.SEGMENTS): none before the device holds an address. -/
def segmentCount (s : State) : Nat := if s.fab.addr.isSome then popCount 1024 (segmentsKnown s) else 0

end Sys2Proof.Machine
end

