-- ==== Sys2Proof/Machine/Rings.lean ====
section
/-! DEFINITION. Rings, completions, posted buffers, proxy DMA, event records and audit entries: how every meaning reaches
the host (12_host_interface.md R315-R329, R339, R340; 02 R46; 15 R416). -/
namespace Sys2Proof.Machine

/-! ### Status codes (R324) -/

/-- OK. -/
def stOk : Nat := 0x00
/-- ABORTED. -/
def stAborted : Nat := 0x01
/-- ABORT_LATE. -/
def stAbortLate : Nat := 0x02
/-- SYNTH_BUSY. -/
def stSynthBusy : Nat := 0x03
/-- TABLE_FULL. -/
def stTableFull : Nat := 0x04
/-- LOCKED_OUT. -/
def stLockedOut : Nat := 0x05
/-- BAD_FIELD. -/
def stBadField : Nat := 0x06
/-- NOT_OWNER. -/
def stNotOwner : Nat := 0x07
/-- NV_DEFERRED. -/
def stNvDeferred : Nat := 0x08
/-- ADDR_FULL. -/
def stAddrFull : Nat := 0x09
/-- EPOCH_STALE. -/
def stEpochStale : Nat := 0x0A
/-- DMA_ERROR. -/
def stDmaError : Nat := 0x60
/-- WRITE_PROTECTED. -/
def stWriteProtected : Nat := 0x70

/-! ### Proxy links (R325, R326) -/

/-- Class of a ring's proxy traffic: RANGE for rings 1, 3 and 4, BULK for every other ring and for register traffic. -/
def ringProxyClass (ring : Nat) : Nat := if ring = 1 || ring = 3 || ring = 4 then 0 else 1

/-- The link with position `pos` (0 on a downstream device) in class `cls` (0 RANGE, 1 BULK). -/
def State.link (s : State) (pos cls : Nat) : ProxyLink := tblGet ProxyLink.reset s.hif.links (pos * 2 + cls)

/-- Replace a link. -/
def State.setLink (s : State) (pos cls : Nat) (l : ProxyLink) : State :=
  { s with hif := { s.hif with links := tblPut ProxyLink.reset s.hif.links (pos * 2 + cls) l } }

/-- Put one proxy frame on the fabric with the acknowledgement of its class. -/
def proxyTransmit (s : State) (pos cls : Nat) (f : ProxyFrame) : State :=
  let dst := if s.fab.head then s.addr / 64 * 64 + pos else s.addr / 64 * 64
  let payload := beBytes 2 f.seq ++ beBytes 2 (s.link pos cls).rxNext ++ [BitVec.ofNat 8 f.ring, 0] ++ f.body
  (sendFrame s dst false false (cls + 2) f.kind payload).2

/-- Send a proxy frame: numbered and kept until acknowledged, or waiting while 32 are unacknowledged (R326). -/
def proxySend (s : State) (pos ring kind : Nat) (body : Bytes) : State :=
  let cls := ringProxyClass ring
  let l := s.link pos cls
  if l.unacked.length < 32 then
    let f : ProxyFrame := ⟨l.txNext, kind, ring, body⟩
    proxyTransmit (s.setLink pos cls { l with txNext := (l.txNext + 1) % 65536, unacked := l.unacked ++ [f] }) pos cls f
  else s.setLink pos cls { l with waiting := l.waiting ++ [⟨0, kind, ring, body⟩] }

/-- Move waiting frames into the places that acknowledgements have freed (at most 32 at a time). -/
def proxyDrain : Nat → State → Nat → Nat → State
  | 0, s, _, _ => s
  | n + 1, s, pos, cls =>
    let l := s.link pos cls
    match l.waiting with
    | [] => s
    | f :: rest =>
      if l.unacked.length < 32 then
        let g : ProxyFrame := { f with seq := l.txNext }
        proxyDrain n (proxyTransmit (s.setLink pos cls
          { l with txNext := (l.txNext + 1) % 65536, unacked := l.unacked ++ [g], waiting := rest }) pos cls g) pos cls
      else s

/-! ### Host memory and interrupts -/

/-- The device reaches host memory over its own PCIe function: the head; and, with no engine to serve a proxy link, a device
in RECOVERY (14 R373; DEDUCED, log 92). -/
def hostDirect (s : State) : Bool := s.fab.head || s.mode == .recovery

/-- In FAILED from the end of the grace time, nothing is written for the rings any more (15 R411). -/
def ringsSilent (s : State) : Bool := s.mode == .failed && s.pwr.graceEnd.isNone

/-- Write host memory on behalf of a ring: directly on the head, waiting in D3hot (R314), and through WRITE frames of at
most 1,008 bytes on a downstream device (R325). -/
def dma (s : State) (ring addr : Nat) (data : Bytes) : State :=
  if data.isEmpty || ringsSilent s then s
  else if hostDirect s then
    if s.hif.d3hot then { s with hif := { s.hif with stalled := s.hif.stalled ++ [(true, addr, data)] } }
    else s.emit (.hostWrite addr data)
  else
    ((pieces 1008 data).foldl (fun (acc : State × Nat) p =>
      (proxySend acc.1 0 ring 0x04 (beBytes 8 acc.2 ++ beBytes 2 p.length ++ p), acc.2 + p.length)) (s, addr)).1

/-- Is the vector masked in the MSI-X table (R345, as PCI Express lays it out)? -/
def vectorMasked (s : State) (v : Nat) : Bool := tblGet 1 s.hif.msixTable (v * 4 + 3) % 2 == 1

/-- The head signals a vector; while its table entry masks it, its pending bit is set. -/
def signalHead (s : State) (v : Nat) : State :=
  let s1 := s.emit (.msix v)
  if vectorMasked s v then { s1 with hif := { s1.hif with pba := setBit s1.hif.pba v } } else s1

/-- Signal a vector for a ring: on the head, waiting in D3hot; by an INTERRUPT frame on a downstream device. -/
def signal (s : State) (ring v : Nat) : State :=
  if hostDirect s then
    if s.hif.d3hot then { s with hif := { s.hif with stalled := s.hif.stalled ++ [(false, v, [])] } }
    else signalHead s v
  else proxySend s 0 ring 0x05 [BitVec.ofNat 8 v, 0]

/-- Signal HIF_CTRL.ERRVEC if it is enabled (R322, R326). -/
def signalError (s : State) : State :=
  if s.on Reg.hifCtrlErrIntEn then signal s 0xFF (s.eff Reg.hifCtrlErrvec) else s

/-! ### Completions (R317-R321) -/

/-- The MSI-X vector of a ring: as written, else the own position (R347). -/
def ringVector (s : State) (n : Nat) : Nat := (s.ring n).vector.getD s.pos

/-- The descriptors outstanding on the ring; one that a PCIe reset has cut off is no longer its ring's (R314). -/
def openDescs (r : RingState) : List Outst := r.outstanding.filter (fun o => !o.orphan)

/-- Completions of the ring not yet consumed once the host has read up to `head` (R318, R319). -/
def unreadFrom (r : RingState) (head : Nat) : Nat := (r.cqTail + 2 ^ r.cqk - head) % 2 ^ r.cqk

/-- Write one completion, and count it towards the ring's interrupt. A ring in ERROR or DISABLED writes none (R322), nor does a
FAILED device past its grace time (15 R411). -/
def writeCompletion (s : State) (n tag status result : Nat) (noInt : Bool) : State :=
  let r := s.ring n
  if r.phase == .error || r.phase == .disabled || ringsSilent s then s
  else
    let cpl := leBytes 2 tag ++ [BitVec.ofNat 8 status, BitVec.ofNat 8 (bit r.cqPhase)] ++ leBytes 2 r.sqHead ++
      zeroBytes 2 ++ leBytes 8 result
    let s1 := dma s n (r.cqBase + 16 * r.cqTail) cpl
    let wrap := r.cqTail + 1 = 2 ^ r.cqk
    let r1 := { r with cqTail := if wrap then 0 else r.cqTail + 1,
                       cqPhase := if wrap then !r.cqPhase else r.cqPhase, unread := r.unread + 1 }
    if r.intEn && !noInt then
      if r.coalPending + 1 ≥ r.coalCnt then
        signal (s1.setRing n { r1 with coalPending := 0 }) n (ringVector s n)
      else s1.setRing n { r1 with coalPending := r.coalPending + 1 }
    else s1.setRing n r1

/-- The outstanding descriptor with this tag. -/
def findOut (s : State) (n tag : Nat) : Option Outst := (s.ring n).outstanding.find? (fun o => o.desc.tag == tag)

/-- Complete an outstanding descriptor. -/
def complete (s : State) (n tag status result : Nat) : State :=
  match findOut s n tag with
  | none => s
  | some o =>
    let r := s.ring n
    let t := s.setRing n { r with outstanding := removeFirst (fun x => x.desc.tag == tag) r.outstanding }
    if o.orphan then t else writeCompletion t n tag status result (bitAt o.desc.flags 0)

/-- Write host bytes of an outstanding command; those of one that a PCIe reset has cut off are discarded (R314). -/
def cmdDma (s : State) (n tag addr : Nat) (data : Bytes) : State :=
  if (findOut s n tag).any Outst.orphan then s else dma s n addr data

/-- Write the command's host buffer and complete it OK. -/
def completeData (s : State) (n : Nat) (d : Desc) (data : Bytes) (result : Nat) : State :=
  complete (cmdDma s n d.tag d.addr data) n d.tag stOk result

/-- A silent refusal: OK, result 0, and zeros in place of every host byte it would have written (07 R186). -/
def refuseSilent (s : State) (n : Nat) (d : Desc) (len : Nat) : State :=
  completeData s n d (zeroBytes len) 0

/-- The command of ring `n` with this opcode and tag that is outstanding and not yet taken up. -/
def takeCmd (s : State) (n op tag : Nat) : Option Desc :=
  match findOut s n tag with
  | some o => if o.desc.op = op && !o.taken then some o.desc else none
  | none => none

/-- Mark an outstanding descriptor as taken up, past its abort point or not. -/
def markTaken (s : State) (n tag : Nat) (past : Bool) : State :=
  let r := s.ring n
  let outs := updateFirst (fun o => o.desc.tag == tag) (fun o => { o with taken := true, past := past }) r.outstanding
  s.setRing n { r with outstanding := outs }

/-- An outstanding descriptor passes its abort point. -/
def passAbort (s : State) (n tag : Nat) : State :=
  let r := s.ring n
  s.setRing n { r with
    outstanding := updateFirst (fun o => o.desc.tag == tag) (fun o => { o with past := true }) r.outstanding }

/-- APP serves rings 0, 2, 8, 9, 10, 13 and 15 (01 R9). -/
def appRing (n : Nat) : Bool := n = 0 || n = 2 || n = 8 || n = 9 || n = 10 || n = 13 || n = 15

/-- The ring's server runs: in RUNNING every ring, those of APP while APP serves; in RECOVERY ring 10 alone (14 R373); in
FAILED until the grace time ends (15 R411). -/
def ringServed (s : State) (n : Nat) : Bool :=
  match s.mode with
  | .running => !appRing n || s.pwr.appServing
  | .recovery => n = 10
  | .failed => s.pwr.graceEnd.isSome && s.stat Reg.cipStatusTrngReady = 1 && (!appRing n || s.pwr.appServing)
  | .seed | .starting => false

/-- Run a ring command on its descriptor; nothing happens where the descriptor is not outstanding, is already taken, or
its ring is not served. -/
def ringCmd (n op tag : Nat) (f : Desc → State → State) (s : State) : State :=
  if ringServed s n then
    match takeCmd s n op tag with
    | some d => f d s
    | none => s
  else s

/-- A command that fails the checks of its form completes BAD_FIELD and does nothing (R324); otherwise it runs. -/
def ringCmdIf (n op tag : Nat) (ok : Desc → Bool) (f : Desc → State → State) (s : State) : State :=
  ringCmd n op tag (fun d t => if ok d then f d t else complete t n tag stBadField 0) s

/-! ### Posted buffers (02 R46) -/

/-- The oldest posted buffer of ring `n` with opcode `op`. -/
def oldestBuffer (s : State) (n op : Nat) : Option Desc :=
  ((s.ring n).outstanding.find? (fun o => o.desc.op == op && o.taken && !o.past)).map Outst.desc

/-- Post a buffer: it stays outstanding until something is written into it. -/
def postBuffer (n op minLen tag : Nat) (s : State) : State :=
  ringCmdIf n op tag (fun d => decide (minLen ≤ d.len)) (fun _ t => markTaken t n tag false) s

/-- Count one item discarded for want of a buffer (R46, R347 RING_OVF). -/
def bumpOvf (s : State) (n : Nat) : State :=
  let r := s.ring n
  s.setRing n { r with ovf := satSucc 32 r.ovf }

/-- Write an item into the oldest posted buffer and complete it, or discard it and count the discard (R46). -/
def fillBuffer (s : State) (n op : Nat) (data : Bytes) (result : Nat) : State :=
  match oldestBuffer s n op with
  | some d => completeData s n d data result
  | none => bumpOvf s n

/-! ### Event records on ring 11 (15 R416) -/

/-- Block codes of R416. -/
def blkFab : Nat := 0x03
/-- LF. -/
def blkLf : Nat := 0x04
/-- TPX. -/
def blkTpx : Nat := 0x05
/-- SGR. -/
def blkSgr : Nat := 0x06
/-- UWB. -/
def blkUwb : Nat := 0x07
/-- AUT. -/
def blkAut : Nat := 0x09
/-- REL. -/
def blkRel : Nat := 0x0A
/-- MTR. -/
def blkMtr : Nat := 0x0B
/-- CIP. -/
def blkCip : Nat := 0x0C
/-- KEY. -/
def blkKey : Nat := 0x0D
/-- NVS. -/
def blkNvs : Nat := 0x0E
/-- UPD. -/
def blkUpd : Nat := 0x0F
/-- PWR. -/
def blkPwr : Nat := 0x10

/-- Put an event record on ring 11. Every record takes the next sequence number, delivered or not. -/
def event (s : State) (block code : Nat) (detail : Bytes) : State :=
  let q := s.pwr.eventSeq
  let rec_ := [0x0B, BitVec.ofNat 8 block, BitVec.ofNat 8 code, 0] ++ leBytes 4 s.rtc ++
    leBytes 4 (s.fab.time % 2 ^ 32) ++ leBytes 4 q ++ padTo 16 detail
  fillBuffer { s with pwr := { s.pwr with eventSeq := (q + 1) % 2 ^ 32 } } 11 0x01 rec_ q

/-- A fault bit is set and an event record about it put on ring 11; the event code is the bit's number in its register. -/
def raiseEvent (s : State) (f : Fld) (block : Nat) (detail : Bytes) : State :=
  event (s.raise f) block (f.key % 32) detail

/-! ### Audit entries (R339, R340) -/

/-- Make one audit entry. It waits for AUDIT_COMMIT; while the supply check defers that, at most 256 wait in SRAM, and each
beyond is lost and counted. -/
def audit (s : State) (source ring opcode requester off before after detail : Nat) : State :=
  if s.hif.auditWaiting.length < 256 || !s.hif.auditDeferred then
    let q := s.stat Reg.hifAuditSeqNext
    let e : AuditEntry := ⟨q, s.rtc, source, ring, opcode, requester, off, before, after, detail⟩
    ({ s with hif := { s.hif with auditWaiting := s.hif.auditWaiting ++ [e] } }).setStat Reg.hifAuditSeqNext (q + 1)
  else s.bump Reg.hifAuditLost

/-- The requester HOST, as its bit number in the master mask (07 R183). -/
def reqHost : Nat := 16

/-- The audit entry of a ring command of the host (source 0x03). -/
def auditCmd (s : State) (ring opcode detail : Nat) : State := audit s 0x03 ring opcode reqHost 0 0 0 detail

end Sys2Proof.Machine
end

