-- ==== Sys2Proof/Machine/Registers.lean ====
section
/-! DEFINITION. The set-up registers as a file: legal values and their Out of range actions (00 R5), dependent fields
(R442), values held and in force (R441), the clamp report (12 R338), the profiles' bundles (01 R20, R21) and the limits
that the regulatory record sets (05 R128, R131, R132). -/
namespace Sys2Proof.Machine

/-! ### The regulatory record (05 R128) -/

/-- Legal values of one enabled band, at its offset. -/
def bandLegal (b : Bytes) (i : Nat) : Bool :=
  let o := 24 + 12 * i
  let fl := byteAt b (o + 5)
  if bitAt fl 0 then
    decide (leAt b o 2 ≤ 26400) && decide (leAt b o 2 ≤ leAt b (o + 2) 2) && decide (leAt b (o + 2) 2 ≤ 26400) &&
    decide (byteAt b (o + 4) ≤ 48) && fl = 1 && decide (1 ≤ leAt b (o + 6) 2) && decide (leAt b (o + 6) 2 ≤ 10000) &&
    decide (1 ≤ leAt b (o + 8) 2) && leAt b (o + 10) 2 = 0
  else true

/-- Every field of a record lies within its legal values (R128, R129). -/
def regRecLegal (b : Bytes) : Bool :=
  decide (b.length = 72) && leAt b 0 2 = 1 && leAt b 2 2 = 72 && leAt b 6 2 = 0 &&
  decide (10000 ≤ leAt b 8 2) && decide (leAt b 8 2 ≤ 15000) && decide (leAt b 8 2 ≤ leAt b 10 2) &&
  decide (leAt b 10 2 ≤ 15000) && decide (50 ≤ leAt b 12 2) && decide (leAt b 12 2 ≤ 1500) &&
  decide (1 ≤ byteAt b 14) && decide (byteAt b 14 ≤ 50) && decide (1 ≤ byteAt b 15) && decide (byteAt b 15 ≤ 100) &&
  decide (20 ≤ byteAt b 16) && decide (byteAt b 16 ≤ 200) && decide (byteAt b 17 < 4) &&
  decide (413 ≤ leAt b 18 2) && decide (leAt b 18 2 ≤ 600) && decide (1 ≤ leAt b 20 2) && decide (leAt b 20 2 ≤ 1000) &&
  leAt b 22 2 = 0 && bandLegal b 0 && bandLegal b 1 && bandLegal b 2 && bandLegal b 3

/-- Is band `i` of the record enabled and does it contain the channel? -/
def bandHas (b : Bytes) (i chan : Nat) : Bool :=
  bitAt (byteAt b (24 + 12 * i + 5)) 0 && decide (leAt b (24 + 12 * i) 2 ≤ chan) &&
    decide (chan ≤ leAt b (24 + 12 * i + 2) 2)

/-- The lowest-numbered enabled band that contains the channel (R133). -/
def bandOf (b : Bytes) (chan : Nat) : Option Nat := [0, 1, 2, 3].find? (fun i => bandHas b i chan)

/-- Highest power of band `i`. -/
def bandPower (b : Bytes) (i : Nat) : Nat := byteAt b (24 + 12 * i + 4)
/-- Duty cap of band `i`, 0.01 %. -/
def bandDuty (b : Bytes) (i : Nat) : Nat := leAt b (24 + 12 * i + 6) 2
/-- Longest single transmission of band `i`, ms. -/
def bandLongest (b : Bytes) (i : Nat) : Nat := leAt b (24 + 12 * i + 8) 2

/-- A field of the record in force, or the widest value of R131 without one. -/
def recLimit (s : State) (f : Bytes → Nat) (widest : Nat) : Nat :=
  match s.rad.regRec with
  | some b => f b
  | none => widest

/-- The limit of SGR_PA.POWER: the highest power of the band in use by SGR_FREQ.CHAN as held, else 48 (R139). -/
def powerLimit (s : State) : Nat :=
  recLimit s (fun b => match bandOf b (s.held Reg.sgrFreqChan) with
    | some i => bandPower b i
    | none => 48) 48

/-- Highest FAB_SPILL.SIZE (R310): the device found at start, at most 64. With no device found the row's second bound names
nothing, and the limit stays 64 (DESIGN CHOICE, log 106). -/
def spillMost (s : State) : Nat := if s.fab.xspi = 0 then 64 else min 64 s.fab.xspi

/-- UWB channels usable under R112: 5 and 9. -/
def uwbUsable (s : State) : Bool × Bool :=
  let rec_ := recLimit s (fun b => byteAt b 17) 0
  (s.on Reg.uwbChanEn5 && bitAt rec_ 0, s.on Reg.uwbChanEn9 && bitAt rec_ 1)

/-- UWB_FAULT.CHAN_NONE is set where no channel is usable (05 R112). -/
def noteChannels (s : State) : State :=
  match uwbUsable s with
  | (false, false) => s.raise Reg.uwbFaultChanNone
  | _ => s

/-- Lowest and highest legal value of a limited field (R128, R131, R310). -/
def limitRange (s : State) : Limit → Nat × Nat
  | .lfIpeak => (50, min 1500 (recLimit s (fun b => leAt b 12 2) 1500))
  | .lfFreq => (recLimit s (fun b => leAt b 8 2) 10000, recLimit s (fun b => leAt b 10 2) 15000)
  | .lfDutyChan => (1, recLimit s (fun b => byteAt b 14) 50)
  | .lfDutyArray => (1, recLimit s (fun b => byteAt b 15) 100)
  | .tpxIpeak => (20, min 200 (recLimit s (fun b => byteAt b 16) 200))
  | .sgrPower => (0, powerLimit s)
  | .uwbLevel => (recLimit s (fun b => leAt b 18 2) 413, 600)
  | .spillEn => (0, if s.fab.xspi = 0 then 0 else 1)
  | .spillSize => (1, spillMost s)
  | .mcastHost => (0, 32767)

/-- The zone whose B word stands at `off`. -/
def zoneOfB (off : Nat) : Nat := (off - 0x2488) / 16

/-- The zone of the word B at `off` is held as a vertical cylinder, so that B [15:0] is RADIUS [14:0] and B [31:16] is reserved
(06 R164). -/
def cylinderB (s : State) (off : Nat) : Bool :=
  decide (0x2488 ≤ off) && off % 16 = 8 && decide (off < 0x2580) && s.held (Reg.prxZoneShape (zoneOfB off)) = 1

/-- Bits of a field that stand for its value: of B [15:0] of a cylinder RADIUS [14:0] alone, bit 15 being reserved (R3; DESIGN
CHOICE, log 107), and of its B [31:16] none. -/
def valueWidth (s : State) (r : FieldSpec) (off : Nat) : Nat :=
  if cylinderB s off then (if r.lsb = 16 then 0 else 15) else r.width

/-- The value applied for a value written (R5): the Out of range column. -/
def clampValue (s : State) (r : FieldSpec) (off v : Nat) : Nat :=
  match r.clamp with
  | .any => v
  | .range lo hi => if v < lo then lo else if hi < v then hi else v
  | .keepAbove hi => if hi < v then s.held (r.fld off) else v
  | .table ps => match ps.find? (fun p => p.1 == v) with
    | some p => p.2
    | none => v
  | .rounds => if v < 48 then 32 else 64
  | .zoneRadius =>
    if cylinderB s off then max 10 v else v
  | .lftabFlo =>
    let fhi := tblGet 0 s.heldCells (off * 32 + 16)
    if v = 0 || fhi < v then fhi else v
  | .limit l => let (lo, hi) := limitRange s l; if v < lo then lo else if hi < v then hi else v

/-! ### The clamp report (R338) -/

/-- Leave one entry in the clamp report window; beyond 64 the oldest is overwritten and counted. -/
def clampReport (s : State) (off lsb width written applied source : Nat) : State :=
  let q := s.stat Reg.hifClampNextSeq
  let e : ClampEntry := ⟨off, lsb, width, written, applied, source, q⟩
  let s1 := if s.hif.clampLog.length < 64 then s else s.bump Reg.hifClampOverwrites
  ({ s1 with hif := { s1.hif with clampLog := e :: s.hif.clampLog.take 63 } }).setStat Reg.hifClampNextSeq (q + 1)

/-! ### Writing fields -/

/-- Hold a value in a field; an immediate field is in force at once, a boundary field waits for the next poll-cycle
boundary, a metering setting for R261 (R441). Configuration has changed (R336). -/
def storeField (s : State) (f : Fld) (t : Timing) (v : Nat) : State :=
  let s := s.setHeld f v
  let s := { s with hif := { s.hif with cfgChanged := true } }
  match t with
  | .immediate => s.setForce f v
  | .boundary => { s with boundaryDue := true }
  | .meterSettings => { s with mtr := { s.mtr with settingsPending := true } }
  | _ => s

/-- Is a RWL field writable in the life-cycle state (R4)? -/
def rwlOpen (s : State) (r : FieldSpec) : Bool := r.lifeCycles.contains s.cip.lifeCycle.code

/-- Write one field of the register at `off` with its bits of `w`, under R4 and R5. `source` is the clamp report's source;
`blob` leaves W1C fields alone. PROFILE and the write-only actions are not written here. -/
def writeField (source : Nat) (blob : Bool) (off w : Nat) (s : State) (r : FieldSpec) : State :=
  let f := r.fld off
  let k := valueWidth s r off
  let v := bitField w r.lsb k
  match r.acc with
  | .ro | .wo => s
  | .w1c => if blob then s else s.setStat f (clearBits (s.stat f) v)
  | .rw | .rwl =>
    if (off = 0x0040 && r.lsb = 0) || (r.acc == .rwl && !rwlOpen s r) ||
        (r.clamp == .limit .mcastHost && !s.fab.head) || k = 0 then s
    else
      let a := clampValue s r off v
      let s := if a ≠ v then clampReport s off r.lsb k v a source else s
      storeField s f r.timing a

/-- Apply 0 to a dependent one-bit field that is held at 1, with one clamp report entry naming it (R442). It follows the store of
the value written, so a write of 1 over a held 0 in a broken combination makes its entry, with 1 as the value written: the
value 'already held' is read as that after the write (DESIGN CHOICE, log 108). -/
def dropDependent (source off : Nat) (f : Fld) (t : Timing) (s : State) : State :=
  if s.held f = 1 then storeField (clampReport s off (f.key % 32) f.width 1 0 source) f t 0 else s

/-- Zone `n` breaks its legal combination (R164): a box with a bound pair reversed, a cylinder with ZMAX < ZMIN. -/
def zoneBroken (s : State) (n : Nat) : Bool :=
  let g (f : Fld) : Int := signed 16 (s.held f)
  let box := s.held (Reg.prxZoneShape n) = 0
  decide (g (Reg.prxZoneZmax n) < g (Reg.prxZoneZmin n)) ||
    (box && (decide (g (Reg.prxZoneXmax n) < g (Reg.prxZoneXmin n)) ||
      decide (g (Reg.prxZoneYmax n) < g (Reg.prxZoneYmin n))))

/-- LF_SCHEDn.EN, CHA and CHB by slot. -/
def lfSchedEn (n : Nat) : Fld :=
  nth Reg.lfSched0En [Reg.lfSched0En, Reg.lfSched1En, Reg.lfSched2En, Reg.lfSched3En, Reg.lfSched4En, Reg.lfSched5En,
    Reg.lfSched6En, Reg.lfSched7En] n
def lfSchedCha (n : Nat) : Fld :=
  nth Reg.lfSched0Cha [Reg.lfSched0Cha, Reg.lfSched1Cha, Reg.lfSched2Cha, Reg.lfSched3Cha, Reg.lfSched4Cha,
    Reg.lfSched5Cha, Reg.lfSched6Cha, Reg.lfSched7Cha] n
def lfSchedChb (n : Nat) : Fld :=
  nth Reg.lfSched0Chb [Reg.lfSched0Chb, Reg.lfSched1Chb, Reg.lfSched2Chb, Reg.lfSched3Chb, Reg.lfSched4Chb,
    Reg.lfSched5Chb, Reg.lfSched6Chb, Reg.lfSched7Chb] n

/-- The fields of REL_ROUTE0 and REL_ROUTE1. -/
def relRouteEn (g : Nat) : Fld := if g = 0 then Reg.relRoute0En else Reg.relRoute1En
def relRouteRemote (g : Nat) : Fld := if g = 0 then Reg.relRoute0Remote else Reg.relRoute1Remote
def relRouteTarget (g : Nat) : Fld := if g = 0 then Reg.relRoute0Target else Reg.relRoute1Target
def relRoutePosition (g : Nat) : Fld := if g = 0 then Reg.relRoute0Position else Reg.relRoute1Position

/-- The combinations of R442 that a write of the register at `off` tests. -/
def dependents (source off : Nat) (s : State) : State :=
  let s := [0, 1, 2, 3, 4, 5, 6, 7].foldl (fun (s : State) n =>
    if off = (lfSchedEn n).key / 32 && s.held (lfSchedCha n) = s.held (lfSchedChb n) then
      dropDependent source off (lfSchedEn n) .boundary s else s) s
  let s := if 0x2480 ≤ off && off < 0x2580 then
    let n := (off - 0x2480) / 16
    if zoneBroken s n then dropDependent source (0x2480 + 16 * n) (Reg.prxZoneEn n) .boundary s else s
    else s
  [0, 1].foldl (fun (s : State) g =>
    if off = (relRouteRemote g).key / 32 && s.fab.addr.isSome && s.held (relRoutePosition g) = s.pos then
      dropDependent source off (relRouteRemote g) .immediate s else s) s

/-- Write the register at `off`: every field in turn, then the dependent fields. -/
def writeFields (source : Nat) (blob : Bool) (off w : Nat) (s : State) : State :=
  dependents source off ((fieldsAt off).foldl (writeField source blob off w) s)

/-- Does R4 take some part of a write of the register at `off` (so that it makes an audit entry, R339)? A write-only field counts as
taken whatever is written to it, also where every RWL field of the register is dropped (log 150, DESIGN CHOICE). -/
def writeTaken (s : State) (off : Nat) : Bool :=
  (fieldsAt off).any (fun r => match r.acc with
    | .ro => false
    | .rw | .wo | .w1c => true
    | .rwl => rwlOpen s r)

/-- Bring every field of one timing class into force (R441). -/
def applyTiming (t : Timing) (s : State) : State :=
  (fieldTable.filter (fun r => r.isConfig && r.timing == t)).foldl (fun s r =>
    r.offsets.foldl (fun s off => s.setForce (r.fld off) (s.held (r.fld off))) s) s

/-! ### Profiles (01 R20, R21) -/

/-- The eleven bundle fields and their values in REACH, PACE, SPARE and EXACT. -/
def bundle : List (Fld × Timing × List Nat) :=
  [ (Reg.lfDriveIpeak, .boundary, [1500, 1000, 600, 1000]),
    (Reg.lfPollInterval, .boundary, [500, 200, 2000, 250]),
    (Reg.lfPollPair, .boundary, [2, 2, 1, 2]),
    (Reg.autCtxCount, .boundary, [8, 16, 4, 8]),
    (Reg.uwbPhyPsr, .boundary, [3, 0, 0, 1]),
    (Reg.uwbPhyStscfg, .boundary, [1, 3, 3, 1]),
    (Reg.uwbRangeAvg, .boundary, [1, 1, 1, 8]),
    (Reg.prxAoaMode, .boundary, [0, 0, 0, 1]),
    (Reg.prxBoundRounds, .boundary, [64, 64, 32, 64]),
    (Reg.prxBoundErrmax, .boundary, [2, 2, 1, 2]),
    (Reg.pwrIdleRung, .boundary, [1, 1, 2, 1]) ]

/-- The rows of the register table that hold a field. -/
def specOf (f : Fld) : Option FieldSpec := (fieldsAt (f.key / 32)).find? (fun r => r.lsb == f.key % 32)

/-- A value under the clamp of its field (R5). -/
def clampOf (s : State) (f : Fld) (x : Nat) : Nat :=
  match specOf f with
  | some r => clampValue s r (f.key / 32) x
  | none => x

/-- The values that a selection of profile `p` sets in the bundle fields now: the profile's own, each under its field's clamp. -/
def bundleValues (s : State) (p : Nat) : List Nat := bundle.map (fun e => clampOf s e.1 (nth 0 e.2.2 p))

/-- Some bundle field as held differs from the value that the latest selection of PROFILE set in it (SYS_PROFILE.MODIFIED;
R441: 'as a profile selection set it'). -/
def profileModified (s : State) : Bool :=
  (bundle.zip s.hif.profileSet).any (fun e => s.held e.1.1 != e.2)

/-- The profile's values as they stand are taken for those its selection set: at a start, where the selection itself is not
recorded (DESIGN CHOICE, log 109). -/
def noteProfile (s : State) : State :=
  { s with hif := { s.hif with profileSet := bundleValues s (s.held Reg.sysProfileProfile) } }

/-- One bundle field takes the value of a selection, with a clamp entry where its own clamp changes the profile's; an older blob
leaves its one entry alone (12 R333). -/
def bundleField (source p : Nat) (s : State) (e : Fld × Timing × List Nat) : State :=
  let x := nth 0 e.2.2 p
  let a := clampOf s e.1 x
  let s := if a ≠ x && source != 3 then clampReport s (e.1.key / 32) (e.1.key % 32) e.1.width x a source else s
  storeField s e.1 e.2.1 a

/-- Select a profile: all eleven bundle fields are written with the profile's values, each under its own clamp (R21, R5), and
none is modified. A PROFILE above 3 applies the value held, with a clamp report entry. -/
def selectProfile (source v : Nat) (s : State) : State :=
  let p := if 3 < v then s.held Reg.sysProfileProfile else v
  let s := if p ≠ v then clampReport s 0x0040 0 4 v p source else s
  let s := (storeField s Reg.sysProfileProfile .boundary p).setStat Reg.sysProfilePending 1
  noteProfile (bundle.foldl (bundleField source p) s)

/-- The default of a field: the Reset column, which for the duty caps and the UWB level is the record's own limit (03 R69; 05
R140). -/
def defaultOf (s : State) (r : FieldSpec) : Nat :=
  match r.clamp with
  | .limit .lfDutyChan => (limitRange s .lfDutyChan).2
  | .limit .lfDutyArray => (limitRange s .lfDutyArray).2
  | .limit .uwbLevel => (limitRange s .uwbLevel).1
  | _ => r.dflt

/-! ### A record comes into force (R132) -/

/-- Bring one field within its new limit, with a clamp report entry and an audit entry. -/
def clampToRecord (s : State) (f : Fld) (l : Limit) : State :=
  let (lo, hi) := limitRange s l
  let v := s.held f
  let a := if v < lo then lo else if hi < v then hi else v
  if a = v then s
  else
    let s := clampReport s (f.key / 32) (f.key % 32) f.width v a 2
    let s := ((s.setHeld f a).setForce f a)
    audit { s with hif := { s.hif with cfgChanged := true } } 0x04 0 0 0 (f.key / 32) v a 0

/-- REGREC_TAKE_EFFECT: the accepted record is in force, and every field that it bounds is within it. The NO_REGREC that stood set
while there was none stays set until it is cleared (R131). -/
def recordTakesEffect (s : State) : State :=
  match s.rad.regPending with
  | none => s
  | some b =>
    let s := if s.rad.regRec.isNone then s.raise Reg.sgrFaultNoRegrec else s
    let s := { s with rad := { s.rad with regRec := some b, regPending := none } }
    let s := clampToRecord s Reg.lfDriveIpeak .lfIpeak
    let s := clampToRecord s Reg.lfCarrierFreq .lfFreq
    let s := clampToRecord s Reg.lfDutyCapChan .lfDutyChan
    let s := clampToRecord s Reg.lfDutyCapArray .lfDutyArray
    let s := clampToRecord s Reg.tpxDriveIpeak .tpxIpeak
    let s := clampToRecord s Reg.sgrPaPower .sgrPower
    clampToRecord s Reg.uwbTxpwrLevel .uwbLevel

end Sys2Proof.Machine
end

