-- ==== Sys2Proof/Machine/StoreOps.lean ====
section
/-! DEFINITION. The Laurel store as areas of sectors and records: where a record goes, what is reclaimed, which record of a
key stands, and the queue of requests that SE12 serves (13_laurel_store.md R348-R366). -/
namespace Sys2Proof.Machine

/-! ### Areas (R348, R350, R351) -/

/-- Place of an area in the mask order of R368. -/
def Area.idx : Area → Nat
  | .critA => 0
  | .critB => 1
  | .meter => 2
  | .state => 3
  | .receipt => 4
  | .audit => 5

/-- The areas in mask order. -/
def allAreas : List Area := [.critA, .critB, .meter, .state, .receipt, .audit]

/-- Area codes of R348. -/
def Area.code : Area → Nat
  | .critA => 0x01
  | .critB => 0x02
  | .meter => 0x10
  | .state => 0x11
  | .receipt => 0x12
  | .audit => 0x13

/-- Sectors of an area (R348). -/
def Area.sectors : Area → Nat
  | .critA => 256
  | .critB => 256
  | .meter => 22
  | .state => 16
  | .receipt => 36
  | .audit => 54

/-- Bytes of a sector, and of the two flashes: 128 sectors of data flash, 1,024 of code flash (R348). -/
def sectorBytes : Nat := 4096
/-- Data flash. -/
def dataFlashBytes : Nat := 128 * sectorBytes
/-- Code flash. -/
def codeFlashBytes : Nat := 1024 * sectorBytes

/-- Sectors of the resident loader, at 0 of code flash, and of the image region behind it (R348). -/
def loaderSectors : Nat := 32
/-- The image region. -/
def imageSectors : Nat := 480

/-- The first sector of an area in its flash (R348). -/
def Area.firstSector : Area → Nat
  | .critA => loaderSectors + imageSectors
  | .critB => loaderSectors + imageSectors + 256
  | .meter => 0
  | .state => 22
  | .receipt => 38
  | .audit => 74

/-- The address of sector `k` of an area within its flash. -/
def Area.address (a : Area) (k : Nat) : Nat := (a.firstSector + k) * sectorBytes

/-- The area lies in code flash. -/
def Area.inCode : Area → Bool
  | .critA | .critB => true
  | .meter | .state | .receipt | .audit => false

/-- Bookkeeping of an area. -/
def State.area (s : State) (a : Area) : AreaState := tblGet AreaState.reset s.nvs.areas a.idx

/-- Replace the bookkeeping of an area. -/
def State.setArea (s : State) (a : Area) (v : AreaState) : State :=
  { s with nvs := { s.nvs with areas := tblPut AreaState.reset s.nvs.areas a.idx v } }

/-- Formatted free sectors of an area. -/
def freeSectors (a : Area) (v : AreaState) : Nat := a.sectors - 1 - v.taken

/-- The oldest sector that is not free: the one erased next, or the one being erased. -/
def oldestSector (a : Area) (v : AreaState) : Nat := (v.writeSector + 1 + freeSectors a v) % a.sectors

/-- Formatted free sectors below which the oldest sector is reclaimed (R351). -/
def reclaimBelow : Area → Nat
  | .critA | .critB | .state => 2
  | .meter | .receipt | .audit => 1

/-! ### Records (R352, R353) -/

/-- Bytes a record takes: 16 + length, rounded up to a multiple of 4. -/
def footprint (len : Nat) : Nat := (16 + len + 3) / 4 * 4

/-- The record lies in a sector that is marked ERASING or does not count as formatted (R350). -/
def inErasing (s : State) (r : StoredRec) : Bool :=
  let v := s.area r.area
  (v.erasing && r.sector == oldestSector r.area v) || v.erase.contains r.sector || v.unformatted.contains r.sector

/-- The record lies behind one whose header check fails, which ends the readable part of the sector (R353). -/
def beyondReadable (s : State) (r : StoredRec) : Bool :=
  s.nvs.recs.any (fun x => !x.headOk && x.area == r.area && x.sector == r.sector && decide (x.offset < r.offset))

/-- The record is valid (R353). -/
def recValid (s : State) (r : StoredRec) : Bool :=
  r.committed && r.headOk && r.checks && !inErasing s r && !beyondReadable s r

/-- Valid records of a key. -/
def recsOf (s : State) (key : Nat) : List StoredRec := s.nvs.recs.filter (fun r => r.key == key && recValid s r)

/-- The highest sequence among records. -/
def topSeq (l : List StoredRec) : Nat := l.foldl (fun m r => max m r.seq) 0

/-- The record that stands among valid records of one key (R355): the highest sequence; between equals copy B, then the
later in ring order. The list is in the order of programming. -/
def chooseStanding (l : List StoredRec) : Option StoredRec :=
  let top := l.filter (fun r => r.seq == topSeq l)
  match (top.filter (fun r => r.area == .critB)).getLast? with
  | some r => some r
  | none => top.getLast?

/-- Two records share the highest sequence and differ in their data (R355 step 3). -/
def standingTie (l : List StoredRec) : Bool :=
  let top := l.filter (fun r => r.seq == topSeq l)
  match top with
  | [] => false
  | r :: rest => rest.any (fun x => x.data != r.data || x.delete != r.delete)

/-- The data that stands for a key; none where the key is absent. -/
def standing (s : State) (key : Nat) : Option RecData :=
  match chooseStanding (recsOf s key) with
  | some r => if r.delete then none else some r.data
  | none => none

/-- The generation a set member names. -/
def RecData.gen : RecData → Option Nat
  | .cfgHeader g _ _ => some g
  | .cfgPart g _ => some g
  | .hollyHeader g _ _ _ _ => some g
  | .hollyPart g _ => some g
  | _ => none

/-- The standing member of generation `g` with a key. -/
def setMember (s : State) (key g : Nat) : Option RecData :=
  (chooseStanding ((recsOf s key).filter (fun r => r.data.gen == some g))).map StoredRec.data

/-- The number of parts a set header names. -/
def RecData.parts : RecData → Nat
  | .cfgHeader _ n _ => n
  | .hollyHeader _ _ _ _ n => n
  | _ => 0

/-- Generations of the sets whose header key this is. -/
def setGens (s : State) (header : Nat) : List Nat :=
  ((recsOf s header).filterMap (fun r => r.data.gen)).foldl (fun acc g => if acc.contains g then acc else g :: acc) []

/-- A generation is complete: its header and all its parts are valid (R356). -/
def setComplete (s : State) (header g : Nat) : Bool :=
  match setMember s header g with
  | some h => (List.range h.parts).all (fun i => (setMember s (header + 1 + i) g).isSome)
  | none => false

/-- The highest complete generation that satisfies `p` of its header. -/
def highestSet (s : State) (header : Nat) (p : RecData → Bool) : Option Nat :=
  ((setGens s header).filter (fun g => setComplete s header g &&
    (match setMember s header g with
     | some h => p h
     | none => false))).foldl (fun m g => match m with
    | none => some g
    | some x => some (max x g)) none

/-- The parts of a generation, first first. -/
def setParts (s : State) (header g : Nat) : List RecData :=
  match setMember s header g with
  | some h => (List.range h.parts).filterMap (fun i => setMember s (header + 1 + i) g)
  | none => []

/-- Every member of generation `g` of a set is valid in both critical areas (R356). -/
def setInBoth (s : State) (header g : Nat) : Bool :=
  let has (key : Nat) (a : Area) : Bool := (recsOf s key).any (fun r => r.area == a && r.data.gen == some g)
  match setMember s header g with
  | some h => (List.range (h.parts + 1)).all (fun i => has (header + i) .critA && has (header + i) .critB)
  | none => false

/-- A member of generation `g` stays live until a higher generation is complete in both areas and in force (R356). -/
def genLive (s : State) (header inForce g : Nat) : Bool := decide (inForce ≤ g) || !setInBoth s header inForce

/-- Is the record still needed when its sector is reclaimed (R351, R356, R358)? -/
def recLive (s : State) (r : StoredRec) : Bool :=
  recValid s r &&
    match r.data with
    | .audit _ => false
    | .receipt n b => decide (s.mtr.rcptAck < n) && leAt b 12 2 = s.mtr.epoch
    | .cfgHeader g _ _ | .cfgPart g _ => genLive s 0x0001 s.nvs.cfgGen g
    | .hollyHeader g _ _ _ _ | .hollyPart g _ => genLive s 0x0060 s.aut.genInForce g
    | _ => r.seq == topSeq (recsOf s r.key)

/-! ### Writing (R351, R352, R358) -/

/-- An audit entry as 12 R340 lays it out. -/
def auditBytes (e : AuditEntry) : Bytes :=
  leBytes 4 e.seq ++ leBytes 4 e.rtc ++
    [BitVec.ofNat 8 e.source, BitVec.ofNat 8 e.ring, BitVec.ofNat 8 e.opcode, BitVec.ofNat 8 e.requester] ++
    leBytes 2 e.off ++ zeroBytes 2 ++ leBytes 4 e.before ++ leBytes 4 e.after ++ leBytes 8 e.detail

/-- Audit entries a record holds. -/
def RecData.auditCount : RecData → Nat
  | .audit l => l.length
  | _ => 0

/-- Close the write sector and go on in the next one. -/
def nextSector (a : Area) (v : AreaState) : AreaState :=
  let w := (v.writeSector + 1) % a.sectors
  { v with writeSector := w, fill := 16, taken := v.taken + 1, full := false, inUse := false, lap := if w = 0 then !v.lap else v.lap }

/-- The sector behind the write sector is formatted, free and not to be reclaimed. -/
def nextIsFree (a : Area) (v : AreaState) : Bool :=
  let w := (v.writeSector + 1) % a.sectors
  decide (0 < freeSectors a v) && !v.weak.contains w && !v.erase.contains w && !v.unformatted.contains w

/-- The area as it stands once `need` bytes fit into the write sector; none while no formatted free sector remains. -/
def areaFor (a : Area) (v : AreaState) (need : Nat) : Option AreaState :=
  if !v.full && v.fill + need ≤ 4096 then some v
  else if nextIsFree a v then some (nextSector a v)
  else none

/-- Append a record to its area as the area stands. -/
def appendRec (s : State) (v : AreaState) (r : StoredRec) (len : Nat) : State :=
  let t := { s with nvs := { s.nvs with
    recs := s.nvs.recs ++ [{ r with sector := v.writeSector, offset := v.fill, lap := v.lap }] } }
  t.setArea r.area { v with fill := v.fill + footprint len, full := !r.committed, inUse := true }

/-- Data bytes of a stored record, by its kind (R354). -/
def RecData.size : RecData → Nat
  | .cfgHeader _ _ _ => 8
  | .cfgPart _ cells => 4 + 8 * cells.length
  | .regRec b => b.length
  | .sealed _ => 68
  | .hollyHeader _ _ _ _ _ => 16
  | .hollyPart _ _ => 964
  | .checkpoint _ => 56
  | .session _ => 64
  | .lockout _ _ _ => 676
  | .unknown _ _ => 12
  | .ceilings _ _ => 516
  | .receiptState _ _ _ _ => 12
  | .rollup _ => 112
  | .pendingChecks l => 42 * l.length
  | .receipt _ _ => 112
  | .audit l => 32 * l.length
  | .host b => b.length
  | .cell _ _ => 8

/-- The valid records of the audit log in order of sequence, a scrub copy in place of its original. -/
def auditRecs (s : State) : List StoredRec :=
  (s.nvs.recs.filter (fun r => r.area == .audit && recValid s r)).foldl (fun acc r =>
    if acc.any (fun x => x.seq == r.seq) then acc else acc ++ [r]) []

/-- Audit entries in the log's valid records. -/
def auditStored (s : State) : Nat := ((auditRecs s).map (fun r => r.data.auditCount)).sum

/-- Entries the log holds: the 4,096 latest (12 R339). -/
def auditDepth : Nat := 4096

/-- Count audit entries that the log no longer holds (12 R339, R358). -/
def auditOverwritten (s : State) (n : Nat) : State :=
  s.setStat Reg.hifAuditOvr (satTo 32 (s.stat Reg.hifAuditOvr + n))

/-- Data bytes of a stored record; a deleted key has none. -/
def StoredRec.len (r : StoredRec) : Nat := if r.delete then 0 else r.data.size

/-- A RECEIPT sector that holds an unacknowledged receipt is not erased (R358). -/
def erasureBarred (s : State) (a : Area) (k : Nat) : Bool :=
  a == .receipt && s.nvs.recs.any (fun r => r.area == a && r.sector == k && recLive s r)

/-- The sector of an area that is to be reclaimed: the oldest while too few are free (R351), then one whose header reads weak
(R366). -/
def reclaimSector (s : State) (a : Area) : Option Nat :=
  let v := s.area a
  if v.erasing then none
  else if decide (freeSectors a v < reclaimBelow a) && !erasureBarred s a (oldestSector a v) then some (oldestSector a v)
  else v.weak.find? (fun k => !erasureBarred s a k)

/-- The record stands, unchanged in key, sequence and data, in another sector of its area. -/
def copiedForward (s : State) (r : StoredRec) : Bool :=
  s.nvs.recs.any (fun x => x.area == r.area && x.sector != r.sector && x.key == r.key && x.seq == r.seq &&
    x.delete == r.delete && x.data == r.data && recValid s x)

/-- A live record of a sector that has still to be copied forward before the sector is erased (R351). -/
def uncopied (s : State) (a : Area) (k : Nat) : Option StoredRec :=
  s.nvs.recs.find? (fun r => r.area == a && r.sector == k && recLive s r && !copiedForward s r)

/-- The next record that SE12 copies forward, of the first area in mask order that has one and room for it. -/
def nextCopy (s : State) : Option StoredRec :=
  allAreas.findSome? (fun a => ((reclaimSector s a).bind (uncopied s a)).filter (fun r =>
    (areaFor a (s.area a) (footprint r.len)).isSome))

/-- Sector `k` of an area is marked ERASING, its live records having been copied (R350). The entries that an AUDIT sector drops
are counted, but for those beyond the 4,096 latest, which have been (R358). -/
def markErasing (s : State) (a : Area) (k : Nat) : State :=
  let v := s.area a
  let weak := v.weak.filter (fun x => x != k)
  let t := s.setArea a
    (if k = oldestSector a v then { v with erasing := true, weak := weak } else { v with erase := v.erase ++ [k], weak := weak })
  if a == .audit then auditOverwritten t ((auditStored s - auditStored t) - (auditStored s - auditDepth)) else t

/-- Keep the formatted free sectors of R351: the sector to be reclaimed is marked once nothing of it has still to be copied. No
erase is started after a main supply failure (R362). -/
def keepFree (s : State) (a : Area) : State :=
  if s.nvs.failing then s
  else match reclaimSector s a with
    | some k => if (uncopied s a k).isNone then markErasing s a k else s
    | none => s

/-- A record has not read back: VERIFY (R352). -/
def verifyFailed (s : State) : State := (s.raise Reg.nvsFaultVerify).bump Reg.nvsStatVerifyFails

/-- Copy a record forward, unchanged in key, sequence and data (R351). A copy that does not read back stays uncommitted, its
sector is FULL, and VERIFY is set (R352). -/
def copyRecord (s : State) (r : StoredRec) (verifyOk : Bool) : State :=
  match areaFor r.area (s.area r.area) (footprint r.len) with
  | some v =>
    let t := appendRec s v { r with committed := verifyOk, headOk := verifyOk, checks := verifyOk } r.len
    keepFree (if verifyOk then t else verifyFailed t) r.area
  | none => s

/-- The highest sequence of a key among committed records of some area. -/
def topOf (s : State) (key : Nat) (p : StoredRec → Bool) : Nat :=
  topSeq (s.nvs.recs.filter (fun r => r.key == key && r.committed && p r))

/-- The sequence the next record of a key takes: one above the highest found (R352). -/
def nextRecSeq (s : State) (key : Nat) : Nat := topOf s key (fun _ => true) + 1

/-- The sequence of a record of a request: copy B of a critical record takes that of its copy A. -/
def itemSeq (s : State) (i : RecItem) : Nat :=
  if i.area == .critB then max 1 (topOf s i.key (fun r => r.area == .critA))
  else nextRecSeq s i.key

/-- Program one record, read it back and commit it. A record that does not read back stays uncommitted, its sector is FULL,
and VERIFY is set (R352). Answers none while the area has no room. -/
def programItem (s : State) (i : RecItem) (verifyOk : Bool) : Option State :=
  match areaFor i.area (s.area i.area) (footprint i.len) with
  | none => none
  | some v =>
    let r : StoredRec := ⟨i.area, 0, 0, false, i.key, itemSeq s i, i.delete, false, verifyOk, verifyOk, verifyOk, none, i.data⟩
    let t := keepFree (appendRec s v r i.len) i.area
    some (if verifyOk then t else verifyFailed t)

/-- Program a record until the power fails at byte `k` of it (R363): it stays uncommitted, and its sector is not FULL yet. -/
def cutItem (s : State) (i : RecItem) (k : Nat) : State :=
  match areaFor i.area (s.area i.area) (footprint i.len) with
  | none => s
  | some v =>
    let t := appendRec s v ⟨i.area, 0, 0, false, i.key, itemSeq s i, i.delete, false, false, decide (12 ≤ k), false, some k, i.data⟩ i.len
    t.setArea i.area { t.area i.area with full := false }

/-! ### Erase and reclamation (R350, R351, R359, R366) -/

/-- Erase count at which wear is reported (R359). -/
def wearLimit (a : Area) : Nat := if a.inCode then 8000 else 80000

/-- The highest erase count of an area. -/
def highestErase (s : State) (a : Area) : Nat := (s.area a).erases.foldl (fun m e => max m e.2) 0

/-- The erase of sector `k` is counted: one above its last count, or above the area's highest where that was lost with the erase,
as it is where the sector does not count as formatted (R350). At the limit WEAR is set with one event record. -/
def countErase (s : State) (a : Area) (k : Nat) : State :=
  let v := s.area a
  let n := (if v.unformatted.contains k then highestErase s a else tblGet 0 v.erases k) + 1
  let s := s.setArea a { v with erases := tblPut 0 v.erases k n }
  if n = wearLimit a then
    raiseEvent s Reg.nvsFaultWear blkNvs ([BitVec.ofNat 8 a.code, BitVec.ofNat 8 k, 0, 0] ++ leBytes 4 n)
  else s

/-- The records of a sector are gone. -/
def dropSector (s : State) (a : Area) (k : Nat) : State :=
  { s with nvs := { s.nvs with recs := s.nvs.recs.filter (fun r => !(r.area == a && r.sector == k)) } }

/-- The sector that is erased next: the oldest once it is marked, then one marked out of its turn, then one that does not count as
formatted. -/
def eraseTarget (v : AreaState) (a : Area) : Option Nat :=
  if v.erasing then some (oldestSector a v) else (v.erase ++ v.unformatted).head?

/-- The sector that is due is erased and formatted: its records are gone, its erase is counted. -/
def sectorErased (s : State) (a : Area) : State :=
  match eraseTarget (s.area a) a with
  | none => s
  | some k =>
    let s := countErase (dropSector s a k) a k
    let v := s.area a
    let other (x : Nat) : Bool := x != k
    let t := s.setArea a { v with
      erasing := false, taken := if v.erasing then v.taken - 1 else v.taken, weak := v.weak.filter other,
      erase := v.erase.filter other, unformatted := v.unformatted.filter other }
    keepFree { t with nvs := { t.nvs with repeatErase := t.nvs.repeatErase.filter (fun n => n != a.idx) } } a

/-- A sector whose header reads weak is to be reclaimed (R366); where it is the write sector, writing goes on in the next one.
Without a formatted free sector it is left to the next pass. -/
def reclaimWeak (s : State) (a : Area) (k : Nat) : State :=
  let v := s.area a
  let stays := k = v.writeSector && !nextIsFree a v
  if a.sectors ≤ k || v.weak.contains k || v.erase.contains k || v.unformatted.contains k || stays then s
  else
    let v := if k = v.writeSector then nextSector a v else v
    keepFree (s.setArea a { v with weak := v.weak ++ [k] }) a

/-! ### Requests (R19, R357, R360) -/

/-- Queue a request behind those waiting. -/
def nvRequest (s : State) (items : List RecItem) (eff : NvEffect) : State :=
  { s with nvs := { s.nvs with queue := s.nvs.queue ++ [⟨items, false, eff⟩] } }

/-- A critical record in both copies. -/
def critPair (key : Nat) (delete : Bool) (data : RecData) : List RecItem :=
  let n := if delete then 0 else data.size
  [⟨.critA, key, delete, n, data⟩, ⟨.critB, key, delete, n, data⟩]

/-- Critical records: every copy A in order, then every copy B (R357). -/
def critItems (l : List (Nat × Bool × RecData)) : List RecItem :=
  let copy (a : Area) : List RecItem :=
    l.map (fun e => ⟨a, e.1, e.2.1, if e.2.1 then 0 else e.2.2.size, e.2.2⟩)
  copy .critA ++ copy .critB

/-- A record of a data flash area. -/
def dataItem (a : Area) (key : Nat) (data : RecData) : RecItem := ⟨a, key, false, data.size, data⟩

/-- The ring whose command waits for a request; none for a request of the device itself. -/
def NvEffect.ring : NvEffect → Option Nat
  | .regRec _ _ => some 5
  | .slot _ _ _ _ _ => some 8
  | .lifeCycle _ _ => some 8
  | .holly _ _ _ => some 2
  | .learn _ _ => some 2
  | .unlock _ _ => some 2
  | .rollover _ _ => some 6
  | .ack t _ => if t.isSome then some 6 else Option.none
  | .counterCeiling t _ _ => if t.isSome then some 7 else Option.none
  | .hostWrite _ _ _ => some 9
  | .hostDelete _ _ _ => some 9
  | .import t _ => if t.isSome then some 10 else Option.none
  | .none | .config | .sessionCeiling _ | .startCeilings | .receipt _ _ | .audit _ | .checkpoint | .lockout => Option.none

/-- The tag of that command. -/
def NvEffect.tag : NvEffect → Nat
  | .regRec t _ => t
  | .slot t _ _ _ _ => t
  | .lifeCycle t _ => t
  | .holly t _ _ => t
  | .learn t _ => t
  | .unlock t _ => t
  | .rollover t _ => t
  | .ack t _ => t.getD 0
  | .counterCeiling t _ _ => t.getD 0
  | .hostWrite t _ _ => t
  | .hostDelete t _ _ => t
  | .import t _ => t.getD 0
  | .none | .config | .sessionCeiling _ | .startCeilings | .receipt _ _ | .audit _ | .checkpoint | .lockout => 0

/-- A request of the device itself that no chapter makes again: deferred, it waits behind the others (13 R360). -/
def NvEffect.keeps : NvEffect → Bool
  | .none | .startCeilings => true
  | .import t _ => t.isNone
  | _ => false

/-- A command of ring `n` waits for the store; an LC_ADVANCE also while receipts come before its wipes (07 R192). -/
def nvBusy (s : State) (n : Nat) : Bool :=
  s.nvs.queue.any (fun q => q.eff.ring == some n) || (n == 8 && s.cip.lcWaits.isSome)

/-- A request that satisfies `p` waits for the store. -/
def nvWaits (s : State) (p : NvEffect → Bool) : Bool := s.nvs.queue.any (fun q => p q.eff)

/-- In W2108 mode SE12 serves no request before the erases that the start found interrupted have been repeated (R367). -/
def storeWaits (s : State) : Bool := s.stat Reg.nvsStatusMode = 1 && !s.nvs.repeatErase.isEmpty

/-- An operation is deferred under the supply check (R360). -/
def noteDeferred (s : State) : State := (s.raise Reg.nvsFaultDeferred).bump Reg.nvsStatDefers

/-- A deferral of the record of this request: one of a checkpoint, a receipt or an acknowledgement also sets
MTR_FAULT.NV_DEFER (10 R267, R274). -/
def noteDeferredFor (e : NvEffect) (s : State) : State :=
  let s := noteDeferred s
  match e with
  | .checkpoint | .receipt _ _ | .ack _ _ => s.raise Reg.mtrFaultNvDefer
  | _ => s

/-- A ring command that needs a record: refused while NVWP is asserted where `protected_` says so (R365), else `f` makes its
request. One command of a ring at a time changes what the store keeps: a further one is taken up when the first has
completed (DESIGN CHOICE, log 23). -/
def changeCmd (n : Nat) (d : Desc) (protected_ : Bool) (f : State → State) (s : State) : State :=
  if protected_ && s.nvwp then complete s n d.tag stWriteProtected 0
  else if nvBusy s n then s
  else f s

/-! ### Numbers the store reports -/

/-- The bytes of a host record that stands; none where the key is absent (R368). -/
def hostRecord (s : State) (key : Nat) : Option Bytes :=
  match standing s key with
  | some (.host b) => some b
  | _ => none

end Sys2Proof.Machine
end

