-- ==== Sys2Proof/Machine/KeyOps.lean ====
section
/-! DEFINITION. The key store as every user meets it: slots and their words, the order of checks of R185, the roles of R184 and
the working key register of R166 (07_cipher_and_keys.md). -/
namespace Sys2Proof.Machine

/-! ### Slots (R182, R198) -/

/-- Slot `n`. -/
def State.slot (s : State) (n : Nat) : KeySlot := tblGet KeySlot.empty s.cip.slots n

/-- Replace slot `n`. A write of the loaded slot makes the working key stale (R166). -/
def State.setSlot (s : State) (n : Nat) (k : KeySlot) : State :=
  { s with cip := { s.cip with
      slots := tblPut KeySlot.empty s.cip.slots n k, stale := s.cip.stale || s.cip.loaded == some n } }

/-- Bits of USAGE. -/
def useEnc : Nat := 0
/-- DEC. -/
def useDec : Nat := 1
/-- DERIVE. -/
def useDerive : Nat := 2

/-- KEK of an ATTR word. -/
def attrKek (w : Nat) : Bool := bitAt w 3
/-- SIZE. -/
def attrSize (w : Nat) : Nat := bitField w 4 2
/-- WORLD is secure. -/
def attrSecure (w : Nat) : Bool := bitAt w 6
/-- OCC. -/
def attrOcc (w : Nat) : Bool := bitAt w 7
/-- ROLE. -/
def attrRole (w : Nat) : Nat := bitField w 8 4
/-- LCMASK. -/
def attrLcmask (w : Nat) : Nat := bitField w 12 5

/-- The value of a slot: value xor mask, with its mask. -/
def KeySlot.value (k : KeySlot) : Nat := (k.masked ^^^ k.mask).toNat

/-- The key of a slot: its leading bytes by SIZE (R182). -/
def KeySlot.key (k : KeySlot) : Bytes := (beBytes 32 k.value).take (16 + 8 * attrSize k.attr)

/-- A slot holding a 32-byte value under a fresh mask from the nonce service (R176, R182). -/
def maskedSlot (s : State) (value attr master : Nat) : KeySlot × State :=
  let (m, s) := s.drawMask
  (⟨BitVec.ofNat 256 value ^^^ m, m, setBit attr 7, master⟩, s)

/-! ### Checks (R185) -/

/-- Checks 1 to 4 of R185 for a requester's bit of the master mask, in the secure world or not. -/
def slotVisible (s : State) (n req : Nat) (secure : Bool) : Bool :=
  let k := s.slot n
  attrOcc k.attr && bitAt (attrLcmask k.attr) s.cip.lifeCycle.code && bitAt k.master req && (!attrSecure k.attr || secure)

/-- Checks 1 to 5 of R185 for a use other than an unwrap. -/
def slotPermits (s : State) (n req : Nat) (secure : Bool) (use : Nat) : Bool :=
  slotVisible s n req secure && !attrKek (s.slot n).attr && bitAt (s.slot n).attr use

/-- Checks 1 to 5 of R185 for an unwrap into a slot: KEK = 1 and DEC. -/
def slotUnwraps (s : State) (n req : Nat) (secure : Bool) : Bool :=
  slotVisible s n req secure && attrKek (s.slot n).attr && bitAt (s.slot n).attr useDec

/-- HOST may see slot `n` (R198). -/
def hostSees (s : State) (n : Nat) : Bool := slotVisible s n reqHost false

/-- The role codes of KEY_ATTR. -/
def roleMaster : Nat := 4
/-- FABRIC. -/
def roleFabric : Nat := 5
/-- RECEIPT. -/
def roleReceipt : Nat := 6

/-- The slot among 4-63 that holds a role (R184). -/
def findRole (s : State) (role : Nat) : Option Nat :=
  ((List.range 64).drop 4).find? (fun n => attrOcc (s.slot n).attr && attrRole (s.slot n).attr == role)

/-- The slot of a role that engine SE`e` may use; its bit of the master mask is e + 1 and it runs in the secure world
(R183, R187). -/
def engineSlot (s : State) (role e use : Nat) : Option Nat :=
  match findRole s role with
  | some n => if slotPermits s n (e + 1) true use then some n else none
  | none => none

/-- APP may use the attestation slot for a MAC of its own (R183). -/
def attestUsable (s : State) : Bool := slotPermits s 1 0 true useEnc

/-! ### The working key register (R166) -/

/-- The key of slot `n` goes into the working key register under a fresh mask; it is not formed in clear (R166, R188). -/
def loadWorkingKey (s : State) (n : Nat) : State :=
  let k := s.slot n
  let (m, s) := s.drawMask
  { s with cip := { s.cip with loaded := some n, stale := false, workMasked := k.masked ^^^ (k.mask ^^^ m), workMask := m } }

/-- Slot `n` takes a fresh mask; its key is not formed in clear (R188). -/
def remaskSlot (s : State) (n : Nat) : State :=
  let k := s.slot n
  let (m, s) := s.drawMask
  { s with cip := { s.cip with
    slots := tblPut KeySlot.empty s.cip.slots n { k with masked := k.masked ^^^ (k.mask ^^^ m), mask := m },
    restMasks := clearBit s.cip.restMasks n } }

/-- A slot that has not been re-masked since the exit from BUD or TWIG is, before this first use of it (15 R396). -/
def maskedForUse (s : State) (n : Nat) : State := s.when (bitAt s.cip.restMasks n) fun s => remaskSlot s n

/-- A job under slot `n` is granted: the register is reloaded if it holds another slot or a stale one. -/
def useSlot (s : State) (n : Nat) : State :=
  let s := maskedForUse s n
  if s.cip.loaded == some n && !s.cip.stale then s
  else
    let t := loadWorkingKey s n
    t.setStat Reg.cipReloads ((t.stat Reg.cipReloads + 1) % 2 ^ 32)

/-- Clear the working key register. -/
def clearWorkingKey (s : State) : State :=
  { s with cip := { s.cip with loaded := none, stale := false, workMasked := 0, workMask := 0 } }

/-- Privet masking pauses at BUD and TWIG: after the exit the pass begins at slot 0, and each slot is re-masked before its first
use (15 R396). -/
def maskingPauses (s : State) : State := { s with cip := { s.cip with remask := 0, restMasks := 2 ^ 64 - 1 } }

/-- The full 16-byte CMAC of a slot's key, with the job noted. -/
def slotCmac (s : State) (n : Nat) (msg : Bytes) : Bytes × State := (cmac (s.slot n).key msg, useSlot s n)

/-- The authorisation MAC of R193, R278 and R400: CMAC under slot 1 of a label, the device identifier and further bytes. -/
def authMac (s : State) (label : Nat) (rest : Bytes) : Bytes :=
  cmac (s.slot 1).key ([BitVec.ofNat 8 label] ++ beBytes 8 s.cip.deviceId ++ rest)

/-- APP has computed an authorisation MAC, where it had a nonce for it and may use the slot (R166, R183). -/
def authJob (nonceHeld : Bool) (s : State) : State := if nonceHeld && attestUsable s then useSlot s 1 else s

/-! ### Sealed copies (R182; 13 R354) -/

/-- The plaintext of a sealed copy: value, ATTR word and master mask (order DESIGN CHOICE, log 123). -/
def sealedBody (k : KeySlot) : Bytes := beBytes 32 k.value ++ leBytes 4 k.attr ++ leBytes 4 k.master

/-- The sealed copy of a slot: a GCM IV from the nonce service, the ciphertext under slot 2, and the tag. -/
def sealSlot (s : State) (k : KeySlot) : Bytes × State :=
  let (v, s) := (useSlot s 2).draw
  let iv := (beBytes 16 v).take 12
  let ct := gcmStream (s.slot 2).key iv (sealedBody k)
  (iv ++ ct ++ gcmTag (s.slot 2).key iv [] ct, s)

/-- What a sealed copy holds, in the order of sealedBody; none where its tag fails. -/
def unsealed (s : State) (b : Bytes) : Option Bytes :=
  let iv := slice b 0 12
  let ct := slice b 12 40
  if gcmTag (s.slot 2).key iv [] ct == b.drop 52 then some (gcmStream (s.slot 2).key iv ct) else none

/-- Key of the sealed copy of slot `n`. -/
def slotRecKey (n : Nat) : Nat := 0x20 + n

/-! ### Re-masking (R188, R189) -/

/-- The slots that a transition wipes: the customer slots at RETURNED, every slot at SCRAPPED. -/
def wipedSlots (target : Nat) : List Nat :=
  if target = 3 then (List.range 64).drop 4 else if target = 4 then List.range 64 else []

/-- A request that writes slot `n` waits for SE12 (R189). -/
def slotBeingWritten (s : State) (n : Nat) : Bool :=
  nvWaits s (fun e => match e with
    | .slot _ _ m _ _ => m == n
    | .lifeCycle _ target => (wipedSlots target).contains n
    | _ => false)

/-- The re-maskings that waited for a write run once no write of their slot waits (R189). -/
def remasksLate (s : State) : State :=
  let ready := s.cip.remaskDue.filter (fun n => !slotBeingWritten s n)
  ready.foldl remaskSlot
    { s with cip := { s.cip with remaskDue := s.cip.remaskDue.filter (fun n => slotBeingWritten s n) } }

/-- Ks and the other keys of a context are 16-byte values held as numbers. -/
def key16 (k : Nat) : Bytes := beBytes 16 k

/-- The 8 most significant bytes of a CMAC, as a number. -/
def mac8 (key msg : Bytes) : Nat := beNat ((cmac key msg).take 8)

end Sys2Proof.Machine
end

