-- ==== Sys2Proof/Machine/HollyOps.lean ====
section
/-! DEFINITION. The Holly table as the paths of a release meet it: lookup, validity, Kt and Ks, the Thorn lock-out and its
records (08_tokens_and_challenge.md R199-R226). -/
namespace Sys2Proof.Machine

/-! ### The table (R210, R212) -/

/-- Slots of a mode. -/
def modeSlots (individual : Bool) : Nat := if individual then 128 else 2048

/-- Slot `i` of the table in force. -/
def holly (s : State) (i : Nat) : HollySlot := tblGet HollySlot.empty s.aut.table.slots i

/-- The slot of a set that holds an identifier; the identifier 0 marks an empty slot. -/
def findInSet (slots : Tbl HollySlot) (id : Nat) : Option Nat :=
  if id = 0 then none else (slots.find? (fun e => e.2.id == id)).map Prod.fst

/-- The slot of the table in force that holds an identifier. -/
def findHolly (s : State) (id : Nat) : Option Nat := findInSet s.aut.table.slots id

/-- Occupied slots. -/
def slotsUsed (s : State) : Nat := s.aut.table.slots.length

/-- The fabric reports one segment and at most 16 positions in use (R212; 11 R290). -/
def individualPermitted (s : State) : Bool := segmentCount s = 1 && decide (popCount 64 (inuseMask s) ≤ 16)

/-- The fabric reports more than one segment, or more than 16 positions (R212). -/
def beyondIndividual (s : State) : Bool := decide (1 < segmentCount s) || decide (16 < popCount 64 (inuseMask s))

/-- A Quickset set has been committed and awaits its time. -/
def quicksetAwaits (s : State) : Bool :=
  match s.aut.pendingSet with
  | some h => !h.individual
  | none => false

/-- Note that the fabric no longer permits the individual mode in force (R212), until a Quickset set has been committed. -/
def noteModeConflict (s : State) : State :=
  if s.aut.table.individual && beyondIndividual s && !quicksetAwaits s then
    { s with aut := { s.aut with modeConflict := true } }
  else s

/-- R213: the table may be changed or read by HOST. -/
def hollyPermits (s : State) : Bool :=
  (s.cip.lifeCycle == .provisioned || s.cip.lifeCycle == .field) && hostSees s 3 && attrRole (s.slot 3).attr == 7

/-- R33 check 3, with R224 while the RTC has not been set since its loss. -/
def slotValidNow (s : State) (h : HollySlot) : Bool :=
  if s.rtcSet then decide (h.validFrom ≤ s.rtc) && decide (s.rtc ≤ h.validUntil)
  else h.validFrom = 0 && h.validUntil = 0xFFFFFFFF

/-! ### Lock-outs (R220-R224) -/

/-- Lock-out state of slot `i`. -/
def lockOf (s : State) (i : Nat) : LockState := tblGet LockState.zero s.aut.locks i

/-- Replace the lock-out state of slot `i`. -/
def setLock (s : State) (i : Nat) (l : LockState) : State :=
  { s with aut := { s.aut with locks := tblPut LockState.zero s.aut.locks i l, locksChanged := true } }

/-- Slot `i` is locked now. -/
def slotLocked (s : State) (i : Nat) : Bool := s.aut.heldLocks.contains i || decide (s.rtc < (lockOf s i).lockEnd)

/-- The lock of R223 is in force. -/
def unknownLocked (s : State) : Bool := s.aut.heldUnknown || decide (s.rtc < s.aut.unknown.lockEnd)

/-- Slots of one lock-out record: Holly part `p`. -/
def lockPart (s : State) (p : Nat) : Tbl LockState := s.aut.locks.filter (fun e => e.1 / 48 == p)

/-- The records of lock-out state that differ from what stands in the store (R224). -/
def lockItems (s : State) : List RecItem :=
  let g := s.aut.genInForce
  let parts := (List.range 43).filter (fun p =>
    match standing s (0x0110 + p) with
    | some (.lockout g' _ l) => g' != g || l != lockPart s p
    | _ => !(lockPart s p).isEmpty)
  let u := match standing s 0x013F with
    | some (.unknown _ v) => v != s.aut.unknown
    | _ => s.aut.unknown != UnknownState.zero
  parts.map (fun p => dataItem .state (0x0110 + p) (.lockout g s.rtc (lockPart s p))) ++
    (if u then [dataItem .state 0x013F (.unknown s.rtc s.aut.unknown)] else [])

/-- Request a checkpoint of the lock-out state from SE12; one that has not begun takes the state as it then stands. -/
def requestLockCheckpoint (s : State) : State :=
  let items := lockItems s
  if items.isEmpty || s.nvs.queue.any (fun q => q.eff == .lockout && !q.started) then s else nvRequest s items .lockout

/-- A lock-out has started: counted, reported on ring 11, and requested of SE12 at once. -/
def lockoutStarted (s : State) (id lockEnd : Nat) : State :=
  requestLockCheckpoint (event (s.bump Reg.autStat1Lockouts) blkAut 0x20 (leBytes 8 id ++ leBytes 4 lockEnd))

/-- The update of R221 at second `t`; true where a lock-out starts. -/
def lockStep (l : LockState) (t : Nat) : LockState × Bool :=
  let l := if l.fails = 0 || l.wstart + 600 ≤ t then { l with wstart := t, fails := 1 }
    else { l with fails := min (l.fails + 1) 255 }
  if 5 ≤ l.fails then
    let level := if 0 < l.level && t < l.lockStart + 86400 then min (l.level + 1) 255 else 1
    ({ l with level := level, lockStart := t, lockEnd := satTo 32 (t + 120 * 2 ^ (min level 5 - 1)), fails := 0 }, true)
  else (l, false)

/-- The update of R223 at second `t`; true where its lock starts. -/
def unknownStep (u : UnknownState) (t : Nat) : UnknownState × Bool :=
  let u := if u.fails = 0 || u.wstart + 600 ≤ t then { u with wstart := t, fails := 1 }
    else { u with fails := min (u.fails + 1) 255 }
  if 20 ≤ u.fails then ({ u with lockEnd := satTo 32 (t + 120), fails := 0 }, true) else (u, false)

/-- A counted failure of an identifier (R220-R223): charged to its slot, or to the counter of unknown identifiers; not
counted while the lock concerned is in force (R222). -/
def thornFailure (s : State) (id : Nat) : State :=
  match findHolly s id with
  | some i =>
    if slotLocked s i then s
    else
      let (l, started) := lockStep (lockOf s i) s.rtc
      let s := setLock s i l
      if started then lockoutStarted s id l.lockEnd else s
  | none =>
    if unknownLocked s then s
    else
      let (u, started) := unknownStep s.aut.unknown s.rtc
      let s := { s with aut := { s.aut with unknown := u, locksChanged := true } }
      if started then lockoutStarted s 0 u.lockEnd else s

/-- The checks of R33 on an identifier: the outcome code that ends its context, if any. -/
def checkR33 (s : State) (id : Nat) : Option Nat :=
  match findHolly s id with
  | none => if unknownLocked s then some 0x07 else none
  | some i =>
    if slotLocked s i then some 0x07
    else if slotValidNow s (holly s i) then none else some 0x08

/-! ### Entries (R210) -/

/-- The slot that an entry of 32 bytes stands for. -/
def hollyOfEntry (b : Bytes) : HollySlot :=
  { id := leAt b 0 8, role := byteAt b 8, groups := byteAt b 9, zones := leAt b 10 2, validFrom := leAt b 12 4,
    validUntil := leAt b 16 4 }

/-- Bytes 0-19 of an entry keep their legal values. -/
def entryLegal (b : Bytes) : Bool :=
  let h := hollyOfEntry b
  h.id != 0 && 1 ≤ h.role && h.role ≤ 5 && h.groups < 4 && h.validFrom ≤ h.validUntil

/-- Bytes 0-19 of a slot. -/
def hollyBytes (h : HollySlot) : Bytes :=
  leBytes 8 h.id ++ [BitVec.ofNat 8 h.role, BitVec.ofNat 8 h.groups] ++ leBytes 2 h.zones ++ leBytes 4 h.validFrom ++
    leBytes 4 h.validUntil

/-- A slot as it is read back, with the lock-out state in force; an empty slot is zero. -/
def hollyRead (s : State) (i : Nat) : Bytes :=
  let l := lockOf s i
  if (holly s i).id = 0 then zeroBytes 32
  else hollyBytes (holly s i) ++ [BitVec.ofNat 8 l.fails, BitVec.ofNat 8 l.level, BitVec.ofNat 8 (bit (slotLocked s i)), 0] ++
    leBytes 4 l.lockEnd ++ leBytes 4 l.wstart

/-! ### The set as records (13 R354, R356) -/

/-- Parts of a set: as many as its highest slot asks for. -/
def setPartCount (h : HollySet) : Nat := h.slots.foldl (fun m e => max m (e.1 / 48 + 1)) 0

/-- The records of a set of this generation, parts before the header (13 R357). -/
def hollyItems (g : Nat) (h : HollySet) : List RecItem :=
  let n := setPartCount h
  critItems ((List.range n).map (fun p =>
      (0x0061 + p, false, RecData.hollyPart g (h.slots.filter (fun e => e.1 / 48 == p)))) ++
    [(0x0060, false, RecData.hollyHeader g h.epoch h.individual h.time n)])

/-- The highest generation of a set found in the store, be it of parts without their header yet. -/
def hollyGenFound (s : State) : Nat :=
  (s.nvs.recs.filter (fun r => 0x0060 ≤ r.key && r.key ≤ 0x008B && recValid s r)).foldl
    (fun m r => max m (r.data.gen.getD 0)) s.aut.gen

/-- The generation that a further set takes, behind those that wait for the store. -/
def nextHollyGen (s : State) : Nat := hollyGenFound s + 1 + s.nvs.queue.length

/-- A set takes the place of the table in force (R218, R219): identifiers in both keep their lock-out state. A Quickset set
ends MODE_CONFLICT (R212). -/
def tableReplaced (s : State) (h : HollySet) : State :=
  let moved := h.slots.foldl (fun (t : Tbl LockState) e =>
    match findHolly s e.2.id with
    | some i => tblPut LockState.zero t e.1 (lockOf s i)
    | none => t) []
  let held := (h.slots.filter (fun e => match findHolly s e.2.id with
    | some i => s.aut.heldLocks.contains i
    | none => false)).map Prod.fst
  let g := hollyGenFound s
  noteModeConflict { s with aut := { s.aut with
      table := h, gen := g, genInForce := g, locks := moved, heldLocks := held, locksChanged := true, pendingSet := none,
      modeConflict := s.aut.modeConflict && h.individual } }

/-- The Holly table, learns and lock-outs are erased (R214). -/
def hollyErased (s : State) : State :=
  let g := hollyGenFound s
  requestLockCheckpoint { s with aut := { s.aut with
    table := HollySet.empty, gen := g, genInForce := g, locks := [], heldLocks := [], heldUnknown := false,
    unknown := UnknownState.zero, learn := none, pendingSet := none, locksChanged := true, modeConflict := false } }

/-! ### Changes of the table (R212, R215-R217, R228) -/

/-- MODE_INVALID. -/
def stModeInvalid : Nat := 0x50
/-- LEARN_STATE. -/
def stLearnState : Nat := 0x51

/-- ENROLL and REVOKE may change the table (R212, R227). -/
def individualOpen (s : State) : Bool := s.aut.table.individual && !s.aut.modeConflict

/-- The lowest empty slot of the individual table. -/
def emptySlot (s : State) : Option Nat := (List.range (modeSlots true)).find? (fun i => (holly s i).id = 0)

/-- What ENROLL, REVOKE or the LEARN_CANCEL of a committed set makes of the table in force: the status and the result of the
command, and the set to write, if any. -/
def hollyEdit (s : State) (op : Nat) (h : HollySlot) : Nat × Nat × Option HollySet :=
  let with_ (slots : Tbl HollySlot) : Option HollySet := some { s.aut.table with slots := slots, time := 0 }
  if op = 8 then (if s.aut.pendingSet.isSome then (stOk, 0, with_ s.aut.table.slots) else (stLearnState, 0, none))
  else if !individualOpen s then (stModeInvalid, 0, none)
  else if op = 1 then
    match findHolly s h.id, emptySlot s with
    | some i, _ => (stOk, i, with_ (tblPut HollySlot.empty s.aut.table.slots i h))
    | none, some i => (stOk, i, with_ (tblPut HollySlot.empty s.aut.table.slots i h))
    | none, none => (stTableFull, 0, none)
  else
    match findHolly s h.id with
    | some i => (stOk, 1, with_ (tblErase s.aut.table.slots i))
    | none => (stOk, 0, none)

/-- The records of such a change; a set that awaits its time is written again above it, unless it is cancelled. -/
def hollyEditItems (s : State) (op : Nat) (h : HollySlot) : List RecItem :=
  let g := nextHollyGen s
  match (hollyEdit s op h).2.2 with
  | some set => hollyItems g set ++ (match s.aut.pendingSet with
    | some p => if op = 8 then [] else hollyItems (g + 1) p
    | none => [])
  | none => []

/-- A write of the Holly table has begun and is not complete. -/
def hollyWriting (s : State) : Bool :=
  s.nvs.queue.any (fun q => q.started && (match q.eff with
    | .holly _ _ _ => true
    | _ => false))

/-! ### Keys (R199, R200, R202) -/

/-- The slot from which SE7 derives Kt; none under R202. -/
def masterSlot (s : State) : Option Nat := engineSlot s roleMaster 7 useDerive

/-- Kt of an identifier under an epoch (R199). -/
def deriveKt (s : State) (n id epoch : Nat) : Nat :=
  beNat (cmac (s.slot n).key ([0, 0, 0, 1, 0x54, 0x4B, 0] ++ beBytes 8 id ++ beBytes 4 epoch ++ [0, 0, 0, 0x80]))

/-- Ks of a context (R200). -/
def deriveKs (kt nd nt : Nat) : Nat :=
  beNat (cmac (key16 kt) ([0, 0, 0, 1, 0x53, 0x4B, 0] ++ beBytes 16 nd ++ beBytes 16 nt ++ [0, 0, 0, 0x80]))

/-- MACd of R207 or R81, with its label. -/
def macD (label kt nt nd addr : Nat) : Nat :=
  mac8 (key16 kt) ([BitVec.ofNat 8 label] ++ beBytes 16 nt ++ beBytes 16 nd ++ beBytes 2 addr)

/-- MACt of R207 or R81, with its label. -/
def macT (label kt nd nt id : Nat) : Nat :=
  mac8 (key16 kt) ([BitVec.ofNat 8 label] ++ beBytes 16 nd ++ beBytes 16 nt ++ beBytes 8 id)

end Sys2Proof.Machine
end

