-- ==== Sys2Proof/Machine/SchedOps.lean ====
section
/-! DEFINITION. The power ladder's rung as it stands, and the quiet-slot scheduler's queue with the SELFTEST and CALIBRATE
commands that wait on its tasks (15_power_and_supervision.md R394, R413, R417; 05_radios.md R119-R123). -/
namespace Sys2Proof.Machine

/-! ### The rung (15 R394) -/

/-- The command posts a host buffer that waits to be filled: an event, report, receipt or message buffer. -/
def postsBuffer (ring op : Nat) : Bool :=
  match ring with
  | 1 | 3 | 4 | 6 | 11 => op == 0x01
  | 12 | 15 => op == 0x02
  | _ => false

/-- A descriptor of ring `n` is being worked on, or still to be fetched on an enabled ring: a command from its fetch to its
completion, but for a posted buffer, which is no work while it waits (DEDUCED, log 29). -/
def ringWorks (n : Nat) (r : RingState) : Bool :=
  r.outstanding.any (fun o => !o.taken || o.past || !postsBuffer n o.desc.op) || (r.phase == .enabled && r.sqHead != r.sqTail)

/-- Work is in progress (R394). -/
def workNow (s : State) : Bool :=
  s.cyc.phase != .idle || !s.cyc.ctxs.isEmpty || s.tpx.phase != .off || s.rings.any (fun e => ringWorks e.1 e.2) ||
    [0, 1, 2, 3].any (fun c => !(s.queue 0 c).frames.isEmpty) || !s.nvs.queue.isEmpty || s.pwr.running.isSome ||
    s.lf.burst.isSome

/-- A floor of R394 at LEAF stands. -/
def floorLeaf (s : State) : Bool :=
  s.rel.sessions.any (fun e => e.2.phase != .free) || !s.rel.queue.isEmpty || !s.rel.waiting.isEmpty || s.on Reg.mtrCtrlEn

/-- The rung held while no work is in progress: 0 BLOOM, 1 LEAF, 2 BUD. -/
def restRung (s : State) : Nat := if floorLeaf s then min 1 (s.eff Reg.pwrIdleRung) else s.eff Reg.pwrIdleRung

/-- The rung occupied now, coded as PWR_STATUS.RUNG. -/
def rung (s : State) : Nat :=
  match s.pwr.deep with
  | some d => d
  | none => if workNow s then 0 else restRung s

/-- Where the sub-GHz transceiver rests between cycles: OFF at BUD and below, SLEEP above (05 R105). -/
def sgrRest (s : State) : SgrPhase := if 2 ≤ restRung s then .off else .sleep

/-- The sub-GHz transceiver goes to a state without transmitting or receiving. -/
def sgrIdleAt (s : State) (p : SgrPhase) : State :=
  { s with sgr := { s.sgr with
      phase := p, lock := s.sgr.lock && (p == .rx || p == .synth), held := false, trswTx := false, trswRx := p == .rx,
      paEn := false } }

/-! ### Tasks (R413) -/

/-- Task codes: the bits of SELFTEST's mask (R417; DEDUCED, log 33). -/
def TaskKind.code : TaskKind → Nat
  | .lfDiag => 0
  | .sgrCal => 1
  | .uwbCal => 2
  | .oscTrim => 3

/-- Duration of a task in µs: of a block, the sum of its calibrations (05 R119). -/
def taskDuration (t : Task) : Nat :=
  let d (n us : Nat) : Nat := if bitAt t.arg n then us else 0
  match t.kind with
  | .lfDiag => 600
  | .sgrCal => d 0 180 + d 1 1200 + d 2 400 + d 3 100
  | .uwbCal => d 4 600 + d 5 200
  | .oscTrim => 20

/-- The request is served by this waiting task: the same channel's diagnostic, or a block of the same radio (05 R121). -/
def taskServes (k : TaskKind) (arg : Nat) (t : Task) : Bool := t.kind == k && (k != .lfDiag || t.arg == arg)

/-- Request a task: it joins a waiting one that serves it, keeping the earlier deadline, or queues behind the others. `own` is what
of it is asked for by another than a CALIBRATE. -/
def requestTask (s : State) (k : TaskKind) (arg own wait : Nat) (selftests : List Nat) : State :=
  let due := s.now + wait
  let join (t : Task) : Task :=
    { t with arg := if k == .lfDiag then t.arg else t.arg ||| arg, own := if k == .lfDiag then t.own else t.own ||| own,
             deadline := min t.deadline due, selftests := t.selftests ++ selftests }
  { s with pwr := { s.pwr with
      tasks := if s.pwr.tasks.any (taskServes k arg) then updateFirst (taskServes k arg) join s.pwr.tasks
        else s.pwr.tasks ++ [⟨k, arg, due, selftests, own, false⟩] } }

/-- Request the calibrations of a mask of R136, each block with its radio's deadline (05 R121); `own` where the device itself asks. -/
def requestCals (s : State) (own : Bool) (mask : Nat) : State :=
  let o (m : Nat) : Nat := if own then m else 0
  let a := mask % 16
  let b := bitField mask 4 2 * 16
  let s := if a = 0 then s else requestTask s .sgrCal a (o a) (s.eff Reg.sgrCalDeadline) []
  let s := if b = 0 then s else requestTask s .uwbCal b (o b) (s.eff Reg.uwbCalDeadline) []
  if bitAt mask 6 then requestTask s .oscTrim 64 (o 64) (s.eff Reg.sgrCalDeadline) [] else s

/-- The device requests calibrations of itself (05 R120). -/
def requestCal (s : State) (mask : Nat) : State := requestCals s true mask

/-- The tasks in earliest-deadline order, those of one deadline in order of arrival. -/
def tasksByDeadline (s : State) : List Task := s.pwr.tasks.mergeSort (fun a b => decide (a.deadline ≤ b.deadline))

/-- Take a task off the queue. -/
def dropTask (s : State) (t : Task) : State :=
  { s with pwr := { s.pwr with tasks := removeFirst (fun x => x == t) s.pwr.tasks } }

/-! ### SELFTEST (R417) -/

/-- A SELFTEST whose last task has ended completes with the mask passed, TEST_FAILED if any failed. -/
def selftestDone (s : State) (t : SelfTest) : State :=
  complete { s with pwr := { s.pwr with selftests := s.pwr.selftests.filter (fun x => x.tag != t.tag) } } 13 t.tag
    (if t.passed = t.mask then stOk else 0x81) t.passed

/-- Note the end of a task of every SELFTEST that `f` changes, and complete those with nothing left. -/
def selftestNote (s : State) (f : SelfTest → SelfTest) : State :=
  let l := s.pwr.selftests.map f
  (l.filter (fun t => t.waiting = 0)).foldl selftestDone { s with pwr := { s.pwr with selftests := l } }

/-- A task of this SELFTEST bit has ended for these tags. -/
def selftestBit (s : State) (tags : List Nat) (b : Nat) (ok : Bool) : State :=
  selftestNote s (fun t =>
    if tags.contains t.tag && bitAt t.waiting b then
      { t with waiting := clearBit t.waiting b, passed := if ok then setBit t.passed b else t.passed }
    else t)

/-- The diagnostic of LF channel `c` has ended; with the last channel the LF bit has. -/
def selftestChan (s : State) (c : Nat) (ok : Bool) : State :=
  selftestNote s (fun t =>
    if bitAt t.channels c then
      let t := { t with channels := clearBit t.channels c, passed := if ok then t.passed else clearBit t.passed 0 }
      if t.channels = 0 then { t with waiting := clearBit t.waiting 0 } else t
    else t)

/-! ### CALIBRATE (05 R136) -/

/-- What the waiting CALIBRATEs ask for. -/
def calibratesWant (s : State) : Nat := s.sgr.calCmds.foldl (fun m c => m ||| c.2.1) 0

/-- A waiting task without what only CALIBRATEs that have been aborted asked for; none where nothing of it is left (05 R138). -/
def taskLeft (want : Nat) (t : Task) : Option Task :=
  if t.kind == .lfDiag then some t
  else
    let m := t.arg &&& (t.own ||| want)
    if m = 0 && t.selftests.isEmpty then none else some { t with arg := m }

/-- The waiting tasks without what only aborted CALIBRATEs asked for. The earliest deadline of a task that stays is kept (log 121). -/
def dropCalibrations (s : State) : State :=
  { s with pwr := { s.pwr with tasks := s.pwr.tasks.filterMap (taskLeft (calibratesWant s)) } }

/-- Calibrations of a mask have ended, those of `done` completed: a CALIBRATE with nothing left completes. -/
def calibrateNote (s : State) (mask done : Nat) : State :=
  let l := s.sgr.calCmds.map (fun (c : Nat × Nat × Nat) =>
    (c.1, clearBits c.2.1 mask, c.2.2 ||| (c.2.1 &&& mask &&& done)))
  (l.filter (fun c => c.2.1 = 0)).foldl (fun s c => complete s 5 c.1 stOk c.2.2)
    { s with sgr := { s.sgr with calCmds := l.filter (fun c => c.2.1 != 0) } }

end Sys2Proof.Machine
end

