-- ==== Sys2Proof/Machine/LfOps.lean ====
section
/-! DEFINITION. The LF array: which channels an entry names and what they read, resonance and carrier, duty accounting,
the start and the end of a wake pattern, and diagnostics (03_lf_field.md R50-R68, R440; 02_release_cycle.md R25-R29), with
the poll-cycle boundary (01 R22, 05 R132). -/
namespace Sys2Proof.Machine

/-! ### Channels (R61, R67, R68) -/

/-- LF_SCHEDn.PHASE by entry. -/
def lfSchedPhase (n : Nat) : Fld :=
  nth Reg.lfSched0Phase [Reg.lfSched0Phase, Reg.lfSched1Phase, Reg.lfSched2Phase, Reg.lfSched3Phase, Reg.lfSched4Phase,
    Reg.lfSched5Phase, Reg.lfSched6Phase, Reg.lfSched7Phase] n

/-- Two channels drive each pattern. -/
def lfPaired (s : State) : Bool := s.eff Reg.lfPollPair == 2

/-- The enabled entries, in ascending order. -/
def lfEntries (s : State) : List Nat := (List.range 8).filter (fun n => s.on (lfSchedEn n))

/-- Channel `c` is named by an enabled entry (R67). -/
def lfNamed (s : State) (c : Nat) : Bool :=
  (lfEntries s).any (fun n => s.eff (lfSchedCha n) == c || (lfPaired s && s.eff (lfSchedChb n) == c))

/-- Every channel named. -/
def lfNamedChans (s : State) : List Nat := (List.range 8).filter (lfNamed s)

/-- Channel `c`. -/
def State.chan (s : State) (c : Nat) : LfChan := tblGet LfChan.reset s.lf.chans c

/-- Replace channel `c`. -/
def State.setChan (s : State) (c : Nat) (v : LfChan) : State :=
  { s with lf := { s.lf with chans := tblPut LfChan.reset s.lf.chans c v } }

/-- A finding that disables the channel (R68). -/
def ChanBase.disabled : ChanBase → Bool
  | .openCircuit | .shortGnd | .shortVlf => true
  | .ok | .untested => false

/-- LF_CHAN_STATUS.STATE of channel `c`: DETUNED stands before CURRENT_LOW (R69). -/
def lfState (s : State) (c : Nat) : Nat :=
  if lfNamed s c then
    match (s.chan c).base with
    | .openCircuit => 1
    | .shortGnd => 2
    | .shortVlf => 3
    | .untested => 7
    | .ok => if (s.chan c).detuned then 4 else if (s.chan c).currentLow then 5 else 0
  else 6

/-- The states of all channels. -/
def lfStates (s : State) : List Nat := (List.range 8).map (lfState s)

/-- Report every change of a channel's state since `old`: an event record each, and its CHFAULT bit for a state other than
OK, UNUSED and UNTESTED (R68). The event is that bit's number (R416; DEDUCED, log 34). -/
def lfReport (old : List Nat) (s : State) : State :=
  (List.range 8).foldl (fun (s : State) c =>
    let n := lfState s c
    if n = nth 7 old c then s
    else
      let s := if n = 0 || n = 6 || n = 7 then s else s.raiseBit Reg.lfFaultChfault c
      event s blkLf c []) s

/-- A change of the array with its channel events. -/
def lfChange (s : State) (f : State → State) : State := lfReport (lfStates s) (f s)

/-- `res` lies more than `permille` thousandths from the set carrier. -/
def lfFar (s : State) (res permille : Nat) : Bool :=
  let f := s.eff Reg.lfCarrierFreq
  decide (permille * f < 1000 * (res - f)) || decide (permille * f < 1000 * (f - res))

/-- R56 on a channel's tracked resonance: beyond 4 % DETUNED, within 3.5 % no longer. -/
def retune (s : State) (v : LfChan) : LfChan :=
  if v.base == .ok && v.valid then
    { v with detuned := if lfFar s v.resonance 40 then true else if lfFar s v.resonance 35 then v.detuned else false }
  else v

/-- A measured resonance: the first since the start seeds the tracked one, a later one moves it by one quarter of the
difference, rounded to 10 Hz (R440); an exact half is rounded away from zero (DESIGN CHOICE, log 140). -/
def track (v : LfChan) (est : Nat) : LfChan :=
  if v.valid then { v with resonance := ((v.resonance : Int) + divRound ((est : Int) - v.resonance) 4).toNat }
  else { v with resonance := est, valid := true }

/-! ### The choice of channels and carrier (R55, R56, R61) -/

/-- A channel that may be driven. -/
def drivable (s : State) (c : Nat) : Bool := (s.chan c).base == .ok

/-- The channels on which an entry runs: both of a pair, or the one that is drivable. -/
def entryChans (s : State) (n : Nat) : Option (Nat × Option Nat) :=
  let a := s.eff (lfSchedCha n)
  let b := s.eff (lfSchedChb n)
  if lfPaired s then
    if drivable s a && drivable s b then some (a, some b)
    else if drivable s a then some (a, none)
    else if drivable s b then some (b, none)
    else none
  else if drivable s a then some (a, none) else none

/-- The entry of the next pattern: the next enabled one that can be used after the one used last, wrapping (R61). -/
def chooseEntry (s : State) : Option (Nat × Nat × Option Nat) :=
  let es := lfEntries s
  let turn := match s.lf.lastEntry with
    | some l => es.filter (fun n => decide (l < n)) ++ es.filter (fun n => decide (n ≤ l))
    | none => es
  (turn.filterMap (fun n => (entryChans s n).map (fun c => (n, c.1, c.2)))).head?

/-- The carrier of a pattern on these channels, in 10 Hz units (R55, R56). -/
def patternCarrier (s : State) (chans : List Nat) : Nat :=
  let f := s.eff Reg.lfCarrierFreq
  let sound := (chans.filter (fun c => (s.chan c).valid && !(s.chan c).detuned)).map (fun c => (s.chan c).resonance)
  if !s.on Reg.lfCtrlTrackEn then f
  else
    let g := if sound.isEmpty then f else sound.sum / sound.length
    let g := min (max g ((f * 96 + 99) / 100)) (f * 104 / 100)
    min (max g (recLimit s (fun b => leAt b 8 2) 10000)) (recLimit s (fun b => leAt b 10 2) 15000)

/-! ### Duty accounting (R63, R64, R66) -/

/-- Ticks an emission covers. -/
def ticksOf (len : Nat) : Nat := (len + 999) / 1000

/-- What a charge lays on ticks `lo` to `hi`: 1,000 µs to each tick and the remainder to the last. -/
def LfCharge.within (c : LfCharge) (lo hi : Nat) : Nat :=
  ((List.range (ticksOf c.len)).map (fun i =>
    if lo ≤ c.tick + i && c.tick + i ≤ hi then min 1000 (c.len - 1000 * i) else 0)).sum

/-- Sum of a channel's ring over ticks `lo` to `hi`; none is the array. -/
def lfUse (s : State) (c : Option Nat) (lo hi : Nat) : Nat :=
  ((s.lf.charges.filter (fun x => match c with
    | some n => bitAt x.chans n
    | none => true)).map (fun x => x.within lo hi)).sum

/-- Governor level: that of the die, and at least 2 while an NTC pin reads hot (15 R414, R415). -/
def govLevel (s : State) : Nat := if s.pwr.ntcHot = 0 then s.pwr.thermLevel else max 2 s.pwr.thermLevel

/-- The effective caps in µs: the lower of record and register, halved or quartered by the governor. -/
def lfCaps (s : State) : Nat × Nat :=
  let d := if 2 ≤ govLevel s then 4 else if govLevel s = 1 then 2 else 1
  (1000 * min (s.eff Reg.lfDutyCapChan) (recLimit s (fun b => byteAt b 14) 50) / d,
   1000 * min (s.eff Reg.lfDutyCapArray) (recLimit s (fun b => byteAt b 15) 100) / d)

/-- R64 permits an emission of this length on these channels now: the window of 1,000 ticks that ends with its last tick stays
within the caps, whatever an earlier emission has laid on any tick of it. -/
def lfDutyOk (s : State) (chans : List Nat) (len : Nat) : Bool :=
  let last := s.now + ticksOf len - 1
  let use (c : Option Nat) : Nat := lfUse s c (last - 999) last
  chans.all (fun c => decide (use (some c) + len ≤ (lfCaps s).1)) && decide (use none + len ≤ (lfCaps s).2)

/-- Charge an emission that starts now; what has left every window is dropped. -/
def lfChargeNow (s : State) (chans : List Nat) (len : Nat) : State :=
  { s with lf := { s.lf with
      charges := ⟨s.now, len, chans.foldl setBit 0⟩ :: s.lf.charges.filter (fun c => decide (s.now < c.tick + 1100)) } }

/-- Bit times of a wake pattern (R57). -/
def patternBits : Nat := 56

/-- Length of a wake pattern of bit times of 256 µs (R57). -/
def patternLen : Nat := patternBits * 256

/-- The 56 bits of a wake pattern, first bit highest: preamble, wake group and poll number (R57; 00 R2). -/
def wakeWord (group num : Nat) : Nat := 0xF0 * 2 ^ 48 + group % 2 ^ 16 * 2 ^ 32 + num % 2 ^ 32

/-- Carrier in the half-bits of bit `i`: in the first one for a 1, in the second for a 0 (R57). -/
def wakeBit (w i : Nat) : List Bool :=
  let one := bitAt w (patternBits - 1 - i)
  [one, !one]

/-- The channels that drive bit `i`: that of bits 0-3 alone, that of bits 4-7 alone, then both; one channel alone drives every
bit (R58). -/
def wakeDrives (pair : Bool) (i : Nat) : Bool × Bool :=
  if pair then (decide (i < 4) || decide (8 ≤ i), decide (4 ≤ i)) else (true, false)

/-- A wake pattern by half-bits: the carrier at either channel (R57, R58). -/
def wakeHalves (p : Pattern) : List (Bool × Bool) :=
  (List.range patternBits).flatMap (fun i =>
    let d := wakeDrives p.chB.isSome i
    (wakeBit (wakeWord p.group p.num) i).map (fun on => (d.1 && on, d.2 && on)))

/-! ### The poll-cycle boundary (01 R22; 02 R25; 05 R120, R132) -/

/-- Everything that waits for the boundary takes effect: the accepted record, the fields, the profile. A change of SGR_FREQ
requests its calibrations (05 R120; when it comes into force, DEDUCED, log 31). While no write waits, every field held is in
force already. -/
def pollBoundary (s : State) : State :=
  let chan := s.eff Reg.sgrFreqChan
  let rate := s.eff Reg.sgrFreqRate
  lfChange s fun s =>
    let s := if s.boundaryDue then applyTiming .boundary s else s
    let s := noteChannels (recordTakesEffect s)
    let s := { s.setStat Reg.sysProfilePending 0 with boundaryDue := false }
    let s := { s with lf := { s.lf with chans := (List.range 8).foldl (fun t c =>
      tblPut LfChan.reset t c (retune s (tblGet LfChan.reset t c))) s.lf.chans } }
    if s.eff Reg.sgrFreqRate ≠ rate then requestCal s 5
    else if s.eff Reg.sgrFreqChan ≠ chan then requestCal s 1
    else s

/-! ### Patterns (R26, R52, R57, R64) -/

/-- The LF array may emit: the wait of R65 is over, a record is in force, the governor is below level 3 and the island
runs. -/
def lfMayEmit (s : State) : Bool :=
  s.running && s.pwr.deep.isNone && s.lf.allowed && s.rad.regRec.isSome && decide (govLevel s < 3)

/-- No pattern is due any more: the refusals and the hold of the one that was are over. -/
def lfForgetDue (s : State) : State := { s with lf := { s.lf with refusedAt := none, vlfHeld := false } }

/-- A pattern is refused by R64; its first refusal is counted. -/
def patternDelayed (s : State) : State :=
  if s.lf.refusedAt.isSome then s
  else
    let s := (s.raise Reg.lfFaultDutyDelay).bump Reg.lfDutyStatDelays
    { s with lf := { s.lf with refusedAt := some s.now, vlfHeld := false } }

/-- The first bit of a pattern: poll number, charge, and both radios powered for the cycle (R29, R64; 05 R105, R117). -/
def patternStarts (s : State) (n a : Nat) (b : Option Nat) : State :=
  let chans := [a] ++ b.toList
  let (num, s) := match s.lf.pollNum with
    | some k => ((k + 1) % 2 ^ 32, s)
    | none => let (v, s) := s.draw; (v % 2 ^ 32, s)
  let p : Pattern :=
    { entry := n, chA := a, chB := b, phase := s.eff (lfSchedPhase n), freq := patternCarrier s chans,
      ipeak := s.eff Reg.lfDriveIpeak, group := s.eff Reg.lfWakeGroup, num := num, tick := s.now, cut := 0, loopA := 0,
      loopB := 0 }
  let s := lfChargeNow s chans patternLen
  let s := match s.lf.refusedAt with
    | some t => event s blkLf 0x20 (leBytes 4 (s.now - t))
    | none => s
  let s := (lfForgetDue s).setStat Reg.lfPollnum num
  ({ s with
    lf := { s.lf with pollNum := some num, lastEntry := some n, pattern := some p },
    cyc := { s.cyc with
      phase := .pattern, slot := 0, slotBusy := false, allocated := 0, onAir := none, keyed := [], keyedIds := [],
      startTick := some s.now },
    sgr := { s.sgr with
      phase := .idle, lock := false, held := false, work := .cycle, trswTx := false, trswRx := false, paEn := false },
    uwb := { s.uwb with phase := .idle, lock := false, utrsw := false, round := none } }).emit (.wakePattern p (wakeHalves p))

/-- VLF as the supervision knows it, mV. -/
def vlfNow (s : State) : Nat := nth 0 s.pwr.supplies 4

/-- Note VLF. -/
def setVlf (s : State) (mv : Nat) : State := { s with pwr := { s.pwr with supplies := s.pwr.supplies.set 4 mv } }

/-- No cycle runs and nothing holds the array or the transceiver (R26, R50; 01 R19). -/
def patternFree (s : State) : Bool :=
  s.cyc.phase == .idle && s.cyc.ctxs.isEmpty && s.lf.burst.isNone && s.sgr.work == .none && s.sgr.phase != .cal

/-- The interval since the previous cycle's start has passed (R26). -/
def intervalPassed (s : State) : Bool :=
  match s.cyc.startTick with
  | some t => decide (t + s.eff Reg.lfPollInterval ≤ s.now)
  | none => true

/-- A wake pattern that is due: the boundary comes first, and with it what the pattern is tested on; a pattern that R64
refuses starts at no boundary (DEDUCED, log 32). -/
def tryPattern (s : State) : State :=
  let t := pollBoundary s
  if !t.on Reg.lfPollEn then lfForgetDue t
  else if t.rad.regRec.isNone then lfForgetDue t
  else if !lfMayEmit t then s
  else match chooseEntry t with
    | none => (lfForgetDue t).raise Reg.lfFaultSchedEmpty
    | some (n, a, b) =>
      if vlfNow t < 7500 then
        { t.raise Reg.lfFaultVlfLow with lf := { t.lf with vlfHeld := true } }
      else if lfDutyOk t ([a] ++ b.toList) patternLen then patternStarts t n a b
      else patternDelayed s

/-- Can a wake pattern start at all, VLF and duty aside (R25)? -/
def pollsRun (s : State) : Bool :=
  s.on Reg.lfPollEn && s.rad.regRec.isSome && (chooseEntry s).isSome

/-- The tick at which the next pattern falls due; none while no pattern can start. -/
def nextPoll (s : State) : Option Nat :=
  if pollsRun s && lfMayEmit s then
    some (match s.cyc.startTick with
      | some t => max s.now (t + s.eff Reg.lfPollInterval)
      | none => s.now)
  else none

/-- An aborted pattern opens no window and ends its cycle (R53). -/
def abortPattern (s : State) : State :=
  let s := s.raise Reg.lfFaultAborted
  { sgrIdleAt s (sgrRest s) with
    lf := { s.lf with pattern := none },
    cyc := { s.cyc with phase := .idle, coexReq := false, coexPri := false },
    sgr := { (sgrIdleAt s (sgrRest s)).sgr with work := .none },
    uwb := { s.uwb with phase := .off, lock := false } }

/-- What a pattern measured on one of its channels: its loop against IPEAK (R51), its resonance (R440, R56). -/
def measured (s : State) (ipeak loop est c : Nat) : State :=
  let v := { track (s.chan c) est with currentLow := decide (100 * loop < 97 * ipeak) }
  s.setChan c (retune s v)

/-! ### Diagnostics (R67, R68) -/

/-- Request the diagnostic of a channel with a deadline of 1.000 s; a waiting one serves it. -/
def requestDiag (s : State) (selftests : List Nat) (c : Nat) : State :=
  if s.lf.burst == some c || s.lf.burstWait.contains c then s else requestTask s .lfDiag c 0 1000 selftests

/-- Request the diagnostic of every named channel. -/
def requestDiags (s : State) : State := (lfNamedChans s).foldl (fun s c => requestDiag s [] c) s

/-- Length of a burst of 64 carrier periods, µs, rounded up (log 28). -/
def burstLen (s : State) : Nat := (6400000 + s.eff Reg.lfCarrierFreq - 1) / s.eff Reg.lfCarrierFreq

/-- The burst of channel `c` may be sent: no emission is in progress, and none of R67's conditions forbids it. -/
def burstMay (s : State) (c : Nat) : Bool :=
  s.lf.burst.isNone && s.cyc.phase != .pattern && lfMayEmit s && decide (7500 ≤ vlfNow s) && lfDutyOk s [c] (burstLen s)

/-- The burst of channel `c` is sent and charged (R64, R67). -/
def burstSent (s : State) (c : Nat) : State :=
  (lfChargeNow { s with lf := { s.lf with burst := some c, burstWait := s.lf.burstWait.filter (fun x => x != c) } } [c]
    (burstLen s)).emit (.lfBurst c)

/-! ### Quiet slots (15 R413) -/

/-- Ticks that a slot of a task and 100 µs reaches into. -/
def slotTicks (us : Nat) : Nat := (us + 100 + 999) / 1000

/-- Nothing that falls due at this tick lies in a slot that starts now. -/
def dueAfter (s : State) (us : Nat) (due : Option Nat) : Bool :=
  match due with
  | some t => decide (s.now + slotTicks us ≤ t)
  | none => true

/-- The tick at which the next coil poll falls due (04 R73, R89). -/
def nextCoilPoll (s : State) : Option Nat :=
  if s.on Reg.tpxCtrlEn && s.rad.regRec.isSome then
    some (max s.now (max ((s.tpx.lastStart.map (fun t => t + s.eff Reg.tpxPollInterval)).getD 0)
      ((s.tpx.lastOff.map (fun t => t + 2)).getD 0)))
  else none

/-- The tick from which the next test frame of a radio is due (R417). -/
def nextTestFrame (s : State) (uwb : Bool) : Option Nat := (s.pwr.prodTx.filter (fun p => p.uwb == uwb)).map ProdTx.due

/-- A quiet slot of this length of the LF island: no cycle, coil poll, ring 4 job or emission in it. -/
def lfQuiet (s : State) (us : Nat) : Bool :=
  s.cyc.phase == .idle && s.running && s.pwr.deep.isNone && s.lf.burst.isNone && s.lf.refusedAt.isNone &&
    s.tpx.phase == .off && s.tpx.queue.isEmpty && dueAfter s us (nextPoll s) && dueAfter s us (nextCoilPoll s)

/-- A quiet slot of the sub-GHz transceiver: no cycle, ring 5 job or test frame in it. -/
def sgrQuiet (s : State) (us : Nat) : Bool :=
  s.cyc.phase == .idle && s.sgr.work == .none && s.sgr.jobs.isEmpty && dueAfter s us (nextPoll s) &&
    dueAfter s us (nextTestFrame s false)

/-- A quiet slot of the UWB transceiver: no cycle or test frame in it. -/
def uwbQuiet (s : State) (us : Nat) : Bool :=
  s.cyc.phase == .idle && s.uwb.phase != .tx && dueAfter s us (nextPoll s) && dueAfter s us (nextTestFrame s true)

/-- The resource of a task has a quiet slot that holds it now (R413), in whole ticks (DEDUCED, log 141). -/
def taskQuiet (s : State) (t : Task) : Bool :=
  let us := taskDuration t
  s.pwr.running.isNone && s.running && s.pwr.deep.isNone &&
    match t.kind with
    | .lfDiag => lfQuiet s us
    | .sgrCal => sgrQuiet s us
    | .uwbCal => uwbQuiet s us
    | .oscTrim => sgrQuiet s us && uwbQuiet s us

/-- Diagnostics that wait for the burst of a channel that no entry names any more are over: it is not driven (R67). -/
def dropUnnamed (s : State) : State :=
  (s.lf.burstWait.filter (fun c => !lfNamed s c)).foldl (fun t c => selftestChan t c true)
    { s with lf := { s.lf with burstWait := s.lf.burstWait.filter (lfNamed s) } }

/-- A tick with bursts that wait: in a quiet slot the first waiting channel whose burst may be sent is driven (R67). -/
def tryBurst (s : State) : State :=
  if s.lf.burstWait.isEmpty then s
  else
    let s := dropUnnamed s
    if !lfQuiet s (burstLen s) then s
    else match s.lf.burstWait.find? (burstMay s) with
      | some c => burstSent s c
      | none => s

/-- The finding of a static test that disables the channel. -/
def staticFinding (leakGnd leakVlf : Bool) : Option ChanBase :=
  if leakGnd then some .shortGnd else if leakVlf then some .shortVlf else none

/-- A channel whose finding disables it: it is not driven again, and a burst of it that waits is not sent (R68). -/
def chanFails (s : State) (c : Nat) (b : ChanBase) : State :=
  let t := lfChange s fun s => s.setChan c { s.chan c with base := b, detuned := false, currentLow := false }
  if t.lf.burstWait.contains c then
    selftestChan { t with lf := { t.lf with burstWait := t.lf.burstWait.filter (fun x => x != c) } } c false
  else t

/-- A diagnostic runs in its slot: the static test, and then the burst or the wait for it. A disabled channel is not
driven (R68), so its diagnostic ends with the static test (DEDUCED, log 28). -/
def runDiag (s : State) (c : Nat) (leakGnd leakVlf : Bool) : State :=
  if !lfNamed s c then selftestChan s c true
  else match staticFinding leakGnd leakVlf with
    | some b => selftestChan (chanFails s c b) c false
    | none =>
      if (s.chan c).base.disabled then selftestChan s c false
      else if burstMay s c then burstSent s c
      else { s with lf := { s.lf with burstWait := s.lf.burstWait ++ [c] } }

end Sys2Proof.Machine
end

