-- ==== Sys2Proof/Machine/SgrOps.lean ====
section
/-! DEFINITION. The sub-GHz transceiver: requests, lock and switching, the checks before a transmission, and the ring 5 jobs
that run between cycles (05_radios.md R103-R109, R124-R138). -/
namespace Sys2Proof.Machine

/-! ### Airtime, bands and duty (R103, R133, R134) -/

/-- Bits per second of SGR_FREQ.RATE. -/
def sgrRate (s : State) : Nat := nth 9600 [9600, 19200, 38400, 100000] (s.eff Reg.sgrFreqRate)

/-- Airtime of `bits` in µs, rounded up (log 30). -/
def airtime (s : State) (bits : Nat) : Nat := (bits * 1000000 + sgrRate s - 1) / sgrRate s

/-- The band in use by the channel in force. -/
def bandNow (s : State) : Option Nat :=
  match s.rad.regRec with
  | some b => bandOf b (s.eff Reg.sgrFreqChan)
  | none => none

/-- The band ring's sum over the latest 3,600 ticks of 1.000 s, µs. -/
def bandUse (s : State) (i : Nat) : Nat :=
  ((tblGet [] s.sgr.charges i).map (fun c => if s.now / 1000 < c.tick + 3600 then c.len else 0)).sum

/-- Charge a transmission to the tick in which it starts. -/
def bandCharge (s : State) (i len : Nat) : State :=
  let t := s.now / 1000
  let l := (tblGet [] s.sgr.charges i).filter (fun c => decide (t < c.tick + 3600))
  let l := match l with
    | c :: rest => if c.tick = t then ⟨t, c.len + len⟩ :: rest else ⟨t, len⟩ :: l
    | [] => [⟨t, len⟩]
  { s with sgr := { s.sgr with charges := tblPut [] s.sgr.charges i l } }

/-- Why R131 or R133 does not make a transmission of this airtime: the status of R137, with its fault bit set. -/
def sgrRefusal (s : State) (us : Nat) : Option (Nat × State) :=
  match s.rad.regRec with
  | none => some (0x36, s.raise Reg.sgrFaultNoRegrec)
  | some b =>
    match bandNow s with
    | none => some (0x31, s.raise Reg.sgrFaultBand)
    | some i =>
      if 1000 * bandLongest b i < us then some (0x37, s.raise Reg.sgrFaultBand)
      else if bandDuty b i * 360000 < bandUse s i + us then some (0x30, s.raise Reg.sgrFaultDuty)
      else none

/-- Power of a transmission: the lesser of SGR_PA.POWER and the band's highest (R133). -/
def sgrPower (s : State) : Nat :=
  match s.rad.regRec, bandNow s with
  | some b, some i => min (s.eff Reg.sgrPaPower) (bandPower b i)
  | _, _ => s.eff Reg.sgrPaPower

/-- A radio that has never completed a calibration transmits nothing (R123). -/
def sgrNeverCalibrated (s : State) : Bool := s.sgr.calDone % 16 = 0

/-- RSSI of the last packet received, as SGR_STATUS shows it (R139). -/
def noteRssi (s : State) (rssi : Int) : State := s.setStat Reg.sgrStatusRssi (unsignedOf 8 rssi)

/-! ### Requests and switching (R105, R106, R108) -/

/-- A receive request: a locked receiver is used at once, else the synthesiser starts. -/
def sgrReceive (s : State) : State :=
  match s.sgr.phase with
  | .rx | .synth | .cal | .tx => s
  | .off | .sleep | .idle => { s with sgr := { s.sgr with phase := .synth, lock := false, held := false } }

/-- The levels of TRSW_TX, TRSW_RX and PA_EN where they are active as said: their active levels are those of SGR_PA, and PA_EN stays
inactive while PA_USE is 0 (R108). -/
def switchLevels (s : State) (tx rx pa : Bool) : Bool × Bool × Bool :=
  (tx != s.on Reg.sgrPaTrswPol, rx != s.on Reg.sgrPaTrswPol, (pa && s.on Reg.sgrPaPaUse) != s.on Reg.sgrPaPaPol)

/-- The pins as they stand. Until step 5 of a start their weak pull-downs hold them low, whatever SGR_PA says (16 R420, R421). -/
def switchPins (s : State) : Bool × Bool × Bool :=
  if !s.pwr.pinsTaken then (false, false, false) else switchLevels s s.sgr.trswTx s.sgr.trswRx s.sgr.paEn

/-- The switch before the first bit, in µs from it; the receiver goes off first where it was on (R108). -/
def switchUp (s : State) : List (Int × Bool × Bool × Bool) :=
  (if s.sgr.trswRx then [((-40 : Int), switchLevels s false false false)] else []) ++
    [(-38, switchLevels s true false false), (-((8 + s.eff Reg.sgrPaLead : Nat) : Int), switchLevels s true false true)]

/-- The switch after the last bit, in µs from its end; to the receiver where the return state is RX (R108). -/
def switchDown (s : State) (toRx : Bool) : List (Int × Bool × Bool × Bool) :=
  [((8 : Int), switchLevels s true false false), (10, switchLevels s false false false)] ++
    (if toRx then [(12, switchLevels s false true false)] else [])

/-- A distance-bounding run is in progress. Its rounds of a few µs each transmit and receive in turn, so both chains are at work
throughout it (DEDUCED, log 142). -/
def boundingRuns (s : State) : Bool := s.uwb.round.any (fun r => r.step == .bounding)

/-- The level of COEX_ACT: a chain that SGR_COEX.ACT_MASK selects transmits or receives (R124). -/
def coexAct (s : State) : Bool :=
  let m := s.eff Reg.sgrCoexActMask
  (bitAt m 0 && s.sgr.phase == .tx) || (bitAt m 1 && s.sgr.phase == .rx) ||
    (bitAt m 2 && (s.uwb.phase == .tx || boundingRuns s)) || (bitAt m 3 && (s.uwb.phase == .rx || boundingRuns s))

/-- The transmit sequence of R108 with these bytes from the preamble on. -/
def sgrTransmit (s : State) (data : Bytes) (us : Nat) : State :=
  let s1 := { s with sgr := { s.sgr with
    phase := .tx, lock := true, held := false, trswTx := true, trswRx := false, paEn := s.on Reg.sgrPaPaUse } }
  let s2 := match bandNow s with
    | some i => bandCharge s1 i us
    | none => s1
  (s2.emit (.sgrSwitch false (switchUp s))).emit (.sgrFrame (s.eff Reg.sgrFreqChan) (sgrPower s) data)

/-- A transmit request may go at once: the receiver is on with its synthesiser locked. -/
def sgrReady (s : State) : Bool := s.sgr.phase == .rx && s.sgr.lock

/-- Hold a transmit request for lock, starting the synthesiser from a resting state. -/
def sgrHold (s : State) : State :=
  { s with sgr := { s.sgr with
      held := true, trswTx := false, paEn := false,
      phase := match s.sgr.phase with
        | .off | .sleep | .idle => .synth
        | p => p } }

/-- SYNTH_BUSY: nothing is transmitted and the transceiver goes idle; a calibration in progress goes on. -/
def sgrBusy (s : State) : State :=
  sgrIdleAt (s.raise Reg.sgrFaultSynthBusy) (if s.sgr.phase == .cal then .cal else .idle)

/-- A return state of R136: 0 IDLE, 1 RX, 2 SLEEP. -/
def sgrReturn (s : State) (back : Nat) : State :=
  if back = 1 then
    if s.sgr.lock then sgrIdleAt { s with sgr := { s.sgr with phase := .rx } } .rx
    else sgrReceive (sgrIdleAt s .idle)
  else sgrIdleAt s (if back = 2 then .sleep else .idle)

/-- The return state a ring 5 parameter names, with the register's for 0. -/
def returnState (s : State) (p : Nat) (f : Fld) : Nat := if p = 0 then s.eff f else p - 1

/-! ### The grant (R124) -/

/-- The grant as seen: assumed while SGR_COEX.EN is 0, else the pin at its active level. -/
def grantSeen (s : State) : Bool := !s.on Reg.sgrCoexEn || (s.rad.grantPin != s.on Reg.sgrCoexGrantPol)

/-! ### Ring 5 packets (R136, R139) -/

/-- The bytes on air after the sync word: length byte, data and CRC-16, as SGR_PKT asks. The CRC covers length and data
(DEDUCED, log 36). -/
def packetBytes (s : State) (data : Bytes) : Bytes :=
  let b := (if s.on Reg.sgrPktLenEn then [BitVec.ofNat 8 data.length] else []) ++ data
  if s.on Reg.sgrPktCrcEn then b ++ beBytes 2 (crc16 b) else b

/-- A packet on air: preamble bytes 0xAA, the sync word that SGR_PKT chooses, and its bytes (R139). -/
def packetFrame (s : State) (data : Bytes) : Bytes :=
  List.replicate (s.eff Reg.sgrPktPreamble) 0xAA ++
    beBytes (if s.on Reg.sgrPktSync32 then 4 else 2) (s.eff Reg.sgrSync) ++ packetBytes s data

/-- Airtime of a packet. -/
def packetTime (s : State) (data : Bytes) : Nat := airtime s (8 * (packetFrame s data).length)

/-- A received packet as SGR_PKT frames it: its data, and whether its CRC-16 passes. Without a length byte the packet is as
long as the buffer. -/
def packetData (s : State) (len : Nat) (frame : Bytes) : Bytes × Bool :=
  let n := if s.on Reg.sgrPktLenEn then byteAt frame 0 else len
  let h := if s.on Reg.sgrPktLenEn then 1 else 0
  let body := frame.take (h + n)
  ((body.drop h).take len, !s.on Reg.sgrPktCrcEn || (beAt frame (h + n) 2 == crc16 body && frame.length == h + n + 2))

/-! ### Jobs between cycles (R136; 01 R19) -/

/-- Longest duration of a job, µs. -/
def jobLongest (s : State) : SgrWork → Nat
  | .txPacket _ data _ => 100 * s.eff Reg.sgrCoexWait + s.eff Reg.sgrCtrlTxWaitMax + packetTime s data
  | .rxPacket t _ _ => ((findOut s 5 t).map (fun o => o.desc.p0)).getD 0
  | .rssi t => ((findOut s 5 t).map (fun o => o.desc.p0)).getD 0
  | .none | .cycle | .prod => 0

/-- The job ends before the next poll starts. -/
def jobFits (s : State) (w : SgrWork) : Bool :=
  match nextPoll s with
  | some t => decide (s.now + (jobLongest s w + 999) / 1000 ≤ t)
  | none => true

/-- Tag of a job. -/
def SgrWork.tag : SgrWork → Option Nat
  | .txPacket t _ _ => some t
  | .rxPacket t _ _ => some t
  | .rssi t => some t
  | .none | .cycle | .prod => Option.none

/-- The transceiver is free of the job it ran. -/
def sgrFree (s : State) : State :=
  { s with sgr := { s.sgr with work := .none, grantWait := false, coexReq := false, held := false } }

/-- The packet of the job in hand is sent, past its abort point (R138), if the grant and the checks of R133 permit it now: else it
waits for the grant (R127), or completes with the refusal's status; the Bool says whether the job goes on. -/
def packetLeaves (s : State) (t : Nat) (data : Bytes) : State × Bool :=
  match sgrRefusal s (packetTime s data) with
  | some (st, s) => (complete (sgrFree (if s.sgr.held then sgrIdleAt s .rx else s)) 5 t st 0, false)
  | none =>
    if grantSeen s then (markTaken (sgrTransmit s (packetFrame s data) (packetTime s data)) 5 t true, true)
    else
      let s := if s.sgr.held then sgrIdleAt s .rx else s
      ({ s with sgr := { s.sgr with grantWait := true } }, true)

/-- A packet that the grant covers is sent or held, or completes SYNTH_BUSY at once where TX_WAIT_MAX is 0; the Bool says
whether the job goes on. -/
def sgrPacketGoes (s : State) (t : Nat) (data : Bytes) : State × Bool :=
  let s := { s with sgr := { s.sgr with grantWait := false } }
  if sgrReady s then packetLeaves s t data
  else if s.eff Reg.sgrCtrlTxWaitMax = 0 then (complete (sgrFree (sgrBusy s)) 5 t stSynthBusy 0, false)
  else (sgrHold s, true)

/-- A job that can be started now, with the transceiver free: what it does, or the status with which it ends at once. -/
def jobStarts (s : State) (w : SgrWork) : State × Bool :=
  match w with
  | .txPacket t data _ =>
    match sgrRefusal s (packetTime s data) with
    | some (st, s) => (complete s 5 t st 0, false)
    | none =>
      if sgrNeverCalibrated s then (complete s 5 t stSynthBusy 0, false)
      else
        let s := { s with sgr := { s.sgr with work := w, coexReq := true } }
        if grantSeen s then sgrPacketGoes s t data else ({ s with sgr := { s.sgr with grantWait := true } }, true)
  | .rxPacket _ _ _ | .rssi _ => (sgrReceive { s with sgr := { s.sgr with work := w, coexReq := true } }, true)
  | .none | .cycle | .prod => (s, false)

/-- A job needs the transceiver out of calibration; a transmit request is held in it (R105). -/
def jobMayStart (s : State) (w : SgrWork) : Bool :=
  s.running && s.pwr.deep.isNone && s.cyc.phase == .idle && s.sgr.work == .none && s.pwr.prodTx.isNone &&
    (s.sgr.phase != .cal || (match w with
      | .txPacket _ _ _ => true
      | _ => false)) && jobFits s w

/-- Start the oldest waiting job once it fits into the gap; a job that ends at once makes room for the next. -/
def sgrNextFuel : Nat → State → State
  | 0, s => s
  | fuel + 1, s =>
    match s.sgr.jobs with
    | [] => s
    | w :: rest =>
      if jobMayStart s w then
        let (t, busy) := jobStarts { s with sgr := { s.sgr with jobs := rest } } w
        if busy then t else sgrNextFuel fuel t
      else s

/-- Start what waits, if it can. -/
def sgrNextJob (s : State) : State := sgrNextFuel (s.sgr.jobs.length + 1) s

/-- The job in hand ends with this status and return state. -/
def jobEnds (s : State) (tag status result back : Nat) : State :=
  sgrNextJob (complete (sgrFree (sgrReturn s back)) 5 tag status result)

end Sys2Proof.Machine
end

