-- ==== Sys2Proof/Machine/CycleOps.lean ====
section
/-! DEFINITION. The authentication contexts of the LF path and the end of a cycle (02_release_cycle.md R25, R34, R42-R47;
06_proximity.md R162). -/
namespace Sys2Proof.Machine

/-! ### Outcome codes (R42) -/

/-- RELEASED. -/
def ocReleased : Nat := 0x00
/-- RENEWED. -/
def ocRenewed : Nat := 0x01
/-- POSITIONED. -/
def ocPositioned : Nat := 0x02
/-- NO_RESPONSE. -/
def ocNoResponse : Nat := 0x03
/-- LATE_RESPONSE. -/
def ocLate : Nat := 0x04
/-- BAD_RESPONSE. -/
def ocBad : Nat := 0x05
/-- NOT_ENROLLED. -/
def ocNotEnrolled : Nat := 0x06
/-- LOCKED_OUT. -/
def ocLockedOut : Nat := 0x07
/-- OUT_OF_VALIDITY. -/
def ocValidity : Nat := 0x08
/-- RANGE_FAIL. -/
def ocRangeFail : Nat := 0x09
/-- BOUND_FAIL. -/
def ocBoundFail : Nat := 0x0A
/-- IMPLAUSIBLE. -/
def ocImplausible : Nat := 0x0B
/-- GRANT_FAIL. -/
def ocGrantFail : Nat := 0x0C
/-- PREEMPTED. -/
def ocPreempted : Nat := 0x0D
/-- ENGINE_FAULT. -/
def ocEngineFault : Nat := 0x0E
/-- DUPLICATE. -/
def ocDuplicate : Nat := 0x0F
/-- DEVICE_FAILED. -/
def ocDeviceFailed : Nat := 0x10
/-- QUEUED. -/
def ocQueued : Nat := 0x11

/-! ### Contexts -/

/-- Context `n`; none while it is FREE. -/
def State.ctx (s : State) (n : Nat) : Option Ctx := (s.cyc.ctxs.find? (fun e => e.1 == n)).map Prod.snd

/-- Replace context `n`. -/
def State.setCtx (s : State) (n : Nat) (c : Ctx) : State :=
  { s with cyc := { s.cyc with ctxs := updateFirst (fun e => e.1 == n) (fun e => (e.1, c)) s.cyc.ctxs } }

/-- Context `n` is open in this state of R43. -/
def ctxIn (s : State) (n : Nat) (p : CtxPhase) : Bool :=
  match s.ctx n with
  | some c => c.phase == p
  | none => false

/-- The HELD context of the lowest slot: contexts are allocated in slot order (R32, R34). -/
def nextHeld (s : State) : Option Nat := (s.cyc.ctxs.find? (fun e => e.2.phase == .held)).map Prod.fst

/-- The phases in which a context still needs the radios. -/
def CtxPhase.onRadio : CtxPhase → Bool
  | .held | .challenging | .keyed | .ranging | .bounding => true
  | .fusing | .granting => false

/-! ### Reports (R47, R162) -/

/-- The outcomes whose report carries the position fields (R47). -/
def ocHasPosition (oc : Nat) : Bool :=
  oc == ocReleased || oc == ocRenewed || oc == ocPositioned || oc == ocQueued || oc == ocGrantFail || oc == ocBoundFail

/-- FULL processing. -/
def aoaFull (s : State) : Bool := s.eff Reg.prxAoaMode == 1

/-- Axis codes of FS_A (0) or FS_B (1) in the announce. -/
def fieldCodes (c : Ctx) (g : Nat) : List Nat := [0, 1, 2].map (fun i => byteAt c.announce (24 + 3 * g + i))

/-- A strength used by the context stands at the saturation code. -/
def fieldSaturated (c : Ctx) : Bool :=
  (fieldCodes c 0).contains 0xFF || (c.chB.isSome && (fieldCodes c 1).contains 0xFF)

/-- The proximity report of a context. `fused` holds bits 1 and 2 of the flags of byte 2, then bytes 22-54; bits 4 and 5 tell of
the strengths announced and of the angle, whatever the outcome. -/
def proximityReport (s : State) (c : Ctx) (oc detail : Nat) : Bytes :=
  let pos := ocHasPosition oc && c.fused.isSome
  let fl := byteAt (c.fused.getD []) 0
  let raw := match c.exchanges.getLast? with
    | some e => if s.on Reg.prxCtrlRaw then some e else none
    | none => none
  let flags := fl + bit pos + 8 * bit raw.isSome + 16 * bit (fieldSaturated c) +
    32 * bit (aoaFull s && !c.exchanges.isEmpty)
  let num := match s.lf.pattern with
    | some p => p.num
    | none => s.lf.pollNum.getD 0
  [0x02, BitVec.ofNat 8 oc, BitVec.ofNat 8 flags, BitVec.ofNat 8 detail] ++ leBytes 4 s.rtc ++ leBytes 8 c.id ++
    leBytes 4 num ++ [BitVec.ofNat 8 c.slot, BitVec.ofNat 8 (unsignedOf 8 c.rssi)] ++
    (if pos then padTo 33 ((c.fused.getD []).drop 1) else zeroBytes 33) ++ [0] ++
    (match raw with
     | some e => leBytes 2 (nth 0 e.raw 0) ++ leBytes 2 (nth 0 e.raw 1) ++ leBytes 2 (nth 0 e.raw 2) ++
         [if e.nine then 9 else 5]
     | none => zeroBytes 7) ++ [0]

/-- The counts and events that an outcome brings on either path (R164, R230, R416). -/
def countOutcome (s : State) (id oc : Nat) : State :=
  if oc = ocBad then s.bump Reg.autStat0Bad
  else if oc = ocLate then s.bump Reg.autStat0Late
  else if oc = ocImplausible then s.bump Reg.prxStatImplausible
  else if oc = ocBoundFail then s.bump Reg.prxStatBoundfail
  else if oc = ocPreempted || oc = ocEngineFault then
    event s blkAut 0x21 (leBytes 8 id ++ [BitVec.ofNat 8 oc])
  else s

/-- A context that has returned to FREE no longer waits for answers (R242, R255). -/
def forgetCtx (s : State) (n : Nat) : State :=
  let clear (r : OpenReq) : OpenReq := if r.ctx == some n then { r with ctx := none } else r
  { s with rel := { s.rel with
      queue := s.rel.queue.map clear,
      waiting := s.rel.waiting.map clear,
      latch := s.rel.latch.filter (fun l => l.1 != n),
      sent := s.rel.sent.map (fun g => if g.ctx == some n then { g with ctx := none } else g) } }

/-! ### The end of exchanges and of the cycle -/

/-- COEX_REQ and COEX_PRI fall, and the UWB transceiver goes off, once no context needs the radios any more (R44; 05
R117). -/
def coexCheck (s : State) : State :=
  if (s.cyc.phase == .exchanges || s.cyc.phase == .draining || s.cyc.phase == .idle) &&
      !s.cyc.ctxs.any (fun e => e.2.phase.onRadio) then
    { s with
      cyc := { s.cyc with coexReq := false, coexPri := false },
      uwb := if s.cyc.phase == .idle then { s.uwb with utrsw := false } else { s.uwb with phase := .off, lock := false, utrsw := false } }
  else s

/-- The cycle is over (R25): both transceivers go to rest, and the ring 5 jobs have their gap (05 R105, R117; 01 R19). -/
def cycleEnds (s : State) : State :=
  let t := if s.sgr.work == .cycle then
      let u := sgrIdleAt s (sgrRest s)
      { u with sgr := { u.sgr with work := .none } }
    else s
  sgrNextJob { t with
    cyc := { t.cyc with phase := .idle, keyedIds := [], coexReq := false, coexPri := false },
    uwb := { t.uwb with phase := .off, lock := false, utrsw := false, round := none } }

/-- The cycle moves on: with no challenge left it drains, and with no context left it ends (R25). The sub-GHz transceiver
is free of it. -/
def cycleCheck (s : State) : State :=
  let s := if s.cyc.phase == .exchanges && s.cyc.onAir.isNone && (nextHeld s).isNone then
      let u := if s.sgr.work == .cycle then sgrIdleAt s .idle else s
      { u with cyc := { u.cyc with phase := .draining } } else s
  let s := coexCheck s
  if s.cyc.phase == .draining && s.cyc.ctxs.isEmpty then cycleEnds s else s

/-- A context returns to FREE with its outcome: its report is posted on ring 3, its keys are gone (R43, R47). -/
def endCtx (s : State) (n oc detail : Nat) : State :=
  match s.ctx n with
  | none => s
  | some c =>
    let s := countOutcome s c.id oc
    let s := fillBuffer s 3 0x01 (proximityReport s c oc detail) 0
    let s := forgetCtx s n
    cycleCheck { s with cyc := { s.cyc with
      ctxs := s.cyc.ctxs.filter (fun e => e.1 != n),
      keyed := s.cyc.keyed.filter (fun k => k != n),
      onAir := if s.cyc.onAir == some n then none else s.cyc.onAir } }

/-- Every context that satisfies `p` ends with this outcome. -/
def endCtxs (s : State) (p : Ctx → Bool) (oc : Nat) : State :=
  (s.cyc.ctxs.filter (fun e => p e.2)).foldl (fun s e => endCtx s e.1 oc 0) s

/-! ### Session requests of a context (R41) -/

/-- The outcome of a context whose last request is settled. -/
def Requests.outcome (r : Requests) : Nat :=
  if r.opened then ocReleased else if r.renewed then ocRenewed else if r.queued then ocQueued else ocGrantFail

/-- What an owner answers to a session request (R241, R248). -/
inductive Answer where
  | opened (number : Nat)
  | renewed (number : Nat)
  | queued
  | refused (reason : Nat)
  deriving DecidableEq, Repr

/-- Code of R248. -/
def Answer.code : Answer → Nat
  | .opened _ => 0
  | .renewed _ => 1
  | .queued => 2
  | .refused _ => 3

/-- Session number carried: 0 unless OPENED or RENEWED. -/
def Answer.number : Answer → Nat
  | .opened n => n
  | .renewed n => n
  | .queued | .refused _ => 0

/-- Reason of a refusal, else 0. -/
def Answer.reason : Answer → Nat
  | .refused r => r
  | .opened _ | .renewed _ | .queued => 0

/-- Note an answer on a logical group; `none` settles it as unanswered. The report bits are those of byte 23 of R101. -/
def Requests.note (r : Requests) (g : Nat) (a : Option Answer) : Requests :=
  let r := { r with pending := r.pending.filter (fun x => x != g) }
  match a with
  | some (.opened n) =>
    { r with opened := true, bits := setBit r.bits (3 * g), numbers := r.numbers.set g n }
  | some (.renewed n) =>
    { r with renewed := true, bits := setBit r.bits (3 * g + 1), numbers := r.numbers.set g n }
  | some .queued => { r with queued := true, bits := setBit r.bits (3 * g + 2) }
  | some (.refused _) => r
  | .none => r

end Sys2Proof.Machine
end

