-- ==== Sys2Proof/Machine/MeterOps.lean ====
section
/-! DEFINITION. The session table as a table, and the figures of a receipt at a session's end (09_release_and_sessions.md
R239; 10_energy_metrology.md R266, R271-R276). -/
namespace Sys2Proof.Machine

/-! ### The session table (09 R239) -/

/-- Entry `i` of the session table. -/
def State.sess (s : State) (i : Nat) : SessionEntry := tblGet SessionEntry.free s.rel.sessions i

/-- Replace entry `i`; the metering checkpoint has something new to write (10 R267). -/
def State.setSess (s : State) (i : Nat) (e : SessionEntry) : State :=
  { s with
    rel := { s.rel with sessions := tblPut SessionEntry.free s.rel.sessions i e },
    mtr := { s.mtr with changed := true } }

/-- The entries of the table. -/
def entries : List Nat := [0, 1, 2, 3, 4, 5, 6, 7]

/-- The entry of lowest index that satisfies `p`. -/
def findSess (s : State) (p : SessionEntry → Bool) : Option Nat := entries.find? (fun i => p (s.sess i))

/-- Some entry satisfies `p`. -/
def anySess (s : State) (p : SessionEntry → Bool) : Bool := entries.any (fun i => p (s.sess i))

/-- The entry is OPEN or HOLDING. -/
def SessionEntry.live (e : SessionEntry) : Bool := e.phase != .free

/-- Entries not FREE. -/
def liveCount (s : State) : Nat := (entries.filter (fun i => (s.sess i).live)).length

/-- Group `g` is released: one of its sessions is OPEN or HOLDING (09 R231). -/
def groupReleased (s : State) (g : Nat) : Bool := anySess s (fun e => e.live && e.group == g)

/-! ### Figures of a receipt (10 R272) -/

/-- Sessions' flags at opening: bit 6 RTC_UNSET. -/
def openFlags (s : State) : Nat := if s.rtcSet then 0 else 64

/-- Flags of a receipt from the session's own: bit 2 GAP while some time was unmetered, bit 3 NO_METER, bit 6 RTC_UNSET at
the end as well, bit 7 OTHER_GROUP. -/
def endFlags (s : State) (e : SessionEntry) : Nat :=
  let f := if 0 < e.gap then setBit e.flags 2 else e.flags
  let f := if s.on Reg.mtrCtrlEn then f else setBit f 3
  let f := if s.rtcSet then f else setBit f 6
  if e.group = s.eff Reg.mtrCtrlGroup then f else setBit f 7

/-- Seconds of the 160 MHz PLL, rounded up. -/
def gapSeconds (cycles : Nat) : Nat := satTo 32 ((cycles + 159999999) / 160000000)

/-- Byte 14 of a receipt: group, opened at a peer's request, transponder path. -/
def receiptByte14 (e : SessionEntry) : Nat := e.group + 2 * bit e.peer.isSome + 4 * bit e.coil

/-- The lifetime counters in the order of bytes 60-83. -/
def lifeCounters (s : State) : List Nat := [s.mtr.imp, s.mtr.exp, s.mtr.chIn, s.mtr.chOut]

/-- The figures of the receipt of a session that ends now. -/
def sessionDraft (s : State) (e : SessionEntry) (cause : Nat) : Draft :=
  { kind := 5, session := e.number, byte14 := receiptByte14 e, role := e.role, id := e.id, opened := e.opened,
    ended := s.rtc, cause := cause, flags := endFlags s e, dev := e.dev, own := [e.imp, e.exp, e.chIn, e.chOut],
    life := lifeCounters s, gap := gapSeconds e.gap, rolled := 0, first := 0 }

/-- A session's receipt is due (R271). -/
def receiptDue (s : State) (d : Draft) : State := { s with mtr := { s.mtr with due := s.mtr.due ++ [d] } }

/-- Bytes 0-95 of a receipt of this device with its number (R272). -/
def receiptBody (s : State) (d : Draft) (number : Nat) : Bytes :=
  [BitVec.ofNat 8 d.kind, 0x01] ++ leBytes 2 s.addr ++ leBytes 4 number ++ leBytes 4 d.session ++ leBytes 2 s.mtr.epoch ++
    [BitVec.ofNat 8 d.byte14, BitVec.ofNat 8 d.role] ++ leBytes 8 d.id ++ leBytes 4 d.opened ++ leBytes 4 d.ended ++
    [BitVec.ofNat 8 d.cause, BitVec.ofNat 8 d.flags] ++ leBytes 2 d.dev ++
    (d.own.flatMap (leBytes 6)) ++ (d.life.flatMap (leBytes 6)) ++ leBytes 4 d.gap ++ leBytes 4 d.rolled ++ leBytes 4 d.first

/-- The receipt with its MAC: CMAC under the RECEIPT slot of "E" and bytes 0-95 (R273). -/
def signReceipt (s : State) (slot : Nat) (d : Draft) (number : Nat) : Bytes :=
  let b := receiptBody s d number
  b ++ cmac (s.slot slot).key (0x45#8 :: b)

/-- SE9 may use the RECEIPT slot (R273, 07 R187). -/
def receiptSlot (s : State) : Option Nat := engineSlot s roleReceipt 9 useEnc

/-- Receipts committed and not acknowledged. -/
def committedUnacked (s : State) : Nat := s.mtr.rcptNext - 1 - s.mtr.rcptAck

/-- Receipts committed or held and not acknowledged (R274, MTR_RCPT_STAT). -/
def unackedCount (s : State) : Nat := committedUnacked s + s.mtr.formed.length

/-- The receipt log is full: by its count (R274), or because the sector that would be erased ahead still holds an unacknowledged
receipt (13 R358). -/
def logFull (s : State) : Bool :=
  let v := s.area .receipt
  decide (1024 ≤ unackedCount s) || (freeSectors .receipt v = 0 && !v.erasing && erasureBarred s .receipt (oldestSector .receipt v))

/-- The bytes of receipt `n` of the receipt-key epoch in force, in the log. -/
def loggedReceipt (s : State) (n : Nat) : Option Bytes :=
  match s.nvs.recs.filterMap (fun r => match r.data with
      | .receipt m b => if m = n && leAt b 12 2 = s.mtr.epoch && recValid s r then some b else none
      | _ => none) with
  | [] => none
  | b :: bs => some (bs.getLastD b)

/-- Post committed receipts into posted RECEIPT_BUFFERs in receipt-number order (R275). -/
def postReceipts : Nat → State → State
  | 0, s => s
  | fuel + 1, s =>
    if s.mtr.post < s.mtr.rcptNext then
      match oldestBuffer s 6 0x01, loggedReceipt s s.mtr.post with
      | some d, some b =>
        postReceipts fuel (completeData { s with mtr := { s.mtr with post := s.mtr.post + 1 } } 6 d b s.mtr.post)
      | some _, none => postReceipts fuel { s with mtr := { s.mtr with post := s.mtr.post + 1 } }
      | none, _ => s
    else s

/-! ### The metering checkpoint (10 R266, R267) -/

/-- The entry is a live session of the metered group. -/
def metered (s : State) (e : SessionEntry) : Bool := e.live && e.group == s.eff Reg.mtrCtrlGroup

/-- The bearer (R266): the entry of the metered group with the lowest session number. -/
def bearer (s : State) : Option Nat :=
  (entries.filter (fun i => metered s (s.sess i))).foldl (fun b i => match b with
    | none => some i
    | some j => if (s.sess i).number < (s.sess j).number then some i else some j) none

/-- A session-table entry as a checkpoint holds it: a live one with the flags that a receipt would carry at that instant (R272,
R277). -/
def checkpointEntry (s : State) (i : Nat) : SessionEntry :=
  let e := s.sess i
  if e.live then { e with flags := endFlags s e } else e

/-- The metering checkpoint (R267; 13 R354): the lifetime counters, the gap time, the bearer and its counters. -/
def meterCheckpoint (s : State) (final : Bool) : MeterCheckpoint :=
  let b := (bearer s).map s.sess
  { imp := s.mtr.imp, exp := s.mtr.exp, chIn := s.mtr.chIn, chOut := s.mtr.chOut, gap := s.mtr.gap, rtc := s.rtc, final := final,
    bearer := (b.map SessionEntry.number).getD 0,
    bearerOwn := (b.map (fun e => [e.imp, e.exp, e.chIn, e.chOut])).getD [0, 0, 0, 0] }

/-- The records of a metering checkpoint: the counters, and every session-table entry that differs from what stands. -/
def meterItems (s : State) (final : Bool) : List RecItem :=
  dataItem .meter 0x0100 (.checkpoint (meterCheckpoint s final)) ::
    (entries.filter (fun i => match standing s (0x0101 + i) with
      | some (.session e) => e != checkpointEntry s i
      | _ => (s.sess i).live)).map (fun i => dataItem .meter (0x0101 + i) (.session (checkpointEntry s i)))

/-! ### Committing receipts (10 R273, R274, R276) -/

/-- The record that closes the roll-up behind the roll-up's own receipt. -/
def rollUpCloses (d : Draft) : List RecItem := if d.kind = 6 then [dataItem .state 0x0142 (.rollup none)] else []

/-- Hand the oldest formed receipt to SE12: signed under the RECEIPT slot and numbered next. Without that slot it stays
held. The receipt of a roll-up closes the record of the roll-up behind it. -/
def startReceipt (s : State) : State :=
  if s.mtr.committing || s.nvs.failing then s
  else
    match s.mtr.formed, receiptSlot s with
    | d :: _, some n =>
      let b := signReceipt s n d s.mtr.rcptNext
      let s := useSlot { s with mtr := { s.mtr with committing := true } } n
      nvRequest s (dataItem .receipt 0x0200 (.receipt s.mtr.rcptNext b) :: rollUpCloses d) (.receipt s.mtr.rcptNext b)
    | _, _ => s

/-- Receipt `n` is committed: it takes its number, is posted, and the next one follows. -/
def receiptStands (s : State) (n : Nat) : State :=
  let s := { s with mtr := { s.mtr with rcptNext := n + 1, formed := s.mtr.formed.drop 1, committing := false } }
  startReceipt (postReceipts 2048 s)

/-- Receipts left unacknowledged by an acknowledgement up to `n` (R279). -/
def ackLeft (s : State) (n : Nat) : Nat :=
  unackedCount { s with mtr := { s.mtr with rcptAck := max s.mtr.rcptAck n } }

/-- An acknowledgement up to `n` stands: a receipt that it takes out of the log before it was posted is not posted (R274,
R275), and a sector that holds no other receipt any more may be erased (13 R358). The entry it frees closes the open roll-up, ahead
of any later receipt. -/
def ackTakes (s : State) (n : Nat) : State :=
  let s := { s with mtr := { s.mtr with
    rcptAck := max s.mtr.rcptAck n, post := max s.mtr.post (n + 1), ackRetry := s.mtr.ackRetry.filter (fun m => decide (n < m)) } }
  let s := keepFree s .receipt
  match s.mtr.rollup with
  | some r =>
    if logFull s then s
    else startReceipt { s with mtr := { s.mtr with formed := s.mtr.formed ++ [r], rollup := none } }
  | none => s

/-- The figures of a session go into the roll-up (R276). -/
def rollUpAdd (r : Option RollUp) (d : Draft) : RollUp :=
  let top := 2 ^ 48 - 1
  match r with
  | none => { d with
      kind := 6, byte14 := 0, role := 0, id := 0, cause := 0, flags := setBit d.flags 5, rolled := 1, first := d.session }
  | some r => { r with
      session := d.session, opened := min r.opened d.opened, ended := max r.ended d.ended, flags := r.flags ||| d.flags,
      dev := max r.dev d.dev, own := List.zipWith (fun a b => min (a + b) top) r.own d.own,
      life := if r.ended ≤ d.ended then d.life else r.life,
      gap := satTo 32 (r.gap + d.gap), rolled := satSucc 32 r.rolled }

end Sys2Proof.Machine
end

