-- ==== Sys2Proof/Machine/TransponderOps.lean ====
section
/-! DEFINITION. The coil, the Bramble walk and the transponder context: what is sent, what a poll or command does next, how
a write concludes and how a context ends (04_transponder_link.md R70-R101). -/
namespace Sys2Proof.Machine

/-! ### Coil (R73, R74, R78) -/

/-- TPX_STATUS.STATE codes: OK. -/
def coilOk : Nat := 0
/-- OPEN. -/
def coilOpen : Nat := 1
/-- SHORT. -/
def coilShort : Nat := 2
/-- DETUNED. -/
def coilDetuned : Nat := 3
/-- CURRENT_LOW. -/
def coilLow : Nat := 4
/-- UNTESTED. -/
def coilUntested : Nat := 7

/-- The field is on. -/
def fieldOn (s : State) : Bool := s.tpx.phase != .off

/-- The coil reads this state from now on; a change sets TPX_FAULT.COIL, for any value other than OK, and puts an event
record on ring 11 (R74, R102). -/
def coilState (s : State) (v : Nat) : State :=
  if s.tpx.coil = v then s
  else
    let s := { s with tpx := { s.tpx with coil := v } }
    event (if v = coilOk then s else s.raise Reg.tpxFaultCoil) blkTpx 0 []

/-- The pause of a data cell, by its first carrier period and its length in carrier periods (R75). -/
def dataPause (one : Bool) : Option (Nat × Nat) := some (if one then 16 else 0, 6)

/-- The cells of a downlink frame of 32 carrier periods each, by their pauses: SOF, the bits, highest first, and EOF (R75, R78). -/
def coilCells (bits value : Nat) : List (Option (Nat × Nat)) :=
  [some (0, 12)] ++ (List.range bits).map (fun i => dataPause (bitAt value (bits - 1 - i))) ++ [none]

/-- Send a downlink frame: its bits, opcode first, and the CRC-16 over them (R78), in the cells of R75. -/
def sendCoil (s : State) (bits value : Nat) : State :=
  let frame := value * 65536 + crcBits 16 0x1021 bits value 0xFFFF
  s.emit (.coilFrame (bits + 16) frame (coilCells (bits + 16) frame))

/-- Send a downlink frame of whole bytes. -/
def sendCoilBytes (s : State) (b : Bytes) : State := sendCoil s (8 * b.length) (beNat b)

/-- The payload of an uplink reply of this type, if its CRC-16 passes and its payload has this length (R78). -/
def replyPayload (frame : Bytes) (typ len : Nat) : Option Bytes :=
  if frame.length = len + 3 && byteAt frame 0 = typ && beAt frame (len + 1) 2 == crc16 (frame.take (len + 1)) then
    some (slice frame 1 len)
  else none

/-- The reason of a NAK reply. -/
def replyNak (frame : Bytes) : Option Nat := (replyPayload frame 0xC0 1).map beNat

/-- A start `start` LF cycles after the EOF cell lies within one carrier period of the nominal turnaround (R79). -/
def inTurnaround (start nominal : Nat) : Bool := decide (nominal ≤ start + 96) && decide (start ≤ nominal + 96)

/-- Turnaround of 256 µs, in LF cycles. -/
def turn256 : Nat := 3072
/-- Turnaround of 1,024 µs. -/
def turn1024 : Nat := 12288
/-- Turnaround of 2,048 µs. -/
def turn2048 : Nat := 24576

/-! ### Ring 4 status codes (R100) -/

/-- NO_TAG. -/
def st4NoTag : Nat := 0x20
/-- TAG_REFUSED. -/
def st4Refused : Nat := 0x21
/-- NOT_WRITTEN. -/
def st4NotWritten : Nat := 0x22
/-- WRITE_UNKNOWN. -/
def st4Unknown : Nat := 0x23
/-- WRITTEN_UNVERIFIED. -/
def st4Unverified : Nat := 0x24
/-- COIL_FAULT. -/
def st4CoilFault : Nat := 0x25
/-- BLOCK_READ_ONLY. -/
def st4ReadOnly : Nat := 0x26
/-- COUNTER_BACKWARDS. -/
def st4Backwards : Nat := 0x27
/-- BLOCK_MISMATCH. -/
def st4Mismatch : Nat := 0x28
/-- PASSWORD_ONLY. -/
def st4PasswordOnly : Nat := 0x29

/-! ### Jobs -/

/-- The identifier a job names. -/
def CoilJob.target : CoilJob → Option Nat
  | .readBlock _ id _ => some id
  | .writeBlock _ id _ _ => some id
  | .poll | .pollNow _ | .inventory _ _ => none

/-- The job serves tags in contexts. -/
def CoilJob.serves : CoilJob → Bool
  | .poll | .pollNow _ => true
  | .inventory _ _ | .readBlock _ _ _ | .writeBlock _ _ _ _ => false

/-- The tag of a ring 4 command; none for a poll of R89. -/
def CoilJob.tag : CoilJob → Option Nat
  | .poll => none
  | .pollNow t => some t
  | .inventory t _ => some t
  | .readBlock t _ _ => some t
  | .writeBlock t _ _ _ => some t

/-- The field goes off and the job is over (R73). -/
def fieldOff (s : State) : State :=
  { s with tpx := { s.tpx with
      phase := .off, job := none, stack := [], served := 0, found := [], contexts := 0, ctx := none,
      mark := .off, lastOff := some s.now, afterPoll := s.tpx.job == some .poll } }

/-- The job ends with this status; a poll of R89 has nobody to answer. -/
def endJob (s : State) (status result : Nat) : State :=
  match s.tpx.job.bind CoilJob.tag with
  | some t => complete (fieldOff s) 4 t status result
  | none => fieldOff s

/-- The walk is over (R86, R99): the job ends with what it found. -/
def walkDone (s : State) : State :=
  match s.tpx.job with
  | some (.pollNow _) => endJob s stOk s.tpx.contexts
  | some (.inventory t _) =>
    match findOut s 4 t with
    | some o => completeData (fieldOff s) 4 o.desc (s.tpx.found.flatMap (leBytes 8)) s.tpx.found.length
    | none => fieldOff s
  | some (.readBlock _ _ _) | some (.writeBlock _ _ _ _) => endJob s st4NoTag 0
  | some .poll | none => fieldOff s

/-- Tags the walk may serve (R86, R99). -/
def walkCap (s : State) : Nat :=
  match s.tpx.job with
  | some (.inventory _ cap) => cap
  | _ => s.eff Reg.tpxWalkMaxtags

/-- A node of the walk can hold the tag the job is for. READ_BLOCK and WRITE_BLOCK walk only such nodes: R99 says that they walk
for the identifier and does not say what becomes of the other nodes (DESIGN CHOICE, log 116). -/
def nodeWanted (s : State) (n p : Nat) : Bool :=
  match s.tpx.job.bind CoilJob.target with
  | some id => id / 2 ^ (64 - n) = p
  | none => true

/-- The context of a tag as it is selected. -/
def CoilCtx.start (id : Nat) : CoilCtx :=
  { id := id, cap := 0, nt := 0, nd := 0, slot := none, entry := HollySlot.empty, epoch := 0, current := 0, ks := 0, kt := 0, counter := 0,
    byPassword := false, reqs := Requests.none, oldBytes := [] }

/-- Send SELECT for an identifier. -/
def selectTag (s : State) (id : Nat) : State :=
  let s := { s with tpx := { s.tpx with
    phase := .select, served := s.tpx.served + 1, ctx := some (CoilCtx.start id) } }
  sendCoil s 72 (0x11 * 2 ^ 64 + id)

/-- An identifier is found: an INVENTORY notes it and goes on; any other job selects it. True where the walk goes on. -/
def tagFound (s : State) (id : Nat) : State × Bool :=
  match s.tpx.job with
  | some (.inventory _ _) =>
    ({ s with tpx := { s.tpx with found := s.tpx.found ++ [id], served := s.tpx.served + 1 } }, true)
  | some j => if j.target.getD id = id then (selectTag s id, false) else (s, true)
  | none => (s, true)

/-- Send WALK for a node. -/
def sendWalk (s : State) (n p tries : Nat) : State :=
  let s := { s with tpx := { s.tpx with phase := .walk n p tries } }
  sendCoil s (16 + n) ((0x10 * 256 + n) * 2 ^ n + p)

/-- Take the walk on from its stack (R86, R88). -/
def walkFuel : Nat → State → State
  | 0, s => walkDone s
  | fuel + 1, s =>
    match s.tpx.stack with
    | [] => walkDone s
    | (n, p) :: rest =>
      if walkCap s ≤ s.tpx.served then
        walkDone (match s.tpx.job with
          | some (.inventory _ _) => s
          | _ => s.raise Reg.tpxFaultWalkCap)
      else
        let s1 := { s with tpx := { s.tpx with stack := rest } }
        if nodeWanted s n p then
          if n = 64 then
            let (s2, on) := tagFound s1 p
            if on then walkFuel fuel s2 else s2
          else sendWalk s1 n p 0
        else walkFuel fuel s1

/-- The next node of the walk. -/
def walkNext (s : State) : State := walkFuel (s.tpx.stack.length + 1) s

/-- A whole identifier was read without a collision. -/
def walkFound (s : State) (id : Nat) : State :=
  let (s1, on) := tagFound s id
  if on then walkNext s1 else s1

/-! ### The end of a transponder context (R90, R101) -/

/-- Halt the tag and go on: to the next node of a poll, or to the end of a command with this status. -/
def haltTag (s : State) (status result : Nat) : State :=
  let s := sendCoilBytes s [0x12]
  match s.tpx.job with
  | some j =>
    if j.serves then walkNext { s with tpx := { s.tpx with ctx := none } } else endJob s status result
  | none => fieldOff s

/-- The report of a transponder context (R101). The coil current at an outcome that no reply of the tag brings, as a grant's answer or
a field collapse, is that of its latest reply (DESIGN CHOICE, log 149). -/
def coilReport (s : State) (c : CoilCtx) (oc detail : Nat) : Bytes :=
  [0x01, BitVec.ofNat 8 oc, BitVec.ofNat 8 (bit c.byPassword), BitVec.ofNat 8 detail] ++ leBytes 4 s.rtc ++
    leBytes 8 c.id ++ leBytes 4 (s.stat Reg.tpxPollcount) ++ leBytes 2 (satTo 16 c.current) ++
    [BitVec.ofNat 8 s.tpx.coil, BitVec.ofNat 8 c.reqs.bits] ++ leBytes 4 (nth 0 c.reqs.numbers 0) ++
    leBytes 4 (nth 0 c.reqs.numbers 1)

/-- A transponder context that is no longer open waits for no answer. -/
def reportCoilCtx (s : State) (c : CoilCtx) (oc detail : Nat) : State :=
  forgetCtx (fillBuffer (countOutcome s c.id oc) 4 0x01 (coilReport s c oc detail) 0) 16

/-- The tag being served is done with: in a poll its context returns to FREE with this outcome and its report; a command's
handshake has failed with it (R99, R100). -/
def endTag (s : State) (oc detail : Nat) : State :=
  match s.tpx.job, s.tpx.ctx with
  | some j, some c =>
    if j.serves then haltTag (reportCoilCtx s c oc detail) 0 0
    else haltTag (if oc = ocBad || oc = ocLate then countOutcome s c.id oc else s) st4Refused oc
  | _, _ => s

/-! ### Secured exchanges (R82) -/

/-- The counter block of R82 for a direction, opcode and frame counter: the first of a frame, whose number i is 0; R82 gives the form
of block i and no first value (DESIGN CHOICE, log 144). -/
def secBlock (dir op counter : Nat) : Bytes :=
  [BitVec.ofNat 8 dir, BitVec.ofNat 8 op] ++ zeroBytes 6 ++ beBytes 4 counter ++ zeroBytes 4

/-- Encrypt or decrypt a secured payload. -/
def secCrypt (ks dir op counter : Nat) (data : Bytes) : Bytes := aesCtr (key16 ks) (secBlock dir op counter) data

/-- The MAC of a secured frame. -/
def secMac (ks dir op counter : Nat) (ct : Bytes) : Bytes :=
  (cmac (key16 ks) ([BitVec.ofNat 8 dir, BitVec.ofNat 8 op] ++ beBytes 4 counter ++ ct)).take 4

/-- Send a secured request, with the next frame counter. A counter past 0xFFFF_FFFF halts the tag instead. -/
def sendSecured (s : State) (c : CoilCtx) (step : SecStep) (op : Nat) (payload : Bytes) : State :=
  let n := c.counter + 1
  if 2 ^ 32 ≤ n then endTag s ocNoResponse 0
  else
    let ct := secCrypt c.ks 0x44 op n payload
    let s := { s with tpx := { s.tpx with phase := .secured step, ctx := some { c with counter := n } } }
    sendCoilBytes s ([BitVec.ofNat 8 op] ++ beBytes 4 n ++ ct ++ secMac c.ks 0x44 op n ct)

/-- The payload of a secured reply to a request of this opcode; none where its length, counter or MAC is wrong (R82: such a
reply counts as missing). The reply's direction is "T" and its opcode that of the request it answers (DEDUCED, log 24). -/
def securedPayload (c : CoilCtx) (op len : Nat) (frame : Bytes) : Option Bytes :=
  match replyPayload frame 0x84 (len + 8) with
  | some b =>
    let ct := slice b 4 len
    if beAt b 0 4 = c.counter && slice b (4 + len) 4 = secMac c.ks 0x54 op c.counter ct then
      some (secCrypt c.ks 0x54 op c.counter ct)
    else none
  | none => none

/-- READ of a block. -/
def sendRead (s : State) (c : CoilCtx) (step : SecStep) (block : Nat) : State :=
  sendSecured s c step 0x30 [BitVec.ofNat 8 block]

/-! ### Pending checks (R97, R98) -/

/-- The pending checks are kept in their record (R98). -/
def savePending (s : State) (l : List PendingCheck) : State :=
  nvRequest { s with tpx := { s.tpx with checks := l } } [dataItem .state 0x0143 (.pendingChecks l)] .none

/-- The pending check of a tag that is resolved next. -/
def pendingOf (s : State) (id : Nat) : Option PendingCheck := s.tpx.checks.find? (fun p => p.id == id)

/-- A pending check is resolved by the bytes its block now holds, with its event record. The record's outcome byte holds 0x00 for
WRITTEN, 0x22 for NOT_WRITTEN and 0x28 for BLOCK_MISMATCH, the codes of R100: R416 gives the byte and no values (DESIGN CHOICE, log
117). -/
def resolvePending (s : State) (p : PendingCheck) (data : Bytes) : State :=
  let oc := if data = p.new then stOk else if data = p.old then st4NotWritten else st4Mismatch
  event (savePending s (removeFirst (fun x => x.id == p.id && x.block == p.block) s.tpx.checks)) blkTpx 0x20
    (leBytes 8 p.id ++ [BitVec.ofNat 8 p.block, BitVec.ofNat 8 oc])

/-- The conclusion of a write step that a field collapse or a missing reply ended (R97): the status, and whether a check
stays pending. -/
def writeConclusion (s : State) (step : SecStep) (sentInFull : Bool) : Nat × Bool :=
  match step with
  | .stage _ | .confirm _ => (st4NotWritten, false)
  | .commit _ => if sentInFull then (st4Unknown, true) else (st4NotWritten, false)
  | .verify => (st4Unverified, true)
  | .check _ | .read | .old => (if s.tpx.phase == .off then st4CoilFault else st4NoTag, false)

/-- Note the pending check of an ended write. -/
def notePending (s : State) (c : CoilCtx) (block : Nat) (new : Bytes) : State :=
  savePending s (s.tpx.checks ++ [⟨c.id, block, c.oldBytes, new⟩])

/-- A secured exchange of a write ends without its reply (R97). -/
def writeEnds (s : State) (c : CoilCtx) (step : SecStep) (sentInFull : Bool) (fin : State → Nat → State) : State :=
  let (st, keep) := writeConclusion s step sentInFull
  match s.tpx.job with
  | some (.writeBlock _ _ block data) => fin (if keep then notePending s c block data else s) st
  | _ => fin s st

/-- The EOF cell of the COMMIT frame has ended: 98 cells, begun 256 µs after the reply before it, end 25.344 ms after that reply. A
collapse is placed in time by whole ticks; in the 26th, in which the cell ends, which comes first is a free value (log 25). -/
def commitSent (s : State) : SecStep → Bool
  | .commit t => decide (t + 26 ≤ s.now) || (decide (t + 25 = s.now) && Config.commitEnded s.now)
  | .check _ | .read | .old | .stage _ | .confirm _ | .verify => true

/-- The coil drive turns off other than at the end of a poll or command (R97): the tag's context ends with this outcome, a
write concludes, and a command ends with COIL_FAULT. The outcome of a poll's context that an over-current or a VLF collapse cuts
off is NO_RESPONSE; one in GRANTING, which waits for no reply of its tag, ends with the outcome of its requests so far, also where
a pre-emption of R93 stops the coil (DESIGN CHOICE, log 118: R93 names only a context in CHALLENGING, R97 none). R100 gives
COIL_FAULT for SHORT, OPEN and a low VLF; a command outside the steps of a write completes with it also where a pre-emption, a relock
or a takeover turns the field off (DESIGN CHOICE, log 146). -/
def fieldCollapse (s : State) (oc : Nat) : State :=
  if !fieldOn s then s
  else match s.tpx.job, s.tpx.ctx with
    | some j, some c =>
      if j.serves then
        let o := if s.tpx.phase == .granting && (oc == ocNoResponse || oc == ocPreempted) then c.reqs.outcome else oc
        let s := if s.tpx.phase == .select then s else reportCoilCtx s c o 0
        endJob s st4CoilFault 0
      else match s.tpx.phase with
        | .secured step =>
          let (st, keep) := writeConclusion s step (commitSent s step)
          match j, step with
          | .writeBlock _ _ block data, .stage _ | .writeBlock _ _ block data, .confirm _
          | .writeBlock _ _ block data, .commit _ | .writeBlock _ _ block data, .verify =>
            endJob (if keep then notePending s c block data else s) st 0
          | _, _ => endJob s st4CoilFault 0
        | _ => endJob s st4CoilFault 0
    | _, _ => endJob s st4CoilFault 0

end Sys2Proof.Machine
end

