-- ==== Sys2Proof/Machine/ReleaseOps.lean ====
section
/-! DEFINITION. The release controller: events of ring 1, the decision on a request, the session table's transitions, the
outputs, and how an answer reaches whoever asked (09_release_and_sessions.md R231-R255; 02 R40, R41). -/
namespace Sys2Proof.Machine

/-! ### Ring 1 events (R255) -/

/-- OPENED. -/
def evOpened : Nat := 1
/-- RENEWED. -/
def evRenewed : Nat := 2
/-- QUEUED. -/
def evQueued : Nat := 3
/-- REFUSED. -/
def evRefused : Nat := 4
/-- HOLD. -/
def evHold : Nat := 5
/-- ENDED. -/
def evEnded : Nat := 6
/-- PEER_ANSWER. -/
def evPeerAnswer : Nat := 7

/-- Refusal reasons of R255: FULL. -/
def rsFull : Nat := 1
/-- QUEUE_FULL. -/
def rsQueueFull : Nat := 2
/-- DOOR_NOT_CLOSED. -/
def rsDoor : Nat := 3
/-- RB_STUCK. -/
def rsRbStuck : Nat := 4
/-- NUMBERS_EXHAUSTED. -/
def rsNumbers : Nat := 5
/-- NV_DEFERRED. -/
def rsNvDeferred : Nat := 6
/-- GROUP_DISABLED. -/
def rsDisabled : Nat := 7
/-- PEER_NOT_ACCEPTED. -/
def rsPeer : Nat := 8
/-- QUEUE_EXPIRED. -/
def rsExpired : Nat := 9
/-- DEVICE_FAILED. -/
def rsFailed : Nat := 0x0A

/-- The 32 bytes of an event or a LIST entry. -/
def relRecord (s : State) (kind code flags detail id number peer role opened deadline : Nat) : Bytes :=
  [BitVec.ofNat 8 kind, BitVec.ofNat 8 code, BitVec.ofNat 8 flags, BitVec.ofNat 8 detail] ++ leBytes 4 s.rtc ++
    leBytes 8 id ++ leBytes 4 number ++ leBytes 2 peer ++ [BitVec.ofNat 8 role, 0] ++ leBytes 4 opened ++
    leBytes 4 deadline

/-- Byte 2 of an event. -/
def relFlags (group : Nat) (remote coil : Bool) : Nat := group + 2 * bit remote + 4 * bit coil

/-- Write an event into the oldest EVENT_BUFFER of ring 1, or discard it (02 R46). -/
def relPost (s : State) (rec_ : Bytes) : State := fillBuffer s 1 0x01 rec_ 0

/-- RTC second of a tick from now on. -/
def rtcAt (s : State) (t : Nat) : Nat := s.rtc + (s.pwr.rtcPhase / 4096 + t - s.now) / 1000

/-- An event about a session. -/
def sessEvent (s : State) (code detail : Nat) (e : SessionEntry) : State :=
  let dl := if code = evOpened || code = evRenewed then rtcAt s e.deadline else 0
  relPost s (relRecord s 3 code (relFlags e.group e.peer.isSome e.coil) detail e.id e.number (e.peer.getD s.addr)
    e.role e.opened dl)

/-- An event about a request that opened no session. -/
def reqEvent (s : State) (code detail : Nat) (r : OpenReq) : State :=
  relPost s (relRecord s 3 code (relFlags r.group r.peer.isSome r.coil) detail r.id 0 (r.peer.getD s.addr) r.role 0 0)

/-! ### Outputs (R231-R233) -/

/-- RELBg follows its group at once, while the SPRIG island runs (15 R399); the KEEP latch follows with RELEASE_LATCH_TAKEN. -/
def driveOutputs (s : State) : State :=
  { s with rel := { s.rel with
      relB := if s.pwr.sprigStopped then 0 else bit (groupReleased s 0) + 2 * bit (groupReleased s 1) } }

/-! ### Doors and readback as gates (R234, R238) -/

/-- Door field EN, G0, G1, GATE of door `n` as in force. -/
def doorMap (s : State) (n : Nat) : Nat :=
  s.eff (nth Reg.relDoormap [Reg.relDoormap, Reg.relDoormap1, Reg.relDoormap2, Reg.relDoormap3] n)

/-- Door `n` is enabled. -/
def doorEnabled (s : State) (n : Nat) : Bool := bitAt (doorMap s n) 0

/-- Door `n` is mapped to group `g`. -/
def doorMapped (s : State) (n g : Nat) : Bool := bitAt (doorMap s n) (1 + g)

/-- The stored door `n`. -/
def State.door (s : State) (n : Nat) : Door := tblGet Door.reset s.rel.doors n

/-- Replace door `n`. -/
def State.setDoor (s : State) (n : Nat) (d : Door) : State :=
  { s with rel := { s.rel with doors := tblPut Door.reset s.rel.doors n d } }

/-- STATEn as it reads: UNUSED while EN is 0. -/
def doorState (s : State) (n : Nat) : Nat := if doorEnabled s n then (s.door n).state else 4

/-- An enabled, gated door mapped to the group is not CLOSED (R238). -/
def doorRefuses (s : State) (g : Nat) : Bool :=
  [0, 1, 2, 3].any (fun n => doorEnabled s n && doorMapped s n g && bitAt (doorMap s n) 3 && (s.door n).state != 0)

/-- Readback of group `g`. -/
def State.readback (s : State) (g : Nat) : Readback := tblGet Readback.reset s.rel.rb g

/-- Replace a readback. -/
def State.setReadback (s : State) (g : Nat) (r : Readback) : State :=
  { s with rel := { s.rel with rb := tblPut Readback.reset s.rel.rb g r } }

/-- REL_RB.ENg. -/
def rbEnabled (s : State) (g : Nat) : Bool := s.on (if g = 0 then Reg.relRbEn0 else Reg.relRbEn1)

/-- RB_STUCK is in force for group `g`. -/
def rbRefuses (s : State) (g : Nat) : Bool := rbEnabled s g && (s.readback g).stuck

/-- REL_FAULT.NUMBERS_OUT: after 0xFFFF_FFFF no number is left (R240). -/
def numbersOut (s : State) : Bool := decide (0xFFFFFFFF < s.rel.next)

/-! ### Answers (R41, R242, R247, R248) -/

/-- The MAC of a release-class frame (R248). -/
def relMac (s : State) (slot dst src seq typ : Nat) (body : Bytes) : Bytes :=
  (cmac (s.slot slot).key ([0x52] ++ beBytes 2 dst ++ beBytes 2 src ++ beBytes 2 seq ++ [BitVec.ofNat 8 typ] ++ body)).take 8

/-- The slot SE10 uses for release frames (R248, R251). -/
def fabricSlot (s : State) : Option Nat := engineSlot s roleFabric 10 useEnc

/-- Send a release-class frame with its MAC, which covers the sequence the frame takes. -/
def sendRelease (s : State) (slot dst typ : Nat) (body : Bytes) : State :=
  let s := useSlot s slot
  let seq := (nextSeq s dst false clsRelease).1
  (sendFrame s dst false false clsRelease typ (body ++ relMac s slot dst s.addr seq typ body)).2

/-- Answer a peer's grant (R248). -/
def sendAnswer (s : State) (peer group reqNo : Nat) (a : Answer) : State :=
  match fabricSlot s with
  | some k =>
    sendRelease s k peer 0x02 ([0x02, BitVec.ofNat 8 group] ++ beBytes 2 reqNo ++ beBytes 6 s.fab.time ++
      [BitVec.ofNat 8 a.code, BitVec.ofNat 8 a.reason] ++ beBytes 4 a.number)
  | none => s

/-- A request of a context on a logical group is settled, by an answer or without one; a context whose last request is
settled ends (R41). Context 16 is the transponder's. -/
def settle (s : State) (ctx logical : Nat) (a : Option Answer) : State :=
  if ctx = 16 then
    match s.tpx.phase, s.tpx.ctx with
    | .granting, some c =>
      if c.reqs.pending.contains logical then
        let r := c.reqs.note logical a
        let s := { s with tpx := { s.tpx with ctx := some { c with reqs := r } } }
        if r.pending.isEmpty then endTag s r.outcome 0 else s
      else s
    | _, _ => s
  else match s.ctx ctx with
    | some c =>
      if c.phase == .granting && c.reqs.pending.contains logical then
        let r := c.reqs.note logical a
        let s := s.setCtx ctx { c with reqs := r }
        if r.pending.isEmpty then endCtx s ctx r.outcome 0 else s
      else s
    | none => s

/-- Give a request its answer: a peer by GRANT_ANSWER, a context of this device by settling it. An OPENED that makes its
group released settles when RELAg rises (R41). -/
def answerReq (s : State) (r : OpenReq) (a : Answer) (atLatch : Bool) : State :=
  match r.peer with
  | some p => sendAnswer s p r.group r.reqNo a
  | none =>
    match r.ctx with
    | some c =>
      if atLatch then { s with rel := { s.rel with latch := s.rel.latch ++ [(c, r.logical, r.group)] } }
      else settle s c r.logical (some a)
    | none => s

/-- A refusal, with its ring 1 event. -/
def refuseReq (s : State) (r : OpenReq) (reason : Nat) : State :=
  answerReq (reqEvent s evRefused reason r) r (.refused reason) false

/-! ### Decisions (R240-R242) -/

/-- What R241 decides. -/
inductive Verdict where
  | refuse (reason : Nat)
  | renew (entry : Nat)
  /-- order 8 -/
  | full
  /-- R240: a ceiling record must be committed first -/
  | wait
  /-- order 9, in this entry -/
  | openAt (entry : Nat)
  deriving DecidableEq, Repr

/-- The ladder of R241. An open that finds a FREE entry needs a number below the ceiling (R240). -/
def verdict (s : State) (r : OpenReq) : Verdict :=
  if s.mode == .failed then .refuse rsFailed
  else if !s.on (Reg.relGroupEn r.group) then .refuse rsDisabled
  else if r.peer.isSome && !s.on (Reg.relGroupPeerEn r.group) then .refuse rsPeer
  else match findSess s (fun e => e.live && e.group == r.group && e.id == r.id) with
    | some i => .renew i
    | none =>
      if doorRefuses s r.group then .refuse rsDoor
      else if rbRefuses s r.group then .refuse rsRbStuck
      else if numbersOut s then .refuse rsNumbers
      else match findSess s (fun e => !e.live) with
        | none => .full
        | some i => if s.rel.next < s.rel.ceiling then .openAt i else .wait

/-- Deadline of a session opened or renewed now (R243). -/
def newDeadline (s : State) (g : Nat) : Nat := s.now + 1000 * s.eff (Reg.relGroupTimeout g)

/-- R239, OPEN: renewal by the same token on the same group. -/
def renewSession (s : State) (i : Nat) (r : OpenReq) : State :=
  let e := s.sess i
  let e := { e with phase := .open, deadline := newDeadline s r.group, holdSince := 0 }
  let s := s.setSess i e
  answerReq (sessEvent s evRenewed 0 { e with peer := r.peer, coil := r.coil }) r (.renewed e.number) false

/-- The session in entry `i` ends: its receipt becomes due, its ENDED event is posted and its entry is FREE (R239). -/
def closeEntry (s : State) (i cause : Nat) : State :=
  let e := s.sess i
  let s := receiptDue s (sessionDraft s e cause)
  let s := s.setSess i SessionEntry.free
  driveOutputs (sessEvent s evEnded cause e)

/-- R239, FREE: a session opens in entry `i`; its answer waits for RELAg where the group was not released (02 R41, R231). A HOLDING session of the group ends at that instant with 0x0D (R246). -/
def openSession (s : State) (i : Nat) (r : OpenReq) : State :=
  let was := groupReleased s r.group
  let e : SessionEntry :=
    { SessionEntry.free with
      phase := .open, number := s.rel.next, group := r.group, id := r.id, role := r.role, coil := r.coil,
      peer := r.peer, opened := s.rtc, deadline := newDeadline s r.group, flags := openFlags s }
  let held := findSess s (fun x => x.phase == .holding && x.group == r.group)
  let s := { s with rel := { s.rel with next := s.rel.next + 1 } }
  let s := sessEvent (driveOutputs (s.setSess i e)) evOpened 0 e
  let s := match held with
    | some h => closeEntry s h 0x0D
    | none => s
  answerReq s r (.opened e.number) (!was)

/-- Request the next session-number ceiling of SE12 (R240), unless one is already requested. -/
def requestCeiling (s : State) : State :=
  if nvWaits s (fun e => match e with
      | .sessionCeiling _ => true
      | _ => false) then s
  else
    let c := s.rel.next + 64
    nvRequest s [dataItem .state 0x0140 (.ceilings s.cip.ceilings c)] (.sessionCeiling c)

/-- The queue of R242. -/
def queueReq (s : State) (r : OpenReq) : State :=
  if !s.on Reg.relCtrlFull then refuseReq s r rsFull
  else
    let same (q : OpenReq) : Bool := q.group == r.group && q.id == r.id
    if s.rel.queue.any same then
      let s := { s with rel := { s.rel with
        queue := updateFirst same (fun _ => { r with since := s.now }) s.rel.queue } }
      answerReq (reqEvent s evQueued 0 r) r .queued false
    else if 8 ≤ s.rel.queue.length then refuseReq s r rsQueueFull
    else
      let s := { s with rel := { s.rel with queue := s.rel.queue ++ [{ r with since := s.now }] } }
      answerReq (reqEvent s evQueued 0 r) r .queued false

/-- Decide a request by R241; `requeue` says what order 8 does. -/
def decideWith (full : State → OpenReq → State) (s : State) (r : OpenReq) : State :=
  match verdict s r with
  | .refuse x => refuseReq s r x
  | .renew i => renewSession s i r
  | .full => full s r
  | .openAt i => openSession s i r
  | .wait => requestCeiling { s with rel := { s.rel with waiting := s.rel.waiting ++ [r] } }

/-- Some session of the group is HOLDING. -/
def groupHolding (s : State) (g : Nat) : Bool := anySess s (fun e => e.phase == .holding && e.group == g)

/-- When an entry becomes FREE the oldest queued request is decided again from order 1 (R242); one that still finds no
entry keeps its place. An open that ends a hold frees an entry in its turn. -/
def decideQueuedFuel : Nat → State → State
  | 0, s => s
  | fuel + 1, s =>
    match s.rel.queue with
    | [] => s
    | q :: rest =>
      let t := decideWith (fun u r => { u with rel := { u.rel with queue := r :: u.rel.queue } })
        { s with rel := { s.rel with queue := rest } } q
      if groupHolding s q.group && !groupHolding t q.group && t.rel.next != s.rel.next then
        decideQueuedFuel fuel t else t

/-- An entry has become FREE. -/
def decideQueued (s : State) : State := decideQueuedFuel (s.rel.queue.length + 1) s

/-- Decide a request that arrives (R241). -/
def decide_ (s : State) (r : OpenReq) : State :=
  let t := decideWith queueReq s r
  if groupHolding s r.group && !groupHolding t r.group && t.rel.next != s.rel.next then decideQueued t else t

/-! ### Ends (R243-R246) -/

/-- Hold may apply to this cause (R244). -/
def holdAllows (cause : Nat) : Bool := (decide (1 ≤ cause) && decide (cause ≤ 5)) || cause == 7

/-- The latest hold sample is valid and at or above REL_HOLD.ITHR (R246). -/
def holdHigh (s : State) : Bool := s.rel.hold.2 && decide (100 * s.eff Reg.relHoldIthr ≤ s.rel.hold.1)

/-- R246, Start: the end of the OPEN session in entry `i` starts a hold instead. -/
def holdStarts (s : State) (i cause : Nat) : Bool :=
  let e := s.sess i
  e.phase == .open && holdAllows cause && s.mode != .failed && s.on (Reg.relGroupHoldEn e.group) &&
    !(entries.any (fun j => j != i && (s.sess j).phase == .open && (s.sess j).group == e.group)) && holdHigh s

/-- An end cause of R244 reaches the session in entry `i`. -/
def endEntry (s : State) (i cause : Nat) : State :=
  let e := s.sess i
  match e.phase with
  | .free => s
  | .holding => if holdAllows cause then s else decideQueued (closeEntry s i cause)
  | .open =>
    if holdStarts s i cause then
      let e' := { e with phase := .holding, holdSince := s.now }
      sessEvent (s.setSess i e') evHold cause e'
    else decideQueued (closeEntry s i cause)

/-- Entries that satisfy `p`, in ascending order of session number (10 R271). -/
def entriesBy (s : State) (p : SessionEntry → Bool) : List Nat :=
  (entries.filter (fun i => p (s.sess i))).mergeSort (fun i j => decide ((s.sess i).number ≤ (s.sess j).number))

/-- An end cause reaches every session that satisfies `p`. -/
def endEntries (s : State) (p : SessionEntry → Bool) (cause : Nat) : State :=
  (entriesBy s p).foldl (fun s i => endEntry s i cause) s

/-- Every session ends, and no request stays queued for an entry: the end of the fault grace time (R253), a restart. -/
def endAll (s : State) (cause : Nat) : State := endEntries s SessionEntry.live cause

/-- The sessions of a disabled group end with cause 0x06. -/
def groupDisabled (group : Nat) (s : State) : State := endEntries s (fun e => e.live && e.group == group) 0x06

/-! ### The release decision (02 R39-R41; 09 R247, R251) -/

/-- Logical groups of a slot whose route is enabled (R247). -/
def routedGroups (s : State) (h : HollySlot) : List Nat :=
  [0, 1].filter (fun g => bitAt h.groups g && s.on (relRouteEn g))

/-- What a grant says beside the request (R248): matching zone, range and poll number. -/
structure GrantInfo where
  zone : Nat
  range : Nat
  poll : Nat
  deriving DecidableEq, Repr

/-- Send a RELEASE_GRANT (R248); with K_fabric out of use the request is settled at once as unanswered (R251). -/
def sendGrant (s : State) (ctx g : Nat) (h : HollySlot) (coil : Bool) (i : GrantInfo) : State :=
  match fabricSlot s with
  | none => settle s ctx g none
  | some k =>
    let owner := s.addr / 64 * 64 + s.eff (relRoutePosition g)
    let target := s.eff (relRouteTarget g)
    let n := s.rel.grantNo
    let s := { s with rel := { s.rel with
      grantNo := (n + 1) % 65536,
      sent := s.rel.sent.filter (fun x => x.reqNo != n) ++ [⟨n, owner, target, h.id, h.role, some ctx, g, coil⟩] } }
    sendRelease s k owner 0x01 ([0x01, BitVec.ofNat 8 target] ++ beBytes 2 n ++ beBytes 6 s.fab.time ++
      beBytes 8 h.id ++ [BitVec.ofNat 8 h.role, BitVec.ofNat 8 (bit coil), BitVec.ofNat 8 i.zone, 0] ++
      beBytes 2 (satTo 16 i.range) ++ beBytes 4 i.poll ++ beBytes 4 s.aut.table.epoch)

/-- Ask the owner of one logical group to open a session (02 R40). -/
def requestGroup (s : State) (ctx g : Nat) (h : HollySlot) (coil : Bool) (i : GrantInfo) : State :=
  if s.on (relRouteRemote g) then sendGrant s ctx g h coil i
  else decide_ s ⟨s.eff (relRouteTarget g), h.id, h.role, coil, none, 0, some ctx, g, s.now⟩

/-- The session requests of a context that is in GRANTING with these groups pending. -/
def requestGroups (s : State) (ctx : Nat) (gs : List Nat) (h : HollySlot) (coil : Bool) (i : GrantInfo) : State :=
  gs.foldl (fun s g => requestGroup s ctx g h coil i) s

/-- An answer of an owner to a grant (R248): it settles the context's request, or is reported on ring 1 once the context
has returned to FREE (R255). A queued request stays open for its later answer. -/
def grantAnswered (s : State) (g : SentGrant) (code number : Nat) (a : Answer) : State :=
  let sent := if code = 2 then s.rel.sent else removeFirst (fun x => x == g) s.rel.sent
  let s := { s with rel := { s.rel with sent := sent } }
  match g.ctx with
  | some c => settle s c g.logical (some a)
  | none =>
    relPost s (relRecord s 3 evPeerAnswer (relFlags g.group true g.coil) code g.id number g.owner g.role 0 0)

end Sys2Proof.Machine
end

