-- ==== Sys2Proof/Machine/ProxOps.lean ====
section
/-! DEFINITION. The challenge and the UWB rounds of a context, and the fusion of what they measured: window, exchange,
angle, bounding run, LF bands, zones (06_proximity.md R141-R163; 05_radios.md R110-R118, R125, R135; 08 R203-R209). -/
namespace Sys2Proof.Machine

/-! ### The challenge (08 R205; 06 R142) -/

/-- The channel plan of a challenge: 0 hop, 1 channel 5 only, 2 channel 9 only; 0 where no channel is usable. -/
def channelPlan (s : State) : Nat :=
  match uwbUsable s with
  | (true, true) => if s.on Reg.uwbChanHop then 0 else 1
  | (true, false) => 1
  | (false, true) => 2
  | (false, false) => 0

/-- Bits of a challenge on air. -/
def challengeBits : Nat := 248

/-- The challenge from its body on: 28 bytes and CRC-8. -/
def challengeBody (s : State) (slot nd macd : Nat) : Bytes :=
  let b4 := slot + 16 * (s.eff Reg.uwbPhyPcode - 9) + 64 * channelPlan s
  let b5 := s.eff Reg.uwbPhyPsr + 4 * bit (s.eff Reg.uwbPhyStscfg == 3) + 8 * bit (s.eff Reg.prxBoundRounds == 64) +
    16 * (s.eff Reg.uwbRangeAvg - 1)
  let b := beBytes 2 s.addr ++ [BitVec.ofNat 8 b4, BitVec.ofNat 8 b5] ++ beBytes 16 nd ++ beBytes 8 macd
  b ++ [BitVec.ofNat 8 (crc8 b)]

/-- A challenge on air: preamble, sync and body with its CRC-8 (08 R203, R205). -/
def challengeFrame (body : Bytes) : Bytes := [0x55, 0x3C] ++ body

/-- The challenge of the context on air leaves. -/
def challengeLeaves (s : State) : State :=
  match s.cyc.onAir.bind s.ctx with
  | some c => sgrTransmit s (challengeFrame c.challenge) (airtime s challengeBits)
  | none => s

/-- Effective half-width of the Blackthorn window, 0.1 µs: HALFWIDTH, or the floor of the rate in force (R142). -/
def halfWidth (s : State) : Nat := max (s.eff Reg.prxWindowHalfwidth) (nth 20 [20, 12, 8, 6] (s.eff Reg.sgrFreqRate))

/-- A response start, in 10 ns after the last challenge bit left SG_RFOUT, lies in the window (R141). -/
def inWindow (s : State) (start10ns : Nat) : Bool :=
  let x := start10ns
  let mid := 25000 + s.eff Reg.prxWindowPathdly
  decide (mid ≤ x + 10 * halfWidth s) && decide (x ≤ mid + 10 * halfWidth s)

/-- The response's slot and MACt, where it is whole: 8 bytes of MAC, CRC-8 right. -/
def responseBody (frame : Bytes) : Option (Nat × Nat) :=
  if frame.length = 10 && byteAt frame 9 == crc8 (frame.take 9) then some (byteAt frame 0, beAt frame 1 8) else none

/-! ### UWB rounds (05 R111-R118, R125, R135) -/

/-- Longest duration of an exchange round, µs, by PSR and STS configuration. -/
def exchangeTime (s : State) : Nat :=
  let one := s.eff Reg.uwbPhyStscfg == 1
  nth 1100 (if one then [1285, 1600, 2120, 5250] else [1100, 1400, 1920, 5080]) (s.eff Reg.uwbPhyPsr)

/-- Longest duration of a bounding round, µs. -/
def boundingTime (s : State) : Nat := if s.eff Reg.prxBoundRounds = 64 then 200 else 140

/-- What a UWB charge lays on ticks `lo` to `hi`. -/
def uwbWithin (c : DutyCharge) (lo hi : Nat) : Nat := LfCharge.within ⟨c.tick, c.len, 0⟩ lo hi

/-- Sum of the UWB ring over ticks `lo` to `hi`. -/
def uwbUse (s : State) (lo hi : Nat) : Nat := (s.uwb.charges.map (fun c => uwbWithin c lo hi)).sum

/-- R135 permits a round of this duration now: the window of 1,000 ticks that ends with the round's last one, whatever earlier rounds
have laid on it; the governor halves the cap from level 2. -/
def uwbDutyOk (s : State) (us : Nat) : Bool :=
  let cap := 1000 * recLimit s (fun b => leAt b 20 2) 0 / (if 2 ≤ govLevel s then 2 else 1)
  let last := s.now + ticksOf us - 1
  decide (uwbUse s (last - 999) last + us ≤ cap)

/-- Charge a round that starts now. -/
def uwbCharge (s : State) (us : Nat) : State :=
  { s with uwb := { s.uwb with
      charges := ⟨s.now, us⟩ :: s.uwb.charges.filter (fun c => decide (s.now < c.tick + 1100)) } }

/-- R125 permits a round of this duration, `sinceGrant` and `sinceReq` µs after the rise of grant and COEX_REQ. HOLD binds
only an observed grant (DEDUCED, log 38). -/
def grantCovers (s : State) (us sinceGrant sinceReq : Nat) : Bool :=
  !s.on Reg.sgrCoexEn ||
    (grantSeen s && (decide (sinceReq ≤ sinceGrant) || decide (2 ≤ sinceGrant)) &&
      (s.eff Reg.sgrCoexHold = 0 || decide (sinceGrant + us ≤ s.eff Reg.sgrCoexHold)))

/-- A UWB radio that has never completed a calibration transmits nothing (R123). -/
def uwbNeverCalibrated (s : State) : Bool := s.uwb.calDone / 16 % 4 = 0

/-- The channel of a context's first round: bit 0 of the first byte of CMAC(Ks, "c"), or the lowest usable (R112). -/
def firstNine (s : State) (ks : Nat) : Bool :=
  match uwbUsable s with
  | (true, true) => s.on Reg.uwbChanHop && bitAt (byteAt (cmac (key16 ks) [0x63]) 0) 0
  | (true, false) => false
  | (false, b) => b

/-- The channel of the round after this one. -/
def afterNine (s : State) (nine : Bool) : Bool :=
  if channelPlan s = 0 then !nine else nine

/-- A timestamp corrected by an antenna delay (R114, R115). -/
def txStamp (s : State) (counter : Nat) : Nat := (counter + s.eff Reg.uwbAntdlyTx) % 2 ^ 40

/-- Receive timestamp on a chain. -/
def rxStamp (s : State) (counter chain : Nat) : Nat :=
  (counter + 2 ^ 40 - s.eff (Reg.uwbAntdlyRx chain)) % 2 ^ 40

/-- An interval between two timestamps (R115). -/
def stampDiff (later earlier : Nat) : Nat := (later + 2 ^ 40 - earlier) % 2 ^ 40

/-- The round is over and the transceiver idle. -/
def roundOver (s : State) : State :=
  { s with uwb := { s.uwb with round := none, phase := if s.uwb.phase == .off then .off else .idle, utrsw := false } }

/-- The round is incomplete: its context ends RANGE_FAIL (R118, 06 R155). -/
def roundFails (s : State) : State :=
  match s.uwb.round with
  | some r => endCtx (roundOver s) r.ctx ocRangeFail 0
  | none => s

/-- The STS of a context (08 R201): its key, and the initial value for the frame that `sent` STS-bearing frames of the context went
before. One segment of 64 × 512 chips takes 4,096 bits, 32 counter values (PRESUMED from IEEE 802.15.4z, log 120). -/
def stsKey (ks : Nat) : Nat := beNat (cmac (key16 ks) [0x73])
def stsValue (ks sent : Nat) : Nat :=
  let v := beNat (cmac (key16 ks) [0x76])
  v / 2 ^ 32 * 2 ^ 32 + (v + 32 * sent) % 2 ^ 32

/-- The STS of a frame of the context's exchange in progress, `k` STS-bearing frames after its poll. An exchange has three of them,
its report none (05 R110). -/
def roundSts (c : Ctx) (k : Nat) : Nat × Nat := (stsKey c.ks, stsValue c.ks (3 * c.exchanges.length + k))

/-- The chip keystream of a bounding run, 64 bits a round (06 R150). -/
def chipStream (ks n : Nat) : Bytes := aesCtr (key16 ks) (0x71#8 :: zeroBytes 15) (zeroBytes (8 * n))

/-- Challenge bit `i` of a run (06 R150). -/
def challengeBit (nonce i : Nat) : Bool := bitAt nonce (127 - i)

/-- The 32 chips of the challenge burst of round `i`: the keystream bits from 64 i on, each xor the challenge bit (06 R150). -/
def challengeBurst (stream : Bytes) (nonce i : Nat) : Nat :=
  Nat.xor (beAt stream (8 * i) 4) (if challengeBit nonce i then 2 ^ 32 - 1 else 0)

/-- The challenge bursts of a run. -/
def challengeBursts (s : State) (ks nonce : Nat) : List Nat :=
  let n := s.eff Reg.prxBoundRounds
  let stream := chipStream ks n
  (List.range n).map (challengeBurst stream nonce)

/-- An exchange round starts with its poll, a bounding run with its first challenge (R110, R151). -/
def roundStarts (s : State) (n : Nat) (c : Ctx) (bounding : Bool) (us counter : Nat) : State :=
  let s := uwbCharge s us
  let (nonce, s) := if bounding then s.draw else (c.boundNonce, s)
  let nine := c.nextNine
  let s := s.setCtx n { c with
    phase := if bounding then .bounding else .ranging, boundNonce := nonce, nextNine := afterNine s nine,
    channels := c.channels ||| (if nine then 2 else 1) }
  ({ s with uwb := { s.uwb with
      phase := .tx, nine := nine, lock := true, utrsw := true,
      round := some { ctx := n, step := if bounding then .bounding else .response, nine := nine, t1 := txStamp s counter,
                      t4 := 0, t5 := 0, phases := [], offset := 0 } } }).emit
    (if bounding then .uwbFrame 4 nine none (challengeBursts s c.ks nonce) else .uwbFrame 0 nine (some (roundSts c 0)) [])

/-! ### One exchange (06 R144-R148) -/

/-- Range of an exchange in nm: (Ra·Rb − Da·Db) / (Ra + Rb + Da + Db) units of 1/63,897.6 MHz at 299,792,458 m/s. -/
def exchangeRange (ra da db rb : Nat) : Int :=
  divRound (((ra * rb : Nat) - (da * db : Nat) : Int) * 2997924580000) ((ra + rb + da + db) * 638976)

/-- A phase difference wrapped to (−π, π] in 1/`turn` turns. -/
def wrapTurn (turn : Nat) (x : Int) : Int :=
  let r := x % turn
  if (turn / 2 : Nat) < r then r - turn else r

/-- Offset Cj of a chain for the channel, in 1/65,536 turn. -/
def phaseCal (s : State) (nine : Bool) (j : Nat) : Int :=
  64 * (s.eff (if nine then nth Reg.prxPhcal9C1 [Reg.prxPhcal9C1, Reg.prxPhcal9C2, Reg.prxPhcal9C3] (j - 1)
    else nth Reg.prxPhcal5C1 [Reg.prxPhcal5C1, Reg.prxPhcal5C2, Reg.prxPhcal5C3] (j - 1)) : Nat)

/-- Wavelength in µm. -/
def wavelength (nine : Bool) : Nat := if nine then 37534 else 46196

/-- The denominator of u and v: 131,072 half units of a turn at PITCH × 100 µm. -/
def uvDen (s : State) : Nat := 13107200 * s.eff Reg.prxAoaPitch

/-- A completed exchange. -/
def exchangeOf (s : State) (nine : Bool) (phases : List (Option Nat)) (offset range : Int) : Exchange :=
  let p (j : Nat) : Int := (((nth none phases j).getD 0 : Nat) : Int)
  let raw (j : Nat) : Int := wrapTurn 65536 (p j - p 0)
  let d (j : Nat) : Int := wrapTurn 65536 (p j - p 0 - phaseCal s nine j)
  let da := wrapTurn 131072 (d 1 + wrapTurn 65536 (d 2 - d 3))
  let db := wrapTurn 131072 (d 3 + wrapTurn 65536 (d 2 - d 1))
  { range := range, u := da * wavelength nine, v := db * wavelength nine,
    paths := (List.range 4).all (fun j => (nth none phases j).isSome), nine := nine,
    raw := [unsignedOf 16 (raw 1), unsignedOf 16 (raw 2), unsignedOf 16 (raw 3)], offset := offset }

/-! ### The bounding run (06 R150-R154) -/

/-- The bit a received burst reads as against its keystream; none where it matches neither. -/
def burstBit (chips key : Nat) : Option Bool :=
  let ones := popCount 32 (Nat.xor (chips % 2 ^ 32) key)
  if ones ≤ 6 then some false else if 26 ≤ ones then some true else none

/-- One-way distance of a round, 10^-14 mm. -/
def roundDistance (rtt : Nat) : Int := ((rtt * 1565035 : Nat) - (12800000000 : Nat) : Int) * 149896229

/-- 1 mm in those units. -/
def perMm : Int := 100000000000000

/-- Evaluate a completed run (R154). -/
def evalRun (s : State) (c : Ctx) (rounds : List (Option BoundRound)) : BoundResult :=
  let n := s.eff Reg.prxBoundRounds
  let stream := chipStream c.ks n
  let regs := beNat (cmac (key16 c.ks) [0x62])
  (List.range n).foldl (fun (r : BoundResult) i =>
    let ci := challengeBit c.boundNonce i
    let ri := bitAt regs (if ci then 63 - i else 127 - i)
    let bad := { r with wrong := r.wrong + 1 }
    match nth none rounds i with
    | none => bad
    | some b =>
      if burstBit b.chips (beAt stream (8 * i + 4) 4) = some ri then
        let d := roundDistance (stampDiff (rxStamp s b.heard 1) (txStamp s b.sent))
        if d < -(perMm * s.eff Reg.prxBoundMargin) then bad
        else { r with good := r.good + 1, sum := r.sum + d, maxd := if r.good = 0 then d else max r.maxd d }
      else bad) ⟨0, 0, 0, 0⟩

/-- The run passes against zone `n` (R154). -/
def runPasses (s : State) (r : BoundResult) (n : Nat) : Bool :=
  decide (0 < r.good) && decide (r.wrong ≤ s.eff Reg.prxBoundErrmax) &&
    decide (r.maxd ≤ perMm * (10 * s.eff (Reg.prxZoneDmax n) + s.eff Reg.prxBoundMargin : Nat))

/-! ### LF bands (06 R156, R157) -/

/-- The valid entries of a channel's table: D, FHI, FLO. -/
def lfTable (s : State) (c : Nat) : List (Nat × Nat × Nat) :=
  let step (acc : List (Nat × Nat × Nat) × Bool) (k : Nat) : List (Nat × Nat × Nat) × Bool :=
    let i := 12 * c + k
    let d := s.eff (Reg.prxLftabD i)
    let hi := s.eff (Reg.prxLftabFhi i)
    let last := match acc.1.getLast? with
      | some e => e.1
      | none => 0
    if acc.2 || hi = 0 then acc
    else if d ≤ last then (acc.1, true)
    else (acc.1 ++ [(d, hi, s.eff (Reg.prxLftabFlo i))], false)
  ((List.range 12).foldl step ([], false)).1

/-- Normalised field of three axis codes, in 2^-30 dB; none without a measurement. -/
def lfField (s : State) (codes : List Nat) (ic : Nat) : Option Int :=
  let sum := (codes.map (fun k => if k = 0 then 0 else tenPower (k - 1))).sum
  let iref := s.eff Reg.prxLfrefIref
  if sum = 0 || ic = 0 then none else some (decibels (sum * iref * iref) (10 ^ 15 * ic * ic))

/-- Distance at which a column falls to `f` between two entries that it spans, in 2^-20 mm. -/
def interpolate (f : Int) (d0 c0 d1 c1 : Nat) : Int :=
  (d0 : Int) * 2 ^ 20 +
    divRound ((codeLevel c0 - f) * ((d1 : Int) - d0) * 2 ^ 20) ((codeLevel c0 - codeLevel c1).toNat)

/-- The first crossing of a column that stands above `f` and then not above it: `strict` where the level itself still
counts as above. -/
def crossing (f : Int) (strict : Bool) : List (Nat × Nat) → Option Int
  | (d0, c0) :: (d1, c1) :: t =>
    let above (c : Nat) : Bool := if strict then decide (f ≤ codeLevel c) else decide (f < codeLevel c)
    if above c0 && !above c1 then some (interpolate f d0 c0 d1 c1) else crossing f strict ((d1, c1) :: t)
  | _ => none

/-- The band [Dlo, Dhi] of a normalised field, in 2^-20 mm; Dhi none where unbounded. -/
def lfBand (tbl : List (Nat × Nat × Nat)) (f : Int) (saturated : Bool) : Int × Option Int :=
  let his := tbl.map (fun e => (e.1, e.2.1))
  let los := tbl.map (fun e => (e.1, e.2.2))
  let first := tbl.headD (0, 0, 0)
  let last := tbl.getLastD (0, 0, 0)
  let mm (d : Nat) : Int := (d : Int) * 2 ^ 20
  let hi := if codeLevel first.2.1 ≤ f then some (mm first.1) else if f < codeLevel last.2.1 then none
    else some ((crossing f false his).getD (mm last.1))
  let lo := if saturated || codeLevel first.2.2 < f then 0 else if f ≤ codeLevel last.2.2 then mm last.1
    else (crossing f true los).getD (mm first.1)
  (lo, hi)

/-- The band of one group of three codes, where its channel has a measurement and a table of at least two entries. -/
def groupBand (s : State) (codes : List Nat) (c ic : Nat) : Option (Int × Option Int) :=
  let tbl := lfTable s c
  if tbl.length < 2 then none
  else (lfField s codes ic).map (fun f => lfBand tbl f (codes.contains 0xFF))

/-- The point keeps within a band of the channel's antenna, widened by TOL_LF (R158). -/
def bandHolds (s : State) (p : List Int) (c : Nat) (b : Int × Option Int) : Bool :=
  let at_ (f : Fld) : Int := signed 16 (s.eff f)
  let dx := nth 0 p 0 - at_ (Reg.prxLfposX c)
  let dy := nth 0 p 1 - at_ (Reg.prxLfposY c)
  let dz := nth 0 p 2 - at_ (Reg.prxLfposZ c)
  let d2 := (dx * dx + dy * dy + dz * dz) * 2 ^ 40
  let tol := (s.eff Reg.prxTol0Lf : Int) * 2 ^ 20
  let lo := b.1 - tol
  (decide (lo ≤ 0) || decide (lo * lo ≤ d2)) && (match b.2 with
    | some h => decide (d2 ≤ (h + tol) * (h + tol))
    | none => true)

/-! ### The point and the zones (06 R147, R148, R158-R160) -/

/-- Array axes a, b and boresight n in the antenna frame by MOUNT. -/
def mountAxes (m : Nat) : List Int × List Int × List Int :=
  match m with
  | 1 => ([1, 0, 0], [0, -1, 0], [0, 0, -1])
  | 2 => ([0, 1, 0], [0, 0, 1], [1, 0, 0])
  | 3 => ([0, -1, 0], [0, 0, 1], [-1, 0, 0])
  | 4 => ([-1, 0, 0], [0, 0, 1], [0, 1, 0])
  | 5 => ([1, 0, 0], [0, 0, 1], [0, -1, 0])
  | _ => ([1, 0, 0], [0, 1, 0], [0, 0, 1])

/-- Direction (u, v) over a denominator, with azimuth and elevation in 2^-40 turns and w over the denominator × 2^40. -/
structure Direction where
  u : Int
  v : Int
  den : Nat
  w : Nat
  az : Int
  el : Int
  deriving DecidableEq, Repr

/-- The direction of a (u, v); none where u² + v² exceeds 1. -/
def direction (u v : Int) (den : Nat) : Option Direction :=
  let k : Int := (den : Int) * den
  if k < u * u + v * v then none
  else
    let w := isqrt ((k - u * u - v * v).toNat * 2 ^ 80)
    let cosEl := isqrt ((k - v * v).toNat * 2 ^ 80)
    some { u := u, v := v, den := den, w := w, az := atan2 (u * 2 ^ 40) w, el := atan2 (v * 2 ^ 40) cosEl }

/-- The zone contains a point (R159). -/
def zoneHolds (s : State) (p : List Int) (n : Nat) : Bool :=
  let f (x : Fld) : Int := signed 16 (s.eff x)
  let x := nth 0 p 0
  let y := nth 0 p 1
  let z := nth 0 p 2
  let coil := s.on Reg.tpxCtrlEn && s.eff Reg.tpxCtrlZone = n
  s.on (Reg.prxZoneEn n) && !coil && decide (f (Reg.prxZoneZmin n) ≤ z) && decide (z ≤ f (Reg.prxZoneZmax n)) &&
    (if s.eff (Reg.prxZoneShape n) = 0 then
      decide (f (Reg.prxZoneXmin n) ≤ x) && decide (x ≤ f (Reg.prxZoneXmax n)) &&
        decide (f (Reg.prxZoneYmin n) ≤ y) && decide (y ≤ f (Reg.prxZoneYmax n))
    else
      let cx := f (Reg.prxZoneXmin n)
      let cy := f (Reg.prxZoneXmax n)
      let r : Int := ((s.eff (Reg.prxZoneYmin n) % 32768 : Nat) : Int)
      decide ((x - cx) * (x - cx) + (y - cy) * (y - cy) ≤ r * r))

/-- The zones in force that contain a point, lowest first. -/
def zonesAt (s : State) (p : List Int) : List Nat := (List.range 16).filter (zoneHolds s p)

/-! ### Fusion (06 R158) -/

/-- What fusion finds: a detail code, or the figures of the report and of the release. -/
inductive Fused where
  | implausible (detail : Nat)
  | plausible (point : List Int) (range az el : Int) (bandA bandB : Option (Int × Option Int))
  deriving DecidableEq, Repr

/-- The (u, v) numerators and denominator of the context: the last exchange's, or in FULL the mean. -/
def ctxUv (s : State) (c : Ctx) : Int × Int × Nat :=
  if aoaFull s then
    ((c.exchanges.map Exchange.u).sum, (c.exchanges.map Exchange.v).sum, uvDen s * c.exchanges.length)
  else match c.exchanges.getLast? with
    | some e => (e.u, e.v, uvDen s)
    | none => (0, 0, uvDen s)

/-- The angle is valid (R148). -/
def angleValid (s : State) (c : Ctx) : Bool :=
  let ok (e : Exchange) : Bool := e.paths && (direction e.u e.v (uvDen s)).isSome
  if aoaFull s then c.exchanges.all ok && !c.exchanges.isEmpty
  else match c.exchanges.getLast? with
    | some e => ok e
    | none => false

/-- The bands of the two groups; FS_B only where it is used. -/
def ctxBands (s : State) (c : Ctx) : Option (Int × Option Int) × Option (Int × Option Int) :=
  (groupBand s (fieldCodes c 0) c.chA c.loops.1,
   match c.chB with
   | some b => groupBand s (fieldCodes c 1) b c.loops.2
   | none => none)

/-- Sum of the exchange ranges, nm. -/
def rangeSum (c : Ctx) : Int := (c.exchanges.map Exchange.range).sum

/-- The largest minus the smallest exchange range is above TOL_RANGE. -/
def rangeSpread (s : State) (c : Ctx) : Bool :=
  c.exchanges.any (fun a => c.exchanges.any (fun b =>
    decide ((s.eff Reg.prxTol1Range : Int) * 1000000 < a.range - b.range)))

/-- Some exchange's angle leaves TOL_ANG of the context's. -/
def angleSpread (s : State) (c : Ctx) (d : Direction) : Bool :=
  c.exchanges.any (fun e => match direction e.u e.v (uvDen s) with
    | some x => !withinDeg (x.az - d.az) (s.eff Reg.prxTol1Ang) || !withinDeg (x.el - d.el) (s.eff Reg.prxTol1Ang)
    | none => true)

/-- P in mm, halves away from zero. -/
def ctxPoint (s : State) (c : Ctx) (d : Direction) : List Int :=
  let (a, b, n) := mountAxes (s.eff Reg.prxAoaMount)
  let k := d.den * c.exchanges.length * 1000000 * 2 ^ 40
  [0, 1, 2].map (fun i =>
    divRound (rangeSum c * (d.u * 2 ^ 40 * nth 0 a i + d.v * 2 ^ 40 * nth 0 b i + d.w * nth 0 n i)) k)

/-- The checks of R158 in order. -/
def fuse (s : State) (c : Ctx) : Fused :=
  let b := c.bound.getD ⟨0, 0, 0, 0⟩
  let n := c.exchanges.length
  let (u, v, den) := ctxUv s c
  if b.good = 0 then .implausible 9
  else if 1 < s.eff Reg.uwbRangeAvg && rangeSpread s c then .implausible 7
  else if !angleValid s c then .implausible 2
  else match direction u v den with
    | none => .implausible 2
    | some d =>
      let (ba, bb) := ctxBands s c
      let p := ctxPoint s c d
      let fov := s.eff Reg.prxAoaFov
      let apart := b.sum * n - rangeSum c * b.good * 100000000
      if !withinDeg d.az fov || !withinDeg d.el fov then .implausible 1
      else if aoaFull s && 1 < s.eff Reg.uwbRangeAvg && angleSpread s c d then .implausible 8
      else if ba.isNone && bb.isNone then .implausible 3
      else if ba.any (fun x => !bandHolds s p c.chA x) then .implausible 4
      else if bb.any (fun x => !bandHolds s p (c.chB.getD 0) x) then .implausible 5
      else if perMm * (s.eff Reg.prxTol0Bound * b.good * n : Nat) < (apart.natAbs : Int) then .implausible 6
      else .plausible p (divRound (rangeSum c) (1000000 * n)) d.az d.el ba bb

/-- A band as report bytes: Dlo, Dhi in mm, 0xFFFF unbounded; zero where there is none. -/
def bandBytes (b : Option (Int × Option Int)) : Bytes :=
  let mm (x : Int) : Nat := min 0xFFFF (divRound x (2 ^ 20)).toNat
  match b with
  | some (lo, hi) => leBytes 2 (mm lo) ++ leBytes 2 (match hi with
    | some h => min 0xFFFE (mm h)
    | none => 0xFFFF)
  | none => zeroBytes 4

/-- The figures of a plausible context as `Ctx.fused` keeps them: flag bits 1 and 2, then report bytes 22-54 (R162). -/
def fusedBytes (s : State) (c : Ctx) (p : List Int) (range az el : Int) (ba bb : Option (Int × Option Int))
    (zone : Option Nat) (zones : List Nat) (passed : Bool) : Bytes :=
  let b := c.bound.getD ⟨0, 0, 0, 0⟩
  let flags := 2 * bit zone.isSome + 4 * bit (zone.isSome && passed)
  let s16 (x : Int) : Bytes := leBytes 2 (unsignedOf 16 x)
  let mm (x : Int) (k : Nat) : Bytes := s16 (divRound x (perMm.toNat * k))
  let off := match c.exchanges.getLast? with
    | some e => e.offset
    | none => 0
  [BitVec.ofNat 8 flags, BitVec.ofNat 8 (zone.getD 0xFF),
    BitVec.ofNat 8 (c.chA + 16 * c.chB.getD 0 + 128 * bit c.chB.isSome)] ++ leBytes 2 (zones.foldl setBit 0) ++
    p.flatMap s16 ++ leBytes 2 (satTo 16 range.toNat) ++ s16 (tenthsDeg az) ++ s16 (tenthsDeg el) ++
    [BitVec.ofNat 8 b.wrong, BitVec.ofNat 8 (s.eff Reg.prxBoundRounds)] ++ mm b.maxd 1 ++ mm b.sum (max 1 b.good) ++
    bandBytes ba ++ bandBytes bb ++ s16 off ++ [BitVec.ofNat 8 c.channels]

end Sys2Proof.Machine
end

