-- ==== Sys2Proof/Machine/ReadBack.lean ====
section
/-! DEFINITION. What a read of a register returns: fields as held (00 R441), counts and flags as kept, and the fields that
show the state of the device (the RO rows of the register tables), with what a reader may not see (07 R198; 08 R213;
12 R338, R345-R347; 15 R411). -/
namespace Sys2Proof.Machine

/-! ### Fields that show the state -/

/-- A field and the value it shows. -/
abbrev Shown := Fld × (State → Nat)

/-- SYS_STATE.STATE: 0 STARTING, 1 RUNNING, 2 FAILED. In RECOVERY the start sequence is not finished (14 R373). -/
def stateCode : Mode → Nat
  | .seed | .starting | .recovery => 0
  | .running => 1
  | .failed => 2

/-- SYS_ and the clamp window's counts. -/
def shownSys : List Shown :=
  [(Reg.sysStateState, fun s => stateCode s.mode), (Reg.sysStateAppServing, fun s => bit s.pwr.appServing),
   (Reg.sysProfileModified, fun s => bit (profileModified s)), (Reg.hifClampHeld, fun s => s.hif.clampLog.length)]

/-- Bit `n` of HIF_PROXY_LOST: a proxy link of position n is LOST. -/
def proxyLostMask (s : State) (hi : Nat) : Nat :=
  (List.range 32).foldl (fun m n =>
    if (s.link (32 * hi + n) 0).lost || (s.link (32 * hi + n) 1).lost then setBit m n else m) 0

/-- HIF_. -/
def shownHif : List Shown :=
  [(Reg.hifProxyLost 0, fun s => proxyLostMask s 0), (Reg.hifProxyLost 1, fun s => proxyLostMask s 1)]

/-- FAB_PORT codes. -/
def portCode : PortPhase → Nat
  | .disabled => 0
  | .training => 1
  | .up => 2
  | .held => 3
  | .down => 4
  | .asleep => 5

/-- FAB_STATUS.JOIN codes. -/
def joinCode : JoinState → Nat
  | .joining => 0
  | .joined => 1
  | .addrFull => 2
  | .headConflict => 3

/-- FAB_EPOCH.STATE: the idle bank is prepared, or the old one retiring. -/
def epochState (s : State) : Nat :=
  match (s.bank (1 - s.fab.epoch)).state with
  | .valid => 1
  | .retiring => 2
  | _ => 0

/-- FAB_. -/
def shownFab : List Shown :=
  [(Reg.fabAddrValid, fun s => bit s.fab.addr.isSome), (Reg.fabAddrHead, fun s => bit s.fab.head),
   (Reg.fabStatusJoin, fun s => joinCode s.fab.join), (Reg.fabStatusRing, fun s => bit (ringLine s)),
   (Reg.fabStatusInuse, fun s => popCount 64 (inuseMask s)),
   (Reg.fabStatusSegments, segmentCount),
   (Reg.fabPortState0, fun s => portCode (portPhase s 0)), (Reg.fabPortState1, fun s => portCode (portPhase s 1)),
   (Reg.fabPortState2, fun s => portCode (portPhase s 2)), (Reg.fabPortState3, fun s => portCode (portPhase s 3)),
   (Reg.fabSpillPresent, fun s => bit (s.fab.xspi != 0)), (Reg.fabPoolSharedUsed, fun s => s.fab.sharedUsed),
   (Reg.fabPoolSpilled, fun s => s.fab.spilled), (Reg.fabEpochCur, fun s => s.fab.epoch),
   (Reg.fabEpochState, epochState),
   (Reg.fabEpochOldcount, fun s => if epochState s = 2 then satTo 12 (epochCount s (1 - s.fab.epoch)) else 0),
   (Reg.fabEpochUpdate, fun s => s.fab.update % 65536), (Reg.fabTimeLo, fun s => s.fab.time % 2 ^ 32),
   (Reg.fabTimeHi, fun s => s.fab.timeHi), (Reg.fabInuse 0, fun s => inuseMask s % 2 ^ 32),
   (Reg.fabInuse 1, fun s => inuseMask s / 2 ^ 32)]

/-- LF_CHAN_STATUS fields. -/
def lfChanFields : List Fld :=
  [Reg.lfChanState0, Reg.lfChanState1, Reg.lfChanState2, Reg.lfChanState3, Reg.lfChanState4, Reg.lfChanState5,
   Reg.lfChanState6, Reg.lfChanState7]

/-- LF_: the channels' states and resonances, and the duty rings over the latest 1,000 ticks. -/
def shownLf : List Shown :=
  (Reg.lfDutyStatDelaying, fun s => bit s.lf.refusedAt.isSome) ::
  (Reg.lfDutyuse 8, fun s => lfUse s none (s.now - 999) s.now) ::
  (List.range 8).flatMap (fun c =>
    [(nth Reg.lfChanState0 lfChanFields c, fun s => lfState s c),
     (Reg.lfTrimResfreq c, fun s => (s.chan c).resonance), (Reg.lfTrimValid c, fun s => bit (s.chan c).valid),
     (Reg.lfDutyuse c, fun s => lfUse s (some c) (s.now - 999) s.now)])

/-- TPX_. -/
def shownTpx : List Shown :=
  [(Reg.tpxStatusState, fun s => s.tpx.coil), (Reg.tpxStatusIlast, fun s => s.tpx.ilast),
   (Reg.tpxStatusField, fun s => bit (fieldOn s)), (Reg.tpxPendingCount, fun s => s.tpx.checks.length)]

/-- SGR_STATUS.STATE codes. -/
def sgrCode : SgrPhase → Nat
  | .off => 0
  | .sleep => 1
  | .idle => 2
  | .synth => 3
  | .rx => 4
  | .tx => 5
  | .cal => 6

/-- Every sub-GHz calibration has completed and a reference is stored (SGR_CALSTAT.VALID). -/
def sgrCalValid (s : State) : Bool := s.sgr.tlastValid && s.sgr.calDone % 16 = 15

/-- SGR_. -/
def shownSgr : List Shown :=
  [(Reg.sgrCalstatTlast, fun s => unsignedOf 8 (s.sgr.tlast / 10)), (Reg.sgrCalstatValid, fun s => bit (sgrCalValid s)),
   (Reg.sgrCalstatPending, fun s => bit (s.pwr.tasks.any (fun t => t.kind == .sgrCal || t.kind == .oscTrim))),
   (Reg.sgrCalstatRtcerr, fun s => unsignedOf 16 s.sgr.rtcErr), (Reg.sgrXtrimApplied, fun s => s.sgr.trim),
   (Reg.sgrStatusState, fun s => sgrCode s.sgr.phase), (Reg.sgrStatusLock, fun s => bit s.sgr.lock),
   (Reg.sgrStatusBandOk, fun s => bit (bandNow s).isSome),
   (Reg.sgrFaultNoRegrec, fun s => if s.running && s.rad.regRec.isNone then 1 else s.stat Reg.sgrFaultNoRegrec),
   (Reg.sgrRegstatValid, fun s => bit s.rad.regRec.isSome),
   (Reg.sgrRegstatVersion, fun s => recLimit s (fun b => byteAt b 0) 0),
   (Reg.sgrRegstatRegion, fun s => recLimit s (fun b => leAt b 4 2) 0)] ++
  (List.range 4).map (fun b => (Reg.sgrDutyuse b, fun s => bandUse s b / 1000))

/-- UWB_STATUS.STATE codes. -/
def uwbCode : UwbPhase → Nat
  | .off => 0
  | .idle => 2
  | .cal => 3
  | .rx => 4
  | .tx => 5

/-- UWB_ and PRX_. -/
def shownUwb : List Shown :=
  [(Reg.uwbStatusState, fun s => uwbCode s.uwb.phase), (Reg.uwbStatusChan, fun s => bit s.uwb.nine),
   (Reg.uwbStatusLock, fun s => bit s.uwb.lock), (Reg.uwbStatusGrant, fun s => bit (grantSeen s)),
   (Reg.uwbTimeLo, fun s => s.uwb.time % 2 ^ 32), (Reg.uwbTimeHi, fun s => s.uwb.timeHi),
   (Reg.uwbDutyuse, fun s => uwbUse s (s.now - 999) s.now), (Reg.prxWindowEffective, halfWidth)]

/-- The epoch of the learn open or awaiting its time; 0 if none. -/
def pendingEpoch (s : State) : Nat :=
  match s.aut.learn, s.aut.pendingSet with
  | some l, _ => l.epoch
  | none, some p => p.epoch
  | none, none => 0

/-- Slots locked now. -/
def lockedNow (s : State) : Nat :=
  (s.aut.locks.filter (fun e => slotLocked s e.1)).length +
    (s.aut.heldLocks.filter (fun i => (lockOf s i) == LockState.zero)).length

/-- A field that R213 hides from a reader without the TRANSPORT slot. -/
def ifHolly (f : State → Nat) (s : State) : Nat := if hollyPermits s then f s else 0

/-- AUT_. -/
def shownAut : List Shown :=
  [(Reg.autCtxOpen, fun s => s.cyc.ctxs.length), (Reg.autStatusMode, fun s => bit s.aut.table.individual),
   (Reg.autStatusModeConflict, fun s => bit s.aut.modeConflict), (Reg.autStatusLearning, fun s => bit s.aut.learn.isSome),
   (Reg.autStatusPending, fun s => bit s.aut.pendingSet.isSome), (Reg.autStatusNoMaster, fun s => bit (masterSlot s).isNone),
   (Reg.autStatusUnknownLocked, fun s => bit (unknownLocked s)), (Reg.autStatusSlotsUsed, ifHolly slotsUsed),
   (Reg.autEpoch, ifHolly (fun s => s.aut.table.epoch)), (Reg.autPendingEpoch, ifHolly pendingEpoch),
   (Reg.autPendtime, fun s => (s.aut.pendingSet.map HollySet.time).getD 0),
   (Reg.autUnknownUfails, fun s => s.aut.unknown.fails),
   (Reg.autUnknownRemain, fun s => if unknownLocked s then min 120 (s.aut.unknown.lockEnd - s.rtc) else 0),
   (Reg.autStat1LockedNow, lockedNow)]

/-- Group `g` has a session in HOLDING. -/
def holdingBit (s : State) (g : Nat) : Nat := bit (groupHolding s g)

/-- REL_. -/
def shownRel : List Shown :=
  [(Reg.relDoorState0, fun s => doorState s 0), (Reg.relDoorState1, fun s => doorState s 1),
   (Reg.relDoorState2, fun s => doorState s 2), (Reg.relDoorState3, fun s => doorState s 3),
   (Reg.relRbLevel, fun s => bit ((s.readback 0).level == 1) + 2 * bit ((s.readback 1).level == 1)),
   (Reg.relStatusReleased, fun s => bit (groupReleased s 0) + 2 * bit (groupReleased s 1)),
   (Reg.relStatusHolding, fun s => holdingBit s 0 + 2 * holdingBit s 1), (Reg.relStatusOpen, liveCount),
   (Reg.relStatusQueued, fun s => s.rel.queue.length),
   (Reg.relStatusGrace, fun s => bit (s.mode == .failed && s.pwr.graceEnd.isSome)),
   (Reg.relFaultNumbersOut, fun s => bit (numbersOut s)), (Reg.relSessnumNext, fun s => s.rel.next % 2 ^ 32)]

/-- A metrology channel. -/
def State.mchan (s : State) (n : Nat) : Channel := tblGet Channel.reset s.mtr.chans n

/-- Results are being discarded under R259. -/
def settling (s : State) : Bool := s.mtr.delivered && s.on Reg.mtrCtrlEn && [0, 1, 2, 3].any (fun n => (s.mchan n).discard != 0)

/-- MTR_. The upper words read as the latest read of their lower words latched them. -/
def shownMtr : List Shown :=
  [(Reg.mtrStatusUsable, fun s => [0, 1, 2, 3].foldl (fun m n => if s.mtr.delivered && (s.mchan n).usable then setBit m n else m) 0),
   (Reg.mtrStatusSource, fun s => bit (s.mtr.source == 1)),
   (Reg.mtrStatusGap, fun s => bit (s.mtr.delivered && s.on Reg.mtrCtrlEn && s.mtr.source == 2)),
   (Reg.mtrStatusPending, fun s => bit s.mtr.settingsPending), (Reg.mtrStatusSettling, fun s => bit (settling s)),
   (Reg.mtrFaultRollupOpen, fun s => bit s.mtr.rollup.isSome), (Reg.mtrRcptNext, fun s => s.mtr.rcptNext % 2 ^ 32),
   (Reg.mtrRcptAck, fun s => s.mtr.rcptAck), (Reg.mtrRcptStatUnacked, unackedCount),
   (Reg.mtrRcptStatRolled, fun s => satTo 16 ((s.mtr.rollup.map Draft.rolled).getD 0)),
   (Reg.mtrEpoch, fun s => s.mtr.epoch), (Reg.mtrEpochReloaded, fun s => bit s.mtr.reloaded)] ++
  (List.range 4).flatMap (fun i =>
    [(Reg.mtrLifeLo i, fun s => nth 0 (lifeCounters s) i % 2 ^ 32), (Reg.mtrLifeHi i, fun s => nth 0 s.mtr.hiLatch i)])

/-- Occupied slots that the host may see (07 R198). -/
def occMask (s : State) (hi : Nat) : Nat :=
  (List.range 32).foldl (fun m n => if hostSees s (32 * hi + n) then setBit m n else m) 0

/-- CIP_ and KEY_. -/
def shownKey : List Shown :=
  [(Reg.cipStatusLoaded, fun s => s.cip.loaded.getD 0), (Reg.cipStatusLoadedValid, fun s => bit s.cip.loaded.isSome),
   (Reg.keyLifecycleState, fun s => s.cip.lifeCycle.code),
   (Reg.keyLifecycleDebugOpen, fun s => bit (s.cip.lifeCycle == .blank || s.cip.lifeCycle == .returned)),
   (Reg.keyOcc 0, fun s => occMask s 0), (Reg.keyOcc 1, fun s => occMask s 1),
   (Reg.keyDevid 0, fun s => s.cip.deviceId % 2 ^ 32), (Reg.keyDevid 1, fun s => s.cip.deviceId / 2 ^ 32)] ++
  (List.range 64).flatMap (fun n =>
    [(Reg.keyAttr n, fun s => if hostSees s n then (s.slot n).attr else 0),
     (Reg.keyMaster n, fun s => if hostSees s n then (s.slot n).master else 0)])

/-- Highest erase count of the areas on one of the two flashes. -/
def highestWear (s : State) (code : Bool) : Nat :=
  (allAreas.filter (fun a => a.inCode == code)).foldl (fun m a => max m (highestErase s a)) 0

/-- VHOLD, mV. -/
def vhold (s : State) : Nat := nth 0 s.pwr.supplies 6

/-- NVS_. -/
def shownNvs : List Shown :=
  [(Reg.nvsStatusNvwp, fun s => bit s.nvwp), (Reg.nvsStatusHoldOk, fun s => bit (decide (4500 ≤ vhold s))),
   (Reg.nvsStatusSingle, fun s => bit (!s.nvs.single.isEmpty)), (Reg.nvsStatusQueue, fun s => satTo 8 s.nvs.queue.length),
   (Reg.nvsHoldVhold, fun s => satTo 10 (vhold s / 10)), (Reg.nvsWeard, fun s => satTo 17 (highestWear s false)),
   (Reg.nvsWearc, fun s => satTo 14 (highestWear s true))]

/-- Header of the running main image. -/
def runningHeader (s : State) : Bytes := s.upd.running.getD Config.factoryHeader

/-- Header of loader copy `c`. -/
def loaderHeader (s : State) (c : Nat) : Bytes :=
  match s.upd.loaderHeaders.find? (fun e => e.1 == c) with
  | some e => e.2
  | none => Config.factoryLoader c

/-- UPD_STATUS.STATE. -/
def updCode (s : State) : Nat :=
  if s.mode == .recovery then 4
  else match s.upd.phase with
    | .idle => 0
    | .receiving => 1
    | .written => 2
    | .activating => 3

/-- UPD_ENGMAP fields. -/
def engmapFields : List Fld :=
  [Reg.updEngmap0, Reg.updEngmap1, Reg.updEngmap2, Reg.updEngmap3, Reg.updEngmap4, Reg.updEngmap5, Reg.updEngmap6,
   Reg.updEngmap7, Reg.updEngmap8, Reg.updEngmap9, Reg.updEngmap10, Reg.updEngmap11, Reg.updEngmap12, Reg.updEngmap13,
   Reg.updEngmap14]

/-- UPD_. -/
def shownUpd : List Shown :=
  [(Reg.updStatusState, updCode), (Reg.updStatusSpareBusy, fun s => bit s.upd.spareRole.isSome),
   (Reg.updProgressWritten, fun s => popCount 29 s.upd.written), (Reg.updProgressTotal, fun s => byteAt s.upd.header 2),
   (Reg.updVerApp, fun s => leAt (runningHeader s) 8 4),
   (Reg.updVerMc, fun s => s.upd.runningMicro.getD (leAt (runningHeader s) 12 4)),
   (Reg.updVerLdr, fun s => leAt (loaderHeader s s.upd.loaderRan) 16 4), (Reg.updFloorSecver, fun s => s.upd.floor)] ++
  (List.range 15).map (fun r => (nth Reg.updEngmap0 engmapFields r, fun s => nth 0 s.upd.engmap r)) ++
  (List.range 8).map (fun k => (Reg.updAppkey k, fun s => leAt (beBytes 32 s.upd.appKey) (4 * k) 4))

/-- Automatic restarts recorded within the latest 86,400 s (15 R412). -/
def autoCount (s : State) : Nat := (s.pwr.autoRestarts.filter (fun t => decide (s.rtc < t + 86400))).length

/-- PWR_. -/
def shownPwr : List Shown :=
  [(Reg.pwrStatusRung, rung), (Reg.pwrStatusLevel, govLevel), (Reg.pwrResetAutoCount, autoCount),
   (Reg.pwrRtc, State.rtc), (Reg.pwrThermTemp, fun s => unsignedOf 8 (s.pwr.temp / 10)),
   (Reg.pwrSchedQueued, fun s => satTo 8 s.pwr.tasks.length)]

/-- Every field that shows the state. -/
def shownFields : List Shown :=
  shownSys ++ shownHif ++ shownFab ++ shownLf ++ shownTpx ++ shownSgr ++ shownUwb ++ shownAut ++ shownRel ++ shownMtr ++
    shownKey ++ shownNvs ++ shownUpd ++ shownPwr

/-- The value held as it is read: what a cylinder reserves reads zero (00 R3, R441). -/
def heldValue (s : State) (r : FieldSpec) (off : Nat) : Nat := s.held (r.fld off) % 2 ^ valueWidth s r off

/-- FAB_ADDR.SEG of a downstream device that holds an address reads the segment it learned (11 R310). -/
def learnedSegment (s : State) (f : Fld) : Option Nat :=
  if f.key = Reg.fabAddrSeg.key && !s.fab.head then s.fab.addr.map (· / 64) else none

/-- The value a field reads as (00 R4, R441). -/
def fieldValue (s : State) (r : FieldSpec) (off : Nat) : Nat :=
  let f := r.fld off
  match r.acc with
  | .rw | .rwl => (learnedSegment s f).getD (heldValue s r off)
  | .wo => 0
  | .ro | .w1c => match shownFields.find? (fun e => e.1.key == f.key) with
    | some e => e.2 s % 2 ^ f.width
    | none => s.stat f

/-- The set-up register at `off`, all fields in their places. -/
def setupValue (s : State) (off : Nat) : Nat := ((fieldsAt off).map (fun r => fieldValue s r off * 2 ^ r.lsb)).sum

/-! ### RING_, the clamp window and MSI-X (12 R338, R345, R347) -/

/-- RING_STATUS.STATE codes. -/
def ringCode : RingPhase → Nat
  | .disabled => 0
  | .enabled => 1
  | .draining => 2
  | .error => 3

/-- Register `o` of ring `n`. -/
def ringRegister (s : State) (n o : Nat) : Nat :=
  let r := s.ring n
  match o with
  | 0x00 => r.sqBase % 2 ^ 32
  | 0x04 => r.sqBase / 2 ^ 32
  | 0x08 => r.cqBase % 2 ^ 32
  | 0x0C => r.cqBase / 2 ^ 32
  | 0x10 => r.sqk + 256 * r.cqk
  | 0x14 => bit (r.phase == .enabled || r.phase == .error) + 2 * bit r.intEn + 256 * ringVector s n + 65536 * r.coalCnt
  | 0x18 => r.coalTime
  | 0x1C => ringCode r.phase + 4 * bit r.cqPhase + 256 * (openDescs r).length
  | 0x20 => r.sqHead + 65536 * r.sqTail
  | 0x24 => r.cqTail + 65536 * r.cqHead
  | 0x28 => r.ovf
  | 0x2C => r.err
  | _ => 0

/-- One clamp report entry as it is read. -/
def clampBytes (e : ClampEntry) : Bytes :=
  leBytes 2 e.off ++ [BitVec.ofNat 8 e.lsb, BitVec.ofNat 8 e.width] ++ leBytes 4 e.written ++ leBytes 4 e.applied ++
    [BitVec.ofNat 8 e.source, 0] ++ leBytes 2 e.seq

/-- Word `k` of the clamp report window from 0x4C00; a place without an entry reads zero. -/
def clampWord (s : State) (k : Nat) : Nat :=
  match s.hif.clampLog.find? (fun e => e.seq % 64 == k / 4) with
  | some e => leAt (clampBytes e) (4 * (k % 4)) 4
  | none => 0

/-- A word of the MSI-X table: a vector control word masks its vector until it is written. -/
def msixWord (s : State) (k : Nat) : Nat := tblGet (if k % 4 = 3 then 1 else 0) s.hif.msixTable k

/-- The register exists for this reader: HIF_ but HIF_SUBSYS, and the MSI-X structures, only on the head (R346, R313). -/
def onThisDevice (s : State) (off : Nat) : Bool :=
  s.fab.head || !((0x0400 ≤ off && off < 0x0800 && off != 0x0430) || 0xE000 ≤ off)

/-- A register that a device in this mode answers: in STARTING SYS_ and RING_ alone, in FAILED those of R411. -/
def answersIn (m : Mode) (off : Nat) : Bool :=
  match m with
  | .seed => false
  | .starting => off < 0x0400 || (0x0800 ≤ off && off < 0x0C00)
  | .running | .recovery => true
  | .failed => off = 0x0000 || off = 0x0008 || off = 0x440C || off = 0x4414

/-- A read of the register at `off`. -/
def readRegister (s : State) (off : Nat) : Nat :=
  if !answersIn s.mode off || !onThisDevice s off then 0
  else if 0x0800 ≤ off && off < 0x0C00 then ringRegister s ((off - 0x0800) / 64) ((off - 0x0800) % 64)
  else if 0x4C00 ≤ off && off < 0x5000 then clampWord s ((off - 0x4C00) / 4)
  else if 0xE000 ≤ off && off < 0xE400 then msixWord s ((off - 0xE000) / 4)
  else if off = 0xF000 then s.hif.pba % 2 ^ 32
  else if off = 0xF004 then s.hif.pba / 2 ^ 32
  else setupValue s off

/-- What a read of a low word latches: the high word of fabric time (11 R310), UWB time (05 R140) or a lifetime counter (10
R282). -/
def readLatches (off : Nat) (s : State) : State :=
  if off = Reg.fabTimeLo.key / 32 then { s with fab := { s.fab with timeHi := s.fab.time / 2 ^ 32 } }
  else if off = Reg.uwbTimeLo.key / 32 then { s with uwb := { s.uwb with timeHi := s.uwb.time / 2 ^ 32 } }
  else match [0, 1, 2, 3].find? (fun i => off == (Reg.mtrLifeLo i).key / 32) with
    | some i => { s with mtr := { s.mtr with hiLatch := s.mtr.hiLatch.set i (nth 0 (lifeCounters s) i / 2 ^ 32) } }
    | none => s

/-- A read with what it latches, where the register answers at all. -/
def registerRead (off : Nat) (s : State) : State × Nat :=
  (if answersIn s.mode off then readLatches off s else s, readRegister s off)

/-- A host read of BAR0: the answer leaves the device. -/
def answerRead (off : Nat) (s : State) : State :=
  let (t, v) := registerRead off s
  t.emit (.barAnswer v)

/-! ### Writes as the audit log sees them (12 R339, R340) -/

/-- A write of the register at `off` that does `f`: one audit entry with the register before and after. -/
def auditedWrite (source off : Nat) (f : State → State) (s : State) : State :=
  let t := f s
  audit t source 0 0 reqHost off (readRegister s off) (readRegister t off) 0

end Sys2Proof.Machine
end

