-- ==== Sys2Proof/Machine/ConfigOps.lean ====
section
/-! DEFINITION. The configuration as a whole: the registers that hold it, its blob and its digest (12_host_interface.md R330,
R331, R337; 07_cipher_and_keys.md R195). -/
namespace Sys2Proof.Machine

/-- Those that exist on this device (R346). -/
def configRegs (s : State) : List Nat := configOffsets.filter (onThisDevice s)

/-- The configuration fields of a register. -/
def configFields (off : Nat) : List FieldSpec := (fieldsAt off).filter FieldSpec.isConfig

/-- The values held in a register's configuration fields, every other bit zero (R337). -/
def heldWord (s : State) (off : Nat) : Nat := ((configFields off).map (fun r => heldValue s r off * 2 ^ r.lsb)).sum

/-- The entries of the blob of R331. -/
def blobEntries (s : State) : Bytes :=
  (configRegs s).flatMap (fun o => leBytes 2 o ++ leBytes 2 0 ++ leBytes 4 (heldWord s o))

/-- The blob that CONFIG_EXPORT writes (R337). -/
def configBlob (s : State) : Bytes :=
  let b := blobEntries s
  leBytes 2 2 ++ leBytes 2 (b.length / 8) ++ leBytes 4 (16 + b.length) ++ leBytes 4 (crc32 b) ++ zeroBytes 4 ++ b

/-- The configuration digest of R195. -/
def configDigest (s : State) : Bytes := sha256 (configBlob s)

/-- Cells cut into parts of a configuration set; `fuel` bounds their number. -/
def cellParts : Nat → Cells → List Cells
  | 0, _ => []
  | fuel + 1, l => if l.isEmpty then [] else l.take 127 :: cellParts fuel (l.drop 127)

/-- The records of a configuration set of generation `g`: the parts, then the header, which holds the format of the configuration as
well (13 R356, R357; 14 R385). -/
def configItems (s : State) (g : Nat) : List RecItem :=
  let ps := cellParts (s.heldCells.length + 1) s.heldCells
  critItems ((ps.zipIdx.map (fun e => (0x0002 + e.2, false, RecData.cfgPart g e.1))) ++
    [(0x0001, false, RecData.cfgHeader g ps.length s.upd.cfgFormat)])

/-- The generation that a further configuration set takes. -/
def nextConfigGen (s : State) : Nat := (setGens s 0x0001).foldl max s.nvs.cfgGen + 1

end Sys2Proof.Machine
end

