-- ==== Sys2Proof/Machine/AbortOps.lean ====
section
/-! DEFINITION. Aborting a descriptor, and a ring's ENABLE (12_host_interface.md R323, R347). -/
namespace Sys2Proof.Machine

/-- The requests to the store that belong to this command and have not begun to program. -/
def dropRequests (n tag : Nat) (s : State) : State :=
  { s with nvs := { s.nvs with
      queue := s.nvs.queue.filter (fun q => q.started || q.eff.ring != some n || q.eff.tag != tag) } }

/-- The ring 5 job in hand is this command's. -/
def sgrWorksOn (s : State) (tag : Nat) : Bool := s.sgr.work.tag == some tag

/-- Nothing of this ring 5 command is left (05 R138): a packet that has not been switched to leaves the transceiver as it stands; a
reception or a measurement ends in its return state (log 47). -/
def cancelSgr (tag : Nat) (s : State) : State :=
  let s := dropCalibrations { s with sgr := { s.sgr with
    jobs := s.sgr.jobs.filter (fun w => w.tag != some tag), calCmds := s.sgr.calCmds.filter (fun c => c.1 != tag) } }
  if sgrWorksOn s tag then
    match s.sgr.work with
    | .rxPacket _ _ back => sgrNextJob (sgrReturn (sgrFree s) back)
    | .rssi _ => sgrNextJob (sgrReturn (sgrFree s) (s.eff Reg.sgrCtrlRxoff))
    | .txPacket _ _ _ | .none | .cycle | .prod => sgrNextJob (sgrFree s)
  else s

/-- Nothing of this ring 10 command is left: a chunk that waits for its first erase, an ACTIVATE short of its first swap, after
which the image is still WRITTEN (14 R390). -/
def cancelUpd (tag : Nat) (s : State) : State :=
  let s := if s.upd.deferred.any (fun e => e.1 == tag) then { s with upd := { s.upd with deferred := none } } else s
  match s.upd.act with
  | some a => if a.tag = tag then { s with upd := { s.upd with act := none, phase := .written } } else s
  | none => s

/-- The work that a command short of its abort point has left in the device is dropped. -/
def cancelWork (n tag : Nat) (s : State) : State :=
  let s := dropRequests n tag s
  match n with
  | 2 =>
    if nvBusy s 2 then s
    else { s with aut := { s.aut with learn := s.aut.learn.map (fun l => { l with committing := false }) } }
  | 8 => remasksLate
      (if s.cip.lcWaits.any (fun w => w.1 == tag) then { s with cip := { s.cip with lcWaits := none } } else s)
  | 4 => { s with tpx := { s.tpx with queue := s.tpx.queue.filter (fun j => j.tag != some tag) } }
  | 5 => cancelSgr tag s
  | 10 => cancelUpd tag s
  | 13 => { s with pwr := { s.pwr with
      selftests := s.pwr.selftests.filter (fun t => t.tag != tag),
      prodTx := match s.pwr.prodTx with
        | some p => if p.tag = tag then none else some p
        | none => none } }
  | 15 => { s with hif := { s.hif with mailbox := s.hif.mailbox.filter (fun m => m.tag != tag) } }
  | _ => s

/-- The target of an ABORT at the instant of decision: short of its abort point it completes ABORTED; the Bool says so. -/
def abortTag (n tag : Nat) (s : State) : State × Bool :=
  match findOut s n tag with
  | some o => if o.past then (s, false) else (complete (cancelWork n tag s) n tag stAborted 0, true)
  | none => (s, false)

/-- Every outstanding descriptor is treated as the target of an ABORT. -/
def abortAll (n : Nat) (s : State) : State :=
  (s.ring n).outstanding.foldl (fun s o => (abortTag n o.desc.tag s).1) s

/-- A draining ring with nothing outstanding is DISABLED. What has counted towards its interrupt still brings it (R321). -/
def drained (n : Nat) (s : State) : State :=
  let r := s.ring n
  if r.phase == .draining && (openDescs r).isEmpty then s.setRing n { r with phase := .disabled } else s

/-- ENABLE from 0 to 1: pointers 0, phase 1, ENABLED. Ignored in every other state. -/
def ringEnables (n : Nat) (s : State) : State :=
  let r := s.ring n
  if r.phase == .disabled then
    s.setRing n { r with
      phase := .enabled, cqPhase := true, sqHead := 0, sqTail := 0, cqTail := 0, cqHead := 0, unread := 0 }
  else s

/-- ENABLE from 1 to 0: fetching stops, and each outstanding descriptor is aborted. -/
def ringDisables (n : Nat) (s : State) : State :=
  let r := s.ring n
  if r.phase == .enabled || r.phase == .error then drained n (abortAll n (s.setRing n { r with phase := .draining })) else s

end Sys2Proof.Machine
end

