-- ==== Sys2Proof/Machine/FailOps.lean ====
section
/-! DEFINITION. Entering FAILED, and the record of a single fault (09_release_and_sessions.md R253;
15_power_and_supervision.md R407, R410, R411, R418). -/
namespace Sys2Proof.Machine

/-- Stop the LF array, the coil and both transmitters, and let go of the coexistence lines (R411). -/
def stopEmissions (s : State) : State :=
  let s := fieldCollapse s ocDeviceFailed
  { s with
    lf := { s.lf with pattern := none, burst := none, burstWait := [], refusedAt := none, vlfHeld := false },
    tpx := { s.tpx with vlfHeld := false },
    sgr := { s.sgr with
      phase := .off, lock := false, held := false, work := .none, jobs := [], grantWait := false, coexReq := false,
      trswTx := false, trswRx := false, paEn := false, calCmds := [] },
    uwb := { s.uwb with phase := .off, lock := false, utrsw := false, round := none },
    cyc := { s.cyc with coexReq := false, coexPri := false },
    pwr := { s.pwr with running := none, prodTx := none } }

/-- FAULT_GRACE: the sessions end with cause 0x08 and no grace runs any more (09 R253). -/
def endGrace (s : State) : State :=
  let s := endAll s 0x08
  { s with pwr := { s.pwr with graceEnd := none } }

/-- The device enters FAILED with this cause: contexts end DEVICE_FAILED, emissions stop, and the grace time begins; with a
grace time of 0 the sessions end in the tick of entry (R253, R410, R411). -/
def enterFailed (s : State) (cause detail : Nat) : State :=
  if s.mode == .failed then s
  else
    let s := (s.setStat Reg.pwrFailinfoCause cause).setStat Reg.pwrFailinfoDetail detail
    let t := s.eff Reg.relGraceTime
    let s := { s with mode := .failed, pwr := { s.pwr with graceEnd := some (s.now + 1000 * t) } }
    let s := stopEmissions (endCtxs s (fun _ => true) ocDeviceFailed)
    let s := { s with cyc := { s.cyc with
      phase := .idle, slotBusy := false, allocated := 0, onAir := none, keyed := [], keyedIds := [] } }
    if t = 0 then endGrace s else s

/-- A single fault of R407: an entry of the fault history and an event record that carries it. Its gap is what the device
measured, a free value. -/
def noteSingleFault (s : State) (code unit : Nat) : State :=
  let gap := (Config.faultGap s.pwr.singleFaults).toNat
  let e : FaultEntry := ⟨code, unit, gap, s.rtc, s.fab.time % 2 ^ 32⟩
  let s := { s with pwr := { s.pwr with
    history := e :: s.pwr.history.take 15, singleFaults := satTo 32 (s.pwr.singleFaults + 1) } }
  event s blkPwr 0x21 ([BitVec.ofNat 8 code, BitVec.ofNat 8 unit] ++ leBytes 2 gap ++ leBytes 4 e.rtc ++ leBytes 4 e.time)

/-- A single fault with its bit of PWR_FAULT (R407). -/
def singleFault (s : State) (f : Fld) (code unit : Nat) : State := noteSingleFault (s.raise f) code unit

/-- A double-bit ECC error and a double count (R406). -/
def eccDoubleFault (s : State) (unit : Nat) : State :=
  singleFault (s.bump Reg.pwrEccDouble) Reg.pwrFaultEccDouble 0x03 unit

/-! ### Thermal governor (15 R414, R415) -/

/-- Take over new governor inputs; a rise sets THERM, and a change of level makes an event record
(R414-R416, R419). -/
def setGovernor (s : State) (therm ntc : Nat) : State :=
  let t := { s with pwr := { s.pwr with thermLevel := therm, ntcHot := ntc } }
  let t := if ntc = 0 then t else t.raise Reg.pwrFaultNtc
  let t := if govLevel s < govLevel t then t.raise Reg.pwrFaultTherm else t
  if govLevel t = govLevel s then t
  else event t blkPwr 0x22 [BitVec.ofNat 8 (govLevel t), BitVec.ofNat 8 (unsignedOf 8 (t.pwr.temp / 10))]

/-- Threshold of a level, 0.1 °C. -/
def levelThreshold (s : State) (n : Nat) : Int := 10 * (s.eff Reg.pwrThermT1 : Int) + 100 * ((n : Int) - 1)

/-- The level from the die temperature: reached at its threshold, and kept until 5.0 °C below it. -/
def levelAt (s : State) (t : Int) : Nat :=
  ([1, 2, 3].filter (fun n => decide (levelThreshold s n ≤ t) ||
    (decide (n ≤ s.pwr.thermLevel) && decide (levelThreshold s n - 50 < t)))).foldl max 0

/-- A sample of the die temperature (15 R414): 155 °C ends in FAILED, and below it the governor follows. -/
def tempTaken (s : State) (tenths : Int) : State :=
  let s := { s with pwr := { s.pwr with temp := tenths } }
  if 1550 ≤ tenths then enterFailed s 0x08 0 else setGovernor s (levelAt s tenths) s.pwr.ntcHot

/-- A frame that fails R249 is dropped and counted; at most one event a second. -/
def dropRelease (s : State) : State :=
  let s := (s.bump Reg.relStatDropped).raise Reg.relFaultGrantDrop
  let due := match s.rel.dropEvent with
    | some t => decide (t + 1000 ≤ s.now)
    | none => true
  if due then event { s with rel := { s.rel with dropEvent := some s.now } } blkRel 5 [] else s

end Sys2Proof.Machine
end

