-- ==== Sys2Proof/Machine/Inputs.lean ====
section
/-! DEFINITION. What a vacant role is owed: every message, doorbell and hardware result addressed to it is held in order, and
delivered to the engine that takes the role over (15_power_and_supervision.md R408). -/
namespace Sys2Proof.Machine

/-- The roles that serve ring `n` (01 R8, R9); APP serves the others. -/
def serverRoles (n : Nat) : List Nat :=
  match n with
  | 3 => [6]
  | 4 => [2]
  | 5 => [3]
  | 6 => [9]
  | 7 => [8]
  | 11 | 14 => [13]
  | 12 => [10]
  | _ => []

/-- The role that owns a context: SE2 that of the coil, SE6 one that waits for a session. -/
def ownerRoles (ctx : Nat) : List Nat := if ctx = 16 then [2] else [6]

/-- The roles SE0-SE13 to which a command is addressed, by the subsystems of 01_system_view.md: it acts once each of them is there (log
86, DEDUCED). -/
def rolesOf (c : Instr) : List Nat :=
  match c with
  -- APP, hardware or KEEP
  | .registerWrite _ _ | .profileWrite _ | .pollCycleBoundary | .diagNow | .lfRearm _ | .releaseLatchTaken _
  | .tpxRearm | .coexGrantChange _ | .privetRemask | .drbgReseed _ | .entropyWindowEnd _ _ | .trngStartupTestEnd _
  | .loadClear _ _ | .loadWrapped _ _ | .derive _ _ | .erase _ | .narrow _ | .attest _ | .lcNonce _ | .lcNonceExpiry
  | .lcAdvance _ _ | .enroll _ _ | .revoke _ | .readSlot _ | .find _ | .learnBegin _ | .learnEntries _ _
  | .learnCommit _ _ | .learnCancel _ | .unlock _ | .digest _ | .learnedSetEffective | .sessionTimeout _
  | .auxAdcFrame _ _ _ | .readbackTimeout _ | .holdMaxtimeExpiry _ | .queueWaitExpiry _ | .faultGraceExpiry
  | .eventBuffer _ | .list _ | .endSession _ | .endGroup _ | .setDeadline _ | .groupDisable _ | .counterLoRead _
  | .linkLoss _ _ | .frameReceived _ _ _ | .frameSent _ _ | .spillReadback _ _ _ | .holdTimeExpiry _
  | .asleepHoldExpiry _ | .wakeSequence _ | .rejoin | .fabTimeLoRead | .uwbTimeLoRead | .pcieReset
  | .pcieDmaError _ _ _ | .ringEnable _ | .ringDisable _ | .ringDrained _ | .configApply _ _ | .configExport _
  | .auditRead _ | .configSave _ | .post _ _ | .mailboxRecvBuffer _ | .appMessage _ _ | .vholdReady _
  | .mainSupplyFailure _ _ _ _ _ _ | .read _ | .write _ _ | .delete _ | .hostRecordList _ | .wear _ | .activate _ _ _
  | .roleHandoverSwap _ | .appHandoverPoint | .appWaitExpiry | .restart _ | .exportAsset _ | .setAppkey _ _
  | .deepAfterExpiry | .wakeSource _ | .vbkLoss _ | .clockMonitorFlag _ | .xtal32Recover | .setRtc _ _ | .rtcNonce _
  | .rtcNonceExpiry | .powerOnReset _ _ _ | .nrst | .brownOut _ | .pwrRestart | .autoRestart | .watchdogReset
  | .startSequence _ | .engineCheckpoint _ | .eccError _ _ _ | .engineFault _ | .spareTakeover _ | .appFault
  | .reseedWaitExpiry | .pcieLinkUp _ _ | .pcieLinkDown | .pciePowerState _ | .mailboxTake | .tapInstruction _
  | .badAccessRead _ => []
  -- LF drive sequencing
  | .wakePatternStart _ | .dutyTick | .vlfCollapse _ | .bridgeOvercurrent _ _ | .wakePatternEnd _ _ _ _
  | .lfStartWaitEnd | .lfDiagBurstEnd _ _ _ _ => [0, 1]
  -- a pattern or a coil action held for VLF
  | .vlfLowRetest _ => [0, 1, 2]
  -- supervision, calibration, rings 11 and 14
  | .lfDiagPeriod | .temperatureSample _ | .calBlockEnd _ | .oscMeasureEnd _ | .selftest _ | .prodTx _ | .schedule _
  | .monitors _ | .faults _ | .supervisionEventBuffer _ | .quietSlotTask _ _ | .taskDeadlinePreempt _ _
  | .spareMemoryTest _ | .prodTxPeriod => [13]
  -- the announce window and the challenges
  | .announceWindowOpen | .slotEmptyClose | .slotGuardEnd | .announceFrame _ _ | .challengeTurn _ _
  | .responseFrame _ _ _ _ | .responseTimeout => [3, 7]
  -- ranging and bounding
  | .uwbRoundStart _ _ _ | .rangeGrantTimeout _ | .uwbResponseFrame _ _ _ | .uwbFinalTx _ | .uwbReportFrame _
  | .uwbRxWindowEnd | .uwbLockLoss | .uwbTxWaitExpiry | .boundingRunComplete _ => [4, 5]
  -- fusion and ring 3
  | .fusionComplete _ | .prxReportBuffer _ | .testPoint _ => [6]
  -- the transponder link and ring 4
  | .coilPollStart _ | .coilSettleEnd _ _ _ | .coilOvercurrent | .coilVlfCollapse | .walkReply _ _
  | .selectedReply _ _ _ | .nonceReply _ _ _ | .authReply _ _ _ | .passwordReply _ _ _ | .securedReply _ _ _
  | .tpxReplyMissing _ _ | .tpxReportBuffer _ | .pollNow _ | .inventory _ | .readBlock _ | .writeBlock _ _ => [2]
  -- the sub-GHz baseband and ring 5
  | .sgrSynthLock | .sgrLockLoss | .sgrTxWaitExpiry | .sgrTxEnd | .txPacket _ _ | .rxPacket _ | .calibrate _
  | .regrecRead _ | .regrecWrite _ _ | .rssi _ | .sgrPacketReceived _ _ | .sgrRxTimeout | .rssiMeasureEnd _
  | .coexWaitExpiry => [3]
  -- ring 7
  | .encrypt _ _ | .decrypt _ _ _ | .mac _ _ | .nonce _ | .counter _ => [8]
  -- authentication
  | .lockoutEnd _ | .unknownLockoutEnd | .lockoutCheckpoint => [7]
  -- metering, receipts and ring 6
  | .holdSample | .decimatorResult _ _ | .channelUsableReturn _ | .xchkWindowEnd | .meterCheckpoint
  | .meterSettingsApply | .receiptFormed | .receiptKeyUsable | .receiptBuffer _ | .ack _ | .readReceipt _
  | .counters _ | .rollNonce _ | .rollNonceExpiry | .rollover _ _ | .receiptCommitRetry => [9]
  -- the store manager
  | .sessionCeilingCommit _ _ | .auditCommit | .recordWriteDone _ _ | .sectorEraseDone _ _ _ | .scrubPeriod _ _ _ _
  | .scrubNow _ _ _ _ _ | .begin_ _ _ _ | .chunk _ _ _ | .chunkDeferExpiry | .importAsset _ _ _ => [12]
  -- fabric control, ring 12 and the release frames
  | .releaseGrant _ _ _ _ | .sessionEnd _ _ _ _ | .endRemote _ | .hello _ _ | .helloTimeout _ | .joinReqRetry
  | .joinReq _ _ | .joinAnswer _ _ | .addrFullRetry | .leave _ _ | .positionLeaveTimeout _ | .timeSyncSend
  | .timeSync _ _ _ | .timeSyncLoss | .portEvent _ _ | .prepare _ _ | .ready _ _ | .flip _ _ | .retired _ _
  | .cancel _ _ | .readyTimeout | .retireTimeout | .updateRepeat | .segAdvertSend | .segAdvert _ _ | .send _ _
  | .recvBuffer _ | .peerMessage _ _ _ _ _ _ | .idleSequenceRun _ | .helloSend _ | .updateHoldoffEnd => [10]
  -- an answer for a context of SE6 or of SE2
  | .grantAnswer _ _ _ _ => [10, 6, 2]
  -- a receipt that the store commits
  | .receiptCommitted _ _ => [9, 12]
  -- host DMA and proxy
  | .sqTail _ _ _ _ | .cqHead _ _ _ _ | .descriptorFetch _ _ _ | .interruptCoalesceExpiry _ | .bar4Access _ _ _ _
  | .doorbell _ _ _ _ _ | .readReq _ _ _ _ _ _ _ _ _ | .readData _ _ _ _ _ _ | .proxyWrite _ _ _ _ _ _ _
  | .interrupt _ _ _ _ _ | .regWrite _ _ _ _ | .regRead _ _ _ _ | .regData _ _ _ _ _ | .proxyAck _ _ _
  | .proxyRtoExpiry _ _ | .regwaitExpiry _ => [11]
  -- the owner of the context, and the server of the ring
  | .grantAnswerTimeout ctx _ => ownerRoles ctx
  | .nop ring _ | .abort ring _ => serverRoles ring

/-- The role whose inputs are held: one that waits for the spare, or one that the spare carries while inputs of it are still to be
delivered. -/
def heldRole (s : State) : Option Nat :=
  match s.pwr.vacant with
  | some v => some v.role
  | none => if s.pwr.inputs.isEmpty then none else s.upd.spareRole

/-- No role of this command has its inputs held. -/
def rolesThere (s : State) (c : Instr) : Bool := (heldRole s).all fun r => !(rolesOf c).contains r

/-- An input of a vacant role is held behind those before it. -/
def inputHeld (s : State) (c : Instr) : State := { s with pwr := { s.pwr with inputs := s.pwr.inputs ++ [c] } }

/-- A command reaches the roles that it is addressed to, or is held for the one that is vacant. -/
def inputTo (s : State) (c : Instr) (a : Ans) : Ans := if rolesThere s c then a else .next (inputHeld s c)

/-- The first held input, and those behind it, once the role is there again. -/
def inputDue (s : State) : Option (Instr × List Instr) :=
  match s.pwr.vacant, s.pwr.inputs with
  | none, c :: rest => some (c, rest)
  | _, _ => none

end Sys2Proof.Machine
end

