-- ==== Sys2Proof/Machine/Fabric.lean ====
section
/-! DEFINITION. The meanings of the fabric's events: links, joining, addresses, fabric time, frames, forwarding tables and
their updates, healing and bridging (11_gaten_fabric.md R283-R310). -/
namespace Sys2Proof.Machine

/-! ### Positions, ring order and banks -/

/-- Positions in use as the head knows them, rising. -/
def positions (s : State) : List Nat := s.fab.members.map Prod.fst

/-- A 64-bit mask of positions. -/
def posMask (l : List Nat) : Nat := l.foldl setBit 0

/-- A list turned so that it begins at `p`. -/
def rotateTo (l : List Nat) (p : Nat) : List Nat :=
  l.dropWhile (fun x => x != p) ++ l.takeWhile (fun x => x != p)

/-- The element that follows `p` in the closed ring order `l`. -/
def nextAround (l : List Nat) (p : Nat) : Nat :=
  match (rotateTo l p).tail with
  | q :: _ => q
  | [] => p

/-- A list in rising order of a key, equals kept in order. -/
def insertByKey (key : Nat → Nat) (p : Nat) : List Nat → List Nat
  | [] => [p]
  | q :: l => if key p ≤ key q then p :: q :: l else q :: insertByKey key p l

/-- Where a position stands east-going from the head: by the hops its JOIN_REQ took from the east, then, from the far end,
by those it took from the west (DEDUCED, log 21). -/
def eastKey (s : State) (p : Nat) : Nat :=
  match s.fab.members.find? (fun e => e.1 == p) with
  | some e => if e.2.west then 4096 - e.2.hops else e.2.hops
  | none => 4096

/-- The ring order the head gives: the positions in use as they stand east-going from it, and whether the ring is a line; in
line mode the order begins behind the cut (R296, R304). -/
def ringOrder (s : State) : Bool × List Nat :=
  let l := (positions s).foldr (insertByKey (eastKey s)) []
  match s.fab.cuts.filter (fun c => decide (c.2 < 2)) with
  | [] => (false, l)
  | (p, port) :: _ => (true, rotateTo l (if port = 0 then nextAround l p else p))

/-- The direction from `i` to `j` in a ring order: the shortest in a closed ring, a tie going east, and the only one in a
line (R303). -/
def ringDirection (line : Bool) (order : List Nat) (i j : Nat) : Route :=
  let n := order.length
  let a := order.idxOf i
  let b := order.idxOf j
  if i = j then .local_
  else if n ≤ b || n ≤ a then .unreachable
  else if line then (if a < b then .east else .west)
  else
    let d := (b + n - a) % n
    if d ≤ n - d then .east else .west

/-- Segments whose bit is set in a bitmap. -/
def segmentsOf (m : Nat) : List Nat := (List.range 1024).filter (bitAt m)

/-- Segments advertised from two directions, or that are the own segment (R308). -/
def segConflicts (s : State) : Nat :=
  (s.fab.adverts.foldl (fun (acc : Nat × Nat) e =>
    (Nat.lor acc.1 e.2, Nat.lor acc.2 (Nat.land acc.1 e.2))) (2 ^ (s.addr / 64), 0)).2

/-- The bank this device computes for a ring order (R303, R308). -/
def computeBank (s : State) (line : Bool) (order : List Nat) : Bank :=
  let me := s.pos
  let conf := segConflicts s
  let toPos (p : Nat) (branch : Route) : Route := if p = me then branch else ringDirection line order me p
  let segs := s.fab.adverts.flatMap (fun e =>
    (segmentsOf e.2).map (fun t => (t, if bitAt conf t then Route.unreachable else toPos e.1 .branchB)))
  { state := .valid, line := line, order := order,
    positions := order.foldl (fun t j => tblPut Route.unreachable t j (ringDirection line order me j)) [],
    segments := segs,
    other := match s.fab.uplink with
      | some u => toPos u .branchA
      | none => .unreachable }

/-! ### The head's update (R304) -/

/-- Write the idle bank for a PREPARE, and note its numbers. -/
def prepareBank (s : State) (num epoch : Nat) (line : Bool) (order : List Nat) : State :=
  let t := s.setBank epoch (computeBank s line order)
  { t with fab := { t.fab with update := num, inuse := posMask order } }

/-- FLIP: the new epoch is current and the old bank RETIRING; a port that waited under R307 carries traffic. -/
def flipBank (s : State) : State :=
  let e := s.fab.epoch
  let t := s.setBank e { s.bank e with state := .retiring }
  let ports := t.fab.ports.map (fun kp => (kp.1, { kp.2 with waitsUpdate := false }))
  kickAll { t with fab := { t.fab with
      epoch := 1 - e,
      ports := ports.foldl (fun acc kp => tblPut Port.reset acc kp.1 kp.2) [] } }

/-- The head notes an answer RETIRED of a position; when all have answered, the update is complete and the hold-off of
200 µs runs. -/
def headRetired (s : State) (p : Nat) : State :=
  match s.fab.upd with
  | .retiring m =>
    let m' := m.filter (fun x => x != p)
    { s with fab := { s.fab with upd := if m'.isEmpty then .holdoff else .retiring m' } }
  | _ => s

/-- BANK_RETIRE: the RETIRING bank whose frames have all left becomes INVALID, and RETIRED is answered. -/
def retireCheck (s : State) : State :=
  let e := 1 - s.fab.epoch
  if (s.bank e).state == .retiring && epochCount s e = 0 then
    let t := s.setBank e { s.bank e with state := .invalid }
    if t.fab.head then headRetired t t.pos else sendToHead t 0x09 (beBytes 4 t.fab.update)
  else s

/-- Send FLIP and act on it: every position in use must answer RETIRED. -/
def startFlip (s : State) : State :=
  let t := sendGroup15 s 0x08 (beBytes 4 s.fab.update)
  retireCheck (flipBank { t with fab := { t.fab with upd := .retiring (positions t) } })

/-- Start an update, or note that one is due while another is open or held off. -/
def startUpdate (s : State) : State :=
  if !s.fab.head then s
  else match s.fab.upd with
    | .idle =>
      let (line, order) := ringOrder s
      let num := (s.fab.update + 1) % 2 ^ 32
      let e := 1 - s.fab.epoch
      let payload := beBytes 4 num ++ [BitVec.ofNat 8 e, BitVec.ofNat 8 (bit line), BitVec.ofNat 8 order.length] ++
        order.map (BitVec.ofNat 8)
      let t := sendGroup15 { s with fab := { s.fab with updateDue := false } } 0x06 payload
      let t := prepareBank t num e line order
      let missing := (positions t).filter (fun p => p != t.pos)
      if missing.isEmpty then startFlip t
      else { t with fab := { t.fab with upd := .preparing missing } }
    | _ => { s with fab := { s.fab with updateDue := true } }

/-! ### Port events (R304, R305, R307) -/

/-- Branch A of position `p` is UP: it is the segment's uplink, unless another is (R308). Answers whether the tree changed. -/
def uplinkUp (s : State) (p : Nat) : Bool × State :=
  match s.fab.uplink with
  | some u => (false, if u = p then s else s.raise Reg.fabFaultSegConflict)
  | none => (true, { s with fab := { s.fab with uplink := some p } })

/-- The head notes that a neighbour of its segment sleeps, or has woken (R290, R309); one without an address, 0xFFFF, is in no
position. -/
def noteAsleep (s : State) (neighbour : Nat) (asleep : Bool) : State :=
  if neighbour = 0xFFFF || neighbour / 64 ≠ s.addr / 64 then s
  else { s with fab := { s.fab with
      members := s.fab.members.map (fun e => if e.1 = neighbour % 64 then (e.1, { e.2 with asleep := asleep }) else e) } }

/-- What the head does with a port event of position `p`: HOLD_EXPIRED starts an update; an UP after it starts one where
REOPT is set; branch A going UP or DOWN changes the tree (R304, R308). -/
def headPortEvent (s : State) (p port ev neighbour : Nat) : State :=
  match ev with
  | 0x00 =>
    if port = 2 && s.fab.uplink == some p then startUpdate { s with fab := { s.fab with uplink := none } } else s
  | 0x01 =>
    startUpdate { s with fab := { s.fab with
      cuts := if s.fab.cuts.contains (p, port) then s.fab.cuts else s.fab.cuts ++ [(p, port)] } }
  | 0x02 =>
    let s := if port < 2 then noteAsleep s neighbour false else s
    let long := s.fab.cuts.contains (p, port)
    let s := { s with fab := { s.fab with cuts := s.fab.cuts.filter (fun c => c != (p, port)) } }
    let (tree, s) := if port = 2 then uplinkUp s p else (false, s)
    if tree || (long && s.on Reg.fabCtrlReopt) then startUpdate s else s
  | 0x03 => if port < 2 then noteAsleep s neighbour true else s
  | _ => s

/-- Report a port event to the head, which may be this device. -/
def reportPortEvent (s : State) (port ev : Nat) : State :=
  let nb := (s.port port).peer
  if s.fab.head then headPortEvent s s.pos port ev nb
  else if s.fab.addr.isSome then
    sendToHead s 0x05 ([BitVec.ofNat 8 port, BitVec.ofNat 8 ev] ++ beBytes 2 nb)
  else s

/-- A HELLO goes over its own link only (R296), and moves to no other. -/
def isHello (f : Bytes) : Bool := frameCls f = clsCtrl && frameType f = 0x01

/-- Move every frame of one queue to the queue of the same class on the opposite ring port with WRAPPED set, as one block
ahead of every frame that entered that queue after the port went down; where that port is not UP, or a frame already
carries WRAPPED, it is discarded and counted (R305). In line mode a multicast copy is discarded uncounted (R291), and so is a
HELLO. -/
def moveQueue (s : State) (o c : Nat) : State :=
  let q := s.queue o c
  let t := s.setQueue o c OutQ.reset
  q.frames.foldl (fun (t : State) f =>
    if (frameMcast f.bytes && mcastLine t) || isHello f.bytes then freeCells t f
    else if !frameWrapped f.bytes && portUsable t (oppositeOut o - 2) then
      kick (t.setQueue (oppositeOut o) c
        ((t.queue (oppositeOut o) c).add true { f with bytes := frameWrap f.bytes, late := false, sent := 0 })) (oppositeOut o)
    else countDrop (freeCells t f) c) t

/-- Discard every frame of one queue, counted. -/
def dropQueue (s : State) (o c : Nat) : State :=
  let q := s.queue o c
  q.frames.foldl (fun (t : State) f => if isHello f.bytes then freeCells t f else countDrop (freeCells t f) c)
    (s.setQueue o c OutQ.reset)

/-- A port goes down: its transmitter stops, CTRL and RELEASE frames queued on a ring port move over at once, and RANGE and
BULK stay held (R305). -/
def portDownFrames (s : State) (p : Nat) : State :=
  let s := stopTx s p
  if p < 2 then moveQueue (moveQueue s (p + 2) clsCtrl) (p + 2) clsRelease else s

/-- The held frames of a port whose hold time has run out: to the opposite ring port, or discarded on a branch (R305). -/
def releaseHeld (s : State) (p : Nat) : State :=
  if p < 2 then moveQueue (moveQueue s (p + 2) clsRange) (p + 2) clsBulk
  else dropQueue (dropQueue (dropQueue (dropQueue s (p + 2) clsCtrl) (p + 2) clsRelease) (p + 2) clsRange) (p + 2) clsBulk

/-- Relabel the frames of a port's opposite queues: none is late once the port is UP. -/
def clearLate (s : State) (p : Nat) : State :=
  [clsCtrl, clsRelease, clsRange, clsBulk].foldl (fun (t : State) c =>
    let o := oppositeOut (p + 2)
    let q := t.queue o c
    t.setQueue o c { q with frames := q.frames.map (fun f => { f with late := false }) }) s

/-- A downstream device whose branch A goes down is its segment's uplink device no more (R292, R308); of the head, its port
event says so. -/
def uplinkLost (s : State) (port : Nat) : State :=
  if port = 2 && !s.fab.head && s.fab.uplink == some s.pos then { s with fab := { s.fab with uplink := none } } else s

/-- Code violations on a port are counted (R310). -/
def countCodes (s : State) (port n : Nat) : State :=
  s.setStat (Reg.fabLinkerrCode port) (satTo 16 (s.stat (Reg.fabLinkerrCode port) + n))

/-- LINK_LOSS: a receiver declares loss of link; the port goes DOWN with its hold time running (FAB_PORT reads HELD). -/
def execLinkLoss (port codes : Nat) (s : State) : Ans := .next <|
  s.when (fabricRuns s && port < 4 && portPhase s port == .up) fun s =>
    let q := s.port port
    let s := countCodes s port codes
    let s := uplinkLost (s.setPort port { q with phase := .held, sendsHello := false, heard := false }) port
    let t := retireCheck (reportPortEvent (portDownFrames (s.raiseBit Reg.fabFaultLinkDown port) port) port 0x00)
    if port < 2 then noteSingleFault t 0x06 port else t

/-- The port becomes UP. After its hold time has run out it waits for the next update, unless it slept (R287, R307, R309). -/
def portUp (s : State) (port : Nat) : State :=
  let q := s.port port
  let was := q.phase
  let s1 := s.setPort port { q with phase := .up, waitsUpdate := was != .asleep && (q.waitsUpdate || was == .down) }
  let s2 := if port < 2 then clearLate s1 port else s1
  let s3 := if port = 2 && !s2.fab.head && s2.fab.addr.isSome then (uplinkUp s2 s2.pos).2 else s2
  reportPortEvent (kick s3 (port + 2)) port 0x02

/-- The device is head no more, or never was: it holds no address and asks for one. -/
def asDownstream (s : State) (join : JoinState) : State :=
  { s with fab := { s.fab with
      head := false, addr := none, join := join, asking := true, members := [], joined := [], inuse := 0, uplink := none, banks := [],
      epoch := 0, adverts := [], cuts := [], upd := .idle, updateDue := false } }

/-- Another device of the ring is head: this one, if its fabric time, counted from its own start, is behind the other's, is
the second found and joins as a downstream device (R288, R292; DEDUCED, log 21). `id` decides a tie. -/
def yieldHead (s : State) (time id : Nat) : State :=
  if s.fab.head && (decide (s.fab.time < time) || (s.fab.time = time && decide (id < s.cip.deviceId))) then
    (asDownstream s .headConflict).raise Reg.fabFaultHeadConflict
  else s

/-- A frame failed its CRC or R285 on a port. -/
def linkError (s : State) (port : Nat) : State := (s.bump (Reg.fabLinkerrCrc port)).raise Reg.fabFaultCrc

/-- A neighbour has said that it goes to sleep: the port is DOWN as R309 has it, and frames queued for it make a wake
sequence. -/
def portAsleep (s : State) (port : Nat) : State :=
  let waiting := classOrder.any (fun c => !(s.queue (port + 2) c).frames.isEmpty)
  let s := s.setPort port { s.port port with phase := .asleep, sendsHello := false, heard := false }
  let s := retireCheck (reportPortEvent (portDownFrames s port) port 0x03)
  if waiting then s.emit (.wake port symWake 100) else s

/-- HELLO: a received HELLO says who the peer is and what it has heard, gives the link delay while the port trains, and
brings a trained port UP (R287); with the sleep flag the port is ASLEEP (R309). One that fails its CRC is discarded and
counted (R294). -/
def execHello (port : Nat) (frame : Bytes) (s : State) : Ans :=
  inputTo s (.hello port frame) <| .next <|
  noteModeConflict <| s.when (fabricRuns s && port < 4 && portEnabled s port) fun s =>
    if !frameOk frame then linkError s port
    else s.when (frameType frame = 0x01 && frameCls frame = clsCtrl && decide (28 ≤ frameLen frame)) fun s =>
      let b := framePayload frame
      let fl := byteAt b 11
      let now := s.fab.time
      let q := s.port port
      let trip := ((now + 2 ^ 48 - beAt b 18 6) % 2 ^ 48) * 1000
      let q := { q with heard := true, peer := beAt b 8 2, peerId := beAt b 0 8, peerTime := beAt b 12 6, heardAt := now,
                        delay := if bitAt fl 0 && q.phase != .up then (trip - beAt b 24 4) / 2 else q.delay }
      let s := s.setPort port q
      let s := if bitAt fl 1 && decide (port < 2) then yieldHead s (beAt b 12 6) (beAt b 0 8) else s
      if bitAt fl 2 then portAsleep s port
      else if bitAt fl 0 && q.sendsHello && q.phase != .up then portUp s port
      else s

/-- HELLO_TIMEOUT: the port starts training again. A port that was UP is TRAINING; one that is DOWN stays so until it is UP
again. What waits at a ring port that was UP goes the opposite way at once, ahead of what follows it there, so that no frame overtakes
an earlier one (R302; DESIGN CHOICE, log 159). -/
def execHelloTimeout (port : Nat) (s : State) : Ans :=
  inputTo s (.helloTimeout port) <| .next <|
  s.when (fabricRuns s && port < 4 && portEnabled s port) fun s =>
    let q := s.port port
    let t := sendIdle ((stopTx s port).setPort port
      { q with phase := if q.phase == .up then .training else q.phase, sendsHello := false, heard := false }) port
    if q.phase == .up && port < 2 then retireCheck (releaseHeld (portDownFrames t port) port) else t

/-- IDLE_SEQUENCE_RUN: 1,024 idle sequences without error; the port sends HELLO from now on. -/
def execIdleSequenceRun (port : Nat) (s : State) : Ans :=
  inputTo s (.idleSequenceRun port) <| .next <|
  s.when (fabricRuns s && port < 4 && portEnabled s port) fun s => s.setPort port { s.port port with sendsHello := true }

/-- The HELLO a port sends (R296); `sleep` is the flag of R309. -/
def helloFrame (s : State) (port : Nat) (sleep : Bool) : Bytes × State :=
  let q := s.port port
  let b := beBytes 8 s.cip.deviceId ++ beBytes 2 s.addr ++ [BitVec.ofNat 8 (port + 2),
      BitVec.ofNat 8 (bit q.heard + 2 * bit s.fab.head + 4 * bit sleep)] ++ beBytes 6 s.fab.time ++
      beBytes 6 q.peerTime ++ beBytes 4 (((s.fab.time + 2 ^ 48 - q.heardAt) % 2 ^ 48) * 1000)
  let (f, _, t) := buildFrame s q.peer false false clsCtrl 0x01 b
  (f, t)

/-- A HELLO leaves over its own link: through the CTRL queue of a port that carries traffic (R296, R297), and at once on one that
trains, where nothing else is due, with idle sequences behind it (R284). -/
def sendHello (s : State) (port : Nat) : State :=
  let (f, t) := helloFrame s port false
  if portUsable s port then storeCopy t (port + 2) f false else sendIdle (sendSymbols t port (blockSymbols f 0)) port

/-- HELLO_SEND: every 100 µs a training or up port sends a HELLO over its link. -/
def execHelloSend (port : Nat) (s : State) : Ans :=
  inputTo s (.helloSend port) <| .next <|
  s.when (fabricRuns s && port < 4 && portEnabled s port && (s.port port).sendsHello) fun s =>
    sendHello s port

/-! ### Joining (R288-R290) -/

/-- The function as the head presents it (12 R311). -/
def pciFunction (s : State) : PciFunction :=
  { vendor := 0x1F3C, device := 0x6416, revision := 0x01, classCode := 0x0B4000,
    subsystemVendor := s.hif.subsys % 65536, subsystem := s.hif.subsys / 65536,
    bars := [0x10000, 0x4000, 0x400000], msix := (64, 0xE000, 0xF000), maxPayload := 256, maxRead := s.hif.maxRead,
    supports := ["D3hot", "ASPM L1", "AER", "FLR"] }

/-- While its PCIe link is up, the head presents its function. -/
def presentFunction (s : State) : State :=
  if s.fab.head && s.stat Reg.hifStatusLinkUp != 0 then s.emit (.presents (pciFunction s)) else s

/-- The head is judged at a start or REJOIN: the device whose PCIe link is up takes position 0 of segment FAB_ADDR.SEG and
begins its tables, with its own branch A as the segment's uplink where that is UP (R308); another device joins (R288, R310). -/
def judgeHead (s : State) : State :=
  let s := s.setForce Reg.fabAddrPos (s.held Reg.fabAddrPos)
  let s := s.setForce Reg.fabAddrSeg (s.held Reg.fabAddrSeg)
  if s.stat Reg.hifStatusLinkUp != 0 && s.fab.join != .headConflict then
    let t := asDownstream s .joined
    let t := { t with fab := { t.fab with
      head := true, addr := some (s.eff Reg.fabAddrSeg * 64), asking := false,
      members := [(0, ⟨s.cip.deviceId, false, false, 0, 0⟩)], inuse := 1,
      uplink := if portPhase t 2 == PortPhase.up then some 0 else none } }
    startUpdate (presentFunction (t.setStat Reg.fabStatusTimeOk 1))
  else asDownstream s (if s.fab.join == .headConflict then .headConflict else .joining)

/-- Send JOIN_REQ: group 15, ANON, with the stored position or none. -/
def sendJoinReq (s : State) : State :=
  let p := s.eff Reg.fabAddrPos
  (sendFrame s 0x000F true true clsCtrl 0x02
    (beBytes 8 s.cip.deviceId ++ [BitVec.ofNat 8 (if p = 0 then 0xFF else p)])).2

/-- JOIN_REQ_RETRY: once a ring port is UP, an unanswered device asks every 10 ms. -/
def execJoinReqRetry (s : State) : Ans :=
  inputTo s .joinReqRetry <| .next <|
  s.when (fabricRuns s && !s.fab.head && s.fab.asking && (portUsable s 0 || portUsable s 1)) sendJoinReq

/-- ADDR_FULL_RETRY: a device answered ADDR_FULL asks again every 10 s, also one whose PCIe link has come up since (R288). -/
def execAddrFullRetry (s : State) : Ans :=
  inputTo s .addrFullRetry <| .next <|
  s.when (fabricRuns s && !s.fab.head && (s.fab.join == .addrFull || (s.fab.join == .headConflict && s.fab.addr.isNone && !s.fab.asking))) sendJoinReq

/-- A CTRL frame of this type whose sequence is newer is taken; a source's first is newer (R295). In FAILED every frame addressed to
the device is discarded (15 R411). -/
def ctrlTake (typ minLen : Nat) (frame : Bytes) (f : Bytes → State → State) (s : State) : State :=
  let src := frameSrc frame
  if s.running && fabricRuns s && frameCls frame = clsCtrl && frameType frame = typ && decide (minLen ≤ frameLen frame) &&
      seqNewer s src clsCtrl (frameSeq frame) then
    f (framePayload frame) (seqAccept s src clsCtrl (frameSeq frame))
  else s

/-- Reset both classes of a proxy link (R327). -/
def resetLink (s : State) (p : Nat) : State := (s.setLink p 0 ProxyLink.reset).setLink p 1 ProxyLink.reset

/-- What the head held for a position goes: its links are reset, and its pending BAR4 reads are answered (R327). -/
def dropPosition (s : State) (p : Nat) : State :=
  let reads := s.hif.barReads.filter (fun r => r.pos == p)
  let s := reads.foldl (fun t _ => t.emit (.barAnswer 0xFFFFFFFF)) s
  resetLink { s with hif := { s.hif with
      barReads := s.hif.barReads.filter (fun r => r.pos != p), ringRegs := s.hif.ringRegs.filter (fun e => e.1 / 65536 != p) } } p

/-- A device that has joined before joins again: its restart is noted at its position (R327). -/
def noteRestart (s : State) (p : Nat) : State :=
  (s.raiseBit (Reg.hifPosRestart (p / 32)) (p % 32)).raise Reg.hifFaultPosRestart

/-- No sequence of these sources has been accepted: each has joined, under its address and, with ANON, its identifier
(R295). -/
def forgetSeq (s : State) (address id : Nat) : State :=
  { s with fab := { s.fab with
      seqLast := s.fab.seqLast.filter (fun e => e.1 / 4 != address && e.1 / 4 != id % 65536) } }

/-- The second copy of a JOIN_REQ, which has come round the other way: its device has joined on the first (R295). -/
def joinRepeated (s : State) (frame : Bytes) : Bool :=
  s.fab.members.any (fun e => e.1 != 0 && e.2.id == beAt (framePayload frame) 0 8 && e.2.joinSeq == frameSeq frame)

/-- The sequences of a member's JOIN_REQs go on from the one that was accepted: the device has not restarted, which takes a new
value from the TRNG, but asks again (R295; 12 R327; log 160, DEDUCED). -/
def joinContinues (e : Member) (seq : Nat) : Bool := decide ((seq + 65536 - e.joinSeq) % 65536 ≤ 64)

/-- A device joins at `d` hops on one side of the head: whoever stood at that distance on that side, and those beyond, stand
one further (DEDUCED, log 21). -/
def placeMember (l : Tbl Member) (p id : Nat) (west : Bool) (d seq : Nat) : Tbl Member :=
  let taken := l.any (fun e => e.2.west == west && e.2.hops == d)
  let l := l.map (fun e => if taken && e.2.west == west && decide (d ≤ e.2.hops) then (e.1, { e.2 with hops := e.2.hops + 1 }) else e)
  tblInsert l p ⟨id, false, west, d, seq⟩

/-- The lowest position from 1 to 63 not in `used`. -/
def lowestFree (used : List Nat) : Option Nat := ((List.range 64).drop 1).find? (fun p => !used.contains p)

/-- JOIN_REQ: the head gives the stored position if free, else the lowest free one, or answers ADDR_FULL (R289). A device
that is already in use by its identifier keeps its place (DEDUCED, log 21). -/
def execJoinReq (port : Nat) (frame : Bytes) (s : State) : Ans :=
  inputTo s (.joinReq port frame) <| .next <|
  noteModeConflict <| s.when (s.fab.head && !joinRepeated s frame) <| ctrlTake 0x02 9 frame fun b s =>
    let id := beAt b 0 8
    let want := byteAt b 8
    let known := s.fab.members.find? (fun e => e.2.id == id)
    let used := (positions s).filter (fun p => some p != known.map Prod.fst)
    let pick : Option Nat :=
      if want ≠ 0 && want < 64 && !used.contains want then some want
      else match known with
        | some e => some e.1
        | none => lowestFree used
    let seg := s.addr / 64
    match pick with
    | none =>
      sendGroup15 (s.raise Reg.fabFaultAddrFull) 0x03
        (beBytes 8 id ++ [0x01, 0] ++ beBytes 2 seg ++ beBytes 6 s.fab.time)
    | some p =>
      let s := match known with
        | some e => dropPosition { s with fab := { s.fab with
            members := tblErase s.fab.members e.1, inuse := clearBit s.fab.inuse e.1 } } e.1
        | none => s
      let again := s.fab.joined.contains id && !known.any (fun e => joinContinues e.2 (frameSeq frame))
      let s := dropPosition (if again then noteRestart s p else s) p
      let s := forgetSeq { s with fab := { s.fab with
        members := placeMember s.fab.members p id (port != 0) (1023 - frameHops frame) (frameSeq frame),
        joined := if s.fab.joined.contains id then s.fab.joined else s.fab.joined ++ [id],
        inuse := setBit s.fab.inuse p } } (seg * 64 + p) id
      startUpdate (sendGroup15 s 0x03
        (beBytes 8 id ++ [0x00, BitVec.ofNat 8 p] ++ beBytes 2 seg ++ beBytes 6 s.fab.time))

/-- A device that joins while its branch A is UP is the segment's uplink device and tells the head so (R292, R307, R308). -/
def uplinkTold (s : State) : State :=
  if portPhase s 2 == .up then reportPortEvent (uplinkUp s s.pos).2 2 0x02 else s

/-- JOIN_ANSWER: the device named takes its address, or records ADDR_FULL; every other device notes the position (R289). -/
def execJoinAnswer (port : Nat) (frame : Bytes) (s : State) : Ans :=
  inputTo s (.joinAnswer port frame) <| .next <|
  noteModeConflict <| ctrlTake 0x03 18 frame (fun b s =>
    let p := byteAt b 9 % 64
    let seg := beAt b 10 2 % 1024
    let good := byteAt b 8 = 0
    if beAt b 0 8 = s.cip.deviceId && !s.fab.head then
      if good then
        let s := resetLink { s with fab := { s.fab with
          addr := some (seg * 64 + p), asking := false, time := beAt b 12 6,
          join := if s.fab.join == .headConflict then .headConflict else .joined, inuse := setBit s.fab.inuse p } } 0
        let s := (s.setHeld Reg.fabAddrPos p).setForce Reg.fabAddrPos p
        uplinkTold { s with hif := { s.hif with cfgChanged := true } }
      else ({ s with fab := { s.fab with addr := none, join := .addrFull, asking := false } }).raise Reg.fabFaultAddrFull
    else if good then
      forgetSeq { s with fab := { s.fab with inuse := setBit s.fab.inuse p } } (seg * 64 + p) (beAt b 0 8)
    else s) s

/-- A position stops being in use, and the head updates the tables (R290, R304). -/
def removePosition (s : State) (p : Nat) : State :=
  startUpdate { s with fab := { s.fab with
    members := tblErase s.fab.members p, inuse := clearBit s.fab.inuse p,
    cuts := s.fab.cuts.filter (fun c => c.1 != p) } }

/-- LEAVE: the head frees the position of the device named, which joins anew, not restarted (12 R327). -/
def execLeave (port : Nat) (frame : Bytes) (s : State) : Ans :=
  inputTo s (.leave port frame) <| .next <|
  s.when s.fab.head <| ctrlTake 0x0C 8 frame fun b s =>
    match s.fab.members.find? (fun e => e.2.id == beAt b 0 8 && e.1 != 0) with
    | some e => removePosition { s with fab := { s.fab with joined := s.fab.joined.filter (fun id => id != e.2.id) } } e.1
    | none => s

/-- POSITION_LEAVE_TIMEOUT: a position unreachable for FAB_HOLD.LEAVE, and not asleep, stops being in use. -/
def execPositionLeaveTimeout (pos : Nat) (s : State) : Ans :=
  inputTo s (.positionLeaveTimeout pos) <| .next <|
  s.when (fabricRuns s && s.fab.head && pos != 0 && (s.fab.members.any (fun e => e.1 == pos && !e.2.asleep))) fun s =>
    removePosition s pos

/-- LEAVE is sent and the device joins again (R310). -/
def rejoins (s : State) : State :=
  let s1 := if s.fab.addr.isSome && !s.fab.head then sendToHead s 0x0C (beBytes 8 s.cip.deviceId) else s
  judgeHead { s1 with fab := { s1.fab with join := .joining } }

/-- REJOIN (R310). -/
def execRejoin (s : State) : Ans := .next <| s.when s.running (auditedWrite 0 0x1000 rejoins)

/-- A port whose bit of PORT_EN is cleared carries nothing more: its frames go as those of a port whose hold time has run
out, which the head is told, and it waits for an update once it is UP again; a port whose bit is set trains (DEDUCED, log 59). `s` is
the state before the write, `t` after it. -/
def portsDisabled (s t : State) : State :=
  [0, 1, 2, 3].foldl (fun (t : State) p =>
    if portEnabled s p && !portEnabled t p then
      let ph := portPhase s p
      let u := if ph == .up then reportPortEvent (portDownFrames (uplinkLost t p) p) p 0x00 else t
      let u := if ph == .up || ph == .held then reportPortEvent (releaseHeld u p) p 0x01 else releaseHeld u p
      retireCheck (u.setPort p { Port.reset with phase := .training, waitsUpdate := (s.port p).waitsUpdate || ph != .training })
    else if !portEnabled s p && portEnabled t p && fabricRuns t then portTrains t p
    else t) t

/-! ### Fabric time (R292) -/

/-- This device is the time source of its segment: the root head, or the uplink device. -/
def timeSource (s : State) : Bool :=
  match s.fab.uplink with
  | some u => s.fab.addr.isSome && u = s.pos
  | none => s.fab.head

/-- Send a TIME_SYNC frame both ways around the ring and out of branch B. -/
def spreadTime (s : State) (f : Bytes) : State :=
  linkCopy (linkCopy (linkCopy s 2 f) 3 f) 5 f

/-- TIME_SYNC_SEND: every 10 ms the source sends its time and its hops from the root head, 0 on that head itself. -/
def execTimeSyncSend (s : State) : Ans :=
  inputTo s .timeSyncSend <| .next <|
  s.when (fabricRuns s && timeSource s) fun s =>
    let (f, _, t) := buildFrame s (s.addr / 64 * 64 + 15) true false clsCtrl 0x04
      (beBytes 6 s.fab.time ++ beBytes 2 (if s.fab.uplink.isSome then s.fab.hops else 0))
    spreadTime (t.setStat Reg.fabStatusTimeOk 1) f

/-- The segment's uplink device as this one learns it; routes to other segments follow (R308). -/
def learnUplink (s : State) (u : Option Nat) : State :=
  if u = s.fab.uplink then s
  else
    let t := { s with fab := { s.fab with uplink := u } }
    [0, 1].foldl (fun t e =>
      let b := t.bank e
      if b.state == .invalid then t
      else t.setBank e { b with other := match u with
        | some u => if u = t.pos then .branchA else ringDirection b.line b.order t.pos u
        | none => .unreachable }) t

/-- The uplink that a TIME_SYNC shows: this device, where it came by branch A; where it came by the ring, its source, unless
that source stands at no hops from the root head and so is that head (R292; DEDUCED, log 21). -/
def uplinkShown (s : State) (port hopLimit carried src : Nat) : Option Nat :=
  if port = 2 then some s.pos
  else if port < 2 && !s.fab.head && src / 64 == s.addr / 64 then
    (if carried + hopLimit = 1022 then none else some (src % 64))
  else s.fab.uplink

/-- One of the latest frames of this device itself: by its sequence, which another head of the same segment number does not share
(R288, R295; log 21, DESIGN CHOICE). -/
def sentBySelf (s : State) (frame : Bytes) : Bool :=
  let c := tblGet 0 s.fab.seqNext (frameDst frame * 8 + bit (frameMcast frame) * 4 + frameCls frame)
  frameSrc frame == s.addr && c != 0 && decide ((c + 131070 - frameSeq frame) % 65536 < 64)

/-- TIME_SYNC: the receiver sets its time to the carried time plus the link delay plus its own residence, and passes the
frame on with that time and one more hop. A frame of this device that has come round is discarded. One of another head of
the ring shows two heads (R288), also where both have the same segment number. -/
def execTimeSync (port residence : Nat) (frame : Bytes) (s : State) : Ans :=
  inputTo s (.timeSync port residence frame) <| .next <|
  noteModeConflict <| s.when (!sentBySelf s frame && port < 4) <| ctrlTake 0x04 8 frame fun b s =>
    let t := (beAt b 0 6 + (s.port port).delay / 1000 + residence) % 2 ^ 48
    if s.fab.head && decide (port < 2) && frameSrc frame % 64 = 0 then yieldHead s t s.cip.deviceId
    else
      let hops := (beAt b 6 2 + 1) % 65536
      let s := learnUplink { s with fab := { s.fab with time := t, synced := true, hops := hops } }
        (uplinkShown s port (frameHops frame) (beAt b 6 2) (frameSrc frame))
      let s := s.setStat Reg.fabStatusTimeOk 1
      if 2 ≤ port then s
      else
        let body := beBytes 6 t ++ beBytes 2 hops
        let g := slice frame 0 16 ++ body
        let g := g ++ beBytes 4 (frameCrc g)
        linkCopy (linkCopy s (oppositeOut (port + 2)) g) 5 g

/-- TIME_SYNC_LOSS: no TIME_SYNC for 100 ms; the device counts on from its own crystal. -/
def execTimeSyncLoss (s : State) : Ans :=
  inputTo s .timeSyncLoss <| .next <|
  s.when (fabricRuns s && !(s.fab.head && s.fab.uplink.isNone)) fun s =>
    (s.setStat Reg.fabStatusTimeOk 0).raise Reg.fabFaultTimeLost

/-- FAB_TIME_LO_READ: a read answers bits [31:0] and latches bits [47:32]. -/
def execFabTimeLoRead (s : State) : Ans := .next <| answerRead (Reg.fabTimeLo.key / 32) s

/-! ### Frames through the core (R294, R299-R303) -/

/-- A frame goes to P0. One of the release class whose type is none of R249's is dropped there, counted. -/
def toLocal (s : State) (g : Bytes) : State :=
  if s.mode == .failed then s
  else
    let t := storeCopy s 0 g false
    if frameCls g = clsRelease && s.mode == .running && !([1, 2, 3].contains (frameType g)) then dropRelease t else t

/-- A multicast frame from a ring port: to P0 and P1 by membership, and onward around the ring; a frame of this device that
has come round is discarded without counting (R291). One that R305 turned back on its way east goes on west past its
source (R306; DEDUCED, log 132). -/
def receiveMcast (s : State) (port : Nat) (g : Bytes) (onward : Bool) : State :=
  let grp := frameDst g % 16
  let own := if frameAnon g then frameSrc g == s.cip.deviceId % 65536 else some (frameSrc g) == s.fab.addr
  let go (s : State) : State := if onward && port < 2 then mcastCopy s (oppositeOut (port + 2)) g else s
  if own then (if frameWrapped g && port = 0 then go s else s)
  else
    let member := if s.fab.addr.isSome then localMember s grp else grp = 15 && frameCls g = clsCtrl
    let s := if member then toLocal s g else s
    go (if s.mode == .failed then s else hostCopy s g)

/-- The blocks of one frame keep R285: one class in every tag, and in the header; first and last flags where they belong;
256 bytes in each block but the last, 1-256 in that; no code violation. -/
def blocksOk (blocks : List LinkBlock) : Bool :=
  let n := blocks.length
  let cls := frameCls (blocks.flatMap LinkBlock.data)
  decide (0 < n) && (blocks.zipIdx.all fun (b, i) =>
    b.violations = 0 && b.tag == blockTag cls (i = 0) (i + 1 = n) &&
      (if i + 1 = n then decide (1 ≤ b.data.length) && decide (b.data.length ≤ 256) else b.data.length = 256))

/-- The blocks of a frame arrive on a port (R284, R285, R294): they are checked on an enabled port, their code violations
counted; on an UP port a good frame's hop limit is taken down and it is stored into output queues or dropped. -/
def blocksArrive (port : Nat) (blocks : List LinkBlock) (s : State) : State :=
  noteModeConflict <| s.when (fabricRuns s && port < 4 && portEnabled s port) fun s =>
    let s := countCodes s port (blocks.map LinkBlock.violations).sum
    let frame := blocks.flatMap LinkBlock.data
    if !blocksOk blocks || !frameOk frame then linkError s port
    else s.when (portPhase s port == .up) fun s =>
      let c := frameCls frame
      let h := frameHops frame - 1
      let g := frameWithHops frame h
      let mine := !frameMcast g && some (frameDst g) == s.fab.addr
      if c = clsCtrl && (frameType g = 0x01 || frameType g = 0x04 || (frameType g = 0x0B && decide (2 ≤ port))) then
        toLocal s (if frameMcast g then g else (pickBank s (decide (port < 2)) g).2)
      else if frameMcast g then
        let t := receiveMcast s port g (decide (0 < h))
        if h = 0 then (countDrop t c).raise Reg.fabFaultHopExpired else t
      else if mine then toLocal s (pickBank s (decide (port < 2)) g).2
      else if h = 0 then (countDrop s c).raise Reg.fabFaultHopExpired
      else if s.fab.addr.isNone then (if port < 2 then forward s (oppositeOut (port + 2)) g else countDrop s c)
      else lookupForward s (port + 2) g

/-- FRAME_RECEIVED: its first block and those that follow. -/
def execFrameReceived (port : Nat) (first : LinkBlock) (rest : List LinkBlock) (s : State) : Ans :=
  .next (blocksArrive port (first :: rest) s)

/-- A BULK frame that is no peer message has the sequence before the next message of its source (R295, R342). -/
def noteProxyBulk (s : State) (f : Bytes) : State :=
  if frameType f = 0x10 then s else seqAccept s (frameSrc f) clsBulk (frameSeq f)

/-- The rest of the blocks of the first frame of a queue leave, and the frame with them: its cells are free, it leaves its
epoch count, and the output starts its next block, or an idle sequence where none is due (R284, R297, R303). -/
def frameLeaves (s : State) (out cls : Nat) : State :=
  let s := (List.range (blocksLeft s out cls)).foldl (fun s _ => sendBlock s out cls) s
  let q := s.queue out cls
  match q.frames with
  | f :: rest =>
    let t := freeCells (s.setQueue out cls { q with frames := rest, spilling := rest.any QFrame.spilled }) f
    let t := startBlock (if out = 0 && cls = clsBulk then noteProxyBulk t f.bytes else t) out
    retireCheck (if 2 ≤ out && (txClass t out).isNone then sendIdle t (out - 2) else t)
  | [] => s

/-- FRAME_SENT: the last block of a frame leaves. The block in transmission at the output leaves first, whatever waits; then
come those of the highest class that has one ready, so the command names the frame that is done first and no other (R297).
How far a frame had come when a higher one was stored, the rows do not tell: the block in transmission is its next one
(DESIGN CHOICE, log 131). -/
def execFrameSent (out cls : Nat) (s : State) : Ans := .next <|
  s.when (fabricRuns s && out < 6 && cls < 4 && outputOpen s out) fun s =>
    match txClass s out with
    | none => s
    | some c =>
      if blocksLeft s out c ≤ 1 then (if c = cls then frameLeaves s out c else s)
      else if pickClass s out = some cls then frameLeaves (sendBlock s out c) out cls
      else s

/-- The first spilled frame comes on chip as `g`, or goes. -/
def unspill : List QFrame → (QFrame → List QFrame) → List QFrame
  | [], _ => []
  | f :: fs, g => if f.spilled then g f ++ fs else f :: unspill fs g

/-- SPILL_READBACK: a spilled frame is read back while the queue is below its reserve or the pool below its threshold; one
that fails its CRC is discarded (R300). -/
def execSpillReadback (out cls : Nat) (corrupt : Bool) (s : State) : Ans := .next <|
  let q := s.queue out cls
  s.when (fabricRuns s && out < 6 && cls < 4 && (chipCells q < s.eff Reg.fabBufMin || s.fab.sharedUsed < threshCells s)) fun s =>
    match q.frames.find? QFrame.spilled with
    | none => s
    | some f =>
      let n := frameCells f.bytes
      let shared := if corrupt || chipCells q + n ≤ s.eff Reg.fabBufMin then 0 else n
      let frames := unspill q.frames (fun f => if corrupt then [] else [{ f with spilled := false, shared := shared }])
      let s := s.setQueue out cls { q with frames := frames, spilling := frames.any QFrame.spilled }
      let s := { s with fab := { s.fab with spilled := s.fab.spilled - n, sharedUsed := s.fab.sharedUsed + shared } }
      if corrupt then retireCheck (s.raise Reg.fabFaultSpillErr) else kick s out

/-! ### Tables and updates (R304) -/

/-- PORT_EVENT: the head takes the event and may start an update. -/
def execPortEvent (port : Nat) (frame : Bytes) (s : State) : Ans :=
  inputTo s (.portEvent port frame) <| .next <|
  noteModeConflict <| s.when s.fab.head <| ctrlTake 0x05 4 frame fun b s =>
    headPortEvent s (frameSrc frame % 64) (byteAt b 0) (byteAt b 1) (beAt b 2 2)

/-- PREPARE: the idle bank is written and READY answered. The new epoch is 1 - CUR of the head, so a device that has no
table yet takes CUR from it (R289, R304; DEDUCED, log 20). -/
def execPrepare (port : Nat) (frame : Bytes) (s : State) : Ans :=
  inputTo s (.prepare port frame) <| .next <|
  noteModeConflict <| s.when (!s.fab.head && s.fab.addr.isSome) <| ctrlTake 0x06 7 frame fun b s =>
    let e := byteAt b 4 % 2
    let order := ((b.drop 7).take (byteAt b 6)).map (fun x => x.toNat % 64)
    let s := if e = s.fab.epoch && (s.bank e).state == .invalid then { s with fab := { s.fab with epoch := 1 - e } } else s
    if e = s.fab.epoch then s
    else sendToHead (prepareBank s (beAt b 0 4) e (byteAt b 5 = 1) order) 0x07 (slice b 0 4)

/-- READY: when every position in use has answered, the head sends FLIP. -/
def execReady (port : Nat) (frame : Bytes) (s : State) : Ans :=
  inputTo s (.ready port frame) <| .next <|
  s.when s.fab.head <| ctrlTake 0x07 4 frame fun b s =>
    match s.fab.upd with
    | .preparing m =>
      if beAt b 0 4 = s.fab.update then
        let m' := m.filter (fun p => p != frameSrc frame % 64)
        if m'.isEmpty then startFlip s else { s with fab := { s.fab with upd := .preparing m' } }
      else s
    | _ => s

/-- FLIP: the new epoch is current and the old bank RETIRING. -/
def execFlip (port : Nat) (frame : Bytes) (s : State) : Ans :=
  inputTo s (.flip port frame) <| .next <|
  noteModeConflict <| s.when (!s.fab.head && s.fab.addr.isSome) <| ctrlTake 0x08 4 frame fun b s =>
    if beAt b 0 4 = s.fab.update && (s.bank (1 - s.fab.epoch)).state == .valid then retireCheck (flipBank s) else s

/-- RETIRED: the head notes the answer; when all have answered the update is complete. -/
def execRetired (port : Nat) (frame : Bytes) (s : State) : Ans :=
  inputTo s (.retired port frame) <| .next <|
  s.when s.fab.head <| ctrlTake 0x09 4 frame fun b s =>
    if beAt b 0 4 = s.fab.update then headRetired s (frameSrc frame % 64) else s

/-- Mark the idle bank INVALID after a CANCEL and set UPDATE_ABORT. -/
def abandonBank (s : State) : State :=
  let e := 1 - s.fab.epoch
  (s.setBank e { s.bank e with state := .invalid }).raise Reg.fabFaultUpdateAbort

/-- CANCEL: the idle bank is INVALID. -/
def execCancel (port : Nat) (frame : Bytes) (s : State) : Ans :=
  inputTo s (.cancel port frame) <| .next <|
  s.when (!s.fab.head && s.fab.addr.isSome) <| ctrlTake 0x0A 4 frame fun b s =>
    if beAt b 0 4 = s.fab.update then abandonBank s else s

/-- READY_TIMEOUT: a READY is missing 10 ms after PREPARE, and the head cancels the update. -/
def execReadyTimeout (s : State) : Ans :=
  inputTo s .readyTimeout <| .next <|
  match s.fab.upd with
  | .preparing _ => s.when (fabricRuns s) fun s =>
    let t := abandonBank (sendGroup15 s 0x0A (beBytes 4 s.fab.update))
    { t with fab := { t.fab with upd := .cancelled } }
  | _ => s

/-- RETIRE_TIMEOUT: 100 ms after FLIP the RETIRING bank is INVALID and the update complete. -/
def execRetireTimeout (s : State) : Ans :=
  inputTo s .retireTimeout <| .next <| s.when (fabricRuns s) fun s =>
  let e := 1 - s.fab.epoch
  let t := if (s.bank e).state == .retiring then s.setBank e { s.bank e with state := .invalid } else s
  match t.fab.upd with
  | .retiring _ => { t with fab := { t.fab with upd := .holdoff } }
  | _ => t

/-- UPDATE_REPEAT: the head repeats a cancelled update. -/
def execUpdateRepeat (s : State) : Ans :=
  inputTo s .updateRepeat <| .next <|
  s.when (fabricRuns s && s.fab.upd == .cancelled) fun s => startUpdate { s with fab := { s.fab with upd := .idle } }

/-- UPDATE_HOLDOFF_END: an update that waited for the 200 µs starts. -/
def execUpdateHoldoffEnd (s : State) : Ans :=
  inputTo s .updateHoldoffEnd <| .next <|
  s.when (fabricRuns s && s.fab.upd == .holdoff) fun s =>
    let t := { s with fab := { s.fab with upd := .idle } }
    if t.fab.updateDue then startUpdate t else t

/-! ### Hold times (R305, R309) -/

/-- HOLD_TIME_EXPIRY: the held frames move to the opposite ring port as one block, or are discarded on a branch, and
HOLD_EXPIRED is sent. -/
def execHoldTimeExpiry (port : Nat) (s : State) : Ans := .next <|
  s.when (fabricRuns s && port < 4 && portPhase s port == .held) fun s =>
    let s := releaseHeld s port
    let s := s.setPort port { s.port port with phase := .down }
    retireCheck (reportPortEvent s port 0x01)

/-- ASLEEP_HOLD_EXPIRY: frames still held for an asleep port move to the opposite ring port or are discarded. -/
def execAsleepHoldExpiry (port : Nat) (s : State) : Ans := .next <|
  s.when (fabricRuns s && port < 4 && portPhase s port == .asleep) fun s => retireCheck (releaseHeld s port)

/-! ### Bridging segments (R308) -/

/-- Send SEG_ADVERT out of branch A: the own segment and every bitmap received on the segment's branch B ports. -/
def sendAdvert (s : State) : State :=
  let (f, _, t) := buildFrame s (s.port 2).peer false false clsCtrl 0x0B (beBytes 128 (segmentsKnown s))
  linkCopy t 4 f

/-- SEG_ADVERT_SEND: every 100 ms, and after a change, the uplink device advertises its subtree. -/
def execSegAdvertSend (s : State) : Ans :=
  inputTo s .segAdvertSend <| .next <|
  s.when (fabricRuns s && s.fab.addr.isSome && portUsable s 2) sendAdvert

/-- SEG_ADVERT: from branch B it is this device's child; it is told to the segment each time, so that a
device that joins later learns of it. From the ring it is that of another
position. A change is advertised upward and starts an update at the head (how the segment learns of it, DESIGN CHOICE,
log 21). -/
def execSegAdvert (port : Nat) (frame : Bytes) (s : State) : Ans :=
  inputTo s (.segAdvert port frame) <| .next <|
  noteModeConflict <| s.when (s.fab.addr.isSome && port != 2) <| ctrlTake 0x0B 128 frame fun b s =>
    let map := beNat (b.take 128)
    let p := if port = 3 then s.pos else frameSrc frame % 64
    let s := if port = 3 then sendGroup15 s 0x0B (beBytes 128 map) else s
    if tblGet 0 s.fab.adverts p = map then s
    else
      let s := { s with fab := { s.fab with adverts := tblPut 0 s.fab.adverts p map } }
      let s := if segConflicts s != 0 then s.raise Reg.fabFaultSegConflict else s
      let s := if portUsable s 2 then sendAdvert s else s
      startUpdate s

end Sys2Proof.Machine
end

