-- ==== Sys2Proof/Machine/LfField.lean ====
section
/-! DEFINITION. The meanings of the poll-cycle boundary and of the low-frequency field's events (02_release_cycle.md
R25-R28; 03_lf_field.md R50-R68). -/
namespace Sys2Proof.Machine

/-- POLL_CYCLE_BOUNDARY (02 R25): while no wake pattern can start and no context is open, what waits takes effect. -/
def execPollCycleBoundary (s : State) : Ans := .next <|
  s.when (s.running && (s.boundaryDue || s.rad.regPending.isSome) && s.cyc.phase == .idle && s.cyc.ctxs.isEmpty &&
    (!pollsRun s || s.lf.vlfHeld)) fun s => sgrNextJob (pollBoundary s)

/-- WAKE_PATTERN_START (02 R26): a pattern falls due, the interval since the previous cycle's start past. -/
def execWakePatternStart (vlf : Nat) (s : State) : Ans :=
  inputTo s (.wakePatternStart vlf) <| .next <|
  s.when (s.running && s.pwr.deep.isNone && patternFree s && intervalPassed s && s.lf.refusedAt.isNone) fun s =>
    tryPattern (setVlf s vlf)

/-- DUTY_TICK (R64): a pattern that was refused, or else a diagnostic burst that waits, is tried again. -/
def execDutyTick (s : State) : Ans :=
  inputTo s .dutyTick <| .next <|
  if s.lf.refusedAt.isSome && patternFree s then tryPattern s else tryBurst s

/-- VLF_COLLAPSE (R52): the bridges turn off and the pattern is aborted. -/
def execVlfCollapse (vlf : Nat) (s : State) : Ans :=
  inputTo s (.vlfCollapse vlf) <| .next <|
  s.when (s.cyc.phase == .pattern && decide (vlf < 6000)) fun s => abortPattern (setVlf s vlf)

/-- BRIDGE_OVERCURRENT (R53): the channel is disabled; the pattern goes on with a sound partner, else it is aborted. -/
def execBridgeOvercurrent (chan : Nat) (toVlf : Bool) (s : State) : Ans :=
  inputTo s (.bridgeOvercurrent chan toVlf) <| .next <|
  s.when (s.cyc.phase == .pattern) fun s =>
    match s.lf.pattern with
    | some p =>
      let isA := p.chA = chan && p.cut != 1
      let isB := p.chB = some chan && p.cut != 2
      if isA || isB then
        let t := chanFails s chan (if toVlf then .shortVlf else .shortGnd)
        if p.chB.isSome && p.cut = 0 then
          { t with lf := { t.lf with pattern := some { p with cut := if isA then 1 else 2 } } }
        else abortPattern t
      else s
    | none => s

/-- WAKE_PATTERN_END (02 R28): what the pattern measured is noted (R51, R440, R56), COEX_REQ rises for the window (02 R44)
and the receiver is started. -/
def execWakePatternEnd (estA estB loopA loopB : Nat) (s : State) : Ans :=
  inputTo s (.wakePatternEnd estA estB loopA loopB) <| .next <|
  s.when (s.cyc.phase == .pattern) fun s =>
    match s.lf.pattern with
    | some p =>
      let t := lfChange s fun s =>
        let s := if p.cut = 1 then s else measured s p.ipeak loopA estA p.chA
        match p.chB with
        | some b => if p.cut = 2 then s else measured s p.ipeak loopB estB b
        | none => s
      sgrReceive { t with
        lf := { t.lf with pattern := some { p with loopA := loopA, loopB := loopB } },
        cyc := { t.cyc with phase := .gap, coexReq := true } }
    | none => s

/-- LF_START_WAIT_END (R65): emissions are allowed, and the first diagnostics are requested (R67). -/
def execLfStartWaitEnd (s : State) : Ans :=
  inputTo s .lfStartWaitEnd <| .next <|
  s.when (s.running && !s.lf.allowed) fun s => requestDiags { s with lf := { s.lf with allowed := true } }

/-- LF_DIAG_PERIOD (R67). -/
def execLfDiagPeriod (s : State) : Ans :=
  inputTo s .lfDiagPeriod <| .next <| s.when (s.running && s.lf.allowed) requestDiags

/-- DIAG_NOW (R67). -/
def execDiagNow (s : State) : Ans := .next <| s.when s.running (auditedWrite 0 0x1400 requestDiags)

/-- R68: a disabled channel becomes UNTESTED, keeps its tracked resonance, and its diagnostic is requested. -/
def rearmChan (chan : Nat) (s : State) : State :=
  s.when ((s.chan chan).base.disabled) fun s =>
    let t := lfChange s fun s => s.setChan chan { s.chan chan with base := .untested }
    if lfNamed t chan then requestDiag t [] chan else t

/-- LF_REARM (R68). -/
def execLfRearm (chan : Nat) (s : State) : Ans := .next <|
  s.when (s.running && chan < 8) (auditedWrite 0 0x1400 (rearmChan chan))

/-- A diagnostic that finds neither leakage nor an open circuit: DETUNED by its resonance, else OK. Either finding ends a
CURRENT_LOW, since R68 sets the state by it (DESIGN CHOICE against R51's 'until a later pattern meets the tolerance', log 110). -/
def chanPasses (s : State) (c resonance : Nat) : State :=
  selftestChan (lfChange s fun s =>
    s.setChan c { track (s.chan c) resonance with
      base := .ok, detuned := lfFar s resonance 40, currentLow := false }) c true

/-- LF_DIAG_BURST_END (R68): the first finding that applies sets the channel's state; a measured resonance is tracked
(R440). A burst that still waits is tried at the next tick (R64). -/
def execLfDiagBurstEnd (chan : Nat) (trip : Bool) (current resonance : Nat) (s : State) : Ans :=
  inputTo s (.lfDiagBurstEnd chan trip current resonance) <| .next <|
  s.when (s.lf.burst == some chan) fun s =>
    let s := { s with lf := { s.lf with burst := none } }
    if trip then selftestChan (chanFails s chan .shortGnd) chan false
    else if current < 20 then selftestChan (chanFails s chan .openCircuit) chan false
    else chanPasses s chan resonance

end Sys2Proof.Machine
end

