-- ==== Sys2Proof/Machine/RestartOps.lean ====
section
/-! DEFINITION. A reset of the device: what it clears and what it keeps (15_power_and_supervision.md R397, R401, R412;
13_laurel_store.md R439). -/
namespace Sys2Proof.Machine

/-- Status fields that a reset keeps: NV counts, the RTC's state, the level of VDD_IO (R404), and the failure cause in KEEP SRAM
(R401). -/
def keptStats : List Fld :=
  [Reg.mtrTamper, Reg.hifAuditSeqNext, Reg.hifAuditOvr, Reg.hifAuditLost, Reg.nvsScrublast, Reg.updStatusImported,
   Reg.pwrStatusRtcValid, Reg.pwrStatusIo33, Reg.pwrFailinfoCause, Reg.pwrFailinfoDetail]

/-- The status fields as a reset leaves them. -/
def keepStats (s : State) : Cells := keptStats.foldl (fun t f => tblPut f.dflt t f.key (s.stat f)) []

/-- A reset with this cause of R401: SRAM, registers and rings go to their reset values; the flashes, the fuses, the RTC, KEEP
SRAM and what the pins show are kept, and so are the receipts not yet committed, which MTR_RCPT_STAT counts as NV (10 R282; log 127). The
device then waits in STARTING for its start sequence. -/
def resetDevice (cause : Nat) (s : State) : State :=
  let t : State := { State.reset with
    now := s.now, statCells := keepStats s, nvwp := s.nvwp,
    hif := { Hif.reset with subsys := s.hif.subsys },
    nvs := { Nvs.reset with recs := s.nvs.recs, areas := s.nvs.areas },
    pwr := { Pwr.reset with
      supplies := s.pwr.supplies, history := s.pwr.history, autoRestarts := s.pwr.autoRestarts,
      rtc := s.pwr.rtc, rtcPhase := s.pwr.rtcPhase, rtcDrift := s.pwr.rtcDrift, smallStep := s.pwr.smallStep },
    cip := { Cip.reset with
      drbg := { Drbg.reset with seeds := s.cip.drbg.seeds }, lifeCycle := s.cip.lifeCycle, deviceId := s.cip.deviceId, uniqueKey := s.cip.uniqueKey },
    mtr := { Mtr.reset with due := s.mtr.due, formed := s.mtr.formed, rollup := s.mtr.rollup },
    sgr := { Sgr.reset with calDone := s.sgr.calDone },
    uwb := { Uwb.reset with calDone := s.uwb.calDone },
    rad := { Rad.reset with grantPin := s.rad.grantPin },
    upd := { Upd.reset with
      mainHeader := s.upd.mainHeader, mainChunks := s.upd.mainChunks, loaderHeaders := s.upd.loaderHeaders,
      loaderBodies := s.upd.loaderBodies, importing := s.upd.importing, floor := s.upd.floor, appKey := s.upd.appKey },
    out := s.out, pending := s.pending }
  t.setStat Reg.pwrResetCause cause

/-- The RTC is lost, and with it the time of its latest small step (R397). -/
def rtcLost (s : State) : State :=
  { s.setStat Reg.pwrStatusRtcValid 0 with pwr := { s.pwr with rtc := 0, rtcPhase := 0, smallStep := none } }

/-- The supplies of R418 as this power-on finds them: VDD_IO, and VDD_CORE, VDD_ANA, VDD_RF, VLF, VBK and VHOLD. -/
def suppliesFound (vddIo : Nat) (levels : List Nat) : List Nat := nth 0 levels 0 :: vddIo :: (levels.drop 1).take 5

/-- A power-on reset: KEEP SRAM is lost as well, and the RTC unless VBK held it; VDD_IO is sampled, and at 2.50 V or more its
level is 3.3 V (R401, R404). -/
def powerOn (vddIo : Nat) (vbkHeld : Bool) (levels : List Nat) (s : State) : State :=
  let t := resetDevice 0x01 s
  let t := (t.setStat Reg.pwrFailinfoCause 0).setStat Reg.pwrFailinfoDetail 0
  let t := t.setStat Reg.pwrStatusIo33 (if 2500 ≤ vddIo then 1 else 0)
  let t := { t with pwr := { t.pwr with history := [], autoRestarts := [], supplies := suppliesFound vddIo levels } }
  if vbkHeld then t else rtcLost t

/-- A supply of R404 stands below this, in mV, for 10 µs: a main supply failure (R405). VDD_IO's threshold is that of its level. -/
def failsBelow (s : State) (vdd : Nat) : Nat :=
  match vdd with
  | 0 => 740
  | 1 => if s.stat Reg.pwrStatusIo33 = 1 then 2970 else 1620
  | _ => 1620

/-- A supply of R404 below this, in mV, resets the device; VDD_ANA and VDD_RF have no such threshold. -/
def resetsBelow (s : State) (vdd : Nat) : Nat :=
  match vdd with
  | 0 => 700
  | 1 => if s.stat Reg.pwrStatusIo33 = 1 then 2800 else 1550
  | _ => 0

/-- The failed supply ends the failure at this level: below its reset threshold, or 20 mV above its failure threshold (R405). -/
def failureEnds (s : State) (vdd mv : Nat) : Bool :=
  decide (mv < resetsBelow s vdd) || decide (failsBelow s vdd + 20 ≤ mv)

/-- The charger of HOLD runs: from the start on, at TWIG and above, and not once a main supply has failed (16 R420, R426). -/
def chargerOn (s : State) : Bool := s.mode != .seed && s.mode != .starting && !s.nvs.failing && s.pwr.deep.all (· ≤ 3)

/-- A host write of 1 to PWR_CTRL.RESTART: it restarts a FAILED device, and has no effect in any other state (R412, R419). -/
def restartWritten (s : State) : State := if s.mode == .failed then resetDevice 0x05 s else s

end Sys2Proof.Machine
end

