-- ==== Sys2Proof/Machine/Transponder.lean ====
section
/-! DEFINITION. The meanings of the coil polls, the Bramble walk, the transponder contexts and ring 4
(04_transponder_link.md R70-R102; 02_release_cycle.md R48, R49; 03_lf_field.md R52). -/
namespace Sys2Proof.Machine

/-! ### What the coil does next (R73, R89, R92) -/

/-- The coil may be driven: the device serves above TWIG (03 R66) with a regulatory record in force (05 R131), and the field
has been off for 2.000 ms (R73). -/
def coilMayStart (s : State) : Bool :=
  s.running && s.pwr.deep.isNone && s.rad.regRec.isSome && !fieldOn s &&
    (match s.tpx.lastOff with
     | some t => decide (t + 2 ≤ s.now)
     | none => true)

/-- A poll of R89 is due by the clock and the interval in force. A write of EN takes effect at a field turn-on (R102): one of 0
still lets the poll run at whose turn-on it comes into force, and one of 1 is the EN of the turn-on that the poll itself brings,
no other being due (DESIGN CHOICE, log 112). -/
def pollDue (s : State) : Bool :=
  (s.on Reg.tpxCtrlEn || s.held Reg.tpxCtrlEn = 1) && (match s.tpx.lastStart with
    | some t => decide (t + s.eff Reg.tpxPollInterval ≤ s.now)
    | none => true)

/-- Turn the field on for a job: the TPX_ settings take effect (R102), a poll is counted, and a command is past its abort point
(R89, R100). -/
def fieldTurnsOn (s : State) (j : CoilJob) : State :=
  let s := applyTiming .fieldOn s
  let s := { s with tpx := { s.tpx with
    phase := .settle, job := some j, stack := [(0, 0)], served := 0, found := [], contexts := 0, ctx := none,
    vlfHeld := false, lastStart := if j.serves then some s.now else s.tpx.lastStart } }
  let s := if j.serves then s.setStat Reg.tpxPollcount ((s.stat Reg.tpxPollcount + 1) % 2 ^ 32) else s
  match j.tag with
  | some t => markTaken s 4 t true
  | none => s

/-- VLF is low when a job is due (R73). -/
def coilHeld (s : State) : State :=
  let s := s.raise Reg.tpxFaultVlfLow
  { s with tpx := { s.tpx with vlfHeld := true } }

/-- A write that finds 16 pending checks, none of its block, does not start (R98). -/
def checksFull (s : State) : CoilJob → Bool
  | .writeBlock _ id block _ =>
    decide (16 ≤ s.tpx.checks.length) && !s.tpx.checks.any (fun p => p.id == id && p.block == block)
  | .poll | .pollNow _ | .inventory _ _ | .readBlock _ _ _ => false

/-- A poll starts next: it is due, and no command that waits comes before it. A command that waits when a poll has ended starts
then, and a poll that is due when a command has ended (R92). -/
def pollNext (s : State) : Bool := pollDue s && s.tpx.coil != coilShort && !(s.tpx.afterPoll && !s.tpx.queue.isEmpty)

/-- Start what is due: a poll, or the commands in order of arrival (R92). A SHORT coil is not driven: commands complete
COIL_FAULT and no poll starts (R74, R100). A command that finds VLF low waits and is tested again, as R73 says of 'a poll or
command', and does not complete COIL_FAULT, although R100 gives that code the meaning 'or VLF was low' (DESIGN CHOICE, log 113). -/
def coilFuel : Nat → State → State
  | 0, s => s
  | fuel + 1, s =>
    if pollNext s then
      if vlfNow s < 7500 then coilHeld s else fieldTurnsOn s .poll
    else match s.tpx.queue with
      | [] => s
      | j :: rest =>
        let t := { s with tpx := { s.tpx with queue := rest } }
        if s.tpx.coil = coilShort then coilFuel fuel (complete t 4 (j.tag.getD 0) st4CoilFault 0)
        else if checksFull s j then
          coilFuel fuel (complete (t.raise Reg.tpxFaultPendingFull) 4 (j.tag.getD 0) stTableFull 0)
        else if vlfNow s < 7500 then coilHeld s
        else fieldTurnsOn t j

/-- Start what is due, if the coil may be driven. -/
def coilNext (s : State) : State :=
  if coilMayStart s && (pollDue s || !s.tpx.queue.isEmpty) then
    coilFuel (s.tpx.queue.length + 1) { s with tpx := { s.tpx with vlfHeld := false } }
  else s

/-- COIL_POLL_START (R89): a coil poll, or a ring 4 command that waits, falls due. -/
def execCoilPollStart (vlf : Nat) (s : State) : Ans :=
  inputTo s (.coilPollStart vlf) <| .next <|
  s.when (coilMayStart s) fun s => coilNext (setVlf s vlf)

/-- VLF_LOW_RETEST (03 R52; R73): what VLF held is tested again: a pattern, a diagnostic burst, the coil. -/
def execVlfLowRetest (vlf : Nat) (s : State) : Ans :=
  inputTo s (.vlfLowRetest vlf) <| .next <|
  let s := setVlf s vlf
  let s := if s.lf.vlfHeld && patternFree s then tryPattern s else s
  let s := tryBurst s
  if s.tpx.vlfHeld then coilNext s else s

/-! ### The field (R73, R74) -/

/-- The finding of R74 for the current at 1.000 ms, SHORT aside. -/
def coilFinding (s : State) (current : Nat) (phaseOk fullDuty : Bool) : Nat :=
  if current < 5 then coilOpen
  else if !phaseOk then coilDetuned
  else if fullDuty && decide (100 * current < 95 * s.eff Reg.tpxDriveIpeak) then coilLow
  else coilOk

/-- Note a classification and its current. -/
def classifyCoil (s : State) (current finding : Nat) : State :=
  coilState ({ s with tpx := { s.tpx with ilast := min 255 current } }) finding

/-- COIL_SETTLE_END (R74, R89): the coil is classified; an OPEN coil ends the poll or command, any other starts the walk. -/
def execCoilSettleEnd (current : Nat) (phaseOk fullDuty : Bool) (s : State) : Ans :=
  inputTo s (.coilSettleEnd current phaseOk fullDuty) <| .next <|
  s.when (s.tpx.phase == .settle) fun s =>
    let f := coilFinding s current phaseOk fullDuty
    let s := classifyCoil s current f
    if f = coilOpen then endJob s st4CoilFault 0 else walkNext s

/-- COIL_OVERCURRENT (R74): the bridge is off and the coil SHORT; the peak is above the 255 mA at which ILAST holds. -/
def execCoilOvercurrent (s : State) : Ans :=
  inputTo s .coilOvercurrent <| .next <|
  s.when (fieldOn s) fun s => fieldCollapse (classifyCoil s 255 coilShort) ocNoResponse

/-- COIL_VLF_COLLAPSE (R73, R97). -/
def execCoilVlfCollapse (s : State) : Ans :=
  inputTo s .coilVlfCollapse <| .next <|
  s.when (fieldOn s) fun s => fieldCollapse s ocNoResponse

/-- R74: a SHORT coil becomes UNTESTED. -/
def rearmCoil (s : State) : State := s.when (s.tpx.coil == coilShort) fun s => coilState s coilUntested

/-- TPX_REARM (R74). -/
def execTpxRearm (s : State) : Ans := .next <|
  s.when s.running (auditedWrite 0 0x1800 rearmCoil)

/-! ### The walk (R77, R86, R87) -/

/-- What a WALK reply reads as. -/
inductive WalkRead where
  /-- every bit read -/
  | whole (bits : Nat)
  /-- the first collided bit, after this many bits read as `bits` -/
  | collided (count bits : Nat)
  /-- a corrupt bit with no collision above it -/
  | corrupt
  deriving DecidableEq, Repr

/-- Read `n` bits, `count` of them read before as `bits`. Bits that never came are unloaded throughout. -/
def readWalk : Nat → Nat → Nat → List (Bool × Bool) → WalkRead
  | 0, _, bits, _ => .whole bits
  | n + 1, count, bits, hs =>
    match hs.headD (false, false) with
    | (true, false) => readWalk n (count + 1) (bits * 2 + 1) hs.tail
    | (false, true) => readWalk n (count + 1) (bits * 2) hs.tail
    | (true, true) => .collided count bits
    | (false, false) => .corrupt

/-- WALK_REPLY (R86, R87): a reply outside its window is missing (R79). -/
def execWalkReply (start : Nat) (halves : List (Bool × Bool)) (s : State) : Ans :=
  inputTo s (.walkReply start halves) <| .next <|
  match s.tpx.phase with
  | .walk n p tries =>
    if !inTurnaround start turn256 then walkNext s
    else match readWalk (64 - n) 0 0 halves with
      | .whole bits => walkFound s (p * 2 ^ (64 - n) + bits)
      | .collided count bits =>
        let q := (p * 2 ^ count + bits) * 2
        walkNext { s with tpx := { s.tpx with
          stack := (n + count + 1, q) :: (n + count + 1, q + 1) :: s.tpx.stack } }
      | .corrupt =>
        if tries < s.eff Reg.tpxWalkRetry then sendWalk s n p (tries + 1)
        else walkDone (s.raise Reg.tpxFaultWalkNoise)
  | _ => s

/-! ### Handshake (R81, R83, R84, R90) -/

/-- The context of the tag being served, with the current of its latest reply. -/
def coilCtx (s : State) (current : Nat) : Option CoilCtx := s.tpx.ctx.map (fun c => { c with current := current })

/-- The job serves tags in contexts. -/
def servesTags (s : State) : Bool := (s.tpx.job.map CoilJob.serves).getD false

/-- Replace the context. -/
def setCoilCtx (s : State) (c : CoilCtx) : State := { s with tpx := { s.tpx with ctx := some c } }

/-- No SELECTED came: a poll goes on, a command has found no tag (R86, R100). -/
def selectMissing (s : State) : State :=
  if servesTags s then walkNext { s with tpx := { s.tpx with ctx := none } } else endJob s st4NoTag 0

/-- The password of a tag (R84). -/
def tagPassword (kt id : Nat) : Bytes := (cmac (key16 kt) (0x77#8 :: beBytes 8 id)).take 4

/-- Take the password path: without a key to derive from, the context ends NOT_ENROLLED (08 R202). -/
def sendPassword (s : State) (c : CoilCtx) : State :=
  match masterSlot s with
  | none => endTag (setCoilCtx s c) ocNotEnrolled 0
  | some k =>
    let kt := deriveKt s k c.id c.epoch
    let s := setCoilCtx (useSlot s k) { c with kt := kt, byPassword := true }
    sendCoilBytes { s with tpx := { s.tpx with phase := .password } } (0x22#8 :: tagPassword kt c.id)

/-- A selected tag is secured by AES where it offers it, else by password (R84). Where the password path is disabled no path is
taken, and the Path byte of the report of R101 stays 0x00 (DESIGN CHOICE, log 114). -/
def secureTag (s : State) (c : CoilCtx) : State :=
  if bitAt c.cap 0 then
    let s := setCoilCtx s c
    sendCoilBytes { s with tpx := { s.tpx with phase := .getNonce } } [0x20]
  else if !servesTags s then haltTag s st4PasswordOnly 0
  else if bitAt c.cap 1 then
    if s.on Reg.tpxCtrlPwdEn then sendPassword s c else endTag (setCoilCtx s c) ocNotEnrolled 1
  else endTag (setCoilCtx s c) ocNotEnrolled 0

/-- SELECTED_REPLY (R90): the tag's context is in HELD; in a poll the checks of R33 are made. -/
def execSelectedReply (start current : Nat) (frame : Bytes) (s : State) : Ans :=
  inputTo s (.selectedReply start current frame) <| .next <|
  match s.tpx.phase, coilCtx s current with
  | .select, some c =>
    match (if inTurnaround start turn256 then replyPayload frame 0x81 1 else none) with
    | none => selectMissing s
    | some b =>
      let slot := findHolly s c.id
      let c := { c with cap := beNat b, slot := slot, entry := (slot.map (holly s)).getD HollySlot.empty,
                        epoch := s.aut.table.epoch }
      if servesTags s then
        let s := { s with tpx := { s.tpx with contexts := s.tpx.contexts + 1 } }
        match checkR33 s c.id with
        | some oc => endTag (setCoilCtx s c) oc 0
        | none => secureTag s c
      else secureTag s c
  | _, _ => s

/-- The challenge turn of a tag (R81; 08 R202, R222): the checks of R33 again in a poll, then AUTH with Nd and MACd. -/
def sendAuth (s : State) (c : CoilCtx) : State :=
  match (if servesTags s then checkR33 s c.id else none) with
  | some oc => endTag (setCoilCtx s c) oc 0
  | none =>
    match masterSlot s with
    | none => endTag (setCoilCtx s c) ocNotEnrolled 0
    | some k =>
      let kt := deriveKt s k c.id c.epoch
      let (nd, s) := (useSlot s k).draw
      let s := setCoilCtx s { c with kt := kt, nd := nd }
      sendCoilBytes { s with tpx := { s.tpx with phase := .auth } }
        (0x21#8 :: (beBytes 16 nd ++ beBytes 8 (macD 0x64 kt c.nt nd s.addr)))

/-- NONCE_REPLY (R81). -/
def execNonceReply (start current : Nat) (frame : Bytes) (s : State) : Ans :=
  inputTo s (.nonceReply start current frame) <| .next <|
  match s.tpx.phase, coilCtx s current with
  | .getNonce, some c =>
    match (if inTurnaround start turn256 then replyPayload frame 0x82 16 else none) with
    | none => endTag (setCoilCtx s c) ocNoResponse 0
    | some b => sendAuth s { c with nt := beNat b }
  | _, _ => s

/-- The release decision of R90: the slot as it was found, the role vehicle, the coil zone in the slot's zone mask. -/
def coilDecide (s : State) (c : CoilCtx) : State :=
  let s := setCoilCtx s c
  match c.slot with
  | none => endTag s ocNotEnrolled 0
  | some i =>
    let h := c.entry
    let gs := routedGroups s h
    if s.aut.table.epoch != c.epoch || holly s i != h then endTag s ocNotEnrolled 0
    else if h.role != 1 || !bitAt h.zones (s.eff Reg.tpxCtrlZone) || gs.isEmpty then endTag s ocPositioned 0
    else
      let s := setCoilCtx s { c with reqs := { Requests.none with pending := gs } }
      requestGroups { s with tpx := { s.tpx with phase := .granting } } 16 gs h true
        ⟨0xFF, 0, s.stat Reg.tpxPollcount⟩

/-- A tag secured by AES: its pending checks first, then what the job is for (R90, R96, R98, R99). -/
def afterSecured (s : State) (c : CoilCtx) : State :=
  match pendingOf s c.id with
  | some p => sendRead s c (.check p) p.block
  | none =>
    match s.tpx.job with
    | some (.readBlock _ _ block) => sendRead s c .read block
    | some (.writeBlock _ _ block _) => sendRead s c .old block
    | some .poll | some (.pollNow _) | some (.inventory _ _) | none => coilDecide s c

/-- A counted failure of the handshake (08 R220) and its outcome. -/
def countedEnd (s : State) (c : CoilCtx) (oc : Nat) : State := endTag (setCoilCtx (thornFailure s c.id) c) oc 0

/-- Inside its window, the reply of AUTH or PASSWORD (R83): `right` is none for a NAK. A tag in no Holly slot ends NOT_ENROLLED
before a pending check of it is read, which then stays, though R98 reads the block at the next AES SECURED (DESIGN CHOICE, log 145). -/
def handshakeReply (s : State) (c : CoilCtx) (right : Option Bool) : State :=
  match right with
  | none => endTag (setCoilCtx s c) ocBad 0
  | some false => countedEnd s c ocBad
  | some true =>
    if (findHolly s c.id).isNone then endTag (setCoilCtx s c) ocNotEnrolled 0
    else if c.byPassword then coilDecide s c
    else afterSecured s { c with ks := deriveKs c.kt c.nd c.nt, counter := 0 }

/-- A reply with its CRC-16 right (R78); one that fails it counts as not completed (DESIGN CHOICE, log 95). -/
def replyWhole (frame : Bytes) : Bool :=
  decide (3 ≤ frame.length) && beAt frame (frame.length - 2) 2 == crc16 (frame.take (frame.length - 2))

/-- Classify a reply by its start (R83): one completed outside its window is late, whatever it carries; `right` says what a reply
inside it carries, none where it is no reply of the command (log 95). -/
def classifyReply (s : State) (c : CoilCtx) (start nominal : Nat) (frame : Bytes) (right : Option (Option Bool)) : State :=
  if 49152 < start || !replyWhole frame then endTag (setCoilCtx s c) ocNoResponse 0
  else if !inTurnaround start nominal then countedEnd s c ocLate
  else match right with
    | none => endTag (setCoilCtx s c) ocNoResponse 0
    | some r => handshakeReply s c r

/-- AUTH_REPLY (R83). -/
def execAuthReply (start current : Nat) (frame : Bytes) (s : State) : Ans :=
  inputTo s (.authReply start current frame) <| .next <|
  match s.tpx.phase, coilCtx s current with
  | .auth, some c =>
    classifyReply s c start turn2048 frame <|
      match replyPayload frame 0x83 8 with
      | some m => some (some (beNat m == macT 0x74 c.kt c.nd c.nt c.id))
      | none => if replyNak frame = some 1 then some none else none
  | _, _ => s

/-- PASSWORD_REPLY (R83, R84). -/
def execPasswordReply (start current : Nat) (frame : Bytes) (s : State) : Ans :=
  inputTo s (.passwordReply start current frame) <| .next <|
  match s.tpx.phase, coilCtx s current with
  | .password, some c =>
    classifyReply s c start turn256 frame <|
      if (replyPayload frame 0x80 0).isSome then some (some true)
      else if replyNak frame = some 2 then some none else none
  | _, _ => s

/-! ### Secured exchanges (R82, R96-R98) -/

/-- Opcode of a step's request. -/
def SecStep.op : SecStep → Nat
  | .check _ | .read | .old | .verify => 0x30
  | .stage _ => 0x31
  | .confirm _ => 0x32
  | .commit _ => 0x33

/-- Bytes its reply carries. -/
def SecStep.replyLen : SecStep → Nat
  | .stage _ | .commit _ => 1
  | .check _ | .read | .old | .verify | .confirm _ => 16

/-- The reply begins in its window (R85). COMMIT's window, 256 µs to 6,000 µs, is taken without the ±8 µs of R79 (DESIGN CHOICE, log
148). -/
def secInTime (step : SecStep) (start : Nat) : Bool :=
  match step with
  | .commit _ => decide (3072 ≤ start) && decide (start ≤ 72000)
  | .check _ | .read | .old | .verify | .stage _ | .confirm _ => inTurnaround start turn1024

/-- The reply of a secured request is missing (R82, R97): a command concludes. In a poll the one secured request is the READ of a
pending check (R90, R98); the context then ends NO_RESPONSE and the check stays, an outcome the rules do not name (DESIGN CHOICE,
log 115). -/
def securedMissing (s : State) (c : CoilCtx) (step : SecStep) (sentInFull : Bool) : State :=
  if servesTags s then endTag (setCoilCtx s c) ocNoResponse 0
  else writeEnds s c step sentInFull (fun s st => haltTag s st 0)

/-- A NAK, or the NAK reason in a secured status (R85, R100). After COMMIT nothing but COMMITTED ends the doubt (R97). Reasons but 4
and 5, of which R97 and R100 do not speak, count as a missing reply (DESIGN CHOICE, log 147). -/
def securedNak (s : State) (c : CoilCtx) (step : SecStep) (reason : Nat) : State :=
  if servesTags s then endTag (setCoilCtx s c) ocNoResponse 0
  else if reason = 4 then haltTag s st4Backwards 0
  else if reason = 5 then haltTag s st4ReadOnly 0
  else securedMissing s c step true

/-- The block and bytes of a write. -/
def writeOf (s : State) : Nat × Bytes :=
  match s.tpx.job with
  | some (.writeBlock _ _ block data) => (block, data)
  | some .poll | some (.pollNow _) | some (.inventory _ _) | some (.readBlock _ _ _) | none => (0, [])

/-- Send STAGE, for the first or the second time. -/
def sendStage (s : State) (c : CoilCtx) (again : Bool) : State :=
  sendSecured s c (.stage again) 0x31 (BitVec.ofNat 8 (writeOf s).1 :: (writeOf s).2)

/-- A READ command has its block: it is written to the host. -/
def readDone (s : State) (data : Bytes) : State :=
  match (s.tpx.job.bind CoilJob.tag).bind (findOut s 4) with
  | some o => haltTag (cmdDma s 4 o.desc.tag o.desc.addr data) stOk 0
  | none => haltTag s stOk 0

/-- A right reply of each step (R96, R98). -/
def securedStep (s : State) (c : CoilCtx) (step : SecStep) (data : Bytes) : State :=
  match step with
  | .check p => afterSecured (resolvePending s p data) c
  | .read => readDone s data
  | .old => sendStage s { c with oldBytes := data } false
  | .stage again =>
    if beNat data = 0 then sendSecured s c (.confirm again) 0x32 [BitVec.ofNat 8 (writeOf s).1]
    else securedNak s c step (beNat data)
  | .confirm again =>
    if data = (writeOf s).2 then sendSecured s c (.commit s.now) 0x33 [BitVec.ofNat 8 (writeOf s).1]
    else if again then haltTag s st4NotWritten 0
    else sendStage s c true
  | .commit _ => if beNat data = 0 then sendRead s c .verify (writeOf s).1 else securedNak s c step (beNat data)
  | .verify => if data = (writeOf s).2 then haltTag s stOk 0 else haltTag s st4Mismatch 0

/-- SECURED_REPLY (R82, R96-R98): a reply out of time, or with a wrong counter or MAC, is missing. -/
def execSecuredReply (start current : Nat) (frame : Bytes) (s : State) : Ans :=
  inputTo s (.securedReply start current frame) <| .next <|
  match s.tpx.phase, coilCtx s current with
  | .secured step, some c =>
    let s := setCoilCtx s c
    if !secInTime step start then securedMissing s c step true
    else match securedPayload c step.op step.replyLen frame with
      | some data => securedStep s c step data
      | none =>
        match replyNak frame with
        | some r => securedNak s c step r
        | none => securedMissing s c step true
  | _, _ => s

/-- TPX_REPLY_MISSING (R79, R83, R97). -/
def execTpxReplyMissing (current : Nat) (sentInFull : Bool) (s : State) : Ans :=
  inputTo s (.tpxReplyMissing current sentInFull) <| .next <|
  match s.tpx.phase with
  | .walk _ _ _ => walkNext s
  | .select => selectMissing s
  | .getNonce | .auth | .password =>
    match coilCtx s current with
    | some c => endTag (setCoilCtx s c) ocNoResponse 0
    | none => s
  | .secured step =>
    match coilCtx s current with
    | some c => securedMissing (setCoilCtx s c) c step sentInFull
    | none => s
  | .off | .settle | .granting => s

/-! ### Ring 4 (R99, R100) -/

/-- TPX_REPORT_BUFFER (R99, R101). -/
def execTpxReportBuffer (tag : Nat) (s : State) : Ans :=
  inputTo s (.tpxReportBuffer tag) <| .next (postBuffer 4 0x01 32 tag s)

/-- A command joins the coil's queue and starts at once if nothing is before it (R92). -/
def coilCommand (tag : Nat) (j : CoilJob) (s : State) : State :=
  let s := markTaken s 4 tag false
  coilNext { s with tpx := { s.tpx with queue := s.tpx.queue ++ [j] } }

/-- POLL_NOW (R99). -/
def execPollNow (tag : Nat) (s : State) : Ans :=
  inputTo s (.pollNow tag) <| .next <|
  ringCmd 4 0x02 tag (fun _ => coilCommand tag (.pollNow tag)) s

/-- INVENTORY (R99). -/
def execInventory (tag : Nat) (s : State) : Ans :=
  inputTo s (.inventory tag) <| .next <|
  ringCmdIf 4 0x03 tag (fun d => decide (8 ≤ d.len) && decide (d.len ≤ 64) && d.len % 8 = 0)
    (fun d => coilCommand tag (.inventory tag (d.len / 8))) s

/-- READ_BLOCK (R99). -/
def execReadBlock (tag : Nat) (s : State) : Ans :=
  inputTo s (.readBlock tag) <| .next <|
  ringCmdIf 4 0x04 tag (fun d => d.len = 16 && decide (d.p1 < 16))
    (fun d => coilCommand tag (.readBlock tag d.p0 d.p1)) s

/-- WRITE_BLOCK (R96, R99). -/
def execWriteBlock (tag : Nat) (data : Bytes) (s : State) : Ans :=
  inputTo s (.writeBlock tag data) <| .next <|
  ringCmdIf 4 0x05 tag (fun d => d.len = 16 && decide (d.p1 < 16))
    (fun d => coilCommand tag (.writeBlock tag d.p0 d.p1 (padTo 16 data))) s

end Sys2Proof.Machine
end

