-- ==== Sys2Proof/Machine/WriteOps.lean ====
section
/-! DEFINITION. A write of a 32-bit register as a whole: what R4 takes of it, its actions, what follows from a new value, and its
audit entry (00_scope.md R4, R5; 12_host_interface.md R312, R313, R339, R345-R347). -/
namespace Sys2Proof.Machine

/-! ### Ring registers (12 R347) -/

/-- Apply the bounds of a ring register's field, with a clamp report entry where they change the value. -/
def ringClamp (s : State) (n o lsb width v lo hi : Nat) : State × Nat :=
  let a := if v < lo then lo else if hi < v then hi else v
  (if a = v then s else clampReport s (0x0800 + 64 * n + o) lsb width v a 0, a)

/-- Replace a half of a ring base; its 12 low bits stay zero. -/
def baseHalf (base half w : Nat) : Nat :=
  if half = 0 then base / 2 ^ 32 * 2 ^ 32 + w % 2 ^ 32 / 4096 * 4096 else base % 2 ^ 32 + w % 2 ^ 32 * 2 ^ 32

/-- A write of RING_SIZE. -/
def ringSizeWritten (n w : Nat) (s : State) : State :=
  let (s, k) := ringClamp s n 0x10 0 5 (bitField w 0 5) 4 16
  let (s, c) := ringClamp s n 0x10 8 5 (bitField w 8 5) k 16
  s.setRing n { s.ring n with sqk := k, cqk := c }

/-- A write of RING_CTRL. -/
def ringCtrlWritten (n w : Nat) (s : State) : State :=
  let (s, c) := ringClamp s n 0x14 16 8 (bitField w 16 8) 1 255
  let s := s.setRing n { s.ring n with intEn := bitAt w 1, vector := some (bitField w 8 6), coalCnt := c }
  if bitAt w 0 then ringEnables n s else ringDisables n s

/-- A write of register `o` of ring `n`. The bases and the sizes are written only while the ring is DISABLED. -/
def ringWritten (n o w : Nat) (s : State) : State :=
  let r := s.ring n
  let dis := r.phase == .disabled
  match o with
  | 0x00 => if dis then s.setRing n { r with sqBase := baseHalf r.sqBase 0 w } else s
  | 0x04 => if dis then s.setRing n { r with sqBase := baseHalf r.sqBase 1 w } else s
  | 0x08 => if dis then s.setRing n { r with cqBase := baseHalf r.cqBase 0 w } else s
  | 0x0C => if dis then s.setRing n { r with cqBase := baseHalf r.cqBase 1 w } else s
  | 0x10 => if dis then ringSizeWritten n w s else s
  | 0x14 => ringCtrlWritten n w s
  | 0x18 =>
    let (s, t) := ringClamp s n 0x18 0 10 (bitField w 0 10) 1 1000
    s.setRing n { s.ring n with coalTime := t }
  | 0x2C => s.setRing n { r with err := clearBits r.err (bitField w 0 4) }
  | _ => s

/-- A write of word `k` of the MSI-X table; a vector that is unmasked is no longer pending (PRESUMED, log 19). Every bit of a word is
held and read back as written, the reserved ones too (log 151, DESIGN CHOICE). -/
def msixWritten (k w : Nat) (s : State) : State :=
  let s := { s with hif := { s.hif with msixTable := tblPut (if k % 4 = 3 then 1 else 0) s.hif.msixTable k (w % 2 ^ 32) } }
  if k % 4 = 3 && w % 2 = 0 then { s with hif := { s.hif with pba := clearBit s.hif.pba (k / 4) } } else s

/-! ### What follows from a write -/

/-- Doors that were enabled become UNTESTED (09 R236). -/
def doorsEnabled (s t : State) : State :=
  [0, 1, 2, 3].foldl (fun (t : State) n => if !doorEnabled s n && doorEnabled t n then t.setDoor n Door.reset else t) t

/-- Groups whose EN went from 1 to 0 end their sessions (09 R244, R256). -/
def groupsDisabled (s t : State) : State :=
  [0, 1].foldl (fun (t : State) g =>
    if s.on (Reg.relGroupEn g) && !t.on (Reg.relGroupEn g) then groupDisabled g t else t) t

/-- A change of SGR_COEX that shows a grant lets a waiting TX_PACKET go (05 R124, R127); one that withdraws it during a UWB round
makes the round incomplete (R126). -/
def coexFollows (s t : State) : State :=
  if grantSeen t && !grantSeen s && t.sgr.grantWait then
    match t.sgr.work with
    | .txPacket tag data _ =>
      let (u, on) := sgrPacketGoes t tag data
      if on then u else sgrNextJob u
    | _ => t
  else if !grantSeen t && grantSeen s && t.uwb.round.isSome then roundFails (t.raise Reg.uwbFaultGrantLost)
  else t

/-- What the fields written bring about at once. -/
def writeFollows (s t : State) : State := coexFollows s (groupsDisabled s (doorsEnabled s (portsDisabled s t)))

/-- The write-only actions of a register: REJOIN, LF REARM and DIAG_NOW, TPX REARM, RESTART. -/
def writeActions (off w : Nat) (s : State) : State :=
  if off = 0x1000 && bitAt w 4 then rejoins s
  else if off = 0x1400 then
    let s := (List.range 8).foldl (fun s c => if bitAt w c then rearmChan c s else s) s
    if bitAt w 8 then requestDiags s else s
  else if off = 0x1800 && bitAt w 8 then rearmCoil s
  else s

/-- PROFILE in a write of SYS_PROFILE (01 R21). -/
def profileWritten (source off w : Nat) (s : State) : State :=
  if off = 0x0040 then selectProfile source (bitField w 0 4) s else s

/-- A write of the set-up register at `off`: its fields, its actions and what follows. -/
def setupWritten (off w : Nat) (s : State) : State :=
  writeActions off w (writeFollows s (profileWritten 0 off w (writeFields 0 false off w s)))

/-- A host write of the register at `off`, with its audit entry under this source code (0 BAR0, 1 BAR4 through the head).
A write that finds no register, or of which R4 takes nothing, leaves the device as it is; in FAILED only RESTART acts
(15 R411), and in STARTING only SYS_ and RING_ are written (R403). -/
def registerWritten (source off w : Nat) (s : State) : State :=
  if s.mode == .failed then (if off = 0x4400 && bitAt w 0 then restartWritten s else s)
  else if !answersIn s.mode off || !onThisDevice s off then s
  else if 0x0800 ≤ off && off < 0x0C00 then ringWritten ((off - 0x0800) / 64) ((off - 0x0800) % 64) w s
  else if 0xE000 ≤ off && off < 0xE400 then msixWritten ((off - 0xE000) / 4) w s
  else if writeTaken s off then auditedWrite source off (setupWritten off w) s
  else s

end Sys2Proof.Machine
end

