-- ==== Sys2Proof/Machine/BlobOps.lean ====
section
/-! DEFINITION. Configuration blobs (12_host_interface.md R331-R335, R339). -/
namespace Sys2Proof.Machine

/-- BLOB_CORRUPT. -/
def stBlobCorrupt : Nat := 0x61
/-- BLOB_VERSION. -/
def stBlobVersion : Nat := 0x62

/-- Version of a blob. -/
def blobVersion (b : Bytes) : Nat := leAt b 0 2

/-- The entries of a blob: offset, zero field, value. -/
def blobList (b : Bytes) : List (Nat × Nat × Nat) :=
  (List.range (leAt b 2 2)).map (fun i => (leAt b (16 + 8 * i) 2, leAt b (18 + 8 * i) 2, leAt b (20 + 8 * i) 4))

/-- The status of a blob's header under R332, `current` the current format: OK, BLOB_VERSION or BLOB_CORRUPT. -/
def blobStatus (current : Nat) (b : Bytes) : Nat :=
  let n := leAt b 2 2
  if blobVersion b = 0 || current < blobVersion b then stBlobVersion
  else if leAt b 4 4 ≠ 16 + 8 * n || b.length ≠ 16 + 8 * n || n = 0 || 2048 < n || leAt b 8 4 ≠ crc32 (b.drop 16) ||
      leAt b 12 4 ≠ 0 || (blobList b).any (fun e => e.2.1 != 0) then stBlobCorrupt
  else stOk

/-- R334 takes an entry of this offset: it names a register of the configuration of this device. -/
def entryTaken (s : State) (off : Nat) : Bool := off % 4 = 0 && (configRegs s).contains off

/-- An entry of a blob of the current format: a host write of its RW and RWL fields. -/
def entryApplied (off w : Nat) (s : State) : State :=
  writeFollows s (profileWritten 1 off w (writeFields 1 true off w s))

/-- One field takes its default, as a host write of it would and within its limit, with no entry of its own (R333). -/
def fieldDefaulted (off : Nat) (s : State) (r : FieldSpec) : State :=
  if r.acc == .rwl && !rwlOpen s r then s
  else storeField s (r.fld off) r.timing (clampValue s r off (defaultOf s r))

/-- A register takes the defaults of its RW fields and of its writable RWL fields (R333). -/
def registerDefaulted (off : Nat) (s : State) : State :=
  let t := (configFields off).foldl (fieldDefaulted off) s
  writeFollows s (dependents 3 off (if off = 0x0040 then selectProfile 3 1 t else t))

/-- The entry that an older blob leaves in the clamp report. -/
def olderReported (version current : Nat) (s : State) : State := clampReport s 0xFFFF 0 16 version current 3

/-- Audit entries of a blob: itself, and each register whose value it changed. -/
def blobAudited (b : Bytes) (s t : State) : State :=
  let t := audit t 0x02 0 0 reqHost 0 0 0 (leNat ((sha256 b).take 8))
  (configRegs t).foldl (fun (u : State) o =>
    if heldWord s o = heldWord t o then u else audit u 0x02 0 0 reqHost o (heldWord s o) (heldWord t o) 0) t

/-- Apply a blob whose header passes: the state and the result of R334. -/
def applyBlob (current : Nat) (b : Bytes) (s : State) : State × Nat :=
  let l := blobList b
  let take := l.filter (fun e => entryTaken s e.1)
  let t := if blobVersion b = current then take.foldl (fun t e => entryApplied e.1 e.2.2 t) s
    else olderReported (blobVersion b) current (take.foldl (fun t e => registerDefaulted e.1 t) s)
  let made := (t.stat Reg.hifClampNextSeq + 65536 - s.stat Reg.hifClampNextSeq) % 65536
  (blobAudited b s t, take.length + 65536 * (l.length - take.length) + 2 ^ 32 * made)

end Sys2Proof.Machine
end

