-- ==== Sys2Proof/Machine/AssetOps.lean ====
section
/-! DEFINITION. The asset record: its layout, its export and what an import changes (14_live_update.md R386-R388). -/
namespace Sys2Proof.Machine

/-- The occupied slots as entries of 32 bytes, in slot order. -/
def assetEntries (s : State) : Bytes := s.aut.table.slots.flatMap (fun e => hollyRead s e.1)

/-- The header without its MAC: bytes 0-95. -/
def assetHeader (s : State) (body : Bytes) : Bytes :=
  [0x08, 0x01] ++ leBytes 2 s.addr ++ leBytes 8 s.cip.deviceId ++ leBytes 4 s.rtc ++
    [BitVec.ofNat 8 s.cip.lifeCycle.code, BitVec.ofNat 8 (bit s.aut.table.individual + 2 * bit (anySess s SessionEntry.live))] ++
    leBytes 2 (slotsUsed s) ++ leBytes 4 s.aut.table.epoch ++ (lifeCounters s).flatMap (leBytes 6) ++
    leBytes 4 (configBlob s).length ++ leBytes 2 s.mtr.epoch ++ leBytes 2 0 ++ leBytes 4 (s.mtr.rcptNext - 1) ++
    leBytes 4 0 ++ sha256 body

/-- The asset record of this device (R386). -/
def assetRecord (s : State) : Bytes :=
  let body := assetEntries s ++ configBlob s
  let h := assetHeader s body
  h ++ cmac (s.slot 1).key (0x58#8 :: h) ++ body

/-- Holly entries of a record. -/
def assetCount (r : Bytes) : Nat := leAt r 18 2

/-- Entry `i` of a record. -/
def assetEntry (r : Bytes) (i : Nat) : Bytes := slice r (112 + 32 * i) 32

/-- The blob of a record. -/
def assetBlob (r : Bytes) : Bytes := r.drop (112 + 32 * assetCount r)

/-- A record keeps the layout of R386: kind, format, flags and zero fields, and its lengths. -/
def assetForm (r : Bytes) : Bool :=
  byteAt r 0 = 0x08 && byteAt r 1 = 0x01 && byteAt r 17 < 4 && leAt r 54 2 = 0 && leAt r 60 4 = 0 &&
    r.length = 112 + 32 * assetCount r + leAt r 48 4

/-- What a record carries can be applied: no more entries than its mode has slots, each legal (08 R210), and a blob whose header
passes R332. -/
def assetBody (r : Bytes) : Bool :=
  assetCount r ≤ modeSlots (bitAt (byteAt r 17) 0) &&
    (List.range (assetCount r)).all (fun i => entryLegal (assetEntry r i)) && blobStatus 2 (assetBlob r) = stOk

/-- The imported lifetime counters in the order of bytes 24-47. -/
def assetCounters (r : Bytes) : List Nat := [leAt r 24 6, leAt r 30 6, leAt r 36 6, leAt r 42 6]

/-- The set of the Holly table that a record carries, its entries in slots 0 onward. -/
def assetSet (r : Bytes) : HollySet :=
  { individual := bitAt (byteAt r 17) 0, epoch := leAt r 20 4, time := 0,
    slots := (List.range (assetCount r)).map (fun i => (i, hollyOfEntry (assetEntry r i))) }

/-- The lock-out state of an imported entry; LOCK_START is found from LOCK_END and LEVEL (R388). -/
def assetLock (b : Bytes) : LockState :=
  let level := byteAt b 21
  { fails := byteAt b 20, wstart := leAt b 28 4, level := level, lockEnd := leAt b 24 4,
    lockStart := if level = 0 then 0 else leAt b 24 4 - 120 * 2 ^ (min level 5 - 1) }

/-- The lock-out states of a record. -/
def assetLocks (r : Bytes) : Tbl LockState :=
  (List.range (assetCount r)).foldl (fun t i => tblPut LockState.zero t i (assetLock (assetEntry r i))) []

/-- The first reason of R387 that refuses a record with this authorisation, 0 for none. -/
def assetReason (s : State) (r auth : Bytes) : Nat :=
  if !(attestUsable s && auth == authMac s 0x49 (sha256 (r.take 112)) && slice r 64 32 == sha256 (r.drop 112)) then 1
  else if s.cip.lifeCycle != .provisioned || s.stat Reg.updStatusImported != 0 then 2
  else if s.rel.next ≠ 1 then 3
  else if !((assetCounters r).zip (lifeCounters s)).all (fun e => decide (e.2 ≤ e.1)) then 4
  else if bitAt (byteAt r 17) 0 && !individualPermitted s then 5
  else 0

/-- The lifetime counters of a record are in force; R387 has tested that none is below the target's own, and one that has grown since
is not set back. -/
def countersImported (s : State) (r : Bytes) : State :=
  let c := assetCounters r
  { s with mtr := { s.mtr with
      imp := max s.mtr.imp (nth 0 c 0), exp := max s.mtr.exp (nth 0 c 1), chIn := max s.mtr.chIn (nth 0 c 2),
      chOut := max s.mtr.chOut (nth 0 c 3), changed := true } }

/-- An accepted import takes effect as one change (R388). One that a further start completes again makes no second audit entry. -/
def importTakes (r : Bytes) (s : State) : State :=
  let s := countersImported s r
  let s := tableReplaced s (assetSet r)
  let s := { s with aut := { s.aut with locks := assetLocks r, heldLocks := [], locksChanged := true } }
  let s := (applyBlob 2 (assetBlob r) s).1
  if s.stat Reg.updStatusImported = 1 then s else auditCmd (s.setStat Reg.updStatusImported 1) 10 0x06 (leAt r 4 8)

/-- The records of an import that has taken effect in SRAM: the lifetime counters first (R390), the Holly set, the configuration,
and the lock-outs of that set. -/
def importedItems (s : State) : List RecItem :=
  let g := nextHollyGen s
  let t := { s with aut := { s.aut with gen := g, genInForce := g } }
  meterItems t false ++ hollyItems g t.aut.table ++ configItems t (nextConfigGen t) ++ lockItems t

/-- The records that an import needs: as it leaves the device, or, where a start completes it, as it has left it. -/
def importItems (s : State) (tag : Option Nat) (r : Bytes) : List RecItem :=
  importedItems (if tag.isSome then importTakes r s else s)

/-- The first record of this request is programmed: an import goes on from here even if it is cut short (R388; log 156, DESIGN
CHOICE). -/
def importBegun (e : NvEffect) (s : State) : State :=
  match e with
  | .import _ r => { s with upd := { s.upd with importing := some r } }
  | _ => s

/-- The generations of the configuration and of the Holly set in force, once the records of both stand. -/
def setsStand (s : State) : State :=
  let g := hollyGenFound s
  { s with
    nvs := { s.nvs with cfgGen := (setGens s 0x0001).foldl max s.nvs.cfgGen },
    aut := { s.aut with gen := g, genInForce := g } }

/-- The records of an import stand: it takes effect, unless a start has made it take effect before, and is complete. -/
def importStands (tag : Option Nat) (r : Bytes) (s : State) : State :=
  let s := setsStand (if tag.isSome then importTakes r s else s)
  { s with upd := { s.upd with importing := none } }

/-- A start completes an import that was cut short (R388; log 156): it takes effect, and its records are asked of SE12. -/
def importResumed (s : State) : State :=
  match s.upd.importing with
  | some r =>
    let t := importTakes r s
    nvRequest t (importItems t none r) (.import none r)
  | none => s

end Sys2Proof.Machine
end

