-- ==== Sys2Proof/Machine/CommitOps.lean ====
section
/-! DEFINITION. What a request to the store changes once its last record is committed (13_laurel_store.md R360): the one place
where a command that waited for SE12 takes effect and completes. -/
namespace Sys2Proof.Machine

/-! ### Life cycle (07 R192, R194; 08 R214) -/

/-- A wiping transition. -/
def lcWipes (target : Nat) : Bool := target = 3 || target = 4

/-- The state of a code of R195. -/
def lifeCycleOf : Nat → LifeCycle
  | 0 => .blank
  | 1 => .provisioned
  | 2 => .field
  | 3 => .returned
  | _ => .scrapped

/-- A test access port instruction that the life-cycle state allows, else BYPASS (R194). -/
def tapAllowed (lc : LifeCycle) (instr : Nat) : Nat :=
  if instr < 3 then instr
  else if instr < 5 && (lc == .blank || lc == .returned) then instr
  else 0

/-- Every session ends, those as well that a queued request opens as entries become free: each of three rounds frees all eight
entries, and the queue holds at most eight requests (R192; 09 R242). -/
def endSessions (s : State) (cause : Nat) : State :=
  (List.range 3).foldl (fun s _ => if liveCount s = 0 then s else endAll s cause) s

/-- A life-cycle transition is made (R192): sessions end, slots and the Holly table are wiped, the fuses take the new state,
and the change is entered in the audit log. -/
def lifeCycleTakes (s : State) (target : Nat) : State :=
  let before := s.cip.lifeCycle
  let s := if lcWipes target && before != .blank then endSessions s 0x09 else s
  let s := (wipedSlots target).foldl (fun (s : State) n => s.setSlot n KeySlot.empty) s
  let s := if lcWipes target then clearWorkingKey (hollyErased s) else s
  let lc := lifeCycleOf target
  let s := { s with cip := { s.cip with lifeCycle := lc }, tap := tapAllowed lc s.tap }
  audit s 0x03 8 0x08 reqHost 0 before.code target 0

/-! ### Receipts (10 R274-R278) -/

/-- A rollover (R278, 09 R240): receipt and session numbers start again at 1. -/
def rolloverTakes (s : State) (epoch : Nat) : State :=
  { s with
    mtr := { s.mtr with epoch := epoch, rcptNext := 1, rcptAck := 0, post := 1, reloaded := false },
    rel := { s.rel with next := 1, ceiling := 1 } }

/-! ### The effect of a request -/

/-- Every counter ceiling 65,536 higher, as at a start (07 R180). -/
def raiseCeilings (h : Cells) : Cells := (List.range 64).foldl (fun t n => tblPut 0 t n (tblGet 0 t n + 65536)) h

/-- A set of the Holly table is written by ring 2 ENROLL or REVOKE (R215, R216): a token that stays keeps its lock-out
state, a slot that is empty loses it. A set that awaits its time stands one generation above. The lock-out records follow at
once, since they carry the generation. -/
def hollyTakes (s : State) (set : HollySet) : State :=
  let g := hollyGenFound s - bit s.aut.pendingSet.isSome
  let keep (e : Nat × LockState) : Bool := (tblGet HollySlot.empty set.slots e.1).id == (holly s e.1).id
  let locks := s.aut.locks.filter keep
  requestLockCheckpoint { s with aut := { s.aut with
      table := set, gen := hollyGenFound s, genInForce := g, locks := locks,
      heldLocks := s.aut.heldLocks.filter (fun i => (tblGet HollySlot.empty set.slots i).id == (holly s i).id),
      locksChanged := true } }

/-- A committed learn (R217, R218): at once, or awaiting its time while the RTC is set and below it. A Quickset set ends
MODE_CONFLICT as it is committed (R212). -/
def learnTakes (s : State) (set : HollySet) : State :=
  let s := { s with aut := { s.aut with learn := none, modeConflict := s.aut.modeConflict && set.individual } }
  if set.time = 0 || (s.rtcSet && set.time ≤ s.rtc) then tableReplaced s set
  else { s with aut := { s.aut with gen := hollyGenFound s, pendingSet := some set } }

/-- UNLOCK takes effect (R225): a slot's FAILS, LEVEL and LOCK_END, or the counter of R223. -/
def unlockTakes (s : State) (slot : Option Nat) : State :=
  let s := match slot with
    | some i =>
      let s := setLock s i { lockOf s i with fails := 0, level := 0, lockEnd := 0 }
      { s with aut := { s.aut with heldLocks := s.aut.heldLocks.filter (fun k => k != i) } }
    | none => { s with aut := { s.aut with unknown := UnknownState.zero, heldUnknown := false, locksChanged := true } }
  s

/-- The records that an UNLOCK needs: none where nothing changes. -/
def unlockItems (s : State) (id : Nat) : List RecItem :=
  let i := if id = 0 then none else findHolly s id
  if id ≠ 0 && i.isNone then [] else lockItems (unlockTakes s i)

/-- The records that a wiping transition makes: the sealed copies of occupied slots are deleted, and a Holly table that has
been written gives place to an empty one (R192; 08 R214). -/
def lcItems (s : State) (target : Nat) : List RecItem :=
  let gone := (wipedSlots target).filter (fun n => n != 0 && n != 2 && attrOcc (s.slot n).attr)
  critItems (gone.map (fun n => (slotRecKey n, true, RecData.sealed []))) ++
    (if hollyGenFound s = 0 && !nvBusy s 2 then [] else hollyItems (nextHollyGen s) HollySet.empty)

/-- A key slot takes its content (R190); an ERASE of the loaded slot clears the working key register (R166), and a load with
the RECEIPT role is noted for the next rollover (10 R278). -/
def slotTakes (s : State) (op n : Nat) (k : KeySlot) : State :=
  let loaded := s.cip.loaded == some n
  let s := s.setSlot n (if op = 5 then { s.slot n with attr := k.attr, master := k.master } else k)
  let s := if op = 4 && loaded then clearWorkingKey s else s
  if op < 4 && attrRole k.attr = roleReceipt then { s with mtr := { s.mtr with reloaded := true } } else s

/-- A receipt has still to be formed, or signed and committed: one that waits for SE9's fault or for its slot does not count. -/
def receiptsOwed (s : State) : Bool :=
  (!s.mtr.due.isEmpty && s.roleThere 9) || (!s.mtr.formed.isEmpty && (receiptSlot s).isSome)

/-- An LC_ADVANCE that wipes goes on as far as it can: the sessions end, also those opened since; their receipts are waited for;
the wipes are asked of SE12; and the transition is made once their records stand, or at once where the store holds nothing of
what they wipe (R192). -/
def lcProceeds (s : State) : State :=
  match s.cip.lcWaits with
  | some (tag, target, wiped) =>
    let s := if s.cip.lifeCycle != .blank then endSessions s 0x09 else s
    if receiptsOwed s then s
    else
      let s := { s with cip := { s.cip with lcWaits := none } }
      let items := if wiped then [] else lcItems s target
      if items.isEmpty then complete (remasksLate (lifeCycleTakes s target)) 8 tag stOk 0
      else nvRequest s items (.lifeCycle tag target)
  | none => s

/-- Deliver what a request changes, now that its records stand, and complete its ring command. -/
def commitEffect (s : State) (e : NvEffect) : State :=
  match e with
  | .none | .checkpoint => s
  | .audit n =>
    let s := { s with hif := { s.hif with auditWaiting := s.hif.auditWaiting.drop n, auditDeferred := false } }
    auditOverwritten s (min n (auditStored s - auditDepth))
  | .config =>
    let s := s.setStat Reg.hifStatusCfgUnsaved 0
    { s with nvs := { s.nvs with cfgGen := (setGens s 0x0001).foldl max s.nvs.cfgGen } }
  | .regRec tag b =>
    let s := { s with rad := { s.rad with regPending := some b } }
    complete (auditCmd s 5 0x05 (leNat ((sha256 b).take 8))) 5 tag stOk 0
  | .slot tag op n k result => complete (remasksLate (slotTakes s op n k)) 8 tag stOk result
  | .lifeCycle tag target => lcProceeds { s with cip := { s.cip with lcWaits := some (tag, target, true) } }
  | .holly tag op h =>
    match hollyEdit s op h with
    | (_, r, some set) =>
      let s := if op = 8 then { s with aut := { s.aut with pendingSet := Option.none } } else s
      complete (auditCmd (hollyTakes s set) 2 op h.id) 2 tag stOk r
    | (st, r, Option.none) => complete s 2 tag st r
  | .learn tag set =>
    if s.aut.learn.isNone then complete s 2 tag stLearnState 0
    else complete (auditCmd (learnTakes s set) 2 0x07 0) 2 tag stOk 0
  | .unlock tag id =>
    let i := if id = 0 then Option.none else findHolly s id
    if id ≠ 0 && i.isNone then complete s 2 tag stOk 0
    else complete (auditCmd (unlockTakes s i) 2 0x09 id) 2 tag stOk 1
  | .rollover tag epoch => complete (auditCmd (rolloverTakes s epoch) 6 0x06 epoch) 6 tag stOk 0
  | .sessionCeiling c =>
    let s := { s with rel := { s.rel with ceiling := max s.rel.ceiling c } }
    s.rel.waiting.foldl decide_ { s with rel := { s.rel with waiting := [] } }
  | .counterCeiling tag n h =>
    let s := { s with cip := { s.cip with ceilings := tblPut 0 s.cip.ceilings n h } }
    match tag with
    | some t =>
      let v := tblGet 0 s.cip.counters n
      complete { s with cip := { s.cip with counters := tblPut 0 s.cip.counters n ((v + 1) % 2 ^ 64) } } 7 t stOk v
    | Option.none => s
  | .startCeilings => { s with cip := { s.cip with ceilings := raiseCeilings s.cip.ceilings } }
  | .receipt n _ =>
    let s := receiptStands s n
    lcProceeds (match s.cip.lcWaits with
      | some (tag, _, _) => passAbort s 8 tag
      | Option.none => s)
  | .ack tag n =>
    match tag with
    | some t => complete (ackTakes s n) 6 t stOk (ackLeft s n)
    | Option.none => ackTakes s n
  | .hostWrite tag key seq => complete (auditCmd s 9 0x02 key) 9 tag stOk seq
  | .hostDelete tag key present => complete (auditCmd s 9 0x03 key) 9 tag stOk present
  | .lockout => { s with aut := { s.aut with locksChanged := !(lockItems s).isEmpty } }
  | .import tag r =>
    match tag with
    | some t => complete (importStands tag r s) 10 t stOk 0
    | Option.none => importStands tag r s

/-- The commit of audit entries is deferred: the 256 oldest wait in SRAM, and each beyond is lost and counted (12 R339). -/
def auditDefers (s : State) : State :=
  let lost := s.hif.auditWaiting.length - 256
  let s := { s with hif := { s.hif with auditWaiting := s.hif.auditWaiting.take 256, auditDeferred := true } }
  s.setStat Reg.hifAuditLost (satTo 32 (s.stat Reg.hifAuditLost + lost))

/-- A request is deferred under the supply check before its first record (R360): its ring command completes NV_DEFERRED and
nothing of it is made; a request of the device itself is made again under its own chapter. -/
def deferRequest (s : State) (e : NvEffect) : State :=
  let s := match e with
    | .ack _ n => { s with mtr := { s.mtr with ackRetry := some (max n (s.mtr.ackRetry.getD 0)) } }
    | _ => s
  let s := noteDeferredFor e s
  match e.ring with
  | some n =>
    let s := match e with
      | .learn _ _ => { s with aut := { s.aut with learn := s.aut.learn.map (fun l => { l with committing := false }) } }
      | _ => s
    complete (remasksLate s) n e.tag stNvDeferred 0
  | Option.none =>
    match e with
    | .config => { s.setStat Reg.hifStatusCfgUnsaved 1 with hif := { s.hif with cfgChanged := true } }
    | .checkpoint => { s with mtr := { s.mtr with changed := true } }
    | .audit _ => auditDefers s
    | .receipt _ _ =>
      let s := { s with mtr := { s.mtr with committing := false } }
      match s.cip.lcWaits with
      | some (tag, _, _) => complete { s with cip := { s.cip with lcWaits := Option.none } } 8 tag stNvDeferred 0
      | Option.none => s
    | .lockout => { s with aut := { s.aut with locksChanged := true } }
    | .sessionCeiling _ =>
      s.rel.waiting.foldl (fun u r => refuseReq u r rsNvDeferred) { s with rel := { s.rel with waiting := [] } }
    | _ => s

/-! ### The front of the queue (R352, R357, R360) -/

/-- Data that several requests share is taken as it stands when its record is programmed. -/
def refreshData (s : State) (e : NvEffect) (d : RecData) : RecData :=
  match d, e with
  | .ceilings _ _, .counterCeiling _ n h => .ceilings (tblPut 0 s.cip.ceilings n h) s.rel.ceiling
  | .ceilings _ _, .sessionCeiling c => .ceilings s.cip.ceilings (max s.rel.ceiling c)
  | .ceilings _ _, .startCeilings => .ceilings (raiseCeilings s.cip.ceilings) s.rel.ceiling
  | .ceilings _ _, .rollover _ _ => .ceilings s.cip.ceilings 1
  | .receiptState _ _ _ _, .ack _ n => .receiptState (max n s.mtr.rcptAck) s.mtr.epoch s.mtr.rcptNext s.mtr.reloaded
  | .receiptState _ _ _ _, .slot _ _ _ _ _ => .receiptState s.mtr.rcptAck s.mtr.epoch s.mtr.rcptNext true
  | d, _ => d

/-- A request that has not begun is formed of the tables as they stand when SE12 comes to it, so that no change made since is
undone (08 R218, R224; 07 R192; 14 R388). One that no longer changes anything is left without records. -/
def asItStands (s : State) (q : NvReq) : NvReq :=
  if q.started then q
  else match q.eff with
    | .holly _ op h => { q with items := hollyEditItems s op h }
    | .learn _ set => { q with items := if s.aut.learn.isNone then [] else hollyItems (nextHollyGen s) set }
    | .unlock _ id => { q with items := unlockItems s id }
    | .lockout => { q with items := lockItems s }
    | .import tag r => { q with items := importItems s tag r }
    | .lifeCycle _ target => { q with items := lcItems s target }
    | _ => q

/-- Write copy B of a critical record that stands on copy A alone (R357). -/
def writeCopyB (s : State) (key : Nat) (verifyOk : Bool) : Option State :=
  match chooseStanding ((recsOf s key).filter (fun r => r.area == .critA)) with
  | some r => programItem s ⟨.critB, key, r.delete, r.len, r.data⟩ verifyOk
  | Option.none => some s

/-- SE12 comes to the request at the front of its queue. The supply check is made before its first record (R360): deferred, the
request ends as its chapter decides; a record of the device without a chapter's retry waits behind the others. A critical
write that has started runs to its end (R357). A record that does not read back is written again. -/
def commitRequest (suppliesOk verifyOk : Bool) (s : State) : State :=
  match s.nvs.queue with
  | [] => s
  | q :: rest =>
    let q := asItStands s q
    match q.items with
    | [] => commitEffect { s with nvs := { s.nvs with queue := rest } } q.eff
    | i :: items =>
      let fit := suppliesOk && s.nvs.holdSeen
      if !fit && !q.started then
        if q.eff.keeps then noteDeferred { s with nvs := { s.nvs with queue := rest ++ [q] } }
        else deferRequest { s with nvs := { s.nvs with queue := rest } } q.eff
      else if !fit && !i.area.inCode then noteDeferredFor q.eff s
      else
        match programItem s { i with data := refreshData s q.eff i.data } verifyOk with
        | none => s
        | some t =>
          let t := importBegun q.eff (match q.eff.ring with
            | some n => markTaken t n q.eff.tag true
            | Option.none => t)
          if !verifyOk then { t with nvs := { t.nvs with queue := { q with started := true } :: rest } }
          else if items.isEmpty then commitEffect { t with nvs := { t.nvs with queue := rest } } q.eff
          else { t with nvs := { t.nvs with queue := { q with items := items, started := true } :: rest } }

/-- SE12 writes its next record: a copy B that is missing before anything else (R357), then a record of a sector to be reclaimed,
copied forward (R351), then the request at the front of its queue. The supply check comes before each (R360). In W2108 mode no
request is served while an interrupted erase is open (R367). -/
def commitFront (suppliesOk verifyOk : Bool) (s : State) : State :=
  let fit := suppliesOk && s.nvs.holdSeen
  match s.nvs.single, nextCopy s with
  | k :: ks, _ =>
    if !fit then noteDeferred s
    else match writeCopyB s k verifyOk with
      | some t => if verifyOk then { t with nvs := { t.nvs with single := ks } } else t
      | Option.none => s
  | [], some r => if fit then copyRecord s r verifyOk else noteDeferred s
  | [], Option.none => if storeWaits s then s else commitRequest suppliesOk verifyOk s

/-! ### Records written at once (13 R362; 14 R390) -/

/-- Program a record, or leave it where its area has no room. -/
def programOr (s : State) (i : RecItem) (verifyOk : Bool) : State := (programItem s i verifyOk).getD s

/-- Program records while energy lasts; one at the places `unread` does not read back, and is written again (R352). -/
def programAll (s : State) (l : List RecItem) (unread : List Nat) : State :=
  l.zipIdx.foldl (fun s e => programOr (if unread.contains e.2 then programOr s e.1 false else s) e.1 true) s

/-- The entries of an audit record. -/
def RecData.auditEntries : RecData → List AuditEntry
  | .audit l => l
  | _ => []

/-- Audit entries that wait and stand in no record yet. -/
def auditUnwritten (s : State) : List AuditEntry :=
  let stored := (auditRecs s).flatMap (fun r => r.data.auditEntries)
  s.hif.auditWaiting.filter (fun e => !stored.any (fun x => x.seq == e.seq))

/-- Waiting audit entries as records of at most 31 entries. -/
def auditItems : Nat → List AuditEntry → List RecItem
  | 0, _ => []
  | fuel + 1, l => if l.isEmpty then [] else dataItem .audit 0x0300 (.audit (l.take 31)) :: auditItems fuel (l.drop 31)

/-- The audit entries that wait are committed at once, where SE12 may write (14 R390). -/
def auditCommitted (s : State) : State :=
  if s.nvs.holdSeen && !s.nvs.failing then
    commitEffect (programAll s (auditItems (s.hif.auditWaiting.length + 1) (auditUnwritten s)) []) (.audit s.hif.auditWaiting.length)
  else s

end Sys2Proof.Machine
end

