-- ==== Sys2Proof/Machine/Cipher.lean ====
section
/-! DEFINITION. The meanings of ring 7, of the TRNG and its DRBG, and of Privet masking (07_cipher_and_keys.md R165-R181,
R188, R189, R196). -/
namespace Sys2Proof.Machine

/-! ### The form of a ring 7 job (R168-R170) -/

/-- MODE of parameter 0. -/
def jobMode (d : Desc) : Nat := bitField d.p0 8 3
/-- PAD of parameter 0. -/
def jobPad (d : Desc) : Nat := bitField d.p0 12 2
/-- AADLEN of parameter 0. -/
def jobAad (d : Desc) : Nat := bitField d.p0 16 16
/-- SLOT of parameter 0. -/
def jobSlot (d : Desc) : Nat := bitField d.p0 0 6

/-- Checks that ENCRYPT, DECRYPT and MAC share: length, reserved bits, alignment of the side block. -/
def jobForm (d : Desc) : Bool :=
  decide (d.len ≤ 65535) && bitField d.p0 6 2 = 0 && bitField d.p0 11 1 = 0 && bitField d.p0 14 2 = 0 &&
    bitField d.p0 32 32 = 0 && d.p1 % 16 = 0

/-- Checks that a mode brings: AADLEN only in GCM and within the length, PAD only in ECB and CBC. -/
def modeForm (d : Desc) : Bool :=
  decide (jobMode d < 4) && (if jobMode d = 3 then decide (jobAad d ≤ d.len) else jobAad d = 0) &&
    (decide (jobMode d < 2) || jobPad d = 0)

/-- The form of ENCRYPT. -/
def encryptForm (d : Desc) : Bool :=
  jobForm d && modeForm d && !(decide (jobMode d < 2) && jobPad d = 0 && d.len % 16 != 0)

/-- The form of DECRYPT. -/
def decryptForm (d : Desc) : Bool := jobForm d && modeForm d && !(decide (jobMode d < 2) && d.len % 16 != 0)

/-- The form of MAC, which ignores MODE. -/
def macForm (d : Desc) : Bool := jobForm d && jobAad d = 0 && jobPad d = 0

/-! ### Padding (R171, R172) -/

/-- The data with its padding. -/
def padded (pad : Nat) (data : Bytes) : Bytes :=
  let n := data.length
  let r := 16 - n % 16
  match pad with
  | 1 => data ++ [0x80] ++ zeroBytes (r - 1)
  | 2 => data ++ List.replicate r (BitVec.ofNat 8 r)
  | 3 => if n % 16 = 0 && 0 < n then data else data ++ zeroBytes r
  | _ => data

/-- Length left after the removal of ISO9797_M2 padding; none where it is bad. The argument is the last block reversed. -/
def unpadM2 : Bytes → Option Nat
  | [] => none
  | b :: bs => if b = 0 then (unpadM2 bs).map (· + 1) else if b = 0x80 then some 1 else none

/-- The length after removal of the padding of decrypted data; none where the padding is bad. -/
def unpadded (pad : Nat) (data : Bytes) : Option Nat :=
  let last := data.drop (data.length - 16)
  match pad with
  | 1 => (unpadM2 last.reverse).map (fun k => data.length - k)
  | 2 =>
    let p := (last.getLastD 0).toNat
    if 1 ≤ p && p ≤ 16 && p ≤ last.length && (last.drop (last.length - p)).all (fun b => b.toNat = p) then
      some (data.length - p)
    else none
  | _ => some data.length

/-! ### Ring 7 jobs (R173, R174, R196) -/

/-- A job under a slot takes at least one block: the working key register holds its key (R166). -/
def runJob (s : State) (n : Nat) (blocks : Bool) : State := if blocks then useSlot s n else s

/-- Bytes that an ENCRYPT writes in the buffer. -/
def encryptedLen (d : Desc) : Nat :=
  if jobMode d < 2 then (padded (jobPad d) (zeroBytes d.len)).length else d.len - jobAad d

/-- ENCRYPT writes its bytes and side block and completes. -/
def encryptRuns (d : Desc) (data : Bytes) (s : State) : State :=
  let n := jobSlot d
  let key := (s.slot n).key
  let rks := aesRoundKeys key
  match jobMode d with
  | 0 =>
    let p := padded (jobPad d) data
    completeData (runJob s n (!p.isEmpty)) 7 d (ecb (aesEncRk rks) p) p.length
  | 1 =>
    let p := padded (jobPad d) data
    let (iv, s) := s.draw
    let s := cmdDma s 7 d.tag d.p1 (beBytes 16 iv)
    completeData (runJob s n (!p.isEmpty)) 7 d (cbcEncBlocks rks (pieces 16 p) (beBytes 16 iv)) p.length
  | 2 =>
    let (c, s) := s.draw
    let s := cmdDma s 7 d.tag d.p1 (beBytes 16 c)
    completeData (runJob s n (!data.isEmpty)) 7 d (aesCtr key (beBytes 16 c) data) data.length
  | _ =>
    let (v, s) := s.draw
    let iv := (beBytes 16 v).take 12
    let aad := data.take (jobAad d)
    let ct := gcmStream key iv (data.drop (jobAad d))
    let s := cmdDma s 7 d.tag d.p1 (iv ++ zeroBytes 4 ++ gcmTag key iv aad ct)
    let s := cmdDma (runJob s n true) 7 d.tag (d.addr + jobAad d) ct
    complete s 7 d.tag stOk ct.length

/-- A refused ENCRYPT writes zeros in every place it would have written (R186). -/
def encryptRefused (d : Desc) (s : State) : State :=
  let side := match jobMode d with
    | 0 => 0
    | 3 => 32
    | _ => 16
  let s := cmdDma s 7 d.tag d.p1 (zeroBytes side)
  let s := cmdDma s 7 d.tag (d.addr + jobAad d) (zeroBytes (encryptedLen d))
  complete s 7 d.tag stOk 0

/-- ENCRYPT (R173). -/
def execEncrypt (tag : Nat) (data : Bytes) (s : State) : Ans :=
  inputTo s (.encrypt tag data) <| .next <|
  ringCmdIf 7 0x01 tag encryptForm (fun d s =>
    if slotPermits s (jobSlot d) reqHost false useEnc then encryptRuns d (padTo d.len data) s
    else encryptRefused d s) s

/-- PAD_ERROR. -/
def st7PadError : Nat := 0x40
/-- TAG_MISMATCH. -/
def st7TagMismatch : Nat := 0x41

/-- The whole buffer is written with zeros (R172, R174). -/
def jobFails (s : State) (d : Desc) (status : Nat) : State :=
  complete (cmdDma s 7 d.tag d.addr (zeroBytes d.len)) 7 d.tag status 0

/-- DECRYPT: the decrypted length is written whole, and the result is the length after the removal of padding. -/
def decryptRuns (d : Desc) (data side : Bytes) (s : State) : State :=
  let n := jobSlot d
  let key := (s.slot n).key
  let rks := aesRoundKeys key
  let plain (p : Bytes) (s : State) : State :=
    match (if p.isEmpty then some 0 else unpadded (jobPad d) p) with
    | some k => completeData s 7 d p k
    | none => jobFails s d st7PadError
  match jobMode d with
  | 0 => plain (ecb (aesDecRk rks) data) (runJob s n (!data.isEmpty))
  | 1 => plain (cbcDecBlocks rks (pieces 16 data) (side.take 16)) (runJob s n (!data.isEmpty))
  | 2 => completeData (runJob s n (!data.isEmpty)) 7 d (aesCtr key (side.take 16) data) data.length
  | _ =>
    let iv := side.take 12
    let aad := data.take (jobAad d)
    let ct := data.drop (jobAad d)
    let s := runJob s n true
    if gcmTag key iv aad ct = slice side 16 16 then
      complete (cmdDma s 7 d.tag (d.addr + jobAad d) (gcmStream key iv ct)) 7 d.tag stOk ct.length
    else jobFails s d st7TagMismatch

/-- DECRYPT (R172, R174). -/
def execDecrypt (tag : Nat) (data side : Bytes) (s : State) : Ans :=
  inputTo s (.decrypt tag data side) <| .next <|
  ringCmdIf 7 0x02 tag decryptForm (fun d s =>
    if slotPermits s (jobSlot d) reqHost false useDec then decryptRuns d (padTo d.len data) (padTo 32 side) s
    else complete (cmdDma s 7 d.tag (d.addr + jobAad d) (zeroBytes (d.len - jobAad d))) 7 d.tag stOk 0) s

/-- MAC (R173): the 16-byte CMAC at side-block offset 16. -/
def execMac (tag : Nat) (data : Bytes) (s : State) : Ans :=
  inputTo s (.mac tag data) <| .next <|
  ringCmdIf 7 0x03 tag macForm (fun d s =>
    if slotPermits s (jobSlot d) reqHost false useEnc then
      let (m, s) := slotCmac s (jobSlot d) (padTo d.len data)
      complete (cmdDma s 7 tag (d.p1 + 16) m) 7 tag stOk 0
    else complete (cmdDma s 7 tag (d.p1 + 16) (zeroBytes 16)) 7 tag stOk 0) s

/-- `n` values of the nonce service, in order. -/
def drawMany : Nat → State → Bytes × State
  | 0, s => ([], s)
  | n + 1, s =>
    let (v, s) := s.draw
    let (b, s) := drawMany n s
    (beBytes 16 v ++ b, s)

/-- NONCE (R196). -/
def execNonce (tag : Nat) (s : State) : Ans :=
  inputTo s (.nonce tag) <| .next <|
  ringCmdIf 7 0x04 tag (fun d => decide (16 ≤ d.len) && decide (d.len ≤ 4096) && d.len % 16 = 0) (fun d s =>
    let (b, s) := drawMany (d.len / 16) s
    completeData s 7 d b d.len) s

/-! ### Counters (R180, R181) -/

/-- c[s]. -/
def counterOf (s : State) (n : Nat) : Nat := tblGet 0 s.cip.counters n

/-- H[s]. -/
def ceilingOf (s : State) (n : Nat) : Nat := tblGet 0 s.cip.ceilings n

/-- Issue the next value of a slot's counter. -/
def issueCounter (s : State) (n : Nat) : Nat × State :=
  let v := counterOf s n
  (v, { s with cip := { s.cip with counters := tblPut 0 s.cip.counters n ((v + 1) % 2 ^ 64) } })

/-- COUNTER (R180, R181): checks 1 to 4 of R185; a value at the ceiling waits until the next ceiling is persisted. -/
def execCounter (tag : Nat) (s : State) : Ans :=
  inputTo s (.counter tag) <| .next <|
  ringCmdIf 7 0x05 tag (fun d => decide (d.p0 < 64)) (fun d s =>
    if !slotVisible s d.p0 reqHost false then refuseSilent s 7 d 0
    else if counterOf s d.p0 != ceilingOf s d.p0 then
      let (v, s) := issueCounter s d.p0
      complete s 7 tag stOk v
    else changeCmd 7 d false (fun s =>
      let h := ceilingOf s d.p0 + 65536
      nvRequest (markTaken s 7 tag false)
        [dataItem .state 0x0140 (.ceilings (tblPut 0 s.cip.ceilings d.p0 h) s.rel.ceiling)]
        (.counterCeiling (some tag) d.p0 h)) s) s

/-! ### TRNG and DRBG (R177-R179) -/

/-- The TRNG serves: its start-up test has passed. -/
def trngReady (s : State) : Bool := s.stat Reg.cipStatusTrngReady = 1

/-- A persistent failure (R179): TRNG_FAIL and FAILED. -/
def trngFails (s : State) : State := enterFailed (s.raise Reg.cipFaultTrngFail) 0x03 0

/-- The limit of CIP_DRBG on requests or on time has been reached (R177). -/
def reseedFalls (s : State) : Bool :=
  decide (s.eff Reg.cipDrbgReseedReq ≤ s.cip.drbg.requests) ||
    decide (s.cip.lastReseed + s.eff Reg.cipDrbgReseedMs ≤ s.now)

/-- DRBG_RESEED (R177, R179): a reseed falls due, and starts unless the latest window failed; or the one in progress ends,
and the settings of CIP_DRBG take effect (R197). -/
def execDrbgReseed (end_ : Bool) (s : State) : Ans := .next <|
  s.when (trngReady s) fun s =>
    let busy := s.stat Reg.cipStatusReseeding = 1
    if end_ then
      s.when busy fun s =>
        let s := applyTiming .reseed (s.setStat Reg.cipStatusReseeding 0)
        { s with cip := { s.cip with lastReseed := s.now } }
    else if busy || !reseedFalls s then s
    else if s.cip.windowBad then { s with cip := { s.cip with reseedDue := true } }
    else reseedStarts s

/-- The continuous tests over one window of raw bits: each failure is counted, once a window (R178). Answers whether one
failed. -/
def windowTested (s : State) (bits : List Bool) : Bool × State :=
  let (r, rct) := repetition bits s.cip.rawRun false
  let apt := proportionFails bits
  let s := { s with cip := { s.cip with rawRun := r } }
  let s := if rct then s.bump Reg.cipTrngRctFails else s
  (rct || apt, if apt then s.bump Reg.cipTrngAptFails else s)

/-- ENTROPY_WINDOW_END (R178, R179): failures are counted, three within 1.000 s are persistent, and a window that passes
lets the reseed that waits start. -/
def execEntropyWindowEnd (first : Bool) (rest : List Bool) (s : State) : Ans := .next <|
  s.when (s.mode != .seed && s.mode != .failed) fun s =>
    let (failed, s) := windowTested s (first :: rest)
    if failed then
      let l := s.now :: s.cip.healthFails.filter (fun t => decide (s.now ≤ t + 1000))
      let s := { s.raise Reg.cipFaultHealth with cip := { s.cip with windowBad := true, healthFails := l } }
      if 3 ≤ l.length then trngFails s else s
    else
      let s := { s with cip := { s.cip with windowBad := false } }
      if s.cip.reseedDue then reseedStarts s else s

/-- The start-up test over the first 4,096 raw bits: it fails with any failure of the continuous tests (R178). -/
def startupTested (s : State) (bits : List Bool) : Bool × State :=
  (rawWindows 4 bits).foldl (fun (a : Bool × State) w =>
    let (f, t) := windowTested a.2 w
    (a.1 || f, t)) (false, s)

/-- TRNG_STARTUP_TEST_END (R178, R179): passed, the DRBG takes its seed and nonces may be issued; failed once, it runs again;
failed twice, the failure is persistent. -/
def execTrngStartupTestEnd (bits : List Bool) (s : State) : Ans := .next <|
  s.when (s.mode != .seed && s.mode != .failed && !trngReady s) fun s =>
    let (failed, s) := startupTested (s.bump Reg.cipTrngStartups) bits
    if !failed then
      let s := s.setStat Reg.cipStatusTrngReady 1
      { s with cip := { s.cip with drbg := s.cip.drbg.start, lastReseed := s.now, startupFails := 0 } }
    else
      let s := { s with cip := { s.cip with startupFails := s.cip.startupFails + 1 } }
      if 2 ≤ s.cip.startupFails then trngFails s else s

/-- RESEED_WAIT_EXPIRY (R179). -/
def execReseedWaitExpiry (s : State) : Ans := .next <| s.when s.cip.reseedDue trngFails

/-! ### Privet masking (R188, R189) -/

/-- PRIVET_REMASK (R188): the next slot takes a fresh mask, or, while it is being written, once the write has ended; a new
period takes effect at slot 0 (R189). The key is not formed and the working key register stays (R166). It pauses at BUD and below (15
R396). -/
def execPrivetRemask (s : State) : Ans := .next <|
  s.when (trngReady s && decide (rung s ≤ 1)) fun s =>
    let n := s.cip.remask
    let s := if n = 0 then applyTiming .maskPass s else s
    let s :=
      if slotBeingWritten s n then { s with cip := { s.cip with remaskDue := n :: s.cip.remaskDue } } else remaskSlot s n
    { s with cip := { s.cip with remask := (n + 1) % 64 } }

end Sys2Proof.Machine
end

