-- ==== Sys2Proof/Machine/Cycle.lean ====
section
/-! DEFINITION. The meanings of the announce window and of the challenges and responses of a cycle (02_release_cycle.md
R30-R36, R43; 08_tokens_and_challenge.md R203-R209; 06_proximity.md R141, R142). -/
namespace Sys2Proof.Machine

/-- The open slot closes and the next one opens; with slot 15 the window closes and the challenges begin (R30, R34). -/
def slotCloses (s : State) : State :=
  if s.cyc.slot = 15 then cycleCheck { s with cyc := { s.cyc with phase := .exchanges, slotBusy := false } }
  else { s with cyc := { s.cyc with slot := s.cyc.slot + 1, slotBusy := false } }

/-- ANNOUNCE_WINDOW_OPEN (R30). -/
def execAnnounceWindowOpen (s : State) : Ans :=
  inputTo s .announceWindowOpen <| .next <|
  s.when (s.cyc.phase == .gap) fun s => { s with cyc := { s.cyc with phase := .window, slot := 0, slotBusy := false } }

/-- SLOT_EMPTY_CLOSE (R30). -/
def execSlotEmptyClose (s : State) : Ans :=
  inputTo s .slotEmptyClose <| .next <|
  s.when (s.cyc.phase == .window && !s.cyc.slotBusy) slotCloses

/-- SLOT_GUARD_END (R30). -/
def execSlotGuardEnd (s : State) : Ans :=
  inputTo s .slotGuardEnd <| .next <|
  s.when (s.cyc.phase == .window && s.cyc.slotBusy) slotCloses

/-- A context in HELD from an announce (R43): its Holly slot as found, and the channels and loop currents of the pattern
(03 R60; 06 R156). A channel that tripped has a loop current of 0. -/
def heldCtx (s : State) (rssi : Int) (frame : Bytes) : Ctx :=
  let id := beAt frame 0 8
  let slot := findHolly s id
  let (a, b, la, lb) := match s.lf.pattern with
    | some p => (p.chA, p.chB, if p.cut = 1 then 0 else p.loopA, if p.cut = 2 then 0 else p.loopB)
    | none => (0, none, 0, 0)
  { phase := .held, slot := s.cyc.slot, id := id, nt := beAt frame 8 16, announce := frame, rssi := rssi, holly := slot,
    entry := (slot.map (holly s)).getD HollySlot.empty, epoch := s.aut.table.epoch, chA := a, chB := b, loops := (la, lb),
    ipeak := (s.lf.pattern.map Pattern.ipeak).getD (s.eff Reg.lfDriveIpeak),
    nd := 0, kt := 0, ks := 0, challenge := [], keyedAt := 0, nextNine := false, exchanges := [], channels := 0,
    boundNonce := 0, bound := none, reqs := Requests.none, fused := none, detail := 0 }

/-- ANNOUNCE_FRAME (R31-R33): an announce that passes its CRC-8 takes a free context, and the checks of R33 are made as it
ends. -/
def execAnnounceFrame (rssi : Int) (frame : Bytes) (s : State) : Ans :=
  inputTo s (.announceFrame rssi frame) <| .next <|
  s.when (s.cyc.phase == .window && !s.cyc.slotBusy && s.sgr.phase == .rx) fun s =>
    let s := noteRssi { s with cyc := { s.cyc with slotBusy := true } } rssi
    if frame.length = 31 && byteAt frame 30 == crc8 (frame.take 30) && decide (s.cyc.ctxs.length < s.eff Reg.autCtxCount) then
      let n := s.cyc.allocated
      let c := heldCtx s rssi frame
      let s := { s with cyc := { s.cyc with ctxs := s.cyc.ctxs ++ [(n, c)], allocated := n + 1 } }
      match checkR33 s c.id with
      | some oc => endCtx s n oc 0
      | none => s
    else s

/-- The challenge of context `n` under the master key in slot `k`: Nd is drawn, Kt derived and MACd computed, and the frame
sent or held for lock (R43; 05 R106; 08 R199, R205, R207). -/
def challengeSent (s : State) (n k : Nat) (c : Ctx) (lock : Bool) (us : Nat) : State :=
  let (nd, s) := s.draw
  let s := useSlot s k
  let kt := deriveKt s k c.id c.epoch
  let body := challengeBody s c.slot nd (macD 0x44 kt c.nt nd s.addr)
  let s := s.setCtx n { c with phase := .challenging, nd := nd, kt := kt, challenge := body }
  let s := { s with cyc := { s.cyc with onAir := some n, coexPri := true } }
  if sgrReady s || (lock && s.sgr.phase != .cal) then sgrTransmit s (challengeFrame body) us
  else if s.eff Reg.sgrCtrlTxWaitMax = 0 then endCtx (sgrBusy s) n ocNoResponse 0
  else sgrHold s

/-- CHALLENGE_TURN (R34, R43): the rows of HELD in their order. A challenge that cannot be sent ends its context NO_RESPONSE
(05 R109, R123). -/
def execChallengeTurn (ctx : Nat) (lock : Bool) (s : State) : Ans :=
  inputTo s (.challengeTurn ctx lock) <| .next <|
  s.when (s.cyc.phase == .exchanges && s.cyc.onAir.isNone && nextHeld s == some ctx) fun s =>
    match s.ctx ctx with
    | none => s
    | some c =>
      match checkR33 s c.id with
      | some oc => endCtx s ctx oc 0
      | none =>
        match masterSlot s with
        | none => endCtx s ctx ocNotEnrolled 0
        | some k =>
          let us := airtime s challengeBits
          match sgrRefusal s us with
          | some r => endCtx r.2 ctx ocNoResponse 0
          | none =>
            if sgrNeverCalibrated s then endCtx s ctx ocNoResponse 0
            else challengeSent s ctx k c lock us

/-- The context whose challenge is out and whose response is awaited. -/
def responseAwaited (s : State) : Option (Nat × Ctx) :=
  match s.cyc.onAir with
  | some n => match s.ctx n with
    | some c => if c.phase == .challenging && !s.sgr.held && s.sgr.phase != .tx then some (n, c) else none
    | none => none
  | none => none

/-- A right response of an enrolled token: the context is KEYED, or ends RANGE_FAIL at once where no UWB channel is usable
(R36, R37, R43; 05 R112). -/
def keyCtx (s : State) (n : Nat) (c : Ctx) : State :=
  let ks := deriveKs c.kt c.nd c.nt
  let s := s.setCtx n { c with phase := .keyed, ks := ks, keyedAt := s.now, nextNine := firstNine s ks }
  let s := { s with cyc := { s.cyc with
    onAir := none, keyed := s.cyc.keyed ++ [n], keyedIds := s.cyc.keyedIds ++ [c.id] } }
  match uwbUsable s with
  | (false, false) => endCtx (noteChannels s) n ocRangeFail 0
  | _ => cycleCheck s

/-- The classification of R35 of a response body: slot byte and MACt. -/
def classify (s : State) (n : Nat) (c : Ctx) (start10ns mact : Nat) : State :=
  if !inWindow s start10ns then endCtx (thornFailure s c.id) n ocLate 0
  else if mact ≠ macT 0x54 c.kt c.nd c.nt c.id then endCtx (thornFailure s c.id) n ocBad 0
  else if (findHolly s c.id).isNone then endCtx s n ocNotEnrolled 0
  else if s.cyc.keyedIds.contains c.id then endCtx s n ocDuplicate 0
  else keyCtx s n c

/-- The instant by which a response must have begun, 1.500 ms after the challenge ended, in 10 ns (R34, R35). -/
def responseLimit : Nat := 150000

/-- RESPONSE_FRAME (R35): a response that had not begun by 1.500 ms, that is not completed, fails its CRC-8 or names another slot is NO_RESPONSE (08 R203,
R206). -/
def execResponseFrame (start10ns : Nat) (rssi : Int) (frame : Bytes) (complete : Bool) (s : State) : Ans :=
  inputTo s (.responseFrame start10ns rssi frame complete) <| .next <|
  match responseAwaited s with
  | none => s
  | some (n, c) =>
    if s.sgr.phase != .rx then s
    else if responseLimit < start10ns then endCtx s n ocNoResponse 0
    else
      let s := if complete then noteRssi s rssi else s
      match (if complete then responseBody frame else none) with
      | some (slot, mact) => if slot % 16 = c.slot then classify s n c start10ns mact else endCtx s n ocNoResponse 0
      | none => endCtx s n ocNoResponse 0

/-- RESPONSE_TIMEOUT (R34). -/
def execResponseTimeout (s : State) : Ans :=
  inputTo s .responseTimeout <| .next <|
  match responseAwaited s with
  | some (n, _) => endCtx s n ocNoResponse 0
  | none => s

end Sys2Proof.Machine
end

