-- ==== Sys2Proof/Machine/Holly.lean ====
section
/-! DEFINITION. The meanings of ring 2 and of the Thorn lock-out's events (08_tokens_and_challenge.md R210-R229). -/
namespace Sys2Proof.Machine

/-! ### Status codes (R228) -/

/-- LEARN_MISMATCH. -/
def stLearnMismatch : Nat := 0x52
/-- DUP_IN_SET. -/
def stDupInSet : Nat := 0x53

/-! ### Ring 2 (R213, R227, R229) -/

/-- A ring 2 command: its form, then the silent refusal of R213, then `f`. -/
def hollyCmd (op tag : Nat) (form : Desc → Bool) (written : Desc → Nat) (f : Desc → State → State) (s : State) : State :=
  ringCmdIf 2 op tag form (fun d s => if hollyPermits s then f d s else refuseSilent s 2 d (written d)) s

/-- A ring 2 command that changes the table, a staged set or a counter: NVWP refuses it (R229). -/
def hollyChange (op tag : Nat) (form : Desc → Bool) (f : Desc → State → State) (s : State) : State :=
  hollyCmd op tag form (fun _ => 0) (fun d s => changeCmd 2 d true (f d) s) s

/-- Request a changed table of SE12, or complete where there is nothing to write. -/
def requestTable (tag op : Nat) (h : HollySlot) (s : State) : State :=
  match hollyEdit s op h with
  | (_, _, some _) => nvRequest (markTaken s 2 tag false) (hollyEditItems s op h) (.holly tag op h)
  | (st, r, none) => complete s 2 tag st r

/-- ENROLL (R215). -/
def execEnroll (tag : Nat) (data : Bytes) (s : State) : Ans := .next <|
  hollyChange 0x01 tag (fun d => d.len = 32 && entryLegal (padTo 32 data))
    (fun _ => requestTable tag 1 (hollyOfEntry (padTo 32 data))) s

/-- REVOKE (R216). -/
def execRevoke (tag : Nat) (s : State) : Ans := .next <|
  hollyChange 0x02 tag (fun _ => true) (fun d => requestTable tag 2 { HollySlot.empty with id := d.p0 }) s

/-- READ_SLOT (R227). -/
def execReadSlot (tag : Nat) (s : State) : Ans := .next <|
  hollyCmd 0x03 tag (fun d => d.len = 32) (fun _ => 32) (fun d s =>
    if d.p0 < modeSlots s.aut.table.individual then
      completeData s 2 d (hollyRead s d.p0) (bit ((holly s d.p0).id != 0))
    else complete s 2 tag stBadField 0) s

/-- FIND (R227). -/
def execFind (tag : Nat) (s : State) : Ans := .next <|
  hollyCmd 0x04 tag (fun _ => true) (fun _ => 0) (fun d s =>
    complete s 2 tag stOk (match findHolly s d.p0 with
      | some i => i + 1
      | none => 0)) s

/-- LEARN_BEGIN (R217). -/
def execLearnBegin (tag : Nat) (s : State) : Ans := .next <|
  hollyChange 0x05 tag (fun d => d.p0 < 2 ^ 33) (fun d s =>
    let individual := bitAt d.p0 32
    if d.p0 % 2 ^ 32 ≤ s.aut.table.epoch then complete s 2 tag stEpochStale 0
    else if s.aut.learn.isSome || s.aut.pendingSet.isSome then complete s 2 tag stLearnState 0
    else if individual && !individualPermitted s then complete s 2 tag stModeInvalid 0
    else
      let s := { s with aut := { s.aut with learn := some ⟨individual, d.p0 % 2 ^ 32, [], false⟩ } }
      complete (auditCmd s 2 0x05 0) 2 tag stOk 0) s

/-- Identifiers of entries. -/
def entryIds (l : List Bytes) : List Nat := l.map (fun b => leAt b 0 8)

/-- An identifier stands twice. -/
def hasDuplicate : List Nat → Bool
  | [] => false
  | x :: l => l.contains x || hasDuplicate l

/-- LEARN_ENTRIES (R217): the whole chunk or nothing. -/
def execLearnEntries (tag : Nat) (data : Bytes) (s : State) : Ans := .next <|
  hollyChange 0x06 tag
    (fun d => 32 ≤ d.len && d.len ≤ 1024 && d.len % 32 = 0 && (pieces 32 (padTo d.len data)).all entryLegal) (fun d s =>
    match s.aut.learn with
    | none => complete s 2 tag stLearnState 0
    | some l =>
      let es := l.entries ++ pieces 32 (padTo d.len data)
      if hasDuplicate (entryIds es) then complete s 2 tag stDupInSet 0
      else if modeSlots l.individual < es.length then complete s 2 tag stTableFull 0
      else
        let s := { s with aut := { s.aut with learn := some { l with entries := es } } }
        complete (auditCmd s 2 0x06 0) 2 tag stOk es.length) s

/-- The set that staged entries make: in the slots of the order in which they were written. -/
def learnedSet (l : Learn) (time : Nat) : HollySet :=
  { individual := l.individual, epoch := l.epoch, slots := (l.entries.map hollyOfEntry).zipIdx.map (fun e => (e.2, e.1)),
    time := time }

/-- LEARN_COMMIT (R217): count and digest must be those of what is staged. -/
def execLearnCommit (tag : Nat) (data : Bytes) (s : State) : Ans := .next <|
  hollyChange 0x07 tag (fun d => d.len = 32 && d.p1 < 2 ^ 32) (fun d s =>
    match s.aut.learn with
    | none => complete s 2 tag stLearnState 0
    | some l =>
      if d.p0 ≠ l.entries.length || sha256 l.entries.flatten ≠ padTo 32 data then complete s 2 tag stLearnMismatch 0
      else
        let s := { s with aut := { s.aut with learn := some { l with committing := true } } }
        let set := learnedSet l d.p1
        nvRequest (markTaken s 2 tag false) (hollyItems (nextHollyGen s) set) (.learn tag set)) s

/-- LEARN_CANCEL (R217): an open learn is discarded at once; a committed one once the table in force is written above it. -/
def execLearnCancel (tag : Nat) (s : State) : Ans := .next <|
  hollyChange 0x08 tag (fun _ => true) (fun _ s =>
    if s.aut.learn.isSome then
      complete (auditCmd { s with aut := { s.aut with learn := none } } 2 0x08 0) 2 tag stOk 0
    else if s.aut.pendingSet.isSome then requestTable tag 8 HollySlot.empty s
    else complete s 2 tag stLearnState 0) s

/-- UNLOCK (R225): a slot's lock-out state, or the counter of R223. -/
def execUnlock (tag : Nat) (s : State) : Ans := .next <|
  hollyChange 0x09 tag (fun _ => true) (fun d s =>
    let items := unlockItems s d.p0
    if items.isEmpty then commitEffect s (.unlock tag d.p0)
    else nvRequest (markTaken s 2 tag false) items (.unlock tag d.p0)) s

/-- DIGEST (R227): bytes 0-19 of every slot, empty slots included. -/
def execDigest (tag : Nat) (s : State) : Ans := .next <|
  hollyCmd 0x0A tag (fun d => d.len = 32) (fun _ => 32) (fun d s =>
    completeData s 2 d
      (sha256 ((List.range (modeSlots s.aut.table.individual)).flatMap (fun i => hollyBytes (holly s i)))) (slotsUsed s)) s

/-! ### Events (R218, R221, R223, R224) -/

/-- LEARNED_SET_EFFECTIVE (R218): the RTC has reached the effective time of a committed set. While the RTC has not been set
since its loss, the set stays pending (13 R356); a write of the table that has begun runs to its end first (log 125). -/
def execLearnedSetEffective (s : State) : Ans := .next <|
  match s.aut.pendingSet with
  | some h => s.when (s.rtcSet && decide (h.time ≤ s.rtc) && !hollyWriting s) fun s => tableReplaced s h
  | none => s

/-- LOCKOUT_END (R221): the RTC has reached a slot's LOCK_END. The lock is the comparison of the two, so it has ended with the
second that did so and nothing held changes: LOCK_END keeps its value. A lock-out that is held because the RTC was lost goes
on (R224). -/
def execLockoutEnd (slot : Nat) (s : State) : Ans :=
  inputTo s (.lockoutEnd slot) <| .next s

/-- UNKNOWN_LOCKOUT_END (R223): as LOCKOUT_END, for the lock of unknown identifiers. -/
def execUnknownLockoutEnd (s : State) : Ans :=
  inputTo s .unknownLockoutEnd <| .next s

/-- LOCKOUT_CHECKPOINT (R224). -/
def execLockoutCheckpoint (s : State) : Ans :=
  inputTo s .lockoutCheckpoint <| .next <| s.when s.aut.locksChanged requestLockCheckpoint

end Sys2Proof.Machine
end

