-- ==== Sys2Proof/Machine/ProxyOps.lean ====
section
/-! DEFINITION. Doorbells, the fetch of a descriptor and the proxy links between the head and the positions in use
(12_host_interface.md R312-R322, R325-R329). -/
namespace Sys2Proof.Machine

/-! ### Who is on the other end -/

/-- Position `pos` of the segment is in use by a device downstream of this head (11 R290). -/
def isMember (s : State) (pos : Nat) : Bool := s.fab.head && pos != 0 && s.fab.members.any (fun e => e.1 == pos)

/-- A proxy link runs with this position: at the head each position in use, elsewhere position 0, which stands for the
head. -/
def linkOpen (s : State) (pos : Nat) : Bool :=
  s.running && (if s.fab.head then isMember s pos else pos = 0 && s.fab.addr.isSome)

/-! ### Acknowledgements (R326) -/

/-- How many unacknowledged frames the acknowledgement `a` covers. -/
def ackedCount (l : ProxyLink) (a : Nat) : Nat :=
  match l.unacked with
  | [] => 0
  | f :: _ => let d := (a + 65536 - f.seq) % 65536; if d ≤ l.unacked.length then d else 0

/-- The link after an acknowledgement: an advance ends LOST and the count of resends. -/
def ackAdvance (l : ProxyLink) (a : Nat) : ProxyLink :=
  let n := ackedCount l a
  if n = 0 then l else { l with unacked := l.unacked.drop n, resends := 0, lost := false }

/-- An acknowledgement releases frames, and waiting ones take their places. -/
def proxyAcked (s : State) (pos cls ack : Nat) : State :=
  proxyDrain 32 (s.setLink pos cls (ackAdvance (s.link pos cls) ack)) pos cls

/-- An ACK frame goes out. -/
def sendAck (s : State) (pos cls : Nat) : State := proxyTransmit s pos cls ⟨0, 0x0F, 0xFF, []⟩

/-- A numbered proxy frame is received: its acknowledgement is taken, it is applied if it is the one expected and discarded
otherwise, and it is acknowledged at once (R326; DESIGN CHOICE, log 91). -/
def proxyTake (pos cls seq ack : Nat) (f : State → State) (s : State) : State :=
  let s := proxyAcked s pos cls ack
  let l := s.link pos cls
  let s := if l.rxNext = seq then f (s.setLink pos cls { l with rxNext := (seq + 1) % 65536 }) else s
  sendAck s pos cls

/-- Every unacknowledged frame goes again, oldest first (R326). -/
def resendAll (s : State) (pos cls : Nat) : State :=
  (s.link pos cls).unacked.foldl (fun s f => proxyTransmit s pos cls f) s

/-- A link becomes LOST: at the head HIF_FAULT.PROXY_LOST is set and ERRVEC signalled (R326). -/
def linkLost (s : State) (pos cls : Nat) : State :=
  let t := s.setLink pos cls { s.link pos cls with lost := true }
  if t.fab.head then signalError (t.raise Reg.hifFaultProxyLost) else t

/-- The resend time passes without an advance. -/
def rtoPassed (s : State) (pos cls : Nat) : State :=
  let l := s.link pos cls
  if l.unacked.isEmpty then s
  else
    let s := if l.lost then s
      else if s.eff Reg.hifProxyRetries ≤ l.resends then linkLost s pos cls
      else s.setLink pos cls { l with resends := l.resends + 1 }
    resendAll s pos cls

/-! ### Doorbells (R318, R328) -/

/-- A doorbell of ring `n` as its own device takes it: `kind` 0 SQ_TAIL, 1 CQ_HEAD. -/
def acceptDoorbell (n kind value : Nat) (s : State) : State :=
  let r := s.ring n
  let bad := decide (2 ^ (if kind = 0 then r.sqk else r.cqk) ≤ value)
  let dis := r.phase == .disabled
  if 16 ≤ n || 2 ≤ kind then s
  else if bad || dis then
    let e := if bad then setBit r.err 0 else r.err
    s.setRing n { r with err := if dis then setBit e 1 else e }
  else if kind = 0 then s.setRing n { r with sqTail := value }
  else s.setRing n { r with cqHead := value, unread := unreadFrom r value }

/-- Is this frame the doorbell `kind` of ring `n`? -/
def isDoorbell (n kind : Nat) (f : ProxyFrame) : Bool := f.kind = 0x01 && f.ring = n && byteAt f.body 0 = kind

/-- The head passes a doorbell on; a value of the same doorbell that has not been sent is replaced (R328). -/
def doorbellOn (s : State) (pos n kind value : Nat) : State :=
  let cls := ringProxyClass n
  let body : Bytes := [BitVec.ofNat 8 kind, 0] ++ beBytes 2 value
  let l := s.link pos cls
  if l.waiting.any (isDoorbell n kind) then
    s.setLink pos cls { l with waiting := updateFirst (isDoorbell n kind) (fun f => { f with body := body }) l.waiting }
  else proxySend s pos n 0x01 body

/-- A write of BAR2: to the own ring, on to a position in use, or dropped (R314, R318). -/
def doorbellWritten (pos n kind value : Nat) (s : State) : State :=
  if s.hif.d3hot then s
  else if pos = 0 then acceptDoorbell n kind (value % 65536) s
  else if isMember s pos then (if s.running then doorbellOn s pos n kind (value % 65536) else s)
  else if s.fab.head then s.raise Reg.hifFaultNoPosition
  else s

/-- A write of BAR2 that is no aligned 32-bit one is dropped, and BAD_ACCESS set (R312). -/
def bar2Write (word : Bool) (pos n kind value : Nat) (s : State) : State :=
  if word then doorbellWritten pos n kind value s else s.raise Reg.hifFaultBadAccess

/-! ### Host reads (R325, R329) -/

/-- Bytes of the next PCIe read: within the maximum read request and the page of 4 KiB. -/
def readLength (maxRead addr len : Nat) : Nat := min len (min (max maxRead 1) (4096 - addr % 4096))

/-- The PCIe reads of `len` bytes; `fuel` bounds their number. -/
def pcieReadsFuel : Nat → State → Nat → Nat → State
  | 0, s, _, _ => s
  | fuel + 1, s, addr, len =>
    if len = 0 then s
    else
      let n := readLength s.hif.maxRead addr len
      pcieReadsFuel fuel (s.emit (.hostRead addr n)) (addr + n) (len - n)

/-- The head reads `len` bytes of host memory for a device (R329). -/
def pcieReads (s : State) (addr len : Nat) : State := pcieReadsFuel len s addr len

/-- One READ_REQ. -/
def sendReadReq (s : State) (ring : Nat) (tag : Option Nat) (addr len : Nat) : State :=
  let q := s.hif.readReq
  proxySend { s with hif := { s.hif with
      readReq := (q + 1) % 65536, readsOpen := s.hif.readsOpen ++ [⟨q, len, tag⟩] } }
    0 ring 0x02 (beBytes 2 q ++ beBytes 2 len ++ beBytes 8 addr)

/-- READ_REQs of at most 1,008 bytes for `len` bytes of host memory; `fuel` bounds their number. -/
def readHost : Nat → State → Nat → Option Nat → Nat → Nat → State
  | 0, s, _, _, _, _ => s
  | fuel + 1, s, ring, tag, addr, len =>
    if len = 0 then s
    else
      let n := min 1008 len
      readHost fuel (sendReadReq s ring tag addr n) ring tag (addr + n) (len - n)

/-- A device that is not on the host's link reads host memory through the head. -/
def hostRead (s : State) (ring : Nat) (tag : Option Nat) (addr len : Nat) : State :=
  if hostDirect s || 131072 < len then s else readHost (len / 1008 + 1) s ring tag addr len

/-- Commands that read host data, by ring and opcode (the command tables). -/
def readsHostData (n op : Nat) : Bool :=
  (match n with
   | 0 | 12 | 15 => [1]
   | 2 => [1, 6, 7]
   | 4 => [5]
   | 5 => [1, 5]
   | 6 => [6]
   | 7 => [1, 2, 3]
   | 8 => [1, 2, 3, 8]
   | 9 | 13 => [2]
   | 10 => [1, 2, 3, 6, 7]
   | _ => ([] : List Nat)).contains op

/-- The reads of a command's host data, once it is fetched; DECRYPT reads its side block as well (07 R172). -/
def readsFollow (s : State) (n : Nat) (d : Desc) : State :=
  let s := if readsHostData n d.op then hostRead s n (some d.tag) d.addr d.len else s
  if n = 7 && d.op = 2 then hostRead s n (some d.tag) d.p1 32 else s

/-! ### The fetch (R316, R319, R323) -/

/-- A descriptor as R316 lays it out. -/
def descOf (b : Bytes) : Desc :=
  { op := byteAt b 0, flags := byteAt b 1, tag := leAt b 2 2, len := leAt b 4 4, addr := leAt b 8 8, p0 := leAt b 16 8,
    p1 := leAt b 24 8 }

/-- Highest opcode of each ring's table. -/
def ringOpcodes : List Nat := [3, 6, 10, 2, 5, 6, 6, 5, 8, 6, 7, 1, 2, 5, 2, 2]

/-- The ring's table has the opcode, or every ring has it. -/
def opcodeKnown (n op : Nat) : Bool := op = 0x00 || op = 0xFF || (1 ≤ op && op ≤ nth 0 ringOpcodes n)

/-- Commands past their abort point when they are fetched: those for which the chapters give none, NOP and ABORT (R323). -/
def pastAtFetch (n op : Nat) : Bool :=
  op = 0x00 || op = 0xFF ||
  (match n with
   | 1 => [2, 3, 4, 5, 6]
   | 2 => [3, 4, 0x0A]
   | 3 | 13 => [2, 3]
   | 6 => [2, 3, 4, 5, 6]
   | 10 => [4]
   | 14 => [1, 2]
   | _ => ([] : List Nat)).contains op

/-- A further descriptor may be fetched (R319; R314 in D3hot; 15 R395 at a deep rung). -/
def mayFetch (s : State) (n : Nat) : Bool :=
  let r := s.ring n
  n < 16 && r.phase == .enabled && r.sqHead != r.sqTail && decide ((openDescs r).length < 64) &&
    decide ((openDescs r).length + r.unread < 2 ^ r.cqk) && ringServed s n && !s.hif.d3hot && s.pwr.deep.isNone

/-- The descriptor fetched is refused in the fetch itself: a reserved flag, a tag still outstanding, or an opcode that the
ring's table lacks. -/
def descRefused (s : State) (n : Nat) (d : Desc) : Bool :=
  decide (2 ≤ d.flags) || (findOut s n d.tag).isSome || !opcodeKnown n d.op

/-- A descriptor is fetched: the head advances, and the descriptor is outstanding or completes BAD_FIELD. -/
def descFetched (n : Nat) (d : Desc) (s : State) : State :=
  let r := s.ring n
  let refused := descRefused s n d
  let entry : List Outst := if refused then [] else [⟨d, false, pastAtFetch n d.op, false⟩]
  let t := s.setRing n { r with sqHead := (r.sqHead + 1) % 2 ^ r.sqk, outstanding := r.outstanding ++ entry }
  let t := hostRead t n none (r.sqBase + 32 * r.sqHead) 32
  if refused then writeCompletion t n d.tag stBadField 0 (bitAt d.flags 0) else readsFollow t n d

/-! ### BAR4 (R312, R313, R328) -/

/-- REG_WRITE frames the head holds for every position. -/
def regWritesHeld (s : State) : Nat :=
  (s.hif.links.map (fun e => ((e.2.unacked ++ e.2.waiting).filter (fun f => f.kind == 0x06)).length)).sum

/-- The register holds a ring's bases or sizes (R347). -/
def isRingPlace (off : Nat) : Bool := 0x0800 ≤ off && off < 0x0C00 && off % 64 ≤ 0x10

/-- A BAR4 write of a downstream position; the head keeps where the rings of that position stand (R322; log 92, DESIGN CHOICE). -/
def regWriteOn (s : State) (pos off value : Nat) : State :=
  if 256 ≤ regWritesHeld s then s.raise Reg.hifFaultRegDrop
  else
    let s := if isRingPlace off then
        { s with hif := { s.hif with ringRegs := tblPut 0 s.hif.ringRegs (pos * 65536 + off) value } }
      else s
    proxySend s pos 0xFF 0x06 (beBytes 2 off ++ [0, 0] ++ beBytes 4 value)

/-- A ring register of position `pos` as the head has passed it on. -/
def ringReg (s : State) (pos ring k : Nat) : Nat := tblGet 0 s.hif.ringRegs (pos * 65536 + 0x0800 + 64 * ring + k)

/-- A 64-bit ring base of position `pos`: of the submission ring at `k` 0, of the completion ring at 8. -/
def ringBase (s : State) (pos ring k : Nat) : Nat := ringReg s pos ring (k + 4) * 2 ^ 32 + ringReg s pos ring k / 4096 * 4096

/-- Sizes of the rings of position `pos`, as R347 takes what was written: SQK 4 to 16, CQK from SQK to 16. -/
def ringSizes (s : State) (pos ring : Nat) : Nat × Nat :=
  let w := ringReg s pos ring 0x10
  let sq := min 16 (max 4 (w % 32))
  (sq, min 16 (max sq (w / 256 % 32)))

/-- The access of `len` bytes is one entry of `unit` bytes of a ring of `n` entries at `base`. -/
def ringEntry (base unit n addr len : Nat) : Bool :=
  decide (len = unit) && decide (base ≤ addr) && decide (addr < base + unit * n) && (addr - base) % unit = 0

/-- A READ_REQ of a position fetches a descriptor (R322). -/
def isDescRead (s : State) (pos ring addr len : Nat) : Bool :=
  ringEntry (ringBase s pos ring 0) 32 (2 ^ (ringSizes s pos ring).1) addr len

/-- A WRITE of a position writes a completion (R322). -/
def isCompletionWrite (s : State) (pos ring addr len : Nat) : Bool :=
  ringEntry (ringBase s pos ring 8) 16 (2 ^ (ringSizes s pos ring).2) addr len

/-- A BAR4 read of a downstream position: it waits for its REG_DATA. -/
def regReadOn (s : State) (pos off : Nat) : State :=
  let q := s.hif.regReq
  proxySend { s with hif := { s.hif with regReq := (q + 1) % 65536, barReads := s.hif.barReads ++ [⟨q, pos, off⟩] } }
    pos 0xFF 0x07 (beBytes 2 q ++ beBytes 2 off)

/-- A read of BAR0 or BAR4 that R312 turns away. -/
def badRead (s : State) : State := (s.raise Reg.hifFaultBadAccess).emit (.barAnswer 0xFFFFFFFF)

/-- A write of BAR0. -/
def bar0Write (off value : Nat) (s : State) : State :=
  if off % 4 = 0 then registerWritten 0 off (value % 2 ^ 32) s else s.raise Reg.hifFaultBadAccess

/-- A read of BAR0. -/
def bar0Read (off : Nat) (s : State) : State := if off % 4 = 0 then answerRead off s else badRead s

/-- A BAR4 write to position `pos`. -/
def bar4Write (pos off value : Nat) (s : State) : State :=
  if pos = 0 then bar0Write off value s
  else if off % 4 ≠ 0 then s.raise Reg.hifFaultBadAccess
  else if !isMember s pos then s.raise Reg.hifFaultNoPosition
  else if 0xE000 ≤ off || !s.running then s
  else regWriteOn s pos off (value % 2 ^ 32)

/-- A BAR4 read of position `pos`. -/
def bar4Read (pos off : Nat) (s : State) : State :=
  if pos = 0 then bar0Read off s
  else if off % 4 ≠ 0 then badRead s
  else if !isMember s pos then (s.raise Reg.hifFaultNoPosition).emit (.barAnswer 0xFFFFFFFF)
  else if 0xE000 ≤ off || !s.running then s.emit (.barAnswer 0)
  else regReadOn s pos off

/-- A BAR4 read is answered and waits no more. -/
def readAnswered (s : State) (req value : Nat) : State :=
  ({ s with hif := { s.hif with barReads := removeFirst (fun r => r.req == req) s.hif.barReads } }).emit (.barAnswer value)

/-! ### The PCIe link (R314, R322) -/

/-- A ring after a PCIe reset: DISABLED, what is past its abort point cut off to run to its end, all else dropped. -/
def ringReset (s : State) (n : Nat) : State :=
  let s := ((s.ring n).outstanding.filter (fun o => !o.past)).foldl (fun s o => cancelWork n o.desc.tag s) s
  let r := s.ring n
  s.setRing n { r with
    phase := .disabled, coalPending := 0,
    outstanding := (r.outstanding.filter Outst.past).map (fun o => { o with orphan := true }) }

/-- A fetch or a completion write fails: the ring is in ERROR (R322); bit 2 FETCH, bit 3 WRITE of RING_ERR. -/
def ringFails (n errBit : Nat) (s : State) : State :=
  let r := s.ring n
  let t := s.setRing n { r with phase := .error, err := setBit r.err errBit }
  if hostDirect t then signalError t else t

/-- A read or write of a command's host buffer fails: the command ends with DMA_ERROR. -/
def bufferFails (n tag : Nat) (s : State) : State :=
  match findOut s n tag with
  | some o => complete (if o.past then s else cancelWork n tag s) n tag stDmaError 0
  | none => s

/-- A READ_DATA that failed ends what its request was for: the ring, for a descriptor, or the command whose buffer it is. -/
def readFails (failed : Bool) (n : Nat) (e : HostRead) (s : State) : State :=
  if failed then
    match e.tag with
    | none => if (s.ring n).phase == .enabled then ringFails n 2 s else s
    | some tag => bufferFails n tag s
  else s

/-- A host write or a vector that waited in D3hot goes. -/
def unstall (s : State) (e : Bool × Nat × Bytes) : State :=
  if e.1 then s.emit (.hostWrite e.2.1 e.2.2) else signalHead s e.2.1

end Sys2Proof.Machine
end

