-- ==== Sys2Proof/Machine/Host.lean ====
section
/-! DEFINITION. The meanings of the host's accesses, the rings' own events, proxy frames and the PCIe link
(12_host_interface.md R311-R329, R346, R347; 00 R5; 01 R21; 05 R140). -/
namespace Sys2Proof.Machine

/-! ### Set-up registers -/

/-- REGISTER_WRITE (R5): a host write of 32 bits, whatever path it took to this device. -/
def execRegisterWrite (off value : Nat) (s : State) : Ans := .next <| bar0Write off value s

/-- PROFILE_WRITE (R21): a write of SYS_PROFILE. -/
def execProfileWrite (value : Nat) (s : State) : Ans := .next <| registerWritten 0 0x0040 value s

/-- UWB_TIME_LO_READ (R140): a read answers the low word and latches the high one. -/
def execUwbTimeLoRead (s : State) : Ans := .next <| answerRead (Reg.uwbTimeLo.key / 32) s

/-- BAD_ACCESS_READ (R312): a read that R312 answers with a constant. An aligned 32-bit read of BAR2 returns zero; any other
read that is not an aligned 32-bit one returns all ones and sets BAD_ACCESS. -/
def execBadAccessRead (s : State) (bar2Word : Bool := false) : Ans := .next <|
  if bar2Word then s.emit (.barAnswer 0) else badRead s

/-- BAR4_ACCESS (R313): offset `off` of the window of position `pos`. -/
def execBar4Access (pos off : Nat) (write : Bool) (value : Nat) (s : State) : Ans :=
  inputTo s (.bar4Access pos off write value) <| .next <|
  s.when (pos < 64 && off < 0x10000) fun s => if write then bar4Write pos off value s else bar4Read pos off s

/-! ### Doorbells and rings -/

/-- SQ_TAIL (R318): `word` says that the write of BAR2 is an aligned 32-bit one (R312). -/
def execSqTail (pos ring value : Nat) (s : State) (word : Bool := true) : Ans :=
  inputTo s (.sqTail pos ring value word) <| .next <|
  s.when (pos < 64 && ring < 16) (bar2Write word pos ring 0 value)

/-- CQ_HEAD (R318): `word` says that the write of BAR2 is an aligned 32-bit one (R312). -/
def execCqHead (pos ring value : Nat) (s : State) (word : Bool := true) : Ans :=
  inputTo s (.cqHead pos ring value word) <| .next <|
  s.when (pos < 64 && ring < 16) (bar2Write word pos ring 1 value)

/-- DESCRIPTOR_FETCH (R319): `bytes` are the 32 that host memory holds at the submission head. -/
def execDescriptorFetch (ring : Nat) (bytes : Bytes) (s : State) (nvwp : Option Bool := none) : Ans :=
  inputTo s (.descriptorFetch ring bytes nvwp) <| .next <|
  (s.sampleNvwp nvwp).when (mayFetch s ring && bytes.length == 32) (descFetched ring (descOf bytes))

/-- NOP (R316). -/
def execNop (ring tag : Nat) (s : State) : Ans :=
  inputTo s (.nop ring tag) <| .next <|
  ringCmd ring 0x00 tag (fun _ t => complete t ring tag stOk 0) s

/-- ABORT (R323): the target completes ABORTED first, and the ABORT OK with result 1, or the ABORT completes ABORT_LATE. -/
def execAbort (ring tag : Nat) (s : State) : Ans :=
  inputTo s (.abort ring tag) <| .next <|
  ringCmd ring 0xFF tag (fun d t =>
    let (t, won) := abortTag ring (d.p0 % 65536) t
    if won then complete t ring tag stOk 1 else complete t ring tag stAbortLate 0) s

/-- PCIE_DMA_ERROR (R322): `kind` 0 a descriptor fetch, 1 a completion write, 2 the host buffer of the command with this tag. -/
def execPcieDmaError (ring kind tag : Nat) (s : State) : Ans := .next <|
  s.when (ring < 16) fun s =>
    match kind with
    | 0 => s.when ((s.ring ring).phase == .enabled) (ringFails ring 2)
    | 1 => s.when ((s.ring ring).phase == .enabled || (s.ring ring).phase == .draining) (ringFails ring 3)
    | 2 => bufferFails ring tag s
    | _ => s

/-- INTERRUPT_COALESCE_EXPIRY (R321). -/
def execInterruptCoalesceExpiry (ring : Nat) (s : State) : Ans :=
  inputTo s (.interruptCoalesceExpiry ring) <| .next <|
  s.when (ring < 16 && 0 < (s.ring ring).coalPending) fun s =>
    signal (s.setRing ring { s.ring ring with coalPending := 0 }) ring (ringVector s ring)

/-- RING_ENABLE (R347). -/
def execRingEnable (ring : Nat) (s : State) : Ans := .next <|
  s.when (ring < 16 && answersIn s.mode 0x0800) (ringEnables ring)

/-- RING_DISABLE (R347). -/
def execRingDisable (ring : Nat) (s : State) : Ans := .next <|
  s.when (ring < 16 && answersIn s.mode 0x0800) (ringDisables ring)

/-- RING_DRAINED (R347). -/
def execRingDrained (ring : Nat) (s : State) : Ans := .next <| s.when (ring < 16) (drained ring)

/-! ### Proxy frames (R325-R329) -/

/-- DOORBELL at a downstream device. -/
def execDoorbell (seq ack ring kind value : Nat) (s : State) : Ans :=
  inputTo s (.doorbell seq ack ring kind value) <| .next <|
  s.when (!s.fab.head && linkOpen s 0) (proxyTake 0 (ringProxyClass ring) seq ack (acceptDoorbell ring kind value))

/-- READ_REQ at the head: host memory is read, in reads within the maximum read request and 4 KiB, and READ_DATA sent. A
failed read of a descriptor signals ERRVEC (R322). In D3hot the head makes no DMA, and the request waits to be sent again. -/
def execReadReq (pos seq ack ring req len addr : Nat) (failed : Bool) (data : Bytes) (s : State) : Ans :=
  inputTo s (.readReq pos seq ack ring req len addr failed data) <| .next <|
  s.when (s.fab.head && linkOpen s pos && !s.hif.d3hot) (proxyTake pos (ringProxyClass ring) seq ack fun s =>
    if 1 ≤ len && len ≤ 1008 then
      let s := pcieReads s addr len
      let s := if failed && isDescRead s pos ring addr len then signalError s else s
      proxySend s pos ring 0x03 (beBytes 2 req ++ [BitVec.ofNat 8 (bit failed), 0] ++
        (if failed then [] else padTo len data))
    else s)

/-- READ_DATA at a downstream device: the read is closed and its bytes delivered; a failed one ends its ring or its command
(R322). -/
def execReadData (seq ack ring req : Nat) (failed : Bool) (data : Bytes) (s : State) : Ans :=
  inputTo s (.readData seq ack ring req failed data) <| .next <|
  s.when (!s.fab.head && linkOpen s 0) (proxyTake 0 (ringProxyClass ring) seq ack fun s =>
    match s.hif.readsOpen.find? (fun e => e.req == req) with
    | some e =>
      readFails failed ring e { s with hif := { s.hif with
        readsOpen := removeFirst (fun e => e.req == req) s.hif.readsOpen,
        readData := (req, failed, data) :: s.hif.readData.take 63 } }
    | none => s)

/-- WRITE at the head: host memory is written. A completion that fails signals ERRVEC (R322). -/
def execProxyWrite (pos seq ack ring addr : Nat) (data : Bytes) (s : State) (failed : Bool := false) : Ans :=
  inputTo s (.proxyWrite pos seq ack ring addr data failed) <| .next <|
  s.when (s.fab.head && linkOpen s pos) (proxyTake pos (ringProxyClass ring) seq ack fun s =>
    if failed then (if isCompletionWrite s pos ring addr data.length then signalError s else s) else dma s ring addr data)

/-- INTERRUPT at the head. -/
def execInterrupt (pos seq ack ring vector : Nat) (s : State) : Ans :=
  inputTo s (.interrupt pos seq ack ring vector) <| .next <|
  s.when (s.fab.head && linkOpen s pos && vector < 64) (proxyTake pos (ringProxyClass ring) seq ack fun s =>
    signal s ring vector)

/-- REG_WRITE at a downstream device. -/
def execRegWrite (seq ack off value : Nat) (s : State) : Ans :=
  inputTo s (.regWrite seq ack off value) <| .next <|
  s.when (!s.fab.head && linkOpen s 0) (proxyTake 0 1 seq ack (registerWritten 1 off (value % 2 ^ 32)))

/-- REG_READ at a downstream device, which answers REG_DATA. -/
def execRegRead (seq ack req off : Nat) (s : State) : Ans :=
  inputTo s (.regRead seq ack req off) <| .next <|
  s.when (!s.fab.head && linkOpen s 0) (proxyTake 0 1 seq ack fun s =>
    let (t, v) := registerRead off s
    proxySend t 0 0xFF 0x08 (beBytes 2 req ++ [0, 0] ++ beBytes 4 v))

/-- REG_DATA at the head: the waiting BAR4 read is answered; one that came too late is discarded. -/
def execRegData (pos seq ack req value : Nat) (s : State) : Ans :=
  inputTo s (.regData pos seq ack req value) <| .next <|
  s.when (s.fab.head && linkOpen s pos) (proxyTake pos 1 seq ack fun s =>
    if s.hif.barReads.any (fun r => r.req == req && r.pos == pos) then readAnswered s req (value % 2 ^ 32) else s)

/-- PROXY_ACK: an acknowledgement on class `cls` of the link with `pos`. -/
def execProxyAck (pos cls ack : Nat) (s : State) : Ans :=
  inputTo s (.proxyAck pos cls ack) <| .next <|
  s.when (linkOpen s pos && cls < 2) fun s => proxyAcked s pos cls ack

/-- PROXY_RTO_EXPIRY: unacknowledged frames go again; after HIF_PROXY.RETRIES resends the link is LOST. -/
def execProxyRtoExpiry (pos cls : Nat) (s : State) : Ans :=
  inputTo s (.proxyRtoExpiry pos cls) <| .next <|
  s.when (linkOpen s pos && cls < 2) fun s => rtoPassed s pos cls

/-- REGWAIT_EXPIRY: the BAR4 read is answered with all ones. -/
def execRegwaitExpiry (req : Nat) (s : State) : Ans :=
  inputTo s (.regwaitExpiry req) <| .next <|
  s.when (s.hif.barReads.any (fun r => r.req == req)) fun s =>
    readAnswered (s.raise Reg.hifFaultRegTimeout) req 0xFFFFFFFF

/-! ### The PCIe link -/

/-- PCIE_RESET (R314): every ring is DISABLED, the proxy links are reset, and HIF_SUBSYS is presented anew. -/
def execPcieReset (s : State) : Ans := .next <|
  let s := (List.range 16).foldl ringReset s
  presentFunction { s with hif := { s.hif with
    d3hot := false, subsys := heldWord s 0x0430, maxRead := 512, stalled := [], msixTable := [], pba := 0, links := [],
    barReads := [], readsOpen := [], readData := [] } }

/-- PCIE_LINK_UP (R311, R288): LINK_UP reads 1. A running device that is not the head joins the ring as HEAD_CONFLICT says
where a head has given it its address or answered ADDR_FULL, and becomes the head otherwise (DEDUCED, log 93). The host sets the maximum read
request of the function that the head then presents. -/
def execPcieLinkUp (gen2 : Bool) (s : State) (maxRead : Nat := 512) : Ans := .next <|
  s.when (s.mode != .seed) fun s =>
    let s := (s.setStat Reg.hifStatusLinkUp 1).setStat Reg.hifStatusGen2 (bit gen2)
    let s := if [128, 256, 512].contains maxRead then { s with hif := { s.hif with maxRead := maxRead } } else s
    if !s.running || s.fab.head then presentFunction s
    else if s.fab.addr.isSome || s.fab.join == .addrFull then
      ({ s with fab := { s.fab with join := .headConflict } }).raise Reg.fabFaultHeadConflict
    else judgeHead s

/-- PCIE_LINK_DOWN (R394). -/
def execPcieLinkDown (s : State) : Ans := .next <| (s.setStat Reg.hifStatusLinkUp 0).setStat Reg.hifStatusGen2 0

/-- PCIE_POWER_STATE (R314): in D3hot no DMA is made; what waited for D0 goes in its order. -/
def execPciePowerState (d3hot : Bool) (s : State) : Ans := .next <|
  s.when (s.stat Reg.hifStatusLinkUp != 0) fun s =>
    if d3hot then { s with hif := { s.hif with d3hot := true } }
    else s.hif.stalled.foldl unstall { s with hif := { s.hif with d3hot := false, stalled := [] } }

end Sys2Proof.Machine
end

