-- ==== Sys2Proof/Machine/Keys.lean ====
section
/-! DEFINITION. The meanings of ring 8 and of the life cycle: loads, ERASE and NARROW, ATTEST, LC_NONCE and LC_ADVANCE, and the
test access port (07_cipher_and_keys.md R182-R195, R443, R444). -/
namespace Sys2Proof.Machine

/-! ### Forms (R190, R191, R444) -/

/-- UNWRAP_FAIL. -/
def stUnwrapFail : Nat := 0x48
/-- BAD_ATTR. -/
def stBadAttr : Nat := 0x49

/-- The attribute word a load carries. -/
def loadAttr (d : Desc) : Nat := bitField d.p1 0 32
/-- The master mask a load carries. -/
def loadMaster (d : Desc) : Nat := bitField d.p1 32 18
/-- The slot a command names. -/
def keyTarget (d : Desc) : Nat := bitField d.p0 0 6
/-- The slot a LOAD_WRAPPED or DERIVE takes its key from. -/
def keySource (d : Desc) : Nat := bitField d.p0 8 6

/-- Parameter 0 names one slot, or two, and nothing else. -/
def oneSlot (d : Desc) : Bool := d.p0 / 64 = 0
/-- See oneSlot. -/
def twoSlots (d : Desc) : Bool := bitField d.p0 6 2 = 0 && d.p0 / 16384 = 0

/-- R184: the role and KEK setting that slot `n` may carry. -/
def roleAllowed (n attr : Nat) : Bool :=
  let role := attrRole attr
  match n with
  | 0 => role = 1 && !attrKek attr
  | 1 => role = 2 && !attrKek attr
  | 2 => role = 3 && !attrKek attr
  | 3 => role = roleMaster + 3 && attrKek attr && bitAt attr useDec
  | _ => role = 0 || role = roleMaster || role = roleFabric || role = roleReceipt

/-- An attribute word without reserved values that the slot may carry. -/
def attrForm (d : Desc) : Bool :=
  let a := loadAttr d
  attrSize a != 3 && attrRole a < 8 && a / 2 ^ 17 = 0 && roleAllowed (keyTarget d) a

/-- The role is one that a single slot may hold, and another slot holds it (R184). -/
def roleTaken (s : State) (n attr : Nat) : Bool :=
  let role := attrRole attr
  4 ≤ role && role ≤ 6 && (match findRole s role with
    | some m => m != n
    | none => false)

/-- The target may be loaded (R190): empty, slots 1 and 3 in BLANK only, slots 0 and 2 never. -/
def loadOpen (s : State) (n : Nat) : Bool :=
  !attrOcc (s.slot n).attr && n != 0 && n != 2 && (4 ≤ n || s.cip.lifeCycle == .blank)

/-! ### Records of a slot (R182; 13 R354) -/

/-- The records of a slot's new content, sealed under slot 2. A load with the RECEIPT role is kept with the receipt state
(10 R278). -/
def slotItems (s : State) (op n : Nat) (k : KeySlot) : List RecItem × State :=
  let (b, t) := if attrOcc k.attr then sealSlot s k else ([], s)
  (critPair (slotRecKey n) (!attrOcc k.attr) (.sealed b) ++
    (if op < 4 && attrRole k.attr = roleReceipt then
      [dataItem .state 0x0141 (.receiptState s.mtr.rcptAck s.mtr.epoch s.mtr.rcptNext true)] else []), t)

/-- A slot's new content is requested of SE12, and taken when its records stand. -/
def requestSlot (tag op n : Nat) (k : KeySlot) (s : State) : State :=
  let (items, s) := slotItems s op n k
  nvRequest s items (.slot tag op n k 0)

/-- A load: the attribute word is checked, a forbidden load is refused silently, then NVWP, then the single-slot roles; a job
runs under the slot that `source` names, and `value` gives the 32-byte slot value, or none where an unwrap fails. -/
def loadSlot (op tag : Nat) (open_ : Desc → State → Bool) (source : Desc → Option Nat) (value : Desc → State → Option Bytes)
    (d : Desc) (s : State) : State :=
  let n := keyTarget d
  if !attrForm d then complete s 8 tag stBadAttr 0
  else if !(loadOpen s n && open_ d s) then refuseSilent s 8 d 0
  else changeCmd 8 d true (fun s =>
    if roleTaken s n (loadAttr d) then complete s 8 tag stBadAttr 0
    else
      let s := match source d with
        | some k => useSlot s k
        | none => s
      match value d s with
      | none => complete s 8 tag stUnwrapFail 0
      | some v =>
        let (k, s) := maskedSlot s (beNat v) (loadAttr d) (loadMaster d)
        requestSlot tag op n k (markTaken s 8 tag false)) s

/-! ### Ring 8 (R190) -/

/-- LOAD_CLEAR: in BLANK and PROVISIONED. -/
def execLoadClear (tag : Nat) (data : Bytes) (s : State) : Ans := .next <|
  ringCmdIf 8 0x01 tag (fun d => d.len = 32 && oneSlot d) (loadSlot 1 tag
    (fun _ s => s.cip.lifeCycle == .blank || s.cip.lifeCycle == .provisioned)
    (fun _ => none)
    (fun _ _ => some (padTo 32 data))) s

/-- LOAD_WRAPPED: unwrapped under a KEK slot. -/
def execLoadWrapped (tag : Nat) (data : Bytes) (s : State) : Ans := .next <|
  ringCmdIf 8 0x02 tag (fun d => d.len = 40 && twoSlots d) (loadSlot 2 tag
    (fun d s => slotUnwraps s (keySource d) reqHost false)
    (fun d => some (keySource d))
    (fun d s => keyUnwrap (s.slot (keySource d)).key (padTo 40 data))) s

/-- Bits of a key of an attribute word. -/
def attrBits (a : Nat) : Nat := 128 + 64 * attrSize a

/-- DERIVE: the KDF of R190 under a DERIVE slot. -/
def execDerive (tag : Nat) (data : Bytes) (s : State) : Ans := .next <|
  ringCmdIf 8 0x03 tag (fun d => d.len ≤ 64 && twoSlots d) (loadSlot 3 tag
    (fun d s => slotPermits s (keySource d) reqHost false useDerive)
    (fun d => some (keySource d))
    (fun d s => some (padTo 32 (kdf (s.slot (keySource d)).key 0x4B (padTo d.len data) (attrBits (loadAttr d)))))) s

/-- ERASE. -/
def execErase (tag : Nat) (s : State) : Ans := .next <|
  ringCmdIf 8 0x04 tag oneSlot (fun d s =>
    let n := keyTarget d
    if !hostSees s n then refuseSilent s 8 d 0
    else changeCmd 8 d true (fun s => requestSlot tag 4 n KeySlot.empty (markTaken s 8 tag false)) s) s

/-- The words of a slot narrowed by parameter 1: USAGE, LCMASK and the master mask only lose bits, and WORLD only turns secure
(R190 NARROW). -/
def narrowed (k : KeySlot) (d : Desc) : KeySlot :=
  let a := loadAttr d
  let w := setBitField k.attr 0 3 (bitField k.attr 0 3 &&& bitField a 0 3)
  let w := setBitField w 12 5 (attrLcmask w &&& attrLcmask a)
  { k with attr := if bitAt a 6 then w else setBit w 6, master := k.master &&& loadMaster d }

/-- NARROW. -/
def execNarrow (tag : Nat) (s : State) : Ans := .next <|
  ringCmdIf 8 0x05 tag oneSlot (fun d s =>
    let n := keyTarget d
    if !hostSees s n then refuseSilent s 8 d 0
    else changeCmd 8 d true (fun s =>
      requestSlot tag 5 n (narrowed (s.slot n) d) (markTaken s 8 tag false)) s) s

/-- Debug access is open (R194). -/
def debugOpen (s : State) : Bool := s.cip.lifeCycle == .blank || s.cip.lifeCycle == .returned

/-- Bytes 0-99 of the attestation answer (R195). -/
def attestBody (s : State) (challenge : Bytes) : Bytes :=
  [0x07, 0x01, BitVec.ofNat 8 s.cip.lifeCycle.code, BitVec.ofNat 8 (bit s.nvwp + 2 * bit (debugOpen s))] ++ challenge ++
    leBytes 8 s.cip.deviceId ++ leBytes 4 (leAt (loaderHeader s s.upd.loaderRan) 16 4) ++
    leBytes 4 (leAt (runningHeader s) 8 4) ++ leBytes 4 (s.upd.runningMicro.getD (leAt (runningHeader s) 12 4)) ++
    configDigest s ++ ([s.mtr.imp, s.mtr.exp, s.mtr.chIn, s.mtr.chOut].flatMap (leBytes 6)) ++ leBytes 4 s.rtc

/-- ATTEST (R195). -/
def execAttest (tag : Nat) (s : State) : Ans := .next <|
  ringCmdIf 8 0x06 tag (fun d => d.len = 116) (fun d s =>
    if !attestUsable s then refuseSilent s 8 d 116
    else
      let b := attestBody s (leBytes 8 d.p0 ++ leBytes 8 d.p1)
      let (m, s) := slotCmac s 1 (0x41#8 :: b)
      completeData s 8 d (b ++ m) 0) s

/-! ### Life cycle (R192, R193) -/

/-- LC_NONCE (R193). -/
def execLcNonce (tag : Nat) (s : State) : Ans := .next <|
  ringCmdIf 8 0x07 tag (fun d => d.len = 16) (fun d s =>
    let (v, s) := s.draw
    completeData { s with cip := { s.cip with lcNonce := some (v, s.now) } } 8 d (beBytes 16 v) 0) s

/-- LC_NONCE_EXPIRY (R193): 60 s after its issue the nonce is no longer valid. -/
def execLcNonceExpiry (s : State) : Ans := .next <|
  s.when s.cip.lcNonce.isSome fun s => { s with cip := { s.cip with lcNonce := none } }

/-- The rows of R192: the transition needs an authorisation, or none; no row at all. -/
def lcRow (s : State) (target : Nat) : Option Bool :=
  match s.cip.lifeCycle, target with
  | .blank, 1 => if attrOcc (s.slot 1).attr && attrOcc (s.slot 3).attr then some false else none
  | .blank, 4 => some false
  | .provisioned, 2 => some true
  | .provisioned, 3 | .provisioned, 4 | .field, 3 | .field, 4 | .returned, 4 => some true
  | _, _ => none

/-- The authorisation of R193 under the nonce held. -/
def lcAuthorised (s : State) (target : Nat) (mac : Bytes) : Bool :=
  match s.cip.lcNonce with
  | some (v, _) => attestUsable s && authMac s 0x4C (BitVec.ofNat 8 target :: beBytes 16 v) == mac
  | none => false

/-- LC_ADVANCE (R192): a transition that matches no row, or lacks its authorisation, is refused silently. One that wipes slots
ends the sessions first, and waits for their receipts. -/
def execLcAdvance (tag : Nat) (data : Bytes) (s : State) : Ans := .next <|
  ringCmdIf 8 0x08 tag (fun d => d.len = 16 && d.p0 < 8) (fun d s =>
    match lcRow s d.p0 with
    | none => refuseSilent s 8 d 0
    | some auth =>
      let good := !auth || lcAuthorised s d.p0 (padTo 16 data)
      let spend (s : State) : State :=
        if auth then
          let s := authJob s.cip.lcNonce.isSome s
          { s with cip := { s.cip with lcNonce := none } }
        else s
      if !good then refuseSilent (spend s) 8 d 0
      else if !lcWipes d.p0 then complete (lifeCycleTakes (spend s) d.p0) 8 tag stOk 0
      else changeCmd 8 d true (fun s =>
        let s := markTaken (spend s) 8 tag false
        lcProceeds { s with cip := { s.cip with lcWaits := some (tag, d.p0, false) } }) s) s

/-- TAP_INSTRUCTION (R194): a supported instruction that the life cycle allows is selected, else BYPASS. -/
def execTapInstruction (instr : Nat) (s : State) : Ans := .next { s with tap := tapAllowed s.cip.lifeCycle instr }

end Sys2Proof.Machine
end

