-- ==== Sys2Proof/Machine/Metering.lean ====
section
/-! DEFINITION. The meanings of the metrology block, of the receipts and of ring 6 (10_energy_metrology.md R257-R282). -/
namespace Sys2Proof.Machine

/-! ### Calibration (R259, R260, R262) -/

/-- The saturation value. -/
def satCode : Int := 8388607

/-- y[n] of R262 from the decimator result of channel `n`. -/
def calibrated (s : State) (n : Nat) (x : Int) : Int :=
  let y := ((x - signed 24 (s.eff (Reg.mtrOff n))) * (s.eff (Reg.mtrGain n) : Int)) / 2 ^ 22
  max (-satCode) (min satCode y)

/-- A channel's bookkeeping after one result (R259, R260): the result counts once none is left to discard. -/
def channelStep (c : Channel) (y : Int) (still : Bool) : Channel :=
  let run := if c.discard = 0 && (y = satCode || y = -satCode) then min (c.satRun + 1) 16 else 0
  { c with
    usable := c.usable && !still && run < 16, discard := c.discard - 1, satRun := run, still := still, prev := y }

/-- Replace a channel. -/
def State.setMchan (s : State) (n : Nat) (c : Channel) : State :=
  { s with mtr := { s.mtr with chans := tblPut Channel.reset s.mtr.chans n c } }

/-- One result of channel `n`; the start of unusability is reported. -/
def channelResult (s : State) (n : Nat) (y : Int) (still : Bool) : State :=
  let c := s.mchan n
  let c' := channelStep c y still
  let t := s.setMchan n c'
  if c.usable && !c'.usable then raiseEvent t Reg.mtrFaultChanLost blkMtr [BitVec.ofNat 8 n] else t

/-- (1 − f) × y[n] + f × y[n − 1] for f = a / 128. -/
def delayed (a : Nat) (y prev : Int) : Int := ((128 - a : Int) * y + a * prev) / 128

/-- Current in mA and voltage in mV of a pair: 0 pair A on MDAT0 and MDAT2, 1 pair B on MDAT1 and MDAT3. `old` is the state
before this result. -/
def pairSample (old : State) (ys : List Int) (k : Nat) : Int × Int :=
  let ph := signed 8 (old.eff (if k = 0 then Reg.mtrPhaseA else Reg.mtrPhaseB))
  let i := nth 0 ys k
  let v := nth 0 ys (k + 2)
  let i := if ph < 0 then delayed ph.natAbs i (old.mchan k).prev else i
  let v := if 0 < ph then delayed ph.natAbs v (old.mchan (k + 2)).prev else v
  (if old.on Reg.mtrCtrlInvi then -i else i, v)

/-- Both channels of a pair are usable (R260). -/
def pairIsUsable (s : State) (k : Nat) : Bool := (s.mchan k).usable && (s.mchan (k + 2)).usable

/-- Neither result of a pair is one that R259 discards. -/
def pairKept (old : State) (k : Nat) : Bool := (old.mchan k).discard = 0 && (old.mchan (k + 2)).discard = 0

/-! ### Energy (R264-R266) -/

/-- Length of one sample in cycles of the 160 MHz PLL. -/
def sampleCycles (s : State) : Nat := 64 * 2 ^ s.eff Reg.mtrDecOsr * s.eff Reg.mtrClkDiv

/-- 1 mWh in µW × PLL cycles. -/
def quantumE : Nat := 576000000000000
/-- 1 mAh in mA × PLL cycles. -/
def quantumC : Nat := 576000000000

/-- A counter that holds at 2^48 − 1 (R265). -/
def life48 (c k : Nat) : Nat := min (c + k) (2 ^ 48 - 1)

/-- Quanta that an accumulator gives, and its residue. -/
def quanta (acc q : Nat) : Nat × Nat := (acc / q, acc % q)

/-- Credit whole quanta to the lifetime counters and to the bearer; `b` marks energy of which some was counted from pair B. -/
def creditQuanta (s : State) (ki ke kin kout : Nat) (b : Bool) : State :=
  if ki + ke + kin + kout = 0 then s
  else
    let s := { s with mtr := { s.mtr with
      imp := life48 s.mtr.imp ki, exp := life48 s.mtr.exp ke, chIn := life48 s.mtr.chIn kin,
      chOut := life48 s.mtr.chOut kout, changed := true } }
    match bearer s with
    | none => s
    | some i =>
      let e := s.sess i
      s.setSess i { e with
        imp := life48 e.imp ki, exp := life48 e.exp ke, chIn := life48 e.chIn kin, chOut := life48 e.chOut kout,
        flags := if b then setBit e.flags 1 else e.flags }

/-- Accumulators 0 import, 1 export, 2 charge in, 3 charge out whose residue holds energy of pair B, after a sample of pair B or
of pair A: whole quanta take the older energy, and leave that of this sample (DEDUCED, log 126). -/
def residueAfter (before : Nat) (b : Bool) (added given : List Nat) : Nat :=
  [0, 1, 2, 3].foldl (fun m n =>
    let held := if 0 < nth 0 given n then b && 0 < nth 0 added n else bitAt before n || (b && 0 < nth 0 added n)
    if held then setBit m n else m) 0

/-- A quantum given holds energy of pair B: of this sample, or of the residue it completes. -/
def givenFromB (before : Nat) (b : Bool) (given : List Nat) : Bool :=
  [0, 1, 2, 3].any (fun n => decide (0 < nth 0 given n) && (b || bitAt before n))

/-- Accumulate one sample of the source pair (R264). -/
def accumulate (s : State) (cur volt : Int) (p : Nat) (b : Bool) : State :=
  let pw := cur * volt
  let addI := if 0 ≤ pw then pw.natAbs * p else 0
  let addE := if 0 ≤ pw then 0 else pw.natAbs * p
  let addO := if 0 ≤ cur then cur.natAbs * p else 0
  let addN := if 0 ≤ cur then 0 else cur.natAbs * p
  let (ki, ai) := quanta (s.mtr.accImp + addI) quantumE
  let (ke, ae) := quanta (s.mtr.accExp + addE) quantumE
  let (ko, ao) := quanta (s.mtr.accOut + addO) quantumC
  let (kn, an) := quanta (s.mtr.accIn + addN) quantumC
  let before := s.mtr.residueB
  let s := { s with mtr := { s.mtr with
    accImp := ai, accExp := ae, accOut := ao, accIn := an,
    residueB := residueAfter before b [addI, addE, addN, addO] [ki, ke, kn, ko] } }
  creditQuanta s ki ke kn ko (givenFromB before b [ki, ke, kn, ko])

/-- A result without a source: the time is unmetered, also within the sessions of the metered group (R264, R272). -/
def unmetered (s : State) (p : Nat) : State :=
  let s := { s with mtr := { s.mtr with gap := s.mtr.gap + p, changed := true } }
  entries.foldl (fun s i =>
    if metered s (s.sess i) then s.setSess i { s.sess i with gap := (s.sess i).gap + p } else s) s

/-- Numbers of the live sessions. -/
def liveNumbers (s : State) : List Nat := (entries.filter (fun i => (s.sess i).live)).map (fun i => (s.sess i).number)

/-- Take a result into the cross-check window (R268); a discarded result of a pair is in none of its sums (R259). -/
def windowAdd (s : State) (a b : Int × Int) (src : Nat) (kept bad : Bool) : State :=
  let w := { s.mtr.window with
    bad := s.mtr.window.bad || bad, sessions := (s.mtr.window.sessions ++ liveNumbers s).eraseDups }
  let c := if src = 2 then (0, 0) else if src = 1 then b else a
  { s with mtr := { s.mtr with window :=
    if kept then { w with
      count := w.count + 1, powA := w.powA + a.1 * a.2, powB := w.powB + b.1 * b.2, curA := w.curA + a.1.natAbs,
      curB := w.curB + b.1.natAbs, curSrc := w.curSrc + c.1, powSrc := w.powSrc + c.1 * c.2 }
    else w } }

/-- Metrology runs: MCLK runs at LEAF and above (R257), in service and in FAILED. -/
def meterRuns (s : State) : Bool := (s.mode == .running || s.mode == .failed) && decide (rung s ≤ 1)

/-- The calibrated results of the four channels. -/
def meterCodes (s : State) (codes : List Int) : List Int := [0, 1, 2, 3].map (fun n => calibrated s n (nth 0 codes n))

/-- The block of the hold sample after a result (09 R246): its sum and count. A discarded result begins the block anew, so that a
mean is one of results that count. A result of an unusable pair counts without a current: its sample is invalid (DESIGN CHOICE,
log 154). -/
def holdBlockAfter (old s : State) (ys : List Int) : Nat × Nat :=
  let (sum, n) := s.rel.holdBlock
  if !pairIsUsable s 0 then (sum, n + 1)
  else if pairKept old 0 then (sum + (pairSample old ys 0).1.natAbs, n + 1)
  else (0, 0)

/-- The channels take their results, and pair A's current goes into the block of the hold sample. -/
def meterChannels (old : State) (ys : List Int) (still : List Bool) : State :=
  let s := [0, 1, 2, 3].foldl (fun s n => channelResult s n (nth 0 ys n) (nth false still n)) old
  { s with rel := { s.rel with holdBlock := holdBlockAfter old s ys } }

/-- The result counts for this source: 0 pair A, 1 pair B, 2 none (R264, R266), and goes into the window (R268). A discarded
result of the source counts for nothing (R259). -/
def meterTake (s : State) (src : Nat) (a b : Int × Int) (counts kept bad : Bool) : State :=
  let p := sampleCycles s
  let s := { s with mtr := { s.mtr with source := src, delivered := true } }
  let s := match src with
    | 0 => if counts then accumulate s a.1 a.2 p false else s
    | 1 => if counts then accumulate s b.1 b.2 p true else s
    | _ => unmetered s p
  windowAdd s a b src kept bad

/-- The source of a result (R264). -/
def meterSource (s : State) : Nat :=
  if pairIsUsable s 0 then 0 else if s.on Reg.mtrCtrlXchkEn && pairIsUsable s 1 then 1 else 2

/-- DECIMATOR_RESULT (R259-R266): the four channels deliver their results; the source is pair A, or pair B under the
cross-check, or none. The window is a tamper window once a pair is unusable or pair B is the source (R268). -/
def execDecimatorResult (codes : List Int) (still : List Bool) (s : State) : Ans :=
  inputTo s (.decimatorResult codes still) <| .next <|
  s.when (meterRuns s && codes.length = 4 && still.length = 4) fun old =>
    let ys := meterCodes old codes
    let s := meterChannels old ys still
    let src := meterSource s
    if !s.on Reg.mtrCtrlEn then { s with mtr := { s.mtr with delivered := true } }
    else meterTake s src (pairSample old ys 0) (pairSample old ys 1) (pairKept old src) (pairKept old 0 && pairKept old 1)
      (!(pairIsUsable s 0 && pairIsUsable s 1) || src = 1)

/-- CHANNEL_USABLE_RETURN (R260): 1 s of results without either condition; the first 3 results after it are discarded. -/
def execChannelUsableReturn (chan : Nat) (s : State) : Ans :=
  inputTo s (.channelUsableReturn chan) <| .next <|
  s.when (chan < 4 && !(s.mchan chan).usable && !(s.mchan chan).still && (s.mchan chan).satRun < 16) fun s =>
    raiseEvent (s.setMchan chan { s.mchan chan with usable := true, discard := 3, satRun := 0 })
      Reg.mtrFaultChanLost blkMtr [BitVec.ofNat 8 chan]

/-! ### Cross-check (R268, R269) -/

/-- The deviation of a window in 0.1 %, held at 65,535. -/
def windowDeviation (s : State) (w : XchkWindow) : Nat :=
  let pf := s.eff Reg.mtrFloorPfloor * 1000000 * w.count
  let cf := s.eff Reg.mtrFloorIfloor * 100 * w.count
  let dp := 1000 * (w.powA - w.powB).natAbs / max (max w.powA.natAbs w.powB.natAbs) pf
  let di := 1000 * (max w.curA w.curB - min w.curA w.curB) / max (max w.curA w.curB) cf
  satTo 16 (max dp di)

/-- Mark the sessions of a window: their largest deviation, and the tamper flag. -/
def markSessions (s : State) (w : XchkWindow) (dev : Nat) (tamper : Bool) : State :=
  let s := entries.foldl (fun s i =>
    let e := s.sess i
    if e.live && w.sessions.contains e.number then
      s.setSess i { e with dev := max e.dev dev, flags := if tamper then setBit e.flags 0 else e.flags }
    else s) s
  { s with mtr := { s.mtr with due := s.mtr.due.map (fun d =>
      if w.sessions.contains d.session then
        { d with dev := max d.dev dev, flags := if tamper then setBit d.flags 0 else d.flags }
      else d) } }

/-- A tamper window (R269): at most one event record per 60 s. -/
def tamperWindow (s : State) : State :=
  let s := (s.raise Reg.mtrFaultTamper).bump Reg.mtrTamper
  match s.mtr.tamperEvent with
  | some t => if s.now < t + 60000 then s
    else event { s with mtr := { s.mtr with tamperEvent := some s.now } } blkMtr 0 []
  | none => event { s with mtr := { s.mtr with tamperEvent := some s.now } } blkMtr 0 []

/-- XCHK_WINDOW_END (R268, R269): MTR_PWR and MTR_CURR take the window's means. -/
def execXchkWindowEnd (s : State) : Ans :=
  inputTo s .xchkWindowEnd <| .next <|
  s.when (0 < s.mtr.window.count) fun s =>
    let w := s.mtr.window
    let s := { s with mtr := { s.mtr with window := XchkWindow.reset } }
    let s := s.setStat Reg.mtrPwr (unsignedOf 32 (divRound w.powSrc (1000000 * w.count)))
    let s := s.setStat Reg.mtrCurr (unsignedOf 32 (divRound w.curSrc (100 * w.count)))
    if !s.on Reg.mtrCtrlXchkEn then s
    else
      let dev := windowDeviation s w
      let tamper := w.bad || s.eff Reg.mtrXchkDev < dev
      let s := markSessions s w dev tamper
      if tamper then tamperWindow s else s

/-! ### Persistence and settings (R261, R267) -/

/-- METER_CHECKPOINT (R267): SE9 requests a checkpoint while something has changed since the last. -/
def execMeterCheckpoint (s : State) : Ans :=
  inputTo s .meterCheckpoint <| .next <|
  s.when ((s.mode == .running || s.mode == .failed) && s.mtr.changed && !nvWaits s (· == .checkpoint)) fun s =>
    nvRequest { s with mtr := { s.mtr with changed := false } } (meterItems s false) .checkpoint

/-- METER_SETTINGS_APPLY (R261): at the first instant at which no session is OPEN or HOLDING. -/
def execMeterSettingsApply (s : State) : Ans :=
  inputTo s .meterSettingsApply <| .next <|
  s.when (s.mtr.settingsPending && liveCount s = 0) fun s =>
    let s := applyTiming .meterSettings { s with mtr := { s.mtr with settingsPending := false } }
    [0, 1, 2, 3].foldl (fun s n => s.setMchan n { s.mchan n with discard := 3 }) s

/-! ### Receipts (R271-R276) -/

/-- Request the record of the open roll-up. -/
def requestRollUp (s : State) : State :=
  nvRequest s [dataItem .state 0x0142 (.rollup s.mtr.rollup)] .none

/-- RECEIPT_FORMED (R271, R276): SE9 forms the receipt of the oldest session due. While the log is full, its figures go into
the roll-up. The first receipt after a start whose power-fail checkpoint is missing carries the flag of R267. -/
def execReceiptFormed (s : State) : Ans :=
  inputTo s .receiptFormed <| .next <|
  match s.mtr.due with
  | d :: rest => s.when (s.roleThere 9) fun s => lcProceeds <|
    let d := if s.nvs.firstReceiptFlag then { d with flags := setBit d.flags 4 } else d
    let s := { s with mtr := { s.mtr with due := rest }, nvs := { s.nvs with firstReceiptFlag := false } }
    if logFull s then
      let t := if s.mtr.rollup.isNone then s.raise Reg.mtrFaultRollup else s
      requestRollUp { t with mtr := { t.mtr with rollup := some (rollUpAdd t.mtr.rollup d) } }
    else startReceipt { s with mtr := { s.mtr with formed := s.mtr.formed ++ [d] } }
  | [] => s

/-- RECEIPT_COMMITTED (R274, R360): SE12 comes to the receipt at the front of its queue. -/
def execReceiptCommitted (suppliesOk verifyOk : Bool) (s : State) : Ans :=
  inputTo s (.receiptCommitted suppliesOk verifyOk) <| .next <|
  match s.nvs.queue with
  | q :: _ =>
    match q.eff, q.items with
    | .receipt _ _, i :: _ => s.when (i.area == .receipt) (commitFront suppliesOk verifyOk)
    | _, _ => s
  | [] => s

/-- RECEIPT_KEY_USABLE (R273): held receipts are signed, numbered and committed in order. -/
def execReceiptKeyUsable (s : State) : Ans :=
  inputTo s .receiptKeyUsable <| .next <| s.when (receiptSlot s).isSome startReceipt

/-- The record of an acknowledgement up to `n`. -/
def ackItems (s : State) (n : Nat) : List RecItem :=
  [dataItem .state 0x0141 (.receiptState (max n s.mtr.rcptAck) s.mtr.epoch s.mtr.rcptNext s.mtr.reloaded)]

/-- An acknowledgement deferred under the supply check is asked of SE12 again. -/
def ackAgain (s : State) : State :=
  match s.mtr.ackRetry with
  | some n => nvRequest { s with mtr := { s.mtr with ackRetry := none } } (ackItems s n) (.ack none n)
  | none => s

/-- RECEIPT_COMMIT_RETRY (R274): a deferred commit or acknowledgement is made again, and so is a deferred record of the
roll-up. -/
def execReceiptCommitRetry (s : State) : Ans :=
  inputTo s .receiptCommitRetry <| .next <|
  let s := startReceipt (ackAgain s)
  let stands := match standing s 0x0142 with
    | some (.rollup r) => r == s.mtr.rollup
    | _ => s.mtr.rollup.isNone
  let queued := s.nvs.queue.any (fun q => q.items.any (fun i => i.key == 0x0142))
  if stands || queued then s else requestRollUp s

/-! ### Ring 6 (R279) -/

/-- RECEIPT_BUFFER (R275): a receipt that waits in the log is written at once. -/
def execReceiptBuffer (tag : Nat) (s : State) : Ans :=
  inputTo s (.receiptBuffer tag) <| .next (postReceipts 2048 (postBuffer 6 0x01 112 tag s))

/-- ACK (R274, R279): a number already acknowledged changes nothing. -/
def execAck (tag : Nat) (s : State) : Ans :=
  inputTo s (.ack tag) <| .next <|
  ringCmd 6 0x02 tag (fun d s =>
    if s.mtr.rcptNext ≤ d.p0 then complete s 6 tag stBadField 0
    else if d.p0 ≤ s.mtr.rcptAck then complete s 6 tag stOk (unackedCount s)
    else changeCmd 6 d false (fun s =>
      nvRequest (markTaken s 6 tag true)
        (ackItems s d.p0) (.ack (some tag) d.p0)) s) s

/-- READ_RECEIPT (R279): a receipt is in the log until it is acknowledged. -/
def execReadReceipt (tag : Nat) (s : State) : Ans :=
  inputTo s (.readReceipt tag) <| .next <|
  ringCmdIf 6 0x03 tag (fun d => d.len = 112) (fun d s =>
    match loggedReceipt s d.p0 with
    | some b => if s.mtr.rcptAck < d.p0 && d.p0 < s.mtr.rcptNext then completeData s 6 d b 1
      else completeData s 6 d (zeroBytes 112) 0
    | none => completeData s 6 d (zeroBytes 112) 0) s

/-- COUNTERS (R279). -/
def execCounters (tag : Nat) (s : State) : Ans :=
  inputTo s (.counters tag) <| .next <|
  ringCmdIf 6 0x04 tag (fun d => d.len = 32) (fun d s =>
    completeData s 6 d ((lifeCounters s).flatMap (leBytes 6) ++ leBytes 4 s.rtc ++ leBytes 2 s.mtr.epoch ++
      [BitVec.ofNat 8 (setupValue s 0x300C), 0]) 0) s

/-- ROLL_NONCE (R278). -/
def execRollNonce (tag : Nat) (s : State) : Ans :=
  inputTo s (.rollNonce tag) <| .next <|
  ringCmdIf 6 0x05 tag (fun d => d.len = 16) (fun d s =>
    let (v, s) := s.draw
    completeData { s with mtr := { s.mtr with rollNonce := some (v, true) } } 6 d (beBytes 16 v) 0) s

/-- ROLL_NONCE_EXPIRY (R278): 60 s after its issue the nonce no longer serves. -/
def execRollNonceExpiry (s : State) : Ans :=
  inputTo s .rollNonceExpiry <| .next { s with mtr := { s.mtr with
  rollNonce := s.mtr.rollNonce.map (fun e => (e.1, false)) } }

/-- ROLL_REFUSED. -/
def stRollRefused : Nat := 0x58

/-- The first reason of R278 that refuses a rollover to this epoch. -/
def rollRefusal (s : State) (epoch : Nat) (mac : Bytes) : Option Nat :=
  let signed := match s.mtr.rollNonce with
    | some (v, _) => attestUsable s && authMac s 0x4E (beBytes 2 epoch ++ beBytes 16 v) == mac
    | none => false
  let fresh := match s.mtr.rollNonce with
    | some (_, u) => u
    | none => false
  if !signed then some 1
  else if !(epoch = s.mtr.epoch + 1 && s.mtr.epoch < 0xFFFF) then some 2
  else if !fresh then some 3
  else if !(liveCount s = 0 && s.rel.queue.isEmpty && s.rel.waiting.isEmpty) then some 4
  else if !(committedUnacked s = 0 && s.mtr.formed.isEmpty && s.mtr.due.isEmpty && s.mtr.rollup.isNone) then some 5
  else if !s.mtr.reloaded then some 6
  else none

/-- ROLLOVER (R278): the roll nonce is used by an accepted rollover. -/
def execRollover (tag : Nat) (data : Bytes) (s : State) : Ans :=
  inputTo s (.rollover tag data) <| .next <|
  ringCmdIf 6 0x06 tag (fun d => d.len = 16 && d.p0 < 2 ^ 16) (fun d s =>
    changeCmd 6 d true (fun s =>
      let refusal := rollRefusal s d.p0 (padTo 16 data)
      let s := authJob s.mtr.rollNonce.isSome s
      match refusal with
      | some r => complete s 6 tag stRollRefused r
      | none =>
        let s := { s with mtr := { s.mtr with rollNonce := s.mtr.rollNonce.map (fun e => (e.1, false)) } }
        nvRequest (markTaken s 6 tag true)
          [dataItem .state 0x0141 (.receiptState 0 d.p0 1 false), dataItem .state 0x0140 (.ceilings s.cip.ceilings 1)]
          (.rollover tag d.p0)) s) s

/-- COUNTER_LO_READ (R282): a read of a lower word answers it and latches the upper word. -/
def execCounterLoRead (counter : Nat) (s : State) : Ans := .next <|
  s.when (counter < 4) (answerRead ((Reg.mtrLifeLo counter).key / 32))

end Sys2Proof.Machine
end

