-- ==== Sys2Proof/Machine/Store.lean ====
section
/-! DEFINITION. The meanings of the Laurel store's events and of ring 9 (13_laurel_store.md R348-R370; 15 R405). -/
namespace Sys2Proof.Machine

/-! ### Records and sectors (R350-R352, R358-R361) -/

/-- The request at the front has a row of its own: a receipt, a session-number ceiling. -/
def ownCommitRow (s : State) : Bool :=
  match s.nvs.queue with
  | q :: _ =>
    match q.eff, q.items with
    | .receipt _ _, i :: _ => i.area == .receipt
    | .sessionCeiling _, _ => true
    | _, _ => false
  | [] => false

/-- RECORD_WRITE_DONE (R352). -/
def execRecordWriteDone (suppliesOk verifyOk : Bool) (s : State) : Ans :=
  inputTo s (.recordWriteDone suppliesOk verifyOk) <| .next <|
  s.when (s.mode != .seed && !s.nvs.failing && (!s.nvs.single.isEmpty || (nextCopy s).isSome || !ownCommitRow s))
    (commitFront suppliesOk verifyOk)

/-- The area of a place in the mask order. -/
def areaAt (n : Nat) : Option Area := allAreas[n]?

/-- SECTOR_ERASE_DONE (R350): a sector that does not read blank is erased again. No erase is made before VHOLD has reached
4.5 V, and one for which the supply check fails is deferred (R360). -/
def execSectorEraseDone (area : Nat) (blank : Bool) (s : State) (suppliesOk : Bool := true) : Ans :=
  inputTo s (.sectorEraseDone area blank suppliesOk) <| .next <|
  match areaAt area with
  | some a => s.when ((eraseTarget (s.area a) a).isSome && !s.nvs.failing) fun s =>
      if !(suppliesOk && s.nvs.holdSeen) then noteDeferred s
      else s.when blank fun s => sectorErased s a
  | none => s

/-- VHOLD_READY (R360, R361): VHOLD first reaches 4.5 V after a start. -/
def execVholdReady (riseUs : Nat) (s : State) : Ans := .next <|
  s.when (chargerOn s && !s.nvs.holdSeen) fun s =>
    let s := { s with
      nvs := { s.nvs with holdSeen := true },
      pwr := { s.pwr with supplies := s.pwr.supplies.set 6 (max 4500 (vhold s)) } }
    if riseUs < 2000 then raiseEvent s Reg.nvsFaultHoldSmall blkNvs [] else s

/-! ### Main supply failure (R362; 15 R405) -/

/-- Receipts waiting in SRAM, signed and numbered as they would commit. -/
def pendingReceipts (s : State) : List RecItem :=
  match receiptSlot s with
  | some n => (s.mtr.formed.zipIdx).flatMap (fun e =>
      dataItem .receipt 0x0200 (.receipt (s.mtr.rcptNext + e.2) (signReceipt s n e.1 (s.mtr.rcptNext + e.2))) ::
        rollUpCloses e.1)
  | none => []

/-- Requests that the steps before "everything else" of R362 already cover. -/
def coveredByFinal (e : NvEffect) : Bool :=
  match e with
  | .checkpoint | .lockout | .audit _ | .receipt _ _ => true
  | _ => false

/-- Everything else queued, in order. -/
def restItems (s : State) : List RecItem :=
  (s.nvs.queue.filter (fun q => !coveredByFinal q.eff)).flatMap (fun q =>
    (asItStands s q).items.map (fun i => { i with data := refreshData s q.eff i.data }))

/-- The metering and lock-out state in SRAM is that of the device: it is from the end of the start sequence on. Before that, and in
RECOVERY, nothing of it is pending. -/
def sramStands (s : State) : Bool := s.mode == .running || s.mode == .failed

/-- What SE12 writes at a main supply failure, in the order of R362: each item that is pending. -/
def finalItems (s : State) : List RecItem :=
  let meter := if sramStands s then meterItems s true else []
  meter.take 1 ++ pendingReceipts s ++ meter.drop 1 ++ (if sramStands s then lockItems s else []) ++
    auditItems (s.hif.auditWaiting.length + 1) (auditUnwritten s) ++ restItems s

/-- The program of a sector header flag, or an erase, is cut (R363): 0 formatting, so that the sector does not count as formatted;
1 IN_USE and 2 FULL, which count as set; 3 the ERASING mark, and 4 the erase, which is repeated, its count lost. -/
def headerCut (kind : Nat) (a : Area) (s : State) : State :=
  let v := s.area a
  match kind, eraseTarget v a with
  | 0, some k | 4, some k =>
    let s := dropSector s a k
    s.setArea a { v with unformatted := k :: v.unformatted.filter (fun x => x != k) }
  | 1, _ => s.setArea a { v with inUse := true }
  | 2, _ => s.setArea a { v with full := true }
  | _, _ => s

/-- A life-cycle transition whose records stand is made in the fuses (07 R192). -/
def fusesFollow (s : State) (n : Nat) : State :=
  match s.nvs.queue.find? (fun q => q.eff.ring == some 8) with
  | some q =>
    match q.eff with
    | .lifeCycle _ target =>
      if (finalItems s).length ≤ n then { s with cip := { s.cip with lifeCycle := lifeCycleOf target } } else s
    | _ => s
  | none => s

/-- An import of which a record is among the first `n` goes on at the next start (14 R388; log 156). -/
def importCut (s : State) (n : Nat) : State :=
  let isImport (q : NvReq) : Bool := match q.eff with
    | .import _ _ => true
    | _ => false
  match s.nvs.queue.find? isImport with
  | some q =>
    let before := { s with nvs := { s.nvs with queue := s.nvs.queue.takeWhile (fun q => !isImport q) } }
    if (finalItems before).length < n then importBegun q.eff s else s
  | none => s

/-- MAIN_SUPPLY_FAILURE (R405, R362): an erase in progress is abandoned, and the pending records are written in order, the
first `finalRecords` of them. Where HOLD has not the energy of R361, the next one is cut at byte `cut`, or a flag of an area's sector
header as `flash` says (R363). The commands that waited for them are not completed: the rings come up DISABLED. -/
def execMainSupplyFailure (vdd finalRecords : Nat) (s : State) (mv : Nat := 0) (cut : Option Nat := none)
    (flash : Option (Nat × Nat) := none) (unread : List Nat := []) : Ans := .next <|
  s.when (vdd < 4 && decide (mv < failsBelow s vdd) && s.mode != .seed && !s.nvs.failing) fun s =>
    let s := { s with
      nvs := { s.nvs with failing := true },
      pwr := { s.pwr with failedSupply := some vdd, supplies := s.pwr.supplies.set vdd mv } }
    let s := match flash.bind (fun e => (areaAt e.1).map (fun a => (a, e.2))) with
      | some (a, kind) => headerCut kind a s
      | none => s
    if s.nvs.holdSeen then
      let t := programAll (importCut (fusesFollow s finalRecords) finalRecords) ((finalItems s).take finalRecords) unread
      match cut, (finalItems s)[finalRecords]? with
      | some k, some i => cutItem t i k
      | _, _ => t
    else s

/-! ### Scrub (R366) -/

/-- A weak record is still needed: a record of a log while it is valid, any other while it is live. -/
def scrubWanted (s : State) (r : StoredRec) : Bool :=
  recValid s r && (r.area == .audit || r.area == .receipt || recLive s r)

/-- Append a copy of a weak record with its key, sequence and data (R366); one that does not read back at first is written again
(R352). True where it has been written. -/
def scrubOne (unread : List Nat) (acc : State × Nat) (e : StoredRec × Nat) : State × Nat :=
  let (s, n) := acc
  let r := { e.1 with scrub := true }
  let room (s : State) : Bool := (areaFor r.area (s.area r.area) (footprint r.len)).isSome
  if scrubWanted s e.1 && room s then
    let t := if unread.contains e.2 then copyRecord s r false else s
    if room t then (copyRecord t r true, n + 1) else (t, n)
  else acc

/-- Rewrite the weak records at these places of the store that lie in the masked areas. -/
def scrubWeak (s : State) (mask : Nat) (weak unread : List Nat) : State × Nat :=
  let l := (weak.eraseDups.filterMap (fun k => (s.nvs.recs[k]?).map (fun r => (r, k)))).filter (fun e => bitAt mask e.1.area.idx)
  let (t, n) := l.foldl (scrubOne unread) (s, 0)
  (if 0 < n then t.raise Reg.nvsFaultWeak else t, n)

/-- The sectors with a weak header that lie in the masked areas are reclaimed: area and sector. -/
def scrubHeaders (s : State) (mask : Nat) (headers : List (Nat × Nat)) : State :=
  headers.eraseDups.foldl (fun s e => match areaAt e.1 with
    | some a => if bitAt mask e.1 then reclaimWeak s a e.2 else s
    | none => s) s

/-- A scrub pass over the masked areas, and how many records it has rewritten. -/
def scrubPass (s : State) (mask : Nat) (weak : List Nat) (headers : List (Nat × Nat)) (unread : List Nat) : State × Nat :=
  let (t, n) := scrubWeak s mask weak unread
  (scrubHeaders t mask headers, n)

/-- A scrub pass may write: the supply check passes, and no main supply failure has been reported (R360, R362). -/
def scrubFit (s : State) (suppliesOk : Bool) : Bool := suppliesOk && s.nvs.holdSeen && !s.nvs.failing

/-- SCRUB_PERIOD (R366): the records at the places `weak` of the store read weak, and the headers of the sectors `headers`. A copy
that the supply check defers waits for the next pass. -/
def execScrubPeriod (weak : List Nat) (s : State) (headers : List (Nat × Nat) := []) (suppliesOk : Bool := true)
    (unread : List Nat := []) : Ans :=
  inputTo s (.scrubPeriod weak headers suppliesOk unread) <| .next <|
  s.when (s.on Reg.nvsCtrlScrubEn && s.mode != .seed && !s.nvs.failing) fun s =>
    let t :=
      if scrubFit s suppliesOk then (scrubPass s 63 weak headers unread).1
      else if weak.isEmpty && headers.isEmpty then s
      else noteDeferred s
    t.setStat Reg.nvsScrublast t.rtc

/-! ### Ring 9 (R368, R369) -/

/-- NO_RECORD. -/
def stNoRecord : Nat := 0x71
/-- STORE_FULL. -/
def stStoreFull : Nat := 0x72

/-- A host record's key. -/
def hostKey (k : Nat) : Bool := 0x8000 ≤ k && k ≤ 0x80FF

/-- READ. -/
def execRead (tag : Nat) (s : State) : Ans := .next <|
  ringCmdIf 9 0x01 tag (fun d => 1024 ≤ d.len && hostKey d.p0) (fun d s =>
    match hostRecord s d.p0 with
    | some b => completeData s 9 d b b.length
    | none => complete s 9 tag stNoRecord 0) s

/-- Data bytes of every host record but the one with key `k`. -/
def hostBytes (s : State) (k : Nat) : Nat :=
  ((List.range 256).map (fun i => if 0x8000 + i = k then 0
    else match hostRecord s (0x8000 + i) with
      | some b => b.length
      | none => 0)).sum

/-- WRITE. -/
def execWrite (tag : Nat) (data : Bytes) (s : State) : Ans := .next <|
  ringCmdIf 9 0x02 tag (fun d => d.len ≤ 1024 && hostKey d.p0) (fun d => changeCmd 9 d true fun s =>
    if 131072 < hostBytes s d.p0 + d.len then complete s 9 tag stStoreFull 0
    else nvRequest (markTaken s 9 tag false) (critPair d.p0 false (.host (padTo d.len data)))
      (.hostWrite tag d.p0 (nextRecSeq s d.p0))) s

/-- DELETE. -/
def execDelete (tag : Nat) (s : State) : Ans := .next <|
  ringCmdIf 9 0x03 tag (fun d => hostKey d.p0) (fun d => changeCmd 9 d true fun s =>
    nvRequest (markTaken s 9 tag false) (critPair d.p0 true (.host []))
      (.hostDelete tag d.p0 (bit (hostRecord s d.p0).isSome))) s

/-- Bitmap of the host keys present. -/
def hostMap (s : State) : Nat :=
  (List.range 256).foldl (fun m k => if (hostRecord s (0x8000 + k)).isSome then setBit m k else m) 0

/-- LIST. -/
def execHostRecordList (tag : Nat) (s : State) : Ans := .next <|
  ringCmdIf 9 0x04 tag (fun d => d.len = 32) (fun d s =>
    completeData s 9 d (leBytes 32 (hostMap s)) (popCount 256 (hostMap s))) s

/-- The 8 bytes of WEAR on one area. -/
def wearBytes (s : State) (a : Area) : Bytes :=
  [BitVec.ofNat 8 a.code, if a.sectors < 256 then BitVec.ofNat 8 a.sectors else Config.wearSectors] ++ leBytes 1 (freeSectors a (s.area a)) ++ [0] ++
    leBytes 4 (highestErase s a)

/-- WEAR. -/
def execWear (tag : Nat) (s : State) : Ans := .next <|
  ringCmdIf 9 0x05 tag (fun d => d.len = 48) (fun d s => completeData s 9 d (allAreas.flatMap (wearBytes s)) 6) s

/-- SCRUB_NOW: a pass that the supply check defers completes NV_DEFERRED (R360). -/
def execScrubNow (tag : Nat) (weak : List Nat) (s : State) (headers : List (Nat × Nat) := []) (suppliesOk : Bool := true)
    (unread : List Nat := []) : Ans :=
  inputTo s (.scrubNow tag weak headers suppliesOk unread) <| .next <|
  ringCmdIf 9 0x06 tag (fun d => d.p0 < 64) (fun d s =>
    if weak.isEmpty && headers.isEmpty then complete s 9 tag stOk 0
    else if !scrubFit s suppliesOk then complete (noteDeferred s) 9 tag stNvDeferred 0
    else
      let (t, n) := scrubPass s d.p0 weak headers unread
      complete t 9 tag stOk n) s

end Sys2Proof.Machine
end

