-- ==== Sys2Proof/Machine/Messages.lean ====
section
/-! DEFINITION. The meanings of rings 0, 12 and 15: configuration, the audit log, peer messages and the mailbox of APP
(12_host_interface.md R330-R344). -/
namespace Sys2Proof.Machine

/-- PEER_UNREACHABLE. -/
def stPeerUnreachable : Nat := 0x64
/-- MAILBOX_FULL. -/
def stMailboxFull : Nat := 0x66

/-! ### Ring 0 -/

/-- CONFIG_APPLY (R332-R335). The current format is 0x0002 (R331). -/
def execConfigApply (tag : Nat) (data : Bytes) (s : State) : Ans := .next <|
  ringCmdIf 0 0x01 tag (fun d => 24 ≤ d.len && d.len ≤ 16400) (fun d s =>
    let b := padTo d.len data
    let st := blobStatus 2 b
    if st = stOk then
      let (t, res) := applyBlob 2 b s
      complete t 0 tag stOk res
    else complete s 0 tag st 0) s

/-- CONFIG_EXPORT (R337, R341). -/
def execConfigExport (tag : Nat) (s : State) : Ans := .next <|
  ringCmdIf 0 0x02 tag (fun d => (configBlob s).length ≤ d.len) (fun d s =>
    completeData s 0 d (configBlob s) (configBlob s).length) s

/-- An entry put before the first of a higher sequence number. -/
def insertBySeq (e : AuditEntry) : List AuditEntry → List AuditEntry
  | [] => [e]
  | f :: l => if e.seq < f.seq then e :: f :: l else f :: insertBySeq e l

/-- The entries that the audit log holds: the 4,096 latest committed, in sequence order (R339). -/
def auditHeld (s : State) : List AuditEntry :=
  let l := ((auditRecs s).flatMap (fun r => r.data.auditEntries)).foldr insertBySeq []
  l.drop (l.length - auditDepth)

/-- AUDIT_READ (R341): the entries held from the one named, in sequence order. -/
def execAuditRead (tag : Nat) (s : State) : Ans := .next <|
  ringCmdIf 0 0x03 tag (fun d => 32 ≤ d.len && d.len ≤ 65504 && d.len % 32 = 0 && d.p0 < 2 ^ 32) (fun d s =>
    let l := ((auditHeld s).filter (fun e => decide (d.p0 ≤ e.seq))).take (d.len / 32)
    completeData s 0 d (l.flatMap auditBytes) l.length) s

/-- CONFIG_SAVE (R336): the configuration record is rewritten; while NVWP is asserted it is not, and CFG_UNSAVED reads 1. -/
def execConfigSave (s : State) (nvwp : Option Bool := none) : Ans := .next <|
  (s.sampleNvwp nvwp).when (s.running && (s.hif.cfgChanged || s.stat Reg.hifStatusCfgUnsaved != 0) && !nvWaits s (· == .config)) fun s =>
    if s.nvwp then s.setStat Reg.hifStatusCfgUnsaved 1
    else
      nvRequest { s with hif := { s.hif with cfgChanged := false } } (configItems s (nextConfigGen s)) .config

/-- A commit of audit entries. -/
def isAudit : NvEffect → Bool
  | .audit _ => true
  | _ => false

/-- AUDIT_COMMIT (R339): the waiting entries go to the store, in records of at most 31. -/
def execAuditCommit (s : State) : Ans :=
  inputTo s .auditCommit <| .next <|
  s.when (s.mode != .seed && !s.hif.auditWaiting.isEmpty && !nvWaits s isAudit) fun s =>
    nvRequest s (auditItems (s.hif.auditWaiting.length + 1) s.hif.auditWaiting) (.audit s.hif.auditWaiting.length)

/-! ### Ring 12 -/

/-- SEND (R342, R343). -/
def execSend (tag : Nat) (data : Bytes) (s : State) : Ans :=
  inputTo s (.send tag data) <| .next <|
  ringCmdIf 12 0x01 tag (fun d => 1 ≤ d.len && d.len ≤ 1000 && d.p0 < 2 ^ 17 && d.p1 < 256) (fun d s =>
    let dst := d.p0 % 65536
    let mcast := bitAt d.p0 16
    if s.fab.addr.isNone then complete s 12 tag stAddrFull 0
    else if !mcast && !reachable s dst then complete s 12 tag stPeerUnreachable 0
    else
      let (q, t) := sendFrame s dst mcast false clsBulk 0x10
        ([BitVec.ofNat 8 d.p1, 0] ++ beBytes 2 d.len ++ padTo d.len data)
      complete t 12 tag stOk q) s

/-- RECV_BUFFER (R342). -/
def execRecvBuffer (tag : Nat) (s : State) : Ans :=
  inputTo s (.recvBuffer tag) <| .next <| postBuffer 12 0x02 1024 tag s

/-- A message is not the one that follows the latest of its source; a first message follows (DEDUCED, log 94). -/
def gapBefore (s : State) (src seq : Nat) : Bool :=
  let l := tblGet 0 s.fab.seqLast (src * 4 + clsBulk)
  l != 0 && seq % 65536 != l % 65536

/-- A received message as R342 writes it. -/
def messageBytes (s : State) (src seq time channel : Nat) (multicast : Bool) (data : Bytes) : Bytes :=
  leBytes 2 src ++ [BitVec.ofNat 8 channel, BitVec.ofNat 8 (bit (gapBefore s src seq) + 2 * bit multicast)] ++
    leBytes 2 data.length ++ zeroBytes 2 ++ leBytes 4 time ++ zeroBytes 4 ++ data

/-- PEER_MESSAGE (R342): delivered into the oldest buffer whatever its sequence, or discarded and counted. -/
def execPeerMessage (src seq time channel : Nat) (multicast : Bool) (data : Bytes) (s : State) : Ans :=
  inputTo s (.peerMessage src seq time channel multicast data) <| .next <|
  s.when (s.running && data.length ≤ 1000) fun s =>
    seqAccept (fillBuffer s 12 0x02 (messageBytes s src seq time channel multicast data) (16 + data.length))
      src clsBulk seq

/-! ### Ring 15 -/

/-- POST (R344): the message waits for APP; a ninth completes MAILBOX_FULL. -/
def execPost (tag : Nat) (data : Bytes) (s : State) : Ans := .next <|
  ringCmdIf 15 0x01 tag (fun d => 1 ≤ d.len && d.len ≤ 4096 && d.p0 < 65536) (fun d s =>
    if 8 ≤ s.hif.mailbox.length then complete s 15 tag stMailboxFull 0
    else markTaken { s with hif := { s.hif with
      mailbox := s.hif.mailbox ++ [⟨tag, d.p0, padTo d.len data⟩] } } 15 tag false) s

/-- RECV_BUFFER of ring 15 (R344). -/
def execMailboxRecvBuffer (tag : Nat) (s : State) : Ans := .next <| postBuffer 15 0x02 4112 tag s

/-- APP serves its mailbox. -/
def appServes (s : State) : Bool := s.running && s.pwr.appServing

/-- APP_MESSAGE (R344): written into the oldest buffer, or discarded and counted. -/
def execAppMessage (channel : Nat) (data : Bytes) (s : State) : Ans := .next <|
  s.when (appServes s && data.length ≤ 4096) fun s =>
    fillBuffer s 15 0x02 (leBytes 2 channel ++ zeroBytes 2 ++ leBytes 4 data.length ++ zeroBytes 8 ++ data)
      (16 + data.length)

/-- MAILBOX_TAKE (R344): APP takes the oldest message, and its POST completes. -/
def execMailboxTake (s : State) : Ans := .next <|
  s.when (appServes s) fun s =>
    match s.hif.mailbox with
    | m :: rest =>
      complete (({ s with hif := { s.hif with mailbox := rest } }).emit (.toApp m.channel m.data)) 15 m.tag stOk 0
    | [] => s

end Sys2Proof.Machine
end

