-- ==== Sys2Proof/Machine/RadioOps.lean ====
section
/-! DEFINITION. Production test frames, and what a scheduled task does when it starts and when a calibration block ends
(05_radios.md R119-R123; 15_power_and_supervision.md R413, R417). -/
namespace Sys2Proof.Machine

/-! ### Production test frames (15 R417) -/

/-- A PROD_TX with no frame left and none on air completes with the frames sent. -/
def prodDone (s : State) : State :=
  match s.pwr.prodTx with
  | some p =>
    if p.left = 0 && s.sgr.work != .prod then
      sgrNextJob (complete { s with pwr := { s.pwr with prodTx := none } } 13 p.tag stOk p.sent)
    else s
  | none => s

/-- One more test frame has been sent. -/
def prodSent (s : State) : State :=
  match s.pwr.prodTx with
  | some p => { s with pwr := { s.pwr with prodTx := some { p with sent := p.sent + 1 } } }
  | none => s

/-- Airtime of a sub-GHz test frame of 20 bytes. -/
def prodTime (s : State) : Nat := airtime s 160

/-- Duration of a UWB test frame of 20 bytes, µs: that of a report, whose payload is as long (05 R111; DEDUCED, log 43). -/
def prodUwbTime (s : State) : Nat := nth 125 [125, 230, 360, 1150] (s.eff Reg.uwbPhyPsr)

/-- A sub-GHz test frame goes on air. -/
def prodLeaves (s : State) : State := prodSent (sgrTransmit s (padTo 20 Config.testFrame) (prodTime s))

/-- The instant of a sub-GHz test frame: it is sent or held for lock, unless 05 R131 or R133 refuses it or the transceiver is
in use (DESIGN CHOICE, log 44). -/
def prodSgr (s : State) : State :=
  match sgrRefusal s (prodTime s) with
  | some r => r.2
  | none =>
    if sgrNeverCalibrated s || s.cyc.phase != .idle || s.sgr.work != .none || s.sgr.phase == .cal then s
    else if sgrReady s then prodLeaves { s with sgr := { s.sgr with work := .prod } }
    else if s.eff Reg.sgrCtrlTxWaitMax = 0 then sgrBusy s
    else sgrHold { s with sgr := { s.sgr with work := .prod } }

/-- A UWB test frame goes on air: the transceiver is powered, calibrated and locked on its channel, and sends (05 R106, R113,
R117). It is off again once the frame has left, by the next tick. -/
def prodUwbLeaves (s : State) (nine : Bool) : State :=
  let s := uwbCharge s (prodUwbTime s)
  prodSent ({ s with uwb := { s.uwb with phase := .tx, nine := nine, lock := true, utrsw := true } }.emit
    (.uwbFrame 5 nine none []))

/-- The instant of a UWB test frame (05 R131, R135). -/
def prodUwb (s : State) : State :=
  if s.rad.regRec.isNone || uwbNeverCalibrated s || s.cyc.phase != .idle || s.uwb.phase != .off || 3 ≤ govLevel s then s
  else if !uwbDutyOk s (prodUwbTime s) then s.raise Reg.uwbFaultDuty
  else match uwbUsable s with
    | (false, false) => s.raise Reg.uwbFaultChanNone
    | (false, true) => prodUwbLeaves s true
    | (true, _) => prodUwbLeaves s false

/-- The instant of the next test frame. -/
def prodFrame (s : State) : State :=
  match s.pwr.prodTx with
  | some p =>
    let s := { s with pwr := { s.pwr with prodTx := some { p with left := p.left - 1, due := s.now + p.period / 1000 } } }
    prodDone (if p.uwb then prodUwb s else prodSgr s)
  | none => s

/-! ### Tasks start (R413) -/

/-- The commands that wait on a task are past their abort point once it starts (05 R138; 15 R417). -/
def taskMarks (s : State) (t : Task) : State :=
  let s := t.selftests.foldl (fun s g => markTaken s 13 g true) s
  if t.kind == .lfDiag then s
  else
    let mask := if t.kind == .oscTrim then 64 else t.arg
    (s.sgr.calCmds.filter (fun c => (c.2.1 &&& mask) != 0)).foldl (fun s c => markTaken s 5 c.1 true) s

/-- Load trim of 05 R122 at the die temperature. -/
def loadTrim (s : State) : Nat :=
  let x : Int := s.eff Reg.sgrXtrimBase + divRound (signed 8 (s.eff Reg.sgrXtrimTc) * (s.pwr.temp - 250)) 160
  (max 0 (min 255 x)).toNat

/-- Bit `b` of a waiting mask is taken over as bit `m`, which stands for the count that runs in the background. -/
def waitsCount (b m w : Nat) : Nat := if bitAt w b then setBit (clearBit w b) m else w

/-- The trim is applied and the count of 05 R122 begins. -/
def oscStarts (s : State) : State :=
  { s with
    sgr := { s.sgr with
      trim := loadTrim s, measuring := true, measureAgain := false,
      calCmds := s.sgr.calCmds.map (fun c => (c.1, waitsCount 6 7 c.2.1, c.2.2)) },
    pwr := { s.pwr with
      selftests := s.pwr.selftests.map (fun t => { t with waiting := waitsCount 3 5 t.waiting }) } }

/-- A task starts: a diagnostic by its static test, a block by putting its radio in CAL, the oscillator by its trim. -/
def startTask (s : State) (t : Task) (leakGnd leakVlf : Bool) : State :=
  let s := taskMarks (dropTask s t) t
  match t.kind with
  | .lfDiag => runDiag s t.arg leakGnd leakVlf
  | .sgrCal =>
    let s := sgrIdleAt s .cal
    { s with pwr := { s.pwr with running := some t } }
  | .uwbCal =>
    { s with
      uwb := { s.uwb with phase := .cal, lock := false, utrsw := false },
      pwr := { s.pwr with running := some t } }
  | .oscTrim => oscStarts s

/-! ### A block ends (05 R119-R123) -/

/-- The sub-GHz transceiver after a block: back to the frames of the cycle, to a held request, or to IDLE, from which the
rung takes it (05 R105). -/
def sgrAfterCal (s : State) : State :=
  if s.sgr.held then { s with sgr := { s.sgr with phase := .synth, lock := false } }
  else match s.cyc.phase with
    | .gap | .window | .exchanges => sgrReceive (sgrIdleAt s .idle)
    | .pattern | .draining => sgrIdleAt s .idle
    | .idle => sgrIdleAt s .idle

/-- The reference temperature of a radio is stored; a change of it requests the oscillator calibration. -/
def noteReference (s : State) (uwb : Bool) : State :=
  let t := s.pwr.temp
  let changed := if uwb then !s.uwb.tlastValid || s.uwb.tlast != t else !s.sgr.tlastValid || s.sgr.tlast != t
  let s := if uwb then { s with uwb := { s.uwb with tlast := t, tlastValid := true } }
    else { s with sgr := { s.sgr with tlast := t, tlastValid := true } }
  if changed then requestCal s 64 else s

/-- The transceiver of a block leaves CAL. -/
def leaveCal (s : State) (uwb : Bool) : State :=
  if uwb then { s with uwb := { s.uwb with phase := if s.cyc.phase == .idle then .off else .idle } } else sgrAfterCal s

/-- A calibration that failed twice: the radio's CAL_FAIL and its event record (05 R123). -/
def calFails (s : State) (uwb : Bool) : State :=
  if uwb then raiseEvent s Reg.uwbFaultCalFail blkUwb [] else raiseEvent s Reg.sgrFaultCalFail blkSgr []

/-- Calibrations of a mask have completed. -/
def calPassed (s : State) (mask : Nat) : State :=
  { s with
    sgr := { s.sgr with calDone := s.sgr.calDone ||| mask % 16 },
    uwb := { s.uwb with calDone := s.uwb.calDone ||| bitField mask 4 2 * 16 } }

/-- The block of the task in hand ends with these calibrations failed; those are repeated once. -/
def blockEnds (s : State) (t : Task) (failed : Nat) : State :=
  let uwb := t.kind == .uwbCal
  let bad := t.arg &&& failed
  let good := clearBits t.arg bad
  let s := calPassed s good
  if bad != 0 && !t.repeated then
    calibrateNote { s with pwr := { s.pwr with running := some { t with arg := bad, repeated := true } } } good good
  else
    let s := { s with pwr := { s.pwr with running := none } }
    let s := if bad = 0 then s else calFails s uwb
    let s := noteReference (leaveCal s uwb) uwb
    sgrNextJob (selftestBit (calibrateNote s t.arg good) t.selftests t.kind.code (bad = 0))

end Sys2Proof.Machine
end

