-- ==== Sys2Proof/Machine/ImageOps.lean ====
section
/-! DEFINITION. Images in the code flash: the header of R371, its acceptance, the chunks of a region and Graft deltas
(14_live_update.md R371-R378). -/
namespace Sys2Proof.Machine

/-! ### The header (R371, R372) -/

/-- Chunk count of a header. -/
def hdrChunks (h : Bytes) : Nat := byteAt h 2
/-- Security version. -/
def hdrSecver (h : Bytes) : Nat := byteAt h 3
/-- Body length. -/
def hdrLength (h : Bytes) : Nat := leAt h 4 4
/-- Configuration format of the APP image. -/
def hdrFormat (h : Bytes) : Nat := leAt h 24 2

/-- `len` bytes from `off` are zero. -/
def zeroAt (h : Bytes) (off len : Nat) : Bool := slice h off len == zeroBytes len

/-- A section lies in the body. -/
def sectionIn (h : Bytes) (off len : Nat) : Bool := decide (off + len ≤ hdrLength h)

/-- The fields of a header lie within R371. -/
def headerForm (h : Bytes) (loader : Bool) : Bool :=
  let n := hdrChunks h
  h.length = 4096 && byteAt h 1 = 1 && 1 ≤ n && n ≤ 29 && zeroAt h 72 184 && zeroAt h (256 + 32 * n) (3648 - 32 * n) &&
    zeroAt h 3968 64 &&
    (if loader then
      byteAt h 0 = 2 && n = 1 && 1 ≤ hdrLength h && hdrLength h ≤ 61440 && zeroAt h 8 8 && zeroAt h 20 52 && zeroAt h 3904 64
    else
      byteAt h 0 = 1 && 65536 * (n - 1) < hdrLength h && hdrLength h ≤ 65536 * n && byteAt h 26 < 2 && byteAt h 27 < 2 &&
        leAt h 32 4 ≤ 458752 && sectionIn h (leAt h 28 4) (leAt h 32 4) && sectionIn h (leAt h 36 4) (leAt h 40 4) &&
        (byteAt h 27 = 1 || zeroAt h 3904 64))

/-- The public key that signs a header: the Sehimbe key in ROM, or the integrator key that UPD_APPKEY names. -/
def headerKey (s : State) (h : Bytes) : Option (Nat × Nat) :=
  if byteAt h 27 = 0 then some Config.sehimbeKey
  else if beNat (sha256 (slice h 3904 64)) = s.upd.appKey then some (beAt h 3904 32, beAt h 3936 32)
  else none

/-- The signature of a header verifies. -/
def headerSigned (s : State) (h : Bytes) : Bool :=
  match headerKey s h with
  | some k => ecdsaVerify k (sha256 (h.take 4032)) (beAt h 4032 32) (beAt h 4064 32)
  | none => false

/-- BAD_IMAGE. -/
def stBadImage : Nat := 0x78
/-- ROLLBACK_REFUSED. -/
def stRollback : Nat := 0x7D

/-- The acceptance of a header under R372: OK, BAD_IMAGE or ROLLBACK_REFUSED. -/
def headerStatus (s : State) (h : Bytes) (loader : Bool) : Nat :=
  if !(headerForm h loader && headerSigned s h) then stBadImage
  else if hdrSecver h < s.upd.floor then stRollback
  else stOk

/-! ### Chunks (R371, R374, R375) -/

/-- Length of chunk `i`. -/
def chunkLength (h : Bytes) (i : Nat) : Nat := min 65536 (hdrLength h - 65536 * i)

/-- Digest `i` of a header. -/
def chunkDigest (h : Bytes) (i : Nat) : Bytes := slice h (256 + 32 * i) 32

/-- A chunk's content matches the header. -/
def chunkMatches (h : Bytes) (i : Nat) (c : Bytes) : Bool :=
  c.length = chunkLength h i && sha256 c == chunkDigest h i

/-- Chunk `i` of the main image as it stands in flash. -/
def mainChunk (s : State) (i : Nat) : Bytes :=
  match s.upd.mainChunks.find? (fun e => e.1 == i) with
  | some e => e.2
  | none => Config.factoryChunk i

/-- Body of loader copy `c` as it stands in flash. -/
def loaderBody (s : State) (c : Nat) : Bytes :=
  match s.upd.loaderBodies.find? (fun e => e.1 == c) with
  | some e => e.2
  | none => Config.factoryLoaderBody c

/-- The loader copy that a loader image replaces: the one that did not run at this start. -/
def loaderTarget (s : State) : Nat := 1 - s.upd.loaderRan

/-- Chunk `i` of the region that the header in progress replaces. -/
def targetChunk (s : State) (loader : Bool) (i : Nat) : Bytes :=
  if loader then loaderBody s (loaderTarget s) else mainChunk s i

/-- The chunks of the target region that already match a header, as a mask. -/
def matchingChunks (s : State) (h : Bytes) (loader : Bool) : Nat :=
  ((List.range (hdrChunks h)).filter (fun i =>
    let c := targetChunk s loader i
    chunkMatches h i (c.take (chunkLength h i)))).foldl setBit 0

/-- The first chunk of the header in progress that is not written; the chunk count where all are. -/
def nextChunk (s : State) : Nat :=
  let n := hdrChunks s.upd.header
  ((List.range n).find? (fun i => !bitAt s.upd.written i)).getD n

/-- A list with the entry at `k` replaced. -/
def putEntry (l : List (Nat × Bytes)) (k : Nat) (b : Bytes) : List (Nat × Bytes) := l.filter (fun e => e.1 != k) ++ [(k, b)]

/-! ### Verification at a start (R373) -/

/-- The main image as it stands passes R372 and every chunk its digest; `asDelivered` where nothing of it was written. -/
def mainVerified (s : State) (asDelivered : Bool) : Bool :=
  if s.upd.mainHeader.isNone && s.upd.mainChunks.isEmpty then asDelivered
  else
    let h := s.upd.mainHeader.getD Config.factoryHeader
    headerStatus s h false = stOk &&
      (List.range (hdrChunks h)).all (fun i => chunkMatches h i ((mainChunk s i).take (chunkLength h i)))

/-- Loader copy `c` as it stands is valid. -/
def loaderVerified (s : State) (c : Nat) (asDelivered : Bool) : Bool :=
  if s.upd.loaderHeaders.all (fun e => e.1 != c) && s.upd.loaderBodies.all (fun e => e.1 != c) then asDelivered
  else
    let h := loaderHeader s c
    headerStatus s h true = stOk && chunkMatches h 0 ((loaderBody s c).take (chunkLength h 0))

/-- The loader copy that runs: the valid one with the higher loader version, copy 0 in a tie; none where neither is valid. -/
def loaderChosen (s : State) (ok0 ok1 : Bool) : Option Nat :=
  let v0 := loaderVerified s 0 ok0
  let v1 := loaderVerified s 1 ok1
  if v0 && v1 then some (if leAt (loaderHeader s 0) 16 4 < leAt (loaderHeader s 1) 16 4 then 1 else 0)
  else if v0 then some 0
  else if v1 then some 1
  else none

/-! ### Graft deltas (R378) -/

/-- Apply the operations of a delta; none where it is not well formed. `fuel` bounds their number. -/
def applyDelta : Nat → Bytes → Bytes → Nat → Bytes → Option Bytes
  | 0, _, _, _, _ => none
  | fuel + 1, old, delta, len, out =>
    match delta with
    | [] => if out.length = len then some out else none
    | op :: rest =>
      if out.length = len then none
      else if op = 0x01#8 then
        let off := leAt rest 0 4
        let n := leAt rest 4 4
        if 8 ≤ rest.length && off + n ≤ old.length && out.length + n ≤ len then
          applyDelta fuel old (rest.drop 8) len (out ++ slice old off n)
        else none
      else if op = 0x02#8 then
        let n := leAt rest 0 4
        if 4 + n ≤ rest.length && out.length + n ≤ len then
          applyDelta fuel old (rest.drop (4 + n)) len (out ++ slice rest 4 n)
        else none
      else none

end Sys2Proof.Machine
end

