-- ==== Sys2Proof/Machine/UpdOps.lean ====
section
/-! DEFINITION. The steps of a live ACTIVATE, and how it is abandoned (14_live_update.md R379-R385). -/
namespace Sys2Proof.Machine

/-- CHUNK_MISMATCH. -/
def stChunkMismatch : Nat := 0x79
/-- SEQUENCE. -/
def stSequence : Nat := 0x7A
/-- SPARE_IN_USE. -/
def stSpareInUse : Nat := 0x7B
/-- INCOMPATIBLE. -/
def stIncompatible : Nat := 0x7C
/-- ASSET_REFUSED. -/
def stAssetRefused : Nat := 0x7E
/-- HANDOVER_ABANDONED. -/
def stAbandoned : Nat := 0x7F

/-- UPD_STATUS.RESTART_NEEDED is set. -/
def restartNeeded (s : State) : State := s.raise Reg.updStatusRestartNeeded

/-- A live ACTIVATE is abandoned: the image stays WRITTEN, and its command completes HANDOVER_ABANDONED with the roles handed
over as its result. -/
def abandonActivation (s : State) : State :=
  match s.upd.act with
  | some a =>
    complete (restartNeeded { s with upd := { s.upd with act := none, phase := .written } }) 10 a.tag stAbandoned a.roles
  | none => s

/-- An engine fault, or a section that fails its digest, during a live ACTIVATE (R383): MIXED where some role runs the new
microcode. -/
def abandonMixed (s : State) : State :=
  match s.upd.act with
  | some a => abandonActivation (if a.roles = 0 then s else s.raise Reg.updStatusMixed)
  | none => s

/-- The microcode version of the oldest role running (UPD_VER_MC). -/
def microRunning (s : State) : Nat := s.upd.runningMicro.getD (leAt (runningHeader s) 12 4)

/-- State record format of role `r` as running. -/
def formatRunning (s : State) (r : Nat) : Nat := nth 0 s.upd.formats r

/-- The first condition of R380 that refuses a live ACTIVATE of the image in flash with this blob; OK for none. A role that is still
vacant refuses it as one that the spare carries (log 152, DESIGN CHOICE). -/
def activateStatus (s : State) (blob : Bytes) : Nat :=
  let h := s.upd.header
  if s.upd.spareRole.isSome || s.pwr.vacant.isSome then stSpareInUse
  else if microRunning s < leAt h 20 4 then stIncompatible
  else if (List.range 14).any (fun r => decide (formatRunning s r < byteAt h (58 + r))) then stIncompatible
  else if s.upd.cfgFormat < hdrFormat h && !(!blob.isEmpty && blobVersion blob = hdrFormat h) then stIncompatible
  else stOk

/-- The spare takes over the role and the old engine takes the spare role (R381). -/
def swapEngine (m : List Nat) (r : Nat) : List Nat := (m.set r (nth 0 m 14)).set 14 (nth 0 m r)

/-- Role `n` runs the new microcode (R381): past the first swap the ACTIVATE can no longer be aborted. -/
def roleSwapped (s : State) (a : Activation) (n : Nat) : State :=
  let h := s.upd.header
  let micro := if n = 13 then leAt h 12 4 else min (microRunning s) (leAt h 12 4)
  let next : ActStep := if n = 13 then .app else .role (n + 1)
  let s := { s with upd := { s.upd with
    engmap := swapEngine s.upd.engmap n, formats := s.upd.formats.set n (byteAt h (44 + n)), runningMicro := some micro,
    act := some { a with step := next, roles := n + 1 } } }
  markTaken (s.setStat Reg.updProgressRoles (n + 1)) 10 a.tag true

/-- Ticks that the refill of the old bank takes (R382): its most, 20 ms. -/
def refillTicks : Nat := 20

/-- APP runs the new image (R382, R385): a blob carried is applied at the switch, and the old bank is refilled. The roles already
run the new microcode. -/
def appSwitches (s : State) (a : Activation) : State :=
  let f := hdrFormat s.upd.header
  let s := match a.blob with
    | some b => (applyBlob f b s).1
    | none => s
  { s with upd := { s.upd with
      running := s.upd.mainHeader, cfgFormat := max s.upd.cfgFormat f,
      act := some { a with step := .refill (s.now + refillTicks) } } }

/-- APP falls back to the old bank, which still holds the old image, where its refill has not ended (R382). A blob applied at the
switch stays (log 157, DESIGN CHOICE). -/
def appFallsBack (s : State) : State :=
  match s.upd.act with
  | some a =>
    match a.step with
    | .refill _ => { s with upd := { s.upd with running := a.old, runningMicro := some (microRunning s) } }
    | .role _ | .app => s
  | none => s

/-- A live ACTIVATE that has handed over every role and APP raises the floor where its image asks for it, and completes (R379). -/
def activationDone (s : State) (a : Activation) : State :=
  let h := s.upd.header
  let floor := if bitAt (byteAt h 26) 0 then max s.upd.floor (hdrSecver h) else s.upd.floor
  complete { s with upd := { s.upd with floor := floor, act := none, phase := .idle } } 10 a.tag stOk a.roles

/-- The refill of the old bank has ended, and the ACTIVATE completes (R382; log 157). -/
def refillEnds (s : State) : State :=
  match s.upd.act with
  | some a =>
    match a.step with
    | .refill due => if s.running && decide (due ≤ s.now) then activationDone s a else s
    | .role _ | .app => s
  | none => s

end Sys2Proof.Machine
end

