-- ==== Sys2Proof/Machine/StartOps.lean ====
section
/-! DEFINITION. The steps of a start: what the store, the fuses and the images give back
(15_power_and_supervision.md R402; 13_laurel_store.md R355-R367; 07_cipher_and_keys.md R180-R182; 08 R218-R224; 09 R240;
10 R267, R277; 14 R373, R385). -/
namespace Sys2Proof.Machine

/-! ### The store (13 R353-R367) -/

/-- A log area, whose records do not replace one another. -/
def Area.isLog (a : Area) : Bool := a == .receipt || a == .audit

/-- Keys and generations that the valid records of the store name, each once; logs apart. -/
def storeKeys (s : State) : List (Nat × Option Nat) :=
  s.nvs.recs.foldl (fun acc r =>
    if r.area.isLog || !recValid s r || acc.contains (r.key, r.data.gen) then acc else acc ++ [(r.key, r.data.gen)]) []

/-- Two records with one sequence and different data set TIE, with an event record of the key and the sequence (R355). -/
def noteTies (s : State) : State :=
  (storeKeys s).foldl (fun (t : State) e =>
    let l := (recsOf s e.1).filter (fun r => r.data.gen == e.2)
    if standingTie l then raiseEvent t Reg.nvsFaultTie blkNvs (leBytes 2 e.1 ++ leBytes 4 (topSeq l)) else t) s

/-- A critical key of which records stand but none passes its checks (R355). -/
def criticalLost (s : State) : Bool :=
  s.nvs.recs.any (fun r => r.area.inCode && r.committed && !(r.headOk && r.checks) && (recsOf s r.key).isEmpty)

/-- The write sector of the area holds such a record. -/
def writeSectorHas (s : State) (a : Area) (p : StoredRec → Bool) : Bool :=
  s.nvs.recs.any (fun r => r.area == a && r.sector == (s.area a).writeSector && p r)

/-- A sector with an uncommitted record is FULL, and so is one in which a header check fails (R353); TORN is set where a record
was cut short, so that the sector was not FULL before (R364). -/
def closeTorn (s : State) : State :=
  allAreas.foldl (fun (t : State) a =>
    let v := t.area a
    if v.full then t
    else if writeSectorHas s a (fun r => !r.committed) then (t.setArea a { v with full := true }).raise Reg.nvsFaultTorn
    else if writeSectorHas s a (fun r => !r.headOk) then t.setArea a { v with full := true }
    else t) s

/-- What a 16-byte sector header says as it reads (R350). -/
def headerRead (a : Area) (k : Nat) (h : Bytes) (v : AreaState) : AreaState :=
  let formatted := byteAt h 0 = 0 && byteAt h 4 = a.code && decide (byteAt h 5 ≤ 1) && leAt h 6 2 = 0 && leAt h 12 4 = 0
  if !formatted then
    { (if k = v.writeSector && nextIsFree a v then nextSector a v else v) with
      unformatted := k :: v.unformatted.filter (fun x => x != k) }
  else if byteAt h 3 ≠ 0xFF then
    if k = oldestSector a v && v.taken ≠ 0 then { v with erasing := true }
    else { v with erase := k :: v.erase.filter (fun x => x != k) }
  else if k = v.writeSector then
    { v with inUse := v.inUse || byteAt h 1 ≠ 0xFF, full := v.full || byteAt h 2 ≠ 0xFF }
  else v

/-- What the flashes read at a start where it is not what was programmed: sector headers, and records of which the header check or
the CRC-32 fails (R350, R353, R363). -/
def flashRead (r : StartResult) (s : State) : State :=
  let recs := s.nvs.recs.zipIdx.map (fun e =>
    { e.1 with headOk := e.1.headOk && !r.badHeads.contains e.2, checks := e.1.checks && !r.badData.contains e.2 })
  r.headers.foldl (fun (t : State) e => match allAreas[e.1]? with
      | some a => if e.2.1 < a.sectors then t.setArea a (headerRead a e.2.1 e.2.2 (t.area a)) else t
      | none => t)
    { s with nvs := { s.nvs with recs := recs } }

/-- Header key of the set that a member belongs to. -/
def setHeader (key : Nat) : Nat := if key < 0x10 then 0x0001 else 0x0060

/-- A record stands on copy A alone (R357): live, with no copy B at its sequence; a set member only of a complete set. -/
def copyAOnly (s : State) (r : StoredRec) : Bool :=
  r.area == .critA && recLive s r &&
    !(recsOf s r.key).any (fun x => x.area == .critB && decide (r.seq ≤ x.seq)) &&
    (match r.data.gen with
     | some g => setComplete s (setHeader r.key) g
     | none => true)

/-- The keys whose copy B has still to be written. -/
def singleKeys (s : State) : List Nat := ((s.nvs.recs.filter (copyAOnly s)).map StoredRec.key).eraseDups

/-- The cells of a configuration part. -/
def RecData.cells : RecData → Cells
  | .cfgPart _ c => c
  | _ => []

/-- The format that a configuration header names (14 R385). -/
def RecData.format : RecData → Nat
  | .cfgHeader _ _ f => f
  | _ => 0

/-- The configuration format of the main image that the start runs; 2 as delivered (12 R346 HIF_CFGVER). -/
def imageFormat (s : State) : Nat :=
  match s.upd.mainHeader with
  | some h => hdrFormat h
  | none => 2

/-- The configuration of the highest complete generation is held and in force; without one every field keeps its default
(R356; 12 R330). -/
def resolveConfig (s : State) : State :=
  match highestSet s 0x0001 (fun _ => true) with
  | some g =>
    let c := (setParts s 0x0001 g).flatMap RecData.cells
    let f := match setMember s 0x0001 g with
      | some h => h.format
      | none => imageFormat s
    { s with heldCells := c, forceCells := c, nvs := { s.nvs with cfgGen := g }, upd := { s.upd with cfgFormat := f } }
  | none => { s with upd := { s.upd with cfgFormat := imageFormat s } }

/-- A configuration in an older format than that of the image that runs is reset to its defaults, and stored so (14 R385). -/
def configFormatChecked (s : State) : State :=
  let f := imageFormat s
  if s.upd.cfgFormat < f then
    let t := olderReported s.upd.cfgFormat f ((configRegs s).foldl (fun t o => registerDefaulted o t) s)
    let t := (blobAudited (configBlob s) s t).raise Reg.updStatusCfgReset
    { t with upd := { t.upd with cfgFormat := f }, hif := { t.hif with cfgChanged := true } }
  else s

/-- Everything held comes into force. -/
def allInForce (s : State) : State :=
  { applyTiming .meterSettings (applyTiming .boundary s) with
    boundaryDue := false, mtr := { s.mtr with settingsPending := false } }

/-- With no configuration record, the fields whose default is the record's own limit take it (03 R69; 05 R140; 12 R330). -/
def recordDefaults (s : State) : State :=
  if (highestSet s 0x0001 (fun _ => true)).isSome then s
  else
    [Reg.lfDutyCapChan, Reg.lfDutyCapArray, Reg.uwbTxpwrLevel].foldl (fun s f =>
      match specOf f with
      | some r => (s.setHeld f (defaultOf s r)).setForce f (defaultOf s r)
      | none => s) s

/-- The regulatory record of the store is in force (05 R128, R132). -/
def resolveRegRec (s : State) : State :=
  match standing s 0x0010 with
  | some (.regRec b) =>
    recordTakesEffect (recordDefaults { s with rad := { s.rad with regRec := some b, regPending := some b } })
  | _ => s

/-- SE12 resolves the configuration before anything else, then the areas (R364, R367). -/
def resolveStore (s : State) : State :=
  let s := noteProfile (resolveRegRec (allInForce (configFormatChecked (resolveConfig (closeTorn (noteTies s))))))
  let s := if criticalLost s then s.raise Reg.nvsFaultLost else s
  (s.setStat Reg.nvsStatusMode (s.eff Reg.nvsCtrlPumode)).setStat Reg.nvsStatusReady 1

/-! ### Keys, counters and numbers (07 R180, R182, R443; 09 R240; 10 R274-R278) -/

/-- The device-unique key is generated at the first start in BLANK and held in fuses (R182). -/
def makeUniqueKey (s : State) : State :=
  if s.cip.lifeCycle == .blank && s.cip.uniqueKey.isNone then
    let (a, s) := s.draw
    let (b, s) := s.draw
    { s with cip := { s.cip with uniqueKey := some (a * 2 ^ 128 + b) } }
  else s

/-- Slot 0 takes the device-unique key (R182, R443). -/
def fillSlot0 (s : State) : State :=
  match s.cip.uniqueKey with
  | some k =>
    if s.cip.lifeCycle == .scrapped then s
    else
      let (v, s) := maskedSlot s k 0x0000F1E4 0
      s.setSlot 0 v
  | none => s

/-- Slot 2 is derived from slot 0, a job under slot 0; the spec does not state the derivation (R182, R443; log 64). -/
def deriveSlot2 (s : State) : State :=
  match s.cip.uniqueKey with
  | some k =>
    if s.cip.lifeCycle == .scrapped then s
    else
      let (v, s) := maskedSlot (useSlot s 0) (Config.sealingKey k).toNat 0x0000F3E3 0
      s.setSlot 2 v
  | none => s

/-- A slot is restored from its sealed copy; one that fails its tag leaves the slot empty, with an event record (R182). -/
def restoreSlot (s : State) (n : Nat) : State :=
  match standing s (0x20 + n) with
  | some (.sealed b) =>
    let s := useSlot s 2
    match unsealed s b with
    | some p =>
      let (v, s) := maskedSlot s (beNat (p.take 32)) (leAt p 32 4) (leAt p 36 4)
      s.setSlot n v
    | none => event (s.setSlot n KeySlot.empty) blkKey 0x20 [BitVec.ofNat 8 n]
  | _ => s.setSlot n KeySlot.empty

/-- Slots 1 and 3-63 are restored from their sealed copies (R182). -/
def restoreSlots (s : State) : State := (1 :: (List.range 64).drop 3).foldl restoreSlot s

/-- Counters and session numbers resume from their persisted ceilings, and every counter ceiling is raised (R180, 09 R240). -/
def resumeCounters (s : State) : State :=
  let s := match standing s 0x0140 with
    | some (.ceilings h n) =>
      { s with cip := { s.cip with counters := h, ceilings := h }, rel := { s.rel with next := n, ceiling := n } }
    | _ => s
  nvRequest s [dataItem .state 0x0140 (.ceilings (raiseCeilings s.cip.ceilings) s.rel.ceiling)] .startCeilings

/-- The highest receipt of this receipt-key epoch in the log. -/
def highestLogged (s : State) : Nat :=
  s.nvs.recs.foldl (fun m r => match r.data with
    | .receipt n b => if recValid s r && leAt b 12 2 = s.mtr.epoch then max m n else m
    | _ => m) 0

/-- A receipt of this session stands in the log (log 71). -/
def receiptLogged (s : State) (number : Nat) : Bool :=
  s.nvs.recs.any (fun r => match r.data with
    | .receipt _ b => recValid s r && leAt b 12 2 = s.mtr.epoch && leAt b 8 4 = number && byteAt b 0 = 5
    | _ => false)

/-- The receipt of this roll-up stands in the log: it has been committed, though the record that closes it has not. -/
def rollUpLogged (s : State) (d : Draft) : Bool :=
  s.nvs.recs.any (fun r => match r.data with
    | .receipt _ b => recValid s r && leAt b 12 2 = s.mtr.epoch && byteAt b 0 = 6 && leAt b 8 4 = d.session &&
        leAt b 92 4 = d.first
    | _ => false)

/-- The roll-up that is open at a start: as it was kept with the receipts not committed, else as its record stands; closed once its
receipt is in the log (10 R276). -/
def openRollUp (s : State) : Option RollUp :=
  let r := match s.mtr.rollup, standing s 0x0142 with
    | some r, _ => some r
    | none, some (.rollup r) => r
    | none, _ => none
  r.filter (fun d => !rollUpLogged s d)

/-- Receipt numbers, the acknowledgement and the epoch resume; receipts not acknowledged are posted again, those not committed
are kept, and an open roll-up that finds room in the log comes before them (10 R273-R278). -/
def resumeReceipts (s : State) : State :=
  let s := match standing s 0x0141 with
    | some (.receiptState acked epoch next reloaded) =>
      { s with mtr := { s.mtr with rcptAck := acked, epoch := epoch, rcptNext := next, reloaded := reloaded } }
    | _ => s
  let s := { s with mtr := { s.mtr with
    rcptNext := max s.mtr.rcptNext (highestLogged s + 1), post := s.mtr.rcptAck + 1 } }
  let kept (d : Draft) : Bool := d.kind = 5 && !receiptLogged s d.session
  let s := { s with mtr := { s.mtr with due := s.mtr.due.filter kept, formed := s.mtr.formed.filter kept } }
  match openRollUp s with
  | some r =>
    if logFull s then { s with mtr := { s.mtr with rollup := some r } }
    else { s with mtr := { s.mtr with formed := r :: s.mtr.formed, rollup := none } }
  | none => { s with mtr := { s.mtr with rollup := none } }

/-- The lifetime counters resume from the newest checkpoint; without FINAL the first receipt says so (10 R267, 13 R364). -/
def resumeMeter (s : State) : State :=
  match standing s 0x0100 with
  | some (.checkpoint c) =>
    let t := { s with mtr := { s.mtr with
      imp := c.imp, exp := c.exp, chIn := c.chIn, chOut := c.chOut, gap := c.gap } }
    if c.final then t
    else { t.raise Reg.nvsFaultPfIncomplete with nvs := { t.nvs with firstReceiptFlag := true } }
  | _ => s

/-- The receipt of this session is formed, or still due. -/
def receiptKept (s : State) (number : Nat) : Bool := (s.mtr.due ++ s.mtr.formed).any (fun d => d.session = number)

/-- The sessions that were open when the device stopped, by number (10 R277). -/
def lostSessions (s : State) : List SessionEntry :=
  (entries.filterMap (fun i => match standing s (0x0101 + i) with
    | some (.session e) => if e.live && !receiptLogged s e.number && !receiptKept s e.number then some e else none
    | _ => none)).mergeSort (fun a b => decide (a.number ≤ b.number))

/-- The own counters of a session as the checkpoint holds them: those of the bearer stand in the checkpoint's first record. -/
def checkpointOwn (c : MeterCheckpoint) (e : SessionEntry) : List Nat :=
  if c.bearer = e.number then c.bearerOwn else [e.imp, e.exp, e.chIn, e.chOut]

/-- The receipt of a session that ended with cause 0x0A: figures and flags are those of the checkpoint, and flag bit 4 is set
(10 R277). -/
def lostDraft (s : State) (c : MeterCheckpoint) (e : SessionEntry) : Draft :=
  { sessionDraft s e 0x0A with
    ended := c.rtc, life := [c.imp, c.exp, c.chIn, c.chOut], own := checkpointOwn c e, flags := setBit e.flags 4 }

/-- The session-table entry that the checkpoint holds of a session. -/
def checkpointed (s : State) (number : Nat) : Option SessionEntry :=
  (entries.filterMap (fun i => match standing s (0x0101 + i) with
    | some (.session e) => if e.number = number then some e else none
    | _ => none)).head?

/-- A receipt that SE9 had not formed is formed from the newest checkpoint: its end time and its figures (10 R277). -/
def lateDraft (s : State) (c : MeterCheckpoint) (d : Draft) : Draft :=
  { d with
    ended := c.rtc, life := [c.imp, c.exp, c.chIn, c.chOut], flags := setBit d.flags 4,
    own := match checkpointed s d.session with
      | some e => checkpointOwn c e
      | none => d.own }

/-- Receipts not formed are formed from the checkpoint, every session lost ends with cause 0x0A, its event record and its
receipt, and SE9 goes on with what is formed (09 R244; 10 R273, R277). -/
def endLostSessions (s : State) : State :=
  let s := match standing s 0x0100 with
    | some (.checkpoint c) =>
      (lostSessions s).foldl (fun (t : State) e =>
        receiptDue (sessEvent { t with mtr := { t.mtr with changed := true } } evEnded 0x0A e) (lostDraft t c e))
        { s with mtr := { s.mtr with due := s.mtr.due.map (lateDraft s c) } }
    | _ => s
  startReceipt s

/-- Pending checks of token writes (04 R98). -/
def resumeChecks (s : State) : State :=
  match standing s 0x0143 with
  | some (.pendingChecks l) => { s with tpx := { s.tpx with checks := l } }
  | _ => s

/-! ### The Holly table and its lock-outs (08 R218, R224; 13 R356) -/

/-- A set's effective time has come. While the RTC is unset only a set with effective time 0 is in force (R356). -/
def setDue (s : State) : RecData → Bool
  | .hollyHeader _ _ _ t _ => t = 0 || (s.rtcSet && t ≤ s.rtc)
  | _ => false

/-- The slots of a part. -/
def RecData.slotsOf : RecData → Tbl HollySlot
  | .hollyPart _ l => l
  | _ => []

/-- The set of a complete generation. -/
def storedSet (s : State) (g : Nat) : HollySet :=
  match setMember s 0x0060 g with
  | some (.hollyHeader _ epoch ind time _) =>
    { individual := ind, epoch := epoch, time := time, slots := (setParts s 0x0060 g).flatMap RecData.slotsOf }
  | _ => HollySet.empty

/-- The slot in force that holds the identifier of slot `i` in the set of generation `g` (08 R219). -/
def slotSince (s : State) (g i : Nat) : Option Nat :=
  findHolly s (tblGet HollySlot.empty (storedSet s g).slots i).id

/-- The lock-out states recorded for the slots of part `p`, each with its slot in the table in force: those of another
generation go with their identifiers, to slots of which no record of the generation in force speaks (08 R219). -/
def storedLocks (s : State) (p : Nat) : List (Nat × Nat × LockState) :=
  let inForce (k : Nat) : Bool := match standing s (0x0110 + k) with
    | some (.lockout g _ _) => g == s.aut.genInForce
    | _ => false
  match standing s (0x0110 + p) with
  | some (.lockout g rtc l) =>
    if g = s.aut.genInForce then l.map (fun e => (rtc, e.1, e.2))
    else l.filterMap (fun e => match slotSince s g e.1 with
      | some j => if inForce (j / 48) then none else some (rtc, j, e.2)
      | none => none)
  | _ => []

/-- The lock-outs are recorded again where what stands in the store is not what is in force: those carried over to a set that took
effect, whose records name the generation before it (08 R219, R224). -/
def noteLocks (s : State) : State := { s with aut := { s.aut with locksChanged := !(lockItems s).isEmpty } }

/-- Restore the lock-outs; while the RTC is unset, those in force at the last checkpoint are held (08 R224). -/
def resumeLocks (s : State) : State :=
  let l := (List.range 43).flatMap (storedLocks s)
  let held := (l.filter (fun e => decide (e.1 < e.2.2.lockEnd))).map (fun e => e.2.1)
  let s := { s with aut := { s.aut with
    locks := l.foldl (fun t e => tblPut LockState.zero t e.2.1 e.2.2) [], heldLocks := if s.rtcSet then [] else held } }
  noteLocks (match standing s 0x013F with
    | some (.unknown rtc u) =>
      { s with aut := { s.aut with unknown := u, heldUnknown := !s.rtcSet && decide (rtc < u.lockEnd) } }
    | _ => s)

/-- The table in force is the highest complete generation whose time has come; a higher one is pending (13 R356). -/
def resumeHolly (s : State) : State :=
  let g := highestSet s 0x0060 (setDue s)
  let top := highestSet s 0x0060 (fun _ => true)
  let s := { s with aut := { s.aut with
    gen := hollyGenFound s, genInForce := g.getD 0,
    table := match g with
      | some g => storedSet s g
      | none => HollySet.empty,
    pendingSet := match top with
      | some t => if g.getD 0 < t then some (storedSet s t) else none
      | none => none } }
  resumeLocks s

/-! ### Code and engines (14 R373; 01 R10, R14) -/

/-- The formats of state records that a header gives the roles SE0-SE13. -/
def headerFormats (h : Bytes) : List Nat := (List.range 14).map (fun r => byteAt h (44 + r))

/-- The main image runs: every role on its own engine, the spare free. -/
def imageRuns (s : State) : State :=
  { s with upd := { s.upd with
    running := s.upd.mainHeader, runningMicro := none,
    formats := headerFormats (s.upd.mainHeader.getD Config.factoryHeader),
    engmap := List.range 15, spareRole := none } }

/-- SE0-SE13 have come out of reset. -/
def allEngines (mask : Nat) : Bool := mask % 2 ^ 14 = 2 ^ 14 - 1

/-- The lowest engine of SE0-SE13 that has not. -/
def missingEngine (mask : Nat) : Nat := ((List.range 14).find? (fun e => !bitAt mask e)).getD 0

/-- All calibrations run at the start (05 R123). -/
def startCalibrations (failed : Nat) (s : State) : State :=
  let s := calPassed s (clearBits 63 (failed % 64))
  let s := if failed % 16 = 0 then s else calFails s false
  let s := if bitField failed 4 2 = 0 then s else calFails s true
  oscStarts { s with
    sgr := { s.sgr with tlast := s.pwr.temp, tlastValid := true, phase := sgrRest s },
    uwb := { s.uwb with tlast := s.pwr.temp, tlastValid := true } }

/-- The areas in which an erase was interrupted. -/
def interruptedErases (s : State) : List Nat :=
  (allAreas.filter (fun a => (eraseTarget (s.area a) a).isSome)).map Area.idx

/-- In W2108 mode SE12 completes what was interrupted before it serves a request (13 R367): the erases that it repeats and the
copies B that are missing come first, as SECTOR_ERASE_DONE and RECORD_WRITE_DONE report them, each under the supply check
(13 R360; log 134). -/
def completesInterrupted (s : State) : State :=
  { s with nvs := { s.nvs with
      single := singleKeys s, repeatErase := if s.on Reg.nvsCtrlPumode then interruptedErases s else [] } }

/-- Steps 5 to 7: the store, the keys and counters, the tables, the fabric's ports, which begin training, and the place on the fabric. -/
def stateRestored (s : State) : State :=
  let s := resolveStore s
  let s := restoreSlots (deriveSlot2 (fillSlot0 (makeUniqueKey s)))
  let s := resumeChecks (resumeMeter (resumeReceipts (resumeCounters s)))
  let s := endLostSessions s
  let s := importResumed (resumeHolly s)
  let s := [0, 1, 2, 3].foldl portTrains (completesInterrupted s)
  judgeHead { s with hif := { s.hif with subsys := heldWord s 0x0430 } }

/-- Step 8: SYS_STATE reads RUNNING and APP serves its rings. Without a record NO_REGREC is set (05 R131), and without a usable
channel CHAN_NONE (05 R112). SE13 takes its first sample of the die temperature (R414; log 162, DESIGN CHOICE). -/
def runs (calFailed : Nat) (temp : Int) (s : State) : State :=
  let s := noteChannels (if s.rad.regRec.isNone then s.raise Reg.sgrFaultNoRegrec else s)
  let s := tempTaken { s with mode := .running, pwr := { s.pwr with appServing := true } } temp
  if s.mode == .failed then s else startCalibrations calFailed s

/-- The start does not finish: APP runs the loader copy that was chosen, which serves ring 10 alone (14 R373). Where no copy is valid,
copy 0 is taken for the one that runs (log 135, DESIGN CHOICE). -/
def recovers (loader : Option Nat) (s : State) : State :=
  { s with mode := .recovery, upd := { s.upd with loaderRan := loader.getD 0 } }

/-- The 38.4 MHz source is taken as reset is released: a TCXO where XI38 swings 0.5 V or more, and then the crystal amplifier
stays off (16 R432). -/
def sourceTaken (swing : Nat) (s : State) : State :=
  { s with pwr := { s.pwr with tcxo := decide (500 ≤ swing), amp38 := decide (swing < 500) } }

/-- What verification gives (steps 3 and 4, and the manifest digests of steps 5 and 7): the loader copy that runs, if the
main image passes every check. -/
def codeVerified (r : StartResult) (s : State) : Option Nat :=
  match loaderChosen s r.loader0 r.loader1 with
  | some c => if mainVerified s r.main && r.bundle && r.roles then some c else none
  | none => none

/-- The steps after verification. Another failure of step 6 or 7 ends in FAILED at the end of the sequence. -/
def startRuns (r : StartResult) (loader : Nat) (s : State) : State :=
  let s := imageRuns { s with upd := { s.upd with loaderRan := loader },
                              fab := { s.fab with xspi := if s.stat Reg.pwrStatusIo33 = 1 then 0 else r.xspi },
                              pwr := { s.pwr with pinsTaken := true } }
  let s := stateRestored (flashRead r s)
  if !r.restored then enterFailed s 0x02 0
  else if !r.knownAnswers then enterFailed s 0x09 0
  else if !allEngines r.engines then enterFailed s 0x02 (missingEngine r.engines)
  else runs r.calFailed r.temp s

end Sys2Proof.Machine
end

