-- ==== Sys2Proof/Machine/PowerOps.lean ====
section
/-! DEFINITION. The deep rungs, engine faults and the island relocks as operations (15_power_and_supervision.md R394-R399,
R406-R408). -/
namespace Sys2Proof.Machine

/-! ### The deep rungs (R395, R396; 11 R309) -/

/-- TWIG and COPPICE as PWR_IDLE.DEEP codes them. -/
def rungTwig : Nat := 3
/-- COPPICE. -/
def rungCoppice : Nat := 4

/-- The conditions of R395. -/
def mayDescend (s : State) : Bool :=
  s.running && s.pwr.deep.isNone && s.on Reg.pwrIdleDeepAfter && !s.on Reg.lfPollEn && !s.on Reg.tpxCtrlEn &&
    restRung s == 2 && !(s.fab.head && s.stat Reg.hifStatusLinkUp != 0 && !s.hif.d3hot) && !workNow s

/-- The sleep HELLO leaves an enabled ring port before the descent, through no queue (11 R309; log 131). -/
def sendSleepHello (s : State) (port : Nat) : State :=
  if portEnabled s port then
    let (f, t) := helloFrame s port true
    sendSymbols t port (blockSymbols f 0)
  else s

/-- Descend to the deep rung: the working key register is cleared, masking pauses, and at COPPICE every slot is zeroed (R396). -/
def descend (s : State) : State :=
  let d := s.eff Reg.pwrIdleDeep
  let s := maskingPauses <| clearWorkingKey (sendSleepHello (sendSleepHello s 0) 1)
  let s := sgrIdleAt s .off
  { s with
    pwr := { s.pwr with deep := some d },
    uwb := { s.uwb with phase := .off, lock := false, time := 0 },
    cip := { s.cip with slots := if d = rungCoppice then [] else s.cip.slots } }

/-- Rise to BLOOM: from COPPICE the slots are restored, with fresh masks, before any job; every port trains (R396; 11 R309). -/
def rise (s : State) : State :=
  let cold := s.pwr.deep == some rungCoppice
  let s := { s with pwr := { s.pwr with deep := none } }
  let s := if cold then restoreSlots (deriveSlot2 (fillSlot0 { s with cip := { s.cip with restMasks := 0 } })) else s
  [0, 1, 2, 3].foldl portTrains s

/-- Some door is enabled. -/
def someDoor (s : State) : Bool := [0, 1, 2, 3].any (doorEnabled s)

/-- The wake source acts at the deep rung held (R395). -/
def wakes (s : State) (source : Nat) : Bool :=
  match s.pwr.deep with
  | none => false
  | some d =>
    match source with
    | 0 => someDoor s && d == rungTwig
    | 1 => someDoor s
    | 2 => d == rungTwig
    | 3 => s.on Reg.pwrAlarm
    | 4 => s.fab.head && d == rungTwig
    | _ => false

/-! ### Relocks (R399) -/

/-- Islands as the fault history names them: places in the island table of 01 (DEDUCED, log 66). -/
def islandApp : Nat := 2
/-- LF. -/
def islandLf : Nat := 5
/-- RADIO. -/
def islandRadio : Nat := 6
/-- METER. -/
def islandMeter : Nat := 7
/-- KEEP. -/
def islandKeep : Nat := 8

/-- An island relocks: RELOCK is set and a single fault recorded; a second relock of it within 1 s ends in FAILED. -/
def relock (s : State) (k island : Nat) : State :=
  let last := tblGet 0 s.pwr.relocks k
  let again := last != 0 && decide (s.now + 1 ≤ last + 1000)
  let t := { s with pwr := { s.pwr with relocks := tblPut 0 s.pwr.relocks k (s.now + 1) } }
  let t := singleFault t Reg.pwrFaultRelock 0x04 island
  if again then enterFailed t 0x05 island else t

/-- A context is in a radio step (02 R43). -/
def inRadioStep (c : Ctx) : Bool := c.phase == .challenging || c.phase == .ranging || c.phase == .bounding

/-- The time of a relock of the metrology PLL is unmetered. Its length is what the device measured, a free value (log 65). -/
def relockGap (s : State) : Nat := (Config.relockGap s.pwr.singleFaults).toNat

/-! ### Engine faults (R407, R408; 01 R12-R15) -/

/-- The step of the context runs on this role (02 R43; log 68). -/
def stepOfRole (role : Nat) (c : Ctx) : Bool :=
  match role with
  | 3 => c.phase == .challenging
  | 4 | 5 => c.phase == .keyed || c.phase == .ranging || c.phase == .bounding
  | 6 => c.phase == .fusing || c.phase == .granting
  | _ => false

/-- Contexts of a faulted role end ENGINE_FAULT. -/
def endRoleCtxs (s : State) (role : Nat) : State :=
  let s := if role = 4 || role = 5 then roundOver s else s
  endCtxs s (stepOfRole role) ocEngineFault

/-- An engine that carries a role faults (R407): a second such fault, or a spare that failed its test or has faulted itself, ends in FAILED; else
the role waits for the spare, a live ACTIVATE is abandoned (14 R383), and the contexts of the role end. -/
def engineFaults (s : State) (role : Nat) : State :=
  if s.pwr.vacant.isSome || s.upd.spareRole.isSome then enterFailed s 0x01 role
  else if s.stat Reg.pwrStatusSpareBad = 1 || s.pwr.deadEngines.contains (nth 0 s.upd.engmap 14) then enterFailed s 0x07 role
  else
    let s := abandonMixed s
    let s := { s with pwr := { s.pwr with
      vacant := some ⟨role, s.now⟩, deadEngines := nth 0 s.upd.engmap role :: s.pwr.deadEngines } }
    endRoleCtxs s role

/-- The role whose engine this is. -/
def roleOfEngine (s : State) (e : Nat) : Option Nat := (List.range 14).find? (fun r => nth 0 s.upd.engmap r == e)

/-- The faulted transponder engine's write is decided by its latest checkpoint, and the field turns off (04 R94). Where that
checkpoint holds no step of a write, the step in progress at the takeover decides it (DESIGN CHOICE, log 119). -/
def coilTakenOver (s : State) : State :=
  let p := match s.tpx.phase, s.tpx.mark with
    | .secured _, .secured step => CoilPhase.secured step
    | p, _ => p
  fieldCollapse { s with tpx := { s.tpx with phase := p } } ocEngineFault

/-- The spare runs the vacant role. -/
def takesOver (s : State) (role : Nat) : State :=
  let s := { s with
    pwr := { s.pwr with vacant := none },
    upd := { s.upd with engmap := swapEngine s.upd.engmap role, spareRole := some role } }
  let s := singleFault s Reg.pwrFaultTakeover 0x01 role
  let s := if role = 2 then coilTakenOver s else s
  selftestBit s (s.pwr.selftests.map SelfTest.tag) 4 false

/-- APP warm-restarts from the retained bank; a live ACTIVATE is abandoned (14 R382), and its rings go on (R409). -/
def appRestarts (s : State) : State :=
  abandonActivation (appFallsBack (singleFault s Reg.pwrFaultAppRestart 0x02 islandApp))

/-! ### ECC (R406) -/

/-- The first frame of a queue that lies in the on-chip cells is discarded as a drop (11 R299); where its blocks were being
sent, the output goes on with what waits, and a retiring bank may have lost its last frame (11 R304). -/
def dropCellFrame (s : State) (o c : Nat) : State :=
  let q := s.queue o c
  match q.frames.find? (fun f => !f.spilled) with
  | some f =>
    let t := countDrop (freeCells (s.setQueue o c { q with frames := removeFirst (fun f => !f.spilled) q.frames }) f) c
    retireCheck (if txClass s o == some c && q.frames.head? == some f then startBlock t o else t)
  | none => s

/-- A key slot is written again as at the exit from COPPICE (R396). -/
def slotRestored (s : State) (n : Nat) : State :=
  if n = 0 then fillSlot0 s else if n = 2 then deriveSlot2 s else if attrOcc (s.slot n).attr then restoreSlot s n else s

/-- A double-bit error is counted and sets ECC_DOUBLE; the fault of an engine or of APP makes its own entry of the history
(log 87). -/
def countDouble (s : State) : State := (s.bump Reg.pwrEccDouble).raise Reg.pwrFaultEccDouble

/-- The engine of the free spare faults: it carries no role, and can take over none until a restart (R406, R407; log 155, DESIGN
CHOICE). -/
def engineDies (s : State) (e : Nat) : State :=
  if s.running && nth 0 s.upd.engmap 14 == e && !s.pwr.deadEngines.contains e then
    { s with pwr := { s.pwr with deadEngines := e :: s.pwr.deadEngines } }
  else s

/-- A double-bit error by its memory. -/
def doubleError (s : State) (memory unit : Nat) : State :=
  match memory with
  | 0 => if s.running || s.mode == .recovery then appRestarts (countDouble s) else countDouble s
  | 1 =>
    match roleOfEngine s unit with
    | some r => if s.running then engineFaults (countDouble s) r else countDouble s
    | none => engineDies (countDouble s) unit
  | 2 => enterFailed (eccDoubleFault s unit) 0x06 unit
  | 3 => dropCellFrame (eccDoubleFault s unit) (unit / 4) (unit % 4)
  | _ => slotRestored (eccDoubleFault s unit) unit

/-! ### The thermal governor (R414) and drift (05 R120) -/

/-- The die temperature has drifted from a reference by more than `delta` °C. -/
def drifted (t ref : Int) (delta : Nat) : Bool := decide (10 * delta < (t - ref).natAbs)

/-- The calibrations that a drift requests: every one of the radio but the UWB synthesiser's own. -/
def driftMask (s : State) : Nat :=
  (if s.sgr.tlastValid && drifted s.pwr.temp s.sgr.tlast (s.eff Reg.sgrCalTdelta) then 15 else 0) +
    (if s.uwb.tlastValid && drifted s.pwr.temp s.uwb.tlast (s.eff Reg.uwbCalTdelta) then 48 else 0)

end Sys2Proof.Machine
end

