-- ==== Sys2Proof/Machine/Power.lean ====
section
/-! DEFINITION. The power ladder, the clocks, the real-time clock, faults and rings 11 and 14
(15_power_and_supervision.md R394-R418). -/
namespace Sys2Proof.Machine

/-! ### Temperature and rungs (R395, R414) -/

/-- TEMPERATURE_SAMPLE (R414): SE13 takes the die temperature; 155 °C ends in FAILED, the governor level follows, and a
drift requests calibrations (05 R120). -/
def execTemperatureSample (tenths : Int) (s : State) : Ans :=
  inputTo s (.temperatureSample tenths) <| .next <|
  s.when (s.running && s.pwr.deep.isNone) fun s =>
    let s := tempTaken s tenths
    if 1550 ≤ tenths then s else requestCal s (driftMask s)

/-- DEEP_AFTER_EXPIRY (R395): the device descends to PWR_IDLE.DEEP. -/
def execDeepAfterExpiry (s : State) : Ans := .next <| s.when (mayDescend s) descend

/-- WAKE_SOURCE (R395): the device rises to BLOOM; an alarm that acts is cleared (R419). -/
def execWakeSource (source : Nat) (s : State) : Ans := .next <|
  s.when (wakes s source) fun s =>
    let s := if source = 3 then storeField s Reg.pwrAlarm .immediate 0 else s
    rise s

/-- WAKE_SEQUENCE (11 R309): a wake sequence raises the device from TWIG, and it trains the port. -/
def execWakeSequence (port : Nat) (s : State) : Ans := .next <|
  s.when (port < 4 && s.pwr.deep == some rungTwig) fun s => portTrains (rise s) port

/-- VBK_LOSS (R397): VBK falls below 2.0 V while VDD_CORE is absent, at SEED, and the RTC is lost. -/
def execVbkLoss (s : State) (mv : Nat := 0) : Ans := .next <|
  s.when (s.mode == .seed && mv < 2000) fun s =>
    rtcLost { s with pwr := { s.pwr with supplies := s.pwr.supplies.set 5 mv } }

/-! ### Clocks (R398, R399) -/

/-- The system PLL has stopped, and with it SPRIG: RELB stops whatever the grace time. -/
def pllStops (s : State) : State :=
  let s := enterFailed s 0x04 0
  driveOutputs { s with pwr := { s.pwr with sprigStopped := true } }

/-- The LF carrier synthesiser relocks: a wake pattern is aborted (03 R53), a coil field collapses (04 R97). -/
def lfRelocks (s : State) : State :=
  let s := if s.cyc.phase == .pattern then abortPattern s else s
  relock (fieldCollapse s ocNoResponse) 0 islandLf

/-- The RF synthesiser relocks: each context in a radio step ends PREEMPTED. -/
def rfRelocks (s : State) : State :=
  relock (endCtxs (if s.uwb.round.isSome then roundOver s else s) inRadioStep ocPreempted) 1 islandRadio

/-- The metrology PLL relocks: the results of the interval are discarded and its time is unmetered. -/
def meterRelocks (s : State) : State :=
  relock (if s.on Reg.mtrCtrlEn then unmetered s (relockGap s) else s) 2 islandMeter

/-- The 32.768 kHz crystal has stopped: KEEP runs from the RC oscillator (R398). -/
def crystalStops (s : State) : State :=
  singleFault (s.setStat Reg.pwrStatusKeepRc 1) Reg.pwrFaultXtal32 0x05 islandKeep

/-- CLOCK_MONITOR_FLAG (R399). The HOST PLL is left to the link (12 R322). -/
def execClockMonitorFlag (source : Nat) (s : State) : Ans := .next <|
  s.when (s.mode != .seed) fun s =>
    match source with
    | 0 => pllStops s
    | 1 => s.when (s.pwr.deep.isNone) lfRelocks
    | 2 => s.when (rung s ≤ 1) rfRelocks
    | 3 => s.when (rung s ≤ 1) meterRelocks
    | 5 => s.when (s.stat Reg.pwrStatusKeepRc = 0) crystalStops
    | _ => s

/-- XTAL32_RECOVER (R398). -/
def execXtal32Recover (s : State) : Ans := .next <|
  s.when (s.stat Reg.pwrStatusKeepRc = 1) fun s => s.setStat Reg.pwrStatusKeepRc 0

/-! ### The real-time clock (R400, R417) -/

/-- RTC_REFUSED. -/
def stRtcRefused : Nat := 0x80

/-- A small step is due: at most 2 s, and none within the latest 3,600 s (log 74). -/
def smallStepAllowed (s : State) (t : Nat) : Bool :=
  decide ((t : Int) - s.rtc ≤ 2) && decide ((s.rtc : Int) - t ≤ 2) &&
    match s.pwr.smallStep with
    | some k => decide (k + 3600000 ≤ s.now)
    | none => true

/-- The authorisation of a new time under the nonce held. -/
def rtcAuthorised (s : State) (t : Nat) (mac : Bytes) : Bool :=
  match s.pwr.rtcNonce with
  | some (v, _) => attestUsable s && mac.length = 16 && authMac s 0x43 (beBytes 4 t ++ beBytes 16 v) == mac
  | none => false

/-- Lock-outs held because the RTC was lost restart in full at its first setting (08 R224). -/
def heldRestart (s : State) (t : Nat) : State :=
  if s.aut.heldLocks.isEmpty && !s.aut.heldUnknown then s
  else
    let s := s.aut.heldLocks.foldl (fun s i =>
      let l := lockOf s i
      setLock s i { l with lockStart := t, lockEnd := satTo 32 (t + 120 * 2 ^ (min l.level 5 - 1)) }) s
    let u := if s.aut.heldUnknown then { s.aut.unknown with lockEnd := satTo 32 (t + 120) } else s.aut.unknown
    { s with aut := { s.aut with heldLocks := [], heldUnknown := false, unknown := u, locksChanged := true } }

/-- The RTC takes a new time: an audit entry with the times before and after (log 83), and the previous time as the result. -/
def rtcSets (s : State) (tag t : Nat) : State :=
  let old := s.rtc
  let s := if s.rtcSet then s else heldRestart s t
  let s := { s.setStat Reg.pwrStatusRtcValid 1 with pwr := { s.pwr with rtc := t, rtcPhase := 0 } }
  complete (audit s 0x03 13 0x02 reqHost 0 old t 0) 13 tag stOk old

/-- SET_RTC (R400): any value while the RTC is unset, a small step once in 3,600 s, any other with an authorisation, whose
nonce is spent. -/
def execSetRtc (tag : Nat) (data : Bytes) (s : State) : Ans := .next <|
  ringCmdIf 13 0x02 tag (fun d => decide (d.p0 < 2 ^ 32) && (d.len = 0 || d.len = 16) && d.len = data.length) (fun d s =>
    if !s.rtcSet then rtcSets s tag d.p0
    else if smallStepAllowed s d.p0 then rtcSets { s with pwr := { s.pwr with smallStep := some s.now } } tag d.p0
    else
      let ok := rtcAuthorised s d.p0 data
      let s := authJob s.pwr.rtcNonce.isSome s
      let s := { s with pwr := { s.pwr with rtcNonce := none } }
      if ok then rtcSets s tag d.p0 else complete s 13 tag stRtcRefused 0) s

/-- RTC_NONCE (R400). -/
def execRtcNonce (tag : Nat) (s : State) : Ans := .next <|
  ringCmdIf 13 0x03 tag (fun d => d.len = 16) (fun d s =>
    let (v, s) := s.draw
    completeData { s with pwr := { s.pwr with rtcNonce := some (v, s.now) } } 13 d (beBytes 16 v) 0) s

/-- RTC_NONCE_EXPIRY (R400): 60 s after its issue the nonce is no longer valid. -/
def execRtcNonceExpiry (s : State) : Ans := .next <|
  s.when s.pwr.rtcNonce.isSome fun s => { s with pwr := { s.pwr with rtcNonce := none } }

/-! ### Rings 11 and 14 (R416, R418) -/

/-- The 32 bytes of MONITORS. -/
def monitorBytes (s : State) : Bytes :=
  ((List.range 7).flatMap (fun k => leBytes 2 (nth 0 s.pwr.supplies k))) ++ leBytes 2 (unsignedOf 16 s.pwr.temp) ++
    [BitVec.ofNat 8 (govLevel s), BitVec.ofNat 8 (rung s), 0, 0] ++ leBytes 4 (s.stat Reg.pwrEccCorrected) ++
    leBytes 4 (s.stat Reg.pwrEccDouble) ++ leBytes 4 s.pwr.singleFaults

/-- MONITORS (R418). The spec names no result for it: a free value (log 69). -/
def execMonitors (tag : Nat) (s : State) : Ans :=
  inputTo s (.monitors tag) <| .next <|
  ringCmdIf 14 0x01 tag (fun d => d.len = 32) (fun d s =>
    completeData s 14 d (monitorBytes s) (Config.openResult 14 0x01).toNat) s

/-- One entry of the fault history as FAULTS writes it. -/
def faultBytes (e : FaultEntry) : Bytes :=
  [BitVec.ofNat 8 e.code, BitVec.ofNat 8 e.unit] ++ leBytes 2 e.gap ++ leBytes 4 e.rtc ++ leBytes 4 e.time ++ zeroBytes 4

/-- FAULTS (R418): the latest 16 entries, oldest first. The spec names no result for it: a free value (log 69). -/
def execFaults (tag : Nat) (s : State) : Ans :=
  inputTo s (.faults tag) <| .next <|
  ringCmdIf 14 0x02 tag (fun d => d.len = 256) (fun d s =>
    completeData s 14 d (padTo 256 (s.pwr.history.reverse.flatMap faultBytes)) (Config.openResult 14 0x02).toNat) s

/-- SUPERVISION_EVENT_BUFFER (R416): a buffer for an event record. -/
def execSupervisionEventBuffer (tag : Nat) (s : State) : Ans :=
  inputTo s (.supervisionEventBuffer tag) <| .next <| postBuffer 11 0x01 32 tag s

/-! ### Engines, APP and memories (R406-R409, R413; 01 R11) -/

/-- ENGINE_CHECKPOINT (01 R11): a role whose engine works writes its state record; SE2's holds the step of a token write (04 R94). -/
def execEngineCheckpoint (role : Nat) (s : State) : Ans := .next <|
  s.when (s.running && role < 14 && s.roleThere role) fun s =>
    let s := { s with pwr := { s.pwr with checkpoints := tblPut 0 s.pwr.checkpoints role (s.now + 1) } }
    if role = 2 then { s with tpx := { s.tpx with mark := s.tpx.phase } } else s

/-- ECC_ERROR (R406): a single-bit error is corrected and counted; a double-bit error is handled by its memory. -/
def execEccError (memory unit : Nat) (double : Bool) (s : State) : Ans := .next <|
  s.when (s.mode != .seed && memory < 5) fun s =>
    if double then doubleError s memory unit else s.bump Reg.pwrEccCorrected

/-- ENGINE_FAULT (R407). -/
def execEngineFault (role : Nat) (s : State) : Ans := .next <| s.when (s.running && role < 14) fun s => engineFaults s role

/-- SPARE_TAKEOVER (R407, R408): the spare has loaded the vacant role, imported its checkpoint and replayed its inputs; a
section that cannot be loaded ends in FAILED. -/
def execSpareTakeover (loaded : Bool) (s : State) : Ans := .next <|
  match s.pwr.vacant with
  | some v => s.when s.running fun s => if loaded then takesOver s v.role else enterFailed s 0x07 v.role
  | none => s

/-- APP_FAULT (R409): in service, or on the loader in RECOVERY. -/
def execAppFault (s : State) : Ans := .next <| s.when (s.running || s.mode == .recovery) appRestarts

/-- SPARE_MEMORY_TEST (R413): a failure is kept until the next start. -/
def execSpareMemoryTest (pass : Bool) (s : State) : Ans :=
  inputTo s (.spareMemoryTest pass) <| .next <|
  s.when (s.running && s.upd.spareRole.isNone && s.pwr.vacant.isNone) fun s =>
    let s := if pass then s else s.setStat Reg.pwrStatusSpareBad 1
    selftestBit s (s.pwr.selftests.map SelfTest.tag) 4 pass

end Sys2Proof.Machine
end

