-- ==== Sys2Proof/Machine/Radio.lean ====
section
/-! DEFINITION. The meanings of the radios: sub-GHz states, calibration and the scheduler's slots, the coexistence grant,
ring 5, and the production tests and SELFTEST of ring 13 (05_radios.md R105-R109, R119-R138; 15 R413, R417). -/
namespace Sys2Proof.Machine

/-! ### Sub-GHz states (R105-R108) -/

/-- SGR_SYNTH_LOCK: a held request is transmitted, under the grant and the checks of R133 as they stand now (R127), else the
receiver is on. -/
def execSgrSynthLock (s : State) : Ans :=
  inputTo s .sgrSynthLock <| .next <|
  s.when (s.sgr.phase == .synth) fun s =>
    let s := { s with sgr := { s.sgr with lock := true } }
    if s.sgr.held then
      match s.sgr.work with
      | .cycle => challengeLeaves s
      | .txPacket t data _ =>
        let (u, on) := packetLeaves s t data
        if on then u else sgrNextJob u
      | .prod => match sgrRefusal s (prodTime s) with
        | some r => prodDone (sgrFree (sgrIdleAt r.2 .rx))
        | none => prodLeaves s
      | .none | .rxPacket _ _ _ | .rssi _ => sgrIdleAt s .rx
    else sgrIdleAt s .rx

/-- SGR_LOCK_LOSS (R107): in TX the frame is cut; a TX_PACKET then completes SYNTH_BUSY (DESIGN CHOICE, log 27). -/
def execSgrLockLoss (s : State) : Ans :=
  inputTo s .sgrLockLoss <| .next <|
  match s.sgr.phase with
  | .rx => { sgrIdleAt s .synth with sgr := { (sgrIdleAt s .synth).sgr with lock := false } }
  | .tx =>
    let s := (s.raise Reg.sgrFaultUnlock).emit (.sgrSwitch true (switchDown s false))
    let t := sgrIdleAt s .synth
    let t := { t with sgr := { t.sgr with lock := false } }
    match s.sgr.work with
    | .txPacket tag _ _ => sgrNextJob (complete (sgrFree t) 5 tag stSynthBusy 0)
    | .prod => prodDone (sgrFree t)
    | .none | .cycle | .rxPacket _ _ _ | .rssi _ => t
  | .off | .sleep | .idle | .synth | .cal => s

/-- SGR_TX_WAIT_EXPIRY (R106): a challenge ends its context (R109), a TX_PACKET completes SYNTH_BUSY. -/
def execSgrTxWaitExpiry (s : State) : Ans :=
  inputTo s .sgrTxWaitExpiry <| .next <|
  s.when (s.sgr.held && (s.sgr.phase == .synth || s.sgr.phase == .cal)) fun s =>
    let t := sgrBusy s
    match s.sgr.work with
    | .cycle => match s.cyc.onAir with
      | some n => endCtx t n ocNoResponse 0
      | none => t
    | .txPacket tag _ _ => sgrNextJob (complete (sgrFree t) 5 tag stSynthBusy 0)
    | .prod => prodDone (sgrFree t)
    | .none | .rxPacket _ _ _ | .rssi _ => t

/-- The request on air returns to RX. -/
def backToRx (s : State) : Bool :=
  match s.sgr.work with
  | .txPacket _ _ back => back == 1
  | .cycle => true
  | .prod | .none | .rxPacket _ _ _ | .rssi _ => false

/-- SGR_TX_END (R108): the switch is released, and the transceiver goes to the return state of the request: RX after a
challenge. -/
def execSgrTxEnd (s : State) : Ans :=
  inputTo s .sgrTxEnd <| .next <|
  s.when (s.sgr.phase == .tx) fun s =>
    let s := s.emit (.sgrSwitch true (switchDown s (backToRx s)))
    match s.sgr.work with
    | .txPacket tag data back => jobEnds s tag stOk (packetTime s data) back
    | .prod => prodDone (sgrFree (sgrIdleAt s .idle))
    | .cycle => sgrIdleAt s .rx
    | .none | .rxPacket _ _ _ | .rssi _ => sgrIdleAt s .idle

/-! ### Calibration and the scheduler's slots (R119-R123; 15 R413) -/

/-- CAL_BLOCK_END (R121, R123). -/
def execCalBlockEnd (failed : Nat) (s : State) : Ans :=
  inputTo s (.calBlockEnd failed) <| .next <|
  match s.pwr.running with
  | some t => if t.kind == .sgrCal || t.kind == .uwbCal then blockEnds s t failed else s
  | none => s

/-- Error of the 32.768 kHz crystal, 0.1 ppm, from a count of 38.4 MHz cycles over 32,768 of its cycles: positive where it
runs fast. -/
def rtcError (count : Nat) : Int := divRound ((38400000 - (count : Int)) * 10000000) count

/-- The oscillator calibration passes its own check: the error it measured fits RTCERR. R123 does not say what the check is (DESIGN
CHOICE, log 122). -/
def oscPasses (count : Nat) : Bool :=
  decide (0 < count) && decide (-32768 ≤ rtcError count) && decide (rtcError count ≤ 32767)

/-- The count of an oscillator calibration is over: the commands that waited for it go on. -/
def oscEnds (s : State) (passed : Bool) : State :=
  let s := { s with sgr := { s.sgr with
    measuring := false, measureAgain := false,
    calCmds := s.sgr.calCmds.map (fun c =>
      if bitAt c.2.1 7 && passed then (c.1, c.2.1, setBit c.2.2 6) else c) } }
  let tags := (s.pwr.selftests.filter (fun t => bitAt t.waiting 5)).map SelfTest.tag
  selftestNote (calibrateNote s 128 0) (fun t =>
    if tags.contains t.tag then
      { t with waiting := clearBit t.waiting 5, passed := if passed then setBit t.passed 3 else t.passed }
    else t)

/-- OSC_MEASURE_END (R122, R123): RTCERR is stored; a calibration that fails its check is counted once more, and a second failure
sets CAL_FAIL with its event record and leaves the results in use. -/
def execOscMeasureEnd (count : Nat) (s : State) : Ans :=
  inputTo s (.oscMeasureEnd count) <| .next <|
  s.when s.sgr.measuring fun s =>
    if oscPasses count then
      oscEnds { s with sgr := { s.sgr with rtcErr := rtcError count, calDone := setBit s.sgr.calDone 6 } } true
    else if !s.sgr.measureAgain then { s with sgr := { s.sgr with measureAgain := true } }
    else oscEnds (calFails s false) false

/-- QUIET_SLOT_TASK (15 R413): the first task in deadline order whose resource is quiet starts. -/
def execQuietSlotTask (leakGnd leakVlf : Bool) (s : State) : Ans :=
  inputTo s (.quietSlotTask leakGnd leakVlf) <| .next <|
  match (tasksByDeadline s).find? (taskQuiet s) with
  | some t => startTask s t leakGnd leakVlf
  | none => s

/-- The contexts whose radio step uses a task's resource (15 R413; 02 R43). -/
def taskHits (t : Task) (c : Ctx) : Bool :=
  match t.kind with
  | .lfDiag => false
  | .sgrCal => c.phase == .challenging
  | .uwbCal => c.phase == .ranging || c.phase == .bounding
  | .oscTrim => c.phase == .challenging || c.phase == .ranging || c.phase == .bounding

/-- A COMMIT is outstanding on the coil. -/
def commitOut (s : State) : Bool :=
  match s.tpx.phase with
  | .secured (.commit _) => true
  | _ => false

/-- A task may pre-empt now: not in a wake pattern, in the LF island not in a COMMIT (04 R93), with no block running and no ring 5
job on the transceiver it needs (log 48). -/
def mayPreempt (s : State) (t : Task) : Bool :=
  s.running && s.pwr.deep.isNone && s.cyc.phase != .pattern && s.pwr.running.isNone &&
    (t.kind != .lfDiag || !commitOut s) &&
    (t.kind == .lfDiag || t.kind == .uwbCal || s.sgr.work == .none || s.sgr.work == .cycle)

/-- The radio steps that a pre-empting task stops (02 R43; 04 R93): the coil for one of the LF island, a UWB round and a challenge
or response on air for those of the RADIO island. -/
def stepsStopped (s : State) (t : Task) : State :=
  let s := if t.kind == .lfDiag then fieldCollapse s ocPreempted else s
  let s := if t.kind == .uwbCal || t.kind == .oscTrim then roundOver s else s
  if t.kind == .oscTrim && s.cyc.onAir.isSome then sgrIdleAt s .idle else s

/-- TASK_DEADLINE_PREEMPT (15 R413): the task with the earliest deadline starts at once, ending the contexts it hits. -/
def execTaskDeadlinePreempt (leakGnd leakVlf : Bool) (s : State) : Ans :=
  inputTo s (.taskDeadlinePreempt leakGnd leakVlf) <| .next <|
  match tasksByDeadline s with
  | t :: _ =>
    if mayPreempt s t then
      let s := endCtxs (stepsStopped s t) (taskHits t) ocPreempted
      let s := (s.bump Reg.pwrSchedPreempts).raise Reg.pwrFaultPreempt
      let s := event s blkPwr 0x20 ([BitVec.ofNat 8 t.kind.code, 0] ++ leBytes 2 (taskDuration t))
      startTask s t leakGnd leakVlf
    else s
  | [] => s

/-! ### The grant (R124-R127) -/

/-- COEX_GRANT_CHANGE: a withdrawal during a UWB round makes it incomplete (R126); a grant lets a waiting TX_PACKET go. -/
def execCoexGrantChange (level : Bool) (s : State) : Ans := .next <|
  let t := { s with rad := { s.rad with grantPin := level } }
  if grantSeen t then
    match t.sgr.work with
    | .txPacket tag data _ =>
      if t.sgr.grantWait then
        let (u, on) := sgrPacketGoes t tag data
        if on then u else sgrNextJob u
      else t
    | _ => t
  else if t.uwb.round.isSome then roundFails (t.raise Reg.uwbFaultGrantLost)
  else t

/-- COEX_WAIT_EXPIRY (R127). -/
def execCoexWaitExpiry (s : State) : Ans :=
  inputTo s .coexWaitExpiry <| .next <|
  match s.sgr.work with
  | .txPacket tag _ _ => if s.sgr.grantWait then sgrNextJob (complete (sgrFree s) 5 tag 0x34 0) else s
  | _ => s

/-! ### Ring 5 (R136-R138) -/

/-- A job too long for any gap between cycles (R136). -/
def jobTooLong (s : State) (w : SgrWork) : Bool :=
  s.on Reg.lfPollEn && decide (1000 * s.eff Reg.lfPollInterval < jobLongest s w)

/-- Take up a job: it waits its turn between cycles, short of its abort point. -/
def queueJob (s : State) (tag : Nat) (w : SgrWork) : State :=
  if jobTooLong s w then complete s 5 tag stBadField 0
  else
    let s := markTaken s 5 tag false
    sgrNextJob { s with sgr := { s.sgr with jobs := s.sgr.jobs ++ [w] } }

/-- TX_PACKET. -/
def execTxPacket (tag : Nat) (data : Bytes) (s : State) : Ans :=
  inputTo s (.txPacket tag data) <| .next <|
  ringCmdIf 5 0x01 tag (fun d => decide (1 ≤ d.len) && decide (d.len ≤ 255) && d.len = data.length && decide (d.p0 < 4))
    (fun d s => queueJob s tag (.txPacket tag data (returnState s d.p0 Reg.sgrCtrlTxoff))) s

/-- RX_PACKET. -/
def execRxPacket (tag : Nat) (s : State) : Ans :=
  inputTo s (.rxPacket tag) <| .next <|
  ringCmdIf 5 0x02 tag (fun d => decide (1 ≤ d.len) && decide (d.len ≤ 255) && decide (100 ≤ d.p0) &&
      decide (d.p0 ≤ 10000000) && decide (d.p1 < 4))
    (fun d s => queueJob s tag (.rxPacket tag d.len (returnState s d.p1 Reg.sgrCtrlRxoff))) s

/-- RSSI. -/
def execRssi (tag : Nat) (s : State) : Ans :=
  inputTo s (.rssi tag) <| .next <|
  ringCmdIf 5 0x06 tag (fun d => decide (100 ≤ d.p0) && decide (d.p0 ≤ 10000)) (fun _ s => queueJob s tag (.rssi tag)) s

/-- SGR_PACKET_RECEIVED: the bytes are written; a wrong CRC-16 completes RX_CRC. -/
def execSgrPacketReceived (rssi : Int) (frame : Bytes) (s : State) : Ans :=
  inputTo s (.sgrPacketReceived rssi frame) <| .next <|
  match s.sgr.work with
  | .rxPacket tag len back =>
    if s.sgr.phase != .rx then s
    else
      let s := noteRssi s rssi
      let (data, ok) := packetData s len frame
      let s := match findOut s 5 tag with
        | some o => cmdDma s 5 o.desc.tag o.desc.addr data
        | none => s
      jobEnds s tag (if ok then stOk else 0x33) (data.length + 65536 * unsignedOf 8 rssi) back
  | _ => s

/-- SGR_RX_TIMEOUT (R137). -/
def execSgrRxTimeout (s : State) : Ans :=
  inputTo s .sgrRxTimeout <| .next <|
  match s.sgr.work with
  | .rxPacket tag _ back => jobEnds s tag 0x32 0 back
  | _ => s

/-- RSSI_MEASURE_END: the mean is returned, and the transceiver goes to the return state of reception (log 47). -/
def execRssiMeasureEnd (mean : Int) (s : State) : Ans :=
  inputTo s (.rssiMeasureEnd mean) <| .next <|
  match s.sgr.work with
  | .rssi tag => jobEnds s tag stOk (unsignedOf 8 mean) (s.eff Reg.sgrCtrlRxoff)
  | _ => s

/-- CALIBRATE: the masked calibrations are requested and the command completes as the last of them ends. -/
def execCalibrate (tag : Nat) (s : State) : Ans :=
  inputTo s (.calibrate tag) <| .next <|
  ringCmdIf 5 0x03 tag (fun d => decide (d.p0 < 128)) (fun d s =>
    if d.p0 = 0 then complete s 5 tag stOk 0
    else
      let s := markTaken s 5 tag false
      requestCals { s with sgr := { s.sgr with calCmds := s.sgr.calCmds ++ [(tag, d.p0, 0)] } } false d.p0) s

/-- REGREC_READ: the record in force, or zeros. -/
def execRegrecRead (tag : Nat) (s : State) : Ans :=
  inputTo s (.regrecRead tag) <| .next <|
  ringCmdIf 5 0x04 tag (fun d => d.len = 72) (fun d s =>
    match s.rad.regRec with
    | some b => completeData s 5 d b 1
    | none => completeData s 5 d (zeroBytes 72) 0) s

/-- REGREC_WRITE is accepted (R130): life-cycle state, and slot 3 visible to the requester, or empty in BLANK. -/
def regrecAccepted (s : State) : Bool :=
  match s.cip.lifeCycle with
  | .blank => hostSees s 3 || !attrOcc (s.slot 3).attr
  | .provisioned | .returned => hostSees s 3
  | .field | .scrapped => false

/-- REGREC_WRITE (R129, R130): refused silently, under NVWP, or as a whole; else its record is requested of SE12. -/
def execRegrecWrite (tag : Nat) (data : Bytes) (s : State) : Ans :=
  inputTo s (.regrecWrite tag data) <| .next <|
  ringCmdIf 5 0x05 tag (fun d => d.len = 72 && decide (data.length = 72)) (fun d s =>
    if !regrecAccepted s then refuseSilent s 5 d 0
    else changeCmd 5 d true (fun s =>
      if regRecLegal data then
        nvRequest (markTaken s 5 tag false) (critPair 0x0010 false (.regRec data)) (.regRec tag data)
      else complete s 5 tag 0x35 0) s) s

/-! ### Ring 13: SELFTEST, PROD_TX, SCHEDULE (15 R417) -/

/-- Request a SELFTEST's diagnostic of one channel; one under way serves it. -/
def selftestDiag (tag wait : Nat) (s : State) (c : Nat) : State :=
  if s.lf.burst == some c || s.lf.burstWait.contains c then s else requestTask s .lfDiag c 0 wait [tag]

/-- SELFTEST: the masked tasks are scheduled with the deadline given. With no LF channel named, the LF bit passes (log 35). The
spare memory test starts at once; it fails while the spare carries a role (log 75). -/
def execSelftest (tag : Nat) (s : State) : Ans :=
  inputTo s (.selftest tag) <| .next <|
  ringCmdIf 13 0x01 tag (fun d => decide (d.p0 < 32) && decide (10 ≤ d.p1) && decide (d.p1 ≤ 4000)) (fun d s =>
    if d.p0 = 0 then complete s 13 tag stOk 0
    else
      let lf := bitAt d.p0 0
      let chans := if lf then lfNamedChans s else []
      let waiting := if lf && chans.isEmpty then clearBit d.p0 0 else d.p0
      let t : SelfTest := ⟨tag, waiting, bit lf, d.p0, chans.foldl setBit 0⟩
      let spare := bitAt d.p0 4 && s.upd.spareRole.isNone
      let s := markTaken s 13 tag spare
      let s := { s with pwr := { s.pwr with selftests := s.pwr.selftests ++ [t] } }
      let s := chans.foldl (selftestDiag tag d.p1) s
      let s := if bitAt d.p0 1 then requestTask s .sgrCal 15 15 d.p1 [tag] else s
      let s := if bitAt d.p0 2 then requestTask s .uwbCal 48 48 d.p1 [tag] else s
      let s := if bitAt d.p0 3 then requestTask s .oscTrim 64 64 d.p1 [tag] else s
      if spare then selftestNote s id else selftestBit s [tag] 4 false) s

/-- PROD_TX: accepted in BLANK and RETURNED; its first frame goes at once. One PROD_TX runs at a time (log 44). -/
def execProdTx (tag : Nat) (s : State) : Ans :=
  inputTo s (.prodTx tag) <| .next <|
  ringCmdIf 13 0x04 tag (fun d => decide (d.p0 < 2 ^ 32) && bitField d.p0 1 15 = 0 && decide (1 ≤ bitField d.p0 16 16) &&
      decide (1000 ≤ d.p1) && decide (d.p1 ≤ 1000000)) (fun d s =>
    if s.cip.lifeCycle != .blank && s.cip.lifeCycle != .returned then refuseSilent s 13 d 0
    else if s.pwr.prodTx.isSome then s
    else
      let s := markTaken s 13 tag true
      prodFrame { s with pwr := { s.pwr with prodTx := some ⟨tag, bitAt d.p0 0, bitField d.p0 16 16, 0, d.p1, s.now⟩ } }) s

/-- PROD_TX_PERIOD: the next test frame, once the one before has ended. -/
def execProdTxPeriod (s : State) : Ans :=
  inputTo s .prodTxPeriod <| .next <|
  s.when (s.running && s.sgr.work != .prod) prodFrame

/-- SCHEDULE: 16 bytes for each queued task in the order of deadlines. -/
def execSchedule (tag : Nat) (s : State) : Ans :=
  inputTo s (.schedule tag) <| .next <|
  ringCmdIf 13 0x05 tag (fun d => d.len = 256) (fun d s =>
    let entry (t : Task) : Bytes :=
      [BitVec.ofNat 8 t.kind.code, 0, 0, 0] ++ leBytes 4 (t.deadline - s.now) ++ leBytes 4 (taskDuration t) ++ zeroBytes 4
    completeData s 13 d (padTo 256 ((tasksByDeadline s).flatMap entry)) s.pwr.tasks.length) s

end Sys2Proof.Machine
end

