-- ==== Sys2Proof/Machine/Ranging.lean ====
section
/-! DEFINITION. The meanings of the UWB rounds, of fusion and of ring 3 (02_release_cycle.md R37-R41, R43;
05_radios.md R110-R118, R123-R126, R135; 06_proximity.md R144-R163). -/
namespace Sys2Proof.Machine

/-- The context whose UWB round is next: the oldest in KEYED or between its rounds, while no round runs (R37). -/
def roundNext (s : State) : Option (Nat × Ctx) :=
  if s.uwb.round.isSome then none
  else match s.cyc.keyed with
    | n :: _ => (s.ctx n).map (fun c => (n, c))
    | [] => none

/-- The transceiver is free for a round: idle, or only relocking (05 R117). -/
def uwbFree (s : State) : Bool := s.uwb.phase == .idle || (s.uwb.phase == .cal && s.pwr.running.isNone)

/-- UWB_ROUND_START (R37): the round of the context next in turn starts where the grant (05 R125), the duty test (05 R135)
and the governor (15 R414) permit; else it waits under R38. A radio that was never calibrated makes it incomplete (05
R123). Other UWB_ settings take effect with the round (05 R140). -/
def execUwbRoundStart (sinceGrant sinceReq counter : Nat) (s : State) : Ans :=
  inputTo s (.uwbRoundStart sinceGrant sinceReq counter) <| .next <|
  match roundNext s with
  | none => s
  | some (n, c) =>
    if !uwbFree s || 3 ≤ govLevel s || s.rad.regRec.isNone then s
    else
      let bounding := decide (s.eff Reg.uwbRangeAvg ≤ c.exchanges.length)
      let us := if bounding then boundingTime s else exchangeTime s
      if !grantCovers s us sinceGrant sinceReq then s
      else if uwbNeverCalibrated s then endCtx s n ocRangeFail 0
      else if !uwbDutyOk s us then s.raise Reg.uwbFaultDuty
      else roundStarts (applyTiming .uwbRound s) n c bounding us counter

/-- RANGE_GRANT_TIMEOUT (R38): 5.000 ms after KEYED, the context next in turn has no round. -/
def execRangeGrantTimeout (ctx : Nat) (s : State) : Ans :=
  inputTo s (.rangeGrantTimeout ctx) <| .next <|
  match roundNext s with
  | some (n, _) => if n = ctx then endCtx s n ocRangeFail 0 else s
  | none => s

/-- The round in progress at a step. -/
def roundAt (s : State) (p : RoundStep) : Option Round := s.uwb.round.filter (fun r => r.step == p)

/-- UWB_RESPONSE_FRAME (06 R145, R146): T4 and the phases are taken; a clock offset beyond 40 ppm makes the round
incomplete. T4 is chain UA0's, the antenna that sends the poll and the final (05 R117), and no correction is made from it to the
origin: R145 names neither (DESIGN CHOICE, log 143). -/
def execUwbResponseFrame (counter : Nat) (phases : List (Option Nat)) (offset : Int) (s : State) : Ans :=
  inputTo s (.uwbResponseFrame counter phases offset) <| .next <|
  match roundAt s .response with
  | none => s
  | some r =>
    if 4000 < offset.natAbs then roundFails s
    else { s with uwb := { s.uwb with
        phase := .idle, utrsw := false,
        round := some { r with step := .final, t4 := rxStamp s counter 0, phases := phases, offset := offset } } }

/-- The instant of a delayed transmission: its scheduled time without the 9 least significant bits (R116). -/
def scheduledAt (counter : Nat) : Nat := counter / 512 * 512

/-- UWB_FINAL_TX (R118): the final leaves at its scheduled instant, whose true value the timestamp reports (R116), and the report
is awaited. Its STS follows those of the poll and the response (08 R201). -/
def execUwbFinalTx (counter : Nat) (s : State) : Ans :=
  inputTo s (.uwbFinalTx counter) <| .next <|
  match roundAt s .final with
  | none => s
  | some r => ({ s with uwb := { s.uwb with
      phase := .tx, lock := true, utrsw := true,
      round := some { r with step := .report, t5 := txStamp s (scheduledAt counter) } } }).emit
        (.uwbFrame 2 r.nine ((s.ctx r.ctx).map (fun c => roundSts c 2)) [])

/-- A report is genuine (06 R144, R146): kind, index, MAC, and clock offsets that cancel within 2.00 ppm. -/
def reportOk (c : Ctx) (r : Round) (p : Bytes) : Bool :=
  p.length = 20 && byteAt p 0 = 0xE4 && byteAt p 1 = c.exchanges.length &&
    beAt p 12 8 == mac8 (key16 c.ks) (0x72#8 :: p.take 12) &&
    decide ((r.offset + signed 16 (beAt p 10 2)).natAbs ≤ 200)

/-- The exchange that a genuine report completes (06 R145, R148). -/
def completedExchange (s : State) (r : Round) (p : Bytes) : Exchange :=
  let ra := stampDiff r.t4 r.t1
  let da := stampDiff r.t5 r.t4
  let db := beAt p 2 4
  let rb := beAt p 6 4
  exchangeOf s r.nine r.phases r.offset
    (if ra + rb + da + db = 0 then Config.openRange else exchangeRange ra da db rb)

/-- UWB_REPORT_FRAME (06 R144, R145). -/
def execUwbReportFrame (payload : Bytes) (s : State) : Ans :=
  inputTo s (.uwbReportFrame payload) <| .next <|
  match roundAt s .report with
  | none => s
  | some r =>
    match s.ctx r.ctx with
    | none => s
    | some c =>
      if reportOk c r payload then
        (roundOver s).setCtx r.ctx { c with exchanges := c.exchanges ++ [completedExchange s r payload] }
      else roundFails s

/-- UWB_RX_WINDOW_END (R117): no response or no report came. -/
def execUwbRxWindowEnd (s : State) : Ans :=
  inputTo s .uwbRxWindowEnd <| .next <|
  if (roundAt s .response).isSome || (roundAt s .report).isSome then roundFails s else s

/-- UWB_LOCK_LOSS (R117): in TX or RX the frame is cut and the round incomplete; the transceiver calibrates and locks again. -/
def execUwbLockLoss (s : State) : Ans :=
  inputTo s .uwbLockLoss <| .next <|
  s.when (s.uwb.lock && s.uwb.phase != .off) fun s =>
    let t := { s with uwb := { s.uwb with lock := false } }
    let t := if s.uwb.phase == .tx || s.uwb.phase == .rx then roundFails (t.raise Reg.uwbFaultUnlock) else t
    if t.uwb.phase == .off then t else { t with uwb := { t.uwb with phase := .cal, utrsw := false } }

/-- The frame due finds the transceiver in CAL or unlocked: a final, or the first frame of the round that is next. -/
def uwbUnlocked (s : State) : Bool :=
  s.uwb.phase == .cal || !s.uwb.lock || (match roundNext s with
    | some (_, c) => s.uwb.nine != c.nextNine
    | none => false)

/-- UWB_TX_WAIT_EXPIRY (R118): the frame held for lock completes SYNTH_BUSY and its round is incomplete. -/
def execUwbTxWaitExpiry (s : State) : Ans :=
  inputTo s .uwbTxWaitExpiry <| .next <|
  s.when (s.uwb.phase != .off && uwbUnlocked s) fun s =>
    match roundAt s .final, roundNext s with
    | some _, _ => roundFails (s.raise Reg.uwbFaultSynthBusy)
    | none, some (n, _) => endCtx (s.raise Reg.uwbFaultSynthBusy) n ocRangeFail 0
    | none, none => s

/-- BOUNDING_RUN_COMPLETE (06 R151, R154): the rounds are evaluated and the context goes to FUSING. -/
def execBoundingRunComplete (rounds : List (Option BoundRound)) (s : State) : Ans :=
  inputTo s (.boundingRunComplete rounds) <| .next <|
  match roundAt s .bounding with
  | none => s
  | some r =>
    match s.ctx r.ctx with
    | none => s
    | some c =>
      let t := (roundOver s).setCtx r.ctx { c with phase := .fusing, bound := some (evalRun s c rounds) }
      cycleCheck { t with cyc := { t.cyc with keyed := t.cyc.keyed.filter (fun k => k != r.ctx) } }

/-- The zone and the outcome of R160: the matching zone, whether the run passes against it, and the code that ends the
context unless it goes on to R39. -/
def zoneChoice (s : State) (run : BoundResult) (zones : List Nat) (mask : Nat) : Option Nat × Bool × Option Nat :=
  let m := zones.filter (bitAt mask)
  match m, zones with
  | z0 :: _, _ =>
    match m.find? (runPasses s run) with
    | some z => (some z, true, none)
    | none => (some z0, false, some ocBoundFail)
  | [], z :: _ => if runPasses s run z then (some z, true, some ocPositioned) else (some z, false, some ocBoundFail)
  | [], [] => (none, false, some ocPositioned)

/-- The slot still holds the identifier, unchanged, under the epoch in force (R39). -/
def slotUnchanged (s : State) (c : Ctx) : Bool :=
  match c.holly with
  | some i => holly s i == c.entry && s.aut.table.epoch == c.epoch
  | none => false

/-- A role that releases on the LF path: any but vehicle, 0x01 (08 R211). -/
def lfRole (h : HollySlot) : Bool := h.role != 1

/-- The release decision of a plausible context (R39-R41, R160). -/
def releaseDecision (s : State) (n : Nat) (c : Ctx) (p : List Int) (range az el : Int)
    (ba bb : Option (Int × Option Int)) : State :=
  if !slotUnchanged s c then endCtx s n ocNotEnrolled 0
  else
    let zones := zonesAt s p
    let run := c.bound.getD ⟨0, 0, 0, 0⟩
    let (zone, passed, stop) := zoneChoice s run zones c.entry.zones
    let c := { c with fused := some (fusedBytes s c p range az el ba bb zone zones passed) }
    let s := s.setCtx n c
    match stop with
    | some oc => endCtx s n oc 0
    | none =>
      let gs := if lfRole c.entry then routedGroups s c.entry else []
      if gs.isEmpty then endCtx s n ocPositioned 0
      else
        let s := s.setCtx n { c with phase := .granting, reqs := { Requests.none with pending := gs } }
        requestGroups s n gs c.entry false
          ⟨zone.getD 0xFF, (divRound range 1).toNat, (s.lf.pattern.map Pattern.num).getD 0⟩

/-- FUSION_COMPLETE (06 R158-R160). -/
def execFusionComplete (ctx : Nat) (s : State) : Ans :=
  inputTo s (.fusionComplete ctx) <| .next <|
  match s.ctx ctx with
  | none => s
  | some c =>
    if c.phase != .fusing then s
    else match fuse s c with
      | .implausible d => endCtx s ctx ocImplausible d
      | .plausible p range az el ba bb => releaseDecision s ctx c p range az el ba bb

/-- Ring 3 REPORT_BUFFER (06 R163). -/
def execPrxReportBuffer (tag : Nat) (s : State) : Ans :=
  inputTo s (.prxReportBuffer tag) <| .next (postBuffer 3 0x01 64 tag s)

/-- Ring 3 TEST_POINT (06 R163): the zones in force that contain the point. -/
def execTestPoint (tag : Nat) (s : State) : Ans :=
  inputTo s (.testPoint tag) <| .next <|
  ringCmdIf 3 0x02 tag (fun d => decide (d.p0 < 2 ^ 48)) (fun d s =>
    let p := [signed 16 d.p0, signed 16 (d.p0 / 2 ^ 16), signed 16 (d.p0 / 2 ^ 32)]
    complete s 3 tag stOk ((zonesAt s p).foldl setBit 0)) s

end Sys2Proof.Machine
end

