-- ==== Sys2Proof/Machine/Release.lean ====
section
/-! DEFINITION. The meanings of the release controller's commands and events (09_release_and_sessions.md R231-R256;
02 R41; 10 R270). -/
namespace Sys2Proof.Machine

/-! ### Outputs and answers -/

/-- What RBg must read: high while RELAg is high. -/
def rbMatches (relHigh : Bool) (level : Nat) : Bool := if relHigh then level = 1 else level = 0

/-- Set RELAg, from whose edge its readback is judged (R234). -/
def setRelA (s : State) (g : Nat) (high : Bool) : State :=
  let s := { s with rel := { s.rel with relA := if high then setBit s.rel.relA g else clearBit s.rel.relA g } }
  let r := s.readback g
  s.setReadback g { r with mismatch := if rbMatches high r.level then none else some s.now }

/-- Session number of the session that settles a request on a group for an identifier. -/
def numberOn (s : State) (g id : Nat) : Nat :=
  match findSess s (fun e => e.live && e.group == g && e.id == id) with
  | some i => (s.sess i).number
  | none => 0

/-- The identifier of a context, LF or transponder. -/
def ctxId (s : State) (n : Nat) : Nat :=
  if n = 16 then (s.tpx.ctx.map CoilCtx.id).getD 0 else ((s.ctx n).map Ctx.id).getD 0

/-- RELEASE_LATCH_TAKEN (R232): the KEEP latch takes the group's request: RELAg rises, and the opens that waited for it are
answered, or it falls. A group released again before RELAg fell leaves it high, and the opens that made it so are answered at
this instant (02 R41; log 153, DESIGN CHOICE). -/
def execReleaseLatchTaken (group : Nat) (s : State) : Ans := .next <|
  s.when (group < 2 && (bitAt s.rel.relA group != groupReleased s group ||
      s.rel.latch.any (fun l => l.2.2 == group))) fun s =>
    let high := groupReleased s group
    let waiting := s.rel.latch.filter (fun l => l.2.2 == group)
    let same := bitAt s.rel.relA group == high
    let s := { s with rel := { s.rel with latch := s.rel.latch.filter (fun l => l.2.2 != group) } }
    let s := if same then s else setRelA s group high
    if high then
      waiting.foldl (fun s l => settle s l.1 l.2.1 (some (.opened (numberOn s group (ctxId s l.1))))) s
    else s

/-- GRANT_ANSWER_TIMEOUT (02 R41): no answer for 5.000 ms; the request is settled without one. -/
def execGrantAnswerTimeout (ctx group : Nat) (s : State) : Ans :=
  inputTo s (.grantAnswerTimeout ctx group) <| .next (settle s ctx group none)

/-! ### Sessions -/

/-- SESSION_TIMEOUT (R243). -/
def execSessionTimeout (entry : Nat) (s : State) : Ans := .next <|
  s.when (entry < 8 && (s.sess entry).phase == .open) fun s => endEntry s entry 0x01

/-- HOLD_MAXTIME_EXPIRY (R246). -/
def execHoldMaxtimeExpiry (entry : Nat) (s : State) : Ans := .next <|
  s.when (entry < 8 && (s.sess entry).phase == .holding) fun s => endEntry s entry 0x0C

/-- Both channels of pair A are usable (10 R260). -/
def pairUsable (s : State) (b : Bool) : Bool :=
  let k := bit b
  (tblGet Channel.reset s.mtr.chans k).usable && (tblGet Channel.reset s.mtr.chans (k + 2)).usable

/-- HOLD_SAMPLE (R246): the mean magnitude of current A over a block of 80 results; a sample that is invalid or below ITHR
ends every hold. -/
def execHoldSample (s : State) : Ans :=
  inputTo s .holdSample <| .next <|
  s.when (80 ≤ s.rel.holdBlock.2) fun s =>
    let s := { s with rel := { s.rel with
      hold := (s.rel.holdBlock.1 / s.rel.holdBlock.2, pairUsable s false), holdBlock := (0, 0) } }
    if holdHigh s then s else endEntries s (fun e => e.phase == .holding) 0x0B

/-- QUEUE_WAIT_EXPIRY (R242): a queued request is refused with QUEUE_EXPIRED. -/
def execQueueWaitExpiry (place : Nat) (s : State) : Ans := .next <|
  match s.rel.queue[place]? with
  | some r => refuseReq { s with rel := { s.rel with queue := s.rel.queue.eraseIdx place } } r rsExpired
  | none => s

/-- FAULT_GRACE_EXPIRY (R253). -/
def execFaultGraceExpiry (s : State) : Ans := .next <|
  s.when (s.mode == .failed && s.pwr.graceEnd.isSome) endGrace

/-- SESSION_CEILING_COMMIT (R240): SE12 comes to the ceiling record at the front of its queue. Committed, the opens that
waited are decided; deferred under the supply check, they are refused with NV_DEFERRED; not read back, it is written again. -/
def execSessionCeilingCommit (suppliesOk : Bool) (s : State) (verifyOk : Bool := true) : Ans :=
  inputTo s (.sessionCeilingCommit suppliesOk verifyOk) <| .next <|
  match s.nvs.queue with
  | q :: _ =>
    match q.eff with
    | .sessionCeiling _ => commitFront suppliesOk verifyOk s
    | _ => s
  | [] => s

/-! ### Doors, readback and the auxiliary ADC -/

/-- Reading of a door code (R235), coded as the state it leads to: 0 CLOSED, 1 OPEN, 2 SHORT, 3 BROKEN. -/
def doorReading (code : Nat) : Nat :=
  if code ≤ 409 then 2 else if code ≤ 1637 then 0 else if code ≤ 3276 then 1 else 3

/-- The code that the auxiliary ADC reads: a level above 1.200 V reads 4,095 (16 R431). -/
def auxCode (code : Nat) : Nat := min code 4095

/-- One door sample (R236, R237). -/
def doorSample (s : State) (n code : Nat) : State :=
  if !doorEnabled s n then s.setDoor n Door.reset
  else
    let d := s.door n
    let x := doorReading code
    let d := { d with reading := x, run := if d.run = 0 || d.reading ≠ x then 1 else min (d.run + 1) 255 }
    if s.eff Reg.relDoorDebounce ≤ d.run && x ≠ d.state then
      let s := s.setDoor n { d with state := x }
      let s := if x = 2 || x = 3 then raiseEvent s Reg.relFaultDoor blkRel [] else s
      if x = 0 then s
      else endEntries s (fun e => e.phase == .open && doorMapped s n e.group) (1 + x)
    else s.setDoor n d

/-- Level of an RB code (R270): 1 high, 0 low, 2 between. -/
def rbLevelOf (code : Nat) : Nat := if 2662 ≤ code then 1 else if code ≤ 1433 then 0 else 2

/-- One readback sample (R234). -/
def rbSample (s : State) (g code : Nat) : State :=
  let l := rbLevelOf code
  let r := s.readback g
  let low := if l = 0 then some (r.lowSince.getD s.now) else none
  let mis := if rbMatches (bitAt s.rel.relA g) l then none else some (r.mismatch.getD s.now)
  let lifted := match low with
    | some t => decide (t + s.eff Reg.relRbTimeout ≤ s.now)
    | none => false
  s.setReadback g { level := l, mismatch := mis, stuck := r.stuck && !lifted, lowSince := low }

/-- READBACK_TIMEOUT (R234): RBg has not matched its group for TIMEOUT. -/
def execReadbackTimeout (group : Nat) (s : State) : Ans := .next <|
  s.when (group < 2 && rbEnabled s group && (s.readback group).mismatch.isSome) fun s =>
    if bitAt s.rel.relA group then event (s.raiseBit Reg.relFaultRbLow group) blkRel group []
    else
      let s := s.setReadback group { s.readback group with stuck := true }
      event (s.raiseBit Reg.relFaultRbStuck group) blkRel (2 + group) []

/-- One AUX conversion (10 R270). -/
def auxSample (s : State) (n code : Nat) : State :=
  (s.setStat (Reg.mtrAuxCode n) code).setStat (Reg.mtrAuxValid n) 1

/-- AUX pins that read hot (15 R415). -/
def hotPins (s : State) : Nat :=
  (List.range 8).foldl (fun m n =>
    if bitAt (s.eff Reg.pwrNtcEn) n && bitAt (s.eff Reg.mtrAuxcfgPullup) n && s.stat (Reg.mtrAuxValid n) = 1 &&
        decide (s.stat (Reg.mtrAuxCode n) ≤ s.eff Reg.pwrNtcHot) then m + 2 ^ n else m) 0

/-- AUX_ADC_FRAME (10 R270): DOOR0-DOOR3, RB0, RB1 and two AUX pins in rotation are converted, at BUD and above. -/
def execAuxAdcFrame (doors rb aux : List Nat) (s : State) : Ans := .next <|
  s.when ((s.mode == .running || s.mode == .failed) && s.pwr.deep.isNone) fun s =>
    let s := [0, 1, 2, 3].foldl (fun s n => doorSample s n (auxCode (nth 0 doors n))) s
    let s := [0, 1].foldl (fun s g => rbSample s g (auxCode (nth 0 rb g))) s
    let k := 2 * s.mtr.auxTurn
    let s := auxSample (auxSample s k (auxCode (nth 0 aux 0))) (k + 1) (auxCode (nth 0 aux 1))
    let s := { s with mtr := { s.mtr with auxTurn := (s.mtr.auxTurn + 1) % 4 } }
    setGovernor s s.pwr.thermLevel (hotPins s)

/-! ### Release-class frames (R248-R251) -/

/-- The checks of R249 on a frame at P0. -/
def releaseFrameOk (s : State) (src dst seq typ len : Nat) (payload : Bytes) : Bool :=
  match fabricSlot s with
  | none => false
  | some k =>
    let body := payload.take (len - 8)
    let sent := beAt payload 4 6
    let late := (s.fab.time + 2 ^ 48 - sent) % 2 ^ 48
    payload.length = len && byteAt payload 0 = typ && src / 64 == s.addr / 64 && s.fab.addr.isSome &&
      payload.drop (len - 8) == relMac s k dst src seq typ body &&
      (decide (late ≤ 2000) || decide (2 ^ 48 - 2000 ≤ late)) && seqNewer s src clsRelease seq

/-- A release-class frame at P0: accepted, dropped, or, on a device that does not serve, discarded. -/
def releaseFrame (src dst seq typ len : Nat) (payload : Bytes) (f : State → State) (s : State) : State :=
  if s.mode != .running then s
  else
    let s := match fabricSlot s with
      | some k => useSlot s k
      | none => s
    if releaseFrameOk s src dst seq typ len payload then f (seqAccept s src clsRelease seq) else dropRelease s

/-- RELEASE_GRANT (R249): an accepted grant is decided under R241 and answered. -/
def execReleaseGrant (src dst seq : Nat) (payload : Bytes) (s : State) : Ans :=
  inputTo s (.releaseGrant src dst seq payload) <| .next <|
  releaseFrame src dst seq 0x01 40 payload (fun s =>
    decide_ (s.bump Reg.relStatAccepted)
      ⟨byteAt payload 1 % 2, beAt payload 10 8, byteAt payload 18, byteAt payload 19 = 1, some src, beAt payload 2 2, none,
        0, s.now⟩) s

/-- The answer a GRANT_ANSWER carries. -/
def answerOf (payload : Bytes) : Option Answer :=
  match byteAt payload 10 with
  | 0 => some (.opened (beAt payload 12 4))
  | 1 => some (.renewed (beAt payload 12 4))
  | 2 => some .queued
  | 3 => some (.refused (byteAt payload 11))
  | _ => none

/-- GRANT_ANSWER (R248): an accepted answer settles the request it names. -/
def execGrantAnswer (src dst seq : Nat) (payload : Bytes) (s : State) : Ans :=
  inputTo s (.grantAnswer src dst seq payload) <| .next <|
  releaseFrame src dst seq 0x02 24 payload (fun s =>
    match s.rel.sent.find? (fun g => g.reqNo == beAt payload 2 2 && g.owner == src && g.group == byteAt payload 1 % 2),
        answerOf payload with
    | some g, some a => grantAnswered s g a.code a.number a
    | _, _ => s) s

/-- SESSION_END (R250): it ends the session of that number and token that was opened at the sender's request. -/
def execSessionEnd (src dst seq : Nat) (payload : Bytes) (s : State) : Ans :=
  inputTo s (.sessionEnd src dst seq payload) <| .next <|
  releaseFrame src dst seq 0x03 32 payload (fun s =>
    match findSess s (fun e => e.live && e.number == beAt payload 10 4 && e.id == beAt payload 14 8 &&
        e.peer == some src) with
    | some i => endEntry s i 0x07
    | none => s) s

/-! ### Ring 1 (R254) -/

/-- EVENT_BUFFER. -/
def execEventBuffer (tag : Nat) (s : State) : Ans := .next (postBuffer 1 0x01 32 tag s)

/-- LIST (R255): the eight entries in the layout of an event, with kind 0x04 and their state. -/
def execList (tag : Nat) (s : State) : Ans := .next <|
  ringCmdIf 1 0x02 tag (fun d => d.len = 256) (fun d s =>
    let code : SessionPhase → Nat
      | .free => 0
      | .open => 1
      | .holding => 2
    let entry (i : Nat) : Bytes :=
      let e := s.sess i
      if e.live then
        relRecord s 4 (code e.phase) (relFlags e.group e.peer.isSome e.coil) 0 e.id e.number (e.peer.getD s.addr) e.role
          e.opened (rtcAt s e.deadline)
      else 0x04 :: zeroBytes 31
    completeData s 1 d (entries.flatMap entry) (liveCount s)) s

/-- END: the session of that number ends, or goes to HOLDING; FORCE leaves no hold. -/
def execEndSession (tag : Nat) (s : State) : Ans := .next <|
  ringCmdIf 1 0x03 tag (fun d => decide (d.p0 < 2 ^ 32) && decide (d.p1 < 2)) (fun d s =>
    let s := auditCmd s 1 0x03 d.p0
    match findSess s (fun e => e.live && e.number == d.p0) with
    | some i => complete (endEntry s i (if bitAt d.p1 0 then 0x06 else 0x05)) 1 tag stOk 1
    | none => complete s 1 tag stOk 0) s

/-- Sessions that a cause ends or sends to HOLDING (R254, END_GROUP). -/
def endsOrHolds (e : SessionEntry) (cause : Nat) : Bool := e.phase == .open || (e.live && !holdAllows cause)

/-- END_GROUP. -/
def execEndGroup (tag : Nat) (s : State) : Ans := .next <|
  ringCmdIf 1 0x04 tag (fun d => decide (d.p0 < 2) && decide (d.p1 < 2)) (fun d s =>
    let g := d.p0
    let cause := if bitAt d.p1 0 then 0x06 else 0x05
    let n := (entries.filter (fun i => (s.sess i).group == g && endsOrHolds (s.sess i) cause)).length
    let s := auditCmd s 1 0x04 0
    complete (endEntries s (fun e => e.live && e.group == g) cause) 1 tag stOk n) s

/-- SET_DEADLINE: the deadline of an OPEN session, 1-86,400 s from now. -/
def execSetDeadline (tag : Nat) (s : State) : Ans := .next <|
  ringCmdIf 1 0x05 tag (fun d => decide (d.p0 < 2 ^ 32) && decide (1 ≤ d.p1) && decide (d.p1 ≤ 86400)) (fun d s =>
    let s := auditCmd s 1 0x05 d.p0
    match findSess s (fun e => e.phase == .open && e.number == d.p0) with
    | some i => complete (s.setSess i { s.sess i with deadline := s.now + 1000 * d.p1 }) 1 tag stOk 1
    | none => complete s 1 tag stOk 0) s

/-- The lowest-numbered enabled remote route that names a position (R254). -/
def routeTo (s : State) (pos : Nat) : Option Nat :=
  [0, 1].find? (fun g => s.on (relRouteEn g) && s.on (relRouteRemote g) && s.eff (relRoutePosition g) == pos)

/-- END_REMOTE: a SESSION_END is sent to the owner. -/
def execEndRemote (tag : Nat) (s : State) : Ans :=
  inputTo s (.endRemote tag) <| .next <|
  ringCmdIf 1 0x06 tag (fun d => d.len = 0 && decide (d.p1 < 64) && decide (d.p0 < 2 ^ 32)) (fun d s =>
    let s := auditCmd s 1 0x06 d.addr
    match routeTo s d.p1, fabricSlot s with
    | some g, some k =>
      let t := sendRelease s k (s.addr / 64 * 64 + d.p1) 0x03 ([0x03, BitVec.ofNat 8 (s.eff (relRouteTarget g)), 0, 0] ++
        beBytes 6 s.fab.time ++ beBytes 4 d.p0 ++ beBytes 8 d.addr ++ [0, 0])
      complete t 1 tag stOk 1
    | _, _ => complete s 1 tag stOk 0) s

/-- GROUP_DISABLE (R256): a write of 0 to REL_GROUPg.EN ends that group's sessions. -/
def execGroupDisable (group : Nat) (s : State) : Ans := .next <|
  s.when (group < 2 && s.mode == .running) (auditedWrite 0 ((Reg.relGroupEn group).key / 32) fun s =>
    groupDisabled group (storeField s (Reg.relGroupEn group) .immediate 0))

end Sys2Proof.Machine
end

