-- ==== Sys2Proof/Machine/Start.lean ====
section
/-! DEFINITION. Resets and the start sequence (15_power_and_supervision.md R401-R405, R412). -/
namespace Sys2Proof.Machine

/-- POWER_ON_RESET (R401 cause 0x01, R404): from any state the device resets as a whole and waits for its start. -/
def execPowerOnReset (vddIo : Nat) (vbkHeld : Bool) (s : State) (levels : List Nat := [800, 1800, 1800, 0, 3000, 0]) : Ans :=
  .next <| powerOn vddIo vbkHeld levels s

/-- NRST (R401 cause 0x02): a reset of everything but the RTC. -/
def execNrst (s : State) : Ans := .next <| s.when (s.mode != .seed) (resetDevice 0x02)

/-- BROWN_OUT (R401 cause 0x03, R405): the restart that ends a main supply failure. VDD_CORE below its reset threshold is absent: the device
is at SEED until it comes back, which is a power-on (R397; log 137). -/
def execBrownOut (s : State) (mv : Nat := 0) : Ans := .next <|
  match s.pwr.failedSupply with
  | some k => s.when (s.mode != .seed && failureEnds s k mv) fun s =>
      let t := resetDevice 0x03 { s with pwr := { s.pwr with supplies := s.pwr.supplies.set k mv } }
      if k = 0 && mv < 700 then { t with mode := .seed } else t
  | none => s

/-- PWR_RESTART (R412): a host write of 1 to PWR_CTRL.RESTART. -/
def execPwrRestart (s : State) : Ans := .next <| restartWritten s

/-- An automatic restart is allowed: the grace time has ended, PWR_CTRL.AUTO_RESTART is 1 and fewer than 3 were made within
the latest 86,400 s (R412). -/
def autoRestartAllowed (s : State) : Bool :=
  s.mode == .failed && s.pwr.graceEnd.isNone && s.on Reg.pwrCtrlAutoRestart && decide (autoCount s < 3)

/-- AUTO_RESTART (R401 cause 0x06, R412): the RTC second of the restart is recorded in KEEP SRAM. -/
def execAutoRestart (s : State) : Ans := .next <|
  s.when (autoRestartAllowed s) fun s =>
    resetDevice 0x06 { s with pwr := { s.pwr with
      autoRestarts := s.rtc :: s.pwr.autoRestarts.filter (fun t => decide (s.rtc < t + 86400)) } }

/-- WATCHDOG_RESET (R401 cause 0x07); the watchdog is disabled in FAILED (R411). -/
def execWatchdogReset (s : State) : Ans := .next <| s.when s.running (resetDevice 0x07)

/-- START_SEQUENCE (R402): the device verifies its code, restores its state and ends in RUNNING, in RECOVERY where its code
fails a check (14 R373), or in FAILED. The nonce service must have passed its start-up test (07 R179). -/
def execStartSequence (r : StartResult) (s : State) : Ans := .next <|
  s.when (s.mode == .starting && s.stat Reg.cipStatusTrngReady = 1) fun s =>
    let s := sourceTaken r.swing38 { s with nvwp := r.nvwp }
    match codeVerified r s with
    | some c => startRuns r c s
    | none => recovers (loaderChosen s r.loader0 r.loader1) s

end Sys2Proof.Machine
end

