-- ==== Sys2Proof/Machine/Update.lean ====
section
/-! DEFINITION. The meanings of ring 10 and of the events of a live update (14_live_update.md R371-R391). -/
namespace Sys2Proof.Machine

/-- The bits of `w` above its low `n` are zero. -/
def onlyLow (n w : Nat) : Bool := decide (w < 2 ^ n)

/-- A header in progress becomes the region's header: the image is WRITTEN (R376). -/
def imageWritten (s : State) : State :=
  let h := s.upd.header
  let s := if s.upd.loader then { s with upd := { s.upd with
      loaderHeaders := putEntry s.upd.loaderHeaders (loaderTarget s) h } }
    else { s with upd := { s.upd with mainHeader := some h } }
  auditCmd { s with upd := { s.upd with phase := .written } } 10 0x02 0

/-- An accepted BEGIN (R374): the matching chunks count as written; where every chunk matches, the header is all that is left
to program. -/
def beginAccepted (d : Desc) (h : Bytes) (s : State) : State :=
  let loader := bitAt d.p0 0
  let m := matchingChunks s h loader
  let s := auditCmd (applyTiming .update s) 10 0x01 0
  let s := { s with upd := { s.upd with
    phase := .receiving, header := h, loader := loader, written := m, eraseHeader := m = 0, deferred := none } }
  let s := complete s 10 d.tag stOk (hdrChunks h + 256 * nextChunk s + 65536 * hdrFormat h)
  if nextChunk s = hdrChunks h then imageWritten s else s

/-- Every chunk of the region already matches this header, so that BEGIN programs its header sector. -/
def allMatch (s : State) (h : Bytes) (loader : Bool) : Bool := popCount 29 (matchingChunks s h loader) = hdrChunks h

/-- BEGIN (R374). Where only the header sector is to be programmed, a deferral of that under the supply check completes NV_DEFERRED
with nothing begun (R376; log 135). -/
def execBegin (tag : Nat) (data : Bytes) (s : State) (suppliesOk : Bool := true) : Ans :=
  inputTo s (.begin_ tag data suppliesOk) <| .next <|
  ringCmdIf 10 0x01 tag (fun d => d.len = 4096 && onlyLow 1 d.p0) (fun d s =>
    let h := padTo 4096 data
    let st := headerStatus s h (bitAt d.p0 0)
    if s.nvwp then complete s 10 tag stWriteProtected 0
    else if s.upd.phase == .activating then complete s 10 tag stSequence 0
    else if st ≠ stOk then complete s 10 tag st 0
    else if allMatch s h (bitAt d.p0 0) && s.nvs.failing then s
    else if allMatch s h (bitAt d.p0 0) && !(suppliesOk && s.nvs.holdSeen) then complete (noteDeferred s) 10 tag stNvDeferred 0
    else beginAccepted d h s) s

/-- The content of a chunk (R375): what the chunk buffer holds of it, the data, or in a Graft without FULL the delta applied to
the chunk in flash. -/
def chunkContent (s : State) (d : Desc) (data : Bytes) : Option Bytes :=
  let i := d.p0 % 256
  match s.upd.deferred.filter (fun e => e.1 == d.tag) with
  | some (_, c) => some c
  | none =>
    if s.on Reg.updCtrlMethod && !bitAt d.p0 8 then
      applyDelta (data.length + 1) (targetChunk s s.upd.loader i) data (chunkLength s.upd.header i) []
    else some data

/-- The first `n` sectors of a chunk are erased and programmed, and the rest of it stands as it was; before the first of a
region with no match its header sector is erased (R374-R376). -/
def sectorsProgrammed (s : State) (i : Nat) (c : Bytes) (n : Nat) : State :=
  let t := loaderTarget s
  let mixed := c.take (n * sectorBytes) ++ (targetChunk s s.upd.loader i).drop (n * sectorBytes)
  let s := if !s.upd.eraseHeader then s
    else if s.upd.loader then { s with upd := { s.upd with loaderHeaders := putEntry s.upd.loaderHeaders t [] } }
    else { s with upd := { s.upd with mainHeader := some [] } }
  let s := if s.upd.loader then { s with upd := { s.upd with loaderBodies := putEntry s.upd.loaderBodies t mixed } }
    else { s with upd := { s.upd with mainChunks := putEntry s.upd.mainChunks i mixed } }
  { s with upd := { s.upd with eraseHeader := false } }

/-- Sectors of a chunk. -/
def chunkSectors (c : Bytes) : Nat := (c.length + sectorBytes - 1) / sectorBytes

/-- Sectors to program with this chunk: its own, and after the last chunk the header sector (R376). -/
def sectorsDue (s : State) (i : Nat) (c : Bytes) : Nat :=
  chunkSectors c + bit (nextChunk { s with upd := { s.upd with written := setBit s.upd.written i } } = hdrChunks s.upd.header)

/-- A chunk's sectors have all been programmed: it counts as written, and after the last chunk the header sector follows. -/
def chunkProgrammed (s : State) (tag i : Nat) (c : Bytes) : State :=
  let s := sectorsProgrammed s i c (chunkSectors c)
  let s := if s.upd.loader then { s with upd := { s.upd with loaderBodies := putEntry s.upd.loaderBodies (loaderTarget s) c } }
    else { s with upd := { s.upd with mainChunks := putEntry s.upd.mainChunks i c } }
  let s := { s with upd := { s.upd with deferred := none, written := setBit s.upd.written i } }
  let s := complete s 10 tag stOk (popCount 29 s.upd.written)
  if nextChunk s = hdrChunks s.upd.header then imageWritten s else s

/-- CHUNK (R375, R376). The supply check lets `sectors` of its sectors pass, the header sector after the last chunk among them (log
135); a chunk of which one is deferred waits in the chunk
buffer with those written standing, and the same command, or CHUNK_DEFER_EXPIRY, ends it. -/
def execChunk (tag : Nat) (data : Bytes) (sectors : Nat) (s : State) : Ans :=
  inputTo s (.chunk tag data sectors) <| .next <|
  ringCmdIf 10 0x02 tag (fun d => 1 ≤ d.len && d.len ≤ 131072 && onlyLow 9 d.p0) (fun d s =>
    let i := d.p0 % 256
    if s.nvwp then complete s 10 tag stWriteProtected 0
    else if s.upd.phase != .receiving || i ≠ nextChunk s then complete s 10 tag stSequence 0
    else match chunkContent s d (padTo d.len data) with
      | none => complete s 10 tag stBadField 0
      | some c =>
        let n := if s.nvs.holdSeen then sectors else 0
        if !chunkMatches s.upd.header i c then complete s 10 tag stChunkMismatch 0
        else if s.nvs.failing then s
        else if sectorsDue s i c ≤ n then chunkProgrammed s tag i c
        else
          let s := if n = 0 then s else passAbort (sectorsProgrammed s i c n) 10 tag
          noteDeferred { s with upd := { s.upd with deferred := some (tag, c) } }) s

/-- CHUNK_DEFER_EXPIRY (R376). -/
def execChunkDeferExpiry (s : State) : Ans :=
  inputTo s .chunkDeferExpiry <| .next <|
  match s.upd.deferred with
  | some (tag, _) => complete { s with upd := { s.upd with deferred := none } } 10 tag stNvDeferred 0
  | none => s

/-- A blob of the format of the image in progress, whose header passes 12 R332 (R390). -/
def newBlob (s : State) (b : Bytes) : Bool :=
  blobVersion b = hdrFormat s.upd.header && blobStatus (hdrFormat s.upd.header) b = stOk

/-- ACTIVATE (R379, R380, R390): `bundleOk` says that the bundle signature verifies. One whose bundle does not completes
BAD_IMAGE with nothing changed (DESIGN CHOICE, log 135). -/
def execActivate (tag : Nat) (data : Bytes) (s : State) (bundleOk : Bool := true) : Ans := .next <|
  ringCmdIf 10 0x03 tag (fun d => onlyLow 1 d.p0 && (d.len = 0 || newBlob s (padTo d.len data) ||
      s.upd.phase != .written || s.upd.loader)) (fun d s =>
    let b := padTo d.len data
    if s.upd.phase != .written || s.upd.loader then complete s 10 tag stSequence 0
    else if !bitAt d.p0 0 then complete ((auditCmd s 10 0x03 0).setStat Reg.updProgressRoles 0) 10 tag stOk 0
    else
      let st := activateStatus s b
      if st ≠ stOk then complete (restartNeeded s) 10 tag st 0
      else if !bundleOk then complete s 10 tag stBadImage 0
      else
        let s := auditCmd (applyTiming .update s) 10 0x03 0
        let a : Activation := ⟨tag, .role 0, 0, if b.isEmpty then none else some b, s.upd.running⟩
        markTaken ({ s with upd := { s.upd with phase := .activating, act := some a } }.setStat Reg.updProgressRoles 0)
          10 tag false) s

/-- ROLE_HANDOVER_SWAP (R381): the next role runs on the engine that held the spare. -/
def execRoleHandoverSwap (sectionOk : Bool) (s : State) : Ans := .next <|
  s.when s.running fun s =>
    match s.upd.act with
    | some a =>
      match a.step with
      | .role n => if sectionOk then roleSwapped s a n else abandonMixed s
      | .app | .refill _ => s
    | none => s

/-- The APP bank is loaded and its handover point awaited. -/
def atAppStep (s : State) : Option Activation :=
  match s.upd.act with
  | some a => if s.running && a.step == .app then some a else none
  | none => none

/-- APP_HANDOVER_POINT (R382): APP switches to the new bank; the ACTIVATE completes as the refill of the old one ends. -/
def execAppHandoverPoint (s : State) : Ans := .next <|
  match atAppStep s with
  | some a => appSwitches s a
  | none => s

/-- APP_WAIT_EXPIRY (R382): with APP_FORCE, APP warm-restarts into the new bank; without, its handover is abandoned. -/
def execAppWaitExpiry (s : State) : Ans := .next <|
  match atAppStep s with
  | some a =>
    if s.on Reg.updCtrlAppForce then appSwitches (restartNeeded s) a else abandonActivation s
  | none => s

/-- RESTART (R390): the command completes, its audit entry is committed, and the device restarts. -/
def execRestart (tag : Nat) (s : State) : Ans := .next <|
  ringCmd 10 0x04 tag (fun _ s => resetDevice 0x04 (auditCommitted (complete (auditCmd s 10 0x04 0) 10 tag stOk 0))) s

/-- EXPORT_ASSET is permitted to the host (R386): as the Holly table is, or in RETURNED before its erase. -/
def exportPermits (s : State) : Bool :=
  attestUsable s && (hollyPermits s || (s.cip.lifeCycle == .returned && !s.aut.table.slots.isEmpty))

/-- EXPORT_ASSET (R386). A silent refusal writes zeros over the buffer. -/
def execExportAsset (tag : Nat) (s : State) : Ans := .next <|
  ringCmd 10 0x05 tag (fun d s =>
    if !exportPermits s then refuseSilent s 10 d d.len
    else
      let r := assetRecord s
      if d.len < r.length then complete s 10 tag stBadField 0
      else completeData (useSlot s 1) 10 d r r.length) s

/-- IMPORT_ASSET (R387, R388). A record that passes every condition of R387 and carries what cannot be applied completes BAD_FIELD
(log 156, DESIGN CHOICE). -/
def execImportAsset (tag : Nat) (data : Bytes) (suppliesOk : Bool) (s : State) : Ans :=
  inputTo s (.importAsset tag data suppliesOk) <| .next <|
  ringCmdIf 10 0x06 tag (fun d => assetForm (padTo d.len data)) (fun d s =>
    let r := padTo d.len data
    changeCmd 10 d true (fun s =>
      let w := assetReason s r (leBytes 8 d.p0 ++ leBytes 8 d.p1)
      let s := authJob true s
      if w ≠ 0 then complete s 10 tag stAssetRefused w
      else if !assetBody r then complete s 10 tag stBadField 0
      else if !suppliesOk || !s.nvs.holdSeen then complete (noteDeferred s) 10 tag stNvDeferred 0
      else nvRequest (markTaken s 10 tag false) (importItems s (some tag) r) (.import (some tag) r)) s) s

/-- SET_APPKEY (R390): the digest of the key is programmed once, in BLANK or PROVISIONED. -/
def execSetAppkey (tag : Nat) (data : Bytes) (s : State) : Ans := .next <|
  ringCmdIf 10 0x07 tag (fun d => d.len = 64) (fun d s =>
    if !(s.upd.appKey = 0 && (s.cip.lifeCycle == .blank || s.cip.lifeCycle == .provisioned)) then refuseSilent s 10 d 0
    else if s.nvwp then complete s 10 tag stWriteProtected 0
    else
      let s := { s with upd := { s.upd with appKey := beNat (sha256 (padTo 64 data)) } }
      complete (auditCmd s 10 0x07 0) 10 tag stOk 0) s

end Sys2Proof.Machine
end

