-- ==== Sys2Proof/Machine/Dispatch.lean ====
section
/-! DEFINITION. One arm for each constructor of Instr: a direct call of its meaning, or the refusal by name. -/
namespace Sys2Proof.Machine

/-- The effect of a command on everything but the queue (spec/opcode_table.json, arm by arm in its order). -/
def exec (i : Instr) (s : State) : Host.Outcome State Fault Refusal :=
  match i with
  | .registerWrite off value => Sys2Proof.Machine.execRegisterWrite off value s
  | .profileWrite value => Sys2Proof.Machine.execProfileWrite value s
  | .pollCycleBoundary => Sys2Proof.Machine.execPollCycleBoundary s
  | .wakePatternStart vlf => Sys2Proof.Machine.execWakePatternStart vlf s
  | .dutyTick => Sys2Proof.Machine.execDutyTick s
  | .vlfLowRetest vlf => Sys2Proof.Machine.execVlfLowRetest vlf s
  | .vlfCollapse vlf => Sys2Proof.Machine.execVlfCollapse vlf s
  | .bridgeOvercurrent chan toVlf => Sys2Proof.Machine.execBridgeOvercurrent chan toVlf s
  | .wakePatternEnd estA estB loopA loopB => Sys2Proof.Machine.execWakePatternEnd estA estB loopA loopB s
  | .lfStartWaitEnd => Sys2Proof.Machine.execLfStartWaitEnd s
  | .lfDiagPeriod => Sys2Proof.Machine.execLfDiagPeriod s
  | .diagNow => Sys2Proof.Machine.execDiagNow s
  | .lfRearm chan => Sys2Proof.Machine.execLfRearm chan s
  | .lfDiagBurstEnd chan trip current resonance => Sys2Proof.Machine.execLfDiagBurstEnd chan trip current resonance s
  | .announceWindowOpen => Sys2Proof.Machine.execAnnounceWindowOpen s
  | .slotEmptyClose => Sys2Proof.Machine.execSlotEmptyClose s
  | .slotGuardEnd => Sys2Proof.Machine.execSlotGuardEnd s
  | .announceFrame rssi frame => Sys2Proof.Machine.execAnnounceFrame rssi frame s
  | .challengeTurn ctx lock => Sys2Proof.Machine.execChallengeTurn ctx lock s
  | .responseFrame start10ns rssi frame complete => Sys2Proof.Machine.execResponseFrame start10ns rssi frame complete s
  | .responseTimeout => Sys2Proof.Machine.execResponseTimeout s
  | .uwbRoundStart sinceGrant sinceReq counter => Sys2Proof.Machine.execUwbRoundStart sinceGrant sinceReq counter s
  | .rangeGrantTimeout ctx => Sys2Proof.Machine.execRangeGrantTimeout ctx s
  | .uwbResponseFrame counter phases offset => Sys2Proof.Machine.execUwbResponseFrame counter phases offset s
  | .uwbFinalTx counter => Sys2Proof.Machine.execUwbFinalTx counter s
  | .uwbReportFrame payload => Sys2Proof.Machine.execUwbReportFrame payload s
  | .uwbRxWindowEnd => Sys2Proof.Machine.execUwbRxWindowEnd s
  | .uwbLockLoss => Sys2Proof.Machine.execUwbLockLoss s
  | .uwbTxWaitExpiry => Sys2Proof.Machine.execUwbTxWaitExpiry s
  | .boundingRunComplete rounds => Sys2Proof.Machine.execBoundingRunComplete rounds s
  | .fusionComplete ctx => Sys2Proof.Machine.execFusionComplete ctx s
  | .grantAnswerTimeout ctx group => Sys2Proof.Machine.execGrantAnswerTimeout ctx group s
  | .releaseLatchTaken group => Sys2Proof.Machine.execReleaseLatchTaken group s
  | .coilPollStart vlf => Sys2Proof.Machine.execCoilPollStart vlf s
  | .coilSettleEnd current phaseOk fullDuty => Sys2Proof.Machine.execCoilSettleEnd current phaseOk fullDuty s
  | .coilOvercurrent => Sys2Proof.Machine.execCoilOvercurrent s
  | .coilVlfCollapse => Sys2Proof.Machine.execCoilVlfCollapse s
  | .walkReply start halves => Sys2Proof.Machine.execWalkReply start halves s
  | .selectedReply start current frame => Sys2Proof.Machine.execSelectedReply start current frame s
  | .nonceReply start current frame => Sys2Proof.Machine.execNonceReply start current frame s
  | .authReply start current frame => Sys2Proof.Machine.execAuthReply start current frame s
  | .passwordReply start current frame => Sys2Proof.Machine.execPasswordReply start current frame s
  | .securedReply start current frame => Sys2Proof.Machine.execSecuredReply start current frame s
  | .tpxReplyMissing current sentInFull => Sys2Proof.Machine.execTpxReplyMissing current sentInFull s
  | .tpxRearm => Sys2Proof.Machine.execTpxRearm s
  | .tpxReportBuffer tag => Sys2Proof.Machine.execTpxReportBuffer tag s
  | .pollNow tag => Sys2Proof.Machine.execPollNow tag s
  | .inventory tag => Sys2Proof.Machine.execInventory tag s
  | .readBlock tag => Sys2Proof.Machine.execReadBlock tag s
  | .writeBlock tag data => Sys2Proof.Machine.execWriteBlock tag data s
  | .sgrSynthLock => Sys2Proof.Machine.execSgrSynthLock s
  | .sgrLockLoss => Sys2Proof.Machine.execSgrLockLoss s
  | .sgrTxWaitExpiry => Sys2Proof.Machine.execSgrTxWaitExpiry s
  | .sgrTxEnd => Sys2Proof.Machine.execSgrTxEnd s
  | .temperatureSample tenths => Sys2Proof.Machine.execTemperatureSample tenths s
  | .calBlockEnd failed => Sys2Proof.Machine.execCalBlockEnd failed s
  | .oscMeasureEnd count => Sys2Proof.Machine.execOscMeasureEnd count s
  | .coexGrantChange level => Sys2Proof.Machine.execCoexGrantChange level s
  | .txPacket tag data => Sys2Proof.Machine.execTxPacket tag data s
  | .rxPacket tag => Sys2Proof.Machine.execRxPacket tag s
  | .calibrate tag => Sys2Proof.Machine.execCalibrate tag s
  | .regrecRead tag => Sys2Proof.Machine.execRegrecRead tag s
  | .regrecWrite tag data => Sys2Proof.Machine.execRegrecWrite tag data s
  | .rssi tag => Sys2Proof.Machine.execRssi tag s
  | .prxReportBuffer tag => Sys2Proof.Machine.execPrxReportBuffer tag s
  | .testPoint tag => Sys2Proof.Machine.execTestPoint tag s
  | .encrypt tag data => Sys2Proof.Machine.execEncrypt tag data s
  | .decrypt tag data side => Sys2Proof.Machine.execDecrypt tag data side s
  | .mac tag data => Sys2Proof.Machine.execMac tag data s
  | .nonce tag => Sys2Proof.Machine.execNonce tag s
  | .counter tag => Sys2Proof.Machine.execCounter tag s
  | .privetRemask => Sys2Proof.Machine.execPrivetRemask s
  | .drbgReseed end_ => Sys2Proof.Machine.execDrbgReseed end_ s
  | .entropyWindowEnd first rest => Sys2Proof.Machine.execEntropyWindowEnd first rest s
  | .trngStartupTestEnd bits => Sys2Proof.Machine.execTrngStartupTestEnd bits s
  | .loadClear tag data => Sys2Proof.Machine.execLoadClear tag data s
  | .loadWrapped tag data => Sys2Proof.Machine.execLoadWrapped tag data s
  | .derive tag data => Sys2Proof.Machine.execDerive tag data s
  | .erase tag => Sys2Proof.Machine.execErase tag s
  | .narrow tag => Sys2Proof.Machine.execNarrow tag s
  | .attest tag => Sys2Proof.Machine.execAttest tag s
  | .lcNonce tag => Sys2Proof.Machine.execLcNonce tag s
  | .lcNonceExpiry => Sys2Proof.Machine.execLcNonceExpiry s
  | .lcAdvance tag data => Sys2Proof.Machine.execLcAdvance tag data s
  | .enroll tag data => Sys2Proof.Machine.execEnroll tag data s
  | .revoke tag => Sys2Proof.Machine.execRevoke tag s
  | .readSlot tag => Sys2Proof.Machine.execReadSlot tag s
  | .find tag => Sys2Proof.Machine.execFind tag s
  | .learnBegin tag => Sys2Proof.Machine.execLearnBegin tag s
  | .learnEntries tag data => Sys2Proof.Machine.execLearnEntries tag data s
  | .learnCommit tag data => Sys2Proof.Machine.execLearnCommit tag data s
  | .learnCancel tag => Sys2Proof.Machine.execLearnCancel tag s
  | .unlock tag => Sys2Proof.Machine.execUnlock tag s
  | .digest tag => Sys2Proof.Machine.execDigest tag s
  | .learnedSetEffective => Sys2Proof.Machine.execLearnedSetEffective s
  | .lockoutEnd slot => Sys2Proof.Machine.execLockoutEnd slot s
  | .unknownLockoutEnd => Sys2Proof.Machine.execUnknownLockoutEnd s
  | .lockoutCheckpoint => Sys2Proof.Machine.execLockoutCheckpoint s
  | .sessionTimeout entry => Sys2Proof.Machine.execSessionTimeout entry s
  | .auxAdcFrame doors rb aux => Sys2Proof.Machine.execAuxAdcFrame doors rb aux s
  | .readbackTimeout group => Sys2Proof.Machine.execReadbackTimeout group s
  | .holdSample => Sys2Proof.Machine.execHoldSample s
  | .holdMaxtimeExpiry entry => Sys2Proof.Machine.execHoldMaxtimeExpiry entry s
  | .queueWaitExpiry place => Sys2Proof.Machine.execQueueWaitExpiry place s
  | .faultGraceExpiry => Sys2Proof.Machine.execFaultGraceExpiry s
  | .sessionCeilingCommit suppliesOk verifyOk => Sys2Proof.Machine.execSessionCeilingCommit suppliesOk s verifyOk
  | .releaseGrant src dst seq payload => Sys2Proof.Machine.execReleaseGrant src dst seq payload s
  | .grantAnswer src dst seq payload => Sys2Proof.Machine.execGrantAnswer src dst seq payload s
  | .sessionEnd src dst seq payload => Sys2Proof.Machine.execSessionEnd src dst seq payload s
  | .eventBuffer tag => Sys2Proof.Machine.execEventBuffer tag s
  | .list tag => Sys2Proof.Machine.execList tag s
  | .endSession tag => Sys2Proof.Machine.execEndSession tag s
  | .endGroup tag => Sys2Proof.Machine.execEndGroup tag s
  | .setDeadline tag => Sys2Proof.Machine.execSetDeadline tag s
  | .endRemote tag => Sys2Proof.Machine.execEndRemote tag s
  | .groupDisable group => Sys2Proof.Machine.execGroupDisable group s
  | .decimatorResult codes still => Sys2Proof.Machine.execDecimatorResult codes still s
  | .channelUsableReturn chan => Sys2Proof.Machine.execChannelUsableReturn chan s
  | .xchkWindowEnd => Sys2Proof.Machine.execXchkWindowEnd s
  | .meterCheckpoint => Sys2Proof.Machine.execMeterCheckpoint s
  | .meterSettingsApply => Sys2Proof.Machine.execMeterSettingsApply s
  | .receiptFormed => Sys2Proof.Machine.execReceiptFormed s
  | .receiptCommitted suppliesOk verifyOk => Sys2Proof.Machine.execReceiptCommitted suppliesOk verifyOk s
  | .receiptKeyUsable => Sys2Proof.Machine.execReceiptKeyUsable s
  | .receiptBuffer tag => Sys2Proof.Machine.execReceiptBuffer tag s
  | .ack tag => Sys2Proof.Machine.execAck tag s
  | .readReceipt tag => Sys2Proof.Machine.execReadReceipt tag s
  | .counters tag => Sys2Proof.Machine.execCounters tag s
  | .rollNonce tag => Sys2Proof.Machine.execRollNonce tag s
  | .rollNonceExpiry => Sys2Proof.Machine.execRollNonceExpiry s
  | .rollover tag data => Sys2Proof.Machine.execRollover tag data s
  | .counterLoRead counter => Sys2Proof.Machine.execCounterLoRead counter s
  | .linkLoss port codes => Sys2Proof.Machine.execLinkLoss port codes s
  | .hello port frame => Sys2Proof.Machine.execHello port frame s
  | .helloTimeout port => Sys2Proof.Machine.execHelloTimeout port s
  | .joinReqRetry => Sys2Proof.Machine.execJoinReqRetry s
  | .joinReq port frame => Sys2Proof.Machine.execJoinReq port frame s
  | .joinAnswer port frame => Sys2Proof.Machine.execJoinAnswer port frame s
  | .addrFullRetry => Sys2Proof.Machine.execAddrFullRetry s
  | .leave port frame => Sys2Proof.Machine.execLeave port frame s
  | .positionLeaveTimeout pos => Sys2Proof.Machine.execPositionLeaveTimeout pos s
  | .timeSyncSend => Sys2Proof.Machine.execTimeSyncSend s
  | .timeSync port residence frame => Sys2Proof.Machine.execTimeSync port residence frame s
  | .timeSyncLoss => Sys2Proof.Machine.execTimeSyncLoss s
  | .frameReceived port first rest => Sys2Proof.Machine.execFrameReceived port first rest s
  | .frameSent out cls => Sys2Proof.Machine.execFrameSent out cls s
  | .spillReadback out cls corrupt => Sys2Proof.Machine.execSpillReadback out cls corrupt s
  | .portEvent port frame => Sys2Proof.Machine.execPortEvent port frame s
  | .prepare port frame => Sys2Proof.Machine.execPrepare port frame s
  | .ready port frame => Sys2Proof.Machine.execReady port frame s
  | .flip port frame => Sys2Proof.Machine.execFlip port frame s
  | .retired port frame => Sys2Proof.Machine.execRetired port frame s
  | .cancel port frame => Sys2Proof.Machine.execCancel port frame s
  | .readyTimeout => Sys2Proof.Machine.execReadyTimeout s
  | .retireTimeout => Sys2Proof.Machine.execRetireTimeout s
  | .updateRepeat => Sys2Proof.Machine.execUpdateRepeat s
  | .holdTimeExpiry port => Sys2Proof.Machine.execHoldTimeExpiry port s
  | .asleepHoldExpiry port => Sys2Proof.Machine.execAsleepHoldExpiry port s
  | .wakeSequence port => Sys2Proof.Machine.execWakeSequence port s
  | .segAdvertSend => Sys2Proof.Machine.execSegAdvertSend s
  | .segAdvert port frame => Sys2Proof.Machine.execSegAdvert port frame s
  | .rejoin => Sys2Proof.Machine.execRejoin s
  | .fabTimeLoRead => Sys2Proof.Machine.execFabTimeLoRead s
  | .uwbTimeLoRead => Sys2Proof.Machine.execUwbTimeLoRead s
  | .send tag data => Sys2Proof.Machine.execSend tag data s
  | .recvBuffer tag => Sys2Proof.Machine.execRecvBuffer tag s
  | .peerMessage src seq time channel multicast data => Sys2Proof.Machine.execPeerMessage src seq time channel multicast data s
  | .pcieReset => Sys2Proof.Machine.execPcieReset s
  | .sqTail pos ring value word => Sys2Proof.Machine.execSqTail pos ring value s word
  | .cqHead pos ring value word => Sys2Proof.Machine.execCqHead pos ring value s word
  | .descriptorFetch ring bytes nvwp => Sys2Proof.Machine.execDescriptorFetch ring bytes s nvwp
  | .nop ring tag => Sys2Proof.Machine.execNop ring tag s
  | .abort ring tag => Sys2Proof.Machine.execAbort ring tag s
  | .pcieDmaError ring kind tag => Sys2Proof.Machine.execPcieDmaError ring kind tag s
  | .interruptCoalesceExpiry ring => Sys2Proof.Machine.execInterruptCoalesceExpiry ring s
  | .ringEnable ring => Sys2Proof.Machine.execRingEnable ring s
  | .ringDisable ring => Sys2Proof.Machine.execRingDisable ring s
  | .ringDrained ring => Sys2Proof.Machine.execRingDrained ring s
  | .bar4Access pos off write value => Sys2Proof.Machine.execBar4Access pos off write value s
  | .doorbell seq ack ring kind value => Sys2Proof.Machine.execDoorbell seq ack ring kind value s
  | .readReq pos seq ack ring req len addr failed data => Sys2Proof.Machine.execReadReq pos seq ack ring req len addr failed data s
  | .readData seq ack ring req failed data => Sys2Proof.Machine.execReadData seq ack ring req failed data s
  | .proxyWrite pos seq ack ring addr data failed => Sys2Proof.Machine.execProxyWrite pos seq ack ring addr data s failed
  | .interrupt pos seq ack ring vector => Sys2Proof.Machine.execInterrupt pos seq ack ring vector s
  | .regWrite seq ack off value => Sys2Proof.Machine.execRegWrite seq ack off value s
  | .regRead seq ack req off => Sys2Proof.Machine.execRegRead seq ack req off s
  | .regData pos seq ack req value => Sys2Proof.Machine.execRegData pos seq ack req value s
  | .proxyAck pos cls ack => Sys2Proof.Machine.execProxyAck pos cls ack s
  | .proxyRtoExpiry pos cls => Sys2Proof.Machine.execProxyRtoExpiry pos cls s
  | .regwaitExpiry req => Sys2Proof.Machine.execRegwaitExpiry req s
  | .configApply tag data => Sys2Proof.Machine.execConfigApply tag data s
  | .configExport tag => Sys2Proof.Machine.execConfigExport tag s
  | .auditRead tag => Sys2Proof.Machine.execAuditRead tag s
  | .configSave nvwp => Sys2Proof.Machine.execConfigSave s nvwp
  | .auditCommit => Sys2Proof.Machine.execAuditCommit s
  | .post tag data => Sys2Proof.Machine.execPost tag data s
  | .mailboxRecvBuffer tag => Sys2Proof.Machine.execMailboxRecvBuffer tag s
  | .appMessage channel data => Sys2Proof.Machine.execAppMessage channel data s
  | .recordWriteDone suppliesOk verifyOk => Sys2Proof.Machine.execRecordWriteDone suppliesOk verifyOk s
  | .sectorEraseDone area blank suppliesOk => Sys2Proof.Machine.execSectorEraseDone area blank s suppliesOk
  | .vholdReady riseUs => Sys2Proof.Machine.execVholdReady riseUs s
  | .mainSupplyFailure vdd finalRecords mv cut flash unread => Sys2Proof.Machine.execMainSupplyFailure vdd finalRecords s mv cut flash unread
  | .scrubPeriod weak headers suppliesOk unread => Sys2Proof.Machine.execScrubPeriod weak s headers suppliesOk unread
  | .read tag => Sys2Proof.Machine.execRead tag s
  | .write tag data => Sys2Proof.Machine.execWrite tag data s
  | .delete tag => Sys2Proof.Machine.execDelete tag s
  | .hostRecordList tag => Sys2Proof.Machine.execHostRecordList tag s
  | .wear tag => Sys2Proof.Machine.execWear tag s
  | .scrubNow tag weak headers suppliesOk unread => Sys2Proof.Machine.execScrubNow tag weak s headers suppliesOk unread
  | .begin_ tag data suppliesOk => Sys2Proof.Machine.execBegin tag data s suppliesOk
  | .chunk tag data sectors => Sys2Proof.Machine.execChunk tag data sectors s
  | .chunkDeferExpiry => Sys2Proof.Machine.execChunkDeferExpiry s
  | .activate tag data bundleOk => Sys2Proof.Machine.execActivate tag data s bundleOk
  | .roleHandoverSwap sectionOk => Sys2Proof.Machine.execRoleHandoverSwap sectionOk s
  | .appHandoverPoint => Sys2Proof.Machine.execAppHandoverPoint s
  | .appWaitExpiry => Sys2Proof.Machine.execAppWaitExpiry s
  | .restart tag => Sys2Proof.Machine.execRestart tag s
  | .exportAsset tag => Sys2Proof.Machine.execExportAsset tag s
  | .importAsset tag data suppliesOk => Sys2Proof.Machine.execImportAsset tag data suppliesOk s
  | .setAppkey tag data => Sys2Proof.Machine.execSetAppkey tag data s
  | .deepAfterExpiry => Sys2Proof.Machine.execDeepAfterExpiry s
  | .wakeSource source => Sys2Proof.Machine.execWakeSource source s
  | .vbkLoss mv => Sys2Proof.Machine.execVbkLoss s mv
  | .clockMonitorFlag source => Sys2Proof.Machine.execClockMonitorFlag source s
  | .xtal32Recover => Sys2Proof.Machine.execXtal32Recover s
  | .setRtc tag data => Sys2Proof.Machine.execSetRtc tag data s
  | .rtcNonce tag => Sys2Proof.Machine.execRtcNonce tag s
  | .rtcNonceExpiry => Sys2Proof.Machine.execRtcNonceExpiry s
  | .selftest tag => Sys2Proof.Machine.execSelftest tag s
  | .prodTx tag => Sys2Proof.Machine.execProdTx tag s
  | .schedule tag => Sys2Proof.Machine.execSchedule tag s
  | .monitors tag => Sys2Proof.Machine.execMonitors tag s
  | .faults tag => Sys2Proof.Machine.execFaults tag s
  | .supervisionEventBuffer tag => Sys2Proof.Machine.execSupervisionEventBuffer tag s
  | .powerOnReset vddIo vbkHeld levels => Sys2Proof.Machine.execPowerOnReset vddIo vbkHeld s levels
  | .nrst => Sys2Proof.Machine.execNrst s
  | .brownOut mv => Sys2Proof.Machine.execBrownOut s mv
  | .pwrRestart => Sys2Proof.Machine.execPwrRestart s
  | .autoRestart => Sys2Proof.Machine.execAutoRestart s
  | .watchdogReset => Sys2Proof.Machine.execWatchdogReset s
  | .startSequence r => Sys2Proof.Machine.execStartSequence r s
  | .engineCheckpoint role => Sys2Proof.Machine.execEngineCheckpoint role s
  | .eccError memory unit double => Sys2Proof.Machine.execEccError memory unit double s
  | .engineFault role => Sys2Proof.Machine.execEngineFault role s
  | .spareTakeover loaded => Sys2Proof.Machine.execSpareTakeover loaded s
  | .appFault => Sys2Proof.Machine.execAppFault s
  | .quietSlotTask leakGnd leakVlf => Sys2Proof.Machine.execQuietSlotTask leakGnd leakVlf s
  | .taskDeadlinePreempt leakGnd leakVlf => Sys2Proof.Machine.execTaskDeadlinePreempt leakGnd leakVlf s
  | .spareMemoryTest pass => Sys2Proof.Machine.execSpareMemoryTest pass s
  | .sgrPacketReceived rssi frame => Sys2Proof.Machine.execSgrPacketReceived rssi frame s
  | .sgrRxTimeout => Sys2Proof.Machine.execSgrRxTimeout s
  | .rssiMeasureEnd mean => Sys2Proof.Machine.execRssiMeasureEnd mean s
  | .coexWaitExpiry => Sys2Proof.Machine.execCoexWaitExpiry s
  | .prodTxPeriod => Sys2Proof.Machine.execProdTxPeriod s
  | .receiptCommitRetry => Sys2Proof.Machine.execReceiptCommitRetry s
  | .reseedWaitExpiry => Sys2Proof.Machine.execReseedWaitExpiry s
  | .idleSequenceRun port => Sys2Proof.Machine.execIdleSequenceRun port s
  | .helloSend port => Sys2Proof.Machine.execHelloSend port s
  | .updateHoldoffEnd => Sys2Proof.Machine.execUpdateHoldoffEnd s
  | .pcieLinkUp gen2 maxRead => Sys2Proof.Machine.execPcieLinkUp gen2 s maxRead
  | .pcieLinkDown => Sys2Proof.Machine.execPcieLinkDown s
  | .pciePowerState d3hot => Sys2Proof.Machine.execPciePowerState d3hot s
  | .mailboxTake => Sys2Proof.Machine.execMailboxTake s
  | .tapInstruction instr => Sys2Proof.Machine.execTapInstruction instr s
  | .badAccessRead bar2Word => Sys2Proof.Machine.execBadAccessRead s bar2Word

end Sys2Proof.Machine
end

