-- ==== Sys2Proof/Machine/Tick.lean ====
section
/-! DEFINITION. The passing of one 1.000 ms tick when no command waits: the clocks that run by themselves, and what a resting
rung takes away. -/
namespace Sys2Proof.Machine

/-- Units of `rtcPhase` in a millisecond, a KEEP cycle and a second. -/
def rtcTick : Nat := 4096
def rtcCycle : Nat := 125
def rtcSecond : Nat := 4096000

/-- The KEEP cycle that the measured error of the crystal has run up to: dropped where it runs fast, added where it runs slow (05
R122). -/
def rtcAdjust (drift : Int) : Int :=
  if 9765625 ≤ drift then -1 else if drift ≤ -9765625 then 1 else 0

/-- What the RC oscillator gains or loses in this tick while KEEP runs from it: at most 1.5 % of the tick's units (15 R398; log
136). -/
def rcSlip (s : State) : Int :=
  if s.stat Reg.pwrStatusKeepRc = 1 then max (-61) (min 61 (Config.rcError s.now)) else 0

/-- The RTC one tick later (15 R400): 32.768 KEEP cycles and what the RC oscillator slips, and the cycle that cancels the
crystal's error once that has run up to one (05 R122): an error of 0.1 ppm is 32 parts of 9,765,625 of a cycle in a tick. -/
def tickRtc (rtcErr slip : Int) (p : Pwr) : Pwr :=
  let drift := p.rtcDrift + 32 * rtcErr
  let k := rtcAdjust drift
  let ph := ((p.rtcPhase + rtcTick : Nat) + slip + k * (rtcCycle : Nat) : Int).toNat
  { p with
    rtcDrift := drift + k * 9765625,
    rtcPhase := if rtcSecond ≤ ph then ph - rtcSecond else ph,
    rtc := if rtcSecond ≤ ph then (p.rtc + 1) % 2 ^ 32 else p.rtc }

/-- What was being sent has left: the receiver awaits the next frame of an exchange; a bounding run goes on from one direction to the
other (log 142), with UTRSW active throughout (06 R151); after a test frame the transceiver is off (05 R117). -/
def tickRound (u : Uwb) : Uwb :=
  match u.round with
  | some r =>
    if u.phase == .tx then { u with phase := .rx, utrsw := r.step == .bounding }
    else if u.phase == .rx && r.step == .bounding then { u with phase := .tx, utrsw := true }
    else u
  | none => if u.phase == .tx then { u with phase := .off, lock := false, utrsw := false } else u

/-- The UWB transceiver one tick later: its time counter runs while the RADIO island does, at BLOOM and LEAF (05 R114), and
a synthesiser that was calibrating at a lost lock has locked again (05 R117); outside a cycle the transceiver is then off. -/
def tickUwb (s : State) (u : Uwb) : Uwb :=
  let u := tickRound { u with time := if rung s ≤ 1 then (u.time + 63897600) % 2 ^ 40 else 0 }
  if u.phase == .cal && s.pwr.running.isNone then
    if s.cyc.phase == .idle then { u with phase := .off, lock := false } else { u with phase := .idle, lock := true }
  else u

/-- The sub-GHz transceiver stands idle or receives for nobody. -/
def sgrIdles (s : State) : Bool :=
  s.sgr.work == .none && s.sgr.jobs.isEmpty && (s.sgr.phase == .idle || s.sgr.phase == .synth || s.sgr.phase == .rx)

/-- At LEAF between cycles the sub-GHz transceiver is asleep; at BUD and below it is off (05 R105) and the working key register
cleared, and Privet masking pauses (15 R396). -/
def tickRest (s : State) : State :=
  if rung s = 0 then s
  else if rung s = 1 then if sgrIdles s then sgrIdleAt s .sleep else s
  else
    let s := maskingPauses (clearWorkingKey s)
    if s.sgr.phase == .off then s else sgrIdleAt s .off

/-- The RTC, fabric time (11 R292) and the UWB time counter move on by one millisecond. -/
def tickClocks (s : State) : State :=
  { s with
    now := s.now + 1,
    pwr := tickRtc s.sgr.rtcErr (rcSlip s) s.pwr,
    fab := { s.fab with time := if s.pwr.deep.isSome then s.fab.time else (s.fab.time + 1000) % 2 ^ 48 },
    uwb := tickUwb s s.uwb }

/-- The charger holds VHOLD at 5.00 V once it has raised it past 4.5 V (16 R426; log 161). -/
def tickCharger (s : State) : State :=
  s.when (chargerOn s && s.nvs.holdSeen && decide (vhold s < 5000)) fun s =>
    { s with pwr := { s.pwr with supplies := s.pwr.supplies.set 6 5000 } }

/-- One tick of 1.000 ms: the clocks move on, the charger fills HOLD, a resting rung takes what it takes, a life-cycle transition that waits for receipts no
longer owed goes on (07 R192), and so does a live ACTIVATE whose refill has ended (14 R382). Every other timed effect of the spec has
its own row of the table. -/
def tick (s : State) : State := refillEnds (lcProceeds (tickRest (tickCharger (tickClocks s))))

end Sys2Proof.Machine
end

