-- ==== Sys2Proof/Machine/Step.lean ====
section
/-! DEFINITION. One step: the command at the front of the queue, or, on an empty queue, a held input or one 1.000 ms tick. -/
namespace Sys2Proof.Machine

/-- What is left of the held inputs follows what the outcome itself holds. -/
def inputsKept (rest : List Instr) : Host.Outcome State Fault Refusal → Host.Outcome State Fault Refusal
  | .next t => .next { t with pwr := { t.pwr with inputs := rest ++ t.pwr.inputs } }
  | o => o

/-- No command waits: the role that was vacant takes the first of its held inputs (15 R408), or one tick of 1.000 ms passes (DESIGN
CHOICE, log 2). -/
def idle (s : State) : Host.Outcome State Fault Refusal :=
  match inputDue s with
  | some (c, rest) => inputsKept rest (Sys2Proof.Machine.exec c { s with pwr := { s.pwr with inputs := [] } })
  | none => .next (Sys2Proof.Machine.tick s)

/-- One step of the device: the front command's effect with the rest of the queue waiting; on an empty queue what is due by
itself. -/
def step (s : State) : Host.Outcome State Fault Refusal :=
  match s.pending with
  | [] => idle s
  | c :: rest => Sys2Proof.Machine.exec c { s with pending := rest }

/-- The state with the command that the table's bits spell put at the front of its queue. No row of the table has bits, so
no word spells one and the state is unchanged. -/
def State.withFetchWord (s : State) (nbits w : Nat) : State :=
  match Sys2Proof.decodeTableWord nbits w with
  | some c => { s with pending := c :: s.pending }
  | none => s

end Sys2Proof.Machine
end

