-- ==== Sys2Proof/Machine/Flash.lean ====
section
/-! DEFINITION. What the two flashes read: the header of a sector and the bytes of a record, a record that a power loss cut
among them (13_laurel_store.md R349, R350, R352, R354, R363). -/
namespace Sys2Proof.Machine

/-- The erased value of every byte (R349). -/
def erasedByte : Byte := 0xFF

/-- A flag byte of a sector header: 0x00 once programmed. -/
def flagByte (set : Bool) : Byte := if set then 0x00 else erasedByte

/-- Sector `k` is formatted and free: it lies ahead of the write sector. -/
def sectorFree (a : Area) (v : AreaState) (k : Nat) : Bool :=
  let ahead := (k + a.sectors - v.writeSector) % a.sectors
  decide (1 ≤ ahead) && decide (ahead ≤ freeSectors a v)

/-- The lap bit of sector `k`: that of the sector before it in the order of writing, inverted at the area's first sector
(R351). -/
def sectorLap (a : Area) (v : AreaState) (k : Nat) : Bool :=
  if sectorFree a v k then (if k < v.writeSector then !v.lap else v.lap)
  else if k ≤ v.writeSector then v.lap
  else !v.lap

/-- The 16-byte header of sector `k` of an area (R350). -/
def sectorHeader (s : State) (a : Area) (k : Nat) : Bytes :=
  let v := s.area a
  let used := s.nvs.recs.any (fun r => r.area == a && r.sector == k) || (k = v.writeSector && v.inUse)
  let marked := (v.erasing && k = oldestSector a v) || v.erase.contains k
  let full := if k = v.writeSector then v.full else !sectorFree a v k
  [flagByte (!v.unformatted.contains k), flagByte used, flagByte full, flagByte marked, BitVec.ofNat 8 a.code,
    BitVec.ofNat 8 (bit (sectorLap a v k)), 0, 0] ++ leBytes 4 (tblGet 0 v.erases k) ++ zeroBytes 4

/-- The data bytes of a record: as the host or another rule gives them, or of an internal format (R354). -/
def StoredRec.dataBytes (r : StoredRec) : Bytes :=
  if r.delete then []
  else match r.data with
    | .regRec b => b
    | .sealed b => b
    | .receipt _ b => b
    | .audit l => l.flatMap auditBytes
    | .host b => b
    | d => (List.range d.size).map (Config.internalData r.key r.seq)

/-- The length field of a record: length, lap and copy. -/
def StoredRec.lengthField (r : StoredRec) : Nat :=
  r.dataBytes.length + 4096 * bit r.lap + 8192 * bit (r.area == .critB)

/-- Bytes 2-11 of a record. -/
def StoredRec.fields (r : StoredRec) : Bytes :=
  leBytes 2 r.key ++ leBytes 4 r.seq ++ leBytes 2 r.lengthField ++
    [BitVec.ofNat 8 (bit r.data.gen.isSome + 2 * bit r.delete + 4 * bit r.scrub), 0]

/-- The bytes of a record as it is meant to stand (R352): commit, header check, fields, data, CRC-32. -/
def StoredRec.whole (r : StoredRec) : Bytes :=
  let f := r.fields
  [0x00, BitVec.ofNat 8 (crc8 f)] ++ f ++ r.dataBytes ++ leBytes 4 (crc32 (f ++ r.dataBytes))

/-- What byte `i` of a record reads (R352, R363): the commit byte 0x00 only once committed; of a record that was cut, the new
value before the cut, an indeterminate one at it, and the erased value behind it. -/
def StoredRec.read (r : StoredRec) (i : Nat) : Byte :=
  if i = 0 then flagByte r.committed
  else match r.cut with
    | some k =>
      if i < k then r.whole.getD i erasedByte else if i = k then Config.cutByte r.key r.seq i else erasedByte
    | none => r.whole.getD i erasedByte

/-- What byte `off` of sector `k` of an area reads. -/
def flashByte (s : State) (a : Area) (k off : Nat) : Byte :=
  if off < 16 then (sectorHeader s a k).getD off erasedByte
  else match s.nvs.recs.find? (fun r => r.area == a && r.sector == k && decide (r.offset ≤ off) &&
      decide (off < r.offset + r.whole.length)) with
    | some r => r.read (off - r.offset)
    | none => erasedByte

end Sys2Proof.Machine
end

