-- ==== Sys2Proof/Safety.lean ====
section
/-! DEFINITION. The terms that statements use: a ring command that waits to be taken up, a fresh CTRL frame, the form of the
store and of the rings, and the parts of the state that each command may change. -/
namespace Sys2Proof.Machine

/-- Ring `n` is served and holds, not yet taken up, the descriptor `d` of opcode `op` under this tag (12 R316, R319). -/
abbrev Waiting (s : State) (n op tag : Nat) (d : Desc) : Prop :=
  ringServed s n = true ∧ takeCmd s n op tag = some d

/-- A CTRL frame of this type, with at least this payload, whose sequence is newer than the last accepted, at a RUNNING device whose
fabric works (11 R293, R295; 15 R411). -/
abbrev FreshCtrl (s : State) (typ len : Nat) (frame : Bytes) : Prop :=
  frameCls frame = clsCtrl ∧ frameType frame = typ ∧ len ≤ frameLen frame ∧
    seqNewer s (frameSrc frame) clsCtrl (frameSeq frame) = true ∧ s.running = true ∧ fabricRuns s = true

/-- `s` once that frame's sequence is accepted. -/
abbrev ctrlAccepted (s : State) (frame : Bytes) : State := seqAccept s (frameSrc frame) clsCtrl (frameSeq frame)

/-- The bookkeeping of an area whose records are `l` (13 R351, R366): write sector and count of sectors taken lie in the area, an
oldest sector being erased is taken, the header of the write sector is not to be reclaimed, and no record lies in a free sector. -/
def AreaForm (a : Area) (v : AreaState) (l : List StoredRec) : Prop :=
  v.writeSector < a.sectors ∧ v.taken < a.sectors ∧ (v.erasing = true → 0 < v.taken) ∧ 16 ≤ v.fill ∧ v.weak.contains v.writeSector = false ∧
  ∀ r ∈ l, r.area = a → r.sector < a.sectors ∧ sectorFree a v r.sector = false

/-- Every area of the store is in form. -/
def StoreForm (s : State) : Prop := ∀ a, AreaForm a (s.area a) s.nvs.recs

/-- A ring pair within the legal values of R347: the sizes, the count and time of coalescing, the vector, 4 KiB bases, at most
64 descriptors outstanding (R319), and while it is not DISABLED every pointer inside its ring. -/
def RingLegal (r : RingState) : Prop :=
  4 ≤ r.sqk ∧ r.sqk ≤ r.cqk ∧ r.cqk ≤ 16 ∧ 1 ≤ r.coalCnt ∧ r.coalCnt ≤ 255 ∧ 1 ≤ r.coalTime ∧ r.coalTime ≤ 1000 ∧
  (∀ v, r.vector = some v → v < 64) ∧ r.sqBase % 4096 = 0 ∧ r.cqBase % 4096 = 0 ∧ (openDescs r).length ≤ 64 ∧
  (r.phase ≠ .disabled → r.sqHead < 2 ^ r.sqk ∧ r.sqTail < 2 ^ r.sqk ∧ r.cqTail < 2 ^ r.cqk ∧ r.cqHead < 2 ^ r.cqk)

/-- Every ring pair is legal. -/
def RingsLegal (s : State) : Prop := ∀ n, RingLegal (s.ring n)

/-- The parts of the state, as a frame names them. -/
inductive Part where
  /-- the ring pairs -/
  | rings
  /-- the host interface -/
  | host
  /-- the fabric -/
  | fabric
  /-- status, fault and count fields -/
  | status
  /-- what has left the device -/
  | output
  /-- the nonce service: the DRBG, and whether a reseed waits -/
  | nonces
  /-- the number of the next event record -/
  | events
  /-- the mode -/
  | mode
  /-- fields as held -/
  | held
  /-- fields in force -/
  | force
  /-- NVWP -/
  | nvwp
  /-- the test access port -/
  | tap
  /-- whether a poll-cycle boundary is awaited -/
  | boundary
  /-- the store -/
  | store
  /-- power and supervision, but for the event number -/
  | power
  /-- key slots, counters and life cycle, but for the nonce service -/
  | keys
  /-- the Holly table and its lock-outs -/
  | holly
  /-- the release controller -/
  | release
  /-- metrology -/
  | metering
  /-- the low-frequency field -/
  | field
  /-- the poll cycle -/
  | cycle
  /-- the sub-GHz transceiver -/
  | subGhz
  /-- the UWB transceiver -/
  | uwb
  /-- the grant pin and the regulatory record -/
  | radio
  /-- the transponder link -/
  | transponder
  /-- images and updates -/
  | update
  deriving DecidableEq, Repr

/-- `t` agrees with `s` in every part that `l` does not list. -/
structure Untouched (l : List Part) (s t : State) : Prop where
  /-- the ring pairs -/
  rings : Part.rings ∉ l → t.rings = s.rings
  /-- the host interface -/
  host : Part.host ∉ l → t.hif = s.hif
  /-- the fabric -/
  fabric : Part.fabric ∉ l → t.fab = s.fab
  /-- status, fault and count fields -/
  status : Part.status ∉ l → t.statCells = s.statCells
  /-- what has left the device -/
  output : Part.output ∉ l → t.out = s.out
  /-- the nonce service: the DRBG, and whether a reseed waits -/
  nonces : Part.nonces ∉ l → (t.cip.drbg, t.cip.reseedDue) = (s.cip.drbg, s.cip.reseedDue)
  /-- the number of the next event record -/
  events : Part.events ∉ l → t.pwr.eventSeq = s.pwr.eventSeq
  /-- the mode -/
  mode : Part.mode ∉ l → t.mode = s.mode
  /-- fields as held -/
  held : Part.held ∉ l → t.heldCells = s.heldCells
  /-- fields in force -/
  force : Part.force ∉ l → t.forceCells = s.forceCells
  /-- NVWP -/
  nvwp : Part.nvwp ∉ l → t.nvwp = s.nvwp
  /-- the test access port -/
  tap : Part.tap ∉ l → t.tap = s.tap
  /-- whether a poll-cycle boundary is awaited -/
  boundary : Part.boundary ∉ l → t.boundaryDue = s.boundaryDue
  /-- the store -/
  store : Part.store ∉ l → t.nvs = s.nvs
  /-- power and supervision, but for the event number -/
  power : Part.power ∉ l → t.pwr = { s.pwr with eventSeq := t.pwr.eventSeq }
  /-- key slots, counters and life cycle, but for the nonce service -/
  keys : Part.keys ∉ l → t.cip = { s.cip with drbg := t.cip.drbg, reseedDue := t.cip.reseedDue }
  /-- the Holly table and its lock-outs -/
  holly : Part.holly ∉ l → t.aut = s.aut
  /-- the release controller -/
  release : Part.release ∉ l → t.rel = s.rel
  /-- metrology -/
  metering : Part.metering ∉ l → t.mtr = s.mtr
  /-- the low-frequency field -/
  field : Part.field ∉ l → t.lf = s.lf
  /-- the poll cycle -/
  cycle : Part.cycle ∉ l → t.cyc = s.cyc
  /-- the sub-GHz transceiver -/
  subGhz : Part.subGhz ∉ l → t.sgr = s.sgr
  /-- the UWB transceiver -/
  uwb : Part.uwb ∉ l → t.uwb = s.uwb
  /-- the grant pin and the regulatory record -/
  radio : Part.radio ∉ l → t.rad = s.rad
  /-- the transponder link -/
  transponder : Part.transponder ∉ l → t.tpx = s.tpx
  /-- images and updates -/
  update : Part.update ∉ l → t.upd = s.upd

/-- What sending a frame of P0's changes: the port's queues, counts and faults, what has left the device and, for a first
sequence, the nonce service (11 R294, R295). -/
abbrev sendPath : List Part := [.fabric, .status, .output, .nonces]

/-- What completing a command of a ring changes, a ring of the fabric host and a downstream one (12 R316-R323). -/
abbrev ringPath : List Part := [Part.rings, Part.host] ++ sendPath

/-- What putting an event record with its report frame and its ring-8 entry changes (13, 11 R302). -/
abbrev hostPath : List Part := ringPath ++ [Part.events]

/-- The parts of the state that each command may change; every other part stays as it is. -/
def touches : Instr → List Part
  | .registerWrite _ _ =>
    hostPath ++ [Part.mode, Part.held, Part.force, Part.nvwp, Part.tap, Part.boundary, Part.store, Part.power, Part.keys,
      Part.holly, Part.release, Part.metering, Part.field, Part.cycle, Part.subGhz, Part.uwb, Part.radio, Part.transponder,
      Part.update]
  | .profileWrite _ =>
    hostPath ++ [Part.mode, Part.held, Part.force, Part.nvwp, Part.tap, Part.boundary, Part.store, Part.power, Part.keys,
      Part.holly, Part.release, Part.metering, Part.field, Part.cycle, Part.subGhz, Part.uwb, Part.radio, Part.transponder,
      Part.update]
  | .pollCycleBoundary => hostPath ++ [Part.held, Part.force, Part.boundary, Part.power, Part.field, Part.subGhz, Part.radio]
  | .wakePatternStart _ =>
    hostPath ++ [Part.held, Part.force, Part.boundary, Part.power, Part.field, Part.cycle, Part.subGhz, Part.uwb,
      Part.radio]
  | .dutyTick =>
    hostPath ++ [Part.held, Part.force, Part.boundary, Part.power, Part.field, Part.cycle, Part.subGhz, Part.uwb,
      Part.radio]
  | .vlfLowRetest _ =>
    hostPath ++ [Part.held, Part.force, Part.boundary, Part.power, Part.field, Part.cycle, Part.subGhz, Part.uwb,
      Part.radio, Part.transponder]
  | .vlfCollapse _ => [.status, .power, .field, .cycle, .subGhz, .uwb]
  | .bridgeOvercurrent _ _ => hostPath ++ [Part.power, Part.field, Part.cycle, Part.subGhz, Part.uwb]
  | .wakePatternEnd _ _ _ _ => hostPath ++ [Part.field, Part.cycle, Part.subGhz]
  | .lfStartWaitEnd => [.power, .field]
  | .lfDiagPeriod => [.power]
  | .diagNow => [.host, .status, .power]
  | .lfRearm _ => hostPath ++ [Part.power, Part.field]
  | .lfDiagBurstEnd _ _ _ _ => hostPath ++ [Part.power, Part.field]
  | .announceWindowOpen => [.cycle]
  | .slotEmptyClose => ringPath ++ [Part.cycle, Part.subGhz, Part.uwb]
  | .slotGuardEnd => ringPath ++ [Part.cycle, Part.subGhz, Part.uwb]
  | .announceFrame _ _ => hostPath ++ [Part.release, Part.cycle, Part.subGhz, Part.uwb]
  | .challengeTurn _ _ => hostPath ++ [Part.keys, Part.release, Part.cycle, Part.subGhz, Part.uwb]
  | .responseFrame _ _ _ _ => hostPath ++ [Part.store, Part.holly, Part.release, Part.cycle, Part.subGhz, Part.uwb]
  | .responseTimeout => hostPath ++ [Part.release, Part.cycle, Part.subGhz, Part.uwb]
  | .uwbRoundStart _ _ _ => hostPath ++ [Part.force, Part.release, Part.cycle, Part.subGhz, Part.uwb]
  | .rangeGrantTimeout _ => hostPath ++ [Part.release, Part.cycle, Part.subGhz, Part.uwb]
  | .uwbResponseFrame _ _ _ => hostPath ++ [Part.release, Part.cycle, Part.subGhz, Part.uwb]
  | .uwbFinalTx _ => [.output, .uwb]
  | .uwbReportFrame _ => hostPath ++ [Part.release, Part.cycle, Part.subGhz, Part.uwb]
  | .uwbRxWindowEnd => hostPath ++ [Part.release, Part.cycle, Part.subGhz, Part.uwb]
  | .uwbLockLoss => hostPath ++ [Part.release, Part.cycle, Part.subGhz, Part.uwb]
  | .uwbTxWaitExpiry => hostPath ++ [Part.release, Part.cycle, Part.subGhz, Part.uwb]
  | .boundingRunComplete _ => ringPath ++ [Part.cycle, Part.subGhz, Part.uwb]
  | .fusionComplete _ =>
    hostPath ++ [Part.store, Part.keys, Part.release, Part.metering, Part.cycle, Part.subGhz, Part.uwb, Part.transponder]
  | .grantAnswerTimeout _ _ => hostPath ++ [Part.release, Part.cycle, Part.subGhz, Part.uwb, Part.transponder]
  | .releaseLatchTaken _ => hostPath ++ [Part.release, Part.cycle, Part.subGhz, Part.uwb, Part.transponder]
  | .coilPollStart _ => ringPath ++ [Part.force, Part.power, Part.transponder]
  | .coilSettleEnd _ _ _ => hostPath ++ [Part.transponder]
  | .coilOvercurrent => hostPath ++ [Part.store, Part.release, Part.transponder]
  | .coilVlfCollapse => hostPath ++ [Part.store, Part.release, Part.transponder]
  | .walkReply _ _ => ringPath ++ [Part.transponder]
  | .selectedReply _ _ _ => hostPath ++ [Part.keys, Part.release, Part.transponder]
  | .nonceReply _ _ _ => hostPath ++ [Part.keys, Part.release, Part.transponder]
  | .authReply _ _ _ =>
    hostPath ++ [Part.store, Part.keys, Part.holly, Part.release, Part.metering, Part.cycle, Part.subGhz, Part.uwb,
      Part.transponder]
  | .passwordReply _ _ _ =>
    hostPath ++ [Part.store, Part.keys, Part.holly, Part.release, Part.metering, Part.cycle, Part.subGhz, Part.uwb,
      Part.transponder]
  | .securedReply _ _ _ =>
    hostPath ++ [Part.store, Part.keys, Part.release, Part.metering, Part.cycle, Part.subGhz, Part.uwb, Part.transponder]
  | .tpxReplyMissing _ _ => hostPath ++ [Part.store, Part.release, Part.transponder]
  | .tpxRearm => hostPath ++ [Part.transponder]
  | .tpxReportBuffer _ => ringPath
  | .pollNow _ => ringPath ++ [Part.force, Part.transponder]
  | .inventory _ => ringPath ++ [Part.force, Part.transponder]
  | .readBlock _ => ringPath ++ [Part.force, Part.transponder]
  | .writeBlock _ _ => ringPath ++ [Part.force, Part.transponder]
  | .sgrSynthLock => ringPath ++ [Part.power, Part.subGhz]
  | .sgrLockLoss => ringPath ++ [Part.power, Part.subGhz]
  | .sgrTxWaitExpiry => hostPath ++ [Part.power, Part.release, Part.cycle, Part.subGhz, Part.uwb]
  | .sgrTxEnd => ringPath ++ [Part.power, Part.subGhz]
  | .temperatureSample _ =>
    hostPath ++ [Part.mode, Part.store, Part.power, Part.keys, Part.release, Part.metering, Part.field, Part.cycle,
      Part.subGhz, Part.uwb, Part.transponder]
  | .calBlockEnd _ => hostPath ++ [Part.power, Part.subGhz, Part.uwb]
  | .oscMeasureEnd _ => hostPath ++ [Part.power, Part.subGhz]
  | .coexGrantChange _ => hostPath ++ [Part.release, Part.cycle, Part.subGhz, Part.uwb, Part.radio]
  | .txPacket _ _ => ringPath ++ [Part.subGhz]
  | .rxPacket _ => ringPath ++ [Part.subGhz]
  | .calibrate _ => ringPath ++ [Part.power, Part.subGhz]
  | .regrecRead _ => ringPath
  | .regrecWrite _ _ => ringPath ++ [Part.store]
  | .rssi _ => ringPath ++ [Part.subGhz]
  | .prxReportBuffer _ => ringPath
  | .testPoint _ => ringPath
  | .encrypt _ _ => ringPath ++ [Part.keys]
  | .decrypt _ _ _ => ringPath ++ [Part.keys]
  | .mac _ _ => ringPath ++ [Part.keys]
  | .nonce _ => ringPath
  | .counter _ => ringPath ++ [Part.store, Part.keys]
  | .privetRemask => [.status, .nonces, .force, .keys]
  | .drbgReseed _ => [.status, .nonces, .force, .keys]
  | .entropyWindowEnd _ _ =>
    hostPath ++ [Part.mode, Part.store, Part.power, Part.keys, Part.release, Part.metering, Part.field, Part.cycle,
      Part.subGhz, Part.uwb, Part.transponder]
  | .trngStartupTestEnd _ =>
    hostPath ++ [Part.mode, Part.store, Part.power, Part.keys, Part.release, Part.metering, Part.field, Part.cycle,
      Part.subGhz, Part.uwb, Part.transponder]
  | .loadClear _ _ => ringPath ++ [Part.store, Part.keys]
  | .loadWrapped _ _ => ringPath ++ [Part.store, Part.keys]
  | .derive _ _ => ringPath ++ [Part.store, Part.keys]
  | .erase _ => ringPath ++ [Part.store, Part.keys]
  | .narrow _ => ringPath ++ [Part.store, Part.keys]
  | .attest _ => ringPath ++ [Part.keys]
  | .lcNonce _ => ringPath ++ [Part.keys]
  | .lcNonceExpiry => [.keys]
  | .lcAdvance _ _ =>
    hostPath ++ [Part.tap, Part.store, Part.keys, Part.holly, Part.release, Part.metering, Part.cycle, Part.subGhz,
      Part.uwb, Part.transponder]
  | .enroll _ _ => ringPath ++ [Part.store]
  | .revoke _ => ringPath ++ [Part.store]
  | .readSlot _ => ringPath
  | .find _ => ringPath
  | .learnBegin _ => ringPath ++ [Part.holly]
  | .learnEntries _ _ => ringPath ++ [Part.holly]
  | .learnCommit _ _ => ringPath ++ [Part.store, Part.holly]
  | .learnCancel _ => ringPath ++ [Part.store, Part.holly]
  | .unlock _ =>
    hostPath ++ [Part.held, Part.force, Part.tap, Part.boundary, Part.store, Part.keys, Part.holly, Part.release,
      Part.metering, Part.cycle, Part.subGhz, Part.uwb, Part.radio, Part.transponder, Part.update]
  | .digest _ => ringPath
  | .learnedSetEffective => [.holly]
  | .lockoutEnd _ => []
  | .unknownLockoutEnd => []
  | .lockoutCheckpoint => [.store]
  | .sessionTimeout _ =>
    hostPath ++ [Part.store, Part.keys, Part.release, Part.metering, Part.cycle, Part.subGhz, Part.uwb, Part.transponder]
  | .auxAdcFrame _ _ _ =>
    hostPath ++ [Part.store, Part.power, Part.keys, Part.release, Part.metering, Part.cycle, Part.subGhz, Part.uwb,
      Part.transponder]
  | .readbackTimeout _ => hostPath ++ [Part.release]
  | .holdSample =>
    hostPath ++ [Part.store, Part.keys, Part.release, Part.metering, Part.cycle, Part.subGhz, Part.uwb, Part.transponder]
  | .holdMaxtimeExpiry _ =>
    hostPath ++ [Part.store, Part.keys, Part.release, Part.metering, Part.cycle, Part.subGhz, Part.uwb, Part.transponder]
  | .queueWaitExpiry _ => hostPath ++ [Part.keys, Part.release, Part.cycle, Part.subGhz, Part.uwb, Part.transponder]
  | .faultGraceExpiry =>
    hostPath ++ [Part.store, Part.power, Part.keys, Part.release, Part.metering, Part.cycle, Part.subGhz, Part.uwb,
      Part.transponder]
  | .sessionCeilingCommit _ _ =>
    hostPath ++ [Part.held, Part.force, Part.tap, Part.boundary, Part.store, Part.keys, Part.holly, Part.release,
      Part.metering, Part.cycle, Part.subGhz, Part.uwb, Part.radio, Part.transponder, Part.update]
  | .releaseGrant _ _ _ _ =>
    hostPath ++ [Part.store, Part.keys, Part.release, Part.metering, Part.cycle, Part.subGhz, Part.uwb, Part.transponder]
  | .grantAnswer _ _ _ _ => hostPath ++ [Part.keys, Part.release, Part.cycle, Part.subGhz, Part.uwb, Part.transponder]
  | .sessionEnd _ _ _ _ =>
    hostPath ++ [Part.store, Part.keys, Part.release, Part.metering, Part.cycle, Part.subGhz, Part.uwb, Part.transponder]
  | .eventBuffer _ => ringPath
  | .list _ => ringPath
  | .endSession _ =>
    hostPath ++ [Part.store, Part.keys, Part.release, Part.metering, Part.cycle, Part.subGhz, Part.uwb, Part.transponder]
  | .endGroup _ =>
    hostPath ++ [Part.store, Part.keys, Part.release, Part.metering, Part.cycle, Part.subGhz, Part.uwb, Part.transponder]
  | .setDeadline _ => ringPath ++ [Part.release, Part.metering]
  | .endRemote _ => ringPath ++ [Part.keys]
  | .groupDisable _ =>
    hostPath ++ [Part.held, Part.force, Part.boundary, Part.store, Part.keys, Part.release, Part.metering, Part.cycle,
      Part.subGhz, Part.uwb, Part.transponder]
  | .decimatorResult _ _ => hostPath ++ [Part.release, Part.metering]
  | .channelUsableReturn _ => hostPath ++ [Part.metering]
  | .xchkWindowEnd => hostPath ++ [Part.release, Part.metering]
  | .meterCheckpoint => [.store, .metering]
  | .meterSettingsApply => [.force, .metering]
  | .receiptFormed =>
    hostPath ++ [Part.tap, Part.store, Part.keys, Part.holly, Part.release, Part.metering, Part.cycle, Part.subGhz,
      Part.uwb, Part.transponder]
  | .receiptCommitted _ _ =>
    hostPath ++ [Part.held, Part.force, Part.tap, Part.boundary, Part.store, Part.keys, Part.holly, Part.release,
      Part.metering, Part.cycle, Part.subGhz, Part.uwb, Part.radio, Part.transponder, Part.update]
  | .receiptKeyUsable => [.status, .nonces, .store, .keys, .metering]
  | .receiptBuffer _ => ringPath ++ [Part.metering]
  | .ack _ => ringPath ++ [Part.store]
  | .readReceipt _ => ringPath
  | .counters _ => ringPath
  | .rollNonce _ => ringPath ++ [Part.metering]
  | .rollNonceExpiry => [.metering]
  | .rollover _ _ => ringPath ++ [Part.store, Part.keys, Part.metering]
  | .counterLoRead _ => [.fabric, .output, .metering, .uwb]
  | .linkLoss _ _ => hostPath ++ [Part.power]
  | .hello _ _ => sendPath ++ [Part.holly]
  | .helloTimeout _ => sendPath
  | .joinReqRetry => sendPath
  | .joinReq _ _ => sendPath ++ [Part.host, Part.holly]
  | .joinAnswer _ _ => sendPath ++ [Part.host, Part.held, Part.force, Part.holly]
  | .addrFullRetry => sendPath
  | .leave _ _ => sendPath
  | .positionLeaveTimeout _ => sendPath
  | .timeSyncSend => [.fabric, .status, .nonces]
  | .timeSync _ _ _ => [.fabric, .status, .holly]
  | .timeSyncLoss => [.status]
  | .frameReceived _ _ _ => hostPath ++ [Part.holly, Part.release]
  | .frameSent _ _ => sendPath
  | .spillReadback _ _ _ => sendPath
  | .portEvent _ _ => sendPath ++ [Part.holly]
  | .prepare _ _ => sendPath ++ [Part.holly]
  | .ready _ _ => sendPath
  | .flip _ _ => sendPath ++ [Part.holly]
  | .retired _ _ => [.fabric]
  | .cancel _ _ => [.fabric, .status]
  | .readyTimeout => sendPath
  | .retireTimeout => [.fabric]
  | .updateRepeat => sendPath
  | .holdTimeExpiry _ => sendPath
  | .asleepHoldExpiry _ => sendPath
  | .wakeSequence _ => hostPath ++ [Part.power, Part.keys]
  | .segAdvertSend => [.fabric, .status, .nonces]
  | .segAdvert _ _ => sendPath ++ [Part.holly]
  | .rejoin => sendPath ++ [Part.host, Part.force]
  | .fabTimeLoRead => [.fabric, .output, .metering, .uwb]
  | .uwbTimeLoRead => [.fabric, .output, .metering, .uwb]
  | .send _ _ => ringPath
  | .recvBuffer _ => ringPath
  | .peerMessage _ _ _ _ _ _ => ringPath
  | .pcieReset => ringPath ++ [Part.store, Part.power, Part.keys, Part.holly, Part.subGhz, Part.transponder, Part.update]
  | .sqTail _ _ _ _ => ringPath
  | .cqHead _ _ _ _ => ringPath
  | .descriptorFetch _ _ _ => ringPath ++ [Part.nvwp]
  | .nop _ _ => ringPath
  | .abort _ _ => ringPath ++ [Part.store, Part.power, Part.keys, Part.holly, Part.subGhz, Part.transponder, Part.update]
  | .pcieDmaError _ _ _ =>
    ringPath ++ [Part.store, Part.power, Part.keys, Part.holly, Part.subGhz, Part.transponder, Part.update]
  | .interruptCoalesceExpiry _ => ringPath
  | .ringEnable _ => [.rings]
  | .ringDisable _ => ringPath ++ [Part.store, Part.power, Part.keys, Part.holly, Part.subGhz, Part.transponder, Part.update]
  | .ringDrained _ => [.rings]
  | .bar4Access _ _ _ _ =>
    hostPath ++ [Part.mode, Part.held, Part.force, Part.nvwp, Part.tap, Part.boundary, Part.store, Part.power, Part.keys,
      Part.holly, Part.release, Part.metering, Part.field, Part.cycle, Part.subGhz, Part.uwb, Part.radio, Part.transponder,
      Part.update]
  | .doorbell _ _ _ _ _ => ringPath
  | .readReq _ _ _ _ _ _ _ _ _ => sendPath ++ [Part.host]
  | .readData _ _ _ _ _ _ =>
    ringPath ++ [Part.store, Part.power, Part.keys, Part.holly, Part.subGhz, Part.transponder, Part.update]
  | .proxyWrite _ _ _ _ _ _ _ => sendPath ++ [Part.host]
  | .interrupt _ _ _ _ _ => sendPath ++ [Part.host]
  | .regWrite _ _ _ _ =>
    hostPath ++ [Part.mode, Part.held, Part.force, Part.nvwp, Part.tap, Part.boundary, Part.store, Part.power, Part.keys,
      Part.holly, Part.release, Part.metering, Part.field, Part.cycle, Part.subGhz, Part.uwb, Part.radio, Part.transponder,
      Part.update]
  | .regRead _ _ _ _ => sendPath ++ [Part.host, Part.metering, Part.uwb]
  | .regData _ _ _ _ _ => sendPath ++ [Part.host]
  | .proxyAck _ _ _ => sendPath ++ [Part.host]
  | .proxyRtoExpiry _ _ => sendPath ++ [Part.host]
  | .regwaitExpiry _ => [.host, .status, .output]
  | .configApply _ _ =>
    hostPath ++ [Part.held, Part.force, Part.boundary, Part.store, Part.keys, Part.release, Part.metering, Part.cycle,
      Part.subGhz, Part.uwb, Part.transponder]
  | .configExport _ => ringPath
  | .auditRead _ => ringPath
  | .configSave _ => [.host, .status, .nvwp, .store]
  | .auditCommit => [.store]
  | .post _ _ => ringPath
  | .mailboxRecvBuffer _ => ringPath
  | .appMessage _ _ => ringPath
  | .recordWriteDone _ _ =>
    hostPath ++ [Part.held, Part.force, Part.tap, Part.boundary, Part.store, Part.keys, Part.holly, Part.release,
      Part.metering, Part.cycle, Part.subGhz, Part.uwb, Part.radio, Part.transponder, Part.update]
  | .sectorEraseDone _ _ _ => hostPath ++ [Part.store]
  | .vholdReady _ => hostPath ++ [Part.store, Part.power]
  | .mainSupplyFailure _ _ _ _ _ _ => [.status, .store, .power, .keys, .update]
  | .scrubPeriod _ _ _ _ => [.status, .store]
  | .read _ => ringPath
  | .write _ _ => ringPath ++ [Part.store]
  | .delete _ => ringPath ++ [Part.store]
  | .hostRecordList _ => ringPath
  | .wear _ => ringPath
  | .scrubNow _ _ _ _ _ => ringPath ++ [Part.store]
  | .begin_ _ _ _ => ringPath ++ [Part.force, Part.update]
  | .chunk _ _ _ => ringPath ++ [Part.update]
  | .chunkDeferExpiry => ringPath ++ [Part.update]
  | .activate _ _ _ => ringPath ++ [Part.force, Part.update]
  | .roleHandoverSwap _ => ringPath ++ [Part.update]
  | .appHandoverPoint =>
    hostPath ++ [Part.held, Part.force, Part.boundary, Part.store, Part.keys, Part.release, Part.metering, Part.cycle,
      Part.subGhz, Part.uwb, Part.transponder, Part.update]
  | .appWaitExpiry =>
    hostPath ++ [Part.held, Part.force, Part.boundary, Part.store, Part.keys, Part.release, Part.metering, Part.cycle,
      Part.subGhz, Part.uwb, Part.transponder, Part.update]
  | .restart _ =>
    hostPath ++ [Part.mode, Part.held, Part.force, Part.nvwp, Part.tap, Part.boundary, Part.store, Part.power, Part.keys,
      Part.holly, Part.release, Part.metering, Part.field, Part.cycle, Part.subGhz, Part.uwb, Part.radio, Part.transponder,
      Part.update]
  | .exportAsset _ => ringPath ++ [Part.keys]
  | .importAsset _ _ _ => ringPath ++ [Part.store, Part.keys]
  | .setAppkey _ _ => ringPath ++ [Part.update]
  | .deepAfterExpiry => sendPath ++ [Part.power, Part.keys, Part.subGhz, Part.uwb]
  | .wakeSource _ => hostPath ++ [Part.held, Part.force, Part.boundary, Part.power, Part.keys, Part.metering]
  | .vbkLoss _ => [.status, .power]
  | .clockMonitorFlag _ =>
    hostPath ++ [Part.mode, Part.store, Part.power, Part.keys, Part.release, Part.metering, Part.field, Part.cycle,
      Part.subGhz, Part.uwb, Part.transponder]
  | .xtal32Recover => [.status]
  | .setRtc _ _ => ringPath ++ [Part.power, Part.keys, Part.holly]
  | .rtcNonce _ => ringPath ++ [Part.power]
  | .rtcNonceExpiry => [.power]
  | .selftest _ => ringPath ++ [Part.power]
  | .prodTx _ => ringPath ++ [Part.power, Part.subGhz, Part.uwb]
  | .schedule _ => ringPath
  | .monitors _ => ringPath
  | .faults _ => ringPath
  | .supervisionEventBuffer _ => ringPath
  | .powerOnReset _ _ _ =>
    hostPath ++ [Part.mode, Part.held, Part.force, Part.nvwp, Part.tap, Part.boundary, Part.store, Part.power, Part.keys,
      Part.holly, Part.release, Part.metering, Part.field, Part.cycle, Part.subGhz, Part.uwb, Part.radio, Part.transponder,
      Part.update]
  | .nrst =>
    hostPath ++ [Part.mode, Part.held, Part.force, Part.nvwp, Part.tap, Part.boundary, Part.store, Part.power, Part.keys,
      Part.holly, Part.release, Part.metering, Part.field, Part.cycle, Part.subGhz, Part.uwb, Part.radio, Part.transponder,
      Part.update]
  | .brownOut _ =>
    hostPath ++ [Part.mode, Part.held, Part.force, Part.nvwp, Part.tap, Part.boundary, Part.store, Part.power, Part.keys,
      Part.holly, Part.release, Part.metering, Part.field, Part.cycle, Part.subGhz, Part.uwb, Part.radio, Part.transponder,
      Part.update]
  | .pwrRestart =>
    hostPath ++ [Part.mode, Part.held, Part.force, Part.nvwp, Part.tap, Part.boundary, Part.store, Part.power, Part.keys,
      Part.holly, Part.release, Part.metering, Part.field, Part.cycle, Part.subGhz, Part.uwb, Part.radio, Part.transponder,
      Part.update]
  | .autoRestart =>
    hostPath ++ [Part.mode, Part.held, Part.force, Part.nvwp, Part.tap, Part.boundary, Part.store, Part.power, Part.keys,
      Part.holly, Part.release, Part.metering, Part.field, Part.cycle, Part.subGhz, Part.uwb, Part.radio, Part.transponder,
      Part.update]
  | .watchdogReset =>
    hostPath ++ [Part.mode, Part.held, Part.force, Part.nvwp, Part.tap, Part.boundary, Part.store, Part.power, Part.keys,
      Part.holly, Part.release, Part.metering, Part.field, Part.cycle, Part.subGhz, Part.uwb, Part.radio, Part.transponder,
      Part.update]
  | .startSequence _ =>
    hostPath ++ [Part.mode, Part.held, Part.force, Part.nvwp, Part.boundary, Part.store, Part.power, Part.keys,
      Part.holly, Part.release, Part.metering, Part.field, Part.cycle, Part.subGhz, Part.uwb, Part.radio, Part.transponder,
      Part.update]
  | .engineCheckpoint _ => [.power, .transponder]
  | .eccError _ _ _ =>
    hostPath ++ [Part.mode, Part.store, Part.power, Part.keys, Part.release, Part.metering, Part.field, Part.cycle,
      Part.subGhz, Part.uwb, Part.transponder, Part.update]
  | .engineFault _ =>
    hostPath ++ [Part.mode, Part.store, Part.power, Part.keys, Part.release, Part.metering, Part.field, Part.cycle,
      Part.subGhz, Part.uwb, Part.transponder, Part.update]
  | .spareTakeover _ =>
    hostPath ++ [Part.mode, Part.store, Part.power, Part.keys, Part.release, Part.metering, Part.field, Part.cycle,
      Part.subGhz, Part.uwb, Part.transponder, Part.update]
  | .appFault => hostPath ++ [Part.power, Part.update]
  | .quietSlotTask _ _ => hostPath ++ [Part.power, Part.field, Part.subGhz, Part.uwb]
  | .taskDeadlinePreempt _ _ =>
    hostPath ++ [Part.store, Part.power, Part.release, Part.field, Part.cycle, Part.subGhz, Part.uwb, Part.transponder]
  | .spareMemoryTest _ => ringPath ++ [Part.power]
  | .sgrPacketReceived _ _ => ringPath ++ [Part.subGhz]
  | .sgrRxTimeout => ringPath ++ [Part.subGhz]
  | .rssiMeasureEnd _ => ringPath ++ [Part.subGhz]
  | .coexWaitExpiry => ringPath ++ [Part.subGhz]
  | .prodTxPeriod => ringPath ++ [Part.power, Part.subGhz, Part.uwb]
  | .receiptCommitRetry => [.status, .nonces, .store, .keys, .metering]
  | .reseedWaitExpiry =>
    hostPath ++ [Part.mode, Part.store, Part.power, Part.keys, Part.release, Part.metering, Part.field, Part.cycle,
      Part.subGhz, Part.uwb, Part.transponder]
  | .idleSequenceRun _ => [.fabric]
  | .helloSend _ => sendPath
  | .updateHoldoffEnd => sendPath
  | .pcieLinkUp _ _ => sendPath ++ [Part.host, Part.force]
  | .pcieLinkDown => [.status]
  | .pciePowerState _ => [.host, .output]
  | .mailboxTake => ringPath
  | .tapInstruction _ => [.tap]
  | .badAccessRead _ => [.status, .output]

end Sys2Proof.Machine
end

