-- ==== Sys2Proof/Certificates/Slice0/Obligations.lean ====
section
/-! DEFINITION. The statements for the provers. Each docstring says which rules of the spec it formalises. -/
open Sys2Proof Sys2Proof.Machine

/-- What seven commands of the wake pattern do, clause by clause; `pollBoundary` is the boundary of R25. (1)
    POLL_CYCLE_BOUNDARY: on a running device where something waits, no cycle or context is open and no pattern can
    start, the boundary is applied and then the next ring 5 job taken up. (2) WAKE_PATTERN_START: where a running, awake
    and free device finds the interval past, nothing refused, and after the boundary polling enabled, a record in force,
    emissions allowed, an entry chosen, VLF at least 7.5 V and the duty rings open, the pattern of that entry starts
    (`patternStarts`). (3) DUTY_TICK: a refused pattern is tried again on a free device (`tryPattern`). (4)
    WAKE_PATTERN_START under the same conditions but VLF below 7.5 V: the pattern is held, and neither cycle nor output
    changes beyond the boundary. (5) VLF_LOW_RETEST: a held pattern on a free device is tried again with the new VLF,
    then a waiting burst, then the coil if VLF held it. (6) VLF_COLLAPSE: in a pattern, VLF below 6.0 V aborts it
    (`abortPattern`). (7) BRIDGE_OVERCURRENT: where the first of two channels trips, it is disabled (`chanFails`) and
    the pattern goes on without it. (8) BRIDGE_OVERCURRENT: where the second of two channels trips, likewise. (9)
    BRIDGE_OVERCURRENT: after the first has tripped, the second's trip aborts the pattern, and so the other way round.
    (10) BRIDGE_OVERCURRENT: where the only channel trips, it is disabled and the pattern aborted. (11)
    WAKE_PATTERN_END: the gap before the window begins with COEX_REQ high, and the pattern keeps its loop currents.
    Where the rules leave a choice, it is the model's: log 31, 32, 112, 113. A command addressed to a role that is
    vacant is held instead (R408): log 86. -/
def Obligations.WakePatternLifeCycle : Prop :=
  (∀ (s : State), s.running = true → s.boundaryDue = true → s.cyc.phase = .idle → s.cyc.ctxs = [] → pollsRun s = false →
    exec (.pollCycleBoundary) s = .next (sgrNextJob (pollBoundary s))) ∧
  (∀ (s : State) (vlf n a : Nat) (b : Option Nat), rolesThere s (.wakePatternStart vlf) = true → s.running = true →
    s.pwr.deep = none → patternFree s = true → intervalPassed s = true → s.lf.refusedAt = none → (pollBoundary (setVlf s
    vlf)).on Reg.lfPollEn = true → (pollBoundary (setVlf s vlf)).rad.regRec ≠ none → lfMayEmit (pollBoundary (setVlf s
    vlf)) = true → chooseEntry (pollBoundary (setVlf s vlf)) = some (n, a, b) → 7500 ≤ vlfNow (pollBoundary (setVlf s
    vlf)) → lfDutyOk (pollBoundary (setVlf s vlf)) ([a] ++ b.toList) patternLen = true → exec (.wakePatternStart vlf) s
    = .next (patternStarts (pollBoundary (setVlf s vlf)) n a b)) ∧
  (∀ (s : State), rolesThere s (.dutyTick) = true → s.lf.refusedAt.isSome = true → patternFree s = true → exec
    (.dutyTick) s = .next (tryPattern s)) ∧
  (∀ (s : State) (vlf n a : Nat) (b : Option Nat), rolesThere s (.wakePatternStart vlf) = true → s.running = true →
    s.pwr.deep = none → patternFree s = true → intervalPassed s = true → s.lf.refusedAt = none → (pollBoundary (setVlf s
    vlf)).on Reg.lfPollEn = true → (pollBoundary (setVlf s vlf)).rad.regRec ≠ none → lfMayEmit (pollBoundary (setVlf s
    vlf)) = true → chooseEntry (pollBoundary (setVlf s vlf)) = some (n, a, b) → vlfNow (pollBoundary (setVlf s vlf)) <
    7500 → ∃ t, exec (.wakePatternStart vlf) s = .next t ∧ t.lf.vlfHeld = true ∧ t.cyc = (pollBoundary (setVlf s
    vlf)).cyc ∧ t.out = (pollBoundary (setVlf s vlf)).out) ∧
  (∀ (s : State) (vlf : Nat), rolesThere s (.vlfLowRetest vlf) = true → s.lf.vlfHeld = true → patternFree s = true →
    exec (.vlfLowRetest vlf) s = .next ((fun u : State => if u.tpx.vlfHeld then coilNext u else u) (tryBurst (tryPattern
    (setVlf s vlf))))) ∧
  (∀ (s : State) (vlf : Nat), rolesThere s (.vlfCollapse vlf) = true → s.cyc.phase = .pattern → vlf < 6000 → exec
    (.vlfCollapse vlf) s = .next (abortPattern (setVlf s vlf))) ∧
  (∀ (s : State) (p : Pattern) (c d : Nat) (toVlf : Bool), rolesThere s (.bridgeOvercurrent c toVlf) = true →
    s.cyc.phase = .pattern → s.lf.pattern = some p → p.chA = c → p.chB = some d → c ≠ d → p.cut = 0 → exec
    (.bridgeOvercurrent c toVlf) s = .next
    ({ chanFails s c (if toVlf then .shortVlf else .shortGnd) with lf := { (chanFails s c (if toVlf then .shortVlf else .shortGnd)).lf with pattern := some { p with cut := 1 } } }))
    ∧
  (∀ (s : State) (p : Pattern) (c d : Nat) (toVlf : Bool), rolesThere s (.bridgeOvercurrent c toVlf) = true →
    s.cyc.phase = .pattern → s.lf.pattern = some p → p.chA = d → p.chB = some c → c ≠ d → p.cut = 0 → exec
    (.bridgeOvercurrent c toVlf) s = .next
    ({ chanFails s c (if toVlf then .shortVlf else .shortGnd) with lf := { (chanFails s c (if toVlf then .shortVlf else .shortGnd)).lf with pattern := some { p with cut := 2 } } }))
    ∧
  (∀ (s : State) (p : Pattern) (c d : Nat) (toVlf : Bool), rolesThere s (.bridgeOvercurrent c toVlf) = true →
    s.cyc.phase = .pattern → s.lf.pattern = some p → c ≠ d → (p.cut = 1 ∧ p.chA = d ∧ p.chB = some c) ∨ (p.cut = 2 ∧
    p.chA = c ∧ p.chB = some d) → exec (.bridgeOvercurrent c toVlf) s = .next (abortPattern (chanFails s c (if toVlf
    then .shortVlf else .shortGnd)))) ∧
  (∀ (s : State) (p : Pattern) (c : Nat) (toVlf : Bool), rolesThere s (.bridgeOvercurrent c toVlf) = true → s.cyc.phase
    = .pattern → s.lf.pattern = some p → p.chA = c → p.chB = none → p.cut = 0 → exec (.bridgeOvercurrent c toVlf) s =
    .next (abortPattern (chanFails s c (if toVlf then .shortVlf else .shortGnd)))) ∧
  (∀ (s : State) (p : Pattern) (ea eb la lb : Nat), rolesThere s (.wakePatternEnd ea eb la lb) = true → s.cyc.phase =
    .pattern → s.lf.pattern = some p → ∃ t, exec (.wakePatternEnd ea eb la lb) s = .next t ∧ t.cyc.phase = .gap ∧
    t.cyc.coexReq = true ∧ t.lf.pattern = some { p with loopA := la, loopB := lb })

/-- What four commands of the announce window do, clause by clause. (1) ANNOUNCE_WINDOW_OPEN: in the gap, the window
    opens at slot 0. (2) SLOT_EMPTY_CLOSE: an empty slot before the last closes and the next opens. (3) SLOT_GUARD_END:
    after the guard of a busy slot 15 the exchanges begin, and the cycle is checked for its end (`cycleCheck`). (4)
    SLOT_GUARD_END: after the guard of a busy slot before 15 the next opens. (5) ANNOUNCE_FRAME: in an open slot with
    the receiver on, 31 bytes whose CRC-8 is right, from a token that R33 does not refuse, mark the slot busy and open a
    context in HELD with the slot, identifier and nonce of the announce, if one is free. (6) ANNOUNCE_FRAME: one that
    fails its CRC-8 marks the slot busy and leaves its RSSI, and nothing else. Where the rules leave a choice, it is the
    model's: log 105. A command addressed to a role that is vacant is held instead (R408): log 86. -/
def Obligations.AnnounceWindow : Prop :=
  (∀ (s : State), rolesThere s (.announceWindowOpen) = true → s.cyc.phase = .gap → exec (.announceWindowOpen) s = .next
    ({ s with cyc := { s.cyc with phase := .window, slot := 0, slotBusy := false } })) ∧
  (∀ (s : State), rolesThere s (.slotEmptyClose) = true → s.cyc.phase = .window → s.cyc.slotBusy = false → s.cyc.slot ≠
    15 → exec (.slotEmptyClose) s = .next ({ s with cyc := { s.cyc with slot := s.cyc.slot + 1, slotBusy := false } })) ∧
  (∀ (s : State), rolesThere s (.slotGuardEnd) = true → s.cyc.phase = .window → s.cyc.slotBusy = true → s.cyc.slot = 15
    → exec (.slotGuardEnd) s = .next (cycleCheck
    { s with cyc := { s.cyc with phase := .exchanges, slotBusy := false } })) ∧
  (∀ (s : State), rolesThere s (.slotGuardEnd) = true → s.cyc.phase = .window → s.cyc.slotBusy = true → s.cyc.slot ≠ 15
    → exec (.slotGuardEnd) s = .next ({ s with cyc := { s.cyc with slot := s.cyc.slot + 1, slotBusy := false } })) ∧
  (∀ (s : State) (rssi : Int) (frame : Bytes), rolesThere s (.announceFrame rssi frame) = true → s.cyc.phase = .window →
    s.cyc.slotBusy = false → s.sgr.phase = .rx → frame.length = 31 → byteAt frame 30 = crc8 (frame.take 30) →
    s.cyc.ctxs.length < s.eff Reg.autCtxCount → checkR33 (noteRssi s rssi) (beAt frame 0 8) = none → ∃ t, exec
    (.announceFrame rssi frame) s = .next t ∧ t.cyc.slotBusy = true ∧ t.cyc.allocated = s.cyc.allocated + 1 ∧ ∃ c,
    t.cyc.ctxs = s.cyc.ctxs ++ [(s.cyc.allocated, c)] ∧ c.phase = .held ∧ c.slot = s.cyc.slot ∧ c.id = beAt frame 0 8 ∧
    c.nt = beAt frame 8 16) ∧
  (∀ (s : State) (rssi : Int) (frame : Bytes), rolesThere s (.announceFrame rssi frame) = true → s.cyc.phase = .window →
    s.cyc.slotBusy = false → s.sgr.phase = .rx → byteAt frame 30 ≠ crc8 (frame.take 30) → exec (.announceFrame rssi
    frame) s = .next (noteRssi { s with cyc := { s.cyc with slotBusy := true } } rssi))

/-- What three commands of the challenge and its response do, clause by clause. (1) CHALLENGE_TURN: with nothing on air,
    the HELD context next in turn, if R33 lets it pass, a master slot serves it, and the radio may transmit, has its
    challenge sent or held for lock (`challengeSent`). (2) CHALLENGE_TURN: a context that R33 now refuses ends with that
    outcome. (3) RESPONSE_FRAME, begun by 1.500 ms: a completed frame that is no response (length or CRC-8) ends the
    context NO_RESPONSE. (4) RESPONSE_FRAME, begun by 1.500 ms: a response of the context's slot outside the window of
    R35 (06 R141) counts as a Thorn failure and ends it LATE_RESPONSE. (5) RESPONSE_FRAME, begun by 1.500 ms: one inside
    the window with a wrong MACt counts as a Thorn failure and ends it BAD_RESPONSE. (6) RESPONSE_FRAME, begun by 1.500
    ms: one inside the window with the right MACt, of a token enrolled and not yet keyed in this cycle, keys the context
    (`keyCtx`). (7) RESPONSE_FRAME, begun by 1.500 ms: an incomplete response ends it NO_RESPONSE. (8) RESPONSE_FRAME:
    one that had not begun by 1.500 ms ends it NO_RESPONSE. (9) RESPONSE_TIMEOUT: no response ends it NO_RESPONSE. Where
    the rules leave a choice, it is the model's: log 30, 105. A command addressed to a role that is vacant is held
    instead (R408): log 86. -/
def Obligations.ChallengeAndResponse : Prop :=
  (∀ (s : State) (n k : Nat) (c : Ctx) (lock : Bool), rolesThere s (.challengeTurn n lock) = true → s.cyc.phase =
    .exchanges → s.cyc.onAir = none → nextHeld s = some n → s.ctx n = some c → checkR33 s c.id = none → masterSlot s =
    some k → sgrRefusal s (airtime s challengeBits) = none → sgrNeverCalibrated s = false → exec (.challengeTurn n lock)
    s = .next (challengeSent s n k c lock (airtime s challengeBits))) ∧
  (∀ (s : State) (n oc : Nat) (c : Ctx) (lock : Bool), rolesThere s (.challengeTurn n lock) = true → s.cyc.phase =
    .exchanges → s.cyc.onAir = none → nextHeld s = some n → s.ctx n = some c → checkR33 s c.id = some oc → exec
    (.challengeTurn n lock) s = .next (endCtx s n oc 0)) ∧
  (∀ (s : State) (n st : Nat) (c : Ctx) (rssi : Int) (frame : Bytes), rolesThere s (.responseFrame st rssi frame true) =
    true → responseAwaited s = some (n, c) → s.sgr.phase = .rx → st ≤ responseLimit → responseBody frame = none → exec
    (.responseFrame st rssi frame true) s = .next (endCtx (noteRssi s rssi) n ocNoResponse 0)) ∧
  (∀ (s : State) (n st slot mact : Nat) (c : Ctx) (rssi : Int) (frame : Bytes), rolesThere s (.responseFrame st rssi
    frame true) = true → responseAwaited s = some (n, c) → s.sgr.phase = .rx → st ≤ responseLimit → responseBody frame =
    some (slot, mact) → slot % 16 = c.slot → inWindow (noteRssi s rssi) st = false → exec (.responseFrame st rssi frame
    true) s = .next (endCtx (thornFailure (noteRssi s rssi) c.id) n ocLate 0)) ∧
  (∀ (s : State) (n st slot mact : Nat) (c : Ctx) (rssi : Int) (frame : Bytes), rolesThere s (.responseFrame st rssi
    frame true) = true → responseAwaited s = some (n, c) → s.sgr.phase = .rx → st ≤ responseLimit → responseBody frame =
    some (slot, mact) → slot % 16 = c.slot → inWindow (noteRssi s rssi) st = true → mact ≠ macT 0x54 c.kt c.nd c.nt c.id
    → exec (.responseFrame st rssi frame true) s = .next (endCtx (thornFailure (noteRssi s rssi) c.id) n ocBad 0)) ∧
  (∀ (s : State) (n st slot mact i : Nat) (c : Ctx) (rssi : Int) (frame : Bytes), rolesThere s (.responseFrame st rssi
    frame true) = true → responseAwaited s = some (n, c) → s.sgr.phase = .rx → st ≤ responseLimit → responseBody frame =
    some (slot, mact) → slot % 16 = c.slot → inWindow (noteRssi s rssi) st = true → mact = macT 0x54 c.kt c.nd c.nt c.id
    → findHolly (noteRssi s rssi) c.id = some i → (noteRssi s rssi).cyc.keyedIds.contains c.id = false → exec
    (.responseFrame st rssi frame true) s = .next (keyCtx (noteRssi s rssi) n c)) ∧
  (∀ (s : State) (n st : Nat) (c : Ctx) (rssi : Int) (frame : Bytes), rolesThere s (.responseFrame st rssi frame false)
    = true → responseAwaited s = some (n, c) → s.sgr.phase = .rx → st ≤ responseLimit → exec (.responseFrame st rssi
    frame false) s = .next (endCtx s n ocNoResponse 0)) ∧
  (∀ (s : State) (n st : Nat) (c : Ctx) (rssi : Int) (frame : Bytes) (whole : Bool), rolesThere s (.responseFrame st
    rssi frame whole) = true → responseAwaited s = some (n, c) → s.sgr.phase = .rx → responseLimit < st → exec
    (.responseFrame st rssi frame whole) s = .next (endCtx s n ocNoResponse 0)) ∧
  (∀ (s : State) (n : Nat) (c : Ctx), rolesThere s (.responseTimeout) = true → responseAwaited s = some (n, c) → exec
    (.responseTimeout) s = .next (endCtx s n ocNoResponse 0))

/-- What nine commands of the UWB rounds do, clause by clause; `roundStarts`, `roundFails`, `roundOver` begin and end a
    round. (1) UWB_ROUND_START: for the context next in turn that still lacks exchanges, where transceiver, governor,
    record, grant, calibration and duty cap permit, its exchange starts. (2) UWB_ROUND_START: under the same conditions,
    a context that has its exchanges starts its bounding run. (3) RANGE_GRANT_TIMEOUT: the context next in turn ends
    RANGE_FAIL. (4) UWB_RESPONSE_FRAME: a response whose clock offset is at most 40 ppm leaves T4, phases and offset,
    and the final is next. (5) UWB_RESPONSE_FRAME: one beyond 40 ppm makes the round incomplete. (6) UWB_FINAL_TX: the
    final leaves at its instant without the 9 low bits, T5 is that plus the antenna delay, and the report is next. (7)
    UWB_REPORT_FRAME: a genuine report ends the round and adds its exchange to the context. (8) UWB_REPORT_FRAME: one
    that is not genuine makes the round incomplete. (9) UWB_RX_WINDOW_END: no report makes the round incomplete. (10)
    UWB_LOCK_LOSS: in RX or TX it makes the round incomplete, sets UNLOCK, and the synthesiser calibrates with UTRSW
    inactive, unless the round's end turned it off. (11) in IDLE the synthesiser calibrates again, and nothing else
    happens. (12) UWB_TX_WAIT_EXPIRY: a final held for lock sets SYNTH_BUSY and makes the round incomplete. (13)
    BOUNDING_RUN_COMPLETE: the run is evaluated, its context goes to FUSING and leaves the order of rounds, and the
    cycle is checked for its end. Where the rules leave a choice, it is the model's: log 30, 38, 42, 120. A command
    addressed to a role that is vacant is held instead (R408): log 86. -/
def Obligations.RangingRounds : Prop :=
  (∀ (s : State) (n a b counter : Nat) (c : Ctx), rolesThere s (.uwbRoundStart a b counter) = true → roundNext s = some
    (n, c) → uwbFree s = true → govLevel s < 3 → s.rad.regRec.isSome = true → c.exchanges.length < s.eff Reg.uwbRangeAvg
    → grantCovers s (exchangeTime s) a b = true → uwbNeverCalibrated s = false → uwbDutyOk s (exchangeTime s) = true →
    exec (.uwbRoundStart a b counter) s = .next (roundStarts (applyTiming .uwbRound s) n c false (exchangeTime s)
    counter)) ∧
  (∀ (s : State) (n a b counter : Nat) (c : Ctx), rolesThere s (.uwbRoundStart a b counter) = true → roundNext s = some
    (n, c) → uwbFree s = true → govLevel s < 3 → s.rad.regRec.isSome = true → s.eff Reg.uwbRangeAvg ≤ c.exchanges.length
    → grantCovers s (boundingTime s) a b = true → uwbNeverCalibrated s = false → uwbDutyOk s (boundingTime s) = true →
    exec (.uwbRoundStart a b counter) s = .next (roundStarts (applyTiming .uwbRound s) n c true (boundingTime s)
    counter)) ∧
  (∀ (s : State) (n : Nat) (c : Ctx), rolesThere s (.rangeGrantTimeout n) = true → roundNext s = some (n, c) → exec
    (.rangeGrantTimeout n) s = .next (endCtx s n ocRangeFail 0)) ∧
  (∀ (s : State) (r : Round) (counter : Nat) (ph : List (Option Nat)) (o : Int), rolesThere s (.uwbResponseFrame counter
    ph o) = true → roundAt s .response = some r → o.natAbs ≤ 4000 → exec (.uwbResponseFrame counter ph o) s = .next
    ({ s with uwb := { s.uwb with phase := .idle, utrsw := false, round := some { r with step := .final, t4 := rxStamp s counter 0, phases := ph, offset := o } } }))
    ∧
  (∀ (s : State) (r : Round) (counter : Nat) (ph : List (Option Nat)) (o : Int), rolesThere s (.uwbResponseFrame counter
    ph o) = true → roundAt s .response = some r → 4000 < o.natAbs → exec (.uwbResponseFrame counter ph o) s = .next
    (roundFails s)) ∧
  (∀ (s : State) (r : Round) (counter : Nat), rolesThere s (.uwbFinalTx counter) = true → roundAt s .final = some r →
    exec (.uwbFinalTx counter) s = .next
    (({ s with uwb := { s.uwb with phase := .tx, lock := true, utrsw := true, round := some { r with step := .report, t5 := (counter / 512 * 512 + s.eff Reg.uwbAntdlyTx) % 2 ^ 40 } } }).emit
    (.uwbFrame 2 r.nine ((s.ctx r.ctx).map (fun c => roundSts c 2)) []))) ∧
  (∀ (s : State) (r : Round) (c : Ctx) (p : Bytes), rolesThere s (.uwbReportFrame p) = true → roundAt s .report = some r
    → s.ctx r.ctx = some c → reportOk c r p = true → exec (.uwbReportFrame p) s = .next ((roundOver s).setCtx r.ctx
    { c with exchanges := c.exchanges ++ [completedExchange s r p] })) ∧
  (∀ (s : State) (r : Round) (c : Ctx) (p : Bytes), rolesThere s (.uwbReportFrame p) = true → roundAt s .report = some r
    → s.ctx r.ctx = some c → reportOk c r p = false → exec (.uwbReportFrame p) s = .next (roundFails s)) ∧
  (∀ (s : State) (r : Round), rolesThere s (.uwbRxWindowEnd) = true → roundAt s .report = some r → exec
    (.uwbRxWindowEnd) s = .next (roundFails s)) ∧
  (∀ (s : State), rolesThere s (.uwbLockLoss) = true → s.uwb.lock = true → s.uwb.phase = .rx ∨ s.uwb.phase = .tx → exec
    (.uwbLockLoss) s = .next ((fun t : State => if t.uwb.phase == .off then t else
    { t with uwb := { t.uwb with phase := .cal, utrsw := false } }) (roundFails
    (({ s with uwb := { s.uwb with lock := false } }).raise Reg.uwbFaultUnlock)))) ∧
  (∀ (s : State), rolesThere s (.uwbLockLoss) = true → s.uwb.lock = true → s.uwb.phase = .idle → exec (.uwbLockLoss) s =
    .next ({ s with uwb := { s.uwb with lock := false, phase := .cal, utrsw := false } })) ∧
  (∀ (s : State) (r : Round), rolesThere s (.uwbTxWaitExpiry) = true → s.uwb.phase = .cal → roundAt s .final = some r →
    exec (.uwbTxWaitExpiry) s = .next (roundFails (s.raise Reg.uwbFaultSynthBusy))) ∧
  (∀ (s : State) (r : Round) (c : Ctx) (rounds : List (Option BoundRound)), rolesThere s (.boundingRunComplete rounds) =
    true → roundAt s .bounding = some r → s.ctx r.ctx = some c → exec (.boundingRunComplete rounds) s = .next ((fun (t :
    State) => cycleCheck { t with cyc := { t.cyc with keyed := t.cyc.keyed.filter (fun k => k != r.ctx) } }) ((roundOver
    s).setCtx r.ctx { c with phase := .fusing, bound := some (evalRun s c rounds) })))

/-- What fusion and the two commands of ring 3 do, clause by clause. (1) FUSION_COMPLETE: an implausible FUSING context
    ends IMPLAUSIBLE with its detail. (2) FUSION_COMPLETE: a plausible one goes on to the zone, slot and group decision
    (`releaseDecision`). (3) PRX_REPORT_BUFFER: a waiting command of at least 64 bytes is taken up and stays posted. (4)
    TEST_POINT: a waiting command with nothing above bit 47 of P0 completes OK with the mask of the zones in force that
    hold the point. Where the rules leave a choice, it is the model's: log 37, 39, 40, 41. A command addressed to a role
    that is vacant is held instead (R408): log 86. -/
def Obligations.FusionAndZones : Prop :=
  (∀ (s : State) (n d : Nat) (c : Ctx), rolesThere s (.fusionComplete n) = true → s.ctx n = some c → c.phase = .fusing →
    fuse s c = .implausible d → exec (.fusionComplete n) s = .next (endCtx s n ocImplausible d)) ∧
  (∀ (s : State) (n : Nat) (c : Ctx) (p : List Int) (range az el : Int) (ba bb : Option (Int × Option Int)), rolesThere
    s (.fusionComplete n) = true → s.ctx n = some c → c.phase = .fusing → fuse s c = .plausible p range az el ba bb →
    exec (.fusionComplete n) s = .next (releaseDecision s n c p range az el ba bb)) ∧
  (∀ (s : State) (tag : Nat) (d : Desc), rolesThere s (.prxReportBuffer tag) = true → Waiting s 3 0x01 tag d → 64 ≤
    d.len → exec (.prxReportBuffer tag) s = .next (markTaken s 3 tag false)) ∧
  (∀ (s : State) (tag : Nat) (d : Desc), rolesThere s (.testPoint tag) = true → Waiting s 3 0x02 tag d → d.p0 < 2 ^ 48 →
    exec (.testPoint tag) s = .next (complete s 3 tag stOk ((zonesAt s [signed 16 d.p0, signed 16 (d.p0 / 2 ^ 16),
    signed 16 (d.p0 / 2 ^ 32)]).foldl setBit 0)))

/-- What five commands of the LF diagnostics do, clause by clause. (1) LF_START_WAIT_END: on a running device that
    waits, emissions are allowed and the diagnostic of every named channel is requested. (2) LF_DIAG_PERIOD: once
    emissions are allowed, the diagnostics are requested again. (3) DIAG_NOW: on a running device likewise, as an
    audited write of LF_CTRL. (4) LF_REARM: on a running device, as an audited write of LF_CTRL, the channel is armed
    again (`rearmChan`). (5) LF_DIAG_BURST_END: a burst that tripped disables its channel SHORT_GND, and its diagnostic
    has failed. (6) LF_DIAG_BURST_END: a current below 20 mA disables it OPEN, and its diagnostic has failed. (7)
    LF_DIAG_BURST_END: from 20 mA on it is OK with its resonance tracked, DETUNED where that lies far (`lfFar`), and its
    diagnostic has passed. Where the rules leave a choice, it is the model's: log 28, 34, 110. A command addressed to a
    role that is vacant is held instead (R408): log 86. -/
def Obligations.LfDiagnostics : Prop :=
  (∀ (s : State), rolesThere s (.lfStartWaitEnd) = true → s.running = true → s.lf.allowed = false → exec
    (.lfStartWaitEnd) s = .next (requestDiags { s with lf := { s.lf with allowed := true } })) ∧
  (∀ (s : State), rolesThere s (.lfDiagPeriod) = true → s.running = true → s.lf.allowed = true → exec (.lfDiagPeriod) s
    = .next (requestDiags s)) ∧
  (∀ (s : State), s.running = true → exec (.diagNow) s = .next (auditedWrite 0 0x1400 requestDiags s)) ∧
  (∀ (s : State) (c : Nat), s.running = true → c < 8 → exec (.lfRearm c) s = .next (auditedWrite 0 0x1400 (rearmChan c)
    s)) ∧
  (∀ (s : State) (c cur res : Nat), rolesThere s (.lfDiagBurstEnd c true cur res) = true → s.lf.burst = some c → exec
    (.lfDiagBurstEnd c true cur res) s = .next (selftestChan (chanFails { s with lf := { s.lf with burst := none } } c
    .shortGnd) c false)) ∧
  (∀ (s : State) (c cur res : Nat), rolesThere s (.lfDiagBurstEnd c false cur res) = true → s.lf.burst = some c → cur <
    20 → exec (.lfDiagBurstEnd c false cur res) s = .next (selftestChan (chanFails
    { s with lf := { s.lf with burst := none } } c .openCircuit) c false)) ∧
  (∀ (s : State) (c cur res : Nat), rolesThere s (.lfDiagBurstEnd c false cur res) = true → s.lf.burst = some c → 20 ≤
    cur → exec (.lfDiagBurstEnd c false cur res) s = .next ((fun (u : State) => selftestChan (lfChange u (fun v =>
    v.setChan c { track (v.chan c) res with base := .ok, detuned := lfFar v res 40, currentLow := false })) c true)
    { s with lf := { s.lf with burst := none } }))

/-- What four commands of the sub-GHz transceiver do, clause by clause. (1) SGR_SYNTH_LOCK: with nothing held the
    receiver is on and locked. (2) SGR_SYNTH_LOCK: a challenge held leaves (`challengeLeaves`). (3) SGR_LOCK_LOSS: in TX
    with a ring 5 packet, UNLOCK is set, the switch released, the synthesiser unlocked, the packet completed SYNTH_BUSY
    and the next job taken up. (4) SGR_LOCK_LOSS: in RX the synthesiser starts again, unlocked, with the receive switch
    off. (5) SGR_TX_WAIT_EXPIRY: a packet held for lock is completed SYNTH_BUSY (`sgrBusy`), and the next job taken up.
    (6) SGR_TX_WAIT_EXPIRY: a challenge held through a calibration ends its context NO_RESPONSE. (7) SGR_TX_END: after a
    challenge the switch is released and the receiver on. (8) SGR_TX_END: after a ring 5 packet the switch is released
    and its job ends OK with its airtime and return state (`jobEnds`). Where the rules leave a choice, it is the
    model's: log 27, 30. A command addressed to a role that is vacant is held instead (R408): log 86. -/
def Obligations.SubGhzStates : Prop :=
  (∀ (s : State), rolesThere s (.sgrSynthLock) = true → s.sgr.phase = .synth → s.sgr.held = false → exec (.sgrSynthLock)
    s = .next (sgrIdleAt { s with sgr := { s.sgr with lock := true } } .rx)) ∧
  (∀ (s : State), rolesThere s (.sgrSynthLock) = true → s.sgr.phase = .synth → s.sgr.held = true → s.sgr.work = .cycle →
    exec (.sgrSynthLock) s = .next (challengeLeaves { s with sgr := { s.sgr with lock := true } })) ∧
  (∀ (s : State) (tag back : Nat) (data : Bytes), rolesThere s (.sgrLockLoss) = true → s.sgr.phase = .tx → s.sgr.work =
    .txPacket tag data back → exec (.sgrLockLoss) s = .next ((fun u : State => sgrNextJob (complete (sgrFree
    { sgrIdleAt u .synth with sgr := { (sgrIdleAt u .synth).sgr with lock := false } }) 5 tag stSynthBusy 0)) ((s.raise
    Reg.sgrFaultUnlock).emit (.sgrSwitch true (switchDown s false))))) ∧
  (∀ (s : State), rolesThere s (.sgrLockLoss) = true → s.sgr.phase = .rx → ∃ t, exec (.sgrLockLoss) s = .next t ∧
    t.sgr.phase = .synth ∧ t.sgr.lock = false ∧ t.sgr.trswRx = false) ∧
  (∀ (s : State) (tag back : Nat) (data : Bytes), rolesThere s (.sgrTxWaitExpiry) = true → s.sgr.held = true →
    s.sgr.phase = .synth → s.sgr.work = .txPacket tag data back → exec (.sgrTxWaitExpiry) s = .next (sgrNextJob
    (complete (sgrFree (sgrBusy s)) 5 tag stSynthBusy 0))) ∧
  (∀ (s : State) (n : Nat), rolesThere s (.sgrTxWaitExpiry) = true → s.sgr.held = true → s.sgr.phase = .cal → s.sgr.work
    = .cycle → s.cyc.onAir = some n → exec (.sgrTxWaitExpiry) s = .next (endCtx (sgrBusy s) n ocNoResponse 0)) ∧
  (∀ (s : State), rolesThere s (.sgrTxEnd) = true → s.sgr.phase = .tx → s.sgr.work = .cycle → exec (.sgrTxEnd) s = .next
    (sgrIdleAt (s.emit (.sgrSwitch true (switchDown s true))) .rx)) ∧
  (∀ (s : State) (tag back : Nat) (data : Bytes), rolesThere s (.sgrTxEnd) = true → s.sgr.phase = .tx → s.sgr.work =
    .txPacket tag data back → exec (.sgrTxEnd) s = .next (jobEnds (s.emit (.sgrSwitch true (switchDown s (back == 1))))
    tag stOk (packetTime s data) back))

/-- What five commands of temperature, scheduler and calibration do, clause by clause. (1) TEMPERATURE_SAMPLE: on a
    running device awake, 155.0 °C or more is stored and ends in FAILED with cause 0x08. (2) TEMPERATURE_SAMPLE: a lower
    one is stored, the governor takes its level, and a drift requests calibrations. (3) QUIET_SLOT_TASK: the first task
    in the order of deadlines whose resource is quiet starts (`startTask`). (4) TASK_DEADLINE_PREEMPT: the task of the
    earliest deadline, if it may, stops the steps it needs, ends the contexts it hits PREEMPTED, is counted with PREEMPT
    set and an event record, and starts. (5) CAL_BLOCK_END: a running sub-GHz block ends (`blockEnds`: a first failure
    repeats, a second sets CAL_FAIL). (6) OSC_MEASURE_END: a count that passes stores RTCERR and marks the calibration
    done, and what waited goes on (`oscEnds`). (7) OSC_MEASURE_END: a first count that fails is made again, and nothing
    else changes. (8) OSC_MEASURE_END: a second one sets CAL_FAIL (`calFails`), and what waited goes on. Where the rules
    leave a choice, it is the model's: log 33, 46, 48, 88, 122. A command addressed to a role that is vacant is held
    instead (R408): log 86. -/
def Obligations.CalibrationAndTasks : Prop :=
  (∀ (s : State) (t : Int), rolesThere s (.temperatureSample t) = true → s.running = true → s.pwr.deep = none → 1550 ≤ t
    → exec (.temperatureSample t) s = .next (enterFailed { s with pwr := { s.pwr with temp := t } } 0x08 0)) ∧
  (∀ (s : State) (t : Int), rolesThere s (.temperatureSample t) = true → s.running = true → s.pwr.deep = none → t < 1550
    → exec (.temperatureSample t) s = .next ((fun (u : State) => requestCal u (driftMask u)) (setGovernor
    { s with pwr := { s.pwr with temp := t } } (levelAt { s with pwr := { s.pwr with temp := t } } t) s.pwr.ntcHot))) ∧
  (∀ (s : State) (t : Task) (a b : Bool), rolesThere s (.quietSlotTask a b) = true → (tasksByDeadline s).find?
    (taskQuiet s) = some t → exec (.quietSlotTask a b) s = .next (startTask s t a b)) ∧
  (∀ (s : State) (t : Task) (l : List Task) (a b : Bool), rolesThere s (.taskDeadlinePreempt a b) = true →
    tasksByDeadline s = t :: l → mayPreempt s t = true → exec (.taskDeadlinePreempt a b) s = .next (startTask (event
    (((endCtxs (stepsStopped s t) (taskHits t) ocPreempted).bump Reg.pwrSchedPreempts).raise Reg.pwrFaultPreempt) blkPwr
    0x20 ([BitVec.ofNat 8 t.kind.code, 0] ++ leBytes 2 (taskDuration t))) t a b)) ∧
  (∀ (s : State) (t : Task) (failed : Nat), rolesThere s (.calBlockEnd failed) = true → s.pwr.running = some t → t.kind
    = .sgrCal → exec (.calBlockEnd failed) s = .next (blockEnds s t failed)) ∧
  (∀ (s : State) (count : Nat), rolesThere s (.oscMeasureEnd count) = true → s.sgr.measuring = true → oscPasses count =
    true → exec (.oscMeasureEnd count) s = .next (oscEnds
    { s with sgr := { s.sgr with rtcErr := rtcError count, calDone := setBit s.sgr.calDone 6 } } true)) ∧
  (∀ (s : State) (count : Nat), rolesThere s (.oscMeasureEnd count) = true → s.sgr.measuring = true → oscPasses count =
    false → s.sgr.measureAgain = false → exec (.oscMeasureEnd count) s = .next
    ({ s with sgr := { s.sgr with measureAgain := true } })) ∧
  (∀ (s : State) (count : Nat), rolesThere s (.oscMeasureEnd count) = true → s.sgr.measuring = true → oscPasses count =
    false → s.sgr.measureAgain = true → exec (.oscMeasureEnd count) s = .next (oscEnds (calFails s false) false))

/-- What the two commands of the coexistence grant do, clause by clause. (1) COEX_GRANT_CHANGE: a grant gone during a
    UWB round sets GRANT_LOST and makes the round incomplete. (2) COEX_GRANT_CHANGE: a grant seen lets a TX_PACKET that
    waits for it go (`sgrPacketGoes`), and where that ends the job the next is taken up. (3) COEX_WAIT_EXPIRY: a
    TX_PACKET that waits for the grant completes 0x34, and the next job is taken up. Where the rules leave a choice, it
    is the model's: log 38, 47. A command addressed to a role that is vacant is held instead (R408): log 86. -/
def Obligations.CoexistenceGrant : Prop :=
  (∀ (s : State), grantSeen { s with rad := { s.rad with grantPin := false } } = false → s.uwb.round.isSome = true →
    exec (.coexGrantChange false) s = .next (roundFails ({ s with rad := { s.rad with grantPin := false } }.raise
    Reg.uwbFaultGrantLost))) ∧
  (∀ (s : State) (tag back : Nat) (data : Bytes), grantSeen { s with rad := { s.rad with grantPin := true } } = true →
    s.sgr.work = .txPacket tag data back → s.sgr.grantWait = true → exec (.coexGrantChange true) s = .next ((fun p :
    State × Bool => if p.2 then p.1 else sgrNextJob p.1) (sgrPacketGoes
    { s with rad := { s.rad with grantPin := true } } tag data))) ∧
  (∀ (s : State) (tag back : Nat) (data : Bytes), rolesThere s (.coexWaitExpiry) = true → s.sgr.work = .txPacket tag
    data back → s.sgr.grantWait = true → exec (.coexWaitExpiry) s = .next (sgrNextJob (complete (sgrFree s) 5 tag 0x34
    0)))

/-- What nine commands of ring 5 do, clause by clause; a command waits, undisturbed, on its served ring. (1) TX_PACKET:
    1 to 255 bytes, as many as LEN, and P0 below 4: the job is queued, or completes BAD_FIELD where it is longer than
    the poll interval allows (`queueJob`). (2) RX_PACKET: LEN of 1 to 255, 100 to 10,000,000 in P0, P1 below 4:
    likewise. (3) RSSI: 100 to 10,000 in P0: likewise. (4) SGR_PACKET_RECEIVED: the data of a packet received in RX is
    written to the command's buffer, and the job ends OK, or RX_CRC 0x33 for a wrong CRC-16, with length and RSSI. (5)
    SGR_RX_TIMEOUT: the job ends with status 0x32. (6) RSSI_MEASURE_END: the job ends OK with the mean. (7) CALIBRATE: a
    mask of 1 to 127 is taken up and requested (`requestCals`). (8) REGREC_READ: LEN of 72: the record in force is
    written, result 1. (9) REGREC_READ: without a record zeros are written, result 0. (10) REGREC_WRITE of 72 bytes that
    R130 does not accept: OK, result 0 and nothing written. (11) REGREC_WRITE of 72 legal bytes that R130 accepts:
    unless NVWP is low, it is taken up and the record requested of the store as a critical pair. Where the rules leave a
    choice, it is the model's: log 23, 30, 36, 45, 47. A command addressed to a role that is vacant is held instead
    (R408): log 86. -/
def Obligations.RadioRing : Prop :=
  (∀ (s : State) (tag : Nat) (d : Desc) (data : Bytes), rolesThere s (.txPacket tag data) = true → Waiting s 5 0x01 tag
    d → 1 ≤ d.len → d.len ≤ 255 → data.length = d.len → d.p0 < 4 → exec (.txPacket tag data) s = .next (queueJob s tag
    (.txPacket tag data (returnState s d.p0 Reg.sgrCtrlTxoff)))) ∧
  (∀ (s : State) (tag : Nat) (d : Desc), rolesThere s (.rxPacket tag) = true → Waiting s 5 0x02 tag d → 1 ≤ d.len →
    d.len ≤ 255 → 100 ≤ d.p0 → d.p0 ≤ 10000000 → d.p1 < 4 → exec (.rxPacket tag) s = .next (queueJob s tag (.rxPacket
    tag d.len (returnState s d.p1 Reg.sgrCtrlRxoff)))) ∧
  (∀ (s : State) (tag : Nat) (d : Desc), rolesThere s (.rssi tag) = true → Waiting s 5 0x06 tag d → 100 ≤ d.p0 → d.p0 ≤
    10000 → exec (.rssi tag) s = .next (queueJob s tag (.rssi tag))) ∧
  (∀ (s : State) (tag len back : Nat) (rssi : Int) (frame : Bytes) (o : Outst), rolesThere s (.sgrPacketReceived rssi
    frame) = true → s.sgr.work = .rxPacket tag len back → s.sgr.phase = .rx → findOut s 5 tag = some o → exec
    (.sgrPacketReceived rssi frame) s = .next ((fun (u : State) (p : Bytes × Bool) => jobEnds (cmdDma u 5 o.desc.tag
    o.desc.addr p.1) tag (if p.2 then stOk else 0x33) (p.1.length + 65536 * unsignedOf 8 rssi) back) (noteRssi s rssi)
    (packetData (noteRssi s rssi) len frame))) ∧
  (∀ (s : State) (tag len back : Nat), rolesThere s (.sgrRxTimeout) = true → s.sgr.work = .rxPacket tag len back → exec
    (.sgrRxTimeout) s = .next (jobEnds s tag 0x32 0 back)) ∧
  (∀ (s : State) (tag : Nat) (mean : Int), rolesThere s (.rssiMeasureEnd mean) = true → s.sgr.work = .rssi tag → exec
    (.rssiMeasureEnd mean) s = .next (jobEnds s tag stOk (unsignedOf 8 mean) (s.eff Reg.sgrCtrlRxoff))) ∧
  (∀ (s : State) (tag : Nat) (d : Desc), rolesThere s (.calibrate tag) = true → Waiting s 5 0x03 tag d → d.p0 < 128 →
    d.p0 ≠ 0 → exec (.calibrate tag) s = .next ((fun (u : State) => requestCals
    { u with sgr := { u.sgr with calCmds := u.sgr.calCmds ++ [(tag, d.p0, 0)] } } false d.p0) (markTaken s 5 tag
    false))) ∧
  (∀ (s : State) (tag : Nat) (d : Desc) (b : Bytes), rolesThere s (.regrecRead tag) = true → Waiting s 5 0x04 tag d →
    d.len = 72 → s.rad.regRec = some b → exec (.regrecRead tag) s = .next (completeData s 5 d b 1)) ∧
  (∀ (s : State) (tag : Nat) (d : Desc), rolesThere s (.regrecRead tag) = true → Waiting s 5 0x04 tag d → d.len = 72 →
    s.rad.regRec = none → exec (.regrecRead tag) s = .next (completeData s 5 d (zeroBytes 72) 0)) ∧
  (∀ (s : State) (tag : Nat) (d : Desc) (data : Bytes), rolesThere s (.regrecWrite tag data) = true → Waiting s 5 0x05
    tag d → d.len = 72 → data.length = 72 → regrecAccepted s = false → exec (.regrecWrite tag data) s = .next
    (refuseSilent s 5 d 0)) ∧
  (∀ (s : State) (tag : Nat) (d : Desc) (data : Bytes), rolesThere s (.regrecWrite tag data) = true → Waiting s 5 0x05
    tag d → d.len = 72 → data.length = 72 → regrecAccepted s = true → regRecLegal data = true → exec (.regrecWrite tag
    data) s = .next (changeCmd 5 d true (fun u => nvRequest (markTaken u 5 tag false) (critPair 0x0010 false (.regRec
    data)) (.regRec tag data)) s))

/-- What four commands of ring 13 do, clause by clause; a command waits, undisturbed, on its served ring. (1) SELFTEST:
    an empty mask with 10 to 4,000 in P1 completes OK. (2) SELFTEST: the oscillator alone is taken up, noted, and its
    task requested with the deadline of P1. (3) PROD_TX: operands of legal form are refused silently outside BLANK and
    RETURNED. (4) PROD_TX: in BLANK or RETURNED with none in progress it is taken up past its abort point with the
    period of P1, and its first frame made (`prodFrame`). (5) PROD_TX_PERIOD: on a running device whose last test frame
    is over, the next is made. (6) SCHEDULE: LEN of 256: 16 bytes for each queued task in the order of deadlines are
    written, and the result is their number. Where the rules leave a choice, it is the model's: log 33, 35, 43, 44. A
    command addressed to a role that is vacant is held instead (R408): log 86. -/
def Obligations.TestRing : Prop :=
  (∀ (s : State) (tag : Nat) (d : Desc), rolesThere s (.selftest tag) = true → Waiting s 13 0x01 tag d → d.p0 = 0 → 10 ≤
    d.p1 → d.p1 ≤ 4000 → exec (.selftest tag) s = .next (complete s 13 tag stOk 0)) ∧
  (∀ (s : State) (tag : Nat) (d : Desc), rolesThere s (.selftest tag) = true → Waiting s 13 0x01 tag d → d.p0 = 8 → 10 ≤
    d.p1 → d.p1 ≤ 4000 → exec (.selftest tag) s = .next ((fun (u : State) => selftestBit (requestTask
    { u with pwr := { u.pwr with selftests := u.pwr.selftests ++ [⟨tag, 8, 0, 8, 0⟩] } } .oscTrim 64 64 d.p1 [tag])
    [tag] 4 false) (markTaken s 13 tag false))) ∧
  (∀ (s : State) (tag : Nat) (d : Desc), rolesThere s (.prodTx tag) = true → Waiting s 13 0x04 tag d → d.p0 < 2 ^ 32 →
    bitField d.p0 1 15 = 0 → 1 ≤ bitField d.p0 16 16 → 1000 ≤ d.p1 → d.p1 ≤ 1000000 → s.cip.lifeCycle ≠ .blank →
    s.cip.lifeCycle ≠ .returned → exec (.prodTx tag) s = .next (refuseSilent s 13 d 0)) ∧
  (∀ (s : State) (tag : Nat) (d : Desc), rolesThere s (.prodTx tag) = true → Waiting s 13 0x04 tag d → d.p0 < 2 ^ 32 →
    bitField d.p0 1 15 = 0 → 1 ≤ bitField d.p0 16 16 → 1000 ≤ d.p1 → d.p1 ≤ 1000000 → s.cip.lifeCycle = .blank ∨
    s.cip.lifeCycle = .returned → s.pwr.prodTx = none → exec (.prodTx tag) s = .next ((fun (u : State) => prodFrame
    { u with pwr := { u.pwr with prodTx := some ⟨tag, bitAt d.p0 0, bitField d.p0 16 16, 0, d.p1, u.now⟩ } }) (markTaken
    s 13 tag true))) ∧
  (∀ (s : State), rolesThere s (.prodTxPeriod) = true → s.running = true → s.sgr.work ≠ .prod → exec (.prodTxPeriod) s =
    .next (prodFrame s)) ∧
  (∀ (s : State) (tag : Nat) (d : Desc), rolesThere s (.schedule tag) = true → Waiting s 13 0x05 tag d → d.len = 256 →
    exec (.schedule tag) s = .next (completeData s 13 d (padTo 256 ((tasksByDeadline s).flatMap (fun t => [BitVec.ofNat
    8 t.kind.code, 0, 0, 0] ++ leBytes 4 (t.deadline - s.now) ++ leBytes 4 (taskDuration t) ++ zeroBytes 4)))
    s.pwr.tasks.length))

/-- What seven commands of the coil and of its walk do, clause by clause; `coilFinding` is R74's classification,
    `walkNext` the next WALK or the walk's end. (1) COIL_POLL_START: a coil that may be driven starts what is due, at
    this VLF (`coilNext`). (2) COIL_SETTLE_END: an OPEN coil is noted and ends its job COIL_FAULT. (3) COIL_SETTLE_END:
    any other is noted, and the walk begins. (4) COIL_OVERCURRENT: with the field on, the coil is SHORT and the field
    collapses. (5) COIL_VLF_COLLAPSE: with the field on, it collapses. (6) TPX_REARM: on a running device, as an audited
    write of TPX_CTRL, a SHORT coil is UNTESTED (`rearmCoil`). (7) WALK_REPLY: in its window, bits all read name one tag
    (`walkFound`). (8) WALK_REPLY: in its window, a first collision puts the node's two halves on the walk's stack. (9)
    WALK_REPLY: outside its window it is missing, and the walk goes on. (10) TPX_REPLY_MISSING: a missing WALK reply
    likewise. Where the rules leave a choice, it is the model's: log 95, 96, 98, 112, 113, 118. A command addressed to a
    role that is vacant is held instead (R408): log 86. -/
def Obligations.CoilPollsAndWalk : Prop :=
  (∀ (s : State) (vlf : Nat), rolesThere s (.coilPollStart vlf) = true → coilMayStart s = true → exec (.coilPollStart
    vlf) s = .next (coilNext (setVlf s vlf))) ∧
  (∀ (s : State) (cur : Nat) (p f : Bool), rolesThere s (.coilSettleEnd cur p f) = true → s.tpx.phase = .settle →
    coilFinding s cur p f = coilOpen → exec (.coilSettleEnd cur p f) s = .next (endJob (classifyCoil s cur coilOpen)
    st4CoilFault 0)) ∧
  (∀ (s : State) (cur : Nat) (p f : Bool), rolesThere s (.coilSettleEnd cur p f) = true → s.tpx.phase = .settle →
    coilFinding s cur p f ≠ coilOpen → exec (.coilSettleEnd cur p f) s = .next (walkNext (classifyCoil s cur
    (coilFinding s cur p f)))) ∧
  (∀ (s : State), rolesThere s (.coilOvercurrent) = true → fieldOn s = true → exec (.coilOvercurrent) s = .next
    (fieldCollapse (classifyCoil s 255 coilShort) ocNoResponse)) ∧
  (∀ (s : State), rolesThere s (.coilVlfCollapse) = true → fieldOn s = true → exec (.coilVlfCollapse) s = .next
    (fieldCollapse s ocNoResponse)) ∧
  (∀ (s : State), s.running = true → exec (.tpxRearm) s = .next (auditedWrite 0 0x1800 rearmCoil s)) ∧
  (∀ (s : State) (n p tries start bits : Nat) (h : List (Bool × Bool)), rolesThere s (.walkReply start h) = true →
    s.tpx.phase = .walk n p tries → inTurnaround start turn256 = true → readWalk (64 - n) 0 0 h = .whole bits → exec
    (.walkReply start h) s = .next (walkFound s (p * 2 ^ (64 - n) + bits))) ∧
  (∀ (s : State) (n p tries start count bits : Nat) (h : List (Bool × Bool)), rolesThere s (.walkReply start h) = true →
    s.tpx.phase = .walk n p tries → inTurnaround start turn256 = true → readWalk (64 - n) 0 0 h = .collided count bits →
    exec (.walkReply start h) s = .next (walkNext
    { s with tpx := { s.tpx with stack := (n + count + 1, (p * 2 ^ count + bits) * 2) :: (n + count + 1, (p * 2 ^ count + bits) * 2 + 1) :: s.tpx.stack } }))
    ∧
  (∀ (s : State) (n p tries start : Nat) (h : List (Bool × Bool)), rolesThere s (.walkReply start h) = true →
    s.tpx.phase = .walk n p tries → inTurnaround start turn256 = false → exec (.walkReply start h) s = .next (walkNext
    s)) ∧
  (∀ (s : State) (cur n p tries : Nat) (b : Bool), rolesThere s (.tpxReplyMissing cur b) = true → s.tpx.phase = .walk n
    p tries → exec (.tpxReplyMissing cur b) s = .next (walkNext s))

/-- What six commands of a selected tag's exchange do, clause by clause; the window is R79's or R83's, and a reply whole
    has its CRC-16 right. (1) SELECTED_REPLY: in its window, of a tag that a READ, WRITE or INVENTORY selects, it notes
    capabilities, slot, entry and epoch, and the tag is secured (`secureTag`). (2) SELECTED_REPLY: in a poll, a tag that
    R33 refuses ends with that outcome, its context counted. (3) NONCE_REPLY: in its window it is answered by AUTH
    (`sendAuth`). (4) NONCE_REPLY: outside it the tag ends NO_RESPONSE. (5) AUTH_REPLY: a whole PROOF begun by 4.096 ms
    but outside its window counts as a Thorn failure and ends the tag LATE_RESPONSE. (6) AUTH_REPLY: a whole PROOF
    inside with a wrong MACt counts as a Thorn failure and ends it BAD_RESPONSE. (7) AUTH_REPLY: a whole PROOF inside
    with the right MACt of an enrolled tag derives Ks with its counter at 0 and goes on (`afterSecured`). (8)
    PASSWORD_REPLY: a whole ACK inside its window, of an enrolled tag on the password path, goes on to the release
    decision (`coilDecide`). (9) SECURED_REPLY: in time, with counter and MAC right, it takes its step (`securedStep`).
    (10) SECURED_REPLY: out of time it is missing (`securedMissing`). (11) TPX_REPLY_MISSING: a missing PROOF ends the
    tag NO_RESPONSE. (12) TPX_REPLY_MISSING: a missing secured reply is missing (`securedMissing`). Where the rules
    leave a choice, it is the model's: log 24, 25, 95, 99, 114, 115, 117. A command addressed to a role that is vacant
    is held instead (R408): log 86. -/
def Obligations.TransponderHandshake : Prop :=
  (∀ (s : State) (c : CoilCtx) (start cur cap : Nat) (frame : Bytes) (b : Bytes), rolesThere s (.selectedReply start cur
    frame) = true → s.tpx.phase = .select → coilCtx s cur = some c → inTurnaround start turn256 = true → replyPayload
    frame 0x81 1 = some b → beNat b = cap → servesTags s = false → exec (.selectedReply start cur frame) s = .next
    (secureTag s
    { c with cap := cap, slot := findHolly s c.id, entry := ((findHolly s c.id).map (holly s)).getD HollySlot.empty, epoch := s.aut.table.epoch }))
    ∧
  (∀ (s : State) (c : CoilCtx) (start cur oc : Nat) (frame : Bytes) (b : Bytes), rolesThere s (.selectedReply start cur
    frame) = true → s.tpx.phase = .select → coilCtx s cur = some c → inTurnaround start turn256 = true → replyPayload
    frame 0x81 1 = some b → servesTags s = true → checkR33
    { s with tpx := { s.tpx with contexts := s.tpx.contexts + 1 } } c.id = some oc → exec (.selectedReply start cur
    frame) s = .next ((fun (u : State) => endTag (setCoilCtx u
    { c with cap := beNat b, slot := findHolly s c.id, entry := ((findHolly s c.id).map (holly s)).getD HollySlot.empty, epoch := s.aut.table.epoch })
    oc 0) { s with tpx := { s.tpx with contexts := s.tpx.contexts + 1 } })) ∧
  (∀ (s : State) (c : CoilCtx) (start cur : Nat) (frame : Bytes) (b : Bytes), rolesThere s (.nonceReply start cur frame)
    = true → s.tpx.phase = .getNonce → coilCtx s cur = some c → inTurnaround start turn256 = true → replyPayload frame
    0x82 16 = some b → exec (.nonceReply start cur frame) s = .next (sendAuth s { c with nt := beNat b })) ∧
  (∀ (s : State) (c : CoilCtx) (start cur : Nat) (frame : Bytes), rolesThere s (.nonceReply start cur frame) = true →
    s.tpx.phase = .getNonce → coilCtx s cur = some c → inTurnaround start turn256 = false → exec (.nonceReply start cur
    frame) s = .next (endTag (setCoilCtx s c) ocNoResponse 0)) ∧
  (∀ (s : State) (c : CoilCtx) (start cur : Nat) (frame m : Bytes), rolesThere s (.authReply start cur frame) = true →
    s.tpx.phase = .auth → coilCtx s cur = some c → replyWhole frame = true → replyPayload frame 0x83 8 = some m → start
    ≤ 49152 → inTurnaround start turn2048 = false → exec (.authReply start cur frame) s = .next (endTag (setCoilCtx
    (thornFailure s c.id) c) ocLate 0)) ∧
  (∀ (s : State) (c : CoilCtx) (start cur : Nat) (frame m : Bytes), rolesThere s (.authReply start cur frame) = true →
    s.tpx.phase = .auth → coilCtx s cur = some c → replyWhole frame = true → replyPayload frame 0x83 8 = some m →
    inTurnaround start turn2048 = true → beNat m ≠ macT 0x74 c.kt c.nd c.nt c.id → exec (.authReply start cur frame) s =
    .next (endTag (setCoilCtx (thornFailure s c.id) c) ocBad 0)) ∧
  (∀ (s : State) (c : CoilCtx) (start cur : Nat) (frame m : Bytes), rolesThere s (.authReply start cur frame) = true →
    s.tpx.phase = .auth → coilCtx s cur = some c → replyWhole frame = true → replyPayload frame 0x83 8 = some m →
    inTurnaround start turn2048 = true → beNat m = macT 0x74 c.kt c.nd c.nt c.id → c.byPassword = false → (findHolly s
    c.id).isSome = true → exec (.authReply start cur frame) s = .next (afterSecured s
    { c with ks := deriveKs c.kt c.nd c.nt, counter := 0 })) ∧
  (∀ (s : State) (c : CoilCtx) (start cur : Nat) (frame m : Bytes), rolesThere s (.passwordReply start cur frame) = true
    → s.tpx.phase = .password → coilCtx s cur = some c → replyWhole frame = true → replyPayload frame 0x80 0 = some m →
    inTurnaround start turn256 = true → c.byPassword = true → (findHolly s c.id).isSome = true → exec (.passwordReply
    start cur frame) s = .next (coilDecide s c)) ∧
  (∀ (s : State) (c : CoilCtx) (step : SecStep) (start cur : Nat) (frame data : Bytes), rolesThere s (.securedReply
    start cur frame) = true → s.tpx.phase = .secured step → coilCtx s cur = some c → secInTime step start = true →
    securedPayload c step.op step.replyLen frame = some data → exec (.securedReply start cur frame) s = .next
    (securedStep (setCoilCtx s c) c step data)) ∧
  (∀ (s : State) (c : CoilCtx) (step : SecStep) (start cur : Nat) (frame : Bytes), rolesThere s (.securedReply start cur
    frame) = true → s.tpx.phase = .secured step → coilCtx s cur = some c → secInTime step start = false → exec
    (.securedReply start cur frame) s = .next (securedMissing (setCoilCtx s c) c step true)) ∧
  (∀ (s : State) (c : CoilCtx) (cur : Nat) (b : Bool), rolesThere s (.tpxReplyMissing cur b) = true → s.tpx.phase =
    .auth → coilCtx s cur = some c → exec (.tpxReplyMissing cur b) s = .next (endTag (setCoilCtx s c) ocNoResponse 0)) ∧
  (∀ (s : State) (c : CoilCtx) (step : SecStep) (cur : Nat) (b : Bool), rolesThere s (.tpxReplyMissing cur b) = true →
    s.tpx.phase = .secured step → coilCtx s cur = some c → exec (.tpxReplyMissing cur b) s = .next (securedMissing
    (setCoilCtx s c) c step b))

/-- What the five commands of ring 4 do, clause by clause; a command waits, undisturbed, on its served ring.
    `coilCommand` takes it up and puts it in the coil's queue. (1) TPX_REPORT_BUFFER: at least 32 bytes: it is taken up
    and stays posted. (2) POLL_NOW joins the queue. (3) INVENTORY of one to eight identifiers, 8 bytes each, joins the
    queue. (4) READ_BLOCK of 16 bytes and a block below 16 joins the queue. (5) READ_BLOCK of another length or block
    completes BAD_FIELD. (6) WRITE_BLOCK of 16 bytes and a block below 16 joins the queue with its data. Where the rules
    leave a choice, it is the model's: log 97, 100. A command addressed to a role that is vacant is held instead (R408):
    log 86. -/
def Obligations.CoilRing : Prop :=
  (∀ (s : State) (tag : Nat) (d : Desc), rolesThere s (.tpxReportBuffer tag) = true → Waiting s 4 0x01 tag d → 32 ≤
    d.len → exec (.tpxReportBuffer tag) s = .next (markTaken s 4 tag false)) ∧
  (∀ (s : State) (tag : Nat) (d : Desc), rolesThere s (.pollNow tag) = true → Waiting s 4 0x02 tag d → exec (.pollNow
    tag) s = .next (coilCommand tag (.pollNow tag) s)) ∧
  (∀ (s : State) (tag : Nat) (d : Desc), rolesThere s (.inventory tag) = true → Waiting s 4 0x03 tag d → 8 ≤ d.len →
    d.len ≤ 64 → d.len % 8 = 0 → exec (.inventory tag) s = .next (coilCommand tag (.inventory tag (d.len / 8)) s)) ∧
  (∀ (s : State) (tag : Nat) (d : Desc), rolesThere s (.readBlock tag) = true → Waiting s 4 0x04 tag d → d.len = 16 →
    d.p1 < 16 → exec (.readBlock tag) s = .next (coilCommand tag (.readBlock tag d.p0 d.p1) s)) ∧
  (∀ (s : State) (tag : Nat) (d : Desc), rolesThere s (.readBlock tag) = true → Waiting s 4 0x04 tag d → d.len ≠ 16 ∨ 16
    ≤ d.p1 → exec (.readBlock tag) s = .next (complete s 4 tag stBadField 0)) ∧
  (∀ (s : State) (tag : Nat) (d : Desc) (data : Bytes), rolesThere s (.writeBlock tag data) = true → Waiting s 4 0x05
    tag d → d.len = 16 → d.p1 < 16 → exec (.writeBlock tag data) s = .next (coilCommand tag (.writeBlock tag d.p0 d.p1
    (padTo 16 data)) s))

/-- What five commands of ring 7 do, clause by clause; a command waits, undisturbed, on its served ring, and a form is
    that of R171 to R174. (1) ENCRYPT: a job of legal form under a slot that permits it runs on that slot's key
    (`encryptRuns`). (2) ENCRYPT: under one that does not, it is refused without a sign (`encryptRefused`: OK and
    zeros). (3) DECRYPT: a job of legal form under a slot that permits it runs (`decryptRuns`). (4) DECRYPT: under one
    that does not, zeros are written for its text and it completes OK, result 0. (5) MAC: a job of legal form under a
    slot that permits it writes the CMAC at offset 16 of its side block and completes OK, result 0. (6) NONCE: LEN a
    multiple of 16 up to 4,096: so many values of the nonce service are written, the result is LEN. (7) COUNTER: a slot
    HOST sees, its counter below the ceiling: the value is the result and the counter goes on. (8) COUNTER: a slot HOST
    does not see is refused without a sign: OK, result 0. Where the rules leave a choice, it is the model's: log 22, 49.
    A command addressed to a role that is vacant is held instead (R408): log 86. -/
def Obligations.CipherJobs : Prop :=
  (∀ (s : State) (tag : Nat) (d : Desc) (data : Bytes), rolesThere s (.encrypt tag data) = true → Waiting s 7 0x01 tag d
    → encryptForm d = true → slotPermits s (jobSlot d) reqHost false useEnc = true → exec (.encrypt tag data) s = .next
    (encryptRuns d (padTo d.len data) s)) ∧
  (∀ (s : State) (tag : Nat) (d : Desc) (data : Bytes), rolesThere s (.encrypt tag data) = true → Waiting s 7 0x01 tag d
    → encryptForm d = true → slotPermits s (jobSlot d) reqHost false useEnc = false → exec (.encrypt tag data) s = .next
    (encryptRefused d s)) ∧
  (∀ (s : State) (tag : Nat) (d : Desc) (data side : Bytes), rolesThere s (.decrypt tag data side) = true → Waiting s 7
    0x02 tag d → decryptForm d = true → slotPermits s (jobSlot d) reqHost false useDec = true → exec (.decrypt tag data
    side) s = .next (decryptRuns d (padTo d.len data) (padTo 32 side) s)) ∧
  (∀ (s : State) (tag : Nat) (d : Desc) (data side : Bytes), rolesThere s (.decrypt tag data side) = true → Waiting s 7
    0x02 tag d → decryptForm d = true → slotPermits s (jobSlot d) reqHost false useDec = false → exec (.decrypt tag data
    side) s = .next (complete (cmdDma s 7 d.tag (d.addr + jobAad d) (zeroBytes (d.len - jobAad d))) 7 d.tag stOk 0)) ∧
  (∀ (s : State) (tag : Nat) (d : Desc) (data : Bytes), rolesThere s (.mac tag data) = true → Waiting s 7 0x03 tag d →
    macForm d = true → slotPermits s (jobSlot d) reqHost false useEnc = true → exec (.mac tag data) s = .next (complete
    (cmdDma (useSlot s (jobSlot d)) 7 tag (d.p1 + 16) (cmac (s.slot (jobSlot d)).key (padTo d.len data))) 7 tag stOk 0)) ∧
  (∀ (s : State) (tag : Nat) (d : Desc), rolesThere s (.nonce tag) = true → Waiting s 7 0x04 tag d → 16 ≤ d.len → d.len
    ≤ 4096 → d.len % 16 = 0 → exec (.nonce tag) s = .next (completeData (drawMany (d.len / 16) s).2 7 d (drawMany (d.len
    / 16) s).1 d.len)) ∧
  (∀ (s : State) (tag : Nat) (d : Desc), rolesThere s (.counter tag) = true → Waiting s 7 0x05 tag d → d.p0 < 64 →
    slotVisible s d.p0 reqHost false = true → counterOf s d.p0 ≠ ceilingOf s d.p0 → exec (.counter tag) s = .next
    (complete (issueCounter s d.p0).2 7 tag stOk (counterOf s d.p0))) ∧
  (∀ (s : State) (tag : Nat) (d : Desc), rolesThere s (.counter tag) = true → Waiting s 7 0x05 tag d → d.p0 < 64 →
    slotVisible s d.p0 reqHost false = false → exec (.counter tag) s = .next (refuseSilent s 7 d 0))

/-- What five commands of the random source and of Privet do, clause by clause. `windowTested` and `startupTested` are
    R178's tests of raw bits: whether one fails, and the state with the failures counted. (1) TRNG_STARTUP_TEST_END: in
    STARTING, not ready, 4,096 bits that pass make the TRNG ready and seed the DRBG. (2) TRNG_STARTUP_TEST_END: a first
    failure is counted. (3) TRNG_STARTUP_TEST_END: a second ends in FAILED (`trngFails`). (4) ENTROPY_WINDOW_END: in
    RUNNING, a window that passes is noted, and a reseed that waits for one starts (`reseedStarts`). (5)
    ENTROPY_WINDOW_END: one that fails, with no other in the last 1.000 s, sets HEALTH and is remembered. (6)
    DRBG_RESEED: ready, with none in progress, a limit of CIP_DRBG reached and the latest window good, a reseed starts.
    (7) DRBG_RESEED: with that window bad, it is due. (8) DRBG_RESEED: the end of one in progress clears RESEEDING, lets
    the settings of CIP_DRBG take effect and starts the time anew. (9) RESEED_WAIT_EXPIRY: a reseed that waits ends in
    FAILED (`trngFails`). (10) PRIVET_REMASK at LEAF and above: the slot that is next, other than 0 and not being
    written, keeps its value, the next is the one after it, and the working key stays. Where the rules leave a choice,
    it is the model's: log 5, 50, 124, 129. -/
def Obligations.RandomSource : Prop :=
  (∀ (s : State) (bits : List Bool), s.mode = .starting → trngReady s = false → (startupTested (s.bump
    Reg.cipTrngStartups) bits).1 = false → exec (.trngStartupTestEnd bits) s = .next ((fun (u : State) =>
    { u with cip := { u.cip with drbg := u.cip.drbg.start, lastReseed := u.now, startupFails := 0 } }) ((startupTested
    (s.bump Reg.cipTrngStartups) bits).2.setStat Reg.cipStatusTrngReady 1))) ∧
  (∀ (s : State) (bits : List Bool), s.mode = .starting → trngReady s = false → (startupTested (s.bump
    Reg.cipTrngStartups) bits).1 = true → (startupTested (s.bump Reg.cipTrngStartups) bits).2.cip.startupFails = 0 →
    exec (.trngStartupTestEnd bits) s = .next ((fun (u : State) => { u with cip := { u.cip with startupFails := 1 } })
    (startupTested (s.bump Reg.cipTrngStartups) bits).2)) ∧
  (∀ (s : State) (bits : List Bool), s.mode = .starting → trngReady s = false → (startupTested (s.bump
    Reg.cipTrngStartups) bits).1 = true → (startupTested (s.bump Reg.cipTrngStartups) bits).2.cip.startupFails = 1 →
    exec (.trngStartupTestEnd bits) s = .next ((fun (u : State) => trngFails
    { u with cip := { u.cip with startupFails := 2 } }) (startupTested (s.bump Reg.cipTrngStartups) bits).2)) ∧
  (∀ (s : State) (b : Bool) (bits : List Bool), s.mode = .running → (windowTested s (b :: bits)).1 = false → exec
    (.entropyWindowEnd b bits) s = .next ((fun (u : State) => if u.cip.reseedDue then reseedStarts u else u)
    { (windowTested s (b :: bits)).2 with cip := { (windowTested s (b :: bits)).2.cip with windowBad := false } })) ∧
  (∀ (s : State) (b : Bool) (bits : List Bool), s.mode = .running → (windowTested s (b :: bits)).1 = true →
    (windowTested s (b :: bits)).2.cip.healthFails.filter (fun t => decide ((windowTested s (b :: bits)).2.now ≤ t +
    1000)) = [] → exec (.entropyWindowEnd b bits) s = .next ((fun (u : State) =>
    { u.raise Reg.cipFaultHealth with cip := { u.cip with windowBad := true, healthFails := [u.now] } }) (windowTested s
    (b :: bits)).2)) ∧
  (∀ (s : State), trngReady s = true → s.stat Reg.cipStatusReseeding ≠ 1 → reseedFalls s = true → s.cip.windowBad =
    false → exec (.drbgReseed false) s = .next (reseedStarts s)) ∧
  (∀ (s : State), trngReady s = true → s.stat Reg.cipStatusReseeding ≠ 1 → reseedFalls s = true → s.cip.windowBad = true
    → exec (.drbgReseed false) s = .next ({ s with cip := { s.cip with reseedDue := true } })) ∧
  (∀ (s : State), trngReady s = true → s.stat Reg.cipStatusReseeding = 1 → exec (.drbgReseed true) s = .next ((fun (u :
    State) => { u with cip := { u.cip with lastReseed := u.now } }) (applyTiming .reseed (s.setStat
    Reg.cipStatusReseeding 0)))) ∧
  (∀ (s : State), s.cip.reseedDue = true → exec (.reseedWaitExpiry) s = .next (trngFails s)) ∧
  (∀ (s : State), trngReady s = true → rung s ≤ 1 → s.cip.remask ≠ 0 → slotBeingWritten s s.cip.remask = false → ∃ t,
    exec (.privetRemask) s = .next t ∧ (t.slot s.cip.remask).value = (s.slot s.cip.remask).value ∧ t.cip.remask =
    (s.cip.remask + 1) % 64 ∧ t.cip.loaded = s.cip.loaded ∧ t.cip.workMasked = s.cip.workMasked)

/-- What five commands of ring 8 do, clause by clause; a command waits, undisturbed, on its served ring. `loadSlot` is a
    load: attribute word, permission, NVWP, single-slot roles, source and value. (1) LOAD_CLEAR of 32 bytes, one slot
    named: a load open in BLANK and PROVISIONED, of the data. (2) LOAD_WRAPPED of 40 bytes, two slots named: a load open
    where the source may unwrap, of the unwrapped data. (3) DERIVE of at most 64 bytes, two slots named: a load open
    where the source may derive, of the KDF's output. (4) ERASE: of a slot HOST sees, with NVWP high and no change
    before it: it is taken up and an empty slot requested of the store. (5) ERASE: of one HOST does not see it is
    refused without a sign. (6) NARROW: of a slot HOST sees, with NVWP high and no change before it: it is taken up and
    the narrowed slot requested. Where the rules leave a choice, it is the model's: log 22, 23. -/
def Obligations.KeyLoads : Prop :=
  (∀ (s : State) (tag : Nat) (d : Desc) (data : Bytes), Waiting s 8 0x01 tag d → d.len = 32 → oneSlot d = true → exec
    (.loadClear tag data) s = .next (loadSlot 1 tag (fun _ u => u.cip.lifeCycle == .blank || u.cip.lifeCycle ==
    .provisioned) (fun _ => none) (fun _ _ => some (padTo 32 data)) d s)) ∧
  (∀ (s : State) (tag : Nat) (d : Desc) (data : Bytes), Waiting s 8 0x02 tag d → d.len = 40 → twoSlots d = true → exec
    (.loadWrapped tag data) s = .next (loadSlot 2 tag (fun d u => slotUnwraps u (keySource d) reqHost false) (fun d =>
    some (keySource d)) (fun d u => keyUnwrap (u.slot (keySource d)).key (padTo 40 data)) d s)) ∧
  (∀ (s : State) (tag : Nat) (d : Desc) (data : Bytes), Waiting s 8 0x03 tag d → d.len ≤ 64 → twoSlots d = true → exec
    (.derive tag data) s = .next (loadSlot 3 tag (fun d u => slotPermits u (keySource d) reqHost false useDerive) (fun d
    => some (keySource d)) (fun d u => some (padTo 32 (kdf (u.slot (keySource d)).key 0x4B (padTo d.len data) (attrBits
    (loadAttr d))))) d s)) ∧
  (∀ (s : State) (tag : Nat) (d : Desc), Waiting s 8 0x04 tag d → oneSlot d = true → hostSees s (keyTarget d) = true →
    s.nvwp = false → nvBusy s 8 = false → exec (.erase tag) s = .next (requestSlot tag 4 (keyTarget d) KeySlot.empty
    (markTaken s 8 tag false))) ∧
  (∀ (s : State) (tag : Nat) (d : Desc), Waiting s 8 0x04 tag d → oneSlot d = true → hostSees s (keyTarget d) = false →
    exec (.erase tag) s = .next (refuseSilent s 8 d 0)) ∧
  (∀ (s : State) (tag : Nat) (d : Desc), Waiting s 8 0x05 tag d → oneSlot d = true → hostSees s (keyTarget d) = true →
    s.nvwp = false → nvBusy s 8 = false → exec (.narrow tag) s = .next (requestSlot tag 5 (keyTarget d) (narrowed
    (s.slot (keyTarget d)) d) (markTaken s 8 tag false)))

/-- What four commands of ring 8, the nonce's expiry and the test access port do, clause by clause; a command waits,
    undisturbed, on its served ring. (1) ATTEST: LEN 116 and a usable slot 1: the 100 bytes of R195 and their CMAC are
    written, result 0. (2) ATTEST: without that slot it is refused without a sign, with 116 zeros. (3) LC_NONCE: LEN 16:
    a value is drawn, kept with its time, and written. (4) LC_NONCE_EXPIRY: the nonce is gone. (5) LC_ADVANCE: LEN 16, a
    target below 8 that no row of R192 has: refused without a sign. (6) LC_ADVANCE: a row that needs no authorisation
    and wipes nothing is made (`lifeCycleTakes`) and completes OK. (7) LC_ADVANCE: a row whose authorisation fails is
    refused without a sign, and the nonce is gone. (8) LC_ADVANCE: a row that wipes slots, authorised outside BLANK,
    with NVWP high and no change before it: the nonce is gone, the command taken up, and it goes on as far as it can
    (`lcProceeds`: sessions end with cause 0x09, receipts and wipes are waited for). (9) TAP_INSTRUCTION: the port
    selects what the life cycle allows (`tapAllowed`). Where the rules leave a choice, it is the model's: log 23, 51,
    128. -/
def Obligations.LifeCycleAndAttestation : Prop :=
  (∀ (s : State) (tag : Nat) (d : Desc), Waiting s 8 0x06 tag d → d.len = 116 → attestUsable s = true → exec (.attest
    tag) s = .next ((fun (b : Bytes) => completeData (useSlot s 1) 8 d (b ++ cmac (s.slot 1).key (0x41#8 :: b)) 0)
    (attestBody s (leBytes 8 d.p0 ++ leBytes 8 d.p1)))) ∧
  (∀ (s : State) (tag : Nat) (d : Desc), Waiting s 8 0x06 tag d → d.len = 116 → attestUsable s = false → exec (.attest
    tag) s = .next (refuseSilent s 8 d 116)) ∧
  (∀ (s : State) (tag : Nat) (d : Desc), Waiting s 8 0x07 tag d → d.len = 16 → exec (.lcNonce tag) s = .next ((fun (p :
    Nat × State) => completeData { p.2 with cip := { p.2.cip with lcNonce := some (p.1, p.2.now) } } 8 d (beBytes 16
    p.1) 0) s.draw)) ∧
  (∀ (s : State), s.cip.lcNonce.isSome = true → exec (.lcNonceExpiry) s = .next
    ({ s with cip := { s.cip with lcNonce := none } })) ∧
  (∀ (s : State) (tag : Nat) (d : Desc) (data : Bytes), Waiting s 8 0x08 tag d → d.len = 16 → d.p0 < 8 → lcRow s d.p0 =
    none → exec (.lcAdvance tag data) s = .next (refuseSilent s 8 d 0)) ∧
  (∀ (s : State) (tag : Nat) (d : Desc) (data : Bytes), Waiting s 8 0x08 tag d → d.len = 16 → d.p0 < 8 → lcRow s d.p0 =
    some false → lcWipes d.p0 = false → exec (.lcAdvance tag data) s = .next (complete (lifeCycleTakes s d.p0) 8 tag
    stOk 0)) ∧
  (∀ (s : State) (tag : Nat) (d : Desc) (data : Bytes), Waiting s 8 0x08 tag d → d.len = 16 → d.p0 < 8 → lcRow s d.p0 =
    some true → lcAuthorised s d.p0 (padTo 16 data) = false → exec (.lcAdvance tag data) s = .next ((fun u : State =>
    refuseSilent { u with cip := { u.cip with lcNonce := none } } 8 d 0) (authJob s.cip.lcNonce.isSome s))) ∧
  (∀ (s : State) (tag : Nat) (d : Desc) (data : Bytes), Waiting s 8 0x08 tag d → d.len = 16 → d.p0 < 8 → lcRow s d.p0 =
    some true → lcAuthorised s d.p0 (padTo 16 data) = true → lcWipes d.p0 = true → (authJob s.cip.lcNonce.isSome
    s).cip.lifeCycle ≠ .blank → s.nvwp = false → nvBusy s 8 = false → exec (.lcAdvance tag data) s = .next ((fun u :
    State => lcProceeds { u with cip := { u.cip with lcWaits := some (tag, d.p0, false) } }) ((fun u : State =>
    markTaken { u with cip := { u.cip with lcNonce := none } } 8 tag false) (authJob s.cip.lcNonce.isSome s)))) ∧
  (∀ (s : State) (i : Nat), exec (.tapInstruction i) s = .next ({ s with tap := tapAllowed s.cip.lifeCycle i }))

/-- What the ten commands of ring 2 do, clause by clause; a command waits, undisturbed, on its served ring. "Open"
    below: R213 permits the ring, NVWP is high and no change waits before it. `requestTable` asks SE12 to write the
    table that `hollyEdit` makes, or completes with its status where there is none. (1) ENROLL of a legal entry of 32
    bytes, open: `requestTable` with that entry. (2) the same with NVWP asserted: WRITE_PROTECTED. (3) REVOKE, open:
    `requestTable` taking out the identifier of P0. (4) in individual mode without MODE_CONFLICT (`individualOpen`) and
    with the identifier not found: OK, result 0. (5) READ_SLOT of 32 bytes of a slot of the mode: its 32 bytes and
    whether it is occupied. (6) where R213 does not permit: refused without a sign, 32 zeros. (7) FIND where R213
    permits: slot plus 1, or 0. (8) LEARN_BEGIN in Quickset mode, open, epoch P0 above the table's, no learn open and no
    set pending: a learn of that epoch is open, audited, OK. (9) LEARN_ENTRIES, open, of whole legal entries of at most
    1,024 bytes, a learn open, no identifier twice and no more than the mode holds: they are staged, audited, OK with
    the count staged. (10) LEARN_COMMIT, open, count and SHA-256 those of what is staged: the learn commits and the
    set's records are requested. (11) LEARN_CANCEL, open, a learn open: discarded, audited, OK. (12) no learn open and a
    set pending: `requestTable` with the table in force. (13) UNLOCK, open, with records to write: requested with the
    command taken up. (14) without: completes at once (`commitEffect`). (15) DIGEST of 32 bytes where R213 permits:
    SHA-256 of the slots, result the slots used. Where the rules leave a choice, it is the model's: log 23, 52, 54, 125.
    -/
def Obligations.HollyRing : Prop :=
  (∀ (s : State) (tag : Nat) (d : Desc) (data : Bytes), Waiting s 2 0x01 tag d → d.len = 32 → entryLegal (padTo 32 data)
    = true → hollyPermits s = true → s.nvwp = false → nvBusy s 2 = false → exec (.enroll tag data) s = .next
    (requestTable tag 1 (hollyOfEntry (padTo 32 data)) s)) ∧
  (∀ (s : State) (tag : Nat) (d : Desc) (data : Bytes), Waiting s 2 0x01 tag d → d.len = 32 → entryLegal (padTo 32 data)
    = true → hollyPermits s = true → s.nvwp = true → exec (.enroll tag data) s = .next (complete s 2 d.tag
    stWriteProtected 0)) ∧
  (∀ (s : State) (tag : Nat) (d : Desc), Waiting s 2 0x02 tag d → hollyPermits s = true → s.nvwp = false → nvBusy s 2 =
    false → exec (.revoke tag) s = .next (requestTable tag 2 { HollySlot.empty with id := d.p0 } s)) ∧
  (∀ (s : State) (tag : Nat) (d : Desc), Waiting s 2 0x02 tag d → hollyPermits s = true → s.nvwp = false → nvBusy s 2 =
    false → individualOpen s = true → findHolly s d.p0 = none → exec (.revoke tag) s = .next (complete s 2 tag stOk 0)) ∧
  (∀ (s : State) (tag : Nat) (d : Desc), Waiting s 2 0x03 tag d → d.len = 32 → hollyPermits s = true → d.p0 < modeSlots
    s.aut.table.individual → exec (.readSlot tag) s = .next (completeData s 2 d (hollyRead s d.p0) (bit ((holly s
    d.p0).id != 0)))) ∧
  (∀ (s : State) (tag : Nat) (d : Desc), Waiting s 2 0x03 tag d → d.len = 32 → hollyPermits s = false → exec (.readSlot
    tag) s = .next (refuseSilent s 2 d 32)) ∧
  (∀ (s : State) (tag : Nat) (d : Desc), Waiting s 2 0x04 tag d → hollyPermits s = true → exec (.find tag) s = .next
    (complete s 2 tag stOk ((findHolly s d.p0).elim 0 (fun i => i + 1)))) ∧
  (∀ (s : State) (tag : Nat) (d : Desc), Waiting s 2 0x05 tag d → d.p0 < 2 ^ 32 → hollyPermits s = true → s.nvwp = false
    → nvBusy s 2 = false → s.aut.table.epoch < d.p0 → s.aut.learn = none → s.aut.pendingSet = none → exec (.learnBegin
    tag) s = .next (complete (auditCmd { s with aut := { s.aut with learn := some ⟨false, d.p0, [], false⟩ } } 2 0x05 0)
    2 tag stOk 0)) ∧
  (∀ (s : State) (tag : Nat) (d : Desc) (data : Bytes) (l : Learn), Waiting s 2 0x06 tag d → 32 ≤ d.len → d.len ≤ 1024 →
    d.len % 32 = 0 → (pieces 32 (padTo d.len data)).all entryLegal = true → hollyPermits s = true → s.nvwp = false →
    nvBusy s 2 = false → s.aut.learn = some l → hasDuplicate (entryIds (l.entries ++ pieces 32 (padTo d.len data))) =
    false → (l.entries ++ pieces 32 (padTo d.len data)).length ≤ modeSlots l.individual → exec (.learnEntries tag data)
    s = .next ((fun (es : List Bytes) => complete (auditCmd
    { s with aut := { s.aut with learn := some { l with entries := es } } } 2 0x06 0) 2 tag stOk es.length) (l.entries
    ++ pieces 32 (padTo d.len data)))) ∧
  (∀ (s : State) (tag : Nat) (d : Desc) (data : Bytes) (l : Learn), Waiting s 2 0x07 tag d → d.len = 32 → d.p1 < 2 ^ 32
    → hollyPermits s = true → s.nvwp = false → nvBusy s 2 = false → s.aut.learn = some l → d.p0 = l.entries.length →
    sha256 l.entries.flatten = padTo 32 data → exec (.learnCommit tag data) s = .next ((fun (u : State) => nvRequest
    (markTaken u 2 tag false) (hollyItems (nextHollyGen u) (learnedSet l d.p1)) (.learn tag (learnedSet l d.p1)))
    { s with aut := { s.aut with learn := some { l with committing := true } } })) ∧
  (∀ (s : State) (tag : Nat) (d : Desc) (l : Learn), Waiting s 2 0x08 tag d → hollyPermits s = true → s.nvwp = false →
    nvBusy s 2 = false → s.aut.learn = some l → exec (.learnCancel tag) s = .next (complete (auditCmd
    { s with aut := { s.aut with learn := none } } 2 0x08 0) 2 tag stOk 0)) ∧
  (∀ (s : State) (tag : Nat) (d : Desc), Waiting s 2 0x08 tag d → hollyPermits s = true → s.nvwp = false → nvBusy s 2 =
    false → s.aut.learn = none → s.aut.pendingSet.isSome = true → exec (.learnCancel tag) s = .next (requestTable tag 8
    HollySlot.empty s)) ∧
  (∀ (s : State) (tag : Nat) (d : Desc), Waiting s 2 0x09 tag d → hollyPermits s = true → s.nvwp = false → nvBusy s 2 =
    false → (unlockItems s d.p0).isEmpty = false → exec (.unlock tag) s = .next (nvRequest (markTaken s 2 tag false)
    (unlockItems s d.p0) (.unlock tag d.p0))) ∧
  (∀ (s : State) (tag : Nat) (d : Desc), Waiting s 2 0x09 tag d → hollyPermits s = true → s.nvwp = false → nvBusy s 2 =
    false → (unlockItems s d.p0).isEmpty = true → exec (.unlock tag) s = .next (commitEffect s (.unlock tag d.p0))) ∧
  (∀ (s : State) (tag : Nat) (d : Desc), Waiting s 2 0x0A tag d → d.len = 32 → hollyPermits s = true → exec (.digest
    tag) s = .next (completeData s 2 d (sha256 ((List.range (modeSlots s.aut.table.individual)).flatMap (fun i =>
    hollyBytes (holly s i)))) (slotsUsed s)))

/-- What the four events of lock-outs and learned sets do, clause by clause. (1) LEARNED_SET_EFFECTIVE with a set
    pending, the RTC set and at or past the set's time and no write of the table begun: the set replaces the table
    (`tableReplaced`). (2) with the RTC not set since its loss: nothing changes. (3) LOCKOUT_END, in every state and for
    every slot: nothing held changes, since a slot is locked only while the RTC reads below LOCK_END. (4)
    UNKNOWN_LOCKOUT_END: likewise. (5) LOCKOUT_CHECKPOINT with lock-outs changed since the last:
    `requestLockCheckpoint`. Where the rules leave a choice, it is the model's: log 53, 125. A command addressed to a
    role that is vacant is held instead (R408): log 86. -/
def Obligations.LockOuts : Prop :=
  (∀ (s : State) (h : HollySet), s.aut.pendingSet = some h → s.rtcSet = true → h.time ≤ s.rtc → hollyWriting s = false →
    exec (.learnedSetEffective) s = .next (tableReplaced s h)) ∧
  (∀ (s : State) (h : HollySet), s.aut.pendingSet = some h → s.rtcSet = false → exec (.learnedSetEffective) s = .next
    (s)) ∧
  (∀ (s : State) (i : Nat), rolesThere s (.lockoutEnd i) = true → exec (.lockoutEnd i) s = .next (s)) ∧
  (∀ (s : State), rolesThere s (.unknownLockoutEnd) = true → exec (.unknownLockoutEnd) s = .next (s)) ∧
  (∀ (s : State), rolesThere s (.lockoutCheckpoint) = true → s.aut.locksChanged = true → exec (.lockoutCheckpoint) s =
    .next (requestLockCheckpoint s))

/-- What the events of sessions, requests, RELA, the readback and the auxiliary ADC do, clause by clause. (1)
    RELEASE_LATCH_TAKEN of a group whose RELAg is high and whose group is not released: RELAg falls (`setRelA`), its
    waiting entries leave. (2) of one whose RELAg is low and whose group is released: RELAg rises and the opens that
    waited for that group are settled with their session's number. (3) of one whose group was released again before
    RELAg fell: RELAg stays high and the opens that waited are settled so. (4) GRANT_ANSWER_TIMEOUT: the context's
    request on the group is settled without an answer. (5) SESSION_TIMEOUT of an OPEN entry: it ends with cause 0x01.
    (6) HOLD_MAXTIME_EXPIRY of a HOLDING entry: it ends with cause 0x0C. (7) HOLD_SAMPLE with at least 80 results in the
    block and the new sample not high: the block's mean is the hold sample, the block starts again, every HOLDING entry
    ends with cause 0x0B. (8) QUEUE_WAIT_EXPIRY of a queued request: it leaves the queue, refused with `rsExpired`. (9)
    FAULT_GRACE_EXPIRY in FAILED with a grace time running: `endGrace`. (10) SESSION_CEILING_COMMIT with a ceiling
    record at the front of SE12's queue: that record is committed or, where the supplies are not sound, deferred
    (`commitFront`). (11) AUX_ADC_FRAME with the device RUNNING or FAILED and no deep sleep: the four doors, the two
    readbacks and the two AUX pins of the turn are sampled, a level above full scale as 4,095, the turn moves on and the
    thermal governor sees the hot pins. (12) READBACK_TIMEOUT of an enabled readback that does not match, RELAg high:
    RB_LOW and its event. (13) with RELAg low: the group is marked stuck, RB_STUCK and its event. (14) GROUP_DISABLE on
    a running device: an audited write of 0 to REL_GROUPg.EN and `groupDisabled`. A command addressed to a role that is
    vacant is held instead (R408): log 86. -/
def Obligations.SessionEndsAndOutputs : Prop :=
  (∀ (s : State) (g : Nat), g < 2 → bitAt s.rel.relA g = true → groupReleased s g = false → exec (.releaseLatchTaken g)
    s = .next (setRelA { s with rel := { s.rel with latch := s.rel.latch.filter (fun l => l.2.2 != g) } } g false)) ∧
  (∀ (s : State) (g : Nat), g < 2 → bitAt s.rel.relA g = false → groupReleased s g = true → exec (.releaseLatchTaken g)
    s = .next ((s.rel.latch.filter (fun l => l.2.2 == g)).foldl (fun u l => settle u l.1 l.2.1 (some (.opened (numberOn
    u g (ctxId u l.1))))) (setRelA { s with rel := { s.rel with latch := s.rel.latch.filter (fun l => l.2.2 != g) } } g
    true))) ∧
  (∀ (s : State) (g : Nat), g < 2 → bitAt s.rel.relA g = true → groupReleased s g = true → s.rel.latch.any (fun l =>
    l.2.2 == g) = true → exec (.releaseLatchTaken g) s = .next ((s.rel.latch.filter (fun l => l.2.2 == g)).foldl (fun u
    l => settle u l.1 l.2.1 (some (.opened (numberOn u g (ctxId u l.1)))))
    { s with rel := { s.rel with latch := s.rel.latch.filter (fun l => l.2.2 != g) } })) ∧
  (∀ (s : State) (c g : Nat), rolesThere s (.grantAnswerTimeout c g) = true → exec (.grantAnswerTimeout c g) s = .next
    (settle s c g none)) ∧
  (∀ (s : State) (i : Nat), i < 8 → (s.sess i).phase = .open → exec (.sessionTimeout i) s = .next (endEntry s i 0x01)) ∧
  (∀ (s : State) (i : Nat), i < 8 → (s.sess i).phase = .holding → exec (.holdMaxtimeExpiry i) s = .next (endEntry s i
    0x0C)) ∧
  (∀ (s : State), rolesThere s (.holdSample) = true → 80 ≤ s.rel.holdBlock.2 → holdHigh
    { s with rel := { s.rel with hold := (s.rel.holdBlock.1 / s.rel.holdBlock.2, pairUsable s false), holdBlock := (0, 0) } }
    = false → exec (.holdSample) s = .next (endEntries
    { s with rel := { s.rel with hold := (s.rel.holdBlock.1 / s.rel.holdBlock.2, pairUsable s false), holdBlock := (0, 0) } }
    (fun e => e.phase == .holding) 0x0B)) ∧
  (∀ (s : State) (n : Nat) (r : OpenReq), s.rel.queue[n]? = some r → exec (.queueWaitExpiry n) s = .next (refuseReq
    { s with rel := { s.rel with queue := s.rel.queue.eraseIdx n } } r rsExpired)) ∧
  (∀ (s : State), s.mode = .failed → s.pwr.graceEnd.isSome = true → exec (.faultGraceExpiry) s = .next (endGrace s)) ∧
  (∀ (s : State) (q : NvReq) (l : List NvReq) (c : Nat) (ok : Bool), rolesThere s (.sessionCeilingCommit ok) = true →
    s.nvs.queue = q :: l → q.eff = .sessionCeiling c → exec (.sessionCeilingCommit ok) s = .next (commitFront ok true
    s)) ∧
  (∀ (s : State) (d r a : List Nat), (s.mode == .running || s.mode == .failed) = true → s.pwr.deep = none → exec
    (.auxAdcFrame d r a) s = .next ((fun (u : State) => setGovernor u u.pwr.thermLevel (hotPins u)) ((fun (u : State) =>
    { u with mtr := { u.mtr with auxTurn := (u.mtr.auxTurn + 1) % 4 } }) ((fun (u : State) => auxSample (auxSample u (2
    * u.mtr.auxTurn) (auxCode (nth 0 a 0))) (2 * u.mtr.auxTurn + 1) (auxCode (nth 0 a 1))) ([0, 1].foldl (fun u g =>
    rbSample u g (auxCode (nth 0 r g))) ([0, 1, 2, 3].foldl (fun u n => doorSample u n (auxCode (nth 0 d n))) s)))))) ∧
  (∀ (s : State) (g : Nat), g < 2 → rbEnabled s g = true → (s.readback g).mismatch.isSome = true → bitAt s.rel.relA g =
    true → exec (.readbackTimeout g) s = .next (event (s.raiseBit Reg.relFaultRbLow g) blkRel g [])) ∧
  (∀ (s : State) (g : Nat), g < 2 → rbEnabled s g = true → (s.readback g).mismatch.isSome = true → bitAt s.rel.relA g =
    false → exec (.readbackTimeout g) s = .next (event ((s.setReadback g { s.readback g with stuck := true }).raiseBit
    Reg.relFaultRbStuck g) blkRel (2 + g) [])) ∧
  (∀ (s : State) (g : Nat), g < 2 → s.mode = .running → exec (.groupDisable g) s = .next (auditedWrite 0
    ((Reg.relGroupEn g).key / 32) (fun u => groupDisabled g (storeField u (Reg.relGroupEn g) .immediate 0)) s))

/-- What release-class frames at P0 of a running device do, clause by clause; `releaseFrameOk` is the check of R249
    under the fabric key's slot k, whose use counts (`useSlot`). (1) RELEASE_GRANT that passes: its sequence is noted,
    ACCEPTED counts and the grant is decided (`decide_`), with group, identifier, role, hold flag, sender and request
    number read from its payload. (2) RELEASE_GRANT with no fabric key: dropped (`dropRelease`). (3) RELEASE_GRANT that
    fails the check: dropped. (4) GRANT_ANSWER that fails: dropped. (5) SESSION_END that fails: dropped. (6)
    GRANT_ANSWER that passes, names a grant this device sent and carries an answer: that grant is answered so. (7)
    SESSION_END that passes and names a live session of that number, identifier and peer: it ends with cause 0x07. Where
    the rules leave a choice, it is the model's: log 12. A command addressed to a role that is vacant is held instead
    (R408): log 86. -/
def Obligations.ReleaseFrames : Prop :=
  (∀ (s : State) (src dst seq k : Nat) (p : Bytes), rolesThere s (.releaseGrant src dst seq p) = true → s.mode =
    .running → fabricSlot s = some k → releaseFrameOk (useSlot s k) src dst seq 0x01 40 p = true → exec (.releaseGrant
    src dst seq p) s = .next (decide_ ((seqAccept (useSlot s k) src clsRelease seq).bump Reg.relStatAccepted) ⟨byteAt p
    1 % 2, beAt p 10 8, byteAt p 18, byteAt p 19 = 1, some src, beAt p 2 2, none, 0, (useSlot s k).now⟩)) ∧
  (∀ (s : State) (src dst seq : Nat) (p : Bytes), rolesThere s (.releaseGrant src dst seq p) = true → s.mode = .running
    → fabricSlot s = none → exec (.releaseGrant src dst seq p) s = .next (dropRelease s)) ∧
  (∀ (s : State) (src dst seq k : Nat) (p : Bytes), rolesThere s (.releaseGrant src dst seq p) = true → s.mode =
    .running → fabricSlot s = some k → releaseFrameOk (useSlot s k) src dst seq 0x01 40 p = false → exec (.releaseGrant
    src dst seq p) s = .next (dropRelease (useSlot s k))) ∧
  (∀ (s : State) (src dst seq k : Nat) (p : Bytes), rolesThere s (.grantAnswer src dst seq p) = true → s.mode = .running
    → fabricSlot s = some k → releaseFrameOk (useSlot s k) src dst seq 0x02 24 p = false → exec (.grantAnswer src dst
    seq p) s = .next (dropRelease (useSlot s k))) ∧
  (∀ (s : State) (src dst seq k : Nat) (p : Bytes), rolesThere s (.sessionEnd src dst seq p) = true → s.mode = .running
    → fabricSlot s = some k → releaseFrameOk (useSlot s k) src dst seq 0x03 32 p = false → exec (.sessionEnd src dst seq
    p) s = .next (dropRelease (useSlot s k))) ∧
  (∀ (s : State) (src dst seq k : Nat) (p : Bytes) (g : SentGrant) (a : Answer), rolesThere s (.grantAnswer src dst seq
    p) = true → s.mode = .running → fabricSlot s = some k → releaseFrameOk (useSlot s k) src dst seq 0x02 24 p = true →
    (seqAccept (useSlot s k) src clsRelease seq).rel.sent.find? (fun x => x.reqNo == beAt p 2 2 && x.owner == src &&
    x.group == byteAt p 1 % 2) = some g → answerOf p = some a → exec (.grantAnswer src dst seq p) s = .next
    (grantAnswered (seqAccept (useSlot s k) src clsRelease seq) g a.code a.number a)) ∧
  (∀ (s : State) (src dst seq k i : Nat) (p : Bytes), rolesThere s (.sessionEnd src dst seq p) = true → s.mode =
    .running → fabricSlot s = some k → releaseFrameOk (useSlot s k) src dst seq 0x03 32 p = true → findSess (seqAccept
    (useSlot s k) src clsRelease seq) (fun e => e.live && e.number == beAt p 10 4 && e.id == beAt p 14 8 && e.peer ==
    some src) = some i → exec (.sessionEnd src dst seq p) s = .next (endEntry (seqAccept (useSlot s k) src clsRelease
    seq) i 0x07))

/-- What the six commands of ring 1 do, clause by clause; a command waits, undisturbed, on its served ring. (1)
    EVENT_BUFFER of at least 32 bytes: it stays posted. (2) LIST of 256 bytes: for each of the eight entries its record
    with kind 4 and state 1 OPEN or 2 HOLDING, or 0x04 and zeros where it is free; the result counts the live ones. (3)
    END of a live session's number, P1 below 2: audited; the entry ends with cause 0x06 where bit 0 of P1 is set, else
    0x05; OK, 1. (4) of a number no live session has: audited, OK, 0. (5) END_GROUP, P0 and P1 below 2: audited; every
    live session of the group gets that cause; the result counts those it ends or sends to HOLDING. (6) SET_DEADLINE of
    an OPEN session's number, 1 to 86,400 s: audited; its deadline is so far from now; OK, 1. (7) of a number no OPEN
    session has: audited, OK, 0. (8) END_REMOTE, LEN 0, P1 below 64: audited; a SESSION_END frame is sent to the
    position P1 on the lowest enabled remote route that names it, under the fabric key; OK, 1. (9) without such a route:
    audited, OK, 0. A command addressed to a role that is vacant is held instead (R408): log 86. -/
def Obligations.ReleaseRing : Prop :=
  (∀ (s : State) (tag : Nat) (d : Desc), Waiting s 1 0x01 tag d → 32 ≤ d.len → exec (.eventBuffer tag) s = .next
    (markTaken s 1 tag false)) ∧
  (∀ (s : State) (tag : Nat) (d : Desc), Waiting s 1 0x02 tag d → d.len = 256 → exec (.list tag) s = .next (completeData
    s 1 d (entries.flatMap (fun i => if (s.sess i).live then relRecord s 4 (if (s.sess i).phase == .holding then 2 else
    1) (relFlags (s.sess i).group (s.sess i).peer.isSome (s.sess i).coil) 0 (s.sess i).id (s.sess i).number ((s.sess
    i).peer.getD s.addr) (s.sess i).role (s.sess i).opened (rtcAt s (s.sess i).deadline) else 0x04#8 :: zeroBytes 31))
    (liveCount s))) ∧
  (∀ (s : State) (tag i : Nat) (d : Desc), Waiting s 1 0x03 tag d → d.p0 < 2 ^ 32 → d.p1 < 2 → findSess (auditCmd s 1
    0x03 d.p0) (fun e => e.live && e.number == d.p0) = some i → exec (.endSession tag) s = .next (complete (endEntry
    (auditCmd s 1 0x03 d.p0) i (if bitAt d.p1 0 then 0x06 else 0x05)) 1 tag stOk 1)) ∧
  (∀ (s : State) (tag : Nat) (d : Desc), Waiting s 1 0x03 tag d → d.p0 < 2 ^ 32 → d.p1 < 2 → findSess (auditCmd s 1 0x03
    d.p0) (fun e => e.live && e.number == d.p0) = none → exec (.endSession tag) s = .next (complete (auditCmd s 1 0x03
    d.p0) 1 tag stOk 0)) ∧
  (∀ (s : State) (tag : Nat) (d : Desc), Waiting s 1 0x04 tag d → d.p0 < 2 → d.p1 < 2 → exec (.endGroup tag) s = .next
    (complete (endEntries (auditCmd s 1 0x04 0) (fun e => e.live && e.group == d.p0) (if bitAt d.p1 0 then 0x06 else
    0x05)) 1 tag stOk (entries.filter (fun i => (s.sess i).group == d.p0 && endsOrHolds (s.sess i) (if bitAt d.p1 0 then
    0x06 else 0x05))).length)) ∧
  (∀ (s : State) (tag i : Nat) (d : Desc), Waiting s 1 0x05 tag d → d.p0 < 2 ^ 32 → 1 ≤ d.p1 → d.p1 ≤ 86400 → findSess
    (auditCmd s 1 0x05 d.p0) (fun e => e.phase == .open && e.number == d.p0) = some i → exec (.setDeadline tag) s =
    .next (complete ((auditCmd s 1 0x05 d.p0).setSess i
    { (auditCmd s 1 0x05 d.p0).sess i with deadline := (auditCmd s 1 0x05 d.p0).now + 1000 * d.p1 }) 1 tag stOk 1)) ∧
  (∀ (s : State) (tag : Nat) (d : Desc), Waiting s 1 0x05 tag d → d.p0 < 2 ^ 32 → 1 ≤ d.p1 → d.p1 ≤ 86400 → findSess
    (auditCmd s 1 0x05 d.p0) (fun e => e.phase == .open && e.number == d.p0) = none → exec (.setDeadline tag) s = .next
    (complete (auditCmd s 1 0x05 d.p0) 1 tag stOk 0)) ∧
  (∀ (s : State) (tag g k : Nat) (d : Desc), rolesThere s (.endRemote tag) = true → Waiting s 1 0x06 tag d → d.len = 0 →
    d.p1 < 64 → d.p0 < 2 ^ 32 → routeTo (auditCmd s 1 0x06 d.addr) d.p1 = some g → fabricSlot (auditCmd s 1 0x06 d.addr)
    = some k → exec (.endRemote tag) s = .next ((fun (u : State) => complete (sendRelease u k (u.addr / 64 * 64 + d.p1)
    0x03 ([0x03, BitVec.ofNat 8 (u.eff (relRouteTarget g)), 0, 0] ++ beBytes 6 u.fab.time ++ beBytes 4 d.p0 ++ beBytes 8
    d.addr ++ [0, 0])) 1 tag stOk 1) (auditCmd s 1 0x06 d.addr))) ∧
  (∀ (s : State) (tag : Nat) (d : Desc), rolesThere s (.endRemote tag) = true → Waiting s 1 0x06 tag d → d.len = 0 →
    d.p1 < 64 → d.p0 < 2 ^ 32 → routeTo (auditCmd s 1 0x06 d.addr) d.p1 = none → exec (.endRemote tag) s = .next
    (complete (auditCmd s 1 0x06 d.addr) 1 tag stOk 0))

/-- What metrology's results, windows, checkpoints and settings do, clause by clause. (1) DECIMATOR_RESULT of four codes
    while metrology runs, MTR_CTRL.EN 0: the channels take their results (`meterChannels`), nothing is accumulated. (2)
    with EN 1: the result is taken for the source that R264 gives (pair A if usable, else pair B under the cross-check,
    else none), with both pairs' samples and what is discarded or bad (`meterTake`). (3) CHANNEL_USABLE_RETURN of an
    unusable channel that is not still nor saturated: usable again, three results to discard, CHAN_LOST and its event.
    (4) XCHK_WINDOW_END with results in the window and the cross-check off: MTR_PWR and MTR_CURR take the window's means
    and the window starts again. (5) with it on, the window bad or its deviation above MTR_XCHK.DEV: the same, the
    sessions marked tampered, and `tamperWindow`. (6) with it on and neither: the same, the sessions marked with the
    deviation alone. (7) METER_CHECKPOINT in RUNNING or FAILED, something changed and no checkpoint waiting: its records
    are requested. (8) METER_SETTINGS_APPLY with settings pending and no live session: they take effect, each channel
    with three results to discard. Where the rules leave a choice, it is the model's: log 55. A command addressed to a
    role that is vacant is held instead (R408): log 86. -/
def Obligations.MeterSamples : Prop :=
  (∀ (s : State) (codes : List Int) (still : List Bool), rolesThere s (.decimatorResult codes still) = true → meterRuns
    s = true → codes.length = 4 → still.length = 4 → (meterChannels s (meterCodes s codes) still).on Reg.mtrCtrlEn =
    false → exec (.decimatorResult codes still) s = .next ((fun t : State =>
    { t with mtr := { t.mtr with delivered := true } }) (meterChannels s (meterCodes s codes) still))) ∧
  (∀ (s : State) (codes : List Int) (still : List Bool), rolesThere s (.decimatorResult codes still) = true → meterRuns
    s = true → codes.length = 4 → still.length = 4 → (meterChannels s (meterCodes s codes) still).on Reg.mtrCtrlEn =
    true → exec (.decimatorResult codes still) s = .next ((fun t : State => meterTake t (meterSource t) (pairSample s
    (meterCodes s codes) 0) (pairSample s (meterCodes s codes) 1) (pairKept s (meterSource t)) (pairKept s 0 && pairKept
    s 1) (!(pairIsUsable t 0 && pairIsUsable t 1) || meterSource t = 1)) (meterChannels s (meterCodes s codes) still))) ∧
  (∀ (s : State) (c : Nat), rolesThere s (.channelUsableReturn c) = true → c < 4 → (s.mchan c).usable = false → (s.mchan
    c).still = false → (s.mchan c).satRun < 16 → exec (.channelUsableReturn c) s = .next (raiseEvent (s.setMchan c
    { s.mchan c with usable := true, discard := 3, satRun := 0 }) Reg.mtrFaultChanLost blkMtr [BitVec.ofNat 8 c])) ∧
  (∀ (s u : State), rolesThere s (.xchkWindowEnd) = true → u =
    (({ s with mtr := { s.mtr with window := XchkWindow.reset } }.setStat Reg.mtrPwr (unsignedOf 32 (divRound
    s.mtr.window.powSrc (1000000 * s.mtr.window.count)))).setStat Reg.mtrCurr (unsignedOf 32 (divRound
    s.mtr.window.curSrc (100 * s.mtr.window.count)))) → 0 < s.mtr.window.count → u.on Reg.mtrCtrlXchkEn = false → exec
    (.xchkWindowEnd) s = .next (u)) ∧
  (∀ (s u : State), rolesThere s (.xchkWindowEnd) = true → u =
    (({ s with mtr := { s.mtr with window := XchkWindow.reset } }.setStat Reg.mtrPwr (unsignedOf 32 (divRound
    s.mtr.window.powSrc (1000000 * s.mtr.window.count)))).setStat Reg.mtrCurr (unsignedOf 32 (divRound
    s.mtr.window.curSrc (100 * s.mtr.window.count)))) → 0 < s.mtr.window.count → u.on Reg.mtrCtrlXchkEn = true →
    (s.mtr.window.bad || u.eff Reg.mtrXchkDev < windowDeviation u s.mtr.window) = true → exec (.xchkWindowEnd) s = .next
    (tamperWindow (markSessions u s.mtr.window (windowDeviation u s.mtr.window) true))) ∧
  (∀ (s u : State), rolesThere s (.xchkWindowEnd) = true → u =
    (({ s with mtr := { s.mtr with window := XchkWindow.reset } }.setStat Reg.mtrPwr (unsignedOf 32 (divRound
    s.mtr.window.powSrc (1000000 * s.mtr.window.count)))).setStat Reg.mtrCurr (unsignedOf 32 (divRound
    s.mtr.window.curSrc (100 * s.mtr.window.count)))) → 0 < s.mtr.window.count → u.on Reg.mtrCtrlXchkEn = true →
    (s.mtr.window.bad || u.eff Reg.mtrXchkDev < windowDeviation u s.mtr.window) = false → exec (.xchkWindowEnd) s =
    .next (markSessions u s.mtr.window (windowDeviation u s.mtr.window) false)) ∧
  (∀ (s : State), rolesThere s (.meterCheckpoint) = true → (s.mode == .running || s.mode == .failed) = true →
    s.mtr.changed = true → nvWaits s (· == .checkpoint) = false → exec (.meterCheckpoint) s = .next (nvRequest
    { s with mtr := { s.mtr with changed := false } } (meterItems s false) .checkpoint)) ∧
  (∀ (s : State), rolesThere s (.meterSettingsApply) = true → s.mtr.settingsPending = true → liveCount s = 0 → exec
    (.meterSettingsApply) s = .next ([0, 1, 2, 3].foldl (fun u n => u.setMchan n { u.mchan n with discard := 3 })
    (applyTiming .meterSettings { s with mtr := { s.mtr with settingsPending := false } })))

/-- What receipts and ring 6 do, clause by clause; a command waits, undisturbed, on its served ring. (1) RECEIPT_FORMED
    with a draft due, the SE9 role there and the log not full: the oldest draft, its flag bit 4 set after a start that
    found no power-fail checkpoint, is formed and `startReceipt` signs and requests what it can; a waiting life-cycle
    transition looks again (`lcProceeds`). (2) with the log full: its figures go into the roll-up, MTR_FAULT.ROLLUP
    where none was open, and the roll-up's record is requested. (3) RECEIPT_COMMITTED with a receipt at the front of
    SE12's queue: it is committed or deferred (`commitFront`). (4) RECEIPT_KEY_USABLE with a receipt slot:
    `startReceipt`. (5) RECEIPT_COMMIT_RETRY: a deferred acknowledgement is asked again and `startReceipt` runs; with no
    roll-up open or standing, no more. (6) with a roll-up open, none standing and none queued: its record is requested.
    (7) RECEIPT_BUFFER of at least 112 bytes: posted; waiting receipts are written to posted buffers. (8) ACK of a
    number not yet issued: BAD_FIELD. (9) of one acknowledged before: OK, receipts not acknowledged. (10) of one
    between, no change waiting: taken up, its record requested. (11) READ_RECEIPT of 112 bytes, a receipt logged and not
    acknowledged: its bytes, 1. (12) not logged: zeros, 0. (13) acknowledged: zeros, 0. (14) COUNTERS of 32 bytes: the
    four lifetime counters, RTC, epoch, set-up byte 0x300C and 0. (15) ROLL_NONCE of 16 bytes: a value is drawn, kept
    fresh and written. (16) ROLL_NONCE_EXPIRY: it is no longer fresh. (17) ROLLOVER of 16 bytes, P0 below 2^16, NVWP
    high, no change waiting, refused by R278: ROLL_REFUSED with the reason. (18) not refused: the nonce is used, the
    command taken up and the records of the new epoch requested. (19) COUNTER_LO_READ: the lower word is answered and
    the upper latched (`answerRead`). Where the rules leave a choice, it is the model's: log 23, 57, 71, 128. A command
    addressed to a role that is vacant is held instead (R408): log 86. -/
def Obligations.Receipts : Prop :=
  (∀ (s u : State) (d : Draft) (l : List Draft), rolesThere s (.receiptFormed) = true → u =
    { s with mtr := { s.mtr with due := l }, nvs := { s.nvs with firstReceiptFlag := false } } → s.mtr.due = d :: l →
    s.roleThere 9 = true → logFull u = false → exec (.receiptFormed) s = .next (lcProceeds (startReceipt
    { u with mtr := { u.mtr with formed := u.mtr.formed ++ [(if s.nvs.firstReceiptFlag then { d with flags := setBit d.flags 4 } else d)] } })))
    ∧
  (∀ (s u : State) (d : Draft) (l : List Draft), rolesThere s (.receiptFormed) = true → u =
    { s with mtr := { s.mtr with due := l }, nvs := { s.nvs with firstReceiptFlag := false } } → s.mtr.due = d :: l →
    s.roleThere 9 = true → logFull u = true → exec (.receiptFormed) s = .next (lcProceeds ((fun t : State =>
    requestRollUp
    { t with mtr := { t.mtr with rollup := some (rollUpAdd t.mtr.rollup (if s.nvs.firstReceiptFlag then { d with flags := setBit d.flags 4 } else d)) } })
    (if u.mtr.rollup.isNone then u.raise Reg.mtrFaultRollup else u)))) ∧
  (∀ (s : State) (q : NvReq) (l : List NvReq) (i : RecItem) (r : List RecItem) (n : Nat) (b : Bytes) (ok v : Bool),
    rolesThere s (.receiptCommitted ok v) = true → s.nvs.queue = q :: l → q.eff = .receipt n b → q.items = i :: r →
    i.area = .receipt → exec (.receiptCommitted ok v) s = .next (commitFront ok v s)) ∧
  (∀ (s : State), rolesThere s (.receiptKeyUsable) = true → (receiptSlot s).isSome = true → exec (.receiptKeyUsable) s =
    .next (startReceipt s)) ∧
  (∀ (s u : State), rolesThere s (.receiptCommitRetry) = true → u = startReceipt (ackAgain s) → standing u 0x0142 = none
    → u.mtr.rollup = none → exec (.receiptCommitRetry) s = .next (u)) ∧
  (∀ (s u : State), rolesThere s (.receiptCommitRetry) = true → u = startReceipt (ackAgain s) → standing u 0x0142 = none
    → u.mtr.rollup.isSome = true → u.nvs.queue.any (fun q => q.items.any (fun i => i.key == 0x0142)) = false → exec
    (.receiptCommitRetry) s = .next (requestRollUp u)) ∧
  (∀ (s : State) (tag : Nat) (d : Desc), rolesThere s (.receiptBuffer tag) = true → Waiting s 6 0x01 tag d → 112 ≤ d.len
    → exec (.receiptBuffer tag) s = .next (postReceipts 2048 (markTaken s 6 tag false))) ∧
  (∀ (s : State) (tag : Nat) (d : Desc), rolesThere s (.ack tag) = true → Waiting s 6 0x02 tag d → s.mtr.rcptNext ≤ d.p0
    → exec (.ack tag) s = .next (complete s 6 tag stBadField 0)) ∧
  (∀ (s : State) (tag : Nat) (d : Desc), rolesThere s (.ack tag) = true → Waiting s 6 0x02 tag d → d.p0 < s.mtr.rcptNext
    → d.p0 ≤ s.mtr.rcptAck → exec (.ack tag) s = .next (complete s 6 tag stOk (unackedCount s))) ∧
  (∀ (s : State) (tag : Nat) (d : Desc), rolesThere s (.ack tag) = true → Waiting s 6 0x02 tag d → d.p0 < s.mtr.rcptNext
    → s.mtr.rcptAck < d.p0 → nvBusy s 6 = false → exec (.ack tag) s = .next (nvRequest (markTaken s 6 tag true)
    (ackItems s d.p0) (.ack (some tag) d.p0))) ∧
  (∀ (s : State) (tag : Nat) (d : Desc) (b : Bytes), rolesThere s (.readReceipt tag) = true → Waiting s 6 0x03 tag d →
    d.len = 112 → loggedReceipt s d.p0 = some b → s.mtr.rcptAck < d.p0 → d.p0 < s.mtr.rcptNext → exec (.readReceipt tag)
    s = .next (completeData s 6 d b 1)) ∧
  (∀ (s : State) (tag : Nat) (d : Desc), rolesThere s (.readReceipt tag) = true → Waiting s 6 0x03 tag d → d.len = 112 →
    loggedReceipt s d.p0 = none → exec (.readReceipt tag) s = .next (completeData s 6 d (zeroBytes 112) 0)) ∧
  (∀ (s : State) (tag : Nat) (d : Desc) (b : Bytes), rolesThere s (.readReceipt tag) = true → Waiting s 6 0x03 tag d →
    d.len = 112 → loggedReceipt s d.p0 = some b → d.p0 ≤ s.mtr.rcptAck → exec (.readReceipt tag) s = .next (completeData
    s 6 d (zeroBytes 112) 0)) ∧
  (∀ (s : State) (tag : Nat) (d : Desc), rolesThere s (.counters tag) = true → Waiting s 6 0x04 tag d → d.len = 32 →
    exec (.counters tag) s = .next (completeData s 6 d ((lifeCounters s).flatMap (leBytes 6) ++ leBytes 4 s.rtc ++
    leBytes 2 s.mtr.epoch ++ [BitVec.ofNat 8 (setupValue s 0x300C), 0]) 0)) ∧
  (∀ (s : State) (tag : Nat) (d : Desc), rolesThere s (.rollNonce tag) = true → Waiting s 6 0x05 tag d → d.len = 16 →
    exec (.rollNonce tag) s = .next ((fun (p : Nat × State) => completeData
    { p.2 with mtr := { p.2.mtr with rollNonce := some (p.1, true) } } 6 d (beBytes 16 p.1) 0) s.draw)) ∧
  (∀ (s : State) (v : Nat) (f : Bool), rolesThere s (.rollNonceExpiry) = true → s.mtr.rollNonce = some (v, f) → exec
    (.rollNonceExpiry) s = .next ({ s with mtr := { s.mtr with rollNonce := some (v, false) } })) ∧
  (∀ (s : State) (tag r : Nat) (d : Desc) (data : Bytes), rolesThere s (.rollover tag data) = true → Waiting s 6 0x06
    tag d → d.len = 16 → d.p0 < 2 ^ 16 → s.nvwp = false → nvBusy s 6 = false → rollRefusal s d.p0 (padTo 16 data) = some
    r → exec (.rollover tag data) s = .next (complete (authJob s.mtr.rollNonce.isSome s) 6 tag stRollRefused r)) ∧
  (∀ (s : State) (tag : Nat) (d : Desc) (data : Bytes), rolesThere s (.rollover tag data) = true → Waiting s 6 0x06 tag
    d → d.len = 16 → d.p0 < 2 ^ 16 → s.nvwp = false → nvBusy s 6 = false → rollRefusal s d.p0 (padTo 16 data) = none →
    exec (.rollover tag data) s = .next ((fun (u : State) => nvRequest (markTaken u 6 tag true) [dataItem .state 0x0141
    (.receiptState 0 d.p0 1 false), dataItem .state 0x0140 (.ceilings u.cip.ceilings 1)] (.rollover tag d.p0)) ((fun u :
    State => { u with mtr := { u.mtr with rollNonce := u.mtr.rollNonce.map (fun e => (e.1, false)) } }) (authJob
    s.mtr.rollNonce.isSome s)))) ∧
  (∀ (s : State) (n : Nat), n < 4 → exec (.counterLoRead n) s = .next (answerRead ((Reg.mtrLifeLo n).key / 32) s))

/-- What the events of a fabric link do on a port p below 4 that is enabled, clause by clause. (1) IDLE_SEQUENCE_RUN:
    the port sends HELLO from now on. (2) HELLO_SEND on a port that does: its HELLO leaves (`sendHello`). (3)
    HELLO_TIMEOUT of a ring port that was UP: it is TRAINING, sends and has heard no HELLO, its transmitter stops, idle
    sequences follow, and what waited there goes the opposite way (`portDownFrames`, `releaseHeld`). (4) of a branch
    port, or of one that was not UP: the same, and nothing of its queues moves. (5) HELLO that fails its CRC: a link
    error and nothing more. (6) a whole HELLO with the sleep flag: its peer, time and, while the port is not UP and was
    heard, the link delay are noted; a head that sees another one on the ring may yield (`yieldHead`); the port is
    ASLEEP (`portAsleep`). (7) without it, the peer having heard this device, which sends HELLO on a port not UP: the
    same notes, and the port is UP (`portUp`). (8) otherwise: the notes alone. (9) LINK_LOSS of a port that is UP: its
    code violations are counted, it is HELD, sends and has heard no HELLO; LINK_DOWN, its frames go as R305 says
    (`portDownFrames`), the event is reported, and a ring port counts as a single fault. (10) HOLD_TIME_EXPIRY of a HELD
    port: its held frames move or go (`releaseHeld`), it is DOWN, the event is reported. (11) ASLEEP_HOLD_EXPIRY of an
    ASLEEP port: its held frames move or go. A RETIRING bank left empty by 8 to 10 retires (`retireCheck`). Where the
    rules leave a choice, it is the model's: log 21, 60. A command addressed to a role that is vacant is held instead
    (R408): log 86. -/
def Obligations.FabricLinks : Prop :=
  (∀ (s : State) (p : Nat), rolesThere s (.idleSequenceRun p) = true → fabricRuns s = true → p < 4 → portEnabled s p =
    true → exec (.idleSequenceRun p) s = .next (s.setPort p { s.port p with sendsHello := true })) ∧
  (∀ (s : State) (p : Nat), rolesThere s (.helloSend p) = true → fabricRuns s = true → p < 4 → portEnabled s p = true →
    (s.port p).sendsHello = true → exec (.helloSend p) s = .next (sendHello s p)) ∧
  (∀ (s u : State) (p : Nat), rolesThere s (.helloTimeout p) = true → fabricRuns s = true → p < 2 → portEnabled s p =
    true → (s.port p).phase = .up → u = sendIdle ((stopTx s p).setPort p
    { s.port p with phase := .training, sendsHello := false, heard := false }) p → exec (.helloTimeout p) s = .next
    (retireCheck (releaseHeld (portDownFrames u p) p))) ∧
  (∀ (s : State) (p : Nat), rolesThere s (.helloTimeout p) = true → fabricRuns s = true → p < 4 → portEnabled s p = true
    → ((s.port p).phase == .up && decide (p < 2)) = false → exec (.helloTimeout p) s = .next (sendIdle ((stopTx s
    p).setPort p
    { s.port p with phase := if (s.port p).phase == .up then .training else (s.port p).phase, sendsHello := false, heard := false })
    p)) ∧
  (∀ (s : State) (p : Nat) (f : Bytes), rolesThere s (.hello p f) = true → fabricRuns s = true → p < 4 → portEnabled s p
    = true → frameOk f = false → exec (.hello p f) s = .next (noteModeConflict (linkError s p))) ∧
  (∀ (s u : State) (p : Nat) (f : Bytes) (q : Port), rolesThere s (.hello p f) = true → fabricRuns s = true → p < 4 →
    portEnabled s p = true → frameOk f = true → frameType f = 0x01 → frameCls f = clsCtrl → 28 ≤ frameLen f → u = (if
    bitAt (byteAt (framePayload f) 11) 1 && decide (p < 2) then yieldHead (s.setPort p q) (beAt (framePayload f) 12 6)
    (beAt (framePayload f) 0 8) else s.setPort p q) → q =
    { s.port p with heard := true, peer := beAt (framePayload f) 8 2, peerId := beAt (framePayload f) 0 8, peerTime := beAt (framePayload f) 12 6, heardAt := s.fab.time, delay := if bitAt (byteAt (framePayload f) 11) 0 && (s.port p).phase != .up then (((s.fab.time + 2 ^ 48 - beAt (framePayload f) 18 6) % 2 ^ 48) * 1000 - beAt (framePayload f) 24 4) / 2 else (s.port p).delay }
    → bitAt (byteAt (framePayload f) 11) 2 = true → exec (.hello p f) s = .next (noteModeConflict (portAsleep u p))) ∧
  (∀ (s u : State) (p : Nat) (f : Bytes) (q : Port), rolesThere s (.hello p f) = true → fabricRuns s = true → p < 4 →
    portEnabled s p = true → frameOk f = true → frameType f = 0x01 → frameCls f = clsCtrl → 28 ≤ frameLen f → u = (if
    bitAt (byteAt (framePayload f) 11) 1 && decide (p < 2) then yieldHead (s.setPort p q) (beAt (framePayload f) 12 6)
    (beAt (framePayload f) 0 8) else s.setPort p q) → q =
    { s.port p with heard := true, peer := beAt (framePayload f) 8 2, peerId := beAt (framePayload f) 0 8, peerTime := beAt (framePayload f) 12 6, heardAt := s.fab.time, delay := if bitAt (byteAt (framePayload f) 11) 0 && (s.port p).phase != .up then (((s.fab.time + 2 ^ 48 - beAt (framePayload f) 18 6) % 2 ^ 48) * 1000 - beAt (framePayload f) 24 4) / 2 else (s.port p).delay }
    → bitAt (byteAt (framePayload f) 11) 2 = false → (bitAt (byteAt (framePayload f) 11) 0 && q.sendsHello && q.phase !=
    .up) = true → exec (.hello p f) s = .next (noteModeConflict (portUp u p))) ∧
  (∀ (s u : State) (p : Nat) (f : Bytes) (q : Port), rolesThere s (.hello p f) = true → fabricRuns s = true → p < 4 →
    portEnabled s p = true → frameOk f = true → frameType f = 0x01 → frameCls f = clsCtrl → 28 ≤ frameLen f → u = (if
    bitAt (byteAt (framePayload f) 11) 1 && decide (p < 2) then yieldHead (s.setPort p q) (beAt (framePayload f) 12 6)
    (beAt (framePayload f) 0 8) else s.setPort p q) → q =
    { s.port p with heard := true, peer := beAt (framePayload f) 8 2, peerId := beAt (framePayload f) 0 8, peerTime := beAt (framePayload f) 12 6, heardAt := s.fab.time, delay := if bitAt (byteAt (framePayload f) 11) 0 && (s.port p).phase != .up then (((s.fab.time + 2 ^ 48 - beAt (framePayload f) 18 6) % 2 ^ 48) * 1000 - beAt (framePayload f) 24 4) / 2 else (s.port p).delay }
    → bitAt (byteAt (framePayload f) 11) 2 = false → (bitAt (byteAt (framePayload f) 11) 0 && q.sendsHello && q.phase !=
    .up) = false → exec (.hello p f) s = .next (noteModeConflict u)) ∧
  (∀ (s u : State) (p codes : Nat), fabricRuns s = true → p < 4 → portPhase s p = .up → u = uplinkLost ((countCodes s p
    codes).setPort p { s.port p with phase := .held, sendsHello := false, heard := false }) p → exec (.linkLoss p codes)
    s = .next ((fun t : State => if p < 2 then noteSingleFault t 0x06 p else t) (retireCheck (reportPortEvent
    (portDownFrames (u.raiseBit Reg.fabFaultLinkDown p) p) p 0x00)))) ∧
  (∀ (s : State) (p : Nat), fabricRuns s = true → p < 4 → portPhase s p = .held → exec (.holdTimeExpiry p) s = .next
    ((fun (u : State) => retireCheck (reportPortEvent (u.setPort p { u.port p with phase := .down }) p 0x01))
    (releaseHeld s p))) ∧
  (∀ (s : State) (p : Nat), fabricRuns s = true → p < 4 → portPhase s p = .asleep → exec (.asleepHoldExpiry p) s = .next
    (retireCheck (releaseHeld s p)))

/-- What joining, addresses and fabric time do; `FreshCtrl` is a CTRL frame of its type, long enough, with a sequence
    newer than the source's last, and `ctrlAccepted` notes that sequence. (1) JOIN_REQ_RETRY of a device that asks with
    a usable ring port: `sendJoinReq`. (2) ADDR_FULL_RETRY of one answered ADDR_FULL, or of a second head that still
    holds no address: the same. (3) JOIN_REQ at the head, no copy of one taken (`joinRepeated`), of an unknown device
    asking for no position, one free: it gets the lowest, a former joiner's restart is noted, what was held for the
    position and its sequences go, it is a member, group 15 hears the answer, the tables are updated. (4) the same with
    none free: ADDR_FULL is raised and answered. (5) JOIN_ANSWER, good, naming this downstream device: its address,
    time, join state (HEAD_CONFLICT stays), stored position, and `uplinkTold`. (6) naming it and not good: no address,
    ADDR_FULL. (7) good and naming another: the position is in use and that source's sequences are forgotten. (8) LEAVE
    at the head of a member other than position 0: its next joining is no restart, and `removePosition`. (9)
    POSITION_LEAVE_TIMEOUT at the head of a position that is a member, not 0 and not asleep: `removePosition`. (10)
    REJOIN on a running device: an audited write that does `rejoins`. (11) TIME_SYNC_SEND at the time source: its time
    and hops from the root, 0 without an uplink, are spread, TIME_OK 1. (12) TIME_SYNC that is none of this device's own
    latest (`sentBySelf`), at a branch port: time is the carried time plus the link delay plus the residence, hops one
    more, the uplink is learned, TIME_OK 1. (13) at a ring port, no second head: the same, and the frame goes on with
    that time and hop, and to branch B. (14) TIME_SYNC_LOSS anywhere but at a head without uplink: TIME_OK 0, TIME_LOST.
    (15) FAB_TIME_LO_READ: `answerRead`. Where the rules leave a choice, it is the model's: log 21. A command addressed
    to a role that is vacant is held instead (R408): log 86. -/
def Obligations.FabricJoining : Prop :=
  (∀ (s : State), rolesThere s (.joinReqRetry) = true → fabricRuns s = true → s.fab.head = false → s.fab.asking = true →
    (portUsable s 0 || portUsable s 1) = true → exec (.joinReqRetry) s = .next (sendJoinReq s)) ∧
  (∀ (s : State), rolesThere s (.addrFullRetry) = true → fabricRuns s = true → s.fab.head = false → (s.fab.join ==
    .addrFull || (s.fab.join == .headConflict && s.fab.addr.isNone && !s.fab.asking)) = true → exec (.addrFullRetry) s =
    .next (sendJoinReq s)) ∧
  (∀ (s u : State) (port p : Nat) (f : Bytes), rolesThere s (.joinReq port f) = true → s.fab.head = true → joinRepeated
    s f = false → FreshCtrl s 0x02 9 f → byteAt (framePayload f) 8 = 0xFF → (∀ e ∈ s.fab.members, e.2.id ≠ beAt
    (framePayload f) 0 8) → lowestFree (positions s) = some p → u = (fun v : State => dropPosition (if
    v.fab.joined.contains (beAt (framePayload f) 0 8) then noteRestart v p else v) p) (ctrlAccepted s f) → exec
    (.joinReq port f) s = .next ((fun v : State => noteModeConflict (startUpdate (sendGroup15 v 0x03 (beBytes 8 (beAt
    (framePayload f) 0 8) ++ [0x00, BitVec.ofNat 8 p] ++ beBytes 2 (s.addr / 64) ++ beBytes 6 v.fab.time)))) (forgetSeq
    { u with fab := { u.fab with members := placeMember u.fab.members p (beAt (framePayload f) 0 8) (port != 0) (1023 - frameHops f) (frameSeq f), joined := if u.fab.joined.contains (beAt (framePayload f) 0 8) then u.fab.joined else u.fab.joined ++ [beAt (framePayload f) 0 8], inuse := setBit u.fab.inuse p } }
    (s.addr / 64 * 64 + p) (beAt (framePayload f) 0 8)))) ∧
  (∀ (s : State) (port : Nat) (f : Bytes), rolesThere s (.joinReq port f) = true → s.fab.head = true → joinRepeated s f
    = false → FreshCtrl s 0x02 9 f → byteAt (framePayload f) 8 = 0xFF → (∀ e ∈ s.fab.members, e.2.id ≠ beAt
    (framePayload f) 0 8) → lowestFree (positions s) = none → exec (.joinReq port f) s = .next ((fun u : State =>
    noteModeConflict (sendGroup15 (u.raise Reg.fabFaultAddrFull) 0x03 (beBytes 8 (beAt (framePayload f) 0 8) ++ [0x01,
    0] ++ beBytes 2 (u.addr / 64) ++ beBytes 6 u.fab.time))) (ctrlAccepted s f))) ∧
  (∀ (s : State) (port : Nat) (f : Bytes), rolesThere s (.joinAnswer port f) = true → s.fab.head = false → FreshCtrl s
    0x03 18 f → beAt (framePayload f) 0 8 = s.cip.deviceId → byteAt (framePayload f) 8 = 0 → ∃ t, exec (.joinAnswer port
    f) s = .next t ∧ ∃ u, t = noteModeConflict (uplinkTold u) ∧ u.fab.addr = some (beAt (framePayload f) 10 2 % 1024 *
    64 + byteAt (framePayload f) 9 % 64) ∧ u.fab.join = (if s.fab.join == .headConflict then .headConflict else .joined)
    ∧ u.fab.asking = false ∧ u.fab.time = beAt (framePayload f) 12 6 ∧ u.eff Reg.fabAddrPos = byteAt (framePayload f) 9
    % 64) ∧
  (∀ (s : State) (port : Nat) (f : Bytes), rolesThere s (.joinAnswer port f) = true → s.fab.head = false → FreshCtrl s
    0x03 18 f → beAt (framePayload f) 0 8 = s.cip.deviceId → byteAt (framePayload f) 8 ≠ 0 → exec (.joinAnswer port f) s
    = .next ((fun u : State => noteModeConflict
    (({ u with fab := { u.fab with addr := none, join := .addrFull, asking := false } }).raise Reg.fabFaultAddrFull))
    (ctrlAccepted s f))) ∧
  (∀ (s : State) (port : Nat) (f : Bytes), rolesThere s (.joinAnswer port f) = true → FreshCtrl s 0x03 18 f → beAt
    (framePayload f) 0 8 ≠ s.cip.deviceId → byteAt (framePayload f) 8 = 0 → exec (.joinAnswer port f) s = .next ((fun u
    : State => noteModeConflict (forgetSeq
    { u with fab := { u.fab with inuse := setBit u.fab.inuse (byteAt (framePayload f) 9 % 64) } } (beAt (framePayload f)
    10 2 % 1024 * 64 + byteAt (framePayload f) 9 % 64) (beAt (framePayload f) 0 8))) (ctrlAccepted s f))) ∧
  (∀ (s : State) (port : Nat) (f : Bytes) (e : Nat × Member), rolesThere s (.leave port f) = true → s.fab.head = true →
    FreshCtrl s 0x0C 8 f → s.fab.members.find? (fun x => x.2.id == beAt (framePayload f) 0 8 && x.1 != 0) = some e →
    exec (.leave port f) s = .next (removePosition ((fun u : State =>
    { u with fab := { u.fab with joined := u.fab.joined.filter (fun id => id != e.2.id) } }) (ctrlAccepted s f)) e.1)) ∧
  (∀ (s : State) (p : Nat), rolesThere s (.positionLeaveTimeout p) = true → fabricRuns s = true → s.fab.head = true → p
    ≠ 0 → s.fab.members.any (fun e => e.1 == p && !e.2.asleep) = true → exec (.positionLeaveTimeout p) s = .next
    (removePosition s p)) ∧
  (∀ (s : State), s.running = true → exec (.rejoin) s = .next (auditedWrite 0 0x1000 rejoins s)) ∧
  (∀ (s : State), rolesThere s (.timeSyncSend) = true → fabricRuns s = true → timeSource s = true → exec (.timeSyncSend)
    s = .next ((fun (r : Bytes × Nat × State) => spreadTime (r.2.2.setStat Reg.fabStatusTimeOk 1) r.1) (buildFrame s
    (s.addr / 64 * 64 + 15) true false clsCtrl 0x04 (beBytes 6 s.fab.time ++ beBytes 2 (if s.fab.uplink.isSome then
    s.fab.hops else 0))))) ∧
  (∀ (s u : State) (p res : Nat) (f : Bytes), rolesThere s (.timeSync p res f) = true → 2 ≤ p → p < 4 → sentBySelf s f =
    false → FreshCtrl s 0x04 8 f → u = (learnUplink
    { ctrlAccepted s f with fab := { (ctrlAccepted s f).fab with time := (beAt (framePayload f) 0 6 + (s.port p).delay / 1000 + res) % 2 ^ 48, synced := true, hops := (beAt (framePayload f) 6 2 + 1) % 65536 } }
    (uplinkShown s p (frameHops f) (beAt (framePayload f) 6 2) (frameSrc f))).setStat Reg.fabStatusTimeOk 1 → exec
    (.timeSync p res f) s = .next (noteModeConflict u)) ∧
  (∀ (s u : State) (p res : Nat) (f : Bytes), rolesThere s (.timeSync p res f) = true → p < 2 → (s.fab.head && frameSrc
    f % 64 = 0) = false → sentBySelf s f = false → FreshCtrl s 0x04 8 f → u = (learnUplink
    { ctrlAccepted s f with fab := { (ctrlAccepted s f).fab with time := (beAt (framePayload f) 0 6 + (s.port p).delay / 1000 + res) % 2 ^ 48, synced := true, hops := (beAt (framePayload f) 6 2 + 1) % 65536 } }
    (uplinkShown s p (frameHops f) (beAt (framePayload f) 6 2) (frameSrc f))).setStat Reg.fabStatusTimeOk 1 → exec
    (.timeSync p res f) s = .next ((fun g : Bytes => noteModeConflict (linkCopy (linkCopy u (oppositeOut (p + 2)) (g ++
    beBytes 4 (frameCrc g))) 5 (g ++ beBytes 4 (frameCrc g)))) (slice f 0 16 ++ (beBytes 6 ((beAt (framePayload f) 0 6 +
    (s.port p).delay / 1000 + res) % 2 ^ 48) ++ beBytes 2 ((beAt (framePayload f) 6 2 + 1) % 65536))))) ∧
  (∀ (s : State), rolesThere s (.timeSyncLoss) = true → fabricRuns s = true → (s.fab.head && s.fab.uplink.isNone) =
    false → exec (.timeSyncLoss) s = .next ((s.setStat Reg.fabStatusTimeOk 0).raise Reg.fabFaultTimeLost)) ∧
  (∀ (s : State), exec (.fabTimeLoRead) s = .next (answerRead (Reg.fabTimeLo.key / 32) s))

/-- What FRAME_RECEIVED on an enabled port, FRAME_SENT and SPILL_READBACK do, clause by clause. The code violations of
    the blocks are counted first in 1 to 6. (1) blocks that break R285 or a frame that fails its CRC: a link error,
    nothing more. (2) good, but the port is not UP: nothing more. (3) good on an UP port, unicast, not CTRL, for this
    device: its hop limit is one less and P0 stores it (`toLocal`) under the bank of `pickBank`. (4) for another address
    with a hop limit of at most 1: dropped, counted, HOP_EXPIRED. (5) for another address, hop limit at least 2, this
    device having an address: `lookupForward`. (6) multicast, not CTRL, hop limit at least 2: `receiveMcast`, onward.
    (7) FRAME_SENT at an open output, naming the class in transmission with one block left: the frame leaves
    (`frameLeaves`). (8) with more blocks left of the class in transmission, naming the highest class that has a block
    ready: that block leaves, then the named frame. (9) SPILL_READBACK with the queue below its reserve or the pool
    below its threshold, one spilled frame, which fails its CRC: it is gone, its cells are free, SPILL_ERR. (10) which
    is whole: it is on chip, in reserve or shared cells, and the output starts if idle. Where the rules leave a choice,
    it is the model's: log 15, 20, 131, 132. -/
def Obligations.FabricFrames : Prop :=
  (∀ (s u : State) (p : Nat) (b : LinkBlock) (l : List LinkBlock) (f : Bytes), fabricRuns s = true → p < 4 → portEnabled
    s p = true → f = (b :: l).flatMap LinkBlock.data → u = countCodes s p ((b :: l).map LinkBlock.violations).sum →
    (blocksOk (b :: l) && frameOk f) = false → exec (.frameReceived p b l) s = .next (noteModeConflict (linkError u p))) ∧
  (∀ (s u : State) (p : Nat) (b : LinkBlock) (l : List LinkBlock) (f : Bytes), fabricRuns s = true → p < 4 → portEnabled
    s p = true → f = (b :: l).flatMap LinkBlock.data → u = countCodes s p ((b :: l).map LinkBlock.violations).sum →
    blocksOk (b :: l) = true → frameOk f = true → portPhase u p ≠ .up → exec (.frameReceived p b l) s = .next
    (noteModeConflict u)) ∧
  (∀ (s u : State) (p : Nat) (b : LinkBlock) (l : List LinkBlock) (f g : Bytes), fabricRuns s = true → p < 4 →
    portEnabled s p = true → f = (b :: l).flatMap LinkBlock.data → u = countCodes s p ((b :: l).map
    LinkBlock.violations).sum → g = frameWithHops f (frameHops f - 1) → blocksOk (b :: l) = true → frameOk f = true →
    portPhase u p = .up → frameCls f ≠ clsCtrl → frameMcast g = false → u.fab.addr = some (frameDst g) → exec
    (.frameReceived p b l) s = .next (noteModeConflict (toLocal u (pickBank u (decide (p < 2)) g).2))) ∧
  (∀ (s u : State) (p : Nat) (b : LinkBlock) (l : List LinkBlock) (f g : Bytes), fabricRuns s = true → p < 4 →
    portEnabled s p = true → f = (b :: l).flatMap LinkBlock.data → u = countCodes s p ((b :: l).map
    LinkBlock.violations).sum → g = frameWithHops f (frameHops f - 1) → blocksOk (b :: l) = true → frameOk f = true →
    portPhase u p = .up → frameCls f ≠ clsCtrl → frameMcast g = false → u.fab.addr ≠ some (frameDst g) → frameHops f ≤ 1
    → exec (.frameReceived p b l) s = .next (noteModeConflict ((countDrop u (frameCls f)).raise
    Reg.fabFaultHopExpired))) ∧
  (∀ (s u : State) (p : Nat) (b : LinkBlock) (l : List LinkBlock) (f g : Bytes), fabricRuns s = true → p < 4 →
    portEnabled s p = true → f = (b :: l).flatMap LinkBlock.data → u = countCodes s p ((b :: l).map
    LinkBlock.violations).sum → g = frameWithHops f (frameHops f - 1) → blocksOk (b :: l) = true → frameOk f = true →
    portPhase u p = .up → frameCls f ≠ clsCtrl → frameMcast g = false → u.fab.addr ≠ some (frameDst g) → 2 ≤ frameHops f
    → u.fab.addr.isSome = true → exec (.frameReceived p b l) s = .next (noteModeConflict (lookupForward u (p + 2) g))) ∧
  (∀ (s u : State) (p : Nat) (b : LinkBlock) (l : List LinkBlock) (f g : Bytes), fabricRuns s = true → p < 4 →
    portEnabled s p = true → f = (b :: l).flatMap LinkBlock.data → u = countCodes s p ((b :: l).map
    LinkBlock.violations).sum → g = frameWithHops f (frameHops f - 1) → blocksOk (b :: l) = true → frameOk f = true →
    portPhase u p = .up → frameCls f ≠ clsCtrl → frameMcast g = true → 2 ≤ frameHops f → exec (.frameReceived p b l) s =
    .next (noteModeConflict (receiveMcast u p g true))) ∧
  (∀ (s : State) (o c : Nat), fabricRuns s = true → o < 6 → c < 4 → outputOpen s o = true → txClass s o = some c →
    blocksLeft s o c ≤ 1 → exec (.frameSent o c) s = .next (frameLeaves s o c)) ∧
  (∀ (s : State) (o c k : Nat), fabricRuns s = true → o < 6 → c < 4 → outputOpen s o = true → txClass s o = some k → 2 ≤
    blocksLeft s o k → pickClass s o = some c → exec (.frameSent o c) s = .next (frameLeaves (sendBlock s o k) o c)) ∧
  (∀ (s : State) (o c : Nat) (f : QFrame), fabricRuns s = true → o < 6 → c < 4 → (decide (chipCells (s.queue o c) <
    s.eff Reg.fabBufMin) || decide (s.fab.sharedUsed < threshCells s)) = true → (s.queue o c).frames = [f] → f.spilled =
    true → ∃ t, exec (.spillReadback o c true) s = .next t ∧ ∃ u, t = retireCheck u ∧ (u.queue o c).frames = [] ∧
    u.fab.spilled = s.fab.spilled - frameCells f.bytes ∧ u.stat Reg.fabFaultSpillErr = 1) ∧
  (∀ (s : State) (o c n : Nat) (f : QFrame), fabricRuns s = true → o < 6 → c < 4 → (decide (chipCells (s.queue o c) <
    s.eff Reg.fabBufMin) || decide (s.fab.sharedUsed < threshCells s)) = true → (s.queue o c).frames = [f] → f.spilled =
    true → n = (if chipCells (s.queue o c) + frameCells f.bytes ≤ s.eff Reg.fabBufMin then 0 else frameCells f.bytes) →
    exec (.spillReadback o c false) s = .next (kick ((fun u : State =>
    { u with fab := { u.fab with spilled := u.fab.spilled - frameCells f.bytes, sharedUsed := u.fab.sharedUsed + n } })
    (s.setQueue o c ⟨[{ f with spilled := false, shared := n }], false⟩)) o))

/-- What the frames and time-outs of a table update do, clause by clause; `FreshCtrl` and `ctrlAccepted` as in
    FabricJoining. (1) PORT_EVENT at the head: `headPortEvent` of the source's position, port, event and neighbour. (2)
    PREPARE at a downstream device with an address, of the other epoch: the idle bank is written for the ring order it
    lists (`prepareBank`) and READY answered. (3) of its own epoch while that bank is INVALID: it takes the other epoch
    as current first (log 20), then the same. (4) READY at the head for its update, the last missing: `startFlip`. (5)
    not the last: that position is missing no more. (6) FLIP at such a device for its update with the idle bank VALID:
    `flipBank`, and the old bank retires if it is empty. (7) RETIRED at the head for its update: noted (`headRetired`).
    (8) CANCEL at such a device for its update: `abandonBank`. (9) READY_TIMEOUT while preparing: CANCEL is sent, the
    idle bank abandoned, the update is cancelled. (10) RETIRE_TIMEOUT while retiring: the retiring bank is INVALID, the
    hold-off runs, the epoch stays. (11) UPDATE_REPEAT of a cancelled update: `startUpdate`. (12) UPDATE_HOLDOFF_END
    with an update due: `startUpdate`. (13) with none due: idle. (14) SEG_ADVERT_SEND with an address and branch A
    usable: `sendAdvert`. (15) SEG_ADVERT not from branch A that changes the bitmap held for its position: the segment
    is told where it came from branch B, it is held, SEG_CONFLICT raised where segments conflict, advertised upward
    where branch A is usable, and the tables updated. (16) that changes nothing: the sequence is noted and, from branch
    B, the segment told. Where the rules leave a choice, it is the model's: log 20, 21. A command addressed to a role
    that is vacant is held instead (R408): log 86. -/
def Obligations.FabricTables : Prop :=
  (∀ (s : State) (port : Nat) (f : Bytes), rolesThere s (.portEvent port f) = true → s.fab.head = true → FreshCtrl s
    0x05 4 f → exec (.portEvent port f) s = .next (noteModeConflict (headPortEvent (ctrlAccepted s f) (frameSrc f % 64)
    (byteAt (framePayload f) 0) (byteAt (framePayload f) 1) (beAt (framePayload f) 2 2)))) ∧
  (∀ (s : State) (port : Nat) (f : Bytes), rolesThere s (.prepare port f) = true → s.fab.head = false →
    s.fab.addr.isSome = true → FreshCtrl s 0x06 7 f → byteAt (framePayload f) 4 % 2 ≠ s.fab.epoch → exec (.prepare port
    f) s = .next (noteModeConflict (sendToHead (prepareBank (ctrlAccepted s f) (beAt (framePayload f) 0 4) (byteAt
    (framePayload f) 4 % 2) (byteAt (framePayload f) 5 = 1) (((framePayload f).drop 7).take (byteAt (framePayload f) 6)
    |>.map (fun x => x.toNat % 64))) 0x07 (slice (framePayload f) 0 4)))) ∧
  (∀ (s u : State) (port : Nat) (f : Bytes), rolesThere s (.prepare port f) = true → s.fab.head = false →
    s.fab.addr.isSome = true → FreshCtrl s 0x06 7 f → byteAt (framePayload f) 4 % 2 = s.fab.epoch → (s.bank
    s.fab.epoch).state = .invalid → u =
    { ctrlAccepted s f with fab := { (ctrlAccepted s f).fab with epoch := 1 - byteAt (framePayload f) 4 % 2 } } → exec
    (.prepare port f) s = .next (noteModeConflict (sendToHead (prepareBank u (beAt (framePayload f) 0 4) (byteAt
    (framePayload f) 4 % 2) (byteAt (framePayload f) 5 = 1) (((framePayload f).drop 7).take (byteAt (framePayload f) 6)
    |>.map (fun x => x.toNat % 64))) 0x07 (slice (framePayload f) 0 4)))) ∧
  (∀ (s : State) (port : Nat) (f : Bytes) (m : List Nat), rolesThere s (.ready port f) = true → s.fab.head = true →
    FreshCtrl s 0x07 4 f → s.fab.upd = .preparing m → beAt (framePayload f) 0 4 = s.fab.update → m.filter (fun p => p !=
    frameSrc f % 64) = [] → exec (.ready port f) s = .next (startFlip (ctrlAccepted s f))) ∧
  (∀ (s : State) (port : Nat) (f : Bytes) (m : List Nat), rolesThere s (.ready port f) = true → s.fab.head = true →
    FreshCtrl s 0x07 4 f → s.fab.upd = .preparing m → beAt (framePayload f) 0 4 = s.fab.update → m.filter (fun p => p !=
    frameSrc f % 64) ≠ [] → exec (.ready port f) s = .next ((fun u : State =>
    { u with fab := { u.fab with upd := .preparing (m.filter (fun p => p != frameSrc f % 64)) } }) (ctrlAccepted s f))) ∧
  (∀ (s : State) (port : Nat) (f : Bytes), rolesThere s (.flip port f) = true → s.fab.head = false → s.fab.addr.isSome =
    true → FreshCtrl s 0x08 4 f → beAt (framePayload f) 0 4 = s.fab.update → (s.bank (1 - s.fab.epoch)).state = .valid →
    exec (.flip port f) s = .next (noteModeConflict (retireCheck (flipBank (ctrlAccepted s f))))) ∧
  (∀ (s : State) (port : Nat) (f : Bytes), rolesThere s (.retired port f) = true → s.fab.head = true → FreshCtrl s 0x09
    4 f → beAt (framePayload f) 0 4 = s.fab.update → exec (.retired port f) s = .next (headRetired (ctrlAccepted s f)
    (frameSrc f % 64))) ∧
  (∀ (s : State) (port : Nat) (f : Bytes), rolesThere s (.cancel port f) = true → s.fab.head = false → s.fab.addr.isSome
    = true → FreshCtrl s 0x0A 4 f → beAt (framePayload f) 0 4 = s.fab.update → exec (.cancel port f) s = .next
    (abandonBank (ctrlAccepted s f))) ∧
  (∀ (s : State) (m : List Nat), rolesThere s (.readyTimeout) = true → fabricRuns s = true → s.fab.upd = .preparing m →
    exec (.readyTimeout) s = .next ((fun (u : State) => { u with fab := { u.fab with upd := .cancelled } }) (abandonBank
    (sendGroup15 s 0x0A (beBytes 4 s.fab.update))))) ∧
  (∀ (s : State) (m : List Nat), rolesThere s (.retireTimeout) = true → fabricRuns s = true → s.fab.upd = .retiring m →
    (s.bank (1 - s.fab.epoch)).state = .retiring → ∃ t, exec (.retireTimeout) s = .next t ∧ t.fab.upd = .holdoff ∧
    (t.bank (1 - s.fab.epoch)).state = .invalid ∧ t.fab.epoch = s.fab.epoch) ∧
  (∀ (s : State), rolesThere s (.updateRepeat) = true → fabricRuns s = true → s.fab.upd = .cancelled → exec
    (.updateRepeat) s = .next (startUpdate { s with fab := { s.fab with upd := .idle } })) ∧
  (∀ (s : State), rolesThere s (.updateHoldoffEnd) = true → fabricRuns s = true → s.fab.upd = .holdoff → s.fab.updateDue
    = true → exec (.updateHoldoffEnd) s = .next (startUpdate { s with fab := { s.fab with upd := .idle } })) ∧
  (∀ (s : State), rolesThere s (.updateHoldoffEnd) = true → fabricRuns s = true → s.fab.upd = .holdoff → s.fab.updateDue
    = false → exec (.updateHoldoffEnd) s = .next ({ s with fab := { s.fab with upd := .idle } })) ∧
  (∀ (s : State), rolesThere s (.segAdvertSend) = true → fabricRuns s = true → s.fab.addr.isSome = true → portUsable s 2
    = true → exec (.segAdvertSend) s = .next (sendAdvert s)) ∧
  (∀ (s u : State) (port q : Nat) (f : Bytes), rolesThere s (.segAdvert port f) = true → s.fab.addr.isSome = true → port
    ≠ 2 → FreshCtrl s 0x0B 128 f → u = (if port = 3 then sendGroup15 (ctrlAccepted s f) 0x0B (beBytes 128 (beNat
    ((framePayload f).take 128))) else ctrlAccepted s f) → q = (if port = 3 then (ctrlAccepted s f).pos else frameSrc f
    % 64) → tblGet 0 u.fab.adverts q ≠ beNat ((framePayload f).take 128) → exec (.segAdvert port f) s = .next ((fun u :
    State => noteModeConflict (startUpdate (if portUsable u 2 then sendAdvert u else u))) ((fun u : State => if
    segConflicts u ≠ 0 then u.raise Reg.fabFaultSegConflict else u) ((fun v : State =>
    { v with fab := { v.fab with adverts := tblPut 0 v.fab.adverts q (beNat ((framePayload f).take 128)) } }) u)))) ∧
  (∀ (s u : State) (port q : Nat) (f : Bytes), rolesThere s (.segAdvert port f) = true → s.fab.addr.isSome = true → port
    ≠ 2 → FreshCtrl s 0x0B 128 f → u = (if port = 3 then sendGroup15 (ctrlAccepted s f) 0x0B (beBytes 128 (beNat
    ((framePayload f).take 128))) else ctrlAccepted s f) → q = (if port = 3 then (ctrlAccepted s f).pos else frameSrc f
    % 64) → tblGet 0 u.fab.adverts q = beNat ((framePayload f).take 128) → exec (.segAdvert port f) s = .next
    (noteModeConflict u))

/-- What the host's register accesses do, clause by clause. `registerWritten` is a write under R4, R5 and the audit;
    `answerRead` answers a read with its side effects. (1) REGISTER_WRITE at an aligned offset: `registerWritten` of the
    low 32 bits. (2) at any other: BAD_ACCESS. (3) PROFILE_WRITE: `registerWritten` at 0x0040. (4) UWB_TIME_LO_READ:
    `answerRead` of UWB_TIME_LO. (5) BAD_ACCESS_READ of an aligned word of BAR2: zero is answered. (6) any other:
    BAD_ACCESS, all ones are answered. (7) BAR4_ACCESS of position 0, aligned, below 0x10000, a write:
    `registerWritten`. (8) a read: `answerRead`. (9) of a position below 64, not aligned, a write: BAD_ACCESS. (10) a
    read: BAD_ACCESS and all ones. (11) of a position from 1 not in use, aligned, a read: NO_POSITION and all ones. (12)
    a write: NO_POSITION. (13) of one in use, below 0xE000, on a running device, a read: REG_READ goes out and the read
    waits (`regReadOn`). (14) a write with 256 held: REG_DROP. (15) a write with fewer: REG_WRITE goes out, and of a
    ring's sizes and bases the value is noted. Where the rules leave a choice, it is the model's: log 61, 78. A command
    addressed to a role that is vacant is held instead (R408): log 86. -/
def Obligations.RegistersAndBars : Prop :=
  (∀ (s : State) (off v : Nat), off % 4 = 0 → exec (.registerWrite off v) s = .next (registerWritten 0 off (v % 2 ^ 32)
    s)) ∧
  (∀ (s : State) (off v : Nat), off % 4 ≠ 0 → exec (.registerWrite off v) s = .next (s.raise Reg.hifFaultBadAccess)) ∧
  (∀ (s : State) (v : Nat), exec (.profileWrite v) s = .next (registerWritten 0 0x0040 v s)) ∧
  (∀ (s : State), exec (.uwbTimeLoRead) s = .next (answerRead (Reg.uwbTimeLo.key / 32) s)) ∧
  (∀ (s : State), exec (.badAccessRead true) s = .next (s.emit (.barAnswer 0))) ∧
  (∀ (s : State), exec (.badAccessRead false) s = .next ((s.raise Reg.hifFaultBadAccess).emit (.barAnswer 0xFFFFFFFF))) ∧
  (∀ (s : State) (off v : Nat), rolesThere s (.bar4Access 0 off true v) = true → off < 0x10000 → off % 4 = 0 → exec
    (.bar4Access 0 off true v) s = .next (registerWritten 0 off (v % 2 ^ 32) s)) ∧
  (∀ (s : State) (off v : Nat), rolesThere s (.bar4Access 0 off false v) = true → off < 0x10000 → off % 4 = 0 → exec
    (.bar4Access 0 off false v) s = .next (answerRead off s)) ∧
  (∀ (s : State) (p off v : Nat), rolesThere s (.bar4Access p off true v) = true → p < 64 → off < 0x10000 → off % 4 ≠ 0
    → exec (.bar4Access p off true v) s = .next (s.raise Reg.hifFaultBadAccess)) ∧
  (∀ (s : State) (p off v : Nat), rolesThere s (.bar4Access p off false v) = true → p < 64 → off < 0x10000 → off % 4 ≠ 0
    → exec (.bar4Access p off false v) s = .next ((s.raise Reg.hifFaultBadAccess).emit (.barAnswer 0xFFFFFFFF))) ∧
  (∀ (s : State) (p off v : Nat), rolesThere s (.bar4Access p off false v) = true → 1 ≤ p → p < 64 → off < 0x10000 → off
    % 4 = 0 → isMember s p = false → exec (.bar4Access p off false v) s = .next ((s.raise Reg.hifFaultNoPosition).emit
    (.barAnswer 0xFFFFFFFF))) ∧
  (∀ (s : State) (p off v : Nat), rolesThere s (.bar4Access p off true v) = true → 1 ≤ p → p < 64 → off < 0x10000 → off
    % 4 = 0 → isMember s p = false → exec (.bar4Access p off true v) s = .next (s.raise Reg.hifFaultNoPosition)) ∧
  (∀ (s : State) (p off v : Nat), rolesThere s (.bar4Access p off false v) = true → 1 ≤ p → p < 64 → off < 0xE000 → off
    % 4 = 0 → isMember s p = true → s.running = true → exec (.bar4Access p off false v) s = .next (regReadOn s p off)) ∧
  (∀ (s : State) (p off v : Nat), rolesThere s (.bar4Access p off true v) = true → 1 ≤ p → p < 64 → off < 0xE000 → off %
    4 = 0 → isMember s p = true → s.running = true → 256 ≤ regWritesHeld s → exec (.bar4Access p off true v) s = .next
    (s.raise Reg.hifFaultRegDrop)) ∧
  (∀ (s : State) (p off v : Nat), rolesThere s (.bar4Access p off true v) = true → 1 ≤ p → p < 64 → off < 0xE000 → off %
    4 = 0 → isMember s p = true → s.running = true → regWritesHeld s < 256 → exec (.bar4Access p off true v) s = .next
    (proxySend (if isRingPlace off then
    { s with hif := { s.hif with ringRegs := tblPut 0 s.hif.ringRegs (p * 65536 + off) (v % 2 ^ 32) } } else s) p 0xFF
    0x06 (beBytes 2 off ++ [0, 0] ++ beBytes 4 (v % 2 ^ 32))))

/-- What doorbells, fetches and the rings' own events do, clause by clause. (1) SQ_TAIL as an aligned word for ring n of
    position 0, outside D3hot, the ring not DISABLED, a value the ring holds: it is the tail. (2) a value it does not
    hold: RING_ERR bit 0. (3) for a position in use on a running device: it is passed on (`doorbellOn`). (4) not an
    aligned word: BAD_ACCESS. (5) CQ_HEAD as 1, and the completions behind it are those not consumed (`unreadFrom`). (6)
    as 2. (7) as 3. (8) as 4. (9) DESCRIPTOR_FETCH, NVWP sampled where named, of 32 bytes where R319 allows one
    (`mayFetch`): `descFetched`. (10) NOP waiting: OK, 0. (11) ABORT waiting, its target ended before its abort point
    (`abortTag`): OK, 1. (12) not so ended: ABORT_LATE. (13) PCIE_DMA_ERROR of a fetch of an enabled ring: ERROR with
    FETCH (`ringFails`). (14) of a completion write of an enabled or draining one: ERROR with WRITE. (15) of a buffer:
    its command ends DMA_ERROR (`bufferFails`). (16) INTERRUPT_COALESCE_EXPIRY with completions pending: none is, and
    the ring's vector is signalled. (17) RING_ENABLE where the device answers 0x0800: `ringEnables`. (18) RING_DISABLE
    there: `ringDisables`. (19) RING_DRAINED: `drained`. Where the rules leave a choice, it is the model's: log 4, 89,
    92. A command addressed to a role that is vacant is held instead (R408): log 86. -/
def Obligations.RingEvents : Prop :=
  (∀ (s : State) (n v : Nat), rolesThere s (.sqTail 0 n v true) = true → n < 16 → s.hif.d3hot = false → (s.ring n).phase
    ≠ .disabled → v < 2 ^ (s.ring n).sqk → v < 65536 → exec (.sqTail 0 n v true) s = .next (s.setRing n
    { s.ring n with sqTail := v })) ∧
  (∀ (s : State) (n v : Nat), rolesThere s (.sqTail 0 n v true) = true → n < 16 → s.hif.d3hot = false → (s.ring n).phase
    ≠ .disabled → 2 ^ (s.ring n).sqk ≤ v → v < 65536 → exec (.sqTail 0 n v true) s = .next (s.setRing n
    { s.ring n with err := setBit (s.ring n).err 0 })) ∧
  (∀ (s : State) (p n v : Nat), rolesThere s (.sqTail p n v true) = true → 1 ≤ p → p < 64 → n < 16 → s.hif.d3hot = false
    → isMember s p = true → s.running = true → exec (.sqTail p n v true) s = .next (doorbellOn s p n 0 (v % 65536))) ∧
  (∀ (s : State) (p n v : Nat), rolesThere s (.sqTail p n v false) = true → p < 64 → n < 16 → exec (.sqTail p n v false)
    s = .next (s.raise Reg.hifFaultBadAccess)) ∧
  (∀ (s : State) (n v : Nat), rolesThere s (.cqHead 0 n v true) = true → n < 16 → s.hif.d3hot = false → (s.ring n).phase
    ≠ .disabled → v < 2 ^ (s.ring n).cqk → v < 65536 → exec (.cqHead 0 n v true) s = .next (s.setRing n
    { s.ring n with cqHead := v, unread := unreadFrom (s.ring n) v })) ∧
  (∀ (s : State) (n v : Nat), rolesThere s (.cqHead 0 n v true) = true → n < 16 → s.hif.d3hot = false → (s.ring n).phase
    ≠ .disabled → 2 ^ (s.ring n).cqk ≤ v → v < 65536 → exec (.cqHead 0 n v true) s = .next (s.setRing n
    { s.ring n with err := setBit (s.ring n).err 0 })) ∧
  (∀ (s : State) (p n v : Nat), rolesThere s (.cqHead p n v true) = true → 1 ≤ p → p < 64 → n < 16 → s.hif.d3hot = false
    → isMember s p = true → s.running = true → exec (.cqHead p n v true) s = .next (doorbellOn s p n 1 (v % 65536))) ∧
  (∀ (s : State) (p n v : Nat), rolesThere s (.cqHead p n v false) = true → p < 64 → n < 16 → exec (.cqHead p n v false)
    s = .next (s.raise Reg.hifFaultBadAccess)) ∧
  (∀ (s : State) (n : Nat) (b : Bytes) (v : Option Bool), rolesThere s (.descriptorFetch n b v) = true → mayFetch s n =
    true → b.length = 32 → exec (.descriptorFetch n b v) s = .next (descFetched n (descOf b) (s.sampleNvwp v))) ∧
  (∀ (s : State) (n tag : Nat) (d : Desc), rolesThere s (.nop n tag) = true → Waiting s n 0x00 tag d → exec (.nop n tag)
    s = .next (complete s n tag stOk 0)) ∧
  (∀ (s : State) (n tag : Nat) (d : Desc), rolesThere s (.abort n tag) = true → Waiting s n 0xFF tag d → (abortTag n
    (d.p0 % 65536) s).2 = true → exec (.abort n tag) s = .next (complete (abortTag n (d.p0 % 65536) s).1 n tag stOk 1)) ∧
  (∀ (s : State) (n tag : Nat) (d : Desc), rolesThere s (.abort n tag) = true → Waiting s n 0xFF tag d → (abortTag n
    (d.p0 % 65536) s).2 = false → exec (.abort n tag) s = .next (complete (abortTag n (d.p0 % 65536) s).1 n tag
    stAbortLate 0)) ∧
  (∀ (s : State) (n tag : Nat), n < 16 → (s.ring n).phase = .enabled → exec (.pcieDmaError n 0 tag) s = .next (ringFails
    n 2 s)) ∧
  (∀ (s : State) (n tag : Nat), n < 16 → ((s.ring n).phase == .enabled || (s.ring n).phase == .draining) = true → exec
    (.pcieDmaError n 1 tag) s = .next (ringFails n 3 s)) ∧
  (∀ (s : State) (n tag : Nat), n < 16 → exec (.pcieDmaError n 2 tag) s = .next (bufferFails n tag s)) ∧
  (∀ (s : State) (n : Nat), rolesThere s (.interruptCoalesceExpiry n) = true → n < 16 → 0 < (s.ring n).coalPending →
    exec (.interruptCoalesceExpiry n) s = .next (signal (s.setRing n { s.ring n with coalPending := 0 }) n (ringVector s
    n))) ∧
  (∀ (s : State) (n : Nat), n < 16 → answersIn s.mode 0x0800 = true → exec (.ringEnable n) s = .next (ringEnables n s)) ∧
  (∀ (s : State) (n : Nat), n < 16 → answersIn s.mode 0x0800 = true → exec (.ringDisable n) s = .next (ringDisables n
    s)) ∧
  (∀ (s : State) (n : Nat), n < 16 → exec (.ringDrained n) s = .next (drained n s))

/-- What a numbered proxy frame does on an open link, clause by clause: `proxyTake` takes its acknowledgement, applies
    it if it is the one expected, and acknowledges it. (1) DOORBELL at a downstream device: its own ring takes it. (2)
    READ_REQ of 1 to 1,008 bytes at the head outside D3hot: host memory is read, a failed read of a place of the ring
    (`isDescRead`) signals ERRVEC, and READ_DATA is sent with the bytes or none. (3) READ_DATA at a downstream device:
    an open read of that number is closed, its bytes delivered, a failed one ends its ring or command (`readFails`);
    otherwise nothing. (4) WRITE at the head that succeeds: host memory is written. (5) that fails: ERRVEC where it is a
    place of the completion ring (`isCompletionWrite`). (6) INTERRUPT at the head of a vector below 64: signalled. (7)
    REG_WRITE at a downstream device: `registerWritten` by requester 1. (8) REG_READ there: REG_DATA is sent with the
    value. (9) REG_DATA at the head: the BAR4 read of that number and position that waits is answered; otherwise
    nothing. (10) PROXY_ACK of class 0 or 1: `proxyAcked`. (11) PROXY_RTO_EXPIRY: `rtoPassed`. (12) REGWAIT_EXPIRY of a
    waiting read: REG_TIMEOUT, all ones. Where the rules leave a choice, it is the model's: log 91, 92. A command
    addressed to a role that is vacant is held instead (R408): log 86. -/
def Obligations.ProxyFrames : Prop :=
  (∀ (s : State) (q a n k v : Nat), rolesThere s (.doorbell q a n k v) = true → s.fab.head = false → linkOpen s 0 = true
    → exec (.doorbell q a n k v) s = .next (proxyTake 0 (ringProxyClass n) q a (acceptDoorbell n k v) s)) ∧
  (∀ (s : State) (p q a n r len ad : Nat) (fail : Bool) (data : Bytes), rolesThere s (.readReq p q a n r len ad fail
    data) = true → s.fab.head = true → linkOpen s p = true → s.hif.d3hot = false → 1 ≤ len → len ≤ 1008 → exec (.readReq
    p q a n r len ad fail data) s = .next (proxyTake p (ringProxyClass n) q a (fun u => proxySend (if fail && isDescRead
    (pcieReads u ad len) p n ad len then signalError (pcieReads u ad len) else pcieReads u ad len) p n 0x03 (beBytes 2 r
    ++ [BitVec.ofNat 8 (bit fail), 0] ++ (if fail then [] else padTo len data))) s)) ∧
  (∀ (s : State) (q a n r : Nat) (fail : Bool) (data : Bytes), rolesThere s (.readData q a n r fail data) = true →
    s.fab.head = false → linkOpen s 0 = true → exec (.readData q a n r fail data) s = .next (proxyTake 0 (ringProxyClass
    n) q a (fun u => (u.hif.readsOpen.find? (fun e => e.req == r)).elim u (fun e => readFails fail n e
    { u with hif := { u.hif with readsOpen := removeFirst (fun e => e.req == r) u.hif.readsOpen, readData := (r, fail, data) :: u.hif.readData.take 63 } }))
    s)) ∧
  (∀ (s : State) (p q a n ad : Nat) (data : Bytes), rolesThere s (.proxyWrite p q a n ad data false) = true → s.fab.head
    = true → linkOpen s p = true → exec (.proxyWrite p q a n ad data false) s = .next (proxyTake p (ringProxyClass n) q
    a (fun u => dma u n ad data) s)) ∧
  (∀ (s : State) (p q a n ad : Nat) (data : Bytes), rolesThere s (.proxyWrite p q a n ad data true) = true → s.fab.head
    = true → linkOpen s p = true → exec (.proxyWrite p q a n ad data true) s = .next (proxyTake p (ringProxyClass n) q a
    (fun u => if isCompletionWrite u p n ad data.length then signalError u else u) s)) ∧
  (∀ (s : State) (p q a n v : Nat), rolesThere s (.interrupt p q a n v) = true → s.fab.head = true → linkOpen s p = true
    → v < 64 → exec (.interrupt p q a n v) s = .next (proxyTake p (ringProxyClass n) q a (fun u => signal u n v) s)) ∧
  (∀ (s : State) (q a off v : Nat), rolesThere s (.regWrite q a off v) = true → s.fab.head = false → linkOpen s 0 = true
    → exec (.regWrite q a off v) s = .next (proxyTake 0 1 q a (registerWritten 1 off (v % 2 ^ 32)) s)) ∧
  (∀ (s : State) (q a r off : Nat), rolesThere s (.regRead q a r off) = true → s.fab.head = false → linkOpen s 0 = true
    → exec (.regRead q a r off) s = .next (proxyTake 0 1 q a (fun u => proxySend (registerRead off u).1 0 0xFF 0x08
    (beBytes 2 r ++ [0, 0] ++ beBytes 4 (registerRead off u).2)) s)) ∧
  (∀ (s : State) (p q a r v : Nat), rolesThere s (.regData p q a r v) = true → s.fab.head = true → linkOpen s p = true →
    exec (.regData p q a r v) s = .next (proxyTake p 1 q a (fun u => if u.hif.barReads.any (fun x => x.req == r && x.pos
    == p) then readAnswered u r (v % 2 ^ 32) else u) s)) ∧
  (∀ (s : State) (p c a : Nat), rolesThere s (.proxyAck p c a) = true → linkOpen s p = true → c < 2 → exec (.proxyAck p
    c a) s = .next (proxyAcked s p c a)) ∧
  (∀ (s : State) (p c : Nat), rolesThere s (.proxyRtoExpiry p c) = true → linkOpen s p = true → c < 2 → exec
    (.proxyRtoExpiry p c) s = .next (rtoPassed s p c)) ∧
  (∀ (s : State) (r : Nat), rolesThere s (.regwaitExpiry r) = true → s.hif.barReads.any (fun x => x.req == r) = true →
    exec (.regwaitExpiry r) s = .next (readAnswered (s.raise Reg.hifFaultRegTimeout) r 0xFFFFFFFF))

/-- What the PCIe link's events do, clause by clause. (1) PCIE_LINK_UP outside SEED, in a device that does not run or is
    head: LINK_UP 1, GEN2 as named, the maximum read request taken if 128, 256 or 512, and a head presents its function.
    (2) in a running device that is not head and holds an address or was answered ADDR_FULL: the same fields, joined
    state HEAD_CONFLICT, FAB_FAULT.HEAD_CONFLICT. (3) another: the same fields, and `judgeHead`. (4) PCIE_LINK_DOWN:
    LINK_UP and GEN2 0. (5) PCIE_POWER_STATE to D3hot with the link up: D3hot. (6) to D0: what waited goes in its order.
    (7) PCIE_RESET: rings 0 to 15 are reset in turn (`ringReset`), D3hot is over, HIF_SUBSYS is latched, the read
    request is 512, MSI-X table, pending bits, links and reads are empty, and a head with its link up presents its
    function. (8) after it links, stalled work, BAR4 reads and pending bits are empty, D3hot is over and rings 0 to 15
    are DISABLED. Where the rules leave a choice, it is the model's: log 19, 90, 93, 133. -/
def Obligations.PcieLink : Prop :=
  (∀ (s u : State) (m : Nat) (g : Bool), u = (fun v : State => if [128, 256, 512].contains m then
    { v with hif := { v.hif with maxRead := m } } else v) ((s.setStat Reg.hifStatusLinkUp 1).setStat Reg.hifStatusGen2
    (bit g)) → (s.mode != .seed) = true → (!u.running || u.fab.head) = true → exec (.pcieLinkUp g m) s = .next
    (presentFunction u)) ∧
  (∀ (s u : State) (m : Nat) (g : Bool), u = (fun v : State => if [128, 256, 512].contains m then
    { v with hif := { v.hif with maxRead := m } } else v) ((s.setStat Reg.hifStatusLinkUp 1).setStat Reg.hifStatusGen2
    (bit g)) → (s.mode != .seed) = true → (!u.running || u.fab.head) = false → (u.fab.addr.isSome || u.fab.join ==
    .addrFull) = true → exec (.pcieLinkUp g m) s = .next (({ u with fab := { u.fab with join := .headConflict } }).raise
    Reg.fabFaultHeadConflict)) ∧
  (∀ (s u : State) (m : Nat) (g : Bool), u = (fun v : State => if [128, 256, 512].contains m then
    { v with hif := { v.hif with maxRead := m } } else v) ((s.setStat Reg.hifStatusLinkUp 1).setStat Reg.hifStatusGen2
    (bit g)) → (s.mode != .seed) = true → (!u.running || u.fab.head) = false → (u.fab.addr.isSome || u.fab.join ==
    .addrFull) = false → exec (.pcieLinkUp g m) s = .next (judgeHead u)) ∧
  (∀ (s : State), exec (.pcieLinkDown) s = .next ((s.setStat Reg.hifStatusLinkUp 0).setStat Reg.hifStatusGen2 0)) ∧
  (∀ (s : State), s.stat Reg.hifStatusLinkUp ≠ 0 → exec (.pciePowerState true) s = .next
    ({ s with hif := { s.hif with d3hot := true } })) ∧
  (∀ (s : State), s.stat Reg.hifStatusLinkUp ≠ 0 → exec (.pciePowerState false) s = .next (s.hif.stalled.foldl unstall
    { s with hif := { s.hif with d3hot := false, stalled := [] } })) ∧
  (∀ (s u : State), u = (List.range 16).foldl ringReset s → exec (.pcieReset) s = .next (presentFunction
    { u with hif := { u.hif with d3hot := false, subsys := heldWord u 0x0430, maxRead := 512, stalled := [], msixTable := [], pba := 0, links := [], barReads := [], readsOpen := [], readData := [] } }))
    ∧
  (∀ (s : State), ∃ t, exec (.pcieReset) s = .next t ∧ t.hif.links = [] ∧ t.hif.stalled = [] ∧ t.hif.d3hot = false ∧
    t.hif.barReads = [] ∧ t.hif.pba = 0 ∧ (∀ n, n < 16 → (t.ring n).phase = .disabled))

/-- What ring 0, CONFIG_SAVE and AUDIT_COMMIT do, clause by clause; a command waits, undisturbed, on its served ring.
    (1) CONFIG_APPLY of 24 to 16,400 bytes whose blob is good (`blobStatus`): applied, OK with the blob's result. (2)
    not good: nothing changes but its completion with that status. (3) CONFIG_EXPORT with room: the configuration blob
    is written, its length answered. (4) AUDIT_READ of 32 to 65,504 bytes, a multiple of 32, P0 below 2^32: the entries
    held from P0 on, in sequence order, as many as fit, are written and counted. (5) CONFIG_SAVE, NVWP sampled where
    named, on a running device, a configuration changed or not saved, none waiting, NVWP asserted: CFG_UNSAVED 1. (6)
    NVWP high: the set's records are requested under the next generation (`nextConfigGen`). (7) AUDIT_COMMIT outside
    SEED, entries waiting, no audit commit waiting: their records are requested. Where the rules leave a choice, it is
    the model's: log 10, 102. A command addressed to a role that is vacant is held instead (R408): log 86. -/
def Obligations.ConfigurationRing : Prop :=
  (∀ (s : State) (tag : Nat) (d : Desc) (data : Bytes), Waiting s 0 0x01 tag d → 24 ≤ d.len → d.len ≤ 16400 → blobStatus
    2 (padTo d.len data) = stOk → exec (.configApply tag data) s = .next (complete (applyBlob 2 (padTo d.len data) s).1
    0 tag stOk (applyBlob 2 (padTo d.len data) s).2)) ∧
  (∀ (s : State) (tag : Nat) (d : Desc) (data : Bytes), Waiting s 0 0x01 tag d → 24 ≤ d.len → d.len ≤ 16400 → blobStatus
    2 (padTo d.len data) ≠ stOk → exec (.configApply tag data) s = .next (complete s 0 tag (blobStatus 2 (padTo d.len
    data)) 0)) ∧
  (∀ (s : State) (tag : Nat) (d : Desc), Waiting s 0 0x02 tag d → (configBlob s).length ≤ d.len → exec (.configExport
    tag) s = .next (completeData s 0 d (configBlob s) (configBlob s).length)) ∧
  (∀ (s : State) (tag : Nat) (d : Desc), Waiting s 0 0x03 tag d → 32 ≤ d.len → d.len ≤ 65504 → d.len % 32 = 0 → d.p0 < 2
    ^ 32 → exec (.auditRead tag) s = .next ((fun (l : List AuditEntry) => completeData s 0 d (l.flatMap auditBytes)
    l.length) (((auditHeld s).filter (fun e => decide (d.p0 ≤ e.seq))).take (d.len / 32)))) ∧
  (∀ (s u : State) (v : Option Bool), u = s.sampleNvwp v → s.running = true → (s.hif.cfgChanged || s.stat
    Reg.hifStatusCfgUnsaved != 0) = true → nvWaits s (· == .config) = false → u.nvwp = true → exec (.configSave v) s =
    .next (u.setStat Reg.hifStatusCfgUnsaved 1)) ∧
  (∀ (s u : State) (v : Option Bool), u = s.sampleNvwp v → s.running = true → (s.hif.cfgChanged || s.stat
    Reg.hifStatusCfgUnsaved != 0) = true → nvWaits s (· == .config) = false → u.nvwp = false → exec (.configSave v) s =
    .next (nvRequest { u with hif := { u.hif with cfgChanged := false } } (configItems u (nextConfigGen u)) .config)) ∧
  (∀ (s : State), rolesThere s (.auditCommit) = true → (s.mode != .seed) = true → s.hif.auditWaiting ≠ [] → nvWaits s
    isAudit = false → exec (.auditCommit) s = .next (nvRequest s (auditItems (s.hif.auditWaiting.length + 1)
    s.hif.auditWaiting) (.audit s.hif.auditWaiting.length)))

/-- What rings 12 and 15 and their events do, clause by clause; a command waits, undisturbed, on its served ring. (1)
    SEND of 1 to 1,000 bytes, P0 below 2^17, P1 below 256, on a device with an address, to a group or a reachable
    position: a BULK frame of type 0x10 is sent, OK with its sequence. (2) to a position not reachable:
    PEER_UNREACHABLE. (3) on a device without an address: ADDR_FULL. (4) RECV_BUFFER of ring 12 of at least 1,024 bytes:
    posted. (5) PEER_MESSAGE of at most 1,000 bytes on a running device: written into the oldest buffer or counted as
    discarded, and its sequence noted. (6) POST of 1 to 4,096 bytes, fewer than eight waiting: it waits for APP. (7)
    eight waiting: MAILBOX_FULL. (8) RECV_BUFFER of ring 15 of at least 4,112 bytes: posted. (9) APP_MESSAGE of at most
    4,096 bytes while APP serves: written into a buffer of ring 15 or counted as discarded. (10) MAILBOX_TAKE while APP
    serves: the oldest message goes to APP and its POST completes OK. Where the rules leave a choice, it is the model's:
    log 94. A command addressed to a role that is vacant is held instead (R408): log 86. -/
def Obligations.MessageRings : Prop :=
  (∀ (s : State) (tag : Nat) (d : Desc) (data : Bytes), rolesThere s (.send tag data) = true → Waiting s 12 0x01 tag d →
    1 ≤ d.len → d.len ≤ 1000 → d.p0 < 2 ^ 17 → d.p1 < 256 → s.fab.addr.isNone = false → (bitAt d.p0 16 || reachable s
    (d.p0 % 65536)) = true → exec (.send tag data) s = .next ((fun (r : Nat × State) => complete r.2 12 tag stOk r.1)
    (sendFrame s (d.p0 % 65536) (bitAt d.p0 16) false clsBulk 0x10 ([BitVec.ofNat 8 d.p1, 0] ++ beBytes 2 d.len ++ padTo
    d.len data)))) ∧
  (∀ (s : State) (tag : Nat) (d : Desc) (data : Bytes), rolesThere s (.send tag data) = true → Waiting s 12 0x01 tag d →
    1 ≤ d.len → d.len ≤ 1000 → d.p0 < 2 ^ 17 → d.p1 < 256 → s.fab.addr.isNone = false → (bitAt d.p0 16 || reachable s
    (d.p0 % 65536)) = false → exec (.send tag data) s = .next (complete s 12 tag stPeerUnreachable 0)) ∧
  (∀ (s : State) (tag : Nat) (d : Desc) (data : Bytes), rolesThere s (.send tag data) = true → Waiting s 12 0x01 tag d →
    1 ≤ d.len → d.len ≤ 1000 → d.p0 < 2 ^ 17 → d.p1 < 256 → s.fab.addr.isNone = true → exec (.send tag data) s = .next
    (complete s 12 tag stAddrFull 0)) ∧
  (∀ (s : State) (tag : Nat) (d : Desc), rolesThere s (.recvBuffer tag) = true → Waiting s 12 0x02 tag d → 1024 ≤ d.len
    → exec (.recvBuffer tag) s = .next (markTaken s 12 tag false)) ∧
  (∀ (s : State) (src q t c : Nat) (m : Bool) (data : Bytes), rolesThere s (.peerMessage src q t c m data) = true →
    s.running = true → data.length ≤ 1000 → exec (.peerMessage src q t c m data) s = .next (seqAccept (fillBuffer s 12
    0x02 (messageBytes s src q t c m data) (16 + data.length)) src clsBulk q)) ∧
  (∀ (s : State) (tag : Nat) (d : Desc) (data : Bytes), Waiting s 15 0x01 tag d → 1 ≤ d.len → d.len ≤ 4096 → d.p0 <
    65536 → s.hif.mailbox.length < 8 → exec (.post tag data) s = .next (markTaken
    { s with hif := { s.hif with mailbox := s.hif.mailbox ++ [⟨tag, d.p0, padTo d.len data⟩] } } 15 tag false)) ∧
  (∀ (s : State) (tag : Nat) (d : Desc) (data : Bytes), Waiting s 15 0x01 tag d → 1 ≤ d.len → d.len ≤ 4096 → d.p0 <
    65536 → 8 ≤ s.hif.mailbox.length → exec (.post tag data) s = .next (complete s 15 tag stMailboxFull 0)) ∧
  (∀ (s : State) (tag : Nat) (d : Desc), Waiting s 15 0x02 tag d → 4112 ≤ d.len → exec (.mailboxRecvBuffer tag) s =
    .next (markTaken s 15 tag false)) ∧
  (∀ (s : State) (c : Nat) (data : Bytes), appServes s = true → data.length ≤ 4096 → exec (.appMessage c data) s = .next
    (fillBuffer s 15 0x02 (leBytes 2 c ++ zeroBytes 2 ++ leBytes 4 data.length ++ zeroBytes 8 ++ data) (16 +
    data.length))) ∧
  (∀ (s : State) (m : MailboxMsg) (l : List MailboxMsg), appServes s = true → s.hif.mailbox = m :: l → exec
    (.mailboxTake) s = .next (complete (({ s with hif := { s.hif with mailbox := l } }).emit (.toApp m.channel m.data))
    15 m.tag stOk 0))

/-- What the store's events do, clause by clause. (1) RECORD_WRITE_DONE outside SEED and supply failure, a missing copy
    B or a copy forward waiting, or a front request without a row of its own: `commitFront`. (2) SECTOR_ERASE_DONE of an
    area with a sector due (`eraseTarget`), VHOLD seen, supplies sound, no supply failure, reading blank:
    `sectorErased`. (3) not blank: it is erased again. (4) supplies not sound or VHOLD not seen: deferred. (5)
    VHOLD_READY with the charger on, not seen before, after at least 2,000 us: it is seen and HOLD reads at least 4,500
    mV. (6) sooner: the same with HOLD_SMALL and its event. (7) MAIN_SUPPLY_FAILURE of a main supply at a voltage below
    its limit, outside SEED, the first: failing, the supply and its voltage held, a sector flag or erase cut as named
    (`headerCut`); VHOLD seen, no record cut: the fuses of a transition follow, an import is marked begun (`importCut`),
    the first n records of R362 are programmed (`programAll`). (8) where record n is cut at byte k: that record as well,
    cut there. (9) where VHOLD was not seen: nothing more. (10) SCRUB_PERIOD with SCRUB_EN, outside SEED, VHOLD seen,
    supplies sound, no supply failure: a pass over all areas (`scrubPass`), the second noted. (11) not fit to write and
    something weak: deferred, the second noted. (12) a record that is programmed and reads back (`programItem`), into an
    area in form and, but in CRIT_B, is the one that stands for its key: its write sector is neither to be erased nor
    unformatted, and no record of it fails its header check. Where the rules leave a choice, it is the model's: log 70,
    134, 137. A command addressed to a role that is vacant is held instead (R408): log 86. -/
def Obligations.StoreEvents : Prop :=
  (∀ (s : State) (ok v : Bool), rolesThere s (.recordWriteDone ok v) = true → (s.mode != .seed) = true → s.nvs.failing =
    false → (!s.nvs.single.isEmpty || (nextCopy s).isSome || !ownCommitRow s) = true → exec (.recordWriteDone ok v) s =
    .next (commitFront ok v s)) ∧
  (∀ (s : State) (n : Nat) (a : Area), rolesThere s (.sectorEraseDone n true true) = true → areaAt n = some a →
    (eraseTarget (s.area a) a).isSome = true → s.nvs.holdSeen = true → s.nvs.failing = false → exec (.sectorEraseDone n
    true true) s = .next (sectorErased s a)) ∧
  (∀ (s : State) (n : Nat) (a : Area), rolesThere s (.sectorEraseDone n false true) = true → areaAt n = some a →
    (eraseTarget (s.area a) a).isSome = true → s.nvs.holdSeen = true → s.nvs.failing = false → exec (.sectorEraseDone n
    false true) s = .next (s)) ∧
  (∀ (s : State) (n : Nat) (a : Area) (b ok : Bool), rolesThere s (.sectorEraseDone n b ok) = true → areaAt n = some a →
    (eraseTarget (s.area a) a).isSome = true → (ok && s.nvs.holdSeen) = false → s.nvs.failing = false → exec
    (.sectorEraseDone n b ok) s = .next (noteDeferred s)) ∧
  (∀ (s : State) (us : Nat), chargerOn s = true → s.nvs.holdSeen = false → 2000 ≤ us → exec (.vholdReady us) s = .next
    ({ s with nvs := { s.nvs with holdSeen := true }, pwr := { s.pwr with supplies := s.pwr.supplies.set 6 (max 4500 (vhold s)) } }))
    ∧
  (∀ (s : State) (us : Nat), chargerOn s = true → s.nvs.holdSeen = false → us < 2000 → exec (.vholdReady us) s = .next
    (raiseEvent
    { s with nvs := { s.nvs with holdSeen := true }, pwr := { s.pwr with supplies := s.pwr.supplies.set 6 (max 4500 (vhold s)) } }
    Reg.nvsFaultHoldSmall blkNvs [])) ∧
  (∀ (s u : State) (v mv n : Nat) (fl : Option (Nat × Nat)) (un : List Nat), v < 4 → mv < failsBelow s v → (s.mode !=
    .seed) = true → s.nvs.failing = false → u = (fl.bind (fun e => (areaAt e.1).map (fun a => (a, e.2)))).elim
    { s with nvs := { s.nvs with failing := true }, pwr := { s.pwr with failedSupply := some v, supplies := s.pwr.supplies.set v mv } }
    (fun e => headerCut e.2 e.1
    { s with nvs := { s.nvs with failing := true }, pwr := { s.pwr with failedSupply := some v, supplies := s.pwr.supplies.set v mv } })
    → u.nvs.holdSeen = true → exec (.mainSupplyFailure v n mv none fl un) s = .next (programAll (importCut (fusesFollow
    u n) n) ((finalItems u).take n) un)) ∧
  (∀ (s u : State) (v mv n k : Nat) (i : RecItem) (fl : Option (Nat × Nat)) (un : List Nat), v < 4 → mv < failsBelow s v
    → (s.mode != .seed) = true → s.nvs.failing = false → u = (fl.bind (fun e => (areaAt e.1).map (fun a => (a,
    e.2)))).elim
    { s with nvs := { s.nvs with failing := true }, pwr := { s.pwr with failedSupply := some v, supplies := s.pwr.supplies.set v mv } }
    (fun e => headerCut e.2 e.1
    { s with nvs := { s.nvs with failing := true }, pwr := { s.pwr with failedSupply := some v, supplies := s.pwr.supplies.set v mv } })
    → u.nvs.holdSeen = true → (finalItems u)[n]? = some i → exec (.mainSupplyFailure v n mv (some k) fl un) s = .next
    (cutItem (programAll (importCut (fusesFollow u n) n) ((finalItems u).take n) un) i k)) ∧
  (∀ (s u : State) (v mv n : Nat) (c : Option Nat) (fl : Option (Nat × Nat)) (un : List Nat), v < 4 → mv < failsBelow s
    v → (s.mode != .seed) = true → s.nvs.failing = false → u = (fl.bind (fun e => (areaAt e.1).map (fun a => (a,
    e.2)))).elim
    { s with nvs := { s.nvs with failing := true }, pwr := { s.pwr with failedSupply := some v, supplies := s.pwr.supplies.set v mv } }
    (fun e => headerCut e.2 e.1
    { s with nvs := { s.nvs with failing := true }, pwr := { s.pwr with failedSupply := some v, supplies := s.pwr.supplies.set v mv } })
    → u.nvs.holdSeen = false → exec (.mainSupplyFailure v n mv c fl un) s = .next (u)) ∧
  (∀ (s : State) (w un : List Nat) (h : List (Nat × Nat)), rolesThere s (.scrubPeriod w h true un) = true → s.on
    Reg.nvsCtrlScrubEn = true → (s.mode != .seed) = true → s.nvs.holdSeen = true → s.nvs.failing = false → exec
    (.scrubPeriod w h true un) s = .next ((scrubPass s 63 w h un).1.setStat Reg.nvsScrublast (scrubPass s 63 w h
    un).1.rtc)) ∧
  (∀ (s : State) (w un : List Nat) (h : List (Nat × Nat)) (ok : Bool), rolesThere s (.scrubPeriod w h ok un) = true →
    s.on Reg.nvsCtrlScrubEn = true → (s.mode != .seed) = true → (ok && s.nvs.holdSeen) = false → s.nvs.failing = false →
    (w.isEmpty && h.isEmpty) = false → exec (.scrubPeriod w h ok un) s = .next ((noteDeferred s).setStat
    Reg.nvsScrublast (noteDeferred s).rtc)) ∧
  (∀ (s t : State) (i : RecItem) (w : AreaState), StoreForm s → i.area ≠ .critB → areaFor i.area (s.area i.area)
    (footprint i.len) = some w → (w.erase.contains w.writeSector || w.unformatted.contains w.writeSector) = false → (∀ r
    ∈ s.nvs.recs, r.area = i.area → r.sector = w.writeSector → r.headOk = true) → programItem s i true = some t →
    standing t i.key = if i.delete then none else some i.data)

/-- What the six commands of ring 9 do, clause by clause; a command waits, undisturbed, on its served ring. A host key
    is 0x8000 to 0x80FF; "open": NVWP is high and no change waits before it. (1) READ of at least 1,024 bytes of a host
    key that stands: its bytes, their count. (2) that does not stand: NO_RECORD. (3) WRITE of at most 1,024 bytes to a
    host key, open, not beyond 131,072 bytes of host records: taken up and the pair of records requested. (4) beyond
    them: STORE_FULL. (5) with NVWP asserted: WRITE_PROTECTED. (6) DELETE of a host key, open: taken up and its pair
    requested. (7) LIST of 32 bytes: the bitmap of keys, their count. (8) WEAR of 48 bytes: eight bytes for each area,
    6. (9) SCRUB_NOW of a mask below 64 with something weak, VHOLD seen, supplies sound, no supply failure (`scrubFit`):
    a pass over those areas (`scrubPass`), OK with the records rewritten. (10) not fit to write: NV_DEFERRED. (11)
    nothing weak: OK, 0. Where the rules leave a choice, it is the model's: log 10, 23, 58. A command addressed to a
    role that is vacant is held instead (R408): log 86. -/
def Obligations.StoreRing : Prop :=
  (∀ (s : State) (tag : Nat) (d : Desc) (b : Bytes), Waiting s 9 0x01 tag d → 1024 ≤ d.len → hostKey d.p0 = true →
    hostRecord s d.p0 = some b → exec (.read tag) s = .next (completeData s 9 d b b.length)) ∧
  (∀ (s : State) (tag : Nat) (d : Desc), Waiting s 9 0x01 tag d → 1024 ≤ d.len → hostKey d.p0 = true → hostRecord s d.p0
    = none → exec (.read tag) s = .next (complete s 9 tag stNoRecord 0)) ∧
  (∀ (s : State) (tag : Nat) (d : Desc) (data : Bytes), Waiting s 9 0x02 tag d → d.len ≤ 1024 → hostKey d.p0 = true →
    s.nvwp = false → nvBusy s 9 = false → hostBytes s d.p0 + d.len ≤ 131072 → exec (.write tag data) s = .next
    (nvRequest (markTaken s 9 tag false) (critPair d.p0 false (.host (padTo d.len data))) (.hostWrite tag d.p0
    (nextRecSeq s d.p0)))) ∧
  (∀ (s : State) (tag : Nat) (d : Desc) (data : Bytes), Waiting s 9 0x02 tag d → d.len ≤ 1024 → hostKey d.p0 = true →
    s.nvwp = false → nvBusy s 9 = false → 131072 < hostBytes s d.p0 + d.len → exec (.write tag data) s = .next (complete
    s 9 tag stStoreFull 0)) ∧
  (∀ (s : State) (tag : Nat) (d : Desc) (data : Bytes), Waiting s 9 0x02 tag d → d.len ≤ 1024 → hostKey d.p0 = true →
    s.nvwp = true → exec (.write tag data) s = .next (complete s 9 d.tag stWriteProtected 0)) ∧
  (∀ (s : State) (tag : Nat) (d : Desc), Waiting s 9 0x03 tag d → hostKey d.p0 = true → s.nvwp = false → nvBusy s 9 =
    false → exec (.delete tag) s = .next (nvRequest (markTaken s 9 tag false) (critPair d.p0 true (.host []))
    (.hostDelete tag d.p0 (bit (hostRecord s d.p0).isSome)))) ∧
  (∀ (s : State) (tag : Nat) (d : Desc), Waiting s 9 0x04 tag d → d.len = 32 → exec (.hostRecordList tag) s = .next
    (completeData s 9 d (leBytes 32 (hostMap s)) (popCount 256 (hostMap s)))) ∧
  (∀ (s : State) (tag : Nat) (d : Desc), Waiting s 9 0x05 tag d → d.len = 48 → exec (.wear tag) s = .next (completeData
    s 9 d (allAreas.flatMap (wearBytes s)) 6)) ∧
  (∀ (s : State) (tag : Nat) (d : Desc) (w un : List Nat) (h : List (Nat × Nat)), rolesThere s (.scrubNow tag w h true
    un) = true → Waiting s 9 0x06 tag d → d.p0 < 64 → (w.isEmpty && h.isEmpty) = false → s.nvs.holdSeen = true →
    s.nvs.failing = false → exec (.scrubNow tag w h true un) s = .next (complete (scrubPass s d.p0 w h un).1 9 tag stOk
    (scrubPass s d.p0 w h un).2)) ∧
  (∀ (s : State) (tag : Nat) (d : Desc) (w un : List Nat) (h : List (Nat × Nat)) (ok : Bool), rolesThere s (.scrubNow
    tag w h ok un) = true → Waiting s 9 0x06 tag d → d.p0 < 64 → (w.isEmpty && h.isEmpty) = false → (ok &&
    s.nvs.holdSeen && !s.nvs.failing) = false → exec (.scrubNow tag w h ok un) s = .next (complete (noteDeferred s) 9
    tag stNvDeferred 0)) ∧
  (∀ (s : State) (tag : Nat) (d : Desc) (un : List Nat) (ok : Bool), rolesThere s (.scrubNow tag [] [] ok un) = true →
    Waiting s 9 0x06 tag d → d.p0 < 64 → exec (.scrubNow tag [] [] ok un) s = .next (complete s 9 tag stOk 0))

/-- What ring 10 and CHUNK_DEFER_EXPIRY do, clause by clause; a command waits, undisturbed, on its served ring. (1)
    BEGIN of a header sector, no other OPTIONS bit, NVWP high, not activating, no supply failure: one that verifies
    (`headerStatus`) is accepted (`beginAccepted`), but NV_DEFERRED where its sector alone is left to program
    (`allMatch`) with supplies not sound or VHOLD not seen; any other completes with its status. (2) CHUNK of the next
    chunk while receiving, NVWP high, no supply failure, content matching its digest, VHOLD seen and all sectors due,
    the header's after the last chunk (`sectorsDue`), let through: `chunkProgrammed`. (3) fewer let through: those are
    programmed, past the abort point if any, and the chunk waits. (4) content not matching: CHUNK_MISMATCH. (5)
    CHUNK_DEFER_EXPIRY of a waiting chunk: NV_DEFERRED. (6) ACTIVATE, live, of a written main image, no blob or a good
    one of its format (`newBlob`), that R380 lets go live and whose bundle verifies: audited, taken up, role 0 is next.
    (7) whose bundle does not: BAD_IMAGE. (8) that R380 refuses: RESTART_NEEDED and its status. (9) not live: audited,
    ROLES 0, OK. (10) RESTART: audited, OK, the entries are committed (`auditCommitted`), and the device restarts with
    cause 0x04. (11) EXPORT_ASSET permitted, with room: the asset record, its length. (12) not permitted: refused
    without a sign. (13) IMPORT_ASSET of a record of R386's form, NVWP high, no change before it, refused by R387:
    ASSET_REFUSED with the reason. (14) not refused, its contents such as can be applied (`assetBody`), supplies sound,
    VHOLD seen: taken up and its records requested. (15) SET_APPKEY, 64 bytes, no key yet, BLANK or PROVISIONED, NVWP
    high: the digest is programmed, audited, OK. (16) otherwise as to key and life cycle: refused without a sign. Where
    the rules leave a choice, it is the model's: log 11, 23, 77, 80, 81, 82, 84, 135. A command addressed to a role that
    is vacant is held instead (R408): log 86. -/
def Obligations.UpdateRing : Prop :=
  (∀ (s : State) (tag : Nat) (d : Desc) (data : Bytes) (ok : Bool), rolesThere s (.begin_ tag data ok) = true → Waiting
    s 10 0x01 tag d → d.len = 4096 → onlyLow 1 d.p0 = true → s.nvwp = false → s.upd.phase ≠ .activating → s.nvs.failing
    = false → exec (.begin_ tag data ok) s = .next ((if headerStatus s (padTo 4096 data) (bitAt d.p0 0) ≠ stOk then
    complete s 10 tag (headerStatus s (padTo 4096 data) (bitAt d.p0 0)) 0 else if (allMatch s (padTo 4096 data) (bitAt
    d.p0 0) && !(ok && s.nvs.holdSeen)) = true then complete (noteDeferred s) 10 tag stNvDeferred 0 else beginAccepted d
    (padTo 4096 data) s))) ∧
  (∀ (s : State) (tag n : Nat) (d : Desc) (data c : Bytes), rolesThere s (.chunk tag data n) = true → Waiting s 10 0x02
    tag d → 1 ≤ d.len → d.len ≤ 131072 → onlyLow 9 d.p0 = true → s.nvwp = false → s.upd.phase = .receiving → d.p0 % 256
    = nextChunk s → chunkContent s d (padTo d.len data) = some c → chunkMatches s.upd.header (d.p0 % 256) c = true →
    s.nvs.failing = false → s.nvs.holdSeen = true → sectorsDue s (d.p0 % 256) c ≤ n → exec (.chunk tag data n) s = .next
    (chunkProgrammed s tag (d.p0 % 256) c)) ∧
  (∀ (s : State) (tag n : Nat) (d : Desc) (data c : Bytes), rolesThere s (.chunk tag data n) = true → Waiting s 10 0x02
    tag d → 1 ≤ d.len → d.len ≤ 131072 → onlyLow 9 d.p0 = true → s.nvwp = false → s.upd.phase = .receiving → d.p0 % 256
    = nextChunk s → chunkContent s d (padTo d.len data) = some c → chunkMatches s.upd.header (d.p0 % 256) c = true →
    s.nvs.failing = false → (if s.nvs.holdSeen then n else 0) < sectorsDue s (d.p0 % 256) c → exec (.chunk tag data n) s
    = .next ((fun u : State => noteDeferred { u with upd := { u.upd with deferred := some (tag, c) } }) (if (if
    s.nvs.holdSeen then n else 0) = 0 then s else passAbort (sectorsProgrammed s (d.p0 % 256) c (if s.nvs.holdSeen then
    n else 0)) 10 tag))) ∧
  (∀ (s : State) (tag n : Nat) (d : Desc) (data c : Bytes), rolesThere s (.chunk tag data n) = true → Waiting s 10 0x02
    tag d → 1 ≤ d.len → d.len ≤ 131072 → onlyLow 9 d.p0 = true → s.nvwp = false → s.upd.phase = .receiving → d.p0 % 256
    = nextChunk s → chunkContent s d (padTo d.len data) = some c → chunkMatches s.upd.header (d.p0 % 256) c = false →
    exec (.chunk tag data n) s = .next (complete s 10 tag stChunkMismatch 0)) ∧
  (∀ (s : State) (tag : Nat) (c : Bytes), rolesThere s (.chunkDeferExpiry) = true → s.upd.deferred = some (tag, c) →
    exec (.chunkDeferExpiry) s = .next (complete { s with upd := { s.upd with deferred := none } } 10 tag stNvDeferred
    0)) ∧
  (∀ (s : State) (tag : Nat) (d : Desc) (data : Bytes), Waiting s 10 0x03 tag d → onlyLow 1 d.p0 = true → (decide (d.len
    = 0) || newBlob s (padTo d.len data)) = true → s.upd.phase = .written → s.upd.loader = false → bitAt d.p0 0 = true →
    activateStatus s (padTo d.len data) = stOk → exec (.activate tag data true) s = .next ((fun (u : State) => markTaken
    ({ u with upd := { u.upd with phase := .activating, act := some ⟨tag, .role 0, 0, if (padTo d.len data).isEmpty then none else some (padTo d.len data), u.upd.running⟩ } }.setStat
    Reg.updProgressRoles 0) 10 tag false) (auditCmd (applyTiming .update s) 10 0x03 0))) ∧
  (∀ (s : State) (tag : Nat) (d : Desc) (data : Bytes), Waiting s 10 0x03 tag d → onlyLow 1 d.p0 = true → (decide (d.len
    = 0) || newBlob s (padTo d.len data)) = true → s.upd.phase = .written → s.upd.loader = false → bitAt d.p0 0 = true →
    activateStatus s (padTo d.len data) = stOk → exec (.activate tag data false) s = .next (complete s 10 tag stBadImage
    0)) ∧
  (∀ (s : State) (tag : Nat) (d : Desc) (data : Bytes) (b : Bool), Waiting s 10 0x03 tag d → onlyLow 1 d.p0 = true →
    (decide (d.len = 0) || newBlob s (padTo d.len data)) = true → s.upd.phase = .written → s.upd.loader = false → bitAt
    d.p0 0 = true → activateStatus s (padTo d.len data) ≠ stOk → exec (.activate tag data b) s = .next (complete
    (restartNeeded s) 10 tag (activateStatus s (padTo d.len data)) 0)) ∧
  (∀ (s : State) (tag : Nat) (d : Desc) (data : Bytes) (b : Bool), Waiting s 10 0x03 tag d → onlyLow 1 d.p0 = true →
    (decide (d.len = 0) || newBlob s (padTo d.len data)) = true → s.upd.phase = .written → s.upd.loader = false → bitAt
    d.p0 0 = false → exec (.activate tag data b) s = .next (complete ((auditCmd s 10 0x03 0).setStat
    Reg.updProgressRoles 0) 10 tag stOk 0)) ∧
  (∀ (s : State) (tag : Nat) (d : Desc), Waiting s 10 0x04 tag d → exec (.restart tag) s = .next (resetDevice 0x04
    (auditCommitted (complete (auditCmd s 10 0x04 0) 10 tag stOk 0)))) ∧
  (∀ (s : State) (tag : Nat) (d : Desc), Waiting s 10 0x05 tag d → exportPermits s = true → (assetRecord s).length ≤
    d.len → exec (.exportAsset tag) s = .next (completeData (useSlot s 1) 10 d (assetRecord s) (assetRecord s).length)) ∧
  (∀ (s : State) (tag : Nat) (d : Desc), Waiting s 10 0x05 tag d → exportPermits s = false → exec (.exportAsset tag) s =
    .next (refuseSilent s 10 d d.len)) ∧
  (∀ (s : State) (tag : Nat) (d : Desc) (data : Bytes) (ok : Bool), rolesThere s (.importAsset tag data ok) = true →
    Waiting s 10 0x06 tag d → assetForm (padTo d.len data) = true → s.nvwp = false → nvBusy s 10 = false → assetReason s
    (padTo d.len data) (leBytes 8 d.p0 ++ leBytes 8 d.p1) ≠ 0 → exec (.importAsset tag data ok) s = .next (complete
    (authJob true s) 10 tag stAssetRefused (assetReason s (padTo d.len data) (leBytes 8 d.p0 ++ leBytes 8 d.p1)))) ∧
  (∀ (s : State) (tag : Nat) (d : Desc) (data : Bytes), rolesThere s (.importAsset tag data true) = true → Waiting s 10
    0x06 tag d → assetForm (padTo d.len data) = true → s.nvwp = false → nvBusy s 10 = false → assetReason s (padTo d.len
    data) (leBytes 8 d.p0 ++ leBytes 8 d.p1) = 0 → assetBody (padTo d.len data) = true → (authJob true s).nvs.holdSeen =
    true → exec (.importAsset tag data true) s = .next (nvRequest (markTaken (authJob true s) 10 tag false) (importItems
    (authJob true s) (some tag) (padTo d.len data)) (.import (some tag) (padTo d.len data)))) ∧
  (∀ (s : State) (tag : Nat) (d : Desc) (data : Bytes), Waiting s 10 0x07 tag d → d.len = 64 → s.upd.appKey = 0 →
    (s.cip.lifeCycle == .blank || s.cip.lifeCycle == .provisioned) = true → s.nvwp = false → exec (.setAppkey tag data)
    s = .next (complete (auditCmd { s with upd := { s.upd with appKey := beNat (sha256 (padTo 64 data)) } } 10 0x07 0)
    10 tag stOk 0)) ∧
  (∀ (s : State) (tag : Nat) (d : Desc) (data : Bytes), Waiting s 10 0x07 tag d → d.len = 64 → (s.upd.appKey = 0 &&
    (s.cip.lifeCycle == .blank || s.cip.lifeCycle == .provisioned)) = false → exec (.setAppkey tag data) s = .next
    (refuseSilent s 10 d 0))

/-- What the events of a live ACTIVATE do, clause by clause. (1) ROLE_HANDOVER_SWAP on a running device with role n
    next, the section loaded: `roleSwapped`. (2) not loaded: `abandonMixed`. (3) APP_HANDOVER_POINT with APP's bank
    loaded (`atAppStep`): APP runs the new image, and the refill of its old bank goes on (`appSwitches`). (4)
    APP_WAIT_EXPIRY there with APP_FORCE 0: `abandonActivation`. (5) with APP_FORCE 1: RESTART_NEEDED, and as 3. Where
    the rules leave a choice, it is the model's: log 79, 86. -/
def Obligations.LiveActivation : Prop :=
  (∀ (s : State) (a : Activation) (n : Nat), s.running = true → s.upd.act = some a → a.step = .role n → exec
    (.roleHandoverSwap true) s = .next (roleSwapped s a n)) ∧
  (∀ (s : State) (a : Activation) (n : Nat), s.running = true → s.upd.act = some a → a.step = .role n → exec
    (.roleHandoverSwap false) s = .next (abandonMixed s)) ∧
  (∀ (s : State) (a : Activation), atAppStep s = some a → exec (.appHandoverPoint) s = .next (appSwitches s a)) ∧
  (∀ (s : State) (a : Activation), atAppStep s = some a → s.on Reg.updCtrlAppForce = false → exec (.appWaitExpiry) s =
    .next (abandonActivation s)) ∧
  (∀ (s : State) (a : Activation), atAppStep s = some a → s.on Reg.updCtrlAppForce = true → exec (.appWaitExpiry) s =
    .next (appSwitches (restartNeeded s) a))

/-- What the ladder's and the clocks' events do, clause by clause. (1) DEEP_AFTER_EXPIRY with the conditions of R395 met
    (`mayDescend`): `descend`. (2) WAKE_SOURCE that acts at the deep rung held, not the alarm: `rise`. (3) the alarm:
    PWR_ALARM is cleared, then `rise`. (4) WAKE_SEQUENCE at a port below 4 at TWIG: `rise`, and that port trains. (5)
    VBK_LOSS at SEED, VBK below 2,000 mV: its level is held and the RTC is lost. (6) not at SEED: nothing. (7)
    CLOCK_MONITOR_FLAG outside SEED of source 0, the system PLL: FAILED with cause 0x04, SPRIG stopped, the outputs
    driven anew. (8) of 1, the LF synthesiser, not deep: `lfRelocks`. (9) of 2, the RF synthesiser, at LEAF or BLOOM:
    `rfRelocks`. (10) of 3, the metrology PLL, there: `meterRelocks`. (11) of 5, the 32.768 kHz crystal, not already
    stopped: `crystalStops`. (12) of 4, the HOST PLL, in any state: nothing. (13) XTAL32_RECOVER while it is stopped:
    KEEP_RC 0. Where the rules leave a choice, it is the model's: log 29, 66, 67, 73. -/
def Obligations.PowerLadder : Prop :=
  (∀ (s : State), mayDescend s = true → exec (.deepAfterExpiry) s = .next (descend s)) ∧
  (∀ (s : State) (n : Nat), wakes s n = true → n ≠ 3 → exec (.wakeSource n) s = .next (rise s)) ∧
  (∀ (s : State), wakes s 3 = true → exec (.wakeSource 3) s = .next (rise (storeField s Reg.pwrAlarm .immediate 0))) ∧
  (∀ (s : State) (p : Nat), p < 4 → s.pwr.deep = some rungTwig → exec (.wakeSequence p) s = .next (portTrains (rise s)
    p)) ∧
  (∀ (s : State) (mv : Nat), s.mode = .seed → mv < 2000 → exec (.vbkLoss mv) s = .next (rtcLost
    { s with pwr := { s.pwr with supplies := s.pwr.supplies.set 5 mv } })) ∧
  (∀ (s : State) (mv : Nat), s.mode ≠ .seed → exec (.vbkLoss mv) s = .next (s)) ∧
  (∀ (s : State), (s.mode != .seed) = true → exec (.clockMonitorFlag 0) s = .next (driveOutputs
    { enterFailed s 0x04 0 with pwr := { (enterFailed s 0x04 0).pwr with sprigStopped := true } })) ∧
  (∀ (s : State), (s.mode != .seed) = true → s.pwr.deep = none → exec (.clockMonitorFlag 1) s = .next (lfRelocks s)) ∧
  (∀ (s : State), (s.mode != .seed) = true → rung s ≤ 1 → exec (.clockMonitorFlag 2) s = .next (rfRelocks s)) ∧
  (∀ (s : State), (s.mode != .seed) = true → rung s ≤ 1 → exec (.clockMonitorFlag 3) s = .next (meterRelocks s)) ∧
  (∀ (s : State), (s.mode != .seed) = true → s.stat Reg.pwrStatusKeepRc = 0 → exec (.clockMonitorFlag 5) s = .next
    (crystalStops s)) ∧
  (∀ (s : State), exec (.clockMonitorFlag 4) s = .next (s)) ∧
  (∀ (s : State), s.stat Reg.pwrStatusKeepRc = 1 → exec (.xtal32Recover) s = .next (s.setStat Reg.pwrStatusKeepRc 0))

/-- What ring 13's SET_RTC and RTC_NONCE and rings 11 and 14 do, clause by clause; a command waits, undisturbed, on its
    served ring. The result of MONITORS and of FAULTS is not stated by the spec and is a free value (log 69). (1)
    SET_RTC of a value below 2^32 with 0 or 16 bytes of data, the RTC not set: the RTC takes it (`rtcSets`). (2) the RTC
    set and the value a small step that is due: taken, the instant of the step noted. (3) any other value, authorised:
    the nonce is gone, the value taken. (4) not authorised: the nonce is gone, RTC_REFUSED. One authorisation job runs
    in 3 and 4 where a nonce was held. (5) RTC_NONCE of 16 bytes: a value is drawn, kept with its instant, and written.
    (6) RTC_NONCE_EXPIRY: it is gone. (7) MONITORS of 32 bytes: the bytes of R418 are written, with some result. (8)
    FAULTS of 256 bytes: the fault history, oldest first, filled with zeros, with some result. (9)
    SUPERVISION_EVENT_BUFFER of at least 32 bytes: posted. Where the rules leave a choice, it is the model's: log 69,
    74, 83. A command addressed to a role that is vacant is held instead (R408): log 86. -/
def Obligations.RealTimeClockAndReports : Prop :=
  (∀ (s : State) (tag : Nat) (d : Desc) (data : Bytes), Waiting s 13 0x02 tag d → d.p0 < 2 ^ 32 → (d.len = 0 || d.len =
    16) = true → d.len = data.length → s.rtcSet = false → exec (.setRtc tag data) s = .next (rtcSets s tag d.p0)) ∧
  (∀ (s : State) (tag : Nat) (d : Desc) (data : Bytes), Waiting s 13 0x02 tag d → d.p0 < 2 ^ 32 → (d.len = 0 || d.len =
    16) = true → d.len = data.length → s.rtcSet = true → smallStepAllowed s d.p0 = true → exec (.setRtc tag data) s =
    .next (rtcSets { s with pwr := { s.pwr with smallStep := some s.now } } tag d.p0)) ∧
  (∀ (s : State) (tag : Nat) (d : Desc) (data : Bytes), Waiting s 13 0x02 tag d → d.p0 < 2 ^ 32 → (d.len = 0 || d.len =
    16) = true → d.len = data.length → s.rtcSet = true → smallStepAllowed s d.p0 = false → rtcAuthorised s d.p0 data =
    true → exec (.setRtc tag data) s = .next (rtcSets ((fun u : State =>
    { u with pwr := { u.pwr with rtcNonce := none } }) (authJob s.pwr.rtcNonce.isSome s)) tag d.p0)) ∧
  (∀ (s : State) (tag : Nat) (d : Desc) (data : Bytes), Waiting s 13 0x02 tag d → d.p0 < 2 ^ 32 → (d.len = 0 || d.len =
    16) = true → d.len = data.length → s.rtcSet = true → smallStepAllowed s d.p0 = false → rtcAuthorised s d.p0 data =
    false → exec (.setRtc tag data) s = .next (complete ((fun u : State =>
    { u with pwr := { u.pwr with rtcNonce := none } }) (authJob s.pwr.rtcNonce.isSome s)) 13 tag stRtcRefused 0)) ∧
  (∀ (s : State) (tag : Nat) (d : Desc), Waiting s 13 0x03 tag d → d.len = 16 → exec (.rtcNonce tag) s = .next ((fun (p
    : Nat × State) => completeData { p.2 with pwr := { p.2.pwr with rtcNonce := some (p.1, p.2.now) } } 13 d (beBytes 16
    p.1) 0) s.draw)) ∧
  (∀ (s : State), s.pwr.rtcNonce.isSome = true → exec (.rtcNonceExpiry) s = .next
    ({ s with pwr := { s.pwr with rtcNonce := none } })) ∧
  (∀ (s : State) (tag : Nat) (d : Desc), rolesThere s (.monitors tag) = true → Waiting s 14 0x01 tag d → d.len = 32 → ∃
    t, exec (.monitors tag) s = .next t ∧ ∃ r, t = completeData s 14 d (monitorBytes s) r) ∧
  (∀ (s : State) (tag : Nat) (d : Desc), rolesThere s (.faults tag) = true → Waiting s 14 0x02 tag d → d.len = 256 → ∃
    t, exec (.faults tag) s = .next t ∧ ∃ r, t = completeData s 14 d (padTo 256 (s.pwr.history.reverse.flatMap
    faultBytes)) r) ∧
  (∀ (s : State) (tag : Nat) (d : Desc), rolesThere s (.supervisionEventBuffer tag) = true → Waiting s 11 0x01 tag d →
    32 ≤ d.len → exec (.supervisionEventBuffer tag) s = .next (markTaken s 11 tag false))

/-- What faults, resets and the start do, clause by clause. (1) ENGINE_CHECKPOINT of a role below 14 but 2 that is there
    (`roleThere`), on a running device: its instant is noted. (2) of role 2: and the coil's phase is kept. (3) ECC_ERROR
    outside SEED in a memory below 5, single: counted. (4) double: `doubleError`. (5) ENGINE_FAULT of a role below 14 on
    a running device: `engineFaults`. (6) SPARE_TAKEOVER of a vacant role on a running device, loaded: `takesOver`. (7)
    not loaded: FAILED with cause 0x07. (8) APP_FAULT in service or in RECOVERY: `appRestarts`. (9) SPARE_MEMORY_TEST
    with the spare free, failed: SPARE_BAD and self-test bit 4 failed. (10) passed: self-test bit 4 passed. (11)
    POWER_ON_RESET, in any state: `powerOn` with VDD_IO's level, whether VBK held, and the other supplies' levels. (12)
    NRST outside SEED: a reset with cause 0x02. (13) BROWN_OUT with a failed supply at a level that ends its failure,
    VDD_CORE at 700 mV or more: the level is held, a reset with cause 0x03. (14) VDD_CORE below 700 mV: the same, at
    SEED. (15) at a level that does not: nothing. (16) PWR_RESTART, in any state: `restartWritten`. (17) AUTO_RESTART
    where R412 allows it: its second is kept with those of the last 86,400 s, a reset with cause 0x06. (18)
    WATCHDOG_RESET on a running device: a reset with cause 0x07. (19) START_SEQUENCE in STARTING with TRNG_READY, after
    NVWP is sampled and the clock source is taken, with code that verifies: `startRuns`. (20) with none: `recovers` on
    the loader copy of R373. Where the rules leave a choice, it is the model's: log 60, 62, 63, 68, 72, 75, 76, 86, 87,
    103, 130, 137, 138. A command addressed to a role that is vacant is held instead (R408): log 86. -/
def Obligations.FaultsAndResets : Prop :=
  (∀ (s : State) (r : Nat), s.running = true → r < 14 → s.roleThere r = true → r ≠ 2 → exec (.engineCheckpoint r) s =
    .next ({ s with pwr := { s.pwr with checkpoints := tblPut 0 s.pwr.checkpoints r (s.now + 1) } })) ∧
  (∀ (s : State), s.running = true → s.roleThere 2 = true → exec (.engineCheckpoint 2) s = .next ((fun u : State =>
    { u with tpx := { u.tpx with mark := u.tpx.phase } })
    { s with pwr := { s.pwr with checkpoints := tblPut 0 s.pwr.checkpoints 2 (s.now + 1) } })) ∧
  (∀ (s : State) (m u : Nat), (s.mode != .seed) = true → m < 5 → exec (.eccError m u false) s = .next (s.bump
    Reg.pwrEccCorrected)) ∧
  (∀ (s : State) (m u : Nat), (s.mode != .seed) = true → m < 5 → exec (.eccError m u true) s = .next (doubleError s m
    u)) ∧
  (∀ (s : State) (r : Nat), s.running = true → r < 14 → exec (.engineFault r) s = .next (engineFaults s r)) ∧
  (∀ (s : State) (v : VacantRole), s.pwr.vacant = some v → s.running = true → exec (.spareTakeover true) s = .next
    (takesOver s v.role)) ∧
  (∀ (s : State) (v : VacantRole), s.pwr.vacant = some v → s.running = true → exec (.spareTakeover false) s = .next
    (enterFailed s 0x07 v.role)) ∧
  (∀ (s : State), (s.running || s.mode == .recovery) = true → exec (.appFault) s = .next (appRestarts s)) ∧
  (∀ (s : State), rolesThere s (.spareMemoryTest false) = true → s.running = true → s.upd.spareRole = none →
    s.pwr.vacant = none → exec (.spareMemoryTest false) s = .next (selftestBit (s.setStat Reg.pwrStatusSpareBad 1)
    (s.pwr.selftests.map SelfTest.tag) 4 false)) ∧
  (∀ (s : State), rolesThere s (.spareMemoryTest true) = true → s.running = true → s.upd.spareRole = none → s.pwr.vacant
    = none → exec (.spareMemoryTest true) s = .next (selftestBit s (s.pwr.selftests.map SelfTest.tag) 4 true)) ∧
  (∀ (s : State) (v : Nat) (b : Bool) (l : List Nat), exec (.powerOnReset v b l) s = .next (powerOn v b l s)) ∧
  (∀ (s : State), s.mode ≠ .seed → exec (.nrst) s = .next (resetDevice 0x02 s)) ∧
  (∀ (s : State) (k mv : Nat), s.pwr.failedSupply = some k → (s.mode != .seed) = true → failureEnds s k mv = true → (k ≠
    0 ∨ 700 ≤ mv) → exec (.brownOut mv) s = .next (resetDevice 0x03
    { s with pwr := { s.pwr with supplies := s.pwr.supplies.set k mv } })) ∧
  (∀ (s : State) (mv : Nat), s.pwr.failedSupply = some 0 → (s.mode != .seed) = true → mv < 700 → exec (.brownOut mv) s =
    .next
    ({ resetDevice 0x03 { s with pwr := { s.pwr with supplies := s.pwr.supplies.set 0 mv } } with mode := .seed })) ∧
  (∀ (s : State) (k mv : Nat), s.pwr.failedSupply = some k → failureEnds s k mv = false → exec (.brownOut mv) s = .next
    (s)) ∧
  (∀ (s : State), exec (.pwrRestart) s = .next (restartWritten s)) ∧
  (∀ (s : State), autoRestartAllowed s = true → exec (.autoRestart) s = .next (resetDevice 0x06
    { s with pwr := { s.pwr with autoRestarts := s.rtc :: s.pwr.autoRestarts.filter (fun t => decide (s.rtc < t + 86400)) } }))
    ∧
  (∀ (s : State), s.running = true → exec (.watchdogReset) s = .next (resetDevice 0x07 s)) ∧
  (∀ (s : State) (r : StartResult) (c : Nat), s.mode = .starting → s.stat Reg.cipStatusTrngReady = 1 → codeVerified r
    (sourceTaken r.swing38 { s with nvwp := r.nvwp }) = some c → exec (.startSequence r) s = .next (startRuns r c
    (sourceTaken r.swing38 { s with nvwp := r.nvwp }))) ∧
  (∀ (s : State) (r : StartResult), s.mode = .starting → s.stat Reg.cipStatusTrngReady = 1 → codeVerified r (sourceTaken
    r.swing38 { s with nvwp := r.nvwp }) = none → exec (.startSequence r) s = .next (recovers (loaderChosen (sourceTaken
    r.swing38 { s with nvwp := r.nvwp }) r.loader0 r.loader1) (sourceTaken r.swing38 { s with nvwp := r.nvwp })))

/-- For every command c, every queue rest and every state s: one step of s with c in front of rest is the effect of c on
    s with rest waiting. -/
def Obligations.StepTakesTheFront : Prop :=
  ∀ (c : Instr) (rest : List Instr) (s : State), step { s with pending := c :: rest } = exec c { s with pending := rest }

/-- On an empty queue a step delivers the first of the inputs that were held for a role that is there again (R408): the
    effect of that command, the inputs behind it held on, before what it holds itself. With none due it is one tick: the
    model's clock moves by one; the RTC's units by 4,096, by what the RC oscillator slips while KEEP runs from it (a
    free value within 1.5 %, R398) and by the KEEP cycle of 125 units that cancels the crystal's error once that has run
    up to one (05 R122), the RTC second by one at each 4,096,000 of them; fabric time by 1,000 us while no deep rung is
    in force; the UWB counter by one millisecond of its unit at BLOOM and LEAF, 0 below; the queue, the held fields, the
    rings and the store stay. Then a life-cycle transition that waits for receipts goes on if none is owed
    (`lcProceeds`), and a live ACTIVATE whose refill has ended (`refillEnds`), which do nothing where neither waits.
    Where the rules leave a choice, it is the model's: log 128, 136. -/
def Obligations.IdleStepTicks : Prop :=
  ∀ (s : State), s.pending = [] → (∀ (c : Instr) (rest : List Instr), inputDue s = some (c, rest) → step s = inputsKept
    rest (exec c { s with pwr := { s.pwr with inputs := [] } })) ∧ (inputDue s = none → ∃ (u : State) (ph : Nat), step s
    = .next (refillEnds (lcProceeds u)) ∧ (s.cip.lcWaits = none → s.upd.act = none → refillEnds (lcProceeds u) = u) ∧
    u.now = s.now + 1 ∧ u.pending = [] ∧ ph = ((s.pwr.rtcPhase + 4096 : Nat) + rcSlip s + rtcAdjust (s.pwr.rtcDrift + 32
    * s.sgr.rtcErr) * 125 : Int).toNat ∧ u.pwr.rtcPhase = (if 4096000 ≤ ph then ph - 4096000 else ph) ∧ u.pwr.rtc = (if
    4096000 ≤ ph then (s.pwr.rtc + 1) % 2 ^ 32 else s.pwr.rtc) ∧ u.fab.time = (if s.pwr.deep.isSome then s.fab.time else
    (s.fab.time + 1000) % 2 ^ 48) ∧ u.uwb.time = (if rung s ≤ 1 then (s.uwb.time + 63897600) % 2 ^ 40 else 0) ∧
    u.heldCells = s.heldCells ∧ u.rings = s.rings ∧ u.nvs = s.nvs)

/-- At reset every field reads the reset value of its table as held, in force and as status; every ring pair is DISABLED
    with the sizes, coalescing, vector, pointers and phase of the ring registers' reset column; every LF channel is
    UNTESTED; no key slot holds a key; the first session and receipt numbers are 1; nothing has left the device and no
    command waits. Where the rules leave a choice, it is the model's: log 7. -/
def Obligations.ResetState : Prop :=
  (∀ (f : Fld), State.reset.held f = f.dflt ∧ State.reset.eff f = f.dflt ∧ State.reset.stat f = f.dflt) ∧ (∀ n : Nat,
    (State.reset.ring n).phase = .disabled ∧ (State.reset.ring n).sqk = 4 ∧ (State.reset.ring n).cqk = 4 ∧
    (State.reset.ring n).intEn = false ∧ (State.reset.ring n).coalCnt = 1 ∧ (State.reset.ring n).coalTime = 50 ∧
    (State.reset.ring n).sqBase = 0 ∧ (State.reset.ring n).cqBase = 0 ∧ (State.reset.ring n).vector = none ∧
    (State.reset.ring n).sqHead = 0 ∧ (State.reset.ring n).sqTail = 0 ∧ (State.reset.ring n).cqTail = 0 ∧
    (State.reset.ring n).cqHead = 0 ∧ (State.reset.ring n).cqPhase = true ∧ (State.reset.ring n).outstanding = []) ∧ (∀
    c : Nat, (tblGet LfChan.reset State.reset.lf.chans c).base = .untested) ∧ (∀ k : Nat, (State.reset.slot k).masked =
    0 ∧ (State.reset.slot k).attr = 0) ∧ State.reset.cip.loaded = none ∧ State.reset.cip.remask = 0 ∧
    State.reset.rel.next = 1 ∧ State.reset.mtr.rcptNext = 1 ∧ State.reset.out = [] ∧ State.reset.pending = []

/-- At reset every ring pair holds legal sizes, coalescing, vector and bases, and pointers inside its rings; every area
    of the store is in form (`AreaForm`). -/
def Obligations.RingsLegalAtReset : Prop :=
  RingsLegal State.reset ∧ StoreForm State.reset

/-- In every state whose rings are legal (sizes 4 to 16 with the submission ring no larger, coalescing and vector within
    their ranges, bases 4 KiB-aligned, at most 64 descriptors outstanding, pointers inside their rings while not
    DISABLED), every step, whatever the command, leaves them legal. In every state whose store is in form (in each area
    the write sector and the count of taken sectors lie within the area, a sector being erased is taken, no header of
    the write sector is to be reclaimed, and no record lies in a free sector), every step, whatever the command, leaves
    it in form. -/
def Obligations.RingsStayLegal : Prop :=
  ∀ (s t : State), step s = .next t → (RingsLegal s → RingsLegal t) ∧ (StoreForm s → StoreForm t)

/-- In every state, every step, whatever the command, keeps the device identifier, never lowers the version floor, and
    leaves the application key and the device-unique key as they are once they are fused. -/
def Obligations.OneTimeFuses : Prop :=
  ∀ (s t : State), step s = .next t → t.cip.deviceId = s.cip.deviceId ∧ s.upd.floor ≤ t.upd.floor ∧ (s.upd.appKey ≠ 0 →
    t.upd.appKey = s.upd.appKey) ∧ (s.cip.uniqueKey.isSome = true → t.cip.uniqueKey = s.cip.uniqueKey)

/-- Every step leaves the queue's rest, never adds a command to it, and advances the model's clock by one tick exactly
    when the queue was empty and no held input was due (log 86): a command's own duration is not counted. -/
def Obligations.QueueAndClock : Prop :=
  ∀ (s t : State), step s = .next t → t.pending = s.pending.tail ∧ t.now = (if s.pending = [] ∧ inputDue s = none then
    s.now + 1 else s.now)

/-- For every command and every state: each part of the device that the frame table does not list for the command (ring
    pairs, host interface, fabric, status fields, output, nonce service, event number, mode, held fields, fields in
    force, NVWP, test port, boundary, store, power, keys, Holly, release, metering, LF field, cycle, each radio,
    transponder, update) is unchanged by it, and so is the queue. A command addressed to a role that is vacant changes
    nothing but the inputs held for that role, where it comes last (R408; log 86). -/
def Obligations.FramesOfCommands : Prop :=
  ∀ (c : Instr) (s t : State), exec c s = .next t → (rolesThere s c = true → Untouched (touches c) s t ∧ t.pending =
    s.pending) ∧ (rolesThere s c = false → t = { s with pwr := { s.pwr with inputs := s.pwr.inputs ++ [c] } })

/-- No command faults and none is refused: in every state each of them answers a next state (an event or a command that
    its rules do not accept in that state leaves it as it is or completes with the status the rules give). A command
    addressed to a role that waits for the spare, or whose inputs are still being delivered, is held behind those before
    it (R408; log 86). Where the rules leave a choice, it is the model's: log 9, 86. -/
def Obligations.EveryCommandCompletes : Prop :=
  (∀ (c : Instr) (s : State), ∃ t, exec c s = .next t) ∧ (∀ (c : Instr) (s : State), rolesThere s c = false → exec c s =
    .next (inputHeld s c))

/-- A value that fits a field's width is read back after it is held, brought into force or set as a status; fields of
    another place keep their values, and the three views do not disturb one another. -/
def Obligations.FieldReadAfterWrite : Prop :=
  (∀ (s : State) (f : Fld) (v : Nat), v < 2 ^ f.width → (s.setHeld f v).held f = v ∧ (s.setForce f v).eff f = v ∧
    (s.setStat f v).stat f = v) ∧ (∀ (s : State) (f g : Fld) (v : Nat), g.key ≠ f.key → (s.setHeld f v).held g = s.held
    g ∧ (s.setForce f v).eff g = s.eff g ∧ (s.setStat f v).stat g = s.stat g) ∧ (∀ (s : State) (f g : Fld) (v : Nat),
    (s.setHeld f v).eff g = s.eff g ∧ (s.setHeld f v).stat g = s.stat g ∧ (s.setForce f v).held g = s.held g ∧
    (s.setStat f v).eff g = s.eff g)

/-- Whatever the command, status and result, and whether the completion goes out directly, waits in D3hot or leaves by
    proxy frames: every other ring pair, the mode, the fields, the keys (key slots, counters and life cycle: all but the
    nonce service), the store and the release controller stay. -/
def Obligations.RingsApart : Prop :=
  ∀ (s : State) (n m tag status result : Nat), m ≠ n → (complete s n tag status result).ring m = s.ring m ∧ (complete s
    n tag status result).mode = s.mode ∧ (complete s n tag status result).heldCells = s.heldCells ∧ (complete s n tag
    status result).forceCells = s.forceCells ∧ (complete s n tag status result).rel = s.rel ∧ (complete s n tag status
    result).nvs = s.nvs ∧ (complete s n tag status result).cip =
    { s.cip with drbg := (complete s n tag status result).cip.drbg, reseedDue := (complete s n tag status result).cip.reseedDue }

/-- On a ring that is neither DISABLED nor in ERROR, of a device whose rings are not silent, a completion is 16 bytes
    written at the completion ring's tail: the tag at 0, the status at 2, the phase bit alone at 3, the submission head
    at 4, zero at 6 and the result at 8, each with its least significant byte first; after it the ring's interrupt may
    be signalled. -/
def Obligations.CompletionLayout : Prop :=
  ∀ (s : State) (n tag status result : Nat) (noInt : Bool), tag < 2 ^ 16 → status < 2 ^ 8 → result < 2 ^ 64 → (s.ring
    n).sqHead < 2 ^ 16 → (s.ring n).phase ≠ .error → (s.ring n).phase ≠ .disabled → ringsSilent s = false → ∃ (data :
    Bytes) (r : RingState), data.length = 16 ∧ leAt data 0 2 = tag ∧ leAt data 2 1 = status ∧ leAt data 3 1 = (if
    (s.ring n).cqPhase then 1 else 0) ∧ leAt data 4 2 = (s.ring n).sqHead ∧ leAt data 6 2 = 0 ∧ leAt data 8 8 = result ∧
    (writeCompletion s n tag status result noInt = (dma s n ((s.ring n).cqBase + 16 * (s.ring n).cqTail) data).setRing n
    r ∨ writeCompletion s n tag status result noInt = signal ((dma s n ((s.ring n).cqBase + 16 * (s.ring n).cqTail)
    data).setRing n r) n (ringVector s n))

/-- Of every length n, every number below 256^n written in n bytes, least significant byte first (host memory,
    descriptors, completions, blobs) or most significant byte first (the air, the transponder link, the fabric), reads
    back as itself, and the two byte strings are each other's reverse. -/
def Obligations.ByteOrders : Prop :=
  ∀ (n w : Nat), w < 256 ^ n → (leBytes n w).length = n ∧ leAt (leBytes n w) 0 n = w ∧ beAt (beBytes n w) 0 n = w ∧
    beBytes n w = (leBytes n w).reverse

/-- A descriptor whose fields are laid out in 32 bytes at offsets 0, 1, 2, 4, 8, 16 and 24, each with its least
    significant byte first, is fetched with exactly those fields, at every value that fits. -/
def Obligations.DescriptorLayout : Prop :=
  ∀ (op flags tag len addr p0 p1 : Nat), op < 2 ^ 8 → flags < 2 ^ 8 → tag < 2 ^ 16 → len < 2 ^ 32 → addr < 2 ^ 64 → p0 <
    2 ^ 64 → p1 < 2 ^ 64 → descOf (leBytes 1 op ++ leBytes 1 flags ++ leBytes 2 tag ++ leBytes 4 len ++ leBytes 8 addr
    ++ leBytes 8 p0 ++ leBytes 8 p1) = ⟨op, flags, tag, len, addr, p0, p1⟩

/-- On a running device whose spare carries a role, or waits to take one over, a fault of the engine of any role leaves
    the device FAILED, with the roles on the engines they were on and the images as they were. -/
def Obligations.SecondEngineFault : Prop :=
  ∀ (s : State) (role : Nat), s.mode = .running → role < 14 → (s.upd.spareRole.isSome || s.pwr.vacant.isSome) = true → ∃
    t, exec (.engineFault role) s = .next t ∧ t.mode = .failed ∧ t.upd.spareRole = s.upd.spareRole ∧ t.upd.engmap =
    s.upd.engmap ∧ t.upd.running = s.upd.running

/-- An accepted REGREC_WRITE whose 72 bytes have a field outside the legal values of R128 completes REGREC_INVALID
    (0x35) and writes nothing: no record, no store request, no clamp. With every field legal, the bytes are requested of
    the store exactly as they are. (A command addressed to SE3 while that role is vacant is held instead, R408: log 86.)
    -/
def Obligations.RegulatoryRecordChecked : Prop :=
  (∀ (s : State) (tag : Nat) (data : Bytes) (d : Desc), rolesThere s (.regrecWrite tag data) = true → Waiting s 5 0x05
    tag d → d.len = 72 → data.length = 72 → regrecAccepted s = true → s.nvwp = false → nvBusy s 5 = false → regRecLegal
    data = false → ∃ t, exec (.regrecWrite tag data) s = .next t ∧ t = complete s 5 tag 0x35 0 ∧ t.nvs = s.nvs ∧ t.rad =
    s.rad ∧ t.heldCells = s.heldCells ∧ t.hif.clampLog = s.hif.clampLog) ∧ (∀ (s : State) (tag : Nat) (data : Bytes) (d
    : Desc), rolesThere s (.regrecWrite tag data) = true → Waiting s 5 0x05 tag d → d.len = 72 → data.length = 72 →
    regrecAccepted s = true → s.nvwp = false → nvBusy s 5 = false → regRecLegal data = true → exec (.regrecWrite tag
    data) s = .next (nvRequest (markTaken s 5 tag false) (critPair 0x0010 false (.regRec data)) (.regRec tag data)))

/-- Whatever the state and the strength: an announce of the wrong length or whose last byte is not the CRC-8 of the
    others leaves the contexts, the number allocated, the lock-outs with every failure count, and what has left the
    device as they were. -/
def Obligations.CorruptAnnounce : Prop :=
  ∀ (s : State) (rssi : Int) (frame : Bytes), (frame.length ≠ 31 ∨ byteAt frame 30 ≠ crc8 (frame.take 30)) → ∃ t, exec
    (.announceFrame rssi frame) s = .next t ∧ t.cyc.ctxs = s.cyc.ctxs ∧ t.cyc.allocated = s.cyc.allocated ∧ t.aut =
    s.aut ∧ t.out = s.out ∧ t.rel = s.rel

/-- A pattern that starts sends, keeps and shows the poll number that follows the previous one modulo 2^32; where no
    pattern has started since the start, the number is the next value of the nonce service modulo 2^32. Every reset that
    leads to a start forgets the last poll number. -/
def Obligations.PollNumbers : Prop :=
  (∀ (s : State) (n a k : Nat) (b : Option Nat), s.lf.pollNum = some k → (patternStarts s n a b).lf.pollNum = some ((k +
    1) % 2 ^ 32) ∧ (patternStarts s n a b).stat Reg.lfPollnum = (k + 1) % 2 ^ 32 ∧ ∃ p, (patternStarts s n a
    b).lf.pattern = some p ∧ p.num = (k + 1) % 2 ^ 32) ∧ (∀ (s : State) (n a : Nat) (b : Option Nat), s.lf.pollNum =
    none → (patternStarts s n a b).lf.pollNum = some (s.cip.drbg.next.1 % 2 ^ 32) ∧ ∃ p, (patternStarts s n a
    b).lf.pattern = some p ∧ p.num = s.cip.drbg.next.1 % 2 ^ 32) ∧ (∀ (s : State) (cause : Nat), (resetDevice cause
    s).lf.pollNum = none) ∧ State.reset.lf.pollNum = none
end

