-- ==== Sys2Proof/Laws/Cells.lean ====
section
/-! SUPPORT. The laws of sparse tables: a read after a write, other keys untouched, and the canonical form kept. -/
namespace Sys2Proof.Machine

variable {α : Type}

@[simp] theorem tblGet_nil (d : α) (k : Nat) : tblGet d [] k = d := rfl

theorem tblGet_tblErase_same (d : α) (t : Tbl α) (k : Nat) : tblGet d (tblErase t k) k = d := by
  induction t with
  | nil => rfl
  | cons e t ih =>
    obtain ⟨k', v⟩ := e
    simp only [tblErase]
    split
    · exact ih
    · simp [tblGet, *]

theorem tblGet_tblErase_other (d : α) (t : Tbl α) {k j : Nat} (h : j ≠ k) : tblGet d (tblErase t k) j = tblGet d t j := by
  induction t with
  | nil => rfl
  | cons e t ih =>
    obtain ⟨k', v⟩ := e
    simp only [tblErase]
    split
    · next hk => subst hk; simp [tblGet, ih, Ne.symm h]
    · simp [tblGet, ih]

theorem tblGet_tblInsert_same (d : α) (t : Tbl α) (k : Nat) (v : α) : tblGet d (tblInsert t k v) k = v := by
  induction t with
  | nil => simp [tblInsert, tblGet]
  | cons e t ih =>
    obtain ⟨k', w⟩ := e
    simp only [tblInsert]
    split
    · simp [tblGet]
    · split
      · simp [tblGet]
      · simp [tblGet, ih]; omega

theorem tblGet_tblInsert_other (d : α) (t : Tbl α) {k j : Nat} (v : α) (h : j ≠ k) :
    tblGet d (tblInsert t k v) j = tblGet d t j := by
  induction t with
  | nil => simp [tblInsert, tblGet, Ne.symm h]
  | cons e t ih =>
    obtain ⟨k', w⟩ := e
    simp only [tblInsert]
    split
    · simp [tblGet, Ne.symm h]
    · split
      · next hk => subst hk; simp [tblGet, Ne.symm h]
      · simp [tblGet, ih]

theorem mem_tblErase {t : Tbl α} {k : Nat} {e : Nat × α} (h : e ∈ tblErase t k) : e ∈ t := by
  induction t with
  | nil => exact h
  | cons x t ih =>
    obtain ⟨k', v⟩ := x
    simp only [tblErase] at h
    split at h
    · exact List.mem_cons_of_mem _ (ih h)
    · rcases List.mem_cons.mp h with h | h
      · exact h ▸ List.mem_cons_self ..
      · exact List.mem_cons_of_mem _ (ih h)

theorem mem_tblInsert {t : Tbl α} {k : Nat} {v : α} {e : Nat × α} (h : e ∈ tblInsert t k v) : e = (k, v) ∨ e ∈ t := by
  induction t with
  | nil => simpa [tblInsert] using h
  | cons x t ih =>
    obtain ⟨k', w⟩ := x
    simp only [tblInsert] at h
    split at h
    · simpa using h
    · split at h
      · rcases List.mem_cons.mp h with h | h
        · exact .inl h
        · exact .inr (List.mem_cons_of_mem _ h)
      · rcases List.mem_cons.mp h with h | h
        · exact .inr (h ▸ List.mem_cons_self ..)
        · exact (ih h).imp_right (List.mem_cons_of_mem _)

variable [DecidableEq α]

/-- A read after a write gives the value written, whatever the table. -/
@[simp] theorem tblGet_tblPut_same (d : α) (t : Tbl α) (k : Nat) (v : α) : tblGet d (tblPut d t k v) k = v := by
  unfold tblPut
  split
  · next h => rw [tblGet_tblErase_same, h]
  · exact tblGet_tblInsert_same d t k v

/-- A write leaves every other key alone. -/
theorem tblGet_tblPut_other (d : α) (t : Tbl α) {k j : Nat} (v : α) (h : j ≠ k) :
    tblGet d (tblPut d t k v) j = tblGet d t j := by
  unfold tblPut
  split
  · exact tblGet_tblErase_other d t h
  · exact tblGet_tblInsert_other d t v h

/-- Reading another key, whatever value the reader takes an unlisted key to have. -/
theorem tblGet_tblPut_apart (d e : α) (t : Tbl α) {k j : Nat} (v : α) (h : j ≠ k) : tblGet e (tblPut d t k v) j = tblGet e t j := by
  unfold tblPut
  split
  · exact tblGet_tblErase_other e t h
  · exact tblGet_tblInsert_other e t v h

theorem tblWf_tblErase (d : α) (t : Tbl α) (k : Nat) (h : tblWf d t = true) : tblWf d (tblErase t k) = true := by
  induction t with
  | nil => rfl
  | cons x t ih =>
    obtain ⟨k', v⟩ := x
    simp only [tblWf, Bool.and_eq_true, decide_eq_true_eq, List.all_eq_true] at h
    simp only [tblErase]
    split
    · exact ih h.2
    · simp only [tblWf, Bool.and_eq_true, decide_eq_true_eq, List.all_eq_true]
      exact ⟨⟨h.1.1, fun e he => h.1.2 e (mem_tblErase he)⟩, ih h.2⟩

theorem tblWf_tblInsert (d : α) (t : Tbl α) (k : Nat) {v : α} (hv : v ≠ d) (h : tblWf d t = true) :
    tblWf d (tblInsert t k v) = true := by
  induction t with
  | nil => simp [tblInsert, tblWf, hv]
  | cons x t ih =>
    obtain ⟨k', w⟩ := x
    have h' := h
    simp only [tblWf, Bool.and_eq_true, decide_eq_true_eq, List.all_eq_true] at h
    simp only [tblInsert]
    split
    · next hk =>
      rw [tblWf]
      simp only [Bool.and_eq_true, decide_eq_true_eq, List.all_eq_true]
      refine ⟨⟨hv, fun e he => ?_⟩, h'⟩
      rcases List.mem_cons.mp he with rfl | he
      · exact hk
      · exact Nat.lt_trans hk (h.1.2 e he)
    · split
      · next hk =>
        subst hk
        simp only [tblWf, Bool.and_eq_true, decide_eq_true_eq, List.all_eq_true]
        exact ⟨⟨hv, h.1.2⟩, h.2⟩
      · simp only [tblWf, Bool.and_eq_true, decide_eq_true_eq, List.all_eq_true]
        refine ⟨⟨h.1.1, fun e he => ?_⟩, ih h.2⟩
        rcases mem_tblInsert he with rfl | he
        · show k' < k; omega
        · exact h.1.2 e he

/-- A write keeps the canonical form. -/
theorem tblWf_tblPut (d : α) (t : Tbl α) (k : Nat) (v : α) (h : tblWf d t = true) : tblWf d (tblPut d t k v) = true := by
  unfold tblPut
  split
  · exact tblWf_tblErase d t k h
  · next hv => exact tblWf_tblInsert d t k hv h

end Sys2Proof.Machine
end

