-- ==== Sys2Proof/Laws/State.lean ====
section
/-! SUPPORT. What each named update of the state does to each field of it: one rule per field and update, true by definition, so
that no proof unfolds a record update; then a value read back after it is written. -/
namespace Sys2Proof.Machine

set_option Elab.async false

/-! ### `State.setHeld` -/

@[simp] theorem State.setHeld_now (s : State) (f : Fld) (v : Nat) : (s.setHeld f v).now = s.now := rfl
@[simp] theorem State.setHeld_mode (s : State) (f : Fld) (v : Nat) : (s.setHeld f v).mode = s.mode := rfl
@[simp] theorem State.setHeld_heldCells (s : State) (f : Fld) (v : Nat) :
    (s.setHeld f v).heldCells = tblPut f.dflt s.heldCells f.key (v % 2 ^ f.width) := rfl
@[simp] theorem State.setHeld_forceCells (s : State) (f : Fld) (v : Nat) : (s.setHeld f v).forceCells = s.forceCells := rfl
@[simp] theorem State.setHeld_statCells (s : State) (f : Fld) (v : Nat) : (s.setHeld f v).statCells = s.statCells := rfl
@[simp] theorem State.setHeld_nvwp (s : State) (f : Fld) (v : Nat) : (s.setHeld f v).nvwp = s.nvwp := rfl
@[simp] theorem State.setHeld_tap (s : State) (f : Fld) (v : Nat) : (s.setHeld f v).tap = s.tap := rfl
@[simp] theorem State.setHeld_boundaryDue (s : State) (f : Fld) (v : Nat) : (s.setHeld f v).boundaryDue = s.boundaryDue := rfl
@[simp] theorem State.setHeld_hif (s : State) (f : Fld) (v : Nat) : (s.setHeld f v).hif = s.hif := rfl
@[simp] theorem State.setHeld_rings (s : State) (f : Fld) (v : Nat) : (s.setHeld f v).rings = s.rings := rfl
@[simp] theorem State.setHeld_nvs (s : State) (f : Fld) (v : Nat) : (s.setHeld f v).nvs = s.nvs := rfl
@[simp] theorem State.setHeld_pwr (s : State) (f : Fld) (v : Nat) : (s.setHeld f v).pwr = s.pwr := rfl
@[simp] theorem State.setHeld_cip (s : State) (f : Fld) (v : Nat) : (s.setHeld f v).cip = s.cip := rfl
@[simp] theorem State.setHeld_aut (s : State) (f : Fld) (v : Nat) : (s.setHeld f v).aut = s.aut := rfl
@[simp] theorem State.setHeld_rel (s : State) (f : Fld) (v : Nat) : (s.setHeld f v).rel = s.rel := rfl
@[simp] theorem State.setHeld_mtr (s : State) (f : Fld) (v : Nat) : (s.setHeld f v).mtr = s.mtr := rfl
@[simp] theorem State.setHeld_lf (s : State) (f : Fld) (v : Nat) : (s.setHeld f v).lf = s.lf := rfl
@[simp] theorem State.setHeld_cyc (s : State) (f : Fld) (v : Nat) : (s.setHeld f v).cyc = s.cyc := rfl
@[simp] theorem State.setHeld_sgr (s : State) (f : Fld) (v : Nat) : (s.setHeld f v).sgr = s.sgr := rfl
@[simp] theorem State.setHeld_uwb (s : State) (f : Fld) (v : Nat) : (s.setHeld f v).uwb = s.uwb := rfl
@[simp] theorem State.setHeld_rad (s : State) (f : Fld) (v : Nat) : (s.setHeld f v).rad = s.rad := rfl
@[simp] theorem State.setHeld_tpx (s : State) (f : Fld) (v : Nat) : (s.setHeld f v).tpx = s.tpx := rfl
@[simp] theorem State.setHeld_fab (s : State) (f : Fld) (v : Nat) : (s.setHeld f v).fab = s.fab := rfl
@[simp] theorem State.setHeld_upd (s : State) (f : Fld) (v : Nat) : (s.setHeld f v).upd = s.upd := rfl
@[simp] theorem State.setHeld_out (s : State) (f : Fld) (v : Nat) : (s.setHeld f v).out = s.out := rfl
@[simp] theorem State.setHeld_pending (s : State) (f : Fld) (v : Nat) : (s.setHeld f v).pending = s.pending := rfl

/-! ### `State.setForce` -/

@[simp] theorem State.setForce_now (s : State) (f : Fld) (v : Nat) : (s.setForce f v).now = s.now := rfl
@[simp] theorem State.setForce_mode (s : State) (f : Fld) (v : Nat) : (s.setForce f v).mode = s.mode := rfl
@[simp] theorem State.setForce_heldCells (s : State) (f : Fld) (v : Nat) : (s.setForce f v).heldCells = s.heldCells := rfl
@[simp] theorem State.setForce_forceCells (s : State) (f : Fld) (v : Nat) :
    (s.setForce f v).forceCells = tblPut f.dflt s.forceCells f.key (v % 2 ^ f.width) := rfl
@[simp] theorem State.setForce_statCells (s : State) (f : Fld) (v : Nat) : (s.setForce f v).statCells = s.statCells := rfl
@[simp] theorem State.setForce_nvwp (s : State) (f : Fld) (v : Nat) : (s.setForce f v).nvwp = s.nvwp := rfl
@[simp] theorem State.setForce_tap (s : State) (f : Fld) (v : Nat) : (s.setForce f v).tap = s.tap := rfl
@[simp] theorem State.setForce_boundaryDue (s : State) (f : Fld) (v : Nat) : (s.setForce f v).boundaryDue = s.boundaryDue := rfl
@[simp] theorem State.setForce_hif (s : State) (f : Fld) (v : Nat) : (s.setForce f v).hif = s.hif := rfl
@[simp] theorem State.setForce_rings (s : State) (f : Fld) (v : Nat) : (s.setForce f v).rings = s.rings := rfl
@[simp] theorem State.setForce_nvs (s : State) (f : Fld) (v : Nat) : (s.setForce f v).nvs = s.nvs := rfl
@[simp] theorem State.setForce_pwr (s : State) (f : Fld) (v : Nat) : (s.setForce f v).pwr = s.pwr := rfl
@[simp] theorem State.setForce_cip (s : State) (f : Fld) (v : Nat) : (s.setForce f v).cip = s.cip := rfl
@[simp] theorem State.setForce_aut (s : State) (f : Fld) (v : Nat) : (s.setForce f v).aut = s.aut := rfl
@[simp] theorem State.setForce_rel (s : State) (f : Fld) (v : Nat) : (s.setForce f v).rel = s.rel := rfl
@[simp] theorem State.setForce_mtr (s : State) (f : Fld) (v : Nat) : (s.setForce f v).mtr = s.mtr := rfl
@[simp] theorem State.setForce_lf (s : State) (f : Fld) (v : Nat) : (s.setForce f v).lf = s.lf := rfl
@[simp] theorem State.setForce_cyc (s : State) (f : Fld) (v : Nat) : (s.setForce f v).cyc = s.cyc := rfl
@[simp] theorem State.setForce_sgr (s : State) (f : Fld) (v : Nat) : (s.setForce f v).sgr = s.sgr := rfl
@[simp] theorem State.setForce_uwb (s : State) (f : Fld) (v : Nat) : (s.setForce f v).uwb = s.uwb := rfl
@[simp] theorem State.setForce_rad (s : State) (f : Fld) (v : Nat) : (s.setForce f v).rad = s.rad := rfl
@[simp] theorem State.setForce_tpx (s : State) (f : Fld) (v : Nat) : (s.setForce f v).tpx = s.tpx := rfl
@[simp] theorem State.setForce_fab (s : State) (f : Fld) (v : Nat) : (s.setForce f v).fab = s.fab := rfl
@[simp] theorem State.setForce_upd (s : State) (f : Fld) (v : Nat) : (s.setForce f v).upd = s.upd := rfl
@[simp] theorem State.setForce_out (s : State) (f : Fld) (v : Nat) : (s.setForce f v).out = s.out := rfl
@[simp] theorem State.setForce_pending (s : State) (f : Fld) (v : Nat) : (s.setForce f v).pending = s.pending := rfl

/-! ### `State.setStat` -/

@[simp] theorem State.setStat_now (s : State) (f : Fld) (v : Nat) : (s.setStat f v).now = s.now := rfl
@[simp] theorem State.setStat_mode (s : State) (f : Fld) (v : Nat) : (s.setStat f v).mode = s.mode := rfl
@[simp] theorem State.setStat_heldCells (s : State) (f : Fld) (v : Nat) : (s.setStat f v).heldCells = s.heldCells := rfl
@[simp] theorem State.setStat_forceCells (s : State) (f : Fld) (v : Nat) : (s.setStat f v).forceCells = s.forceCells := rfl
@[simp] theorem State.setStat_statCells (s : State) (f : Fld) (v : Nat) :
    (s.setStat f v).statCells = tblPut f.dflt s.statCells f.key (v % 2 ^ f.width) := rfl
@[simp] theorem State.setStat_nvwp (s : State) (f : Fld) (v : Nat) : (s.setStat f v).nvwp = s.nvwp := rfl
@[simp] theorem State.setStat_tap (s : State) (f : Fld) (v : Nat) : (s.setStat f v).tap = s.tap := rfl
@[simp] theorem State.setStat_boundaryDue (s : State) (f : Fld) (v : Nat) : (s.setStat f v).boundaryDue = s.boundaryDue := rfl
@[simp] theorem State.setStat_hif (s : State) (f : Fld) (v : Nat) : (s.setStat f v).hif = s.hif := rfl
@[simp] theorem State.setStat_rings (s : State) (f : Fld) (v : Nat) : (s.setStat f v).rings = s.rings := rfl
@[simp] theorem State.setStat_nvs (s : State) (f : Fld) (v : Nat) : (s.setStat f v).nvs = s.nvs := rfl
@[simp] theorem State.setStat_pwr (s : State) (f : Fld) (v : Nat) : (s.setStat f v).pwr = s.pwr := rfl
@[simp] theorem State.setStat_cip (s : State) (f : Fld) (v : Nat) : (s.setStat f v).cip = s.cip := rfl
@[simp] theorem State.setStat_aut (s : State) (f : Fld) (v : Nat) : (s.setStat f v).aut = s.aut := rfl
@[simp] theorem State.setStat_rel (s : State) (f : Fld) (v : Nat) : (s.setStat f v).rel = s.rel := rfl
@[simp] theorem State.setStat_mtr (s : State) (f : Fld) (v : Nat) : (s.setStat f v).mtr = s.mtr := rfl
@[simp] theorem State.setStat_lf (s : State) (f : Fld) (v : Nat) : (s.setStat f v).lf = s.lf := rfl
@[simp] theorem State.setStat_cyc (s : State) (f : Fld) (v : Nat) : (s.setStat f v).cyc = s.cyc := rfl
@[simp] theorem State.setStat_sgr (s : State) (f : Fld) (v : Nat) : (s.setStat f v).sgr = s.sgr := rfl
@[simp] theorem State.setStat_uwb (s : State) (f : Fld) (v : Nat) : (s.setStat f v).uwb = s.uwb := rfl
@[simp] theorem State.setStat_rad (s : State) (f : Fld) (v : Nat) : (s.setStat f v).rad = s.rad := rfl
@[simp] theorem State.setStat_tpx (s : State) (f : Fld) (v : Nat) : (s.setStat f v).tpx = s.tpx := rfl
@[simp] theorem State.setStat_fab (s : State) (f : Fld) (v : Nat) : (s.setStat f v).fab = s.fab := rfl
@[simp] theorem State.setStat_upd (s : State) (f : Fld) (v : Nat) : (s.setStat f v).upd = s.upd := rfl
@[simp] theorem State.setStat_out (s : State) (f : Fld) (v : Nat) : (s.setStat f v).out = s.out := rfl
@[simp] theorem State.setStat_pending (s : State) (f : Fld) (v : Nat) : (s.setStat f v).pending = s.pending := rfl

/-! ### `State.raise` -/

@[simp] theorem State.raise_now (s : State) (f : Fld) : (s.raise f).now = s.now := rfl
@[simp] theorem State.raise_mode (s : State) (f : Fld) : (s.raise f).mode = s.mode := rfl
@[simp] theorem State.raise_heldCells (s : State) (f : Fld) : (s.raise f).heldCells = s.heldCells := rfl
@[simp] theorem State.raise_forceCells (s : State) (f : Fld) : (s.raise f).forceCells = s.forceCells := rfl
@[simp] theorem State.raise_statCells (s : State) (f : Fld) :
    (s.raise f).statCells = (s.setStat f 1).statCells := rfl
@[simp] theorem State.raise_nvwp (s : State) (f : Fld) : (s.raise f).nvwp = s.nvwp := rfl
@[simp] theorem State.raise_tap (s : State) (f : Fld) : (s.raise f).tap = s.tap := rfl
@[simp] theorem State.raise_boundaryDue (s : State) (f : Fld) : (s.raise f).boundaryDue = s.boundaryDue := rfl
@[simp] theorem State.raise_hif (s : State) (f : Fld) : (s.raise f).hif = s.hif := rfl
@[simp] theorem State.raise_rings (s : State) (f : Fld) : (s.raise f).rings = s.rings := rfl
@[simp] theorem State.raise_nvs (s : State) (f : Fld) : (s.raise f).nvs = s.nvs := rfl
@[simp] theorem State.raise_pwr (s : State) (f : Fld) : (s.raise f).pwr = s.pwr := rfl
@[simp] theorem State.raise_cip (s : State) (f : Fld) : (s.raise f).cip = s.cip := rfl
@[simp] theorem State.raise_aut (s : State) (f : Fld) : (s.raise f).aut = s.aut := rfl
@[simp] theorem State.raise_rel (s : State) (f : Fld) : (s.raise f).rel = s.rel := rfl
@[simp] theorem State.raise_mtr (s : State) (f : Fld) : (s.raise f).mtr = s.mtr := rfl
@[simp] theorem State.raise_lf (s : State) (f : Fld) : (s.raise f).lf = s.lf := rfl
@[simp] theorem State.raise_cyc (s : State) (f : Fld) : (s.raise f).cyc = s.cyc := rfl
@[simp] theorem State.raise_sgr (s : State) (f : Fld) : (s.raise f).sgr = s.sgr := rfl
@[simp] theorem State.raise_uwb (s : State) (f : Fld) : (s.raise f).uwb = s.uwb := rfl
@[simp] theorem State.raise_rad (s : State) (f : Fld) : (s.raise f).rad = s.rad := rfl
@[simp] theorem State.raise_tpx (s : State) (f : Fld) : (s.raise f).tpx = s.tpx := rfl
@[simp] theorem State.raise_fab (s : State) (f : Fld) : (s.raise f).fab = s.fab := rfl
@[simp] theorem State.raise_upd (s : State) (f : Fld) : (s.raise f).upd = s.upd := rfl
@[simp] theorem State.raise_out (s : State) (f : Fld) : (s.raise f).out = s.out := rfl
@[simp] theorem State.raise_pending (s : State) (f : Fld) : (s.raise f).pending = s.pending := rfl

/-! ### `State.raiseBit` -/

@[simp] theorem State.raiseBit_now (s : State) (f : Fld) (n : Nat) : (s.raiseBit f n).now = s.now := rfl
@[simp] theorem State.raiseBit_mode (s : State) (f : Fld) (n : Nat) : (s.raiseBit f n).mode = s.mode := rfl
@[simp] theorem State.raiseBit_heldCells (s : State) (f : Fld) (n : Nat) : (s.raiseBit f n).heldCells = s.heldCells := rfl
@[simp] theorem State.raiseBit_forceCells (s : State) (f : Fld) (n : Nat) : (s.raiseBit f n).forceCells = s.forceCells := rfl
@[simp] theorem State.raiseBit_statCells (s : State) (f : Fld) (n : Nat) :
    (s.raiseBit f n).statCells = (s.setStat f (setBit (s.stat f) n)).statCells := rfl
@[simp] theorem State.raiseBit_nvwp (s : State) (f : Fld) (n : Nat) : (s.raiseBit f n).nvwp = s.nvwp := rfl
@[simp] theorem State.raiseBit_tap (s : State) (f : Fld) (n : Nat) : (s.raiseBit f n).tap = s.tap := rfl
@[simp] theorem State.raiseBit_boundaryDue (s : State) (f : Fld) (n : Nat) : (s.raiseBit f n).boundaryDue = s.boundaryDue := rfl
@[simp] theorem State.raiseBit_hif (s : State) (f : Fld) (n : Nat) : (s.raiseBit f n).hif = s.hif := rfl
@[simp] theorem State.raiseBit_rings (s : State) (f : Fld) (n : Nat) : (s.raiseBit f n).rings = s.rings := rfl
@[simp] theorem State.raiseBit_nvs (s : State) (f : Fld) (n : Nat) : (s.raiseBit f n).nvs = s.nvs := rfl
@[simp] theorem State.raiseBit_pwr (s : State) (f : Fld) (n : Nat) : (s.raiseBit f n).pwr = s.pwr := rfl
@[simp] theorem State.raiseBit_cip (s : State) (f : Fld) (n : Nat) : (s.raiseBit f n).cip = s.cip := rfl
@[simp] theorem State.raiseBit_aut (s : State) (f : Fld) (n : Nat) : (s.raiseBit f n).aut = s.aut := rfl
@[simp] theorem State.raiseBit_rel (s : State) (f : Fld) (n : Nat) : (s.raiseBit f n).rel = s.rel := rfl
@[simp] theorem State.raiseBit_mtr (s : State) (f : Fld) (n : Nat) : (s.raiseBit f n).mtr = s.mtr := rfl
@[simp] theorem State.raiseBit_lf (s : State) (f : Fld) (n : Nat) : (s.raiseBit f n).lf = s.lf := rfl
@[simp] theorem State.raiseBit_cyc (s : State) (f : Fld) (n : Nat) : (s.raiseBit f n).cyc = s.cyc := rfl
@[simp] theorem State.raiseBit_sgr (s : State) (f : Fld) (n : Nat) : (s.raiseBit f n).sgr = s.sgr := rfl
@[simp] theorem State.raiseBit_uwb (s : State) (f : Fld) (n : Nat) : (s.raiseBit f n).uwb = s.uwb := rfl
@[simp] theorem State.raiseBit_rad (s : State) (f : Fld) (n : Nat) : (s.raiseBit f n).rad = s.rad := rfl
@[simp] theorem State.raiseBit_tpx (s : State) (f : Fld) (n : Nat) : (s.raiseBit f n).tpx = s.tpx := rfl
@[simp] theorem State.raiseBit_fab (s : State) (f : Fld) (n : Nat) : (s.raiseBit f n).fab = s.fab := rfl
@[simp] theorem State.raiseBit_upd (s : State) (f : Fld) (n : Nat) : (s.raiseBit f n).upd = s.upd := rfl
@[simp] theorem State.raiseBit_out (s : State) (f : Fld) (n : Nat) : (s.raiseBit f n).out = s.out := rfl
@[simp] theorem State.raiseBit_pending (s : State) (f : Fld) (n : Nat) : (s.raiseBit f n).pending = s.pending := rfl

/-! ### `State.bump` -/

@[simp] theorem State.bump_now (s : State) (f : Fld) : (s.bump f).now = s.now := rfl
@[simp] theorem State.bump_mode (s : State) (f : Fld) : (s.bump f).mode = s.mode := rfl
@[simp] theorem State.bump_heldCells (s : State) (f : Fld) : (s.bump f).heldCells = s.heldCells := rfl
@[simp] theorem State.bump_forceCells (s : State) (f : Fld) : (s.bump f).forceCells = s.forceCells := rfl
@[simp] theorem State.bump_statCells (s : State) (f : Fld) :
    (s.bump f).statCells = (s.setStat f (satSucc f.width (s.stat f))).statCells := rfl
@[simp] theorem State.bump_nvwp (s : State) (f : Fld) : (s.bump f).nvwp = s.nvwp := rfl
@[simp] theorem State.bump_tap (s : State) (f : Fld) : (s.bump f).tap = s.tap := rfl
@[simp] theorem State.bump_boundaryDue (s : State) (f : Fld) : (s.bump f).boundaryDue = s.boundaryDue := rfl
@[simp] theorem State.bump_hif (s : State) (f : Fld) : (s.bump f).hif = s.hif := rfl
@[simp] theorem State.bump_rings (s : State) (f : Fld) : (s.bump f).rings = s.rings := rfl
@[simp] theorem State.bump_nvs (s : State) (f : Fld) : (s.bump f).nvs = s.nvs := rfl
@[simp] theorem State.bump_pwr (s : State) (f : Fld) : (s.bump f).pwr = s.pwr := rfl
@[simp] theorem State.bump_cip (s : State) (f : Fld) : (s.bump f).cip = s.cip := rfl
@[simp] theorem State.bump_aut (s : State) (f : Fld) : (s.bump f).aut = s.aut := rfl
@[simp] theorem State.bump_rel (s : State) (f : Fld) : (s.bump f).rel = s.rel := rfl
@[simp] theorem State.bump_mtr (s : State) (f : Fld) : (s.bump f).mtr = s.mtr := rfl
@[simp] theorem State.bump_lf (s : State) (f : Fld) : (s.bump f).lf = s.lf := rfl
@[simp] theorem State.bump_cyc (s : State) (f : Fld) : (s.bump f).cyc = s.cyc := rfl
@[simp] theorem State.bump_sgr (s : State) (f : Fld) : (s.bump f).sgr = s.sgr := rfl
@[simp] theorem State.bump_uwb (s : State) (f : Fld) : (s.bump f).uwb = s.uwb := rfl
@[simp] theorem State.bump_rad (s : State) (f : Fld) : (s.bump f).rad = s.rad := rfl
@[simp] theorem State.bump_tpx (s : State) (f : Fld) : (s.bump f).tpx = s.tpx := rfl
@[simp] theorem State.bump_fab (s : State) (f : Fld) : (s.bump f).fab = s.fab := rfl
@[simp] theorem State.bump_upd (s : State) (f : Fld) : (s.bump f).upd = s.upd := rfl
@[simp] theorem State.bump_out (s : State) (f : Fld) : (s.bump f).out = s.out := rfl
@[simp] theorem State.bump_pending (s : State) (f : Fld) : (s.bump f).pending = s.pending := rfl

/-! ### `State.emit` -/

@[simp] theorem State.emit_now (s : State) (o : Output) : (s.emit o).now = s.now := rfl
@[simp] theorem State.emit_mode (s : State) (o : Output) : (s.emit o).mode = s.mode := rfl
@[simp] theorem State.emit_heldCells (s : State) (o : Output) : (s.emit o).heldCells = s.heldCells := rfl
@[simp] theorem State.emit_forceCells (s : State) (o : Output) : (s.emit o).forceCells = s.forceCells := rfl
@[simp] theorem State.emit_statCells (s : State) (o : Output) : (s.emit o).statCells = s.statCells := rfl
@[simp] theorem State.emit_nvwp (s : State) (o : Output) : (s.emit o).nvwp = s.nvwp := rfl
@[simp] theorem State.emit_tap (s : State) (o : Output) : (s.emit o).tap = s.tap := rfl
@[simp] theorem State.emit_boundaryDue (s : State) (o : Output) : (s.emit o).boundaryDue = s.boundaryDue := rfl
@[simp] theorem State.emit_hif (s : State) (o : Output) : (s.emit o).hif = s.hif := rfl
@[simp] theorem State.emit_rings (s : State) (o : Output) : (s.emit o).rings = s.rings := rfl
@[simp] theorem State.emit_nvs (s : State) (o : Output) : (s.emit o).nvs = s.nvs := rfl
@[simp] theorem State.emit_pwr (s : State) (o : Output) : (s.emit o).pwr = s.pwr := rfl
@[simp] theorem State.emit_cip (s : State) (o : Output) : (s.emit o).cip = s.cip := rfl
@[simp] theorem State.emit_aut (s : State) (o : Output) : (s.emit o).aut = s.aut := rfl
@[simp] theorem State.emit_rel (s : State) (o : Output) : (s.emit o).rel = s.rel := rfl
@[simp] theorem State.emit_mtr (s : State) (o : Output) : (s.emit o).mtr = s.mtr := rfl
@[simp] theorem State.emit_lf (s : State) (o : Output) : (s.emit o).lf = s.lf := rfl
@[simp] theorem State.emit_cyc (s : State) (o : Output) : (s.emit o).cyc = s.cyc := rfl
@[simp] theorem State.emit_sgr (s : State) (o : Output) : (s.emit o).sgr = s.sgr := rfl
@[simp] theorem State.emit_uwb (s : State) (o : Output) : (s.emit o).uwb = s.uwb := rfl
@[simp] theorem State.emit_rad (s : State) (o : Output) : (s.emit o).rad = s.rad := rfl
@[simp] theorem State.emit_tpx (s : State) (o : Output) : (s.emit o).tpx = s.tpx := rfl
@[simp] theorem State.emit_fab (s : State) (o : Output) : (s.emit o).fab = s.fab := rfl
@[simp] theorem State.emit_upd (s : State) (o : Output) : (s.emit o).upd = s.upd := rfl
@[simp] theorem State.emit_out (s : State) (o : Output) :
    (s.emit o).out = o :: s.out := rfl
@[simp] theorem State.emit_pending (s : State) (o : Output) : (s.emit o).pending = s.pending := rfl

/-! ### `State.setRing` -/

@[simp] theorem State.setRing_now (s : State) (n : Nat) (r : RingState) : (s.setRing n r).now = s.now := rfl
@[simp] theorem State.setRing_mode (s : State) (n : Nat) (r : RingState) : (s.setRing n r).mode = s.mode := rfl
@[simp] theorem State.setRing_heldCells (s : State) (n : Nat) (r : RingState) : (s.setRing n r).heldCells = s.heldCells := rfl
@[simp] theorem State.setRing_forceCells (s : State) (n : Nat) (r : RingState) : (s.setRing n r).forceCells = s.forceCells := rfl
@[simp] theorem State.setRing_statCells (s : State) (n : Nat) (r : RingState) : (s.setRing n r).statCells = s.statCells := rfl
@[simp] theorem State.setRing_nvwp (s : State) (n : Nat) (r : RingState) : (s.setRing n r).nvwp = s.nvwp := rfl
@[simp] theorem State.setRing_tap (s : State) (n : Nat) (r : RingState) : (s.setRing n r).tap = s.tap := rfl
@[simp] theorem State.setRing_boundaryDue (s : State) (n : Nat) (r : RingState) : (s.setRing n r).boundaryDue = s.boundaryDue := rfl
@[simp] theorem State.setRing_hif (s : State) (n : Nat) (r : RingState) : (s.setRing n r).hif = s.hif := rfl
@[simp] theorem State.setRing_rings (s : State) (n : Nat) (r : RingState) :
    (s.setRing n r).rings = tblPut RingState.reset s.rings n r := rfl
@[simp] theorem State.setRing_nvs (s : State) (n : Nat) (r : RingState) : (s.setRing n r).nvs = s.nvs := rfl
@[simp] theorem State.setRing_pwr (s : State) (n : Nat) (r : RingState) : (s.setRing n r).pwr = s.pwr := rfl
@[simp] theorem State.setRing_cip (s : State) (n : Nat) (r : RingState) : (s.setRing n r).cip = s.cip := rfl
@[simp] theorem State.setRing_aut (s : State) (n : Nat) (r : RingState) : (s.setRing n r).aut = s.aut := rfl
@[simp] theorem State.setRing_rel (s : State) (n : Nat) (r : RingState) : (s.setRing n r).rel = s.rel := rfl
@[simp] theorem State.setRing_mtr (s : State) (n : Nat) (r : RingState) : (s.setRing n r).mtr = s.mtr := rfl
@[simp] theorem State.setRing_lf (s : State) (n : Nat) (r : RingState) : (s.setRing n r).lf = s.lf := rfl
@[simp] theorem State.setRing_cyc (s : State) (n : Nat) (r : RingState) : (s.setRing n r).cyc = s.cyc := rfl
@[simp] theorem State.setRing_sgr (s : State) (n : Nat) (r : RingState) : (s.setRing n r).sgr = s.sgr := rfl
@[simp] theorem State.setRing_uwb (s : State) (n : Nat) (r : RingState) : (s.setRing n r).uwb = s.uwb := rfl
@[simp] theorem State.setRing_rad (s : State) (n : Nat) (r : RingState) : (s.setRing n r).rad = s.rad := rfl
@[simp] theorem State.setRing_tpx (s : State) (n : Nat) (r : RingState) : (s.setRing n r).tpx = s.tpx := rfl
@[simp] theorem State.setRing_fab (s : State) (n : Nat) (r : RingState) : (s.setRing n r).fab = s.fab := rfl
@[simp] theorem State.setRing_upd (s : State) (n : Nat) (r : RingState) : (s.setRing n r).upd = s.upd := rfl
@[simp] theorem State.setRing_out (s : State) (n : Nat) (r : RingState) : (s.setRing n r).out = s.out := rfl
@[simp] theorem State.setRing_pending (s : State) (n : Nat) (r : RingState) : (s.setRing n r).pending = s.pending := rfl

/-! ### `State.setLink` -/

@[simp] theorem State.setLink_now (s : State) (pos cls : Nat) (l : ProxyLink) : (s.setLink pos cls l).now = s.now := rfl
@[simp] theorem State.setLink_mode (s : State) (pos cls : Nat) (l : ProxyLink) : (s.setLink pos cls l).mode = s.mode := rfl
@[simp] theorem State.setLink_heldCells (s : State) (pos cls : Nat) (l : ProxyLink) : (s.setLink pos cls l).heldCells = s.heldCells := rfl
@[simp] theorem State.setLink_forceCells (s : State) (pos cls : Nat) (l : ProxyLink) : (s.setLink pos cls l).forceCells = s.forceCells := rfl
@[simp] theorem State.setLink_statCells (s : State) (pos cls : Nat) (l : ProxyLink) : (s.setLink pos cls l).statCells = s.statCells := rfl
@[simp] theorem State.setLink_nvwp (s : State) (pos cls : Nat) (l : ProxyLink) : (s.setLink pos cls l).nvwp = s.nvwp := rfl
@[simp] theorem State.setLink_tap (s : State) (pos cls : Nat) (l : ProxyLink) : (s.setLink pos cls l).tap = s.tap := rfl
@[simp] theorem State.setLink_boundaryDue (s : State) (pos cls : Nat) (l : ProxyLink) : (s.setLink pos cls l).boundaryDue = s.boundaryDue := rfl
@[simp] theorem State.setLink_rings (s : State) (pos cls : Nat) (l : ProxyLink) : (s.setLink pos cls l).rings = s.rings := rfl
@[simp] theorem State.setLink_nvs (s : State) (pos cls : Nat) (l : ProxyLink) : (s.setLink pos cls l).nvs = s.nvs := rfl
@[simp] theorem State.setLink_pwr (s : State) (pos cls : Nat) (l : ProxyLink) : (s.setLink pos cls l).pwr = s.pwr := rfl
@[simp] theorem State.setLink_cip (s : State) (pos cls : Nat) (l : ProxyLink) : (s.setLink pos cls l).cip = s.cip := rfl
@[simp] theorem State.setLink_aut (s : State) (pos cls : Nat) (l : ProxyLink) : (s.setLink pos cls l).aut = s.aut := rfl
@[simp] theorem State.setLink_rel (s : State) (pos cls : Nat) (l : ProxyLink) : (s.setLink pos cls l).rel = s.rel := rfl
@[simp] theorem State.setLink_mtr (s : State) (pos cls : Nat) (l : ProxyLink) : (s.setLink pos cls l).mtr = s.mtr := rfl
@[simp] theorem State.setLink_lf (s : State) (pos cls : Nat) (l : ProxyLink) : (s.setLink pos cls l).lf = s.lf := rfl
@[simp] theorem State.setLink_cyc (s : State) (pos cls : Nat) (l : ProxyLink) : (s.setLink pos cls l).cyc = s.cyc := rfl
@[simp] theorem State.setLink_sgr (s : State) (pos cls : Nat) (l : ProxyLink) : (s.setLink pos cls l).sgr = s.sgr := rfl
@[simp] theorem State.setLink_uwb (s : State) (pos cls : Nat) (l : ProxyLink) : (s.setLink pos cls l).uwb = s.uwb := rfl
@[simp] theorem State.setLink_rad (s : State) (pos cls : Nat) (l : ProxyLink) : (s.setLink pos cls l).rad = s.rad := rfl
@[simp] theorem State.setLink_tpx (s : State) (pos cls : Nat) (l : ProxyLink) : (s.setLink pos cls l).tpx = s.tpx := rfl
@[simp] theorem State.setLink_fab (s : State) (pos cls : Nat) (l : ProxyLink) : (s.setLink pos cls l).fab = s.fab := rfl
@[simp] theorem State.setLink_upd (s : State) (pos cls : Nat) (l : ProxyLink) : (s.setLink pos cls l).upd = s.upd := rfl
@[simp] theorem State.setLink_out (s : State) (pos cls : Nat) (l : ProxyLink) : (s.setLink pos cls l).out = s.out := rfl
@[simp] theorem State.setLink_pending (s : State) (pos cls : Nat) (l : ProxyLink) : (s.setLink pos cls l).pending = s.pending := rfl

/-! ### `State.setArea` -/

@[simp] theorem State.setArea_now (s : State) (a : Area) (v : AreaState) : (s.setArea a v).now = s.now := rfl
@[simp] theorem State.setArea_mode (s : State) (a : Area) (v : AreaState) : (s.setArea a v).mode = s.mode := rfl
@[simp] theorem State.setArea_heldCells (s : State) (a : Area) (v : AreaState) : (s.setArea a v).heldCells = s.heldCells := rfl
@[simp] theorem State.setArea_forceCells (s : State) (a : Area) (v : AreaState) : (s.setArea a v).forceCells = s.forceCells := rfl
@[simp] theorem State.setArea_statCells (s : State) (a : Area) (v : AreaState) : (s.setArea a v).statCells = s.statCells := rfl
@[simp] theorem State.setArea_nvwp (s : State) (a : Area) (v : AreaState) : (s.setArea a v).nvwp = s.nvwp := rfl
@[simp] theorem State.setArea_tap (s : State) (a : Area) (v : AreaState) : (s.setArea a v).tap = s.tap := rfl
@[simp] theorem State.setArea_boundaryDue (s : State) (a : Area) (v : AreaState) : (s.setArea a v).boundaryDue = s.boundaryDue := rfl
@[simp] theorem State.setArea_hif (s : State) (a : Area) (v : AreaState) : (s.setArea a v).hif = s.hif := rfl
@[simp] theorem State.setArea_rings (s : State) (a : Area) (v : AreaState) : (s.setArea a v).rings = s.rings := rfl
@[simp] theorem State.setArea_pwr (s : State) (a : Area) (v : AreaState) : (s.setArea a v).pwr = s.pwr := rfl
@[simp] theorem State.setArea_cip (s : State) (a : Area) (v : AreaState) : (s.setArea a v).cip = s.cip := rfl
@[simp] theorem State.setArea_aut (s : State) (a : Area) (v : AreaState) : (s.setArea a v).aut = s.aut := rfl
@[simp] theorem State.setArea_rel (s : State) (a : Area) (v : AreaState) : (s.setArea a v).rel = s.rel := rfl
@[simp] theorem State.setArea_mtr (s : State) (a : Area) (v : AreaState) : (s.setArea a v).mtr = s.mtr := rfl
@[simp] theorem State.setArea_lf (s : State) (a : Area) (v : AreaState) : (s.setArea a v).lf = s.lf := rfl
@[simp] theorem State.setArea_cyc (s : State) (a : Area) (v : AreaState) : (s.setArea a v).cyc = s.cyc := rfl
@[simp] theorem State.setArea_sgr (s : State) (a : Area) (v : AreaState) : (s.setArea a v).sgr = s.sgr := rfl
@[simp] theorem State.setArea_uwb (s : State) (a : Area) (v : AreaState) : (s.setArea a v).uwb = s.uwb := rfl
@[simp] theorem State.setArea_rad (s : State) (a : Area) (v : AreaState) : (s.setArea a v).rad = s.rad := rfl
@[simp] theorem State.setArea_tpx (s : State) (a : Area) (v : AreaState) : (s.setArea a v).tpx = s.tpx := rfl
@[simp] theorem State.setArea_fab (s : State) (a : Area) (v : AreaState) : (s.setArea a v).fab = s.fab := rfl
@[simp] theorem State.setArea_upd (s : State) (a : Area) (v : AreaState) : (s.setArea a v).upd = s.upd := rfl
@[simp] theorem State.setArea_out (s : State) (a : Area) (v : AreaState) : (s.setArea a v).out = s.out := rfl
@[simp] theorem State.setArea_pending (s : State) (a : Area) (v : AreaState) : (s.setArea a v).pending = s.pending := rfl

/-! ### `State.setSlot` -/

@[simp] theorem State.setSlot_now (s : State) (n : Nat) (k : KeySlot) : (s.setSlot n k).now = s.now := rfl
@[simp] theorem State.setSlot_mode (s : State) (n : Nat) (k : KeySlot) : (s.setSlot n k).mode = s.mode := rfl
@[simp] theorem State.setSlot_heldCells (s : State) (n : Nat) (k : KeySlot) : (s.setSlot n k).heldCells = s.heldCells := rfl
@[simp] theorem State.setSlot_forceCells (s : State) (n : Nat) (k : KeySlot) : (s.setSlot n k).forceCells = s.forceCells := rfl
@[simp] theorem State.setSlot_statCells (s : State) (n : Nat) (k : KeySlot) : (s.setSlot n k).statCells = s.statCells := rfl
@[simp] theorem State.setSlot_nvwp (s : State) (n : Nat) (k : KeySlot) : (s.setSlot n k).nvwp = s.nvwp := rfl
@[simp] theorem State.setSlot_tap (s : State) (n : Nat) (k : KeySlot) : (s.setSlot n k).tap = s.tap := rfl
@[simp] theorem State.setSlot_boundaryDue (s : State) (n : Nat) (k : KeySlot) : (s.setSlot n k).boundaryDue = s.boundaryDue := rfl
@[simp] theorem State.setSlot_hif (s : State) (n : Nat) (k : KeySlot) : (s.setSlot n k).hif = s.hif := rfl
@[simp] theorem State.setSlot_rings (s : State) (n : Nat) (k : KeySlot) : (s.setSlot n k).rings = s.rings := rfl
@[simp] theorem State.setSlot_nvs (s : State) (n : Nat) (k : KeySlot) : (s.setSlot n k).nvs = s.nvs := rfl
@[simp] theorem State.setSlot_pwr (s : State) (n : Nat) (k : KeySlot) : (s.setSlot n k).pwr = s.pwr := rfl
@[simp] theorem State.setSlot_aut (s : State) (n : Nat) (k : KeySlot) : (s.setSlot n k).aut = s.aut := rfl
@[simp] theorem State.setSlot_rel (s : State) (n : Nat) (k : KeySlot) : (s.setSlot n k).rel = s.rel := rfl
@[simp] theorem State.setSlot_mtr (s : State) (n : Nat) (k : KeySlot) : (s.setSlot n k).mtr = s.mtr := rfl
@[simp] theorem State.setSlot_lf (s : State) (n : Nat) (k : KeySlot) : (s.setSlot n k).lf = s.lf := rfl
@[simp] theorem State.setSlot_cyc (s : State) (n : Nat) (k : KeySlot) : (s.setSlot n k).cyc = s.cyc := rfl
@[simp] theorem State.setSlot_sgr (s : State) (n : Nat) (k : KeySlot) : (s.setSlot n k).sgr = s.sgr := rfl
@[simp] theorem State.setSlot_uwb (s : State) (n : Nat) (k : KeySlot) : (s.setSlot n k).uwb = s.uwb := rfl
@[simp] theorem State.setSlot_rad (s : State) (n : Nat) (k : KeySlot) : (s.setSlot n k).rad = s.rad := rfl
@[simp] theorem State.setSlot_tpx (s : State) (n : Nat) (k : KeySlot) : (s.setSlot n k).tpx = s.tpx := rfl
@[simp] theorem State.setSlot_fab (s : State) (n : Nat) (k : KeySlot) : (s.setSlot n k).fab = s.fab := rfl
@[simp] theorem State.setSlot_upd (s : State) (n : Nat) (k : KeySlot) : (s.setSlot n k).upd = s.upd := rfl
@[simp] theorem State.setSlot_out (s : State) (n : Nat) (k : KeySlot) : (s.setSlot n k).out = s.out := rfl
@[simp] theorem State.setSlot_pending (s : State) (n : Nat) (k : KeySlot) : (s.setSlot n k).pending = s.pending := rfl

/-! ### `State.setCtx` -/

@[simp] theorem State.setCtx_now (s : State) (n : Nat) (c : Ctx) : (s.setCtx n c).now = s.now := rfl
@[simp] theorem State.setCtx_mode (s : State) (n : Nat) (c : Ctx) : (s.setCtx n c).mode = s.mode := rfl
@[simp] theorem State.setCtx_heldCells (s : State) (n : Nat) (c : Ctx) : (s.setCtx n c).heldCells = s.heldCells := rfl
@[simp] theorem State.setCtx_forceCells (s : State) (n : Nat) (c : Ctx) : (s.setCtx n c).forceCells = s.forceCells := rfl
@[simp] theorem State.setCtx_statCells (s : State) (n : Nat) (c : Ctx) : (s.setCtx n c).statCells = s.statCells := rfl
@[simp] theorem State.setCtx_nvwp (s : State) (n : Nat) (c : Ctx) : (s.setCtx n c).nvwp = s.nvwp := rfl
@[simp] theorem State.setCtx_tap (s : State) (n : Nat) (c : Ctx) : (s.setCtx n c).tap = s.tap := rfl
@[simp] theorem State.setCtx_boundaryDue (s : State) (n : Nat) (c : Ctx) : (s.setCtx n c).boundaryDue = s.boundaryDue := rfl
@[simp] theorem State.setCtx_hif (s : State) (n : Nat) (c : Ctx) : (s.setCtx n c).hif = s.hif := rfl
@[simp] theorem State.setCtx_rings (s : State) (n : Nat) (c : Ctx) : (s.setCtx n c).rings = s.rings := rfl
@[simp] theorem State.setCtx_nvs (s : State) (n : Nat) (c : Ctx) : (s.setCtx n c).nvs = s.nvs := rfl
@[simp] theorem State.setCtx_pwr (s : State) (n : Nat) (c : Ctx) : (s.setCtx n c).pwr = s.pwr := rfl
@[simp] theorem State.setCtx_cip (s : State) (n : Nat) (c : Ctx) : (s.setCtx n c).cip = s.cip := rfl
@[simp] theorem State.setCtx_aut (s : State) (n : Nat) (c : Ctx) : (s.setCtx n c).aut = s.aut := rfl
@[simp] theorem State.setCtx_rel (s : State) (n : Nat) (c : Ctx) : (s.setCtx n c).rel = s.rel := rfl
@[simp] theorem State.setCtx_mtr (s : State) (n : Nat) (c : Ctx) : (s.setCtx n c).mtr = s.mtr := rfl
@[simp] theorem State.setCtx_lf (s : State) (n : Nat) (c : Ctx) : (s.setCtx n c).lf = s.lf := rfl
@[simp] theorem State.setCtx_sgr (s : State) (n : Nat) (c : Ctx) : (s.setCtx n c).sgr = s.sgr := rfl
@[simp] theorem State.setCtx_uwb (s : State) (n : Nat) (c : Ctx) : (s.setCtx n c).uwb = s.uwb := rfl
@[simp] theorem State.setCtx_rad (s : State) (n : Nat) (c : Ctx) : (s.setCtx n c).rad = s.rad := rfl
@[simp] theorem State.setCtx_tpx (s : State) (n : Nat) (c : Ctx) : (s.setCtx n c).tpx = s.tpx := rfl
@[simp] theorem State.setCtx_fab (s : State) (n : Nat) (c : Ctx) : (s.setCtx n c).fab = s.fab := rfl
@[simp] theorem State.setCtx_upd (s : State) (n : Nat) (c : Ctx) : (s.setCtx n c).upd = s.upd := rfl
@[simp] theorem State.setCtx_out (s : State) (n : Nat) (c : Ctx) : (s.setCtx n c).out = s.out := rfl
@[simp] theorem State.setCtx_pending (s : State) (n : Nat) (c : Ctx) : (s.setCtx n c).pending = s.pending := rfl

/-! ### `State.setChan` -/

@[simp] theorem State.setChan_now (s : State) (c : Nat) (v : LfChan) : (s.setChan c v).now = s.now := rfl
@[simp] theorem State.setChan_mode (s : State) (c : Nat) (v : LfChan) : (s.setChan c v).mode = s.mode := rfl
@[simp] theorem State.setChan_heldCells (s : State) (c : Nat) (v : LfChan) : (s.setChan c v).heldCells = s.heldCells := rfl
@[simp] theorem State.setChan_forceCells (s : State) (c : Nat) (v : LfChan) : (s.setChan c v).forceCells = s.forceCells := rfl
@[simp] theorem State.setChan_statCells (s : State) (c : Nat) (v : LfChan) : (s.setChan c v).statCells = s.statCells := rfl
@[simp] theorem State.setChan_nvwp (s : State) (c : Nat) (v : LfChan) : (s.setChan c v).nvwp = s.nvwp := rfl
@[simp] theorem State.setChan_tap (s : State) (c : Nat) (v : LfChan) : (s.setChan c v).tap = s.tap := rfl
@[simp] theorem State.setChan_boundaryDue (s : State) (c : Nat) (v : LfChan) : (s.setChan c v).boundaryDue = s.boundaryDue := rfl
@[simp] theorem State.setChan_hif (s : State) (c : Nat) (v : LfChan) : (s.setChan c v).hif = s.hif := rfl
@[simp] theorem State.setChan_rings (s : State) (c : Nat) (v : LfChan) : (s.setChan c v).rings = s.rings := rfl
@[simp] theorem State.setChan_nvs (s : State) (c : Nat) (v : LfChan) : (s.setChan c v).nvs = s.nvs := rfl
@[simp] theorem State.setChan_pwr (s : State) (c : Nat) (v : LfChan) : (s.setChan c v).pwr = s.pwr := rfl
@[simp] theorem State.setChan_cip (s : State) (c : Nat) (v : LfChan) : (s.setChan c v).cip = s.cip := rfl
@[simp] theorem State.setChan_aut (s : State) (c : Nat) (v : LfChan) : (s.setChan c v).aut = s.aut := rfl
@[simp] theorem State.setChan_rel (s : State) (c : Nat) (v : LfChan) : (s.setChan c v).rel = s.rel := rfl
@[simp] theorem State.setChan_mtr (s : State) (c : Nat) (v : LfChan) : (s.setChan c v).mtr = s.mtr := rfl
@[simp] theorem State.setChan_cyc (s : State) (c : Nat) (v : LfChan) : (s.setChan c v).cyc = s.cyc := rfl
@[simp] theorem State.setChan_sgr (s : State) (c : Nat) (v : LfChan) : (s.setChan c v).sgr = s.sgr := rfl
@[simp] theorem State.setChan_uwb (s : State) (c : Nat) (v : LfChan) : (s.setChan c v).uwb = s.uwb := rfl
@[simp] theorem State.setChan_rad (s : State) (c : Nat) (v : LfChan) : (s.setChan c v).rad = s.rad := rfl
@[simp] theorem State.setChan_tpx (s : State) (c : Nat) (v : LfChan) : (s.setChan c v).tpx = s.tpx := rfl
@[simp] theorem State.setChan_fab (s : State) (c : Nat) (v : LfChan) : (s.setChan c v).fab = s.fab := rfl
@[simp] theorem State.setChan_upd (s : State) (c : Nat) (v : LfChan) : (s.setChan c v).upd = s.upd := rfl
@[simp] theorem State.setChan_out (s : State) (c : Nat) (v : LfChan) : (s.setChan c v).out = s.out := rfl
@[simp] theorem State.setChan_pending (s : State) (c : Nat) (v : LfChan) : (s.setChan c v).pending = s.pending := rfl

/-! ### `State.setMchan` -/

@[simp] theorem State.setMchan_now (s : State) (n : Nat) (c : Channel) : (s.setMchan n c).now = s.now := rfl
@[simp] theorem State.setMchan_mode (s : State) (n : Nat) (c : Channel) : (s.setMchan n c).mode = s.mode := rfl
@[simp] theorem State.setMchan_heldCells (s : State) (n : Nat) (c : Channel) : (s.setMchan n c).heldCells = s.heldCells := rfl
@[simp] theorem State.setMchan_forceCells (s : State) (n : Nat) (c : Channel) : (s.setMchan n c).forceCells = s.forceCells := rfl
@[simp] theorem State.setMchan_statCells (s : State) (n : Nat) (c : Channel) : (s.setMchan n c).statCells = s.statCells := rfl
@[simp] theorem State.setMchan_nvwp (s : State) (n : Nat) (c : Channel) : (s.setMchan n c).nvwp = s.nvwp := rfl
@[simp] theorem State.setMchan_tap (s : State) (n : Nat) (c : Channel) : (s.setMchan n c).tap = s.tap := rfl
@[simp] theorem State.setMchan_boundaryDue (s : State) (n : Nat) (c : Channel) : (s.setMchan n c).boundaryDue = s.boundaryDue := rfl
@[simp] theorem State.setMchan_hif (s : State) (n : Nat) (c : Channel) : (s.setMchan n c).hif = s.hif := rfl
@[simp] theorem State.setMchan_rings (s : State) (n : Nat) (c : Channel) : (s.setMchan n c).rings = s.rings := rfl
@[simp] theorem State.setMchan_nvs (s : State) (n : Nat) (c : Channel) : (s.setMchan n c).nvs = s.nvs := rfl
@[simp] theorem State.setMchan_pwr (s : State) (n : Nat) (c : Channel) : (s.setMchan n c).pwr = s.pwr := rfl
@[simp] theorem State.setMchan_cip (s : State) (n : Nat) (c : Channel) : (s.setMchan n c).cip = s.cip := rfl
@[simp] theorem State.setMchan_aut (s : State) (n : Nat) (c : Channel) : (s.setMchan n c).aut = s.aut := rfl
@[simp] theorem State.setMchan_rel (s : State) (n : Nat) (c : Channel) : (s.setMchan n c).rel = s.rel := rfl
@[simp] theorem State.setMchan_lf (s : State) (n : Nat) (c : Channel) : (s.setMchan n c).lf = s.lf := rfl
@[simp] theorem State.setMchan_cyc (s : State) (n : Nat) (c : Channel) : (s.setMchan n c).cyc = s.cyc := rfl
@[simp] theorem State.setMchan_sgr (s : State) (n : Nat) (c : Channel) : (s.setMchan n c).sgr = s.sgr := rfl
@[simp] theorem State.setMchan_uwb (s : State) (n : Nat) (c : Channel) : (s.setMchan n c).uwb = s.uwb := rfl
@[simp] theorem State.setMchan_rad (s : State) (n : Nat) (c : Channel) : (s.setMchan n c).rad = s.rad := rfl
@[simp] theorem State.setMchan_tpx (s : State) (n : Nat) (c : Channel) : (s.setMchan n c).tpx = s.tpx := rfl
@[simp] theorem State.setMchan_fab (s : State) (n : Nat) (c : Channel) : (s.setMchan n c).fab = s.fab := rfl
@[simp] theorem State.setMchan_upd (s : State) (n : Nat) (c : Channel) : (s.setMchan n c).upd = s.upd := rfl
@[simp] theorem State.setMchan_out (s : State) (n : Nat) (c : Channel) : (s.setMchan n c).out = s.out := rfl
@[simp] theorem State.setMchan_pending (s : State) (n : Nat) (c : Channel) : (s.setMchan n c).pending = s.pending := rfl

/-! ### `State.setPort` -/

@[simp] theorem State.setPort_now (s : State) (p : Nat) (q : Port) : (s.setPort p q).now = s.now := rfl
@[simp] theorem State.setPort_mode (s : State) (p : Nat) (q : Port) : (s.setPort p q).mode = s.mode := rfl
@[simp] theorem State.setPort_heldCells (s : State) (p : Nat) (q : Port) : (s.setPort p q).heldCells = s.heldCells := rfl
@[simp] theorem State.setPort_forceCells (s : State) (p : Nat) (q : Port) : (s.setPort p q).forceCells = s.forceCells := rfl
@[simp] theorem State.setPort_statCells (s : State) (p : Nat) (q : Port) : (s.setPort p q).statCells = s.statCells := rfl
@[simp] theorem State.setPort_nvwp (s : State) (p : Nat) (q : Port) : (s.setPort p q).nvwp = s.nvwp := rfl
@[simp] theorem State.setPort_tap (s : State) (p : Nat) (q : Port) : (s.setPort p q).tap = s.tap := rfl
@[simp] theorem State.setPort_boundaryDue (s : State) (p : Nat) (q : Port) : (s.setPort p q).boundaryDue = s.boundaryDue := rfl
@[simp] theorem State.setPort_hif (s : State) (p : Nat) (q : Port) : (s.setPort p q).hif = s.hif := rfl
@[simp] theorem State.setPort_rings (s : State) (p : Nat) (q : Port) : (s.setPort p q).rings = s.rings := rfl
@[simp] theorem State.setPort_nvs (s : State) (p : Nat) (q : Port) : (s.setPort p q).nvs = s.nvs := rfl
@[simp] theorem State.setPort_pwr (s : State) (p : Nat) (q : Port) : (s.setPort p q).pwr = s.pwr := rfl
@[simp] theorem State.setPort_cip (s : State) (p : Nat) (q : Port) : (s.setPort p q).cip = s.cip := rfl
@[simp] theorem State.setPort_aut (s : State) (p : Nat) (q : Port) : (s.setPort p q).aut = s.aut := rfl
@[simp] theorem State.setPort_rel (s : State) (p : Nat) (q : Port) : (s.setPort p q).rel = s.rel := rfl
@[simp] theorem State.setPort_mtr (s : State) (p : Nat) (q : Port) : (s.setPort p q).mtr = s.mtr := rfl
@[simp] theorem State.setPort_lf (s : State) (p : Nat) (q : Port) : (s.setPort p q).lf = s.lf := rfl
@[simp] theorem State.setPort_cyc (s : State) (p : Nat) (q : Port) : (s.setPort p q).cyc = s.cyc := rfl
@[simp] theorem State.setPort_sgr (s : State) (p : Nat) (q : Port) : (s.setPort p q).sgr = s.sgr := rfl
@[simp] theorem State.setPort_uwb (s : State) (p : Nat) (q : Port) : (s.setPort p q).uwb = s.uwb := rfl
@[simp] theorem State.setPort_rad (s : State) (p : Nat) (q : Port) : (s.setPort p q).rad = s.rad := rfl
@[simp] theorem State.setPort_tpx (s : State) (p : Nat) (q : Port) : (s.setPort p q).tpx = s.tpx := rfl
@[simp] theorem State.setPort_upd (s : State) (p : Nat) (q : Port) : (s.setPort p q).upd = s.upd := rfl
@[simp] theorem State.setPort_out (s : State) (p : Nat) (q : Port) : (s.setPort p q).out = s.out := rfl
@[simp] theorem State.setPort_pending (s : State) (p : Nat) (q : Port) : (s.setPort p q).pending = s.pending := rfl

/-! ### `State.setQueue` -/

@[simp] theorem State.setQueue_now (s : State) (o c : Nat) (q : OutQ) : (s.setQueue o c q).now = s.now := rfl
@[simp] theorem State.setQueue_mode (s : State) (o c : Nat) (q : OutQ) : (s.setQueue o c q).mode = s.mode := rfl
@[simp] theorem State.setQueue_heldCells (s : State) (o c : Nat) (q : OutQ) : (s.setQueue o c q).heldCells = s.heldCells := rfl
@[simp] theorem State.setQueue_forceCells (s : State) (o c : Nat) (q : OutQ) : (s.setQueue o c q).forceCells = s.forceCells := rfl
@[simp] theorem State.setQueue_statCells (s : State) (o c : Nat) (q : OutQ) : (s.setQueue o c q).statCells = s.statCells := rfl
@[simp] theorem State.setQueue_nvwp (s : State) (o c : Nat) (q : OutQ) : (s.setQueue o c q).nvwp = s.nvwp := rfl
@[simp] theorem State.setQueue_tap (s : State) (o c : Nat) (q : OutQ) : (s.setQueue o c q).tap = s.tap := rfl
@[simp] theorem State.setQueue_boundaryDue (s : State) (o c : Nat) (q : OutQ) : (s.setQueue o c q).boundaryDue = s.boundaryDue := rfl
@[simp] theorem State.setQueue_hif (s : State) (o c : Nat) (q : OutQ) : (s.setQueue o c q).hif = s.hif := rfl
@[simp] theorem State.setQueue_rings (s : State) (o c : Nat) (q : OutQ) : (s.setQueue o c q).rings = s.rings := rfl
@[simp] theorem State.setQueue_nvs (s : State) (o c : Nat) (q : OutQ) : (s.setQueue o c q).nvs = s.nvs := rfl
@[simp] theorem State.setQueue_pwr (s : State) (o c : Nat) (q : OutQ) : (s.setQueue o c q).pwr = s.pwr := rfl
@[simp] theorem State.setQueue_cip (s : State) (o c : Nat) (q : OutQ) : (s.setQueue o c q).cip = s.cip := rfl
@[simp] theorem State.setQueue_aut (s : State) (o c : Nat) (q : OutQ) : (s.setQueue o c q).aut = s.aut := rfl
@[simp] theorem State.setQueue_rel (s : State) (o c : Nat) (q : OutQ) : (s.setQueue o c q).rel = s.rel := rfl
@[simp] theorem State.setQueue_mtr (s : State) (o c : Nat) (q : OutQ) : (s.setQueue o c q).mtr = s.mtr := rfl
@[simp] theorem State.setQueue_lf (s : State) (o c : Nat) (q : OutQ) : (s.setQueue o c q).lf = s.lf := rfl
@[simp] theorem State.setQueue_cyc (s : State) (o c : Nat) (q : OutQ) : (s.setQueue o c q).cyc = s.cyc := rfl
@[simp] theorem State.setQueue_sgr (s : State) (o c : Nat) (q : OutQ) : (s.setQueue o c q).sgr = s.sgr := rfl
@[simp] theorem State.setQueue_uwb (s : State) (o c : Nat) (q : OutQ) : (s.setQueue o c q).uwb = s.uwb := rfl
@[simp] theorem State.setQueue_rad (s : State) (o c : Nat) (q : OutQ) : (s.setQueue o c q).rad = s.rad := rfl
@[simp] theorem State.setQueue_tpx (s : State) (o c : Nat) (q : OutQ) : (s.setQueue o c q).tpx = s.tpx := rfl
@[simp] theorem State.setQueue_upd (s : State) (o c : Nat) (q : OutQ) : (s.setQueue o c q).upd = s.upd := rfl
@[simp] theorem State.setQueue_out (s : State) (o c : Nat) (q : OutQ) : (s.setQueue o c q).out = s.out := rfl
@[simp] theorem State.setQueue_pending (s : State) (o c : Nat) (q : OutQ) : (s.setQueue o c q).pending = s.pending := rfl

/-! ### `State.setBank` -/

@[simp] theorem State.setBank_now (s : State) (e : Nat) (b : Bank) : (s.setBank e b).now = s.now := rfl
@[simp] theorem State.setBank_mode (s : State) (e : Nat) (b : Bank) : (s.setBank e b).mode = s.mode := rfl
@[simp] theorem State.setBank_heldCells (s : State) (e : Nat) (b : Bank) : (s.setBank e b).heldCells = s.heldCells := rfl
@[simp] theorem State.setBank_forceCells (s : State) (e : Nat) (b : Bank) : (s.setBank e b).forceCells = s.forceCells := rfl
@[simp] theorem State.setBank_statCells (s : State) (e : Nat) (b : Bank) : (s.setBank e b).statCells = s.statCells := rfl
@[simp] theorem State.setBank_nvwp (s : State) (e : Nat) (b : Bank) : (s.setBank e b).nvwp = s.nvwp := rfl
@[simp] theorem State.setBank_tap (s : State) (e : Nat) (b : Bank) : (s.setBank e b).tap = s.tap := rfl
@[simp] theorem State.setBank_boundaryDue (s : State) (e : Nat) (b : Bank) : (s.setBank e b).boundaryDue = s.boundaryDue := rfl
@[simp] theorem State.setBank_hif (s : State) (e : Nat) (b : Bank) : (s.setBank e b).hif = s.hif := rfl
@[simp] theorem State.setBank_rings (s : State) (e : Nat) (b : Bank) : (s.setBank e b).rings = s.rings := rfl
@[simp] theorem State.setBank_nvs (s : State) (e : Nat) (b : Bank) : (s.setBank e b).nvs = s.nvs := rfl
@[simp] theorem State.setBank_pwr (s : State) (e : Nat) (b : Bank) : (s.setBank e b).pwr = s.pwr := rfl
@[simp] theorem State.setBank_cip (s : State) (e : Nat) (b : Bank) : (s.setBank e b).cip = s.cip := rfl
@[simp] theorem State.setBank_aut (s : State) (e : Nat) (b : Bank) : (s.setBank e b).aut = s.aut := rfl
@[simp] theorem State.setBank_rel (s : State) (e : Nat) (b : Bank) : (s.setBank e b).rel = s.rel := rfl
@[simp] theorem State.setBank_mtr (s : State) (e : Nat) (b : Bank) : (s.setBank e b).mtr = s.mtr := rfl
@[simp] theorem State.setBank_lf (s : State) (e : Nat) (b : Bank) : (s.setBank e b).lf = s.lf := rfl
@[simp] theorem State.setBank_cyc (s : State) (e : Nat) (b : Bank) : (s.setBank e b).cyc = s.cyc := rfl
@[simp] theorem State.setBank_sgr (s : State) (e : Nat) (b : Bank) : (s.setBank e b).sgr = s.sgr := rfl
@[simp] theorem State.setBank_uwb (s : State) (e : Nat) (b : Bank) : (s.setBank e b).uwb = s.uwb := rfl
@[simp] theorem State.setBank_rad (s : State) (e : Nat) (b : Bank) : (s.setBank e b).rad = s.rad := rfl
@[simp] theorem State.setBank_tpx (s : State) (e : Nat) (b : Bank) : (s.setBank e b).tpx = s.tpx := rfl
@[simp] theorem State.setBank_upd (s : State) (e : Nat) (b : Bank) : (s.setBank e b).upd = s.upd := rfl
@[simp] theorem State.setBank_out (s : State) (e : Nat) (b : Bank) : (s.setBank e b).out = s.out := rfl
@[simp] theorem State.setBank_pending (s : State) (e : Nat) (b : Bank) : (s.setBank e b).pending = s.pending := rfl

/-! ### `State.setDoor` -/

@[simp] theorem State.setDoor_now (s : State) (n : Nat) (d : Door) : (s.setDoor n d).now = s.now := rfl
@[simp] theorem State.setDoor_mode (s : State) (n : Nat) (d : Door) : (s.setDoor n d).mode = s.mode := rfl
@[simp] theorem State.setDoor_heldCells (s : State) (n : Nat) (d : Door) : (s.setDoor n d).heldCells = s.heldCells := rfl
@[simp] theorem State.setDoor_forceCells (s : State) (n : Nat) (d : Door) : (s.setDoor n d).forceCells = s.forceCells := rfl
@[simp] theorem State.setDoor_statCells (s : State) (n : Nat) (d : Door) : (s.setDoor n d).statCells = s.statCells := rfl
@[simp] theorem State.setDoor_nvwp (s : State) (n : Nat) (d : Door) : (s.setDoor n d).nvwp = s.nvwp := rfl
@[simp] theorem State.setDoor_tap (s : State) (n : Nat) (d : Door) : (s.setDoor n d).tap = s.tap := rfl
@[simp] theorem State.setDoor_boundaryDue (s : State) (n : Nat) (d : Door) : (s.setDoor n d).boundaryDue = s.boundaryDue := rfl
@[simp] theorem State.setDoor_hif (s : State) (n : Nat) (d : Door) : (s.setDoor n d).hif = s.hif := rfl
@[simp] theorem State.setDoor_rings (s : State) (n : Nat) (d : Door) : (s.setDoor n d).rings = s.rings := rfl
@[simp] theorem State.setDoor_nvs (s : State) (n : Nat) (d : Door) : (s.setDoor n d).nvs = s.nvs := rfl
@[simp] theorem State.setDoor_pwr (s : State) (n : Nat) (d : Door) : (s.setDoor n d).pwr = s.pwr := rfl
@[simp] theorem State.setDoor_cip (s : State) (n : Nat) (d : Door) : (s.setDoor n d).cip = s.cip := rfl
@[simp] theorem State.setDoor_aut (s : State) (n : Nat) (d : Door) : (s.setDoor n d).aut = s.aut := rfl
@[simp] theorem State.setDoor_mtr (s : State) (n : Nat) (d : Door) : (s.setDoor n d).mtr = s.mtr := rfl
@[simp] theorem State.setDoor_lf (s : State) (n : Nat) (d : Door) : (s.setDoor n d).lf = s.lf := rfl
@[simp] theorem State.setDoor_cyc (s : State) (n : Nat) (d : Door) : (s.setDoor n d).cyc = s.cyc := rfl
@[simp] theorem State.setDoor_sgr (s : State) (n : Nat) (d : Door) : (s.setDoor n d).sgr = s.sgr := rfl
@[simp] theorem State.setDoor_uwb (s : State) (n : Nat) (d : Door) : (s.setDoor n d).uwb = s.uwb := rfl
@[simp] theorem State.setDoor_rad (s : State) (n : Nat) (d : Door) : (s.setDoor n d).rad = s.rad := rfl
@[simp] theorem State.setDoor_tpx (s : State) (n : Nat) (d : Door) : (s.setDoor n d).tpx = s.tpx := rfl
@[simp] theorem State.setDoor_fab (s : State) (n : Nat) (d : Door) : (s.setDoor n d).fab = s.fab := rfl
@[simp] theorem State.setDoor_upd (s : State) (n : Nat) (d : Door) : (s.setDoor n d).upd = s.upd := rfl
@[simp] theorem State.setDoor_out (s : State) (n : Nat) (d : Door) : (s.setDoor n d).out = s.out := rfl
@[simp] theorem State.setDoor_pending (s : State) (n : Nat) (d : Door) : (s.setDoor n d).pending = s.pending := rfl

/-! ### `State.setReadback` -/

@[simp] theorem State.setReadback_now (s : State) (g : Nat) (r : Readback) : (s.setReadback g r).now = s.now := rfl
@[simp] theorem State.setReadback_mode (s : State) (g : Nat) (r : Readback) : (s.setReadback g r).mode = s.mode := rfl
@[simp] theorem State.setReadback_heldCells (s : State) (g : Nat) (r : Readback) : (s.setReadback g r).heldCells = s.heldCells := rfl
@[simp] theorem State.setReadback_forceCells (s : State) (g : Nat) (r : Readback) : (s.setReadback g r).forceCells = s.forceCells := rfl
@[simp] theorem State.setReadback_statCells (s : State) (g : Nat) (r : Readback) : (s.setReadback g r).statCells = s.statCells := rfl
@[simp] theorem State.setReadback_nvwp (s : State) (g : Nat) (r : Readback) : (s.setReadback g r).nvwp = s.nvwp := rfl
@[simp] theorem State.setReadback_tap (s : State) (g : Nat) (r : Readback) : (s.setReadback g r).tap = s.tap := rfl
@[simp] theorem State.setReadback_boundaryDue (s : State) (g : Nat) (r : Readback) : (s.setReadback g r).boundaryDue = s.boundaryDue := rfl
@[simp] theorem State.setReadback_hif (s : State) (g : Nat) (r : Readback) : (s.setReadback g r).hif = s.hif := rfl
@[simp] theorem State.setReadback_rings (s : State) (g : Nat) (r : Readback) : (s.setReadback g r).rings = s.rings := rfl
@[simp] theorem State.setReadback_nvs (s : State) (g : Nat) (r : Readback) : (s.setReadback g r).nvs = s.nvs := rfl
@[simp] theorem State.setReadback_pwr (s : State) (g : Nat) (r : Readback) : (s.setReadback g r).pwr = s.pwr := rfl
@[simp] theorem State.setReadback_cip (s : State) (g : Nat) (r : Readback) : (s.setReadback g r).cip = s.cip := rfl
@[simp] theorem State.setReadback_aut (s : State) (g : Nat) (r : Readback) : (s.setReadback g r).aut = s.aut := rfl
@[simp] theorem State.setReadback_mtr (s : State) (g : Nat) (r : Readback) : (s.setReadback g r).mtr = s.mtr := rfl
@[simp] theorem State.setReadback_lf (s : State) (g : Nat) (r : Readback) : (s.setReadback g r).lf = s.lf := rfl
@[simp] theorem State.setReadback_cyc (s : State) (g : Nat) (r : Readback) : (s.setReadback g r).cyc = s.cyc := rfl
@[simp] theorem State.setReadback_sgr (s : State) (g : Nat) (r : Readback) : (s.setReadback g r).sgr = s.sgr := rfl
@[simp] theorem State.setReadback_uwb (s : State) (g : Nat) (r : Readback) : (s.setReadback g r).uwb = s.uwb := rfl
@[simp] theorem State.setReadback_rad (s : State) (g : Nat) (r : Readback) : (s.setReadback g r).rad = s.rad := rfl
@[simp] theorem State.setReadback_tpx (s : State) (g : Nat) (r : Readback) : (s.setReadback g r).tpx = s.tpx := rfl
@[simp] theorem State.setReadback_fab (s : State) (g : Nat) (r : Readback) : (s.setReadback g r).fab = s.fab := rfl
@[simp] theorem State.setReadback_upd (s : State) (g : Nat) (r : Readback) : (s.setReadback g r).upd = s.upd := rfl
@[simp] theorem State.setReadback_out (s : State) (g : Nat) (r : Readback) : (s.setReadback g r).out = s.out := rfl
@[simp] theorem State.setReadback_pending (s : State) (g : Nat) (r : Readback) : (s.setReadback g r).pending = s.pending := rfl

/-! ### `State.setSess` -/

@[simp] theorem State.setSess_now (s : State) (i : Nat) (e : SessionEntry) : (s.setSess i e).now = s.now := rfl
@[simp] theorem State.setSess_mode (s : State) (i : Nat) (e : SessionEntry) : (s.setSess i e).mode = s.mode := rfl
@[simp] theorem State.setSess_heldCells (s : State) (i : Nat) (e : SessionEntry) : (s.setSess i e).heldCells = s.heldCells := rfl
@[simp] theorem State.setSess_forceCells (s : State) (i : Nat) (e : SessionEntry) : (s.setSess i e).forceCells = s.forceCells := rfl
@[simp] theorem State.setSess_statCells (s : State) (i : Nat) (e : SessionEntry) : (s.setSess i e).statCells = s.statCells := rfl
@[simp] theorem State.setSess_nvwp (s : State) (i : Nat) (e : SessionEntry) : (s.setSess i e).nvwp = s.nvwp := rfl
@[simp] theorem State.setSess_tap (s : State) (i : Nat) (e : SessionEntry) : (s.setSess i e).tap = s.tap := rfl
@[simp] theorem State.setSess_boundaryDue (s : State) (i : Nat) (e : SessionEntry) : (s.setSess i e).boundaryDue = s.boundaryDue := rfl
@[simp] theorem State.setSess_hif (s : State) (i : Nat) (e : SessionEntry) : (s.setSess i e).hif = s.hif := rfl
@[simp] theorem State.setSess_rings (s : State) (i : Nat) (e : SessionEntry) : (s.setSess i e).rings = s.rings := rfl
@[simp] theorem State.setSess_nvs (s : State) (i : Nat) (e : SessionEntry) : (s.setSess i e).nvs = s.nvs := rfl
@[simp] theorem State.setSess_pwr (s : State) (i : Nat) (e : SessionEntry) : (s.setSess i e).pwr = s.pwr := rfl
@[simp] theorem State.setSess_cip (s : State) (i : Nat) (e : SessionEntry) : (s.setSess i e).cip = s.cip := rfl
@[simp] theorem State.setSess_aut (s : State) (i : Nat) (e : SessionEntry) : (s.setSess i e).aut = s.aut := rfl
@[simp] theorem State.setSess_lf (s : State) (i : Nat) (e : SessionEntry) : (s.setSess i e).lf = s.lf := rfl
@[simp] theorem State.setSess_cyc (s : State) (i : Nat) (e : SessionEntry) : (s.setSess i e).cyc = s.cyc := rfl
@[simp] theorem State.setSess_sgr (s : State) (i : Nat) (e : SessionEntry) : (s.setSess i e).sgr = s.sgr := rfl
@[simp] theorem State.setSess_uwb (s : State) (i : Nat) (e : SessionEntry) : (s.setSess i e).uwb = s.uwb := rfl
@[simp] theorem State.setSess_rad (s : State) (i : Nat) (e : SessionEntry) : (s.setSess i e).rad = s.rad := rfl
@[simp] theorem State.setSess_tpx (s : State) (i : Nat) (e : SessionEntry) : (s.setSess i e).tpx = s.tpx := rfl
@[simp] theorem State.setSess_fab (s : State) (i : Nat) (e : SessionEntry) : (s.setSess i e).fab = s.fab := rfl
@[simp] theorem State.setSess_upd (s : State) (i : Nat) (e : SessionEntry) : (s.setSess i e).upd = s.upd := rfl
@[simp] theorem State.setSess_out (s : State) (i : Nat) (e : SessionEntry) : (s.setSess i e).out = s.out := rfl
@[simp] theorem State.setSess_pending (s : State) (i : Nat) (e : SessionEntry) : (s.setSess i e).pending = s.pending := rfl

/-! ### A value read back -/

@[simp] theorem held_setHeld (s : State) (f : Fld) (v : Nat) : (s.setHeld f v).held f = v % 2 ^ f.width := by simp [State.held]
@[simp] theorem eff_setForce (s : State) (f : Fld) (v : Nat) : (s.setForce f v).eff f = v % 2 ^ f.width := by simp [State.eff]
@[simp] theorem stat_setStat (s : State) (f : Fld) (v : Nat) : (s.setStat f v).stat f = v % 2 ^ f.width := by simp [State.stat]

theorem held_setHeld_other (s : State) {f g : Fld} (v : Nat) (h : g.key ≠ f.key) : (s.setHeld f v).held g = s.held g := by
  simp [State.held, tblGet_tblPut_apart _ _ _ _ h]

theorem eff_setForce_other (s : State) {f g : Fld} (v : Nat) (h : g.key ≠ f.key) : (s.setForce f v).eff g = s.eff g := by
  simp [State.eff, tblGet_tblPut_apart _ _ _ _ h]

theorem stat_setStat_other (s : State) {f g : Fld} (v : Nat) (h : g.key ≠ f.key) : (s.setStat f v).stat g = s.stat g := by
  simp [State.stat, tblGet_tblPut_apart _ _ _ _ h]

@[simp] theorem ring_setRing (s : State) (n : Nat) (r : RingState) : (s.setRing n r).ring n = r := by simp [State.ring]

theorem ring_setRing_other (s : State) {n m : Nat} (r : RingState) (h : m ≠ n) : (s.setRing n r).ring m = s.ring m := by
  simp [State.ring, tblGet_tblPut_other _ _ _ h]

@[simp] theorem port_setPort (s : State) (p : Nat) (q : Port) : (s.setPort p q).port p = q := by
  simp [State.port, State.setPort]

/-! ### Guards -/

@[simp] theorem when_true (f : State → State) (s : State) : State.when true f s = f s := rfl
@[simp] theorem when_false (f : State → State) (s : State) : State.when false f s = s := rfl

end Sys2Proof.Machine
end

