-- ==== Sys2Proof/Laws/Store.lean ====
section
/-! SUPPORT. The form of the Laurel store's areas (`AreaForm`) under what the store does: a record appended, a sector closed, marked,
erased. -/
namespace Sys2Proof.Machine

set_option Elab.async false

/-- Which sectors are free, write sector and count say. -/
theorem sectorFree_congr (a : Area) (v w : AreaState) (k : Nat) (h1 : w.writeSector = v.writeSector) (h2 : w.taken = v.taken) :
    sectorFree a w k = sectorFree a v k := by unfold sectorFree freeSectors; rw [h1, h2]

/-- Sector `k` does not lie ahead of the write sector among the free ones. -/
theorem sectorFree_false {a : Area} {v : AreaState} {k : Nat} : sectorFree a v k = false ↔
    ¬ (1 ≤ (k + a.sectors - v.writeSector) % a.sectors ∧ (k + a.sectors - v.writeSector) % a.sectors ≤ a.sectors - 1 - v.taken) := by
  unfold sectorFree freeSectors
  rw [← Bool.decide_and, decide_eq_false_iff_not]

/-- An area with the same write sector and count is in form. -/
theorem AreaForm.congr {a : Area} {v w : AreaState} {l : List StoredRec} (h : AreaForm a v l) (h1 : w.writeSector = v.writeSector)
    (h2 : w.taken = v.taken) (h3 : w.erasing = true → v.erasing = true) (h4 : 16 ≤ w.fill) (h5 : w.weak.contains w.writeSector = false) :
    AreaForm a w l := by
  refine ⟨h1 ▸ h.1, h2 ▸ h.2.1, fun e => h2 ▸ h.2.2.1 (h3 e), h4, h5, fun r hr e => ?_⟩
  rw [sectorFree_congr a v w r.sector h1 h2]
  exact h.2.2.2.2.2 r hr e

/-- Fewer records keep the form. -/
theorem AreaForm.sub {a : Area} {v : AreaState} {l l' : List StoredRec} (h : AreaForm a v l) (hl : ∀ r ∈ l', r ∈ l) : AreaForm a v l' :=
  ⟨h.1, h.2.1, h.2.2.1, h.2.2.2.1, h.2.2.2.2.1, fun r hr => h.2.2.2.2.2 r (hl r hr)⟩

/-- How far a sector lies ahead of the next write sector. -/
theorem ahead_next {k w n : Nat} (hw : w < n) (hk : k < n) : (k + n - (w + 1) % n) % n = ((k + n - w) % n + n - 1) % n := by
  by_cases e : w + 1 = n
  · rw [e, Nat.mod_self]
    by_cases e2 : k + n - w < n
    · rw [Nat.mod_eq_of_lt e2, show k + n - 0 = k + n by omega]; congr 1; omega
    · rw [Nat.mod_eq_sub_mod (by omega : n ≤ k + n - w), Nat.mod_eq_of_lt (by omega : k + n - w - n < n),
        show k + n - w - n + n - 1 = k by omega, Nat.sub_zero, Nat.add_mod_right]
  · rw [Nat.mod_eq_of_lt (by omega : w + 1 < n)]
    by_cases e2 : k + n - w < n
    · rw [Nat.mod_eq_of_lt e2, Nat.mod_eq_sub_mod (by omega : n ≤ k + n - w + n - 1)]; congr 1; omega
    · rw [Nat.mod_eq_sub_mod (by omega : n ≤ k + n - w), Nat.mod_eq_of_lt (by omega : k + n - w - n < n)]
      congr 1; omega

/-- Writing goes on in the next sector, which is free. -/
theorem AreaForm.next {a : Area} {v : AreaState} {l : List StoredRec} (h : AreaForm a v l)
    (hn : nextIsFree a v = true) :
    AreaForm a (nextSector a v) l := by
  simp only [nextIsFree, Bool.and_eq_true, decide_eq_true_eq, Bool.not_eq_true'] at hn
  obtain ⟨⟨⟨h0, h1⟩, -⟩, -⟩ := hn
  have h0' : 0 < a.sectors - 1 - v.taken := h0
  obtain ⟨w1, w2, w3, w4, w5, w6⟩ := h
  refine ⟨Nat.mod_lt _ (by omega), by simp only [nextSector]; omega, fun _ => Nat.succ_pos _, Nat.le_refl _, h1, fun r hr e => ?_⟩
  obtain ⟨b1, b2⟩ := w6 r hr e
  refine ⟨b1, ?_⟩
  clear w6 h1 w5 h0
  rw [sectorFree_false] at b2 ⊢
  simp only [nextSector]
  generalize a.sectors = n at *
  rw [ahead_next w1 b1]
  generalize hg : (r.sector + n - v.writeSector) % n = g at *
  have hgn : g < n := hg ▸ Nat.mod_lt _ (by omega)
  intro c
  by_cases e4 : g = 0
  · rw [e4, Nat.mod_eq_of_lt (by omega)] at c; omega
  · rw [Nat.mod_eq_sub_mod (by omega : n ≤ g + n - 1), Nat.mod_eq_of_lt (by omega : g + n - 1 - n < n)] at c
    omega

/-- The area that takes a record is in form, and its write sector is. -/
theorem AreaForm.room {a : Area} {v w : AreaState} {l : List StoredRec} {need : Nat} (h : AreaForm a v l) (hw : areaFor a v need = some w) :
    AreaForm a w l := by
  unfold areaFor at hw
  split at hw
  · cases hw; exact h
  · split at hw
    · cases hw; exact h.next ‹_›
    · cases hw

theorem State.area_setArea_same (s : State) (a : Area) (v : AreaState) : (s.setArea a v).area a = v := by
  simp [State.area, State.setArea, tblGet_tblPut_same]

theorem Area.idx_inj {a b : Area} (h : a.idx = b.idx) : a = b := by cases a <;> cases b <;> simp_all [Area.idx]

theorem State.area_setArea_other (s : State) {a b : Area} (h : b ≠ a) (v : AreaState) : (s.setArea a v).area b = s.area b := by
  unfold State.area State.setArea
  exact tblGet_tblPut_other _ _ _ (fun e => h (Area.idx_inj e))

/-- One area replaced by one in form. -/
theorem StoreForm.setArea {s : State} (h : StoreForm s) {a : Area} {v : AreaState} (hv : AreaForm a v s.nvs.recs) :
    StoreForm (s.setArea a v) := by
  intro b
  by_cases e : b = a
  · subst e; rw [State.area_setArea_same]; exact hv
  · rw [State.area_setArea_other s e]; exact h b

/-- The write sector is not free. -/
theorem sectorFree_write {a : Area} (v : AreaState) : sectorFree a v v.writeSector = false := by simp [sectorFree]

/-- A record appended keeps the form. -/
theorem StoreForm.appendRec {s : State} (h : StoreForm s) {v : AreaState} {r : StoredRec} {len : Nat}
    (hv : AreaForm r.area v s.nvs.recs) : StoreForm (appendRec s v r len) := by
  intro b
  unfold Sys2Proof.Machine.appendRec
  by_cases e : b = r.area
  · subst e
    rw [State.area_setArea_same]
    have hc : AreaForm r.area { v with fill := v.fill + footprint len, full := !r.committed, inUse := true } s.nvs.recs :=
      hv.congr rfl rfl id (Nat.le_trans hv.2.2.2.1 (Nat.le_add_right _ _)) hv.2.2.2.2.1
    refine ⟨hc.1, hc.2.1, hc.2.2.1, hc.2.2.2.1, hc.2.2.2.2.1, fun x hx hxa => ?_⟩
    rcases List.mem_append.mp hx with hx | hx
    · exact hc.2.2.2.2.2 x hx hxa
    · rw [List.mem_singleton.mp hx]
      exact ⟨hv.1, sectorFree_write _⟩
  · rw [State.area_setArea_other _ e]
    obtain ⟨w1, w2, w3, w4, w5, w6⟩ := h b
    refine ⟨w1, w2, w3, w4, w5, fun x hx hxa => ?_⟩
    rcases List.mem_append.mp hx with hx | hx
    · exact w6 x hx hxa
    · rw [List.mem_singleton.mp hx] at hxa
      exact absurd hxa.symm e

/-- The sector to be reclaimed is not the write sector. -/
theorem reclaimSector_ne {s : State} {a : Area} {k : Nat} (h : StoreForm s) (hk : reclaimSector s a = some k) :
    k ≠ (s.area a).writeSector := by
  obtain ⟨w1, w2, w3, w4, w5, w6⟩ := h a
  unfold reclaimSector at hk
  dsimp only at hk
  split at hk
  · cases hk
  · split at hk
    · rename_i hc
      cases hk
      simp only [Bool.and_eq_true, decide_eq_true_eq] at hc
      have h1 := hc.1
      unfold freeSectors at h1
      have h2 : 0 < (s.area a).taken := by
        have : reclaimBelow a ≤ 2 := by cases a <;> decide
        have : 16 ≤ a.sectors := by cases a <;> decide
        omega
      unfold oldestSector freeSectors
      intro e
      clear w6
      generalize a.sectors = n at *
      generalize (s.area a).writeSector = w at *
      generalize (s.area a).taken = q at *
      by_cases e2 : w + 1 + (n - 1 - q) < n
      · rw [Nat.mod_eq_of_lt e2] at e; omega
      · rw [Nat.mod_eq_sub_mod (by omega), Nat.mod_eq_of_lt (by omega)] at e; omega
    · intro e
      have := List.mem_of_find?_eq_some hk
      rw [e] at this
      rw [List.contains_eq_mem] at w5
      simp_all

/-- The oldest sector that is not free is the write sector only where none is taken. -/
theorem oldest_taken {a : Area} {v : AreaState} (h1 : v.writeSector < a.sectors) (hk : oldestSector a v ≠ v.writeSector) :
    0 < v.taken := by
  rcases Nat.eq_zero_or_pos v.taken with e | e
  · exfalso; apply hk
    unfold oldestSector freeSectors
    rw [e, show v.writeSector + 1 + (a.sectors - 1 - 0) = v.writeSector + a.sectors by omega, Nat.add_mod_right, Nat.mod_eq_of_lt h1]
  · exact e

/-- An erased oldest sector is free: no record lies in it. -/
theorem AreaForm.freed {a : Area} {v : AreaState} {l : List StoredRec} (h : AreaForm a v l) (ht : 0 < v.taken)
    (hd : ∀ r ∈ l, r.area = a → r.sector ≠ oldestSector a v) {w : AreaState} (h1 : w.writeSector = v.writeSector) (h2 : w.taken = v.taken - 1)
    (h3 : w.erasing = false) (h4 : 16 ≤ w.fill) (h5 : w.weak.contains w.writeSector = false) : AreaForm a w l := by
  obtain ⟨w1, w2, w3, w4, w5, w6⟩ := h
  refine ⟨h1 ▸ w1, by omega, (fun e => by rw [h3] at e; cases e), h4, h5, fun r hr e => ?_⟩
  obtain ⟨b1, b2⟩ := w6 r hr e
  have b3 := hd r hr e
  refine ⟨b1, ?_⟩
  clear w6
  rw [sectorFree_false] at b2 ⊢
  unfold oldestSector freeSectors at b3
  rw [h1, h2]
  generalize a.sectors = n at *
  intro c
  apply b3
  have hg : (r.sector + n - v.writeSector) % n = n - v.taken := by omega
  by_cases e2 : r.sector + n - v.writeSector < n
  · rw [Nat.mod_eq_of_lt e2] at hg
    rw [Nat.mod_eq_sub_mod (by omega), Nat.mod_eq_of_lt (by omega)]; omega
  · rw [Nat.mod_eq_sub_mod (by omega), Nat.mod_eq_of_lt (by omega)] at hg
    rw [Nat.mod_eq_of_lt (by omega)]; omega

/-- The oldest sector that is taken is not the write sector. -/
theorem oldest_ne_write {a : Area} {v : AreaState} (h1 : v.writeSector < a.sectors) (h2 : v.taken < a.sectors) (h3 : 0 < v.taken) :
    oldestSector a v ≠ v.writeSector := by
  unfold oldestSector freeSectors
  intro e
  generalize a.sectors = n at *
  by_cases e2 : v.writeSector + 1 + (n - 1 - v.taken) < n
  · rw [Nat.mod_eq_of_lt e2] at e; omega
  · rw [Nat.mod_eq_sub_mod (by omega), Nat.mod_eq_of_lt (by omega)] at e; omega

/-- A record in the write sector of its area lies in a sector to be erased only where that sector is marked out of its turn or does
not count as formatted. -/
theorem inErasing_write {s : State} (h : StoreForm s) {r : StoredRec} (hr : r.sector = (s.area r.area).writeSector) :
    inErasing s r = ((s.area r.area).erase.contains r.sector || (s.area r.area).unformatted.contains r.sector) := by
  obtain ⟨w1, w2, w3, -⟩ := h r.area
  unfold inErasing
  dsimp only
  cases e : (s.area r.area).erasing
  · rw [Bool.false_and, Bool.false_or]
  · have := oldest_ne_write w1 w2 (w3 e)
    have h2 : (r.sector == oldestSector r.area (s.area r.area)) = false := by
      rw [hr]; exact beq_eq_false_iff_ne.mpr (Ne.symm this)
    simp [h2]

/-- Counting entries that the log no longer holds leaves the store alone. -/
theorem auditOverwritten_nvs (s : State) (n : Nat) : (auditOverwritten s n).nvs = s.nvs := by
  unfold auditOverwritten State.setStat; rfl

/-- Keeping free sectors drops no record. -/
theorem keepFree_recs (s : State) (a : Area) : (keepFree s a).nvs.recs = s.nvs.recs := by
  unfold keepFree
  split
  · rfl
  · split
    · split
      · unfold markErasing; dsimp only; split
        · rw [auditOverwritten_nvs]; rfl
        · rfl
      · rfl
    · rfl

/-- Keeping free sectors spares the records of the write sectors. -/
theorem keepFree_spares {s : State} (h : StoreForm s) (a : Area) {r : StoredRec} (hr : r.sector = (s.area r.area).writeSector) :
    inErasing (keepFree s a) r = inErasing s r := by
  unfold keepFree
  split
  · rfl
  · split
    · rename_i k hk
      split
      · have hne := reclaimSector_ne h hk
        have harea : ∀ v, ((if a == .audit then
            auditOverwritten (s.setArea a v) ((auditStored s - auditStored (s.setArea a v)) - (auditStored s - auditDepth))
            else s.setArea a v) : State).area r.area = (s.setArea a v).area r.area := by
          intro v; split
          · unfold State.area; rw [auditOverwritten_nvs]
          · rfl
        unfold markErasing inErasing
        dsimp only
        rw [harea]
        by_cases e : r.area = a
        · subst e
          rw [State.area_setArea_same]
          split
          · rename_i hko
            have h2 : (r.sector == oldestSector r.area (s.area r.area)) = false := by
              rw [hr, ← hko]; exact beq_eq_false_iff_ne.mpr (Ne.symm hne)
            have h3 : ∀ l, oldestSector r.area { s.area r.area with erasing := true, weak := l } = oldestSector r.area (s.area r.area) :=
              fun _ => rfl
            simp [h3, h2]
          · have h3 : ∀ l m, oldestSector r.area { s.area r.area with erase := l, weak := m } = oldestSector r.area (s.area r.area) :=
              fun _ _ => rfl
            have h4 : r.sector ≠ k := fun e => hne (e ▸ hr)
            simp [h3, h4]
        · rw [State.area_setArea_other s e]
      · rfl
    · rfl

/-- No record of a list is above its highest sequence. -/
theorem le_topSeq {l : List StoredRec} {r : StoredRec} (h : r ∈ l) : r.seq ≤ topSeq l := by
  have aux : ∀ (l : List StoredRec) (m : Nat), m ≤ l.foldl (fun m r => max m r.seq) m ∧
      ∀ r ∈ l, r.seq ≤ l.foldl (fun m r => max m r.seq) m := by
    intro l
    induction l with
    | nil => intro m; simp
    | cons x l ih =>
      intro m
      obtain ⟨i1, i2⟩ := ih (max m x.seq)
      refine ⟨Nat.le_trans (Nat.le_max_left _ _) i1, fun r hr => ?_⟩
      rcases List.mem_cons.mp hr with e | e
      · rw [e]; exact Nat.le_trans (Nat.le_max_right _ _) i1
      · exact i2 r e
  exact (aux l 0).2 r h

/-- The last record stands where its sequence is above all others' (R355). -/
theorem chooseStanding_last {l : List StoredRec} {r : StoredRec} (h : ∀ x ∈ l, x.seq < r.seq) (ha : r.area ≠ .critB) :
    chooseStanding (l ++ [r]) = some r := by
  have htop : topSeq (l ++ [r]) = r.seq := by
    have aux : ∀ (l : List StoredRec) (m : Nat), m ≤ r.seq → (∀ x ∈ l, x.seq < r.seq) →
        l.foldl (fun m r => max m r.seq) m ≤ r.seq := by
      intro l
      induction l with
      | nil => intro m hm _; exact hm
      | cons x l ih =>
        intro m hm hx
        exact ih _ (Nat.max_le.mpr ⟨hm, Nat.le_of_lt (hx x (List.mem_cons_self ..))⟩) (fun y hy => hx y (List.mem_cons_of_mem _ hy))
    have h1 := aux l 0 (Nat.zero_le _) h
    unfold topSeq
    rw [List.foldl_append]
    exact Nat.max_eq_right h1
  have hfil : (l ++ [r]).filter (fun x => x.seq == topSeq (l ++ [r])) = [r] := by
    rw [htop, List.filter_append]
    have : l.filter (fun x => x.seq == r.seq) = [] := by
      rw [List.filter_eq_nil_iff]
      intro x hx
      have := h x hx
      simp; omega
    rw [this]; simp
  unfold chooseStanding
  dsimp only
  rw [hfil]
  simp [ha]

/-- A record that is programmed and reads back stands for its key (R352, R355), in an area in form and other than CRIT_B, where its
write sector is neither to be erased nor unformatted and holds no header whose check fails. -/
theorem programItem_stands {s t : State} {i : RecItem} {w : AreaState} (h : StoreForm s) (ha : i.area ≠ .critB)
    (hw : areaFor i.area (s.area i.area) (footprint i.len) = some w)
    (he : (w.erase.contains w.writeSector || w.unformatted.contains w.writeSector) = false)
    (hh : ∀ r ∈ s.nvs.recs, r.area = i.area → r.sector = w.writeSector → r.headOk = true)
    (ht : programItem s i true = some t) :
    standing t i.key = if i.delete then none else some i.data := by
  unfold programItem at ht
  rw [hw] at ht
  simp only [if_true, Option.some.injEq] at ht
  generalize hr0 : (⟨i.area, 0, 0, false, i.key, itemSeq s i, i.delete, false, true, true, true, none, i.data⟩ : StoredRec) = r0 at ht
  generalize hr : ({ r0 with sector := w.writeSector, offset := w.fill, lap := w.lap } : StoredRec) = r
  generalize hu : appendRec s w r0 i.len = u at ht
  have hra : r0.area = i.area := by rw [← hr0]
  have hform : StoreForm u := by
    rw [← hu]; exact h.appendRec (by rw [hra]; exact (h i.area).room hw)
  have hrecs : u.nvs.recs = s.nvs.recs ++ [r] := by rw [← hu, ← hr]; rfl
  have harea : u.area i.area = { w with fill := w.fill + footprint i.len, full := !r0.committed, inUse := true } := by
    rw [← hu, ← hra]; exact State.area_setArea_same _ _ _
  have hrt : t.nvs.recs = s.nvs.recs ++ [r] := by rw [← ht, keepFree_recs, hrecs]
  have hrarea : r.area = i.area := by rw [← hr]; exact hra
  have hsec : r.sector = w.writeSector := by rw [← hr]
  have hin : inErasing t r = false := by
    have h1 : r.sector = (u.area r.area).writeSector := by rw [hrarea, harea, hsec]
    rw [← ht, keepFree_spares hform _ h1, inErasing_write hform h1, hrarea, harea, hsec]
    exact he
  have hbey : beyondReadable t r = false := by
    unfold beyondReadable
    rw [hrt, List.any_eq_false]
    intro x hx
    rcases List.mem_append.mp hx with hx | hx
    · simp only [Bool.and_eq_true, Bool.not_eq_true', beq_iff_eq, decide_eq_true_eq, not_and]
      intro e1 e2
      exact absurd (hh x hx (e1.1.2.trans hrarea) (e1.2.trans hsec)) (by simp [e1.1.1])
    · rw [List.mem_singleton.mp hx]; simp
  have hval : recValid t r = true := by
    unfold recValid
    rw [hin, hbey, ← hr, ← hr0]; rfl
  have hseq : r.seq = nextRecSeq s i.key := by
    rw [← hr, ← hr0]
    have : (i.area == Area.critB) = false := beq_eq_false_iff_ne.mpr ha
    simp [itemSeq, this]
  have hkey : r.key = i.key := by rw [← hr, ← hr0]
  have hof : ∃ l, recsOf t i.key = l ++ [r] ∧ ∀ x ∈ l, x.seq < r.seq := by
    refine ⟨s.nvs.recs.filter (fun x => x.key == i.key && recValid t x), ?_, fun x hx => ?_⟩
    · unfold recsOf
      rw [hrt, List.filter_append]
      congr 1
      simp [hkey, hval]
    · obtain ⟨x1, x2⟩ := List.mem_filter.mp hx
      simp only [Bool.and_eq_true, beq_iff_eq] at x2
      have x3 : x.committed = true := by
        have := x2.2
        unfold recValid at this
        simp only [Bool.and_eq_true] at this
        exact this.1.1.1.1
      have : x.seq ≤ topOf s i.key (fun _ => true) := le_topSeq (List.mem_filter.mpr ⟨x1, by simp [x2.1, x3]⟩)
      rw [hseq]; unfold nextRecSeq; omega
  obtain ⟨l, hl1, hl2⟩ := hof
  unfold standing
  rw [hl1, chooseStanding_last hl2 (by rw [hrarea]; exact ha)]
  dsimp only
  rw [← hr, ← hr0]

end Sys2Proof.Machine
end

