-- ==== Sys2Proof/Laws/Within.lean ====
section
/-! SUPPORT. What every operation of the model keeps and where it may write. `Keeps s t` is what no operation breaks
    (the queue,
the clock, the device identifier, the one-time fuses, the rings' legal values, the
store's form); `Within M z t` adds that `t` is `z` outside the parts `M`. Each operation has one lemma `<name>_within`:
    from a state within `M` of `z` it answers one within `M` of `z`, if the
parts it touches are in `M`. -/
namespace Sys2Proof.Machine

/-- What every command keeps: the queue, the clock, the device identifier, the one-time fuses, the legal rings and the
    form of the store. -/
structure Keeps (s t : State) : Prop where
  /-- the queue of commands -/
  pending : t.pending = s.pending
  /-- the clock -/
  now : t.now = s.now
  /-- the device identifier -/
  device : t.cip.deviceId = s.cip.deviceId
  /-- the version floor never falls -/
  floor : s.upd.floor ≤ t.upd.floor
  /-- the application key, once fused, stays -/
  appKey : s.upd.appKey ≠ 0 → t.upd.appKey = s.upd.appKey
  /-- the unique key, once drawn, stays -/
  uniqueKey : s.cip.uniqueKey.isSome = true → t.cip.uniqueKey = s.cip.uniqueKey
  /-- legal rings stay legal -/
  rings : RingsLegal s → RingsLegal t
  /-- a store in form stays in form -/
  form : StoreForm s → StoreForm t

theorem Keeps.refl (s : State) : Keeps s s := ⟨rfl, rfl, rfl, Nat.le_refl _, fun _ => rfl, fun _ => rfl, id, id⟩

theorem Keeps.trans {s t u : State} (h : Keeps s t) (g : Keeps t u) : Keeps s u where
  pending := g.pending.trans h.pending
  now := g.now.trans h.now
  device := g.device.trans h.device
  floor := Nat.le_trans h.floor g.floor
  appKey := fun a => (g.appKey (by rw [h.appKey a]; exact a)).trans (h.appKey a)
  uniqueKey := fun a => (g.uniqueKey (by rw [h.uniqueKey a]; exact a)).trans (h.uniqueKey a)
  rings := fun a => g.rings (h.rings a)
  form := fun a => g.form (h.form a)

theorem Keeps.of_eq {s t u : State} (h : Keeps s t) (e1 : u.rings = t.rings) (e2 : u.pending = t.pending)
    (e3 : u.now = t.now)
    (e4 : u.cip.deviceId = t.cip.deviceId) (e5 : u.upd.floor = t.upd.floor) (e6 : u.upd.appKey = t.upd.appKey)
    (e7 : u.cip.uniqueKey = t.cip.uniqueKey) (e8 : u.nvs.recs = t.nvs.recs) (e9 : u.nvs.areas = t.nvs.areas) : Keeps s u :=
  h.trans ⟨e2, e3, e4, Nat.le_of_eq e5.symm, fun _ => e6, fun _ => e7,
    fun a n => by have := a n; unfold State.ring at *; rw [e1]; exact this,
    fun a n => by have := a n; unfold State.area at *; rw [e8, e9]; exact this⟩

theorem openDescs_removeFirst (r : RingState) (p : Outst → Bool) :
    (openDescs { r with outstanding := removeFirst p r.outstanding }).length ≤ (openDescs r).length := by
  unfold openDescs
  dsimp only
  generalize r.outstanding = l
  induction l with
  | nil => simp [removeFirst]
  | cons a l ih =>
    simp only [removeFirst]
    split
    · simp only [List.filter_cons]; split <;> simp
    · simp only [List.filter_cons]
      split
      · simpa using ih
      · exact ih

theorem openDescs_updateFirst (r : RingState) (p : Outst → Bool) (f : Outst → Outst) (hf : ∀ o, (f o).orphan = o.orphan) :
    (openDescs { r with outstanding := updateFirst p f r.outstanding }).length = (openDescs r).length := by
  unfold openDescs
  dsimp only
  generalize r.outstanding = l
  induction l with
  | nil => rfl
  | cons a l ih =>
    simp only [updateFirst]
    split
    · simp only [List.filter_cons, hf]; split <;> simp
    · simp only [List.filter_cons]
      split
      · simpa using ih
      · exact ih

theorem ringLegal_reset : RingLegal RingState.reset := by
  unfold RingLegal; simp [RingState.reset, openDescs]

theorem clampReport_ring (s : State) (o l w a b c n : Nat) : (clampReport s o l w a b c).ring n = s.ring n := by
  unfold clampReport
  dsimp only
  split <;> rfl

theorem ringClamp_ring (s : State) (n o l w v lo hi : Nat) : (ringClamp s n o l w v lo hi).1.ring n = s.ring n := by
  unfold ringClamp
  dsimp only
  repeat' split
  all_goals first | rfl | exact clampReport_ring _ _ _ _ _ _ _ _

theorem ringClamp_bounds (s : State) (n o l w v lo hi : Nat) (h : lo ≤ hi) :
    lo ≤ (ringClamp s n o l w v lo hi).2 ∧ (ringClamp s n o l w v lo hi).2 ≤ hi := by
  unfold ringClamp
  dsimp only
  repeat' split
  all_goals omega

theorem baseHalf_aligned {b : Nat} (h : b % 4096 = 0) (half w : Nat) : baseHalf b half w % 4096 = 0 := by
  unfold baseHalf
  split <;> omega

theorem Untouched.trans {M : List Part} {s t u : State} (h : Untouched M s t) (g : Untouched M t u) : Untouched M s u where
  rings a := (g.rings a).trans (h.rings a)
  host a := (g.host a).trans (h.host a)
  fabric a := (g.fabric a).trans (h.fabric a)
  status a := (g.status a).trans (h.status a)
  output a := (g.output a).trans (h.output a)
  nonces a := (g.nonces a).trans (h.nonces a)
  events a := (g.events a).trans (h.events a)
  mode a := (g.mode a).trans (h.mode a)
  held a := (g.held a).trans (h.held a)
  force a := (g.force a).trans (h.force a)
  nvwp a := (g.nvwp a).trans (h.nvwp a)
  tap a := (g.tap a).trans (h.tap a)
  boundary a := (g.boundary a).trans (h.boundary a)
  store a := (g.store a).trans (h.store a)
  power a := by have x := g.power a; rw [h.power a] at x; exact x
  keys a := by have x := g.keys a; rw [h.keys a] at x; exact x
  holly a := (g.holly a).trans (h.holly a)
  release a := (g.release a).trans (h.release a)
  metering a := (g.metering a).trans (h.metering a)
  field a := (g.field a).trans (h.field a)
  cycle a := (g.cycle a).trans (h.cycle a)
  subGhz a := (g.subGhz a).trans (h.subGhz a)
  uwb a := (g.uwb a).trans (h.uwb a)
  radio a := (g.radio a).trans (h.radio a)
  transponder a := (g.transponder a).trans (h.transponder a)
  update a := (g.update a).trans (h.update a)

theorem Untouched.refl (M : List Part) (s : State) : Untouched M s s :=
  ⟨fun _ => rfl, fun _ => rfl, fun _ => rfl, fun _ => rfl, fun _ => rfl, fun _ => rfl, fun _ => rfl, fun _ => rfl, fun _
      => rfl, fun _ => rfl, fun _ => rfl, fun _ => rfl, fun _ => rfl, fun _ => rfl, fun _ => rfl, fun _ => rfl, fun _ =>
      rfl, fun _ => rfl, fun _ => rfl, fun _ => rfl, fun _ => rfl, fun _ => rfl, fun _ => rfl, fun _ => rfl, fun _ =>
      rfl, fun _ => rfl⟩

/-- `t` keeps what must be kept of `z` and agrees with it outside the parts `M`. -/
structure Within (M : List Part) (z t : State) : Prop where
  /-- what is kept -/
  keeps : Keeps z t
  /-- the frame -/
  untouched : Untouched M z t

theorem Within.refl (M : List Part) (s : State) : Within M s s := ⟨Keeps.refl s, Untouched.refl M s⟩

theorem Within.trans {M : List Part} {s t u : State} (h : Within M s t) (k : Keeps t u) (g : Untouched M t u)
    : Within M s u :=
  ⟨h.keeps.trans k, h.untouched.trans g⟩

/-- A state written out field by field. -/
def stateOf (now : Nat) (mode : Mode) (heldCells : Cells) (forceCells : Cells) (statCells : Cells) (nvwp : Bool) (tap : Nat)
    (boundaryDue : Bool) (hif : Hif) (rings : Tbl RingState) (nvs : Nvs) (pwr : Pwr) (cip : Cip) (aut : Aut) (rel : Rel)
    (mtr : Mtr) (lf : Lf) (cyc : Cyc) (sgr : Sgr) (uwb : Uwb) (rad : Rad) (tpx : Tpx) (fab : Fab) (upd : Upd)
    (out : List Output) (pending : List Instr) : State :=
  ⟨now, mode, heldCells, forceCells, statCells, nvwp, tap, boundaryDue, hif, rings, nvs, pwr, cip, aut, rel, mtr, lf,
      cyc, sgr, uwb, rad, tpx, fab, upd, out, pending⟩

theorem within_mk {M : List Part}
    {z : State} {now mode heldCells forceCells statCells nvwp tap boundaryDue hif rings nvs pwr cip aut rel mtr lf cyc sgr uwb rad tpx fab upd out pending} :
    Within M z (State.mk now mode heldCells forceCells statCells nvwp tap boundaryDue hif rings nvs pwr cip aut rel mtr
        lf cyc sgr uwb rad tpx fab upd out pending) = Within M z (stateOf now mode heldCells forceCells statCells nvwp
        tap boundaryDue hif rings nvs pwr cip aut rel mtr lf cyc sgr uwb rad tpx fab upd out pending) := rfl

theorem Within.upd {M : List Part} {z t : State} (h
    : Within M z t) {x_mode x_heldCells x_forceCells x_statCells x_nvwp x_tap x_boundaryDue x_hif x_nvs x_pwr x_cip x_aut x_rel x_mtr x_lf x_cyc x_sgr x_uwb x_rad x_tpx x_fab x_upd x_out}
    (e1 : x_cip.deviceId = t.cip.deviceId) (e2 : x_upd.floor = t.upd.floor) (e3 : x_upd.appKey = t.upd.appKey)
    (e4 : x_cip.uniqueKey = t.cip.uniqueKey) (e5 : x_nvs.recs = t.nvs.recs) (e6 : x_nvs.areas = t.nvs.areas)
    (h_host : Part.host ∈ M ∨ x_hif = t.hif)
    (h_fabric : Part.fabric ∈ M ∨ x_fab = t.fab)
    (h_status : Part.status ∈ M ∨ x_statCells = t.statCells)
    (h_output : Part.output ∈ M ∨ x_out = t.out)
    (h_mode : Part.mode ∈ M ∨ x_mode = t.mode)
    (h_held : Part.held ∈ M ∨ x_heldCells = t.heldCells)
    (h_force : Part.force ∈ M ∨ x_forceCells = t.forceCells)
    (h_nvwp : Part.nvwp ∈ M ∨ x_nvwp = t.nvwp)
    (h_tap : Part.tap ∈ M ∨ x_tap = t.tap)
    (h_boundary : Part.boundary ∈ M ∨ x_boundaryDue = t.boundaryDue)
    (h_store : Part.store ∈ M ∨ x_nvs = t.nvs)
    (h_holly : Part.holly ∈ M ∨ x_aut = t.aut)
    (h_release : Part.release ∈ M ∨ x_rel = t.rel)
    (h_metering : Part.metering ∈ M ∨ x_mtr = t.mtr)
    (h_field : Part.field ∈ M ∨ x_lf = t.lf)
    (h_cycle : Part.cycle ∈ M ∨ x_cyc = t.cyc)
    (h_subGhz : Part.subGhz ∈ M ∨ x_sgr = t.sgr)
    (h_uwb : Part.uwb ∈ M ∨ x_uwb = t.uwb)
    (h_radio : Part.radio ∈ M ∨ x_rad = t.rad)
    (h_transponder : Part.transponder ∈ M ∨ x_tpx = t.tpx)
    (h_update : Part.update ∈ M ∨ x_upd = t.upd)
    (h_nonces : Part.nonces ∈ M ∨ (x_cip.drbg, x_cip.reseedDue) = (t.cip.drbg, t.cip.reseedDue))
    (h_keys : Part.keys ∈ M ∨ x_cip = { t.cip with drbg := x_cip.drbg, reseedDue := x_cip.reseedDue })
    (h_events : Part.events ∈ M ∨ x_pwr.eventSeq = t.pwr.eventSeq)
    (h_power : Part.power ∈ M ∨ x_pwr = { t.pwr with eventSeq := x_pwr.eventSeq }) :
    Within M z (stateOf t.now x_mode x_heldCells x_forceCells x_statCells x_nvwp x_tap x_boundaryDue x_hif t.rings x_nvs
        x_pwr x_cip x_aut x_rel x_mtr x_lf x_cyc x_sgr x_uwb x_rad x_tpx x_fab x_upd x_out t.pending) :=
  h.trans (Keeps.of_eq (Keeps.refl t) rfl rfl rfl e1 e2 e3 e4 e5 e6)
    ⟨fun _ => rfl, h_host.resolve_left, h_fabric.resolve_left, h_status.resolve_left, h_output.resolve_left,
        h_nonces.resolve_left, h_events.resolve_left, h_mode.resolve_left, h_held.resolve_left, h_force.resolve_left,
        h_nvwp.resolve_left, h_tap.resolve_left, h_boundary.resolve_left, h_store.resolve_left, h_power.resolve_left,
        h_keys.resolve_left, h_holly.resolve_left, h_release.resolve_left, h_metering.resolve_left,
        h_field.resolve_left, h_cycle.resolve_left, h_subGhz.resolve_left, h_uwb.resolve_left, h_radio.resolve_left,
        h_transponder.resolve_left, h_update.resolve_left⟩

/-- A change of the store alone that keeps its form. -/
theorem Within.inStore {M : List Part} {z t : State} {v : Nvs} (h : Within M z t) (hm : Part.store ∈ M)
    (hf : StoreForm z → StoreForm { t with nvs := v }) : Within M z { t with nvs := v } :=
  ⟨⟨h.keeps.pending, h.keeps.now, h.keeps.device, h.keeps.floor, h.keeps.appKey, h.keeps.uniqueKey, h.keeps.rings, hf⟩,
    h.untouched.trans { Untouched.refl M t with store := fun a => absurd hm a }⟩

/-- Every part of `a` is one of `b`, as a computation. -/
def subParts (a b : List Part) : Bool := a.all (fun p => b.contains p)

/-- Every part of `a` is one of `M`. -/
def Sub (a M : List Part) : Prop := ∀ p, p ∈ a → p ∈ M

theorem Sub.of {a b M : List Part} (h : subParts a b = true) (hm : Sub b M) : Sub a M := fun p hp =>
  hm p (List.contains_iff_mem.mp (List.all_eq_true.mp h p hp))

theorem Sub.has {b M : List Part} {p : Part} (hm : Sub b M) (h : b.contains p = true) : p ∈ M :=
  hm p (List.contains_iff_mem.mp h)

theorem within_foldl {M : List Part} {z : State} {β : Type} {f : State → β → State}
    (hf : ∀ t b, Within M z t → Within M z (f t b)) : ∀ (l : List β) (t : State), Within M z t → Within M z (l.foldl f t)
  | [], _, h => h
  | b :: l, t, h => within_foldl hf l (f t b) (hf t b h)

theorem within_foldl_fst {M : List Part} {z : State} {β γ : Type} {f : State × γ → β → State × γ}
    (hf : ∀ p b, Within M z p.1 → Within M z (f p b).1) :
    ∀ (l : List β) (p : State × γ), Within M z p.1 → Within M z (l.foldl f p).1
  | [], _, h => h
  | b :: l, p, h => within_foldl_fst hf l (f p b) (hf p b h)

theorem within_ite {M : List Part} {z a b : State} {c : Prop} {i : Decidable c} (h1 : Within M z a) (h2 : Within M z b) :
    Within M z (@ite State c i a b) := by split <;> assumption

/-- Whatever next state the answer gives is within `M` of `z`. -/
def AnsWithin (M : List Part) (z : State) (a : Ans) : Prop := ∀ t, a = .next t → Within M z t

theorem ansWithin_next {M : List Part} {z t : State} (h : Within M z t) : AnsWithin M z (.next t) := by
  intro u e; cases e; exact h

/-- A command whose roles are there reaches them. -/
theorem inputTo_there {s : State} {c : Instr} {a : Ans} (h : rolesThere s c = true) : inputTo s c a = a := by
  unfold inputTo; rw [if_pos h]

end Sys2Proof.Machine
end

