-- ==== Sys2Proof/Laws/WithinShared.lean ====
section
/-! SUPPORT. What each definition keeps and where it may write (Laws/Within.lean): the shared operations: fields, rings,
frames, schedules, the field, the sub-GHz transceiver, the store, the keys and Holly. -/
namespace Sys2Proof.Machine

set_option Elab.async false

theorem State.setForce_within {M : List Part} {z : State} (s : State) (f : Fld) (v : Nat) (hs : Within M z s)
    (hm : Sub [.force] M) : Within M z (State.setForce s f v) := by
  unfold State.setForce
  try dsimp only
  repeat' (first
      | (with_reducible first
          | assumption | exact rfl | exact Or.inr rfl | exact Or.inl (Sub.has hm (by decide +kernel)))
      | (simp only [within_mk]; with_reducible apply Within.upd))

theorem State.setStat_within {M : List Part} {z : State} (s : State) (f : Fld) (v : Nat) (hs : Within M z s)
    (hm : Sub [.status] M) : Within M z (State.setStat s f v) := by
  unfold State.setStat
  try dsimp only
  repeat' (first
      | (with_reducible first
          | assumption | exact rfl | exact Or.inr rfl | exact Or.inl (Sub.has hm (by decide +kernel)))
      | (simp only [within_mk]; with_reducible apply Within.upd))

theorem State.raise_within {M : List Part} {z : State} (s : State) (f : Fld) (hs : Within M z s) (hm : Sub [.status] M)
    : Within M z (State.raise s f) := by
  unfold State.raise
  try dsimp only
  repeat' (first | (with_reducible first | assumption | exact Sub.of (by decide +kernel) hm | apply State.setStat_within))

theorem State.setHeld_within {M : List Part} {z : State} (s : State) (f : Fld) (v : Nat) (hs : Within M z s)
    (hm : Sub [.held] M) : Within M z (State.setHeld s f v) := by
  unfold State.setHeld
  try dsimp only
  repeat' (first
      | (with_reducible first
          | assumption | exact rfl | exact Or.inr rfl | exact Or.inl (Sub.has hm (by decide +kernel)))
      | (simp only [within_mk]; with_reducible apply Within.upd))

theorem State.raiseBit_within {M : List Part} {z : State} (s : State) (f : Fld) (n : Nat) (hs : Within M z s)
    (hm : Sub [.status] M) : Within M z (State.raiseBit s f n) := by
  unfold State.raiseBit
  try dsimp only
  repeat' (first | (with_reducible first | assumption | exact Sub.of (by decide +kernel) hm | apply State.setStat_within))

theorem reseedStarts_within {M : List Part} {z : State} (s : State) (hs : Within M z s) (hm : Sub [.status, .nonces] M)
    : Within M z (reseedStarts s) := by
  unfold reseedStarts
  try dsimp only
  repeat' (first
      | (with_reducible first
          | assumption | exact Sub.of (by decide +kernel) hm | exact Or.inr rfl
          | exact Or.inl (Sub.has hm (by decide +kernel)) | apply State.setStat_within)
      | (simp only [within_mk]; with_reducible refine Within.upd ?_ rfl rfl rfl rfl rfl rfl ?_ ?_ ?_ ?_ ?_ ?_ ?_ ?_ ?_ ?_ ?_ ?_ ?_ ?_ ?_ ?_ ?_ ?_ ?_ ?_ ?_ ?_ ?_ ?_ ?_))

theorem State.bump_within {M : List Part} {z : State} (s : State) (f : Fld) (hs : Within M z s) (hm : Sub [.status] M)
    : Within M z (State.bump s f) := by
  unfold State.bump
  try dsimp only
  repeat' (first | (with_reducible first | assumption | exact Sub.of (by decide +kernel) hm | apply State.setStat_within))

theorem reseedByCount_within {M : List Part} {z : State} (s : State) (hs : Within M z s) (hm : Sub [.status, .nonces] M)
    : Within M z (reseedByCount s) := by
  unfold reseedByCount
  try dsimp only
  repeat' (first
      | (with_reducible first
          | assumption | exact rfl | exact Sub.of (by decide +kernel) hm | exact Or.inr rfl
          | exact Or.inl (Sub.has hm (by decide +kernel)) | apply reseedStarts_within | apply within_ite)
      | (simp only [within_mk]; with_reducible apply Within.upd) | split)

theorem State.draw_within {M : List Part} {z : State} (s : State) (hs : Within M z s) (hm : Sub [.status, .nonces] M)
    : Within M z (State.draw s).2 := by
  unfold State.draw
  try dsimp only
  repeat' (first
      | (with_reducible first
          | assumption | exact rfl | exact Sub.of (by decide +kernel) hm | exact Or.inr rfl
          | exact Or.inl (Sub.has hm (by decide +kernel)) | apply reseedByCount_within)
      | (simp only [within_mk]; with_reducible apply Within.upd))

theorem State.drawMask_within {M : List Part} {z : State} (s : State) (hs : Within M z s) (hm : Sub [.status, .nonces] M)
    : Within M z (State.drawMask s).2 := by
  unfold State.drawMask
  try dsimp only
  repeat' (first | (with_reducible first | assumption | exact Sub.of (by decide +kernel) hm | apply State.draw_within))

theorem State.sampleNvwp_within {M : List Part} {z : State} (s : State) (level : Option Bool) (hs : Within M z s)
    (hm : Sub [.nvwp] M) : Within M z (State.sampleNvwp s level) := by
  unfold State.sampleNvwp
  try dsimp only
  repeat' (first
      | (with_reducible first
          | assumption | exact rfl | exact Or.inr rfl | exact Or.inl (Sub.has hm (by decide +kernel)))
      | (simp only [within_mk]; with_reducible apply Within.upd))

theorem State.when_within {M : List Part} {z : State} (c : Bool) (f : State → State) (s : State) (hf : ∀
    (v0 : State), Within M z v0 → Within M z (f v0)) (hs : Within M z s) (hm : Sub [] M)
    : Within M z (State.when c f s) := by
  unfold State.when
  try dsimp only
  repeat' (first | (with_reducible first | assumption | apply hf | apply within_ite) | split)

theorem State.setRing_within {M : List Part} {z : State} (s : State) (n : Nat) (r : RingState) (hs : Within M z s)
    (hm : Sub [.rings] M) (hr : RingsLegal z → RingLegal r) : Within M z (s.setRing n r) where
  keeps := ⟨hs.keeps.pending, hs.keeps.now, hs.keeps.device, hs.keeps.floor, hs.keeps.appKey, hs.keeps.uniqueKey, fun a
      m => by
    by_cases e : m = n
    · subst e
      have : (s.setRing m r).ring m = r := tblGet_tblPut_same _ _ _ _
      rw [this]; exact hr a
    · have : (s.setRing n r).ring m = s.ring m := tblGet_tblPut_other _ _ _ e
      rw [this]; exact hs.keeps.rings a m, hs.keeps.form⟩
  untouched := { hs.untouched with rings := fun h => absurd (hm _ (List.mem_singleton.mpr rfl)) h }

theorem State.emit_within {M : List Part} {z : State} (s : State) (o : Output) (hs : Within M z s) (hm : Sub [.output] M)
    : Within M z (State.emit s o) := by
  unfold State.emit
  try dsimp only
  repeat' (first
      | (with_reducible first
          | assumption | exact rfl | exact Or.inr rfl | exact Or.inl (Sub.has hm (by decide +kernel)))
      | (simp only [within_mk]; with_reducible apply Within.upd))

theorem seqAccept_within {M : List Part} {z : State} (s : State) (src : Nat) (cls : Nat) (q : Nat) (hs : Within M z s)
    (hm : Sub [.fabric] M) : Within M z (seqAccept s src cls q) := by
  unfold seqAccept
  try dsimp only
  repeat' (first
      | (with_reducible first
          | assumption | exact rfl | exact Or.inr rfl | exact Or.inl (Sub.has hm (by decide +kernel)))
      | (simp only [within_mk]; with_reducible apply Within.upd))

theorem countDrop_within {M : List Part} {z : State} (s : State) (c : Nat) (hs : Within M z s) (hm : Sub [.status] M)
    : Within M z (countDrop s c) := by
  unfold countDrop
  try dsimp only
  repeat' (first | (with_reducible first | assumption | exact Sub.of (by decide +kernel) hm | apply State.bump_within))

theorem freeCells_within {M : List Part} {z : State} (s : State) (f : QFrame) (hs : Within M z s) (hm : Sub [.fabric] M)
    : Within M z (freeCells s f) := by
  unfold freeCells
  try dsimp only
  repeat' (first
      | (with_reducible first
          | assumption | exact rfl | exact Or.inr rfl | exact Or.inl (Sub.has hm (by decide +kernel)) | apply within_ite)
      | (simp only [within_mk]; with_reducible apply Within.upd) | split)

theorem State.setQueue_within {M : List Part} {z : State} (s : State) (o : Nat) (c : Nat) (q : OutQ) (hs : Within M z s)
    (hm : Sub [.fabric] M) : Within M z (State.setQueue s o c q) := by
  unfold State.setQueue
  try dsimp only
  repeat' (first
      | (with_reducible first
          | assumption | exact rfl | exact Or.inr rfl | exact Or.inl (Sub.has hm (by decide +kernel)))
      | (simp only [within_mk]; with_reducible apply Within.upd))

theorem startBlock_within {M : List Part} {z : State} (s : State) (o : Nat) (hs : Within M z s) (hm : Sub [.fabric] M)
    : Within M z (startBlock s o) := by
  unfold startBlock
  try dsimp only
  repeat' (first
      | (with_reducible first
          | assumption | exact rfl | exact Sub.of (by decide +kernel) hm | exact Or.inr rfl
          | exact Or.inl (Sub.has hm (by decide +kernel)) | apply State.setQueue_within | apply within_ite)
      | (simp only [within_mk]; with_reducible apply Within.upd) | split)

theorem kick_within {M : List Part} {z : State} (s : State) (o : Nat) (hs : Within M z s) (hm : Sub [.fabric] M)
    : Within M z (kick s o) := by
  unfold kick
  try dsimp only
  repeat' (first
      | (with_reducible first
          | assumption | exact Sub.of (by decide +kernel) hm | apply startBlock_within | apply within_ite)
      | split)

theorem storeCopy_within {M : List Part} {z : State} (s : State) (o : Nat) (f : Bytes) (ahead : Bool) (hs : Within M z s)
    (hm : Sub [.fabric, .status] M) : Within M z (storeCopy s o f ahead) := by
  unfold storeCopy
  try dsimp only
  repeat' (first
      | (with_reducible first
          | assumption | exact rfl | exact Sub.of (by decide +kernel) hm | exact Or.inr rfl
          | exact Or.inl (Sub.has hm (by decide +kernel)) | apply State.setQueue_within | apply State.raise_within
          | apply countDrop_within | apply kick_within | apply within_ite)
      | (simp only [within_mk]; with_reducible apply Within.upd) | split)

theorem linkCopy_within {M : List Part} {z : State} (s : State) (o : Nat) (f : Bytes) (hs : Within M z s)
    (hm : Sub [.fabric, .status] M) : Within M z (linkCopy s o f) := by
  unfold linkCopy
  try dsimp only
  repeat' (first
      | (with_reducible first
          | assumption | exact Sub.of (by decide +kernel) hm | apply storeCopy_within | apply within_ite)
      | split)

theorem forward_within {M : List Part} {z : State} (s : State) (o : Nat) (f : Bytes) (hs : Within M z s)
    (hm : Sub [.fabric, .status, .output] M) : Within M z (forward s o f) := by
  unfold forward
  try dsimp only
  repeat' (first
      | (with_reducible first
          | assumption | exact Sub.of (by decide +kernel) hm | apply storeCopy_within | apply State.emit_within
          | apply countDrop_within | apply within_ite)
      | split)

theorem mcastCopy_within {M : List Part} {z : State} (s : State) (o : Nat) (f : Bytes) (hs : Within M z s)
    (hm : Sub [.fabric, .status, .output] M) : Within M z (mcastCopy s o f) := by
  unfold mcastCopy
  try dsimp only
  repeat' (first
      | (with_reducible first
          | assumption | exact Sub.of (by decide +kernel) hm | apply linkCopy_within | apply forward_within
          | apply within_ite)
      | split)

theorem State.setPort_within {M : List Part} {z : State} (s : State) (p : Nat) (q : Port) (hs : Within M z s)
    (hm : Sub [.fabric] M) : Within M z (State.setPort s p q) := by
  unfold State.setPort
  try dsimp only
  repeat' (first
      | (with_reducible first
          | assumption | exact rfl | exact Or.inr rfl | exact Or.inl (Sub.has hm (by decide +kernel)))
      | (simp only [within_mk]; with_reducible apply Within.upd))

theorem hostCopy_within {M : List Part} {z : State} (s : State) (f : Bytes) (hs : Within M z s)
    (hm : Sub [.fabric, .status] M) : Within M z (hostCopy s f) := by
  unfold hostCopy
  try dsimp only
  repeat' (first
      | (with_reducible first
          | assumption | exact Sub.of (by decide +kernel) hm | apply storeCopy_within | apply within_ite)
      | split)

theorem originateMcast_within {M : List Part} {z : State} (s : State) (f : Bytes) (hs : Within M z s)
    (hm : Sub [.fabric, .status, .output] M) : Within M z (originateMcast s f) := by
  unfold originateMcast
  try dsimp only
  repeat' (first
      | (with_reducible first
          | assumption | exact Sub.of (by decide +kernel) hm | apply countDrop_within | apply hostCopy_within
          | apply mcastCopy_within | apply within_ite)
      | split)

theorem kickAll_within {M : List Part} {z : State} (s : State) (hs : Within M z s) (hm : Sub [.fabric] M)
    : Within M z (kickAll s) := by
  unfold kickAll
  try dsimp only
  repeat' (first
      | (with_reducible first
          | assumption | intro _ | exact Sub.of (by decide +kernel) hm | apply kick_within | apply within_foldl
          | apply within_foldl_fst))

theorem State.setBank_within {M : List Part} {z : State} (s : State) (e : Nat) (b : Bank) (hs : Within M z s)
    (hm : Sub [.fabric] M) : Within M z (State.setBank s e b) := by
  unfold State.setBank
  try dsimp only
  repeat' (first
      | (with_reducible first
          | assumption | exact rfl | exact Or.inr rfl | exact Or.inl (Sub.has hm (by decide +kernel)))
      | (simp only [within_mk]; with_reducible apply Within.upd))

theorem lookupForward_within {M : List Part} {z : State} (s : State) (input : Nat) (f : Bytes) (hs : Within M z s)
    (hm : Sub [.fabric, .status, .output] M) : Within M z (lookupForward s input f) := by
  unfold lookupForward
  try dsimp only
  repeat' (first
      | (with_reducible first
          | assumption | exact Sub.of (by decide +kernel) hm | apply storeCopy_within | apply forward_within
          | apply countDrop_within | apply within_ite)
      | split)

theorem nextSeq_within {M : List Part} {z : State} (s : State) (dst : Nat) (mcast : Bool) (cls : Nat) (hs : Within M z s)
    (hm : Sub [.fabric, .status, .nonces] M) : Within M z (nextSeq s dst mcast cls).2 := by
  unfold nextSeq
  try dsimp only
  repeat' (first
      | (with_reducible first
          | assumption | exact rfl | exact Sub.of (by decide +kernel) hm | exact Or.inr rfl
          | exact Or.inl (Sub.has hm (by decide +kernel)) | apply State.draw_within | apply within_ite)
      | (simp only [within_mk]; with_reducible apply Within.upd) | split)

theorem buildFrame_within {M : List Part} {z : State} (s : State) (dst : Nat) (mcast : Bool) (anon : Bool) (cls : Nat)
    (typ : Nat) (payload : Bytes) (hs : Within M z s) (hm : Sub [.fabric, .status, .nonces] M)
    : Within M z (buildFrame s dst mcast anon cls typ payload).2.2 := by
  unfold buildFrame
  try dsimp only
  repeat' (first
      | (with_reducible first
          | assumption | exact Sub.of (by decide +kernel) hm | apply nextSeq_within | apply within_ite)
      | split)

theorem sendFrame_within {M : List Part} {z : State} (s : State) (dst : Nat) (mcast : Bool) (anon : Bool) (cls : Nat)
    (typ : Nat) (payload : Bytes) (hs : Within M z s) (hm : Sub sendPath M)
    : Within M z (sendFrame s dst mcast anon cls typ payload).2 := by
  unfold sendFrame
  try dsimp only
  repeat' (first
      | (with_reducible first
          | assumption | exact Sub.of (by decide +kernel) hm | apply buildFrame_within | apply originateMcast_within
          | apply lookupForward_within | apply within_ite)
      | split)

theorem sendGroup15_within {M : List Part} {z : State} (s : State) (typ : Nat) (payload : Bytes) (hs : Within M z s)
    (hm : Sub sendPath M) : Within M z (sendGroup15 s typ payload) := by
  unfold sendGroup15
  try dsimp only
  repeat' (first | (with_reducible first | assumption | exact Sub.of (by decide +kernel) hm | apply sendFrame_within))

theorem sendIdle_within {M : List Part} {z : State} (s : State) (p : Nat) (hs : Within M z s)
    (hm : Sub [.fabric, .output] M) : Within M z (sendIdle s p) := by
  unfold sendIdle
  try dsimp only
  repeat' (first
      | (with_reducible first
          | assumption | exact Sub.of (by decide +kernel) hm | apply State.emit_within | apply State.setPort_within))

theorem sendSymbols_within {M : List Part} {z : State} (s : State) (p : Nat) (block : List Symbol) (hs : Within M z s)
    (hm : Sub [.fabric, .output] M) : Within M z (sendSymbols s p block) := by
  unfold sendSymbols
  try dsimp only
  repeat' (first
      | (with_reducible first
          | assumption | exact Sub.of (by decide +kernel) hm | apply State.emit_within | apply State.setPort_within
          | apply sendIdle_within | apply within_ite)
      | split)

theorem stopTx_within {M : List Part} {z : State} (s : State) (p : Nat) (hs : Within M z s) (hm : Sub [.fabric] M)
    : Within M z (stopTx s p) := by
  unfold stopTx
  try dsimp only
  repeat' (first
      | (with_reducible first
          | assumption | exact rfl | intro _ | exact Sub.of (by decide +kernel) hm | exact Or.inr rfl
          | exact Or.inl (Sub.has hm (by decide +kernel)) | apply State.setQueue_within | apply within_foldl
          | apply within_foldl_fst)
      | (simp only [within_mk]; with_reducible apply Within.upd))

theorem sendBlock_within {M : List Part} {z : State} (s : State) (o : Nat) (c : Nat) (hs : Within M z s)
    (hm : Sub [.fabric, .output] M) : Within M z (sendBlock s o c) := by
  unfold sendBlock
  try dsimp only
  repeat' (first
      | (with_reducible first
          | assumption | exact Sub.of (by decide +kernel) hm | apply State.setQueue_within | apply sendSymbols_within
          | apply within_ite)
      | split)

theorem sendToHead_within {M : List Part} {z : State} (s : State) (typ : Nat) (payload : Bytes) (hs : Within M z s)
    (hm : Sub sendPath M) : Within M z (sendToHead s typ payload) := by
  unfold sendToHead
  try dsimp only
  repeat' (first | (with_reducible first | assumption | exact Sub.of (by decide +kernel) hm | apply sendFrame_within))

theorem portTrains_within {M : List Part} {z : State} (s : State) (p : Nat) (hs : Within M z s)
    (hm : Sub [.fabric, .output] M) : Within M z (portTrains s p) := by
  unfold portTrains
  try dsimp only
  repeat' (first
      | (with_reducible first
          | assumption | exact Sub.of (by decide +kernel) hm | apply State.setPort_within | apply sendIdle_within
          | apply within_ite)
      | split)

theorem ringCmd_within {M : List Part} {z : State} (n : Nat) (op : Nat) (tag : Nat) (f : Desc → State → State) (s : State)
    (hf : ∀ (v0 : Desc) (v1 : State), Within M z v1 → Within M z (f v0 v1)) (hs : Within M z s) (hm : Sub [] M)
    : Within M z (ringCmd n op tag f s) := by
  unfold ringCmd
  try dsimp only
  repeat' (first | (with_reducible first | assumption | apply hf | apply within_ite) | split)

theorem proxyTransmit_within {M : List Part} {z : State} (s : State) (pos : Nat) (cls : Nat) (f : ProxyFrame) (hs
    : Within M z s) (hm : Sub sendPath M) : Within M z (proxyTransmit s pos cls f) := by
  unfold proxyTransmit
  try dsimp only
  repeat' (first
      | (with_reducible first
          | assumption | exact Sub.of (by decide +kernel) hm | apply sendFrame_within | apply within_ite)
      | split)

theorem State.setLink_within {M : List Part} {z : State} (s : State) (pos : Nat) (cls : Nat) (l : ProxyLink) (hs
    : Within M z s) (hm : Sub [.host] M) : Within M z (State.setLink s pos cls l) := by
  unfold State.setLink
  try dsimp only
  repeat' (first
      | (with_reducible first
          | assumption | exact rfl | exact Or.inr rfl | exact Or.inl (Sub.has hm (by decide +kernel)))
      | (simp only [within_mk]; with_reducible apply Within.upd))

theorem proxySend_within {M : List Part} {z : State} (s : State) (pos : Nat) (ring : Nat) (kind : Nat) (body : Bytes) (hs
    : Within M z s) (hm : Sub (sendPath ++ [Part.host]) M) : Within M z (proxySend s pos ring kind body) := by
  unfold proxySend
  try dsimp only
  repeat' (first
      | (with_reducible first
          | assumption | exact Sub.of (by decide +kernel) hm | apply proxyTransmit_within | apply State.setLink_within
          | apply within_ite)
      | split)

theorem dma_within {M : List Part} {z : State} (s : State) (ring : Nat) (addr : Nat) (data : Bytes) (hs : Within M z s)
    (hm : Sub (sendPath ++ [Part.host]) M) : Within M z (dma s ring addr data) := by
  unfold dma
  try dsimp only
  repeat' (first
      | (with_reducible first
          | assumption | exact rfl | intro _ | exact Sub.of (by decide +kernel) hm | exact Or.inr rfl
          | exact Or.inl (Sub.has hm (by decide +kernel)) | apply State.emit_within | apply proxySend_within
          | apply within_ite | apply within_foldl | apply within_foldl_fst)
      | (simp only [within_mk]; with_reducible apply Within.upd) | split)

theorem signalHead_within {M : List Part} {z : State} (s : State) (v : Nat) (hs : Within M z s)
    (hm : Sub [.host, .output] M) : Within M z (signalHead s v) := by
  unfold signalHead
  try dsimp only
  repeat' (first
      | (with_reducible first
          | assumption | exact rfl | exact Sub.of (by decide +kernel) hm | exact Or.inr rfl
          | exact Or.inl (Sub.has hm (by decide +kernel)) | apply State.emit_within | apply within_ite)
      | (simp only [within_mk]; with_reducible apply Within.upd) | split)

theorem signal_within {M : List Part} {z : State} (s : State) (ring : Nat) (v : Nat) (hs : Within M z s)
    (hm : Sub (sendPath ++ [Part.host]) M) : Within M z (signal s ring v) := by
  unfold signal
  try dsimp only
  repeat' (first
      | (with_reducible first
          | assumption | exact rfl | exact Sub.of (by decide +kernel) hm | exact Or.inr rfl
          | exact Or.inl (Sub.has hm (by decide +kernel)) | apply signalHead_within | apply proxySend_within
          | apply within_ite)
      | (simp only [within_mk]; with_reducible apply Within.upd) | split)

theorem writeCompletion_within {M : List Part} {z : State} (s : State) (n : Nat) (tag : Nat) (status : Nat) (result : Nat)
    (noInt : Bool) (hs : Within M z s) (hm : Sub ringPath M)
    : Within M z (writeCompletion s n tag status result noInt) := by
  unfold writeCompletion
  dsimp only
  split
  · exact hs
  · next hp =>
    have hd : (s.ring n).phase ≠ .disabled := by intro e; simp [e] at hp
    with_reducible repeat' (first | assumption | exact Sub.of (by decide +kernel) hm | apply within_ite | apply signal_within | apply State.setRing_within | apply dma_within)
    all_goals
      intro a
      obtain ⟨h1, h2, h3, h4, h5, h6, h7, h8, h9, h10, h11, h12⟩ := hs.keeps.rings a n
      obtain ⟨h12, h13, h14, h15⟩ := h12 hd
      refine ⟨h1, h2, h3, h4, h5, h6, h7, h8, h9, h10, h11, fun _ => ⟨h12, h13, ?_, h15⟩⟩
      dsimp only
      split <;> omega

theorem complete_within {M : List Part} {z : State} (s : State) (n : Nat) (tag : Nat) (status : Nat) (result : Nat) (hs
    : Within M z s) (hm : Sub ringPath M) : Within M z (complete s n tag status result) := by
  unfold complete
  have hr : ∀ p, Within M z (s.setRing n { s.ring n with outstanding := removeFirst p (s.ring n).outstanding }) := fun p =>
    State.setRing_within _ _ _ hs (Sub.of (by decide +kernel) hm) fun a => by
      obtain ⟨h1, h2, h3, h4, h5, h6, h7, h8, h9, h10, h11, h12⟩ := hs.keeps.rings a n
      exact ⟨h1, h2, h3, h4, h5, h6, h7, h8, h9, h10, Nat.le_trans (openDescs_removeFirst _ p) h11, h12⟩
  split
  · exact hs
  · dsimp only
    split
    · exact hr _
    · exact writeCompletion_within _ _ _ _ _ _ (hr _) hm

theorem ringCmdIf_within {M : List Part} {z : State} (n : Nat) (op : Nat) (tag : Nat) (ok : Desc → Bool)
    (f : Desc → State → State) (s : State) (hf : ∀ (v0 : Desc) (v1 : State), Within M z v1 → Within M z (f v0 v1)) (hs
    : Within M z s) (hm : Sub ringPath M) : Within M z (ringCmdIf n op tag ok f s) := by
  unfold ringCmdIf
  try dsimp only
  repeat' (first
      | (with_reducible first
          | assumption | intro _ | exact Sub.of (by decide +kernel) hm | apply ringCmd_within | apply complete_within
          | apply hok | apply hf | apply within_ite)
      | split)

theorem bumpOvf_within {M : List Part} {z : State} (s : State) (n : Nat) (hs : Within M z s) (hm : Sub [.rings] M)
    : Within M z (bumpOvf s n) := by
  exact State.setRing_within _ _ _ hs (Sub.of (by decide +kernel) hm) fun a => by
    obtain ⟨h1, h2, h3, h4, h5, h6, h7, h8, h9, h10, h11, h12⟩ := hs.keeps.rings a n
    exact ⟨h1, h2, h3, h4, h5, h6, h7, h8, h9, h10, h11, h12⟩

theorem cmdDma_within {M : List Part} {z : State} (s : State) (n : Nat) (tag : Nat) (addr : Nat) (data : Bytes) (hs
    : Within M z s) (hm : Sub (sendPath ++ [Part.host]) M) : Within M z (cmdDma s n tag addr data) := by
  unfold cmdDma
  try dsimp only
  repeat' (first
      | (with_reducible first
          | assumption | exact Sub.of (by decide +kernel) hm | apply dma_within | apply within_ite)
      | split)

theorem completeData_within {M : List Part} {z : State} (s : State) (n : Nat) (d : Desc) (data : Bytes) (result : Nat) (hs
    : Within M z s) (hm : Sub ringPath M) : Within M z (completeData s n d data result) := by
  unfold completeData
  try dsimp only
  repeat' (first
      | (with_reducible first
          | assumption | exact Sub.of (by decide +kernel) hm | apply complete_within | apply cmdDma_within))

theorem fillBuffer_within {M : List Part} {z : State} (s : State) (n : Nat) (op : Nat) (data : Bytes) (result : Nat) (hs
    : Within M z s) (hm : Sub ringPath M) : Within M z (fillBuffer s n op data result) := by
  unfold fillBuffer
  try dsimp only
  repeat' (first
      | (with_reducible first
          | assumption | exact Sub.of (by decide +kernel) hm | apply completeData_within | apply bumpOvf_within)
      | split)

theorem refuseSilent_within {M : List Part} {z : State} (s : State) (n : Nat) (d : Desc) (len : Nat) (hs : Within M z s)
    (hm : Sub ringPath M) : Within M z (refuseSilent s n d len) := by
  unfold refuseSilent
  try dsimp only
  repeat' (first | (with_reducible first | assumption | exact Sub.of (by decide +kernel) hm | apply completeData_within))

theorem event_within {M : List Part} {z : State} (s : State) (block : Nat) (code : Nat) (detail : Bytes) (hs : Within M z s)
    (hm : Sub hostPath M) : Within M z (event s block code detail) := by
  unfold event
  try dsimp only
  repeat' (first
      | (with_reducible first
          | assumption | exact rfl | exact Sub.of (by decide +kernel) hm | exact Or.inr rfl
          | exact Or.inl (Sub.has hm (by decide +kernel)) | apply fillBuffer_within)
      | (simp only [within_mk]; with_reducible apply Within.upd))

theorem raiseEvent_within {M : List Part} {z : State} (s : State) (f : Fld) (block : Nat) (detail : Bytes) (hs
    : Within M z s) (hm : Sub hostPath M) : Within M z (raiseEvent s f block detail) := by
  unfold raiseEvent
  try dsimp only
  repeat' (first
      | (with_reducible first
          | assumption | exact Sub.of (by decide +kernel) hm | apply event_within | apply State.raise_within))

theorem markTaken_within {M : List Part} {z : State} (s : State) (n : Nat) (tag : Nat) (past : Bool) (hs : Within M z s)
    (hm : Sub [.rings] M) : Within M z (markTaken s n tag past) := by
  unfold markTaken
  exact State.setRing_within _ _ _ hs (Sub.of (by decide +kernel) hm) fun a => by
    obtain ⟨h1, h2, h3, h4, h5, h6, h7, h8, h9, h10, h11, h12⟩ := hs.keeps.rings a n
    exact ⟨h1, h2, h3, h4, h5, h6, h7, h8, h9, h10,
      Nat.le_trans (Nat.le_of_eq (openDescs_updateFirst (s.ring n) (fun o => o.desc.tag == tag)
        (fun o => { o with taken := true, past := past }) (fun _ => rfl))) h11, h12⟩

theorem signalError_within {M : List Part} {z : State} (s : State) (hs : Within M z s)
    (hm : Sub (sendPath ++ [Part.host]) M) : Within M z (signalError s) := by
  unfold signalError
  try dsimp only
  repeat' (first
      | (with_reducible first
          | assumption | exact Sub.of (by decide +kernel) hm | apply signal_within | apply within_ite)
      | split)

theorem audit_within {M : List Part} {z : State} (s : State) (source : Nat) (ring : Nat) (opcode : Nat) (requester : Nat)
    (off : Nat) (before : Nat) (after : Nat) (detail : Nat) (hs : Within M z s) (hm : Sub [.host, .status] M)
    : Within M z (audit s source ring opcode requester off before after detail) := by
  unfold audit
  try dsimp only
  repeat' (first
      | (with_reducible first
          | assumption | exact rfl | exact Sub.of (by decide +kernel) hm | exact Or.inr rfl
          | exact Or.inl (Sub.has hm (by decide +kernel)) | apply State.setStat_within | apply State.bump_within
          | apply within_ite)
      | (simp only [within_mk]; with_reducible apply Within.upd) | split)

theorem proxyDrain_within {M : List Part} {z : State} (a0_ : Nat) (a1_ : State) (a2_ : Nat) (a3_ : Nat) (ha1_
    : Within M z a1_) (hm : Sub (sendPath ++ [Part.host]) M) : Within M z (proxyDrain a0_ a1_ a2_ a3_) := by
  induction a0_ generalizing a1_ a2_ a3_ with
  | zero =>
    unfold proxyDrain
    try dsimp only
    repeat' (first
        | (with_reducible first
            | assumption | exact Sub.of (by decide +kernel) hm | apply proxyTransmit_within | apply State.setLink_within
            | apply within_ite)
        | split)
  | succ k ih =>
    unfold proxyDrain
    try dsimp only
    repeat' (first
        | (with_reducible first
            | apply ih | assumption | exact Sub.of (by decide +kernel) hm | apply proxyTransmit_within
            | apply State.setLink_within | apply within_ite)
        | split)

theorem passAbort_within {M : List Part} {z : State} (s : State) (n : Nat) (tag : Nat) (hs : Within M z s)
    (hm : Sub [.rings] M) : Within M z (passAbort s n tag) := by
  unfold passAbort
  exact State.setRing_within _ _ _ hs (Sub.of (by decide +kernel) hm) fun a => by
    obtain ⟨h1, h2, h3, h4, h5, h6, h7, h8, h9, h10, h11, h12⟩ := hs.keeps.rings a n
    exact ⟨h1, h2, h3, h4, h5, h6, h7, h8, h9, h10,
      Nat.le_trans (Nat.le_of_eq (openDescs_updateFirst (s.ring n) (fun o => o.desc.tag == tag)
        (fun o => { o with past := true }) (fun _ => rfl))) h11, h12⟩

theorem postBuffer_within {M : List Part} {z : State} (n : Nat) (op : Nat) (minLen : Nat) (tag : Nat) (s : State) (hs
    : Within M z s) (hm : Sub ringPath M) : Within M z (postBuffer n op minLen tag s) := by
  unfold postBuffer
  try dsimp only
  repeat' (first
      | (with_reducible first
          | assumption | intro _ | exact Sub.of (by decide +kernel) hm | apply ringCmdIf_within | apply markTaken_within))

theorem auditCmd_within {M : List Part} {z : State} (s : State) (ring : Nat) (opcode : Nat) (detail : Nat) (hs
    : Within M z s) (hm : Sub [.host, .status] M) : Within M z (auditCmd s ring opcode detail) := by
  unfold auditCmd
  try dsimp only
  repeat' (first | (with_reducible first | assumption | exact Sub.of (by decide +kernel) hm | apply audit_within))

theorem storeField_within {M : List Part} {z : State} (s : State) (f : Fld) (t : Timing) (v : Nat) (hs : Within M z s)
    (hm : Sub [.host, .held, .force, .boundary, .metering] M) : Within M z (storeField s f t v) := by
  unfold storeField
  try dsimp only
  repeat' (first
      | (with_reducible first
          | assumption | exact rfl | exact Sub.of (by decide +kernel) hm | exact Or.inr rfl
          | exact Or.inl (Sub.has hm (by decide +kernel)) | apply State.setHeld_within | apply State.setForce_within)
      | (simp only [within_mk]; with_reducible apply Within.upd) | split)

theorem clampReport_within {M : List Part} {z : State} (s : State) (off : Nat) (lsb : Nat) (width : Nat) (written : Nat)
    (applied : Nat) (source : Nat) (hs : Within M z s) (hm : Sub [.host, .status] M)
    : Within M z (clampReport s off lsb width written applied source) := by
  unfold clampReport
  try dsimp only
  repeat' (first
      | (with_reducible first
          | assumption | exact rfl | exact Sub.of (by decide +kernel) hm | exact Or.inr rfl
          | exact Or.inl (Sub.has hm (by decide +kernel)) | apply State.bump_within | apply State.setStat_within
          | apply within_ite)
      | (simp only [within_mk]; with_reducible apply Within.upd) | split)

theorem dropDependent_within {M : List Part} {z : State} (source : Nat) (off : Nat) (f : Fld) (t : Timing) (s : State) (hs
    : Within M z s) (hm : Sub [.host, .status, .held, .force, .boundary, .metering] M)
    : Within M z (dropDependent source off f t s) := by
  unfold dropDependent
  try dsimp only
  repeat' (first
      | (with_reducible first
          | assumption | exact Sub.of (by decide +kernel) hm | apply storeField_within | apply clampReport_within
          | apply within_ite)
      | split)

theorem clampToRecord_within {M : List Part} {z : State} (s : State) (f : Fld) (l : Limit) (hs : Within M z s)
    (hm : Sub [.host, .status, .held, .force] M) : Within M z (clampToRecord s f l) := by
  unfold clampToRecord
  try dsimp only
  repeat' (first
      | (with_reducible first
          | assumption | exact rfl | exact Sub.of (by decide +kernel) hm | exact Or.inr rfl
          | exact Or.inl (Sub.has hm (by decide +kernel)) | apply clampReport_within | apply State.setForce_within
          | apply State.setHeld_within | apply audit_within | apply within_ite)
      | (simp only [within_mk]; with_reducible apply Within.upd) | split)

theorem recordTakesEffect_within {M : List Part} {z : State} (s : State) (hs : Within M z s)
    (hm : Sub [.host, .status, .held, .force, .radio] M) : Within M z (recordTakesEffect s) := by
  unfold recordTakesEffect
  try dsimp only
  repeat' (first
      | (with_reducible first
          | assumption | exact rfl | exact Sub.of (by decide +kernel) hm | exact Or.inr rfl
          | exact Or.inl (Sub.has hm (by decide +kernel)) | apply State.raise_within | apply clampToRecord_within
          | apply within_ite)
      | (simp only [within_mk]; with_reducible apply Within.upd) | split)

theorem bundleField_within {M : List Part} {z : State} (source : Nat) (p : Nat) (s : State) (e : Fld × Timing × List Nat)
    (hs : Within M z s) (hm : Sub [.host, .status, .held, .force, .boundary, .metering] M)
    : Within M z (bundleField source p s e) := by
  unfold bundleField
  try dsimp only
  repeat' (first
      | (with_reducible first
          | assumption | exact Sub.of (by decide +kernel) hm | apply clampReport_within | apply storeField_within
          | apply within_ite)
      | split)

theorem noteProfile_within {M : List Part} {z : State} (s : State) (hs : Within M z s) (hm : Sub [.host] M)
    : Within M z (noteProfile s) := by
  unfold noteProfile
  try dsimp only
  repeat' (first
      | (with_reducible first
          | assumption | exact rfl | exact Or.inr rfl | exact Or.inl (Sub.has hm (by decide +kernel)))
      | (simp only [within_mk]; with_reducible apply Within.upd))

theorem selectProfile_within {M : List Part} {z : State} (source : Nat) (v : Nat) (s : State) (hs : Within M z s)
    (hm : Sub [.host, .status, .held, .force, .boundary, .metering] M) : Within M z (selectProfile source v s) := by
  unfold selectProfile
  try dsimp only
  repeat' (first
      | (with_reducible first
          | assumption | intro _ | exact Sub.of (by decide +kernel) hm | apply clampReport_within
          | apply State.setStat_within | apply storeField_within | apply noteProfile_within | apply bundleField_within
          | apply within_ite | apply within_foldl | apply within_foldl_fst)
      | split)

theorem dependents_within {M : List Part} {z : State} (source : Nat) (off : Nat) (s : State) (hs : Within M z s)
    (hm : Sub [.host, .status, .held, .force, .boundary, .metering] M) : Within M z (dependents source off s) := by
  unfold dependents
  try dsimp only
  repeat' (first
      | (with_reducible first
          | assumption | intro _ | exact Sub.of (by decide +kernel) hm | apply dropDependent_within | apply within_ite
          | apply within_foldl | apply within_foldl_fst)
      | split)

theorem writeField_within {M : List Part} {z : State} (source : Nat) (blob : Bool) (off : Nat) (w : Nat) (s : State)
    (r : FieldSpec) (hs : Within M z s) (hm : Sub [.host, .status, .held, .force, .boundary, .metering] M)
    : Within M z (writeField source blob off w s r) := by
  unfold writeField
  try dsimp only
  repeat' (first
      | (with_reducible first
          | assumption | exact Sub.of (by decide +kernel) hm | apply State.setStat_within | apply clampReport_within
          | apply storeField_within | apply within_ite)
      | split)

theorem writeFields_within {M : List Part} {z : State} (source : Nat) (blob : Bool) (off : Nat) (w : Nat) (s : State) (hs
    : Within M z s) (hm : Sub [.host, .status, .held, .force, .boundary, .metering] M)
    : Within M z (writeFields source blob off w s) := by
  unfold writeFields
  try dsimp only
  repeat' (first
      | (with_reducible first
          | assumption | intro _ | exact Sub.of (by decide +kernel) hm | apply dependents_within
          | apply writeField_within | apply within_foldl | apply within_foldl_fst))

theorem applyTiming_within {M : List Part} {z : State} (t : Timing) (s : State) (hs : Within M z s) (hm : Sub [.force] M)
    : Within M z (applyTiming t s) := by
  unfold applyTiming
  try dsimp only
  repeat' (first
      | (with_reducible first
          | assumption | intro _ | exact Sub.of (by decide +kernel) hm | apply State.setForce_within
          | apply within_foldl | apply within_foldl_fst))

theorem noteChannels_within {M : List Part} {z : State} (s : State) (hs : Within M z s) (hm : Sub [.status] M)
    : Within M z (noteChannels s) := by
  unfold noteChannels
  try dsimp only
  repeat' (first
      | (with_reducible first
          | assumption | exact Sub.of (by decide +kernel) hm | apply State.raise_within)
      | split)

theorem State.setArea_within {M : List Part} {z : State} (s : State) (a : Area) (v : AreaState) (hs : Within M z s)
    (hv : StoreForm s → AreaForm a v s.nvs.recs) (hm : Sub [.store] M) : Within M z (s.setArea a v) :=
  hs.inStore (Sub.has hm (by decide +kernel)) (fun h => (hs.keeps.form h).setArea (hv (hs.keeps.form h)))

theorem auditOverwritten_within {M : List Part} {z : State} (s : State) (n : Nat) (hs : Within M z s) (hm : Sub [.status] M)
    : Within M z (auditOverwritten s n) := by
  unfold auditOverwritten
  try dsimp only
  repeat' (first | (with_reducible first | assumption | exact Sub.of (by decide +kernel) hm | apply State.setStat_within))

theorem markErasing_within {M : List Part} {z : State} (s : State) (a : Area) (k : Nat) (hs : Within M z s)
    (hk : StoreForm s → k ≠ (s.area a).writeSector) (hm : Sub [.status, .store] M) : Within M z (markErasing s a k) := by
  unfold markErasing
  dsimp only
  have hw (h : StoreForm s) : (List.filter (fun x => x != k) (s.area a).weak).contains (s.area a).writeSector = false := by
    have w5 := (h a).2.2.2.2.1
    rw [List.contains_eq_mem, decide_eq_false_iff_not] at w5 ⊢
    exact fun c => w5 (List.mem_filter.mp c).1
  have ht : Within M z (s.setArea a (if k = oldestSector a (s.area a)
      then { s.area a with erasing := true, weak := (s.area a).weak.filter (fun x => x != k) }
      else { s.area a with erase := (s.area a).erase ++ [k], weak := (s.area a).weak.filter (fun x => x != k) })) := by
    refine State.setArea_within _ _ _ hs (fun h => ?_) (Sub.of (by decide +kernel) hm)
    split
    · next e =>
      obtain ⟨w1, w2, w3, w4, w5, w6⟩ := h a
      refine ⟨w1, w2, fun _ => oldest_taken w1 (fun c => hk h (e.trans c)), w4, hw h, fun r hr hra => ?_⟩
      exact ⟨(w6 r hr hra).1, (sectorFree_congr a (s.area a) _ r.sector rfl rfl).trans (w6 r hr hra).2⟩
    · exact (h a).congr rfl rfl id (h a).2.2.2.1 (hw h)
  generalize s.setArea a _ = t at ht ⊢
  split
  · exact auditOverwritten_within _ _ ht (Sub.of (by decide +kernel) hm)
  · exact ht

theorem keepFree_within {M : List Part} {z : State} (s : State) (a : Area) (hs : Within M z s)
    (hm : Sub [.status, .store] M) : Within M z (keepFree s a) := by
  unfold keepFree
  split
  · exact hs
  · split
    · next k e =>
      split
      · exact markErasing_within _ _ _ hs (fun h => reclaimSector_ne h e) (Sub.of (by decide +kernel) hm)
      · exact hs
    · exact hs

theorem appendRec_within {M : List Part} {z : State} (s : State) (v : AreaState) (r : StoredRec) (len : Nat) (hs
    : Within M z s)
    (hv : StoreForm s → AreaForm r.area v s.nvs.recs) (hm : Sub [.store] M) : Within M z (appendRec s v r len) :=
  hs.inStore (Sub.has hm (by decide +kernel)) (fun h => (hs.keeps.form h).appendRec (hv (hs.keeps.form h)))

theorem verifyFailed_within {M : List Part} {z : State} (s : State) (hs : Within M z s) (hm : Sub [.status] M)
    : Within M z (verifyFailed s) := by
  unfold verifyFailed
  try dsimp only
  repeat' (first
      | (with_reducible first
          | assumption | exact Sub.of (by decide +kernel) hm | apply State.bump_within | apply State.raise_within))

theorem programItem_within {M : List Part} {z : State} (s : State) (i : RecItem) (verifyOk : Bool) (hs : Within M z s)
    (hm : Sub [.status, .store] M) : ∀ u, programItem s i verifyOk = some u → Within M z u := by
  unfold programItem
  dsimp only
  intro u e
  split at e
  · cases e
  · next v ev =>
    cases e
    have ht := keepFree_within _ i.area (appendRec_within s v ⟨i.area, 0, 0, false, i.key, itemSeq s i, i.delete, false,
        verifyOk, verifyOk,
      verifyOk, none, i.data⟩ i.len hs (fun h => (h i.area).room ev) (Sub.of (by decide +kernel) hm)) (Sub.of (by decide +kernel) hm)
    split
    · exact ht
    · exact verifyFailed_within _ ht (Sub.of (by decide +kernel) hm)

theorem changeCmd_within {M : List Part} {z : State} (n : Nat) (d : Desc) (protected_ : Bool) (f : State → State)
    (s : State) (hf : ∀ (v0 : State), Within M z v0 → Within M z (f v0)) (hs : Within M z s) (hm : Sub ringPath M)
    : Within M z (changeCmd n d protected_ f s) := by
  unfold changeCmd
  try dsimp only
  repeat' (first
      | (with_reducible first
          | assumption | exact Sub.of (by decide +kernel) hm | apply complete_within | apply hf | apply within_ite)
      | split)

theorem nvRequest_within {M : List Part} {z : State} (s : State) (items : List RecItem) (eff : NvEffect) (hs : Within M z s)
    (hm : Sub [.store] M) : Within M z (nvRequest s items eff) := by
  unfold nvRequest
  try dsimp only
  repeat' (first
      | (with_reducible first
          | assumption | exact rfl | exact Or.inr rfl | exact Or.inl (Sub.has hm (by decide +kernel)))
      | (simp only [within_mk]; with_reducible apply Within.upd))

theorem dropSector_within {M : List Part} {z : State} (s : State) (a : Area) (k : Nat) (hs : Within M z s)
    (hm : Sub [.store] M) : Within M z (dropSector s a k) := by
  exact hs.inStore (Sub.has hm (by decide +kernel)) (fun h b => (hs.keeps.form h b).sub (fun r hr => (List.mem_filter.mp hr).1))

theorem reclaimWeak_within {M : List Part} {z : State} (s : State) (a : Area) (k : Nat) (hs : Within M z s)
    (hm : Sub [.status, .store] M) : Within M z (reclaimWeak s a k) := by
  unfold reclaimWeak
  dsimp only
  split
  · exact hs
  · next hc =>
    refine keepFree_within _ _ (State.setArea_within _ _ _ hs (fun h => ?_) (Sub.of (by decide +kernel) hm)) (Sub.of (by decide +kernel) hm)
    simp only [Bool.or_eq_true, decide_eq_true_eq, not_or, Bool.and_eq_true, not_and, Bool.not_eq_true] at hc
    split
    · next e =>
      have hn := (h a).next (by have := hc.2 e; simpa using this)
      refine hn.congr rfl rfl id hn.2.2.2.1 ?_
      have w5 := hn.2.2.2.2.1
      rw [List.contains_eq_mem, decide_eq_false_iff_not] at w5 ⊢
      intro c
      rcases List.mem_append.mp c with c | c
      · exact w5 c
      · have c := List.mem_singleton.mp c
        have w1 := (h a).1
        rw [e] at c
        unfold nextSector at c
        dsimp only at c
        by_cases hl : (s.area a).writeSector + 1 < a.sectors
        · rw [Nat.mod_eq_of_lt hl] at c; omega
        · rw [show (s.area a).writeSector + 1 = a.sectors by omega, Nat.mod_self] at c
          have : 16 ≤ a.sectors := by cases a <;> decide
          omega
    · next e =>
      refine (h a).congr rfl rfl id (h a).2.2.2.1 ?_
      have w5 := (h a).2.2.2.2.1
      rw [List.contains_eq_mem, decide_eq_false_iff_not] at w5 ⊢
      intro c
      rcases List.mem_append.mp c with c | c
      · exact w5 c
      · exact e (List.mem_singleton.mp c).symm

theorem countErase_within {M : List Part} {z : State} (s : State) (a : Area) (k : Nat) (hs : Within M z s)
    (hm : Sub (hostPath ++ [Part.store]) M) : Within M z (countErase s a k) := by
  unfold countErase
  have ht (n : Nat) : Within M z (s.setArea a { s.area a with erases := tblPut 0 (s.area a).erases k n }) :=
    State.setArea_within _ _ _ hs (fun h => (h a).congr rfl rfl id (h a).2.2.2.1 (h a).2.2.2.2.1) (Sub.of (by decide +kernel) hm)
  dsimp only
  generalize (if ((s.area a).unformatted.contains k) = true then highestErase s a else tblGet 0 (s.area a).erases k) + 1 = n
  split
  · exact raiseEvent_within _ _ _ _ (ht _) (Sub.of (by decide +kernel) hm)
  · exact ht _

theorem countErase_store (s : State) (a : Area) (k : Nat) : (countErase s a k).nvs.recs = s.nvs.recs ∧
    ∃ e, (countErase s a k).area a = { s.area a with erases := e } := by
  unfold countErase
  dsimp only
  generalize (if ((s.area a).unformatted.contains k) = true then highestErase s a else tblGet 0 (s.area a).erases k) + 1 = n
  have ht := State.area_setArea_same s a { s.area a with erases := tblPut 0 (s.area a).erases k n }
  have hr : (s.setArea a { s.area a with erases := tblPut 0 (s.area a).erases k n }).nvs.recs = s.nvs.recs := rfl
  generalize s.setArea a { s.area a with erases := tblPut 0 (s.area a).erases k n } = t at ht hr
  have hq : (raiseEvent t Reg.nvsFaultWear blkNvs ([BitVec.ofNat 8 a.code, BitVec.ofNat 8 k, 0, 0] ++ leBytes 4 n)).nvs
      = t.nvs :=
    (raiseEvent_within (M := hostPath) t _ _ _ (Within.refl _ t) (fun _ h => h)).untouched.store (by decide)
  split
  · exact ⟨(congrArg Nvs.recs hq).trans hr, _, (by unfold State.area at ht ⊢; rw [hq]; exact ht)⟩
  · exact ⟨hr, _, ht⟩

theorem sectorErased_within {M : List Part} {z : State} (s : State) (a : Area) (hs : Within M z s)
    (hm : Sub (hostPath ++ [Part.store]) M) : Within M z (sectorErased s a) := by
  unfold sectorErased
  split
  · exact hs
  · next k hk =>
    dsimp only
    have ht : Within M z (countErase (dropSector s a k) a k) :=
      countErase_within _ _ _ (dropSector_within _ _ _ hs (Sub.of (by decide +kernel) hm)) (Sub.of (by decide +kernel) hm)
    obtain ⟨hr, e, he⟩ := countErase_store (dropSector s a k) a k
    have hf : StoreForm s → AreaForm a { (countErase (dropSector s a k) a k).area a with
        erasing := false
        taken := if ((countErase (dropSector s a k) a k).area a).erasing = true then ((countErase (dropSector s a k) a
            k).area a).taken - 1
          else ((countErase (dropSector s a k) a k).area a).taken
        weak := ((countErase (dropSector s a k) a k).area a).weak.filter (fun x => x != k)
        erase := ((countErase (dropSector s a k) a k).area a).erase.filter (fun x => x != k)
        unformatted := ((countErase (dropSector s a k) a k).area a).unformatted.filter (fun x => x != k) }
        (countErase (dropSector s a k) a k).nvs.recs := by
      intro h
      rw [hr, he]
      change AreaForm a { s.area a with
        erasing := false, taken := if (s.area a).erasing = true then (s.area a).taken - 1 else (s.area a).taken, erases := e,
        weak := (s.area a).weak.filter (fun x => x != k), erase := (s.area a).erase.filter (fun x => x != k),
        unformatted := (s.area a).unformatted.filter (fun x => x != k) } (dropSector s a k).nvs.recs
      have hw : (List.filter (fun x => x != k) (s.area a).weak).contains (s.area a).writeSector = false := by
        have w5 := (h a).2.2.2.2.1
        rw [List.contains_eq_mem, decide_eq_false_iff_not] at w5 ⊢
        exact fun c => w5 (List.mem_filter.mp c).1
      have hd : AreaForm a (s.area a) (dropSector s a k).nvs.recs := (h a).sub (fun r hr => (List.mem_filter.mp hr).1)
      by_cases hc : (s.area a).erasing = true
      · refine hd.freed (hd.2.2.1 hc) (fun r hr hra c => ?_) rfl (by dsimp only; rw [if_pos hc]) rfl hd.2.2.2.1 hw
        have hko : k = oldestSector a (s.area a) := by
          unfold eraseTarget at hk
          rw [if_pos hc] at hk
          exact (Option.some.inj hk).symm
        have := (List.mem_filter.mp hr).2
        simp [hra, c, hko] at this
      · exact hd.congr rfl (by dsimp only; rw [if_neg hc]) (fun c => by cases c) hd.2.2.2.1 hw
    generalize countErase (dropSector s a k) a k = t at ht hf ⊢
    have hset := ht.inStore (Sub.has hm (by decide +kernel)) (fun hz => (ht.keeps.form hz).setArea (hf (hs.keeps.form hz)))
    exact keepFree_within _ _ (hset.inStore (Sub.has hm (by decide +kernel)) (fun hz => hset.keeps.form hz)) (Sub.of (by decide +kernel) hm)

theorem cutItem_within {M : List Part} {z : State} (s : State) (i : RecItem) (k : Nat) (hs : Within M z s)
    (hm : Sub [.store] M) : Within M z (cutItem s i k) := by
  unfold cutItem
  split
  · exact hs
  · next v e =>
    have ht := appendRec_within s v ⟨i.area, 0, 0, false, i.key, itemSeq s i, i.delete, false, false, decide (12 ≤ k), false, some k, i.data⟩
      i.len hs (fun h => (h i.area).room e) (Sub.of (by decide +kernel) hm)
    exact State.setArea_within _ _ _ ht (fun h => (h i.area).congr rfl rfl id (h i.area).2.2.2.1 (h i.area).2.2.2.2.1)
      (Sub.of (by decide +kernel) hm)

theorem noteDeferred_within {M : List Part} {z : State} (s : State) (hs : Within M z s) (hm : Sub [.status] M)
    : Within M z (noteDeferred s) := by
  unfold noteDeferred
  try dsimp only
  repeat' (first
      | (with_reducible first
          | assumption | exact Sub.of (by decide +kernel) hm | apply State.bump_within | apply State.raise_within))

theorem copyRecord_within {M : List Part} {z : State} (s : State) (r : StoredRec) (verifyOk : Bool) (hs : Within M z s)
    (hm : Sub [.status, .store] M) : Within M z (copyRecord s r verifyOk) := by
  unfold copyRecord
  split
  · next v e =>
    have ht : Within M z (appendRec s v { r with committed := verifyOk, headOk := verifyOk, checks := verifyOk } r.len) :=
      appendRec_within _ _ _ _ hs (fun h => (h r.area).room e) (Sub.of (by decide +kernel) hm)
    refine keepFree_within _ _ ?_ (Sub.of (by decide +kernel) hm)
    split
    · exact ht
    · exact verifyFailed_within _ ht (Sub.of (by decide +kernel) hm)
  · exact hs

theorem noteDeferredFor_within {M : List Part} {z : State} (e : NvEffect) (s : State) (hs : Within M z s)
    (hm : Sub [.status] M) : Within M z (noteDeferredFor e s) := by
  unfold noteDeferredFor
  try dsimp only
  repeat' (first
      | (with_reducible first
          | assumption | exact Sub.of (by decide +kernel) hm | apply noteDeferred_within | apply State.raise_within)
      | split)

theorem remaskSlot_within {M : List Part} {z : State} (s : State) (n : Nat) (hs : Within M z s)
    (hm : Sub [.status, .nonces, .keys] M) : Within M z (remaskSlot s n) := by
  unfold remaskSlot
  try dsimp only
  repeat' (first
      | (with_reducible first
          | assumption | exact rfl | exact Sub.of (by decide +kernel) hm | exact Or.inr rfl
          | exact Or.inl (Sub.has hm (by decide +kernel)) | apply State.drawMask_within)
      | (simp only [within_mk]; with_reducible apply Within.upd) | split)

theorem maskedForUse_within {M : List Part} {z : State} (s : State) (n : Nat) (hs : Within M z s)
    (hm : Sub [.status, .nonces, .keys] M) : Within M z (maskedForUse s n) := by
  unfold maskedForUse
  try dsimp only
  repeat' (first
      | (with_reducible first
          | assumption | intro _ | exact Sub.of (by decide +kernel) hm | apply State.when_within
          | apply remaskSlot_within))

theorem loadWorkingKey_within {M : List Part} {z : State} (s : State) (n : Nat) (hs : Within M z s)
    (hm : Sub [.status, .nonces, .keys] M) : Within M z (loadWorkingKey s n) := by
  unfold loadWorkingKey
  try dsimp only
  repeat' (first
      | (with_reducible first
          | assumption | exact rfl | exact Sub.of (by decide +kernel) hm | exact Or.inr rfl
          | exact Or.inl (Sub.has hm (by decide +kernel)) | apply State.drawMask_within)
      | (simp only [within_mk]; with_reducible apply Within.upd) | split)

theorem useSlot_within {M : List Part} {z : State} (s : State) (n : Nat) (hs : Within M z s)
    (hm : Sub [.status, .nonces, .keys] M) : Within M z (useSlot s n) := by
  unfold useSlot
  try dsimp only
  repeat' (first
      | (with_reducible first
          | assumption | exact Sub.of (by decide +kernel) hm | apply maskedForUse_within | apply loadWorkingKey_within
          | apply State.setStat_within | apply within_ite)
      | split)

theorem sealSlot_within {M : List Part} {z : State} (s : State) (k : KeySlot) (hs : Within M z s)
    (hm : Sub [.status, .nonces, .keys] M) : Within M z (sealSlot s k).2 := by
  unfold sealSlot
  try dsimp only
  repeat' (first
      | (with_reducible first
          | assumption | exact Sub.of (by decide +kernel) hm | apply State.draw_within | apply useSlot_within)
      | split)

theorem authJob_within {M : List Part} {z : State} (nonceHeld : Bool) (s : State) (hs : Within M z s)
    (hm : Sub [.status, .nonces, .keys] M) : Within M z (authJob nonceHeld s) := by
  unfold authJob
  try dsimp only
  repeat' (first
      | (with_reducible first
          | assumption | exact Sub.of (by decide +kernel) hm | apply useSlot_within | apply within_ite)
      | split)

theorem remasksLate_within {M : List Part} {z : State} (s : State) (hs : Within M z s)
    (hm : Sub [.status, .nonces, .keys] M) : Within M z (remasksLate s) := by
  unfold remasksLate
  try dsimp only
  repeat' (first
      | (with_reducible first
          | assumption | exact rfl | intro _ | exact Sub.of (by decide +kernel) hm | exact Or.inr rfl
          | exact Or.inl (Sub.has hm (by decide +kernel)) | apply remaskSlot_within | apply within_foldl
          | apply within_foldl_fst)
      | (simp only [within_mk]; with_reducible apply Within.upd))

theorem slotCmac_within {M : List Part} {z : State} (s : State) (n : Nat) (msg : Bytes) (hs : Within M z s)
    (hm : Sub [.status, .nonces, .keys] M) : Within M z (slotCmac s n msg).2 := by
  unfold slotCmac
  try dsimp only
  repeat' (first | (with_reducible first | assumption | exact Sub.of (by decide +kernel) hm | apply useSlot_within))

theorem maskingPauses_within {M : List Part} {z : State} (s : State) (hs : Within M z s) (hm : Sub [.keys] M)
    : Within M z (maskingPauses s) := by
  unfold maskingPauses
  try dsimp only
  repeat' (first
      | (with_reducible first
          | assumption | exact rfl | exact Or.inr rfl | exact Or.inl (Sub.has hm (by decide +kernel)))
      | (simp only [within_mk]; with_reducible apply Within.upd))

theorem State.setSlot_within {M : List Part} {z : State} (s : State) (n : Nat) (k : KeySlot) (hs : Within M z s)
    (hm : Sub [.keys] M) : Within M z (State.setSlot s n k) := by
  unfold State.setSlot
  try dsimp only
  repeat' (first
      | (with_reducible first
          | assumption | exact rfl | exact Or.inr rfl | exact Or.inl (Sub.has hm (by decide +kernel)))
      | (simp only [within_mk]; with_reducible apply Within.upd))

theorem maskedSlot_within {M : List Part} {z : State} (s : State) (value : Nat) (attr : Nat) (master : Nat) (hs
    : Within M z s) (hm : Sub [.status, .nonces] M) : Within M z (maskedSlot s value attr master).2 := by
  unfold maskedSlot
  try dsimp only
  repeat' (first
      | (with_reducible first
          | assumption | exact Sub.of (by decide +kernel) hm | apply State.drawMask_within)
      | split)

theorem clearWorkingKey_within {M : List Part} {z : State} (s : State) (hs : Within M z s) (hm : Sub [.keys] M)
    : Within M z (clearWorkingKey s) := by
  unfold clearWorkingKey
  try dsimp only
  repeat' (first
      | (with_reducible first
          | assumption | exact rfl | exact Or.inr rfl | exact Or.inl (Sub.has hm (by decide +kernel)))
      | (simp only [within_mk]; with_reducible apply Within.upd))

theorem setLock_within {M : List Part} {z : State} (s : State) (i : Nat) (l : LockState) (hs : Within M z s)
    (hm : Sub [.holly] M) : Within M z (setLock s i l) := by
  unfold setLock
  try dsimp only
  repeat' (first
      | (with_reducible first
          | assumption | exact rfl | exact Or.inr rfl | exact Or.inl (Sub.has hm (by decide +kernel)))
      | (simp only [within_mk]; with_reducible apply Within.upd))

theorem requestLockCheckpoint_within {M : List Part} {z : State} (s : State) (hs : Within M z s) (hm : Sub [.store] M)
    : Within M z (requestLockCheckpoint s) := by
  unfold requestLockCheckpoint
  try dsimp only
  repeat' (first
      | (with_reducible first
          | assumption | exact Sub.of (by decide +kernel) hm | apply nvRequest_within | apply within_ite)
      | split)

theorem lockoutStarted_within {M : List Part} {z : State} (s : State) (id : Nat) (lockEnd : Nat) (hs : Within M z s)
    (hm : Sub (hostPath ++ [Part.store]) M) : Within M z (lockoutStarted s id lockEnd) := by
  unfold lockoutStarted
  try dsimp only
  repeat' (first
      | (with_reducible first
          | assumption | exact Sub.of (by decide +kernel) hm | apply requestLockCheckpoint_within | apply event_within
          | apply State.bump_within))

theorem thornFailure_within {M : List Part} {z : State} (s : State) (id : Nat) (hs : Within M z s)
    (hm : Sub (hostPath ++ [Part.store, Part.holly]) M) : Within M z (thornFailure s id) := by
  unfold thornFailure
  try dsimp only
  repeat' (first
      | (with_reducible first
          | assumption | exact rfl | exact Sub.of (by decide +kernel) hm | exact Or.inr rfl
          | exact Or.inl (Sub.has hm (by decide +kernel)) | apply setLock_within | apply lockoutStarted_within
          | apply within_ite)
      | (simp only [within_mk]; with_reducible apply Within.upd) | split)

theorem noteModeConflict_within {M : List Part} {z : State} (s : State) (hs : Within M z s) (hm : Sub [.holly] M)
    : Within M z (noteModeConflict s) := by
  unfold noteModeConflict
  try dsimp only
  repeat' (first
      | (with_reducible first
          | assumption | exact rfl | exact Or.inr rfl | exact Or.inl (Sub.has hm (by decide +kernel)) | apply within_ite)
      | (simp only [within_mk]; with_reducible apply Within.upd) | split)

theorem tableReplaced_within {M : List Part} {z : State} (s : State) (h : HollySet) (hs : Within M z s)
    (hm : Sub [.holly] M) : Within M z (tableReplaced s h) := by
  unfold tableReplaced
  try dsimp only
  repeat' (first
      | (with_reducible first
          | assumption | exact rfl | intro _ | exact Sub.of (by decide +kernel) hm | exact Or.inr rfl
          | exact Or.inl (Sub.has hm (by decide +kernel)) | apply noteModeConflict_within | apply within_foldl
          | apply within_foldl_fst)
      | (simp only [within_mk]; with_reducible apply Within.upd) | split)

theorem hollyErased_within {M : List Part} {z : State} (s : State) (hs : Within M z s) (hm : Sub [.store, .holly] M)
    : Within M z (hollyErased s) := by
  unfold hollyErased
  try dsimp only
  repeat' (first
      | (with_reducible first
          | assumption | exact rfl | exact Sub.of (by decide +kernel) hm | exact Or.inr rfl
          | exact Or.inl (Sub.has hm (by decide +kernel)) | apply requestLockCheckpoint_within)
      | (simp only [within_mk]; with_reducible apply Within.upd))

theorem requestTask_within {M : List Part} {z : State} (s : State) (k : TaskKind) (arg : Nat) (own : Nat) (wait : Nat)
    (selftests : List Nat) (hs : Within M z s) (hm : Sub [.power] M)
    : Within M z (requestTask s k arg own wait selftests) := by
  unfold requestTask
  try dsimp only
  repeat' (first
      | (with_reducible first
          | assumption | exact rfl | exact Or.inr rfl | exact Or.inl (Sub.has hm (by decide +kernel)) | apply within_ite)
      | (simp only [within_mk]; with_reducible apply Within.upd) | split)

theorem requestCals_within {M : List Part} {z : State} (s : State) (own : Bool) (mask : Nat) (hs : Within M z s)
    (hm : Sub [.power] M) : Within M z (requestCals s own mask) := by
  unfold requestCals
  try dsimp only
  repeat' (first
      | (with_reducible first
          | assumption | exact Sub.of (by decide +kernel) hm | apply requestTask_within | apply within_ite)
      | split)

theorem dropTask_within {M : List Part} {z : State} (s : State) (t : Task) (hs : Within M z s) (hm : Sub [.power] M)
    : Within M z (dropTask s t) := by
  unfold dropTask
  try dsimp only
  repeat' (first
      | (with_reducible first
          | assumption | exact rfl | exact Or.inr rfl | exact Or.inl (Sub.has hm (by decide +kernel)))
      | (simp only [within_mk]; with_reducible apply Within.upd))

theorem sgrIdleAt_within {M : List Part} {z : State} (s : State) (p : SgrPhase) (hs : Within M z s) (hm : Sub [.subGhz] M)
    : Within M z (sgrIdleAt s p) := by
  unfold sgrIdleAt
  try dsimp only
  repeat' (first
      | (with_reducible first
          | assumption | exact rfl | exact Or.inr rfl | exact Or.inl (Sub.has hm (by decide +kernel)))
      | (simp only [within_mk]; with_reducible apply Within.upd))

theorem selftestDone_within {M : List Part} {z : State} (s : State) (t : SelfTest) (hs : Within M z s)
    (hm : Sub (ringPath ++ [Part.power]) M) : Within M z (selftestDone s t) := by
  unfold selftestDone
  try dsimp only
  repeat' (first
      | (with_reducible first
          | assumption | exact rfl | exact Sub.of (by decide +kernel) hm | exact Or.inr rfl
          | exact Or.inl (Sub.has hm (by decide +kernel)) | apply complete_within | apply within_ite)
      | (simp only [within_mk]; with_reducible apply Within.upd) | split)

theorem selftestNote_within {M : List Part} {z : State} (s : State) (f : SelfTest → SelfTest) (hs : Within M z s)
    (hm : Sub (ringPath ++ [Part.power]) M) : Within M z (selftestNote s f) := by
  unfold selftestNote
  try dsimp only
  repeat' (first
      | (with_reducible first
          | assumption | exact rfl | intro _ | exact Sub.of (by decide +kernel) hm | exact Or.inr rfl
          | exact Or.inl (Sub.has hm (by decide +kernel)) | apply selftestDone_within | apply hf | apply within_foldl
          | apply within_foldl_fst)
      | (simp only [within_mk]; with_reducible apply Within.upd))

theorem selftestBit_within {M : List Part} {z : State} (s : State) (tags : List Nat) (b : Nat) (ok : Bool) (hs
    : Within M z s) (hm : Sub (ringPath ++ [Part.power]) M) : Within M z (selftestBit s tags b ok) := by
  unfold selftestBit
  try dsimp only
  repeat' (first
      | (with_reducible first
          | assumption | intro _ | exact Sub.of (by decide +kernel) hm | apply selftestNote_within | apply within_ite)
      | split)

theorem selftestChan_within {M : List Part} {z : State} (s : State) (c : Nat) (ok : Bool) (hs : Within M z s)
    (hm : Sub (ringPath ++ [Part.power]) M) : Within M z (selftestChan s c ok) := by
  unfold selftestChan
  try dsimp only
  repeat' (first
      | (with_reducible first
          | assumption | intro _ | exact Sub.of (by decide +kernel) hm | apply selftestNote_within | apply within_ite)
      | split)

theorem dropCalibrations_within {M : List Part} {z : State} (s : State) (hs : Within M z s) (hm : Sub [.power] M)
    : Within M z (dropCalibrations s) := by
  unfold dropCalibrations
  try dsimp only
  repeat' (first
      | (with_reducible first
          | assumption | exact rfl | exact Or.inr rfl | exact Or.inl (Sub.has hm (by decide +kernel)))
      | (simp only [within_mk]; with_reducible apply Within.upd))

theorem calibrateNote_within {M : List Part} {z : State} (s : State) (mask : Nat) (done : Nat) (hs : Within M z s)
    (hm : Sub (ringPath ++ [Part.subGhz]) M) : Within M z (calibrateNote s mask done) := by
  unfold calibrateNote
  try dsimp only
  repeat' (first
      | (with_reducible first
          | assumption | exact rfl | intro _ | exact Sub.of (by decide +kernel) hm | exact Or.inr rfl
          | exact Or.inl (Sub.has hm (by decide +kernel)) | apply complete_within | apply within_foldl
          | apply within_foldl_fst)
      | (simp only [within_mk]; with_reducible apply Within.upd))

theorem requestCal_within {M : List Part} {z : State} (s : State) (mask : Nat) (hs : Within M z s) (hm : Sub [.power] M)
    : Within M z (requestCal s mask) := by
  unfold requestCal
  try dsimp only
  repeat' (first | (with_reducible first | assumption | exact Sub.of (by decide +kernel) hm | apply requestCals_within))

theorem requestDiag_within {M : List Part} {z : State} (s : State) (selftests : List Nat) (c : Nat) (hs : Within M z s)
    (hm : Sub [.power] M) : Within M z (requestDiag s selftests c) := by
  unfold requestDiag
  try dsimp only
  repeat' (first
      | (with_reducible first
          | assumption | exact Sub.of (by decide +kernel) hm | apply requestTask_within | apply within_ite)
      | split)

theorem lfChargeNow_within {M : List Part} {z : State} (s : State) (chans : List Nat) (len : Nat) (hs : Within M z s)
    (hm : Sub [.field] M) : Within M z (lfChargeNow s chans len) := by
  unfold lfChargeNow
  try dsimp only
  repeat' (first
      | (with_reducible first
          | assumption | exact rfl | intro _ | exact Or.inr rfl | exact Or.inl (Sub.has hm (by decide +kernel))
          | apply within_foldl | apply within_foldl_fst)
      | (simp only [within_mk]; with_reducible apply Within.upd))

theorem burstSent_within {M : List Part} {z : State} (s : State) (c : Nat) (hs : Within M z s)
    (hm : Sub [.output, .field] M) : Within M z (burstSent s c) := by
  unfold burstSent
  try dsimp only
  repeat' (first
      | (with_reducible first
          | assumption | exact rfl | exact Sub.of (by decide +kernel) hm | exact Or.inr rfl
          | exact Or.inl (Sub.has hm (by decide +kernel)) | apply State.emit_within | apply lfChargeNow_within)
      | (simp only [within_mk]; with_reducible apply Within.upd))

theorem setVlf_within {M : List Part} {z : State} (s : State) (mv : Nat) (hs : Within M z s) (hm : Sub [.power] M)
    : Within M z (setVlf s mv) := by
  unfold setVlf
  try dsimp only
  repeat' (first
      | (with_reducible first
          | assumption | exact rfl | exact Or.inr rfl | exact Or.inl (Sub.has hm (by decide +kernel)))
      | (simp only [within_mk]; with_reducible apply Within.upd))

theorem lfReport_within {M : List Part} {z : State} (old : List Nat) (s : State) (hs : Within M z s) (hm : Sub hostPath M)
    : Within M z (lfReport old s) := by
  unfold lfReport
  try dsimp only
  repeat' (first
      | (with_reducible first
          | assumption | intro _ | exact Sub.of (by decide +kernel) hm | apply State.raiseBit_within
          | apply event_within | apply within_ite | apply within_foldl | apply within_foldl_fst)
      | split)

theorem lfChange_within {M : List Part} {z : State} (s : State) (f : State → State) (hs : Within M z s) (hf : ∀
    (v0 : State), Within M z v0 → Within M z (f v0)) (hm : Sub hostPath M) : Within M z (lfChange s f) := by
  unfold lfChange
  try dsimp only
  repeat' (first
      | (with_reducible first
          | assumption | exact Sub.of (by decide +kernel) hm | apply lfReport_within | apply hf))

theorem State.setChan_within {M : List Part} {z : State} (s : State) (c : Nat) (v : LfChan) (hs : Within M z s)
    (hm : Sub [.field] M) : Within M z (State.setChan s c v) := by
  unfold State.setChan
  try dsimp only
  repeat' (first
      | (with_reducible first
          | assumption | exact rfl | exact Or.inr rfl | exact Or.inl (Sub.has hm (by decide +kernel)))
      | (simp only [within_mk]; with_reducible apply Within.upd))

theorem chanFails_within {M : List Part} {z : State} (s : State) (c : Nat) (b : ChanBase) (hs : Within M z s)
    (hm : Sub (hostPath ++ [Part.power, Part.field]) M) : Within M z (chanFails s c b) := by
  unfold chanFails
  extract_lets t
  have ht : Within M z t := by
    refine lfChange_within _ _ hs (fun s hs => ?_) (Sub.of (by decide +kernel) hm)
    exact State.setChan_within _ _ _ hs (Sub.of (by decide +kernel) hm)
  clear_value t
  repeat' (first
      | (with_reducible first
          | assumption | exact rfl | intro _ | exact Sub.of (by decide +kernel) hm | exact Or.inr rfl
          | exact Or.inl (Sub.has hm (by decide +kernel)) | apply selftestChan_within | apply within_ite
          | apply within_foldl)
      | (simp only [within_mk]; with_reducible apply Within.upd) | split)

theorem runDiag_within {M : List Part} {z : State} (s : State) (c : Nat) (leakGnd : Bool) (leakVlf : Bool) (hs
    : Within M z s) (hm : Sub (hostPath ++ [Part.power, Part.field]) M) : Within M z (runDiag s c leakGnd leakVlf) := by
  unfold runDiag
  try dsimp only
  repeat' (first
      | (with_reducible first
          | assumption | exact rfl | exact Sub.of (by decide +kernel) hm | exact Or.inr rfl
          | exact Or.inl (Sub.has hm (by decide +kernel)) | apply selftestChan_within | apply chanFails_within
          | apply burstSent_within | apply within_ite)
      | (simp only [within_mk]; with_reducible apply Within.upd) | split)

theorem measured_within {M : List Part} {z : State} (s : State) (ipeak : Nat) (loop : Nat) (est : Nat) (c : Nat) (hs
    : Within M z s) (hm : Sub [.field] M) : Within M z (measured s ipeak loop est c) := by
  unfold measured
  try dsimp only
  repeat' (first | (with_reducible first | assumption | exact Sub.of (by decide +kernel) hm | apply State.setChan_within))

theorem abortPattern_within {M : List Part} {z : State} (s : State) (hs : Within M z s)
    (hm : Sub [.status, .field, .cycle, .subGhz, .uwb] M) : Within M z (abortPattern s) := by
  unfold abortPattern
  try dsimp only
  repeat' (first
      | (with_reducible first
          | assumption | exact rfl | exact Sub.of (by decide +kernel) hm | exact Or.inr rfl
          | exact Or.inl (Sub.has hm (by decide +kernel)) | apply State.raise_within | apply sgrIdleAt_within)
      | (simp only [within_mk]; with_reducible apply Within.upd))

theorem dropUnnamed_within {M : List Part} {z : State} (s : State) (hs : Within M z s)
    (hm : Sub (ringPath ++ [Part.power, Part.field]) M) : Within M z (dropUnnamed s) := by
  unfold dropUnnamed
  try dsimp only
  repeat' (first
      | (with_reducible first
          | assumption | exact rfl | intro _ | exact Sub.of (by decide +kernel) hm | exact Or.inr rfl
          | exact Or.inl (Sub.has hm (by decide +kernel)) | apply selftestChan_within | apply within_foldl
          | apply within_foldl_fst)
      | (simp only [within_mk]; with_reducible apply Within.upd))

theorem tryBurst_within {M : List Part} {z : State} (s : State) (hs : Within M z s)
    (hm : Sub (ringPath ++ [Part.power, Part.field]) M) : Within M z (tryBurst s) := by
  unfold tryBurst
  try dsimp only
  repeat' (first
      | (with_reducible first
          | assumption | exact Sub.of (by decide +kernel) hm | apply dropUnnamed_within | apply burstSent_within
          | apply within_ite)
      | split)

theorem pollBoundary_within {M : List Part} {z : State} (s : State) (hs : Within M z s)
    (hm : Sub (hostPath ++ [Part.held, Part.force, Part.boundary, Part.power, Part.field, Part.radio]) M)
    : Within M z (pollBoundary s) := by
  unfold pollBoundary
  extract_lets a b
  clear_value a b
  refine lfChange_within _ _ hs (fun s hs => ?_) (Sub.of (by decide +kernel) hm)
  extract_lets c d e0 e l f
  have ha : Within M z c := by with_reducible exact within_ite (applyTiming_within _ _ hs (Sub.of (by decide +kernel) hm)) hs
  clear_value c
  have hb : Within M z d := noteChannels_within _ (recordTakesEffect_within _ ha (Sub.of (by decide +kernel) hm)) (Sub.of (by decide +kernel) hm)
  clear_value d
  have hd : Within M z e := by
    unfold e e0
    repeat' (first
        | (with_reducible first
            | assumption | exact rfl | intro _ | exact Sub.of (by decide +kernel) hm | exact Or.inr rfl
            | exact Or.inl (Sub.has hm (by decide +kernel)) | apply State.setStat_within | apply within_ite
            | apply within_foldl)
        | (simp only [within_mk]; with_reducible apply Within.upd) | split)
  clear_value e0 e
  have he : Within M z f := by
    unfold f l
    generalize List.foldl _ _ _ = q
    repeat' (first
        | (with_reducible first
            | assumption | exact rfl | intro _ | exact Sub.of (by decide +kernel) hm | exact Or.inr rfl
            | exact Or.inl (Sub.has hm (by decide +kernel)) | apply State.setStat_within | apply within_ite
            | apply within_foldl)
        | (simp only [within_mk]; with_reducible apply Within.upd) | split)
  clear_value f l
  repeat' (first
      | (with_reducible first
          | assumption | exact rfl | intro _ | exact Sub.of (by decide +kernel) hm | exact Or.inr rfl
          | exact Or.inl (Sub.has hm (by decide +kernel)) | apply requestCal_within | apply within_ite
          | apply within_foldl)
      | (simp only [within_mk]; with_reducible apply Within.upd) | split)

theorem lfForgetDue_within {M : List Part} {z : State} (s : State) (hs : Within M z s) (hm : Sub [.field] M)
    : Within M z (lfForgetDue s) := by
  unfold lfForgetDue
  try dsimp only
  repeat' (first
      | (with_reducible first
          | assumption | exact rfl | exact Or.inr rfl | exact Or.inl (Sub.has hm (by decide +kernel)))
      | (simp only [within_mk]; with_reducible apply Within.upd))

theorem patternStarts_within {M : List Part} {z : State} (s : State) (n : Nat) (a : Nat) (b : Option Nat) (hs
    : Within M z s) (hm : Sub (hostPath ++ [Part.field, Part.cycle, Part.subGhz, Part.uwb]) M)
    : Within M z (patternStarts s n a b) := by
  unfold patternStarts
  try dsimp only
  repeat' (first
      | (with_reducible first
          | assumption | exact rfl | exact Sub.of (by decide +kernel) hm | exact Or.inr rfl
          | exact Or.inl (Sub.has hm (by decide +kernel)) | apply State.draw_within | apply lfChargeNow_within
          | apply event_within | apply State.setStat_within | apply lfForgetDue_within | apply State.emit_within)
      | (simp only [within_mk]; with_reducible apply Within.upd) | split)

theorem patternDelayed_within {M : List Part} {z : State} (s : State) (hs : Within M z s) (hm : Sub [.status, .field] M)
    : Within M z (patternDelayed s) := by
  unfold patternDelayed
  try dsimp only
  repeat' (first
      | (with_reducible first
          | assumption | exact rfl | exact Sub.of (by decide +kernel) hm | exact Or.inr rfl
          | exact Or.inl (Sub.has hm (by decide +kernel)) | apply State.bump_within | apply State.raise_within
          | apply within_ite)
      | (simp only [within_mk]; with_reducible apply Within.upd) | split)

theorem tryPattern_within {M : List Part} {z : State} (s : State) (hs : Within M z s)
    (hm : Sub (hostPath ++ [Part.held, Part.force, Part.boundary, Part.power, Part.field, Part.cycle, Part.subGhz, Part.uwb, Part.radio]) M)
    : Within M z (tryPattern s) := by
  unfold tryPattern
  extract_lets t
  have ht : Within M z t := pollBoundary_within _ hs (Sub.of (by decide +kernel) hm)
  clear_value t
  repeat' (first
      | (with_reducible first
          | assumption | exact rfl | intro _ | exact Sub.of (by decide +kernel) hm | exact Or.inr rfl
          | exact Or.inl (Sub.has hm (by decide +kernel)) | apply lfForgetDue_within | apply State.raise_within
          | apply patternStarts_within | apply patternDelayed_within | apply within_ite | apply within_foldl)
      | (simp only [within_mk]; with_reducible apply Within.upd) | split)

theorem requestDiags_within {M : List Part} {z : State} (s : State) (hs : Within M z s) (hm : Sub [.power] M)
    : Within M z (requestDiags s) := by
  unfold requestDiags
  try dsimp only
  repeat' (first
      | (with_reducible first
          | assumption | intro _ | exact Sub.of (by decide +kernel) hm | apply requestDiag_within | apply within_foldl
          | apply within_foldl_fst))

theorem sgrRefusal_within {M : List Part} {z : State} (s : State) (us : Nat) (hs : Within M z s) (hm : Sub [.status] M) :
    ∀ p, sgrRefusal s us = some p → Within M z p.2 := by
  unfold sgrRefusal
  intro p e
  repeat' (split at e)
  all_goals first
    | (cases e; exact State.raise_within _ _ hs hm)
    | cases e

theorem sgrFree_within {M : List Part} {z : State} (s : State) (hs : Within M z s) (hm : Sub [.subGhz] M)
    : Within M z (sgrFree s) := by
  unfold sgrFree
  try dsimp only
  repeat' (first
      | (with_reducible first
          | assumption | exact rfl | exact Or.inr rfl | exact Or.inl (Sub.has hm (by decide +kernel)))
      | (simp only [within_mk]; with_reducible apply Within.upd))

theorem bandCharge_within {M : List Part} {z : State} (s : State) (i : Nat) (len : Nat) (hs : Within M z s)
    (hm : Sub [.subGhz] M) : Within M z (bandCharge s i len) := by
  unfold bandCharge
  try dsimp only
  repeat' (first
      | (with_reducible first
          | assumption | exact rfl | exact Or.inr rfl | exact Or.inl (Sub.has hm (by decide +kernel)) | apply within_ite)
      | (simp only [within_mk]; with_reducible apply Within.upd) | split)

theorem sgrTransmit_within {M : List Part} {z : State} (s : State) (data : Bytes) (us : Nat) (hs : Within M z s)
    (hm : Sub [.output, .subGhz] M) : Within M z (sgrTransmit s data us) := by
  unfold sgrTransmit
  try dsimp only
  repeat' (first
      | (with_reducible first
          | assumption | exact rfl | exact Sub.of (by decide +kernel) hm | exact Or.inr rfl
          | exact Or.inl (Sub.has hm (by decide +kernel)) | apply bandCharge_within | apply State.emit_within)
      | (simp only [within_mk]; with_reducible apply Within.upd) | split)

theorem packetLeaves_within {M : List Part} {z : State} (s : State) (t : Nat) (data : Bytes) (hs : Within M z s)
    (hm : Sub (ringPath ++ [Part.subGhz]) M) : Within M z (packetLeaves s t data).1 := by
  unfold packetLeaves
  try dsimp only
  repeat' (first
      | (with_reducible first
          | assumption | exact rfl | exact Sub.of (by decide +kernel) hm | exact Or.inr rfl
          | exact Or.inl (Sub.has hm (by decide +kernel)) | apply complete_within | apply sgrFree_within
          | apply sgrIdleAt_within | apply markTaken_within | apply sgrTransmit_within
          | refine sgrRefusal_within _ _ ?_ (Sub.of (by decide +kernel) hm) _ ‹_› | apply within_ite)
      | (simp only [within_mk]; with_reducible apply Within.upd) | split)

theorem sgrBusy_within {M : List Part} {z : State} (s : State) (hs : Within M z s) (hm : Sub [.status, .subGhz] M)
    : Within M z (sgrBusy s) := by
  unfold sgrBusy
  try dsimp only
  repeat' (first
      | (with_reducible first
          | assumption | exact Sub.of (by decide +kernel) hm | apply sgrIdleAt_within | apply State.raise_within
          | apply within_ite)
      | split)

theorem sgrHold_within {M : List Part} {z : State} (s : State) (hs : Within M z s) (hm : Sub [.subGhz] M)
    : Within M z (sgrHold s) := by
  unfold sgrHold
  try dsimp only
  repeat' (first
      | (with_reducible first
          | assumption | exact rfl | exact Or.inr rfl | exact Or.inl (Sub.has hm (by decide +kernel)))
      | (simp only [within_mk]; with_reducible apply Within.upd) | split)

theorem sgrPacketGoes_within {M : List Part} {z : State} (s : State) (t : Nat) (data : Bytes) (hs : Within M z s)
    (hm : Sub (ringPath ++ [Part.subGhz]) M) : Within M z (sgrPacketGoes s t data).1 := by
  unfold sgrPacketGoes
  try dsimp only
  repeat' (first
      | (with_reducible first
          | assumption | exact rfl | exact Sub.of (by decide +kernel) hm | exact Or.inr rfl
          | exact Or.inl (Sub.has hm (by decide +kernel)) | apply packetLeaves_within | apply complete_within
          | apply sgrFree_within | apply sgrBusy_within | apply sgrHold_within | apply within_ite)
      | (simp only [within_mk]; with_reducible apply Within.upd) | split)

theorem sgrReceive_within {M : List Part} {z : State} (s : State) (hs : Within M z s) (hm : Sub [.subGhz] M)
    : Within M z (sgrReceive s) := by
  unfold sgrReceive
  try dsimp only
  repeat' (first
      | (with_reducible first
          | assumption | exact rfl | exact Or.inr rfl | exact Or.inl (Sub.has hm (by decide +kernel)))
      | (simp only [within_mk]; with_reducible apply Within.upd) | split)

theorem sgrReturn_within {M : List Part} {z : State} (s : State) (back : Nat) (hs : Within M z s) (hm : Sub [.subGhz] M)
    : Within M z (sgrReturn s back) := by
  unfold sgrReturn
  try dsimp only
  repeat' (first
      | (with_reducible first
          | assumption | exact rfl | exact Sub.of (by decide +kernel) hm | exact Or.inr rfl
          | exact Or.inl (Sub.has hm (by decide +kernel)) | apply sgrIdleAt_within | apply sgrReceive_within
          | apply within_ite)
      | (simp only [within_mk]; with_reducible apply Within.upd) | split)

theorem jobStarts_within {M : List Part} {z : State} (s : State) (w : SgrWork) (hs : Within M z s)
    (hm : Sub (ringPath ++ [Part.subGhz]) M) : Within M z (jobStarts s w).1 := by
  unfold jobStarts
  split
  · split
    · next st u e =>
      exact complete_within _ _ _ _ _ (sgrRefusal_within _ _ hs (Sub.of (by decide +kernel) hm) _ e) (Sub.of (by decide +kernel) hm)
    · dsimp only
      repeat' (first
          | (with_reducible first
              | assumption | exact rfl | intro _ | exact Sub.of (by decide +kernel) hm | exact Or.inr rfl
              | exact Or.inl (Sub.has hm (by decide +kernel)) | apply complete_within | apply sgrPacketGoes_within
              | apply within_ite | apply within_foldl)
          | (simp only [within_mk]; with_reducible apply Within.upd) | split)
  all_goals
    dsimp only
    repeat' (first
        | (with_reducible first
            | assumption | exact rfl | intro _ | exact Sub.of (by decide +kernel) hm | exact Or.inr rfl
            | exact Or.inl (Sub.has hm (by decide +kernel)) | apply sgrReceive_within | apply within_ite
            | apply within_foldl)
        | (simp only [within_mk]; with_reducible apply Within.upd) | split)

theorem sgrNextFuel_within {M : List Part} {z : State} (a0_ : Nat) (a1_ : State) (ha1_ : Within M z a1_)
    (hm : Sub (ringPath ++ [Part.subGhz]) M) : Within M z (sgrNextFuel a0_ a1_) := by
  induction a0_ generalizing a1_ with
  | zero =>
    unfold sgrNextFuel
    try dsimp only
    repeat' (first
        | (with_reducible first
            | assumption | exact rfl | exact Sub.of (by decide +kernel) hm | exact Or.inr rfl
            | exact Or.inl (Sub.has hm (by decide +kernel)) | apply jobStarts_within | apply within_ite)
        | (simp only [within_mk]; with_reducible apply Within.upd) | split)
  | succ k ih =>
    unfold sgrNextFuel
    try dsimp only
    repeat' (first
        | (with_reducible first
            | apply ih | assumption | exact rfl | exact Sub.of (by decide +kernel) hm | exact Or.inr rfl
            | exact Or.inl (Sub.has hm (by decide +kernel)) | apply jobStarts_within | apply within_ite)
        | (simp only [within_mk]; with_reducible apply Within.upd) | split)

theorem sgrNextJob_within {M : List Part} {z : State} (s : State) (hs : Within M z s)
    (hm : Sub (ringPath ++ [Part.subGhz]) M) : Within M z (sgrNextJob s) := by
  unfold sgrNextJob
  try dsimp only
  repeat' (first | (with_reducible first | assumption | exact Sub.of (by decide +kernel) hm | apply sgrNextFuel_within))

theorem noteRssi_within {M : List Part} {z : State} (s : State) (rssi : Int) (hs : Within M z s) (hm : Sub [.status] M)
    : Within M z (noteRssi s rssi) := by
  unfold noteRssi
  try dsimp only
  repeat' (first | (with_reducible first | assumption | exact Sub.of (by decide +kernel) hm | apply State.setStat_within))

theorem jobEnds_within {M : List Part} {z : State} (s : State) (tag : Nat) (status : Nat) (result : Nat) (back : Nat) (hs
    : Within M z s) (hm : Sub (ringPath ++ [Part.subGhz]) M) : Within M z (jobEnds s tag status result back) := by
  unfold jobEnds
  try dsimp only
  repeat' (first
      | (with_reducible first
          | assumption | exact Sub.of (by decide +kernel) hm | apply sgrNextJob_within | apply complete_within
          | apply sgrFree_within | apply sgrReturn_within))

end Sys2Proof.Machine
end

