-- ==== Sys2Proof/Laws/WithinBlocks.lean ====
section
/-! SUPPORT. What each definition keeps and where it may write (Laws/Within.lean): the operations of the poll cycle,
metering, the transponder link, aborts, the release controller, ranging, read-back and failure. -/
namespace Sys2Proof.Machine

set_option Elab.async false

theorem countOutcome_within {M : List Part} {z : State} (s : State) (id : Nat) (oc : Nat) (hs : Within M z s)
    (hm : Sub hostPath M) : Within M z (countOutcome s id oc) := by
  unfold countOutcome
  try dsimp only
  repeat' (first
      | (with_reducible first
          | assumption | exact Sub.of (by decide +kernel) hm | apply State.bump_within | apply event_within
          | apply within_ite)
      | split)

theorem forgetCtx_within {M : List Part} {z : State} (s : State) (n : Nat) (hs : Within M z s) (hm : Sub [.release] M)
    : Within M z (forgetCtx s n) := by
  unfold forgetCtx
  try dsimp only
  repeat' (first
      | (with_reducible first
          | assumption | exact rfl | exact Or.inr rfl | exact Or.inl (Sub.has hm (by decide +kernel)) | apply within_ite)
      | (simp only [within_mk]; with_reducible apply Within.upd) | split)

theorem coexCheck_within {M : List Part} {z : State} (s : State) (hs : Within M z s) (hm : Sub [.cycle, .uwb] M)
    : Within M z (coexCheck s) := by
  unfold coexCheck
  try dsimp only
  repeat' (first
      | (with_reducible first
          | assumption | exact rfl | exact Or.inr rfl | exact Or.inl (Sub.has hm (by decide +kernel)) | apply within_ite)
      | (simp only [within_mk]; with_reducible apply Within.upd) | split)

theorem cycleEnds_within {M : List Part} {z : State} (s : State) (hs : Within M z s)
    (hm : Sub (ringPath ++ [Part.cycle, Part.subGhz, Part.uwb]) M) : Within M z (cycleEnds s) := by
  unfold cycleEnds
  try dsimp only
  repeat' (first
      | (with_reducible first
          | assumption | exact rfl | exact Sub.of (by decide +kernel) hm | exact Or.inr rfl
          | exact Or.inl (Sub.has hm (by decide +kernel)) | apply sgrIdleAt_within | apply sgrNextJob_within
          | apply within_ite)
      | (simp only [within_mk]; with_reducible apply Within.upd) | split)

theorem cycleCheck_within {M : List Part} {z : State} (s : State) (hs : Within M z s)
    (hm : Sub (ringPath ++ [Part.cycle, Part.subGhz, Part.uwb]) M) : Within M z (cycleCheck s) := by
  unfold cycleCheck
  try dsimp only
  repeat' (first
      | (with_reducible first
          | assumption | exact rfl | exact Sub.of (by decide +kernel) hm | exact Or.inr rfl
          | exact Or.inl (Sub.has hm (by decide +kernel)) | apply sgrIdleAt_within | apply coexCheck_within
          | apply cycleEnds_within | apply within_ite)
      | (simp only [within_mk]; with_reducible apply Within.upd) | split)

theorem endCtx_within {M : List Part} {z : State} (s : State) (n : Nat) (oc : Nat) (detail : Nat) (hs : Within M z s)
    (hm : Sub (hostPath ++ [Part.release, Part.cycle, Part.subGhz, Part.uwb]) M) : Within M z (endCtx s n oc detail) := by
  unfold endCtx
  try dsimp only
  repeat' (first
      | (with_reducible first
          | assumption | exact rfl | exact Sub.of (by decide +kernel) hm | exact Or.inr rfl
          | exact Or.inl (Sub.has hm (by decide +kernel)) | apply countOutcome_within | apply fillBuffer_within
          | apply forgetCtx_within | apply cycleCheck_within | apply within_ite)
      | (simp only [within_mk]; with_reducible apply Within.upd) | split)

theorem endCtxs_within {M : List Part} {z : State} (s : State) (p : Ctx → Bool) (oc : Nat) (hs : Within M z s)
    (hm : Sub (hostPath ++ [Part.release, Part.cycle, Part.subGhz, Part.uwb]) M) : Within M z (endCtxs s p oc) := by
  unfold endCtxs
  try dsimp only
  repeat' (first
      | (with_reducible first
          | assumption | intro _ | exact Sub.of (by decide +kernel) hm | apply endCtx_within | apply hp
          | apply within_foldl | apply within_foldl_fst))

theorem State.setCtx_within {M : List Part} {z : State} (s : State) (n : Nat) (c : Ctx) (hs : Within M z s)
    (hm : Sub [.cycle] M) : Within M z (State.setCtx s n c) := by
  unfold State.setCtx
  try dsimp only
  repeat' (first
      | (with_reducible first
          | assumption | exact rfl | exact Or.inr rfl | exact Or.inl (Sub.has hm (by decide +kernel)))
      | (simp only [within_mk]; with_reducible apply Within.upd))

theorem startReceipt_within {M : List Part} {z : State} (s : State) (hs : Within M z s)
    (hm : Sub [.status, .nonces, .store, .keys, .metering] M) : Within M z (startReceipt s) := by
  unfold startReceipt
  try dsimp only
  repeat' (first
      | (with_reducible first
          | assumption | exact rfl | exact Sub.of (by decide +kernel) hm | exact Or.inr rfl
          | exact Or.inl (Sub.has hm (by decide +kernel)) | apply useSlot_within | apply nvRequest_within
          | apply within_ite)
      | (simp only [within_mk]; with_reducible apply Within.upd) | split)

theorem ackTakes_within {M : List Part} {z : State} (s : State) (n : Nat) (hs : Within M z s)
    (hm : Sub [.status, .nonces, .store, .keys, .metering] M) : Within M z (ackTakes s n) := by
  unfold ackTakes
  try dsimp only
  repeat' (first
      | (with_reducible first
          | assumption | exact rfl | exact Sub.of (by decide +kernel) hm | exact Or.inr rfl
          | exact Or.inl (Sub.has hm (by decide +kernel)) | apply keepFree_within | apply startReceipt_within
          | apply within_ite)
      | (simp only [within_mk]; with_reducible apply Within.upd) | split)

theorem State.setSess_within {M : List Part} {z : State} (s : State) (i : Nat) (e : SessionEntry) (hs : Within M z s)
    (hm : Sub [.release, .metering] M) : Within M z (State.setSess s i e) := by
  unfold State.setSess
  try dsimp only
  repeat' (first
      | (with_reducible first
          | assumption | exact rfl | exact Or.inr rfl | exact Or.inl (Sub.has hm (by decide +kernel)))
      | (simp only [within_mk]; with_reducible apply Within.upd))

theorem postReceipts_within {M : List Part} {z : State} (a0_ : Nat) (a1_ : State) (ha1_ : Within M z a1_)
    (hm : Sub (ringPath ++ [Part.metering]) M) : Within M z (postReceipts a0_ a1_) := by
  induction a0_ generalizing a1_ with
  | zero =>
    unfold postReceipts
    try dsimp only
    repeat' (first
        | (with_reducible first
            | assumption | exact rfl | exact Sub.of (by decide +kernel) hm | exact Or.inr rfl
            | exact Or.inl (Sub.has hm (by decide +kernel)) | apply completeData_within | apply within_ite)
        | (simp only [within_mk]; with_reducible apply Within.upd) | split)
  | succ k ih =>
    unfold postReceipts
    try dsimp only
    repeat' (first
        | (with_reducible first
            | apply ih | assumption | exact rfl | exact Sub.of (by decide +kernel) hm | exact Or.inr rfl
            | exact Or.inl (Sub.has hm (by decide +kernel)) | apply completeData_within | apply within_ite)
        | (simp only [within_mk]; with_reducible apply Within.upd) | split)

theorem receiptDue_within {M : List Part} {z : State} (s : State) (d : Draft) (hs : Within M z s) (hm : Sub [.metering] M)
    : Within M z (receiptDue s d) := by
  unfold receiptDue
  try dsimp only
  repeat' (first
      | (with_reducible first
          | assumption | exact rfl | exact Or.inr rfl | exact Or.inl (Sub.has hm (by decide +kernel)))
      | (simp only [within_mk]; with_reducible apply Within.upd))

theorem receiptStands_within {M : List Part} {z : State} (s : State) (n : Nat) (hs : Within M z s)
    (hm : Sub (ringPath ++ [Part.store, Part.keys, Part.metering]) M) : Within M z (receiptStands s n) := by
  unfold receiptStands
  try dsimp only
  repeat' (first
      | (with_reducible first
          | assumption | exact rfl | exact Sub.of (by decide +kernel) hm | exact Or.inr rfl
          | exact Or.inl (Sub.has hm (by decide +kernel)) | apply startReceipt_within | apply postReceipts_within)
      | (simp only [within_mk]; with_reducible apply Within.upd))

theorem sendCoil_within {M : List Part} {z : State} (s : State) (bits : Nat) (value : Nat) (hs : Within M z s)
    (hm : Sub [.output] M) : Within M z (sendCoil s bits value) := by
  unfold sendCoil
  try dsimp only
  repeat' (first | (with_reducible first | assumption | exact Sub.of (by decide +kernel) hm | apply State.emit_within))

theorem sendCoilBytes_within {M : List Part} {z : State} (s : State) (b : Bytes) (hs : Within M z s) (hm : Sub [.output] M)
    : Within M z (sendCoilBytes s b) := by
  unfold sendCoilBytes
  try dsimp only
  repeat' (first | (with_reducible first | assumption | exact Sub.of (by decide +kernel) hm | apply sendCoil_within))

theorem fieldOff_within {M : List Part} {z : State} (s : State) (hs : Within M z s) (hm : Sub [.transponder] M)
    : Within M z (fieldOff s) := by
  unfold fieldOff
  try dsimp only
  repeat' (first
      | (with_reducible first
          | assumption | exact rfl | exact Or.inr rfl | exact Or.inl (Sub.has hm (by decide +kernel)))
      | (simp only [within_mk]; with_reducible apply Within.upd))

theorem endJob_within {M : List Part} {z : State} (s : State) (status : Nat) (result : Nat) (hs : Within M z s)
    (hm : Sub (ringPath ++ [Part.transponder]) M) : Within M z (endJob s status result) := by
  unfold endJob
  try dsimp only
  repeat' (first
      | (with_reducible first
          | assumption | exact Sub.of (by decide +kernel) hm | apply complete_within | apply fieldOff_within)
      | split)

theorem walkDone_within {M : List Part} {z : State} (s : State) (hs : Within M z s)
    (hm : Sub (ringPath ++ [Part.transponder]) M) : Within M z (walkDone s) := by
  unfold walkDone
  try dsimp only
  repeat' (first
      | (with_reducible first
          | assumption | exact Sub.of (by decide +kernel) hm | apply endJob_within | apply completeData_within
          | apply fieldOff_within)
      | split)

theorem selectTag_within {M : List Part} {z : State} (s : State) (id : Nat) (hs : Within M z s)
    (hm : Sub [.output, .transponder] M) : Within M z (selectTag s id) := by
  unfold selectTag
  try dsimp only
  repeat' (first
      | (with_reducible first
          | assumption | exact rfl | exact Sub.of (by decide +kernel) hm | exact Or.inr rfl
          | exact Or.inl (Sub.has hm (by decide +kernel)) | apply sendCoil_within)
      | (simp only [within_mk]; with_reducible apply Within.upd))

theorem tagFound_within {M : List Part} {z : State} (s : State) (id : Nat) (hs : Within M z s)
    (hm : Sub [.output, .transponder] M) : Within M z (tagFound s id).1 := by
  unfold tagFound
  try dsimp only
  repeat' (first
      | (with_reducible first
          | assumption | exact rfl | exact Sub.of (by decide +kernel) hm | exact Or.inr rfl
          | exact Or.inl (Sub.has hm (by decide +kernel)) | apply selectTag_within | apply within_ite)
      | (simp only [within_mk]; with_reducible apply Within.upd) | split)

theorem sendWalk_within {M : List Part} {z : State} (s : State) (n : Nat) (p : Nat) (tries : Nat) (hs : Within M z s)
    (hm : Sub [.output, .transponder] M) : Within M z (sendWalk s n p tries) := by
  unfold sendWalk
  try dsimp only
  repeat' (first
      | (with_reducible first
          | assumption | exact rfl | exact Sub.of (by decide +kernel) hm | exact Or.inr rfl
          | exact Or.inl (Sub.has hm (by decide +kernel)) | apply sendCoil_within)
      | (simp only [within_mk]; with_reducible apply Within.upd))

theorem walkFuel_within {M : List Part} {z : State} (a0_ : Nat) (a1_ : State) (ha1_ : Within M z a1_)
    (hm : Sub (ringPath ++ [Part.transponder]) M) : Within M z (walkFuel a0_ a1_) := by
  induction a0_ generalizing a1_ with
  | zero =>
    unfold walkFuel
    try dsimp only
    repeat' (first
        | (with_reducible first
            | assumption | exact rfl | exact Sub.of (by decide +kernel) hm | exact Or.inr rfl
            | exact Or.inl (Sub.has hm (by decide +kernel)) | apply walkDone_within | apply State.raise_within
            | apply tagFound_within | apply sendWalk_within | apply within_ite)
        | (simp only [within_mk]; with_reducible apply Within.upd) | split)
  | succ k ih =>
    unfold walkFuel
    try dsimp only
    repeat' (first
        | (with_reducible first
            | apply ih | assumption | exact rfl | exact Sub.of (by decide +kernel) hm | exact Or.inr rfl
            | exact Or.inl (Sub.has hm (by decide +kernel)) | apply walkDone_within | apply State.raise_within
            | apply tagFound_within | apply sendWalk_within | apply within_ite)
        | (simp only [within_mk]; with_reducible apply Within.upd) | split)

theorem walkNext_within {M : List Part} {z : State} (s : State) (hs : Within M z s)
    (hm : Sub (ringPath ++ [Part.transponder]) M) : Within M z (walkNext s) := by
  unfold walkNext
  try dsimp only
  repeat' (first | (with_reducible first | assumption | exact Sub.of (by decide +kernel) hm | apply walkFuel_within))

theorem haltTag_within {M : List Part} {z : State} (s : State) (status : Nat) (result : Nat) (hs : Within M z s)
    (hm : Sub (ringPath ++ [Part.transponder]) M) : Within M z (haltTag s status result) := by
  unfold haltTag
  try dsimp only
  repeat' (first
      | (with_reducible first
          | assumption | exact rfl | exact Sub.of (by decide +kernel) hm | exact Or.inr rfl
          | exact Or.inl (Sub.has hm (by decide +kernel)) | apply sendCoilBytes_within | apply walkNext_within
          | apply endJob_within | apply fieldOff_within | apply within_ite)
      | (simp only [within_mk]; with_reducible apply Within.upd) | split)

theorem savePending_within {M : List Part} {z : State} (s : State) (l : List PendingCheck) (hs : Within M z s)
    (hm : Sub [.store, .transponder] M) : Within M z (savePending s l) := by
  unfold savePending
  try dsimp only
  repeat' (first
      | (with_reducible first
          | assumption | exact rfl | exact Sub.of (by decide +kernel) hm | exact Or.inr rfl
          | exact Or.inl (Sub.has hm (by decide +kernel)) | apply nvRequest_within)
      | (simp only [within_mk]; with_reducible apply Within.upd))

theorem reportCoilCtx_within {M : List Part} {z : State} (s : State) (c : CoilCtx) (oc : Nat) (detail : Nat) (hs
    : Within M z s) (hm : Sub (hostPath ++ [Part.release]) M) : Within M z (reportCoilCtx s c oc detail) := by
  unfold reportCoilCtx
  try dsimp only
  repeat' (first
      | (with_reducible first
          | assumption | exact Sub.of (by decide +kernel) hm | apply forgetCtx_within | apply fillBuffer_within
          | apply countOutcome_within))

theorem endTag_within {M : List Part} {z : State} (s : State) (oc : Nat) (detail : Nat) (hs : Within M z s)
    (hm : Sub (hostPath ++ [Part.release, Part.transponder]) M) : Within M z (endTag s oc detail) := by
  unfold endTag
  try dsimp only
  repeat' (first
      | (with_reducible first
          | assumption | exact Sub.of (by decide +kernel) hm | apply haltTag_within | apply reportCoilCtx_within
          | apply countOutcome_within | apply within_ite)
      | split)

theorem sendSecured_within {M : List Part} {z : State} (s : State) (c : CoilCtx) (step : SecStep) (op : Nat)
    (payload : Bytes) (hs : Within M z s) (hm : Sub (hostPath ++ [Part.release, Part.transponder]) M)
    : Within M z (sendSecured s c step op payload) := by
  unfold sendSecured
  try dsimp only
  repeat' (first
      | (with_reducible first
          | assumption | exact rfl | exact Sub.of (by decide +kernel) hm | exact Or.inr rfl
          | exact Or.inl (Sub.has hm (by decide +kernel)) | apply endTag_within | apply sendCoilBytes_within
          | apply within_ite)
      | (simp only [within_mk]; with_reducible apply Within.upd) | split)

theorem resolvePending_within {M : List Part} {z : State} (s : State) (p : PendingCheck) (data : Bytes) (hs : Within M z s)
    (hm : Sub (hostPath ++ [Part.store, Part.transponder]) M) : Within M z (resolvePending s p data) := by
  unfold resolvePending
  try dsimp only
  repeat' (first
      | (with_reducible first
          | assumption | exact Sub.of (by decide +kernel) hm | apply event_within | apply savePending_within
          | apply within_ite)
      | split)

theorem sendRead_within {M : List Part} {z : State} (s : State) (c : CoilCtx) (step : SecStep) (block : Nat) (hs
    : Within M z s) (hm : Sub (hostPath ++ [Part.release, Part.transponder]) M) : Within M z (sendRead s c step block) := by
  unfold sendRead
  try dsimp only
  repeat' (first | (with_reducible first | assumption | exact Sub.of (by decide +kernel) hm | apply sendSecured_within))

theorem notePending_within {M : List Part} {z : State} (s : State) (c : CoilCtx) (block : Nat) (new : Bytes) (hs
    : Within M z s) (hm : Sub [.store, .transponder] M) : Within M z (notePending s c block new) := by
  unfold notePending
  try dsimp only
  repeat' (first | (with_reducible first | assumption | exact Sub.of (by decide +kernel) hm | apply savePending_within))

theorem writeEnds_within {M : List Part} {z : State} (s : State) (c : CoilCtx) (step : SecStep) (sentInFull : Bool)
    (fin : State → Nat → State) (hs : Within M z s) (hfin : ∀ (v0 : State)
    (v1 : Nat), Within M z v0 → Within M z (fin v0 v1)) (hm : Sub [.store, .transponder] M)
    : Within M z (writeEnds s c step sentInFull fin) := by
  unfold writeEnds
  try dsimp only
  repeat' (first
      | (with_reducible first
          | assumption | exact Sub.of (by decide +kernel) hm | apply notePending_within | apply hfin | apply within_ite)
      | split)

theorem walkFound_within {M : List Part} {z : State} (s : State) (id : Nat) (hs : Within M z s)
    (hm : Sub (ringPath ++ [Part.transponder]) M) : Within M z (walkFound s id) := by
  unfold walkFound
  try dsimp only
  repeat' (first
      | (with_reducible first
          | assumption | exact Sub.of (by decide +kernel) hm | apply tagFound_within | apply walkNext_within
          | apply within_ite)
      | split)

theorem fieldCollapse_within {M : List Part} {z : State} (s : State) (oc : Nat) (hs : Within M z s)
    (hm : Sub (hostPath ++ [Part.store, Part.release, Part.transponder]) M) : Within M z (fieldCollapse s oc) := by
  unfold fieldCollapse
  try dsimp only
  repeat' (first
      | (with_reducible first
          | assumption | exact Sub.of (by decide +kernel) hm | apply reportCoilCtx_within | apply endJob_within
          | apply notePending_within | apply within_ite)
      | split)

theorem coilState_within {M : List Part} {z : State} (s : State) (v : Nat) (hs : Within M z s)
    (hm : Sub (hostPath ++ [Part.transponder]) M) : Within M z (coilState s v) := by
  unfold coilState
  try dsimp only
  repeat' (first
      | (with_reducible first
          | assumption | exact rfl | exact Sub.of (by decide +kernel) hm | exact Or.inr rfl
          | exact Or.inl (Sub.has hm (by decide +kernel)) | apply event_within | apply State.raise_within
          | apply within_ite)
      | (simp only [within_mk]; with_reducible apply Within.upd) | split)

theorem requestCeiling_within {M : List Part} {z : State} (s : State) (hs : Within M z s) (hm : Sub [.store] M)
    : Within M z (requestCeiling s) := by
  unfold requestCeiling
  try dsimp only
  repeat' (first
      | (with_reducible first
          | assumption | exact Sub.of (by decide +kernel) hm | apply nvRequest_within | apply within_ite)
      | split)

theorem sendRelease_within {M : List Part} {z : State} (s : State) (slot : Nat) (dst : Nat) (typ : Nat) (body : Bytes) (hs
    : Within M z s) (hm : Sub (sendPath ++ [Part.keys]) M) : Within M z (sendRelease s slot dst typ body) := by
  unfold sendRelease
  try dsimp only
  repeat' (first
      | (with_reducible first
          | assumption | exact Sub.of (by decide +kernel) hm | apply useSlot_within | apply nextSeq_within
          | apply sendFrame_within))

theorem sendAnswer_within {M : List Part} {z : State} (s : State) (peer : Nat) (group : Nat) (reqNo : Nat) (a : Answer) (hs
    : Within M z s) (hm : Sub (sendPath ++ [Part.keys]) M) : Within M z (sendAnswer s peer group reqNo a) := by
  unfold sendAnswer
  try dsimp only
  repeat' (first
      | (with_reducible first
          | assumption | exact Sub.of (by decide +kernel) hm | apply sendRelease_within)
      | split)

theorem settle_within {M : List Part} {z : State} (s : State) (ctx : Nat) (logical : Nat) (a : Option Answer) (hs
    : Within M z s) (hm : Sub (hostPath ++ [Part.release, Part.cycle, Part.subGhz, Part.uwb, Part.transponder]) M)
    : Within M z (settle s ctx logical a) := by
  unfold settle
  try dsimp only
  repeat' (first
      | (with_reducible first
          | assumption | exact rfl | exact Sub.of (by decide +kernel) hm | exact Or.inr rfl
          | exact Or.inl (Sub.has hm (by decide +kernel)) | apply endTag_within | apply State.setCtx_within
          | apply endCtx_within | apply within_ite)
      | (simp only [within_mk]; with_reducible apply Within.upd) | split)

theorem answerReq_within {M : List Part} {z : State} (s : State) (r : OpenReq) (a : Answer) (atLatch : Bool) (hs
    : Within M z s)
    (hm : Sub (hostPath ++ [Part.keys, Part.release, Part.cycle, Part.subGhz, Part.uwb, Part.transponder]) M)
    : Within M z (answerReq s r a atLatch) := by
  unfold answerReq
  try dsimp only
  repeat' (first
      | (with_reducible first
          | assumption | exact rfl | exact Sub.of (by decide +kernel) hm | exact Or.inr rfl
          | exact Or.inl (Sub.has hm (by decide +kernel)) | apply sendAnswer_within | apply settle_within
          | apply within_ite)
      | (simp only [within_mk]; with_reducible apply Within.upd) | split)

theorem relPost_within {M : List Part} {z : State} (s : State) (rec_ : Bytes) (hs : Within M z s) (hm : Sub ringPath M)
    : Within M z (relPost s rec_) := by
  unfold relPost
  try dsimp only
  repeat' (first | (with_reducible first | assumption | exact Sub.of (by decide +kernel) hm | apply fillBuffer_within))

theorem reqEvent_within {M : List Part} {z : State} (s : State) (code : Nat) (detail : Nat) (r : OpenReq) (hs
    : Within M z s) (hm : Sub ringPath M) : Within M z (reqEvent s code detail r) := by
  unfold reqEvent
  try dsimp only
  repeat' (first | (with_reducible first | assumption | exact Sub.of (by decide +kernel) hm | apply relPost_within))

theorem refuseReq_within {M : List Part} {z : State} (s : State) (r : OpenReq) (reason : Nat) (hs : Within M z s)
    (hm : Sub (hostPath ++ [Part.keys, Part.release, Part.cycle, Part.subGhz, Part.uwb, Part.transponder]) M)
    : Within M z (refuseReq s r reason) := by
  unfold refuseReq
  try dsimp only
  repeat' (first
      | (with_reducible first
          | assumption | exact Sub.of (by decide +kernel) hm | apply answerReq_within | apply reqEvent_within))

theorem queueReq_within {M : List Part} {z : State} (s : State) (r : OpenReq) (hs : Within M z s)
    (hm : Sub (hostPath ++ [Part.keys, Part.release, Part.cycle, Part.subGhz, Part.uwb, Part.transponder]) M)
    : Within M z (queueReq s r) := by
  unfold queueReq
  try dsimp only
  repeat' (first
      | (with_reducible first
          | assumption | exact rfl | exact Sub.of (by decide +kernel) hm | exact Or.inr rfl
          | exact Or.inl (Sub.has hm (by decide +kernel)) | apply refuseReq_within | apply answerReq_within
          | apply reqEvent_within | apply within_ite)
      | (simp only [within_mk]; with_reducible apply Within.upd) | split)

theorem sessEvent_within {M : List Part} {z : State} (s : State) (code : Nat) (detail : Nat) (e : SessionEntry) (hs
    : Within M z s) (hm : Sub ringPath M) : Within M z (sessEvent s code detail e) := by
  unfold sessEvent
  try dsimp only
  repeat' (first
      | (with_reducible first
          | assumption | exact Sub.of (by decide +kernel) hm | apply relPost_within | apply within_ite)
      | split)

theorem renewSession_within {M : List Part} {z : State} (s : State) (i : Nat) (r : OpenReq) (hs : Within M z s)
    (hm : Sub (hostPath ++ [Part.keys, Part.release, Part.metering, Part.cycle, Part.subGhz, Part.uwb, Part.transponder]) M)
    : Within M z (renewSession s i r) := by
  unfold renewSession
  try dsimp only
  repeat' (first
      | (with_reducible first
          | assumption | exact Sub.of (by decide +kernel) hm | apply State.setSess_within | apply answerReq_within
          | apply sessEvent_within))

theorem driveOutputs_within {M : List Part} {z : State} (s : State) (hs : Within M z s) (hm : Sub [.release] M)
    : Within M z (driveOutputs s) := by
  unfold driveOutputs
  try dsimp only
  repeat' (first
      | (with_reducible first
          | assumption | exact rfl | exact Or.inr rfl | exact Or.inl (Sub.has hm (by decide +kernel)) | apply within_ite)
      | (simp only [within_mk]; with_reducible apply Within.upd) | split)

theorem closeEntry_within {M : List Part} {z : State} (s : State) (i : Nat) (cause : Nat) (hs : Within M z s)
    (hm : Sub (ringPath ++ [Part.release, Part.metering]) M) : Within M z (closeEntry s i cause) := by
  unfold closeEntry
  try dsimp only
  repeat' (first
      | (with_reducible first
          | assumption | exact Sub.of (by decide +kernel) hm | apply receiptDue_within | apply State.setSess_within
          | apply driveOutputs_within | apply sessEvent_within))

theorem openSession_within {M : List Part} {z : State} (s : State) (i : Nat) (r : OpenReq) (hs : Within M z s)
    (hm : Sub (hostPath ++ [Part.keys, Part.release, Part.metering, Part.cycle, Part.subGhz, Part.uwb, Part.transponder]) M)
    : Within M z (openSession s i r) := by
  unfold openSession
  try dsimp only
  repeat' (first
      | (with_reducible first
          | assumption | exact rfl | exact Sub.of (by decide +kernel) hm | exact Or.inr rfl
          | exact Or.inl (Sub.has hm (by decide +kernel)) | apply sessEvent_within | apply driveOutputs_within
          | apply State.setSess_within | apply closeEntry_within | apply answerReq_within)
      | (simp only [within_mk]; with_reducible apply Within.upd) | split)

theorem decideWith_within {M : List Part} {z : State} (full : State → OpenReq → State) (s : State) (r : OpenReq) (hfull : ∀
    (v0 : State) (v1 : OpenReq), Within M z v0 → Within M z (full v0 v1)) (hs : Within M z s)
    (hm : Sub (hostPath ++ [Part.store, Part.keys, Part.release, Part.metering, Part.cycle, Part.subGhz, Part.uwb, Part.transponder]) M)
    : Within M z (decideWith full s r) := by
  unfold decideWith
  try dsimp only
  repeat' (first
      | (with_reducible first
          | assumption | exact rfl | exact Sub.of (by decide +kernel) hm | exact Or.inr rfl
          | exact Or.inl (Sub.has hm (by decide +kernel)) | apply refuseReq_within | apply renewSession_within
          | apply openSession_within | apply requestCeiling_within | apply hfull)
      | (simp only [within_mk]; with_reducible apply Within.upd) | split)

theorem decideQueuedFuel_within {M : List Part} {z : State} (a0_ : Nat) (a1_ : State) (ha1_ : Within M z a1_)
    (hm : Sub (hostPath ++ [Part.store, Part.keys, Part.release, Part.metering, Part.cycle, Part.subGhz, Part.uwb, Part.transponder]) M)
    : Within M z (decideQueuedFuel a0_ a1_) := by
  induction a0_ generalizing a1_ with
  | zero =>
    unfold decideQueuedFuel
    try dsimp only
    repeat' (first
        | (with_reducible first
            | assumption | exact rfl | intro _ | exact Sub.of (by decide +kernel) hm | exact Or.inr rfl
            | exact Or.inl (Sub.has hm (by decide +kernel)) | apply decideWith_within | apply within_ite)
        | (simp only [within_mk]; with_reducible apply Within.upd) | split)
  | succ k ih =>
    unfold decideQueuedFuel
    try dsimp only
    repeat' (first
        | (with_reducible first
            | apply ih | assumption | exact rfl | intro _ | exact Sub.of (by decide +kernel) hm | exact Or.inr rfl
            | exact Or.inl (Sub.has hm (by decide +kernel)) | apply decideWith_within | apply within_ite)
        | (simp only [within_mk]; with_reducible apply Within.upd) | split)

theorem decideQueued_within {M : List Part} {z : State} (s : State) (hs : Within M z s)
    (hm : Sub (hostPath ++ [Part.store, Part.keys, Part.release, Part.metering, Part.cycle, Part.subGhz, Part.uwb, Part.transponder]) M)
    : Within M z (decideQueued s) := by
  unfold decideQueued
  try dsimp only
  repeat' (first | (with_reducible first | assumption | exact Sub.of (by decide +kernel) hm | apply decideQueuedFuel_within))

theorem decide__within {M : List Part} {z : State} (s : State) (r : OpenReq) (hs : Within M z s)
    (hm : Sub (hostPath ++ [Part.store, Part.keys, Part.release, Part.metering, Part.cycle, Part.subGhz, Part.uwb, Part.transponder]) M)
    : Within M z (decide_ s r) := by
  unfold decide_
  try dsimp only
  repeat' (first
      | (with_reducible first
          | assumption | intro _ | exact Sub.of (by decide +kernel) hm | apply decideWith_within | apply queueReq_within
          | apply decideQueued_within | apply within_ite)
      | split)

theorem State.setDoor_within {M : List Part} {z : State} (s : State) (n : Nat) (d : Door) (hs : Within M z s)
    (hm : Sub [.release] M) : Within M z (State.setDoor s n d) := by
  unfold State.setDoor
  try dsimp only
  repeat' (first
      | (with_reducible first
          | assumption | exact rfl | exact Or.inr rfl | exact Or.inl (Sub.has hm (by decide +kernel)))
      | (simp only [within_mk]; with_reducible apply Within.upd))

theorem grantAnswered_within {M : List Part} {z : State} (s : State) (g : SentGrant) (code : Nat) (number : Nat)
    (a : Answer) (hs : Within M z s)
    (hm : Sub (hostPath ++ [Part.release, Part.cycle, Part.subGhz, Part.uwb, Part.transponder]) M)
    : Within M z (grantAnswered s g code number a) := by
  unfold grantAnswered
  try dsimp only
  repeat' (first
      | (with_reducible first
          | assumption | exact rfl | exact Sub.of (by decide +kernel) hm | exact Or.inr rfl
          | exact Or.inl (Sub.has hm (by decide +kernel)) | apply settle_within | apply relPost_within
          | apply within_ite)
      | (simp only [within_mk]; with_reducible apply Within.upd) | split)

theorem endEntry_within {M : List Part} {z : State} (s : State) (i : Nat) (cause : Nat) (hs : Within M z s)
    (hm : Sub (hostPath ++ [Part.store, Part.keys, Part.release, Part.metering, Part.cycle, Part.subGhz, Part.uwb, Part.transponder]) M)
    : Within M z (endEntry s i cause) := by
  unfold endEntry
  try dsimp only
  repeat' (first
      | (with_reducible first
          | assumption | exact Sub.of (by decide +kernel) hm | apply decideQueued_within | apply closeEntry_within
          | apply sessEvent_within | apply State.setSess_within | apply within_ite)
      | split)

theorem endEntries_within {M : List Part} {z : State} (s : State) (p : SessionEntry → Bool) (cause : Nat) (hs
    : Within M z s)
    (hm : Sub (hostPath ++ [Part.store, Part.keys, Part.release, Part.metering, Part.cycle, Part.subGhz, Part.uwb, Part.transponder]) M)
    : Within M z (endEntries s p cause) := by
  unfold endEntries
  try dsimp only
  repeat' (first
      | (with_reducible first
          | assumption | intro _ | exact Sub.of (by decide +kernel) hm | apply endEntry_within | apply hp
          | apply within_foldl | apply within_foldl_fst))

theorem groupDisabled_within {M : List Part} {z : State} (group : Nat) (s : State) (hs : Within M z s)
    (hm : Sub (hostPath ++ [Part.store, Part.keys, Part.release, Part.metering, Part.cycle, Part.subGhz, Part.uwb, Part.transponder]) M)
    : Within M z (groupDisabled group s) := by
  unfold groupDisabled
  try dsimp only
  repeat' (first
      | (with_reducible first
          | assumption | intro _ | exact Sub.of (by decide +kernel) hm | apply endEntries_within))

theorem sendGrant_within {M : List Part} {z : State} (s : State) (ctx : Nat) (g : Nat) (h : HollySlot) (coil : Bool)
    (i : GrantInfo) (hs : Within M z s)
    (hm : Sub (hostPath ++ [Part.keys, Part.release, Part.cycle, Part.subGhz, Part.uwb, Part.transponder]) M)
    : Within M z (sendGrant s ctx g h coil i) := by
  unfold sendGrant
  try dsimp only
  repeat' (first
      | (with_reducible first
          | assumption | exact rfl | exact Sub.of (by decide +kernel) hm | exact Or.inr rfl
          | exact Or.inl (Sub.has hm (by decide +kernel)) | apply settle_within | apply sendRelease_within)
      | (simp only [within_mk]; with_reducible apply Within.upd) | split)

theorem requestGroup_within {M : List Part} {z : State} (s : State) (ctx : Nat) (g : Nat) (h : HollySlot) (coil : Bool)
    (i : GrantInfo) (hs : Within M z s)
    (hm : Sub (hostPath ++ [Part.store, Part.keys, Part.release, Part.metering, Part.cycle, Part.subGhz, Part.uwb, Part.transponder]) M)
    : Within M z (requestGroup s ctx g h coil i) := by
  unfold requestGroup
  try dsimp only
  repeat' (first
      | (with_reducible first
          | assumption | exact Sub.of (by decide +kernel) hm | apply sendGrant_within | apply decide__within
          | apply within_ite)
      | split)

theorem requestGroups_within {M : List Part} {z : State} (s : State) (ctx : Nat) (gs : List Nat) (h : HollySlot)
    (coil : Bool) (i : GrantInfo) (hs : Within M z s)
    (hm : Sub (hostPath ++ [Part.store, Part.keys, Part.release, Part.metering, Part.cycle, Part.subGhz, Part.uwb, Part.transponder]) M)
    : Within M z (requestGroups s ctx gs h coil i) := by
  unfold requestGroups
  try dsimp only
  repeat' (first
      | (with_reducible first
          | assumption | intro _ | exact Sub.of (by decide +kernel) hm | apply requestGroup_within | apply within_foldl
          | apply within_foldl_fst))

theorem endAll_within {M : List Part} {z : State} (s : State) (cause : Nat) (hs : Within M z s)
    (hm : Sub (hostPath ++ [Part.store, Part.keys, Part.release, Part.metering, Part.cycle, Part.subGhz, Part.uwb, Part.transponder]) M)
    : Within M z (endAll s cause) := by
  unfold endAll
  try dsimp only
  repeat' (first
      | (with_reducible first
          | assumption | intro _ | exact Sub.of (by decide +kernel) hm | apply endEntries_within))

theorem State.setReadback_within {M : List Part} {z : State} (s : State) (g : Nat) (r : Readback) (hs : Within M z s)
    (hm : Sub [.release] M) : Within M z (State.setReadback s g r) := by
  unfold State.setReadback
  try dsimp only
  repeat' (first
      | (with_reducible first
          | assumption | exact rfl | exact Or.inr rfl | exact Or.inl (Sub.has hm (by decide +kernel)))
      | (simp only [within_mk]; with_reducible apply Within.upd))

theorem uwbCharge_within {M : List Part} {z : State} (s : State) (us : Nat) (hs : Within M z s) (hm : Sub [.uwb] M)
    : Within M z (uwbCharge s us) := by
  unfold uwbCharge
  try dsimp only
  repeat' (first
      | (with_reducible first
          | assumption | exact rfl | exact Or.inr rfl | exact Or.inl (Sub.has hm (by decide +kernel)))
      | (simp only [within_mk]; with_reducible apply Within.upd))

theorem roundStarts_within {M : List Part} {z : State} (s : State) (n : Nat) (c : Ctx) (bounding : Bool) (us : Nat)
    (counter : Nat) (hs : Within M z s) (hm : Sub [.status, .output, .nonces, .cycle, .uwb] M)
    : Within M z (roundStarts s n c bounding us counter) := by
  unfold roundStarts
  try dsimp only
  repeat' (first
      | (with_reducible first
          | assumption | exact rfl | exact Sub.of (by decide +kernel) hm | exact Or.inr rfl
          | exact Or.inl (Sub.has hm (by decide +kernel)) | apply uwbCharge_within | apply State.draw_within
          | apply State.setCtx_within | apply State.emit_within | apply within_ite)
      | (simp only [within_mk]; with_reducible apply Within.upd) | split)

theorem challengeLeaves_within {M : List Part} {z : State} (s : State) (hs : Within M z s) (hm : Sub [.output, .subGhz] M)
    : Within M z (challengeLeaves s) := by
  unfold challengeLeaves
  try dsimp only
  repeat' (first
      | (with_reducible first
          | assumption | exact Sub.of (by decide +kernel) hm | apply sgrTransmit_within)
      | split)

theorem roundOver_within {M : List Part} {z : State} (s : State) (hs : Within M z s) (hm : Sub [.uwb] M)
    : Within M z (roundOver s) := by
  unfold roundOver
  try dsimp only
  repeat' (first
      | (with_reducible first
          | assumption | exact rfl | exact Or.inr rfl | exact Or.inl (Sub.has hm (by decide +kernel)) | apply within_ite)
      | (simp only [within_mk]; with_reducible apply Within.upd) | split)

theorem roundFails_within {M : List Part} {z : State} (s : State) (hs : Within M z s)
    (hm : Sub (hostPath ++ [Part.release, Part.cycle, Part.subGhz, Part.uwb]) M) : Within M z (roundFails s) := by
  unfold roundFails
  try dsimp only
  repeat' (first
      | (with_reducible first
          | assumption | exact Sub.of (by decide +kernel) hm | apply endCtx_within | apply roundOver_within)
      | split)

theorem readLatches_within {M : List Part} {z : State} (off : Nat) (s : State) (hs : Within M z s)
    (hm : Sub [.fabric, .metering, .uwb] M) : Within M z (readLatches off s) := by
  unfold readLatches
  try dsimp only
  repeat' (first
      | (with_reducible first
          | assumption | exact rfl | exact Or.inr rfl | exact Or.inl (Sub.has hm (by decide +kernel)) | apply within_ite)
      | (simp only [within_mk]; with_reducible apply Within.upd) | split)

theorem registerRead_within {M : List Part} {z : State} (off : Nat) (s : State) (hs : Within M z s)
    (hm : Sub [.fabric, .metering, .uwb] M) : Within M z (registerRead off s).1 := by
  unfold registerRead
  try dsimp only
  repeat' (first
      | (with_reducible first
          | assumption | exact Sub.of (by decide +kernel) hm | apply readLatches_within | apply within_ite)
      | split)

theorem answerRead_within {M : List Part} {z : State} (off : Nat) (s : State) (hs : Within M z s)
    (hm : Sub [.fabric, .output, .metering, .uwb] M) : Within M z (answerRead off s) := by
  unfold answerRead
  try dsimp only
  repeat' (first
      | (with_reducible first
          | assumption | exact Sub.of (by decide +kernel) hm | apply registerRead_within | apply State.emit_within)
      | split)

theorem auditedWrite_within {M : List Part} {z : State} (source : Nat) (off : Nat) (f : State → State) (s : State) (hf : ∀
    (v0 : State), Within M z v0 → Within M z (f v0)) (hs : Within M z s) (hm : Sub [.host, .status] M)
    : Within M z (auditedWrite source off f s) := by
  unfold auditedWrite
  try dsimp only
  repeat' (first | (with_reducible first | assumption | exact Sub.of (by decide +kernel) hm | apply audit_within | apply hf))

theorem dropRequests_within {M : List Part} {z : State} (n : Nat) (tag : Nat) (s : State) (hs : Within M z s)
    (hm : Sub [.store] M) : Within M z (dropRequests n tag s) := by
  unfold dropRequests
  try dsimp only
  repeat' (first
      | (with_reducible first
          | assumption | exact rfl | exact Or.inr rfl | exact Or.inl (Sub.has hm (by decide +kernel)))
      | (simp only [within_mk]; with_reducible apply Within.upd))

theorem cancelSgr_within {M : List Part} {z : State} (tag : Nat) (s : State) (hs : Within M z s)
    (hm : Sub (ringPath ++ [Part.power, Part.subGhz]) M) : Within M z (cancelSgr tag s) := by
  unfold cancelSgr
  extract_lets a t
  have ht : Within M z t := by
    refine dropCalibrations_within _ ?_ (Sub.of (by decide +kernel) hm)
    unfold a
    repeat' (first
        | (with_reducible first
            | assumption | exact rfl | intro _ | exact Sub.of (by decide +kernel) hm | exact Or.inr rfl
            | exact Or.inl (Sub.has hm (by decide +kernel)) | apply within_ite | apply within_foldl)
        | (simp only [within_mk]; with_reducible apply Within.upd) | split)
  clear_value a t
  repeat' (first
      | (with_reducible first
          | assumption | exact rfl | intro _ | exact Sub.of (by decide +kernel) hm | exact Or.inr rfl
          | exact Or.inl (Sub.has hm (by decide +kernel)) | apply sgrNextJob_within | apply sgrReturn_within
          | apply sgrFree_within | apply within_ite | apply within_foldl)
      | (simp only [within_mk]; with_reducible apply Within.upd) | split)

theorem cancelUpd_within {M : List Part} {z : State} (tag : Nat) (s : State) (hs : Within M z s) (hm : Sub [.update] M)
    : Within M z (cancelUpd tag s) := by
  unfold cancelUpd
  try dsimp only
  repeat' (first
      | (with_reducible first
          | assumption | exact rfl | exact Or.inr rfl | exact Or.inl (Sub.has hm (by decide +kernel)) | apply within_ite)
      | (simp only [within_mk]; with_reducible apply Within.upd) | split)

theorem cancelWork_within {M : List Part} {z : State} (n : Nat) (tag : Nat) (s : State) (hs : Within M z s)
    (hm : Sub (ringPath ++ [Part.store, Part.power, Part.keys, Part.holly, Part.subGhz, Part.transponder, Part.update]) M)
    : Within M z (cancelWork n tag s) := by
  unfold cancelWork
  try dsimp only
  repeat' (first
      | (with_reducible first
          | assumption | exact rfl | exact Sub.of (by decide +kernel) hm | exact Or.inr rfl
          | exact Or.inl (Sub.has hm (by decide +kernel)) | apply dropRequests_within | apply remasksLate_within
          | apply cancelSgr_within | apply cancelUpd_within | apply within_ite)
      | (simp only [within_mk]; with_reducible apply Within.upd) | split)

theorem abortTag_within {M : List Part} {z : State} (n : Nat) (tag : Nat) (s : State) (hs : Within M z s)
    (hm : Sub (ringPath ++ [Part.store, Part.power, Part.keys, Part.holly, Part.subGhz, Part.transponder, Part.update]) M)
    : Within M z (abortTag n tag s).1 := by
  unfold abortTag
  try dsimp only
  repeat' (first
      | (with_reducible first
          | assumption | exact Sub.of (by decide +kernel) hm | apply complete_within | apply cancelWork_within
          | apply within_ite)
      | split)

theorem drained_within {M : List Part} {z : State} (n : Nat) (s : State) (hs : Within M z s) (hm : Sub [.rings] M)
    : Within M z (drained n s) := by
  unfold drained
  dsimp only
  split
  · exact State.setRing_within _ _ _ hs (Sub.of (by decide +kernel) hm) fun a => by
      obtain ⟨h1, h2, h3, h4, h5, h6, h7, h8, h9, h10, h11, h12⟩ := hs.keeps.rings a n
      exact ⟨h1, h2, h3, h4, h5, h6, h7, h8, h9, h10, h11, fun h => absurd rfl h⟩
  · exact hs

theorem abortAll_within {M : List Part} {z : State} (n : Nat) (s : State) (hs : Within M z s)
    (hm : Sub (ringPath ++ [Part.store, Part.power, Part.keys, Part.holly, Part.subGhz, Part.transponder, Part.update]) M)
    : Within M z (abortAll n s) := by
  unfold abortAll
  try dsimp only
  repeat' (first
      | (with_reducible first
          | assumption | intro _ | exact Sub.of (by decide +kernel) hm | apply abortTag_within | apply within_foldl
          | apply within_foldl_fst))

theorem ringDisables_within {M : List Part} {z : State} (n : Nat) (s : State) (hs : Within M z s)
    (hm : Sub (ringPath ++ [Part.store, Part.power, Part.keys, Part.holly, Part.subGhz, Part.transponder, Part.update]) M)
    : Within M z (ringDisables n s) := by
  unfold ringDisables
  dsimp only
  split
  · next hp =>
    refine drained_within _ _ (abortAll_within _ _ ?_ (Sub.of (by decide +kernel) hm)) (Sub.of (by decide +kernel) hm)
    exact State.setRing_within _ _ _ hs (Sub.of (by decide +kernel) hm) fun a => by
      obtain ⟨h1, h2, h3, h4, h5, h6, h7, h8, h9, h10, h11, h12⟩ := hs.keeps.rings a n
      exact ⟨h1, h2, h3, h4, h5, h6, h7, h8, h9, h10, h11, fun _ => h12 (by intro e; simp [e] at hp)⟩
  · exact hs

theorem ringEnables_within {M : List Part} {z : State} (n : Nat) (s : State) (hs : Within M z s) (hm : Sub [.rings] M)
    : Within M z (ringEnables n s) := by
  unfold ringEnables
  dsimp only
  split
  · exact State.setRing_within _ _ _ hs (Sub.of (by decide +kernel) hm) fun a => by
      obtain ⟨h1, h2, h3, h4, h5, h6, h7, h8, h9, h10, h11, h12⟩ := hs.keeps.rings a n
      exact ⟨h1, h2, h3, h4, h5, h6, h7, h8, h9, h10, h11,
        fun _ => ⟨Nat.two_pow_pos _, Nat.two_pow_pos _, Nat.two_pow_pos _, Nat.two_pow_pos _⟩⟩
  · exact hs

theorem noteSingleFault_within {M : List Part} {z : State} (s : State) (code : Nat) (unit : Nat) (hs : Within M z s)
    (hm : Sub (hostPath ++ [Part.power]) M) : Within M z (noteSingleFault s code unit) := by
  unfold noteSingleFault
  try dsimp only
  repeat' (first
      | (with_reducible first
          | assumption | exact rfl | exact Sub.of (by decide +kernel) hm | exact Or.inr rfl
          | exact Or.inl (Sub.has hm (by decide +kernel)) | apply event_within)
      | (simp only [within_mk]; with_reducible apply Within.upd))

theorem singleFault_within {M : List Part} {z : State} (s : State) (f : Fld) (code : Nat) (unit : Nat) (hs : Within M z s)
    (hm : Sub (hostPath ++ [Part.power]) M) : Within M z (singleFault s f code unit) := by
  unfold singleFault
  try dsimp only
  repeat' (first
      | (with_reducible first
          | assumption | exact Sub.of (by decide +kernel) hm | apply noteSingleFault_within | apply State.raise_within))

theorem endGrace_within {M : List Part} {z : State} (s : State) (hs : Within M z s)
    (hm : Sub (hostPath ++ [Part.store, Part.power, Part.keys, Part.release, Part.metering, Part.cycle, Part.subGhz, Part.uwb, Part.transponder]) M)
    : Within M z (endGrace s) := by
  unfold endGrace
  try dsimp only
  repeat' (first
      | (with_reducible first
          | assumption | exact rfl | exact Sub.of (by decide +kernel) hm | exact Or.inr rfl
          | exact Or.inl (Sub.has hm (by decide +kernel)) | apply endAll_within)
      | (simp only [within_mk]; with_reducible apply Within.upd))

theorem stopEmissions_within {M : List Part} {z : State} (s : State) (hs : Within M z s)
    (hm : Sub (hostPath ++ [Part.store, Part.power, Part.release, Part.field, Part.cycle, Part.subGhz, Part.uwb, Part.transponder]) M)
    : Within M z (stopEmissions s) := by
  unfold stopEmissions
  try dsimp only
  repeat' (first
      | (with_reducible first
          | assumption | exact rfl | exact Sub.of (by decide +kernel) hm | exact Or.inr rfl
          | exact Or.inl (Sub.has hm (by decide +kernel)) | apply fieldCollapse_within)
      | (simp only [within_mk]; with_reducible apply Within.upd))

theorem enterFailed_within {M : List Part} {z : State} (s : State) (cause : Nat) (detail : Nat) (hs : Within M z s)
    (hm : Sub (hostPath ++ [Part.mode, Part.store, Part.power, Part.keys, Part.release, Part.metering, Part.field, Part.cycle, Part.subGhz, Part.uwb, Part.transponder]) M)
    : Within M z (enterFailed s cause detail) := by
  unfold enterFailed
  try dsimp only
  repeat' (first
      | (with_reducible first
          | assumption | exact rfl | intro _ | exact Sub.of (by decide +kernel) hm | exact Or.inr rfl
          | exact Or.inl (Sub.has hm (by decide +kernel)) | apply State.setStat_within | apply stopEmissions_within
          | apply endCtxs_within | apply endGrace_within | apply within_ite)
      | (simp only [within_mk]; with_reducible apply Within.upd) | split)

theorem setGovernor_within {M : List Part} {z : State} (s : State) (therm : Nat) (ntc : Nat) (hs : Within M z s)
    (hm : Sub (hostPath ++ [Part.power]) M) : Within M z (setGovernor s therm ntc) := by
  unfold setGovernor
  try dsimp only
  repeat' (first
      | (with_reducible first
          | assumption | exact rfl | exact Sub.of (by decide +kernel) hm | exact Or.inr rfl
          | exact Or.inl (Sub.has hm (by decide +kernel)) | apply State.raise_within | apply event_within
          | apply within_ite)
      | (simp only [within_mk]; with_reducible apply Within.upd) | split)

theorem tempTaken_within {M : List Part} {z : State} (s : State) (tenths : Int) (hs : Within M z s)
    (hm : Sub (hostPath ++ [Part.mode, Part.store, Part.power, Part.keys, Part.release, Part.metering, Part.field, Part.cycle, Part.subGhz, Part.uwb, Part.transponder]) M)
    : Within M z (tempTaken s tenths) := by
  unfold tempTaken
  try dsimp only
  repeat' (first
      | (with_reducible first
          | assumption | exact rfl | exact Sub.of (by decide +kernel) hm | exact Or.inr rfl
          | exact Or.inl (Sub.has hm (by decide +kernel)) | apply enterFailed_within | apply setGovernor_within
          | apply within_ite)
      | (simp only [within_mk]; with_reducible apply Within.upd) | split)

theorem eccDoubleFault_within {M : List Part} {z : State} (s : State) (unit : Nat) (hs : Within M z s)
    (hm : Sub (hostPath ++ [Part.power]) M) : Within M z (eccDoubleFault s unit) := by
  unfold eccDoubleFault
  try dsimp only
  repeat' (first
      | (with_reducible first
          | assumption | exact Sub.of (by decide +kernel) hm | apply singleFault_within | apply State.bump_within))

theorem dropRelease_within {M : List Part} {z : State} (s : State) (hs : Within M z s)
    (hm : Sub (hostPath ++ [Part.release]) M) : Within M z (dropRelease s) := by
  unfold dropRelease
  try dsimp only
  repeat' (first
      | (with_reducible first
          | assumption | exact rfl | exact Sub.of (by decide +kernel) hm | exact Or.inr rfl
          | exact Or.inl (Sub.has hm (by decide +kernel)) | apply State.raise_within | apply State.bump_within
          | apply event_within | apply within_ite)
      | (simp only [within_mk]; with_reducible apply Within.upd) | split)

end Sys2Proof.Machine
end

