-- ==== Sys2Proof/Laws/WithinFabric.lean ====
section
/-! SUPPORT. What each definition keeps and where it may write (Laws/Within.lean): the fabric, the low-frequency field,
restarts and the transponder link. -/
namespace Sys2Proof.Machine

set_option Elab.async false

theorem asDownstream_within {M : List Part} {z : State} (s : State) (join : JoinState) (hs : Within M z s)
    (hm : Sub [.fabric] M) : Within M z (asDownstream s join) := by
  unfold asDownstream
  try dsimp only
  repeat' (first
      | (with_reducible first
          | assumption | exact rfl | exact Or.inr rfl | exact Or.inl (Sub.has hm (by decide +kernel)))
      | (simp only [within_mk]; with_reducible apply Within.upd))

theorem prepareBank_within {M : List Part} {z : State} (s : State) (num : Nat) (epoch : Nat) (line : Bool)
    (order : List Nat) (hs : Within M z s) (hm : Sub [.fabric] M) : Within M z (prepareBank s num epoch line order) := by
  unfold prepareBank
  try dsimp only
  repeat' (first
      | (with_reducible first
          | assumption | exact rfl | exact Sub.of (by decide +kernel) hm | exact Or.inr rfl
          | exact Or.inl (Sub.has hm (by decide +kernel)) | apply State.setBank_within)
      | (simp only [within_mk]; with_reducible apply Within.upd))

theorem headRetired_within {M : List Part} {z : State} (s : State) (p : Nat) (hs : Within M z s) (hm : Sub [.fabric] M)
    : Within M z (headRetired s p) := by
  unfold headRetired
  try dsimp only
  repeat' (first
      | (with_reducible first
          | assumption | exact rfl | exact Or.inr rfl | exact Or.inl (Sub.has hm (by decide +kernel)) | apply within_ite)
      | (simp only [within_mk]; with_reducible apply Within.upd) | split)

theorem retireCheck_within {M : List Part} {z : State} (s : State) (hs : Within M z s) (hm : Sub sendPath M)
    : Within M z (retireCheck s) := by
  unfold retireCheck
  try dsimp only
  repeat' (first
      | (with_reducible first
          | assumption | exact Sub.of (by decide +kernel) hm | apply State.setBank_within | apply headRetired_within
          | apply sendToHead_within | apply within_ite)
      | split)

theorem flipBank_within {M : List Part} {z : State} (s : State) (hs : Within M z s) (hm : Sub [.fabric] M)
    : Within M z (flipBank s) := by
  unfold flipBank
  try dsimp only
  repeat' (first
      | (with_reducible first
          | assumption | exact rfl | intro _ | exact Sub.of (by decide +kernel) hm | exact Or.inr rfl
          | exact Or.inl (Sub.has hm (by decide +kernel)) | apply State.setBank_within | apply kickAll_within
          | apply within_foldl | apply within_foldl_fst)
      | (simp only [within_mk]; with_reducible apply Within.upd))

theorem startFlip_within {M : List Part} {z : State} (s : State) (hs : Within M z s) (hm : Sub sendPath M)
    : Within M z (startFlip s) := by
  unfold startFlip
  try dsimp only
  repeat' (first
      | (with_reducible first
          | assumption | exact rfl | exact Sub.of (by decide +kernel) hm | exact Or.inr rfl
          | exact Or.inl (Sub.has hm (by decide +kernel)) | apply sendGroup15_within | apply retireCheck_within
          | apply flipBank_within)
      | (simp only [within_mk]; with_reducible apply Within.upd))

theorem startUpdate_within {M : List Part} {z : State} (s : State) (hs : Within M z s) (hm : Sub sendPath M)
    : Within M z (startUpdate s) := by
  unfold startUpdate
  try dsimp only
  repeat' (first
      | (with_reducible first
          | assumption | exact rfl | exact Sub.of (by decide +kernel) hm | exact Or.inr rfl
          | exact Or.inl (Sub.has hm (by decide +kernel)) | apply sendGroup15_within | apply prepareBank_within
          | apply startFlip_within | apply within_ite)
      | (simp only [within_mk]; with_reducible apply Within.upd) | split)

theorem presentFunction_within {M : List Part} {z : State} (s : State) (hs : Within M z s) (hm : Sub [.output] M)
    : Within M z (presentFunction s) := by
  unfold presentFunction
  try dsimp only
  repeat' (first
      | (with_reducible first
          | assumption | exact Sub.of (by decide +kernel) hm | apply State.emit_within | apply within_ite)
      | split)

theorem judgeHead_within {M : List Part} {z : State} (s : State) (hs : Within M z s) (hm : Sub (sendPath ++ [Part.force]) M)
    : Within M z (judgeHead s) := by
  unfold judgeHead
  try dsimp only
  repeat' (first
      | (with_reducible first
          | assumption | exact rfl | exact Sub.of (by decide +kernel) hm | exact Or.inr rfl
          | exact Or.inl (Sub.has hm (by decide +kernel)) | apply State.setForce_within | apply asDownstream_within
          | apply startUpdate_within | apply presentFunction_within | apply State.setStat_within | apply within_ite)
      | (simp only [within_mk]; with_reducible apply Within.upd) | split)

theorem rejoins_within {M : List Part} {z : State} (s : State) (hs : Within M z s) (hm : Sub (sendPath ++ [Part.force]) M)
    : Within M z (rejoins s) := by
  unfold rejoins
  try dsimp only
  repeat' (first
      | (with_reducible first
          | assumption | exact rfl | exact Sub.of (by decide +kernel) hm | exact Or.inr rfl
          | exact Or.inl (Sub.has hm (by decide +kernel)) | apply sendToHead_within | apply judgeHead_within
          | apply within_ite)
      | (simp only [within_mk]; with_reducible apply Within.upd) | split)

theorem sendAdvert_within {M : List Part} {z : State} (s : State) (hs : Within M z s)
    (hm : Sub [.fabric, .status, .nonces] M) : Within M z (sendAdvert s) := by
  unfold sendAdvert
  try dsimp only
  repeat' (first
      | (with_reducible first
          | assumption | exact Sub.of (by decide +kernel) hm | apply buildFrame_within | apply linkCopy_within)
      | split)

theorem execSegAdvertSend_within {M : List Part} {z : State} (s : State) (hs : Within M z s)
    (hm : Sub [.fabric, .status, .nonces] M) (hr : rolesThere s (.segAdvertSend) = true)
    : AnsWithin M z (execSegAdvertSend s) := by
  unfold execSegAdvertSend
  rw [inputTo_there hr]
  try dsimp only
  repeat' (first
      | (with_reducible first
          | assumption | intro _ | exact Sub.of (by decide +kernel) hm | apply State.when_within
          | apply sendAdvert_within | apply ansWithin_next))

theorem removePosition_within {M : List Part} {z : State} (s : State) (p : Nat) (hs : Within M z s) (hm : Sub sendPath M)
    : Within M z (removePosition s p) := by
  unfold removePosition
  try dsimp only
  repeat' (first
      | (with_reducible first
          | assumption | exact rfl | exact Sub.of (by decide +kernel) hm | exact Or.inr rfl
          | exact Or.inl (Sub.has hm (by decide +kernel)) | apply startUpdate_within)
      | (simp only [within_mk]; with_reducible apply Within.upd))

theorem execPositionLeaveTimeout_within {M : List Part} {z : State} (pos : Nat) (s : State) (hs : Within M z s)
    (hm : Sub [.fabric, .status, .output, .nonces] M) (hr : rolesThere s (.positionLeaveTimeout pos) = true)
    : AnsWithin M z (execPositionLeaveTimeout pos s) := by
  unfold execPositionLeaveTimeout
  rw [inputTo_there hr]
  try dsimp only
  repeat' (first
      | (with_reducible first
          | assumption | intro _ | exact Sub.of (by decide +kernel) hm | apply State.when_within
          | apply removePosition_within | apply ansWithin_next))

theorem dropQueue_within {M : List Part} {z : State} (s : State) (o : Nat) (c : Nat) (hs : Within M z s)
    (hm : Sub [.fabric, .status] M) : Within M z (dropQueue s o c) := by
  unfold dropQueue
  try dsimp only
  repeat' (first
      | (with_reducible first
          | assumption | intro _ | exact Sub.of (by decide +kernel) hm | apply freeCells_within | apply countDrop_within
          | apply State.setQueue_within | apply within_ite | apply within_foldl | apply within_foldl_fst)
      | split)

theorem helloFrame_within {M : List Part} {z : State} (s : State) (port : Nat) (sleep : Bool) (hs : Within M z s)
    (hm : Sub [.fabric, .status, .nonces] M) : Within M z (helloFrame s port sleep).2 := by
  unfold helloFrame
  try dsimp only
  repeat' (first
      | (with_reducible first
          | assumption | exact Sub.of (by decide +kernel) hm | apply buildFrame_within)
      | split)

theorem sendHello_within {M : List Part} {z : State} (s : State) (port : Nat) (hs : Within M z s) (hm : Sub sendPath M)
    : Within M z (sendHello s port) := by
  unfold sendHello
  try dsimp only
  repeat' (first
      | (with_reducible first
          | assumption | exact Sub.of (by decide +kernel) hm | apply helloFrame_within | apply storeCopy_within
          | apply sendIdle_within | apply sendSymbols_within | apply within_ite)
      | split)

theorem execHelloSend_within {M : List Part} {z : State} (port : Nat) (s : State) (hs : Within M z s)
    (hm : Sub [.fabric, .status, .output, .nonces] M) (hr : rolesThere s (.helloSend port) = true)
    : AnsWithin M z (execHelloSend port s) := by
  unfold execHelloSend
  rw [inputTo_there hr]
  try dsimp only
  repeat' (first
      | (with_reducible first
          | assumption | intro _ | exact Sub.of (by decide +kernel) hm | apply State.when_within
          | apply sendHello_within | apply ansWithin_next))

theorem toLocal_within {M : List Part} {z : State} (s : State) (g : Bytes) (hs : Within M z s)
    (hm : Sub (hostPath ++ [Part.release]) M) : Within M z (toLocal s g) := by
  unfold toLocal
  try dsimp only
  repeat' (first
      | (with_reducible first
          | assumption | exact Sub.of (by decide +kernel) hm | apply storeCopy_within | apply dropRelease_within
          | apply within_ite)
      | split)

theorem learnUplink_within {M : List Part} {z : State} (s : State) (u : Option Nat) (hs : Within M z s)
    (hm : Sub [.fabric] M) : Within M z (learnUplink s u) := by
  unfold learnUplink
  try dsimp only
  repeat' (first
      | (with_reducible first
          | assumption | exact rfl | intro _ | exact Sub.of (by decide +kernel) hm | exact Or.inr rfl
          | exact Or.inl (Sub.has hm (by decide +kernel)) | apply State.setBank_within | apply within_ite
          | apply within_foldl | apply within_foldl_fst)
      | (simp only [within_mk]; with_reducible apply Within.upd) | split)

theorem abandonBank_within {M : List Part} {z : State} (s : State) (hs : Within M z s) (hm : Sub [.fabric, .status] M)
    : Within M z (abandonBank s) := by
  unfold abandonBank
  try dsimp only
  repeat' (first
      | (with_reducible first
          | assumption | exact Sub.of (by decide +kernel) hm | apply State.raise_within | apply State.setBank_within))

theorem execRejoin_within {M : List Part} {z : State} (s : State) (hs : Within M z s)
    (hm : Sub (sendPath ++ [Part.host, Part.force]) M) : AnsWithin M z (execRejoin s) := by
  unfold execRejoin
  try dsimp only
  repeat' (first
      | (with_reducible first
          | assumption | intro _ | exact Sub.of (by decide +kernel) hm | apply State.when_within
          | apply auditedWrite_within | apply rejoins_within | apply ansWithin_next))

theorem countCodes_within {M : List Part} {z : State} (s : State) (port : Nat) (n : Nat) (hs : Within M z s)
    (hm : Sub [.status] M) : Within M z (countCodes s port n) := by
  unfold countCodes
  try dsimp only
  repeat' (first | (with_reducible first | assumption | exact Sub.of (by decide +kernel) hm | apply State.setStat_within))

theorem linkError_within {M : List Part} {z : State} (s : State) (port : Nat) (hs : Within M z s) (hm : Sub [.status] M)
    : Within M z (linkError s port) := by
  unfold linkError
  try dsimp only
  repeat' (first
      | (with_reducible first
          | assumption | exact Sub.of (by decide +kernel) hm | apply State.raise_within | apply State.bump_within))

theorem receiveMcast_within {M : List Part} {z : State} (s : State) (port : Nat) (g : Bytes) (onward : Bool) (hs
    : Within M z s) (hm : Sub (hostPath ++ [Part.release]) M) : Within M z (receiveMcast s port g onward) := by
  unfold receiveMcast
  try dsimp only
  repeat' (first
      | (with_reducible first
          | assumption | exact Sub.of (by decide +kernel) hm | apply mcastCopy_within | apply toLocal_within
          | apply hostCopy_within | apply within_ite)
      | split)

theorem blocksArrive_within {M : List Part} {z : State} (port : Nat) (blocks : List LinkBlock) (s : State) (hs
    : Within M z s) (hm : Sub (hostPath ++ [Part.holly, Part.release]) M) : Within M z (blocksArrive port blocks s) := by
  unfold blocksArrive
  try dsimp only
  repeat' (first
      | (with_reducible first
          | assumption | intro _ | exact Sub.of (by decide +kernel) hm | apply noteModeConflict_within
          | apply State.when_within | apply countCodes_within | apply linkError_within | apply toLocal_within
          | apply receiveMcast_within | apply State.raise_within | apply countDrop_within | apply forward_within
          | apply lookupForward_within | apply within_ite)
      | split)

theorem execFrameReceived_within {M : List Part} {z : State} (port : Nat) (first : LinkBlock) (rest : List LinkBlock)
    (s : State) (hs : Within M z s) (hm : Sub (hostPath ++ [Part.holly, Part.release]) M)
    : AnsWithin M z (execFrameReceived port first rest s) := by
  unfold execFrameReceived
  try dsimp only
  repeat' (first
      | (with_reducible first
          | assumption | exact Sub.of (by decide +kernel) hm | apply blocksArrive_within | apply ansWithin_next))

theorem noteRestart_within {M : List Part} {z : State} (s : State) (p : Nat) (hs : Within M z s) (hm : Sub [.status] M)
    : Within M z (noteRestart s p) := by
  unfold noteRestart
  try dsimp only
  repeat' (first
      | (with_reducible first
          | assumption | exact Sub.of (by decide +kernel) hm | apply State.raise_within | apply State.raiseBit_within))

theorem sendJoinReq_within {M : List Part} {z : State} (s : State) (hs : Within M z s) (hm : Sub sendPath M)
    : Within M z (sendJoinReq s) := by
  unfold sendJoinReq
  try dsimp only
  repeat' (first
      | (with_reducible first
          | assumption | exact Sub.of (by decide +kernel) hm | apply sendFrame_within | apply within_ite)
      | split)

theorem execAddrFullRetry_within {M : List Part} {z : State} (s : State) (hs : Within M z s)
    (hm : Sub [.fabric, .status, .output, .nonces] M) (hr : rolesThere s (.addrFullRetry) = true)
    : AnsWithin M z (execAddrFullRetry s) := by
  unfold execAddrFullRetry
  rw [inputTo_there hr]
  try dsimp only
  repeat' (first
      | (with_reducible first
          | assumption | intro _ | exact Sub.of (by decide +kernel) hm | apply State.when_within
          | apply sendJoinReq_within | apply ansWithin_next))

theorem noteAsleep_within {M : List Part} {z : State} (s : State) (neighbour : Nat) (asleep : Bool) (hs : Within M z s)
    (hm : Sub [.fabric] M) : Within M z (noteAsleep s neighbour asleep) := by
  unfold noteAsleep
  try dsimp only
  repeat' (first
      | (with_reducible first
          | assumption | exact rfl | exact Or.inr rfl | exact Or.inl (Sub.has hm (by decide +kernel)) | apply within_ite)
      | (simp only [within_mk]; with_reducible apply Within.upd) | split)

theorem uplinkUp_within {M : List Part} {z : State} (s : State) (p : Nat) (hs : Within M z s)
    (hm : Sub [.fabric, .status] M) : Within M z (uplinkUp s p).2 := by
  unfold uplinkUp
  try dsimp only
  repeat' (first
      | (with_reducible first
          | assumption | exact rfl | exact Sub.of (by decide +kernel) hm | exact Or.inr rfl
          | exact Or.inl (Sub.has hm (by decide +kernel)) | apply State.raise_within | apply within_ite)
      | (simp only [within_mk]; with_reducible apply Within.upd) | split)

theorem headPortEvent_within {M : List Part} {z : State} (s : State) (p : Nat) (port : Nat) (ev : Nat) (neighbour : Nat) (hs
    : Within M z s) (hm : Sub sendPath M) : Within M z (headPortEvent s p port ev neighbour) := by
  unfold headPortEvent
  try dsimp only
  repeat' (first
      | (with_reducible first
          | assumption | exact rfl | exact Sub.of (by decide +kernel) hm | exact Or.inr rfl
          | exact Or.inl (Sub.has hm (by decide +kernel)) | apply startUpdate_within | apply noteAsleep_within
          | apply uplinkUp_within | apply within_ite)
      | (simp only [within_mk]; with_reducible apply Within.upd) | split)

theorem reportPortEvent_within {M : List Part} {z : State} (s : State) (port : Nat) (ev : Nat) (hs : Within M z s)
    (hm : Sub sendPath M) : Within M z (reportPortEvent s port ev) := by
  unfold reportPortEvent
  try dsimp only
  repeat' (first
      | (with_reducible first
          | assumption | exact Sub.of (by decide +kernel) hm | apply headPortEvent_within | apply sendToHead_within
          | apply within_ite)
      | split)

theorem moveQueue_within {M : List Part} {z : State} (s : State) (o : Nat) (c : Nat) (hs : Within M z s)
    (hm : Sub [.fabric, .status] M) : Within M z (moveQueue s o c) := by
  unfold moveQueue
  try dsimp only
  repeat' (first
      | (with_reducible first
          | assumption | intro _ | exact Sub.of (by decide +kernel) hm | apply State.setQueue_within
          | apply freeCells_within | apply kick_within | apply countDrop_within | apply within_ite | apply within_foldl
          | apply within_foldl_fst)
      | split)

theorem portDownFrames_within {M : List Part} {z : State} (s : State) (p : Nat) (hs : Within M z s)
    (hm : Sub [.fabric, .status] M) : Within M z (portDownFrames s p) := by
  unfold portDownFrames
  try dsimp only
  repeat' (first
      | (with_reducible first
          | assumption | exact Sub.of (by decide +kernel) hm | apply stopTx_within | apply moveQueue_within
          | apply within_ite)
      | split)

theorem uplinkLost_within {M : List Part} {z : State} (s : State) (port : Nat) (hs : Within M z s) (hm : Sub [.fabric] M)
    : Within M z (uplinkLost s port) := by
  unfold uplinkLost
  try dsimp only
  repeat' (first
      | (with_reducible first
          | assumption | exact rfl | exact Or.inr rfl | exact Or.inl (Sub.has hm (by decide +kernel)) | apply within_ite)
      | (simp only [within_mk]; with_reducible apply Within.upd) | split)

theorem releaseHeld_within {M : List Part} {z : State} (s : State) (p : Nat) (hs : Within M z s)
    (hm : Sub [.fabric, .status] M) : Within M z (releaseHeld s p) := by
  unfold releaseHeld
  try dsimp only
  repeat' (first
      | (with_reducible first
          | assumption | exact Sub.of (by decide +kernel) hm | apply moveQueue_within | apply dropQueue_within
          | apply within_ite)
      | split)

theorem portsDisabled_within {M : List Part} {z : State} (s : State) (t : State) (hs : Within M z s) (ht : Within M z t)
    (hm : Sub sendPath M) : Within M z (portsDisabled s t) := by
  unfold portsDisabled
  try dsimp only
  repeat' (first
      | (with_reducible first
          | assumption | intro _ | exact Sub.of (by decide +kernel) hm | apply reportPortEvent_within
          | apply portDownFrames_within | apply uplinkLost_within | apply releaseHeld_within | apply retireCheck_within
          | apply State.setPort_within | apply portTrains_within | apply within_ite | apply within_foldl
          | apply within_foldl_fst)
      | split)

theorem resetLink_within {M : List Part} {z : State} (s : State) (p : Nat) (hs : Within M z s) (hm : Sub [.host] M)
    : Within M z (resetLink s p) := by
  unfold resetLink
  try dsimp only
  repeat' (first | (with_reducible first | assumption | exact Sub.of (by decide +kernel) hm | apply State.setLink_within))

theorem ctrlTake_within {M : List Part} {z : State} (typ : Nat) (minLen : Nat) (frame : Bytes) (f : Bytes → State → State)
    (s : State) (hf : ∀ (v0 : Bytes) (v1 : State), Within M z v1 → Within M z (f v0 v1)) (hs : Within M z s)
    (hm : Sub [.fabric] M) : Within M z (ctrlTake typ minLen frame f s) := by
  unfold ctrlTake
  try dsimp only
  repeat' (first
      | (with_reducible first
          | assumption | exact Sub.of (by decide +kernel) hm | apply seqAccept_within | apply hf | apply within_ite)
      | split)

theorem execPrepare_within {M : List Part} {z : State} (port : Nat) (frame : Bytes) (s : State) (hs : Within M z s)
    (hm : Sub [.fabric, .status, .output, .nonces, .holly] M) (hr : rolesThere s (.prepare port frame) = true)
    : AnsWithin M z (execPrepare port frame s) := by
  unfold execPrepare
  rw [inputTo_there hr]
  try dsimp only
  repeat' (first
      | (with_reducible first
          | assumption | exact rfl | intro _ | exact Sub.of (by decide +kernel) hm | exact Or.inr rfl
          | exact Or.inl (Sub.has hm (by decide +kernel)) | apply noteModeConflict_within | apply State.when_within
          | apply ctrlTake_within | apply sendToHead_within | apply prepareBank_within | apply ansWithin_next
          | apply within_ite)
      | (simp only [within_mk]; with_reducible apply Within.upd) | split)

theorem dropPosition_within {M : List Part} {z : State} (s : State) (p : Nat) (hs : Within M z s)
    (hm : Sub [.host, .output] M) : Within M z (dropPosition s p) := by
  unfold dropPosition
  try dsimp only
  repeat' (first
      | (with_reducible first
          | assumption | exact rfl | intro _ | exact Sub.of (by decide +kernel) hm | exact Or.inr rfl
          | exact Or.inl (Sub.has hm (by decide +kernel)) | apply State.emit_within | apply resetLink_within
          | apply within_foldl | apply within_foldl_fst)
      | (simp only [within_mk]; with_reducible apply Within.upd))

theorem forgetSeq_within {M : List Part} {z : State} (s : State) (address : Nat) (id : Nat) (hs : Within M z s)
    (hm : Sub [.fabric] M) : Within M z (forgetSeq s address id) := by
  unfold forgetSeq
  try dsimp only
  repeat' (first
      | (with_reducible first
          | assumption | exact rfl | exact Or.inr rfl | exact Or.inl (Sub.has hm (by decide +kernel)))
      | (simp only [within_mk]; with_reducible apply Within.upd))

theorem execJoinReq_within {M : List Part} {z : State} (port : Nat) (frame : Bytes) (s : State) (hs : Within M z s)
    (hm : Sub [.host, .fabric, .status, .output, .nonces, .holly] M) (hr : rolesThere s (.joinReq port frame) = true)
    : AnsWithin M z (execJoinReq port frame s) := by
  unfold execJoinReq
  rw [inputTo_there hr]
  try dsimp only
  repeat' (first
      | (with_reducible first
          | assumption | exact rfl | intro _ | exact Sub.of (by decide +kernel) hm | exact Or.inr rfl
          | exact Or.inl (Sub.has hm (by decide +kernel)) | apply noteModeConflict_within | apply State.when_within
          | apply ctrlTake_within | apply sendGroup15_within | apply State.raise_within | apply dropPosition_within
          | apply noteRestart_within | apply forgetSeq_within | apply startUpdate_within | apply ansWithin_next
          | apply within_ite)
      | (simp only [within_mk]; with_reducible apply Within.upd) | split)

theorem execLeave_within {M : List Part} {z : State} (port : Nat) (frame : Bytes) (s : State) (hs : Within M z s)
    (hm : Sub [.fabric, .status, .output, .nonces] M) (hr : rolesThere s (.leave port frame) = true)
    : AnsWithin M z (execLeave port frame s) := by
  unfold execLeave
  rw [inputTo_there hr]
  try dsimp only
  repeat' (first
      | (with_reducible first
          | assumption | exact rfl | intro _ | exact Sub.of (by decide +kernel) hm | exact Or.inr rfl
          | exact Or.inl (Sub.has hm (by decide +kernel)) | apply State.when_within | apply ctrlTake_within
          | apply removePosition_within | apply ansWithin_next)
      | (simp only [within_mk]; with_reducible apply Within.upd) | split)

theorem execCancel_within {M : List Part} {z : State} (port : Nat) (frame : Bytes) (s : State) (hs : Within M z s)
    (hm : Sub [.fabric, .status] M) (hr : rolesThere s (.cancel port frame) = true)
    : AnsWithin M z (execCancel port frame s) := by
  unfold execCancel
  rw [inputTo_there hr]
  try dsimp only
  repeat' (first
      | (with_reducible first
          | assumption | intro _ | exact Sub.of (by decide +kernel) hm | apply State.when_within | apply ctrlTake_within
          | apply abandonBank_within | apply ansWithin_next | apply within_ite)
      | split)

theorem clearLate_within {M : List Part} {z : State} (s : State) (p : Nat) (hs : Within M z s) (hm : Sub [.fabric] M)
    : Within M z (clearLate s p) := by
  unfold clearLate
  try dsimp only
  repeat' (first
      | (with_reducible first
          | assumption | intro _ | exact Sub.of (by decide +kernel) hm | apply State.setQueue_within
          | apply within_foldl | apply within_foldl_fst))

theorem portUp_within {M : List Part} {z : State} (s : State) (port : Nat) (hs : Within M z s) (hm : Sub sendPath M)
    : Within M z (portUp s port) := by
  unfold portUp
  try dsimp only
  repeat' (first
      | (with_reducible first
          | assumption | exact Sub.of (by decide +kernel) hm | apply State.setPort_within | apply clearLate_within
          | apply uplinkUp_within | apply reportPortEvent_within | apply kick_within | apply within_ite)
      | split)

theorem execUpdateRepeat_within {M : List Part} {z : State} (s : State) (hs : Within M z s)
    (hm : Sub [.fabric, .status, .output, .nonces] M) (hr : rolesThere s (.updateRepeat) = true)
    : AnsWithin M z (execUpdateRepeat s) := by
  unfold execUpdateRepeat
  rw [inputTo_there hr]
  try dsimp only
  repeat' (first
      | (with_reducible first
          | assumption | exact rfl | intro _ | exact Sub.of (by decide +kernel) hm | exact Or.inr rfl
          | exact Or.inl (Sub.has hm (by decide +kernel)) | apply State.when_within | apply startUpdate_within
          | apply ansWithin_next)
      | (simp only [within_mk]; with_reducible apply Within.upd))

theorem noteProxyBulk_within {M : List Part} {z : State} (s : State) (f : Bytes) (hs : Within M z s) (hm : Sub [.fabric] M)
    : Within M z (noteProxyBulk s f) := by
  unfold noteProxyBulk
  try dsimp only
  repeat' (first
      | (with_reducible first
          | assumption | exact Sub.of (by decide +kernel) hm | apply seqAccept_within | apply within_ite)
      | split)

theorem frameLeaves_within {M : List Part} {z : State} (s : State) (out : Nat) (cls : Nat) (hs : Within M z s)
    (hm : Sub sendPath M) : Within M z (frameLeaves s out cls) := by
  unfold frameLeaves
  try dsimp only
  repeat' (first
      | (with_reducible first
          | assumption | intro _ | exact Sub.of (by decide +kernel) hm | apply sendBlock_within | apply freeCells_within
          | apply State.setQueue_within | apply startBlock_within | apply noteProxyBulk_within
          | apply retireCheck_within | apply sendIdle_within | apply within_ite | apply within_foldl
          | apply within_foldl_fst)
      | split)

theorem execReady_within {M : List Part} {z : State} (port : Nat) (frame : Bytes) (s : State) (hs : Within M z s)
    (hm : Sub [.fabric, .status, .output, .nonces] M) (hr : rolesThere s (.ready port frame) = true)
    : AnsWithin M z (execReady port frame s) := by
  unfold execReady
  rw [inputTo_there hr]
  try dsimp only
  repeat' (first
      | (with_reducible first
          | assumption | exact rfl | intro _ | exact Sub.of (by decide +kernel) hm | exact Or.inr rfl
          | exact Or.inl (Sub.has hm (by decide +kernel)) | apply State.when_within | apply ctrlTake_within
          | apply startFlip_within | apply ansWithin_next | apply within_ite)
      | (simp only [within_mk]; with_reducible apply Within.upd) | split)

theorem portAsleep_within {M : List Part} {z : State} (s : State) (port : Nat) (hs : Within M z s) (hm : Sub sendPath M)
    : Within M z (portAsleep s port) := by
  unfold portAsleep
  try dsimp only
  repeat' (first
      | (with_reducible first
          | assumption | exact Sub.of (by decide +kernel) hm | apply State.setPort_within | apply retireCheck_within
          | apply reportPortEvent_within | apply portDownFrames_within | apply State.emit_within | apply within_ite)
      | split)

theorem execHoldTimeExpiry_within {M : List Part} {z : State} (port : Nat) (s : State) (hs : Within M z s)
    (hm : Sub sendPath M) : AnsWithin M z (execHoldTimeExpiry port s) := by
  unfold execHoldTimeExpiry
  try dsimp only
  repeat' (first
      | (with_reducible first
          | assumption | intro _ | exact Sub.of (by decide +kernel) hm | apply State.when_within
          | apply releaseHeld_within | apply State.setPort_within | apply retireCheck_within
          | apply reportPortEvent_within | apply ansWithin_next))

theorem spreadTime_within {M : List Part} {z : State} (s : State) (f : Bytes) (hs : Within M z s)
    (hm : Sub [.fabric, .status] M) : Within M z (spreadTime s f) := by
  unfold spreadTime
  try dsimp only
  repeat' (first | (with_reducible first | assumption | exact Sub.of (by decide +kernel) hm | apply linkCopy_within))

theorem execTimeSyncSend_within {M : List Part} {z : State} (s : State) (hs : Within M z s)
    (hm : Sub [.fabric, .status, .nonces] M) (hr : rolesThere s (.timeSyncSend) = true)
    : AnsWithin M z (execTimeSyncSend s) := by
  unfold execTimeSyncSend
  rw [inputTo_there hr]
  try dsimp only
  repeat' (first
      | (with_reducible first
          | assumption | intro _ | exact Sub.of (by decide +kernel) hm | apply State.when_within
          | apply buildFrame_within | apply spreadTime_within | apply State.setStat_within | apply ansWithin_next
          | apply within_ite)
      | split)

theorem execReadyTimeout_within {M : List Part} {z : State} (s : State) (hs : Within M z s)
    (hm : Sub [.fabric, .status, .output, .nonces] M) (hr : rolesThere s (.readyTimeout) = true)
    : AnsWithin M z (execReadyTimeout s) := by
  unfold execReadyTimeout
  rw [inputTo_there hr]
  try dsimp only
  repeat' (first
      | (with_reducible first
          | assumption | exact rfl | intro _ | exact Sub.of (by decide +kernel) hm | exact Or.inr rfl
          | exact Or.inl (Sub.has hm (by decide +kernel)) | apply State.when_within | apply abandonBank_within
          | apply sendGroup15_within | apply ansWithin_next)
      | (simp only [within_mk]; with_reducible apply Within.upd) | split)

theorem execUpdateHoldoffEnd_within {M : List Part} {z : State} (s : State) (hs : Within M z s)
    (hm : Sub [.fabric, .status, .output, .nonces] M) (hr : rolesThere s (.updateHoldoffEnd) = true)
    : AnsWithin M z (execUpdateHoldoffEnd s) := by
  unfold execUpdateHoldoffEnd
  rw [inputTo_there hr]
  try dsimp only
  repeat' (first
      | (with_reducible first
          | assumption | exact rfl | intro _ | exact Sub.of (by decide +kernel) hm | exact Or.inr rfl
          | exact Or.inl (Sub.has hm (by decide +kernel)) | apply State.when_within | apply startUpdate_within
          | apply ansWithin_next | apply within_ite)
      | (simp only [within_mk]; with_reducible apply Within.upd) | split)

theorem yieldHead_within {M : List Part} {z : State} (s : State) (time : Nat) (id : Nat) (hs : Within M z s)
    (hm : Sub [.fabric, .status] M) : Within M z (yieldHead s time id) := by
  unfold yieldHead
  try dsimp only
  repeat' (first
      | (with_reducible first
          | assumption | exact Sub.of (by decide +kernel) hm | apply State.raise_within | apply asDownstream_within
          | apply within_ite)
      | split)

theorem execHello_within {M : List Part} {z : State} (port : Nat) (frame : Bytes) (s : State) (hs : Within M z s)
    (hm : Sub [.fabric, .status, .output, .nonces, .holly] M) (hr : rolesThere s (.hello port frame) = true)
    : AnsWithin M z (execHello port frame s) := by
  unfold execHello
  rw [inputTo_there hr]
  try dsimp only
  repeat' (first
      | (with_reducible first
          | assumption | intro _ | exact Sub.of (by decide +kernel) hm | apply noteModeConflict_within
          | apply State.when_within | apply linkError_within | apply State.setPort_within | apply yieldHead_within
          | apply portAsleep_within | apply portUp_within | apply ansWithin_next | apply within_ite)
      | split)

theorem execJoinReqRetry_within {M : List Part} {z : State} (s : State) (hs : Within M z s)
    (hm : Sub [.fabric, .status, .output, .nonces] M) (hr : rolesThere s (.joinReqRetry) = true)
    : AnsWithin M z (execJoinReqRetry s) := by
  unfold execJoinReqRetry
  rw [inputTo_there hr]
  try dsimp only
  repeat' (first
      | (with_reducible first
          | assumption | intro _ | exact Sub.of (by decide +kernel) hm | apply State.when_within
          | apply sendJoinReq_within | apply ansWithin_next))

theorem uplinkTold_within {M : List Part} {z : State} (s : State) (hs : Within M z s) (hm : Sub sendPath M)
    : Within M z (uplinkTold s) := by
  unfold uplinkTold
  try dsimp only
  repeat' (first
      | (with_reducible first
          | assumption | exact Sub.of (by decide +kernel) hm | apply reportPortEvent_within | apply uplinkUp_within
          | apply within_ite)
      | split)

theorem execHelloTimeout_within {M : List Part} {z : State} (port : Nat) (s : State) (hs : Within M z s)
    (hm : Sub [.fabric, .status, .output, .nonces] M) (hr : rolesThere s (.helloTimeout port) = true)
    : AnsWithin M z (execHelloTimeout port s) := by
  unfold execHelloTimeout
  rw [inputTo_there hr]
  try dsimp only
  repeat' (first
      | (with_reducible first
          | assumption | intro _ | exact Sub.of (by decide +kernel) hm | apply State.when_within | apply sendIdle_within
          | apply State.setPort_within | apply stopTx_within | apply retireCheck_within | apply releaseHeld_within
          | apply portDownFrames_within | apply ansWithin_next | apply within_ite)
      | split)

theorem execSpillReadback_within {M : List Part} {z : State} (out : Nat) (cls : Nat) (corrupt : Bool) (s : State) (hs
    : Within M z s) (hm : Sub sendPath M) : AnsWithin M z (execSpillReadback out cls corrupt s) := by
  unfold execSpillReadback
  try dsimp only
  repeat' (first
      | (with_reducible first
          | assumption | exact rfl | intro _ | exact Sub.of (by decide +kernel) hm | exact Or.inr rfl
          | exact Or.inl (Sub.has hm (by decide +kernel)) | apply State.when_within | apply State.setQueue_within
          | apply retireCheck_within | apply State.raise_within | apply kick_within | apply ansWithin_next
          | apply within_ite)
      | (simp only [within_mk]; with_reducible apply Within.upd) | split)

theorem execSegAdvert_within {M : List Part} {z : State} (port : Nat) (frame : Bytes) (s : State) (hs : Within M z s)
    (hm : Sub [.fabric, .status, .output, .nonces, .holly] M) (hr : rolesThere s (.segAdvert port frame) = true)
    : AnsWithin M z (execSegAdvert port frame s) := by
  unfold execSegAdvert
  rw [inputTo_there hr]
  try dsimp only
  repeat' (first
      | (with_reducible first
          | assumption | exact rfl | intro _ | exact Sub.of (by decide +kernel) hm | exact Or.inr rfl
          | exact Or.inl (Sub.has hm (by decide +kernel)) | apply noteModeConflict_within | apply State.when_within
          | apply ctrlTake_within | apply sendGroup15_within | apply State.raise_within | apply sendAdvert_within
          | apply startUpdate_within | apply ansWithin_next | apply within_ite)
      | (simp only [within_mk]; with_reducible apply Within.upd) | split)

theorem execTimeSyncLoss_within {M : List Part} {z : State} (s : State) (hs : Within M z s) (hm : Sub [.status] M)
    (hr : rolesThere s (.timeSyncLoss) = true) : AnsWithin M z (execTimeSyncLoss s) := by
  unfold execTimeSyncLoss
  rw [inputTo_there hr]
  try dsimp only
  repeat' (first
      | (with_reducible first
          | assumption | intro _ | exact Sub.of (by decide +kernel) hm | apply State.when_within
          | apply State.raise_within | apply State.setStat_within | apply ansWithin_next))

theorem execIdleSequenceRun_within {M : List Part} {z : State} (port : Nat) (s : State) (hs : Within M z s)
    (hm : Sub [.fabric] M) (hr : rolesThere s (.idleSequenceRun port) = true)
    : AnsWithin M z (execIdleSequenceRun port s) := by
  unfold execIdleSequenceRun
  rw [inputTo_there hr]
  try dsimp only
  repeat' (first
      | (with_reducible first
          | assumption | intro _ | exact Sub.of (by decide +kernel) hm | apply State.when_within
          | apply State.setPort_within | apply ansWithin_next))

theorem execJoinAnswer_within {M : List Part} {z : State} (port : Nat) (frame : Bytes) (s : State) (hs : Within M z s)
    (hm : Sub [.host, .fabric, .status, .output, .nonces, .held, .force, .holly] M)
    (hr : rolesThere s (.joinAnswer port frame) = true) : AnsWithin M z (execJoinAnswer port frame s) := by
  unfold execJoinAnswer
  rw [inputTo_there hr]
  try dsimp only
  repeat' (first
      | (with_reducible first
          | assumption | exact rfl | intro _ | exact Sub.of (by decide +kernel) hm | exact Or.inr rfl
          | exact Or.inl (Sub.has hm (by decide +kernel)) | apply noteModeConflict_within | apply ctrlTake_within
          | apply resetLink_within | apply State.setForce_within | apply State.setHeld_within | apply uplinkTold_within
          | apply State.raise_within | apply forgetSeq_within | apply ansWithin_next | apply within_ite)
      | (simp only [within_mk]; with_reducible apply Within.upd) | split)

theorem execFrameSent_within {M : List Part} {z : State} (out : Nat) (cls : Nat) (s : State) (hs : Within M z s)
    (hm : Sub sendPath M) : AnsWithin M z (execFrameSent out cls s) := by
  unfold execFrameSent
  try dsimp only
  repeat' (first
      | (with_reducible first
          | assumption | intro _ | exact Sub.of (by decide +kernel) hm | apply State.when_within
          | apply frameLeaves_within | apply sendBlock_within | apply ansWithin_next | apply within_ite)
      | split)

theorem execTimeSync_within {M : List Part} {z : State} (port : Nat) (residence : Nat) (frame : Bytes) (s : State) (hs
    : Within M z s) (hm : Sub [.fabric, .status, .holly] M) (hr : rolesThere s (.timeSync port residence frame) = true)
    : AnsWithin M z (execTimeSync port residence frame s) := by
  unfold execTimeSync
  rw [inputTo_there hr]
  try dsimp only
  repeat' (first
      | (with_reducible first
          | assumption | exact rfl | intro _ | exact Sub.of (by decide +kernel) hm | exact Or.inr rfl
          | exact Or.inl (Sub.has hm (by decide +kernel)) | apply noteModeConflict_within | apply State.when_within
          | apply ctrlTake_within | apply yieldHead_within | apply learnUplink_within | apply State.setStat_within
          | apply linkCopy_within | apply ansWithin_next | apply within_ite)
      | (simp only [within_mk]; with_reducible apply Within.upd) | split)

theorem execLinkLoss_within {M : List Part} {z : State} (port : Nat) (codes : Nat) (s : State) (hs : Within M z s)
    (hm : Sub (hostPath ++ [Part.power]) M) : AnsWithin M z (execLinkLoss port codes s) := by
  unfold execLinkLoss
  try dsimp only
  repeat' (first
      | (with_reducible first
          | assumption | intro _ | exact Sub.of (by decide +kernel) hm | apply State.when_within
          | apply countCodes_within | apply uplinkLost_within | apply State.setPort_within | apply retireCheck_within
          | apply reportPortEvent_within | apply portDownFrames_within | apply State.raiseBit_within
          | apply noteSingleFault_within | apply ansWithin_next | apply within_ite)
      | split)

theorem execRetireTimeout_within {M : List Part} {z : State} (s : State) (hs : Within M z s) (hm : Sub [.fabric] M)
    (hr : rolesThere s (.retireTimeout) = true) : AnsWithin M z (execRetireTimeout s) := by
  unfold execRetireTimeout
  rw [inputTo_there hr]
  try dsimp only
  repeat' (first
      | (with_reducible first
          | assumption | exact rfl | intro _ | exact Sub.of (by decide +kernel) hm | exact Or.inr rfl
          | exact Or.inl (Sub.has hm (by decide +kernel)) | apply State.when_within | apply State.setBank_within
          | apply ansWithin_next | apply within_ite)
      | (simp only [within_mk]; with_reducible apply Within.upd) | split)

theorem execAsleepHoldExpiry_within {M : List Part} {z : State} (port : Nat) (s : State) (hs : Within M z s)
    (hm : Sub sendPath M) : AnsWithin M z (execAsleepHoldExpiry port s) := by
  unfold execAsleepHoldExpiry
  try dsimp only
  repeat' (first
      | (with_reducible first
          | assumption | intro _ | exact Sub.of (by decide +kernel) hm | apply State.when_within
          | apply retireCheck_within | apply releaseHeld_within | apply ansWithin_next))

theorem execFlip_within {M : List Part} {z : State} (port : Nat) (frame : Bytes) (s : State) (hs : Within M z s)
    (hm : Sub [.fabric, .status, .output, .nonces, .holly] M) (hr : rolesThere s (.flip port frame) = true)
    : AnsWithin M z (execFlip port frame s) := by
  unfold execFlip
  rw [inputTo_there hr]
  try dsimp only
  repeat' (first
      | (with_reducible first
          | assumption | intro _ | exact Sub.of (by decide +kernel) hm | apply noteModeConflict_within
          | apply State.when_within | apply ctrlTake_within | apply retireCheck_within | apply flipBank_within
          | apply ansWithin_next | apply within_ite)
      | split)

theorem execPortEvent_within {M : List Part} {z : State} (port : Nat) (frame : Bytes) (s : State) (hs : Within M z s)
    (hm : Sub [.fabric, .status, .output, .nonces, .holly] M) (hr : rolesThere s (.portEvent port frame) = true)
    : AnsWithin M z (execPortEvent port frame s) := by
  unfold execPortEvent
  rw [inputTo_there hr]
  try dsimp only
  repeat' (first
      | (with_reducible first
          | assumption | intro _ | exact Sub.of (by decide +kernel) hm | apply noteModeConflict_within
          | apply State.when_within | apply ctrlTake_within | apply headPortEvent_within | apply ansWithin_next))

theorem execFabTimeLoRead_within {M : List Part} {z : State} (s : State) (hs : Within M z s)
    (hm : Sub [.fabric, .output, .metering, .uwb] M) : AnsWithin M z (execFabTimeLoRead s) := by
  unfold execFabTimeLoRead
  try dsimp only
  repeat' (first
      | (with_reducible first
          | assumption | exact Sub.of (by decide +kernel) hm | apply answerRead_within | apply ansWithin_next))

theorem execRetired_within {M : List Part} {z : State} (port : Nat) (frame : Bytes) (s : State) (hs : Within M z s)
    (hm : Sub [.fabric] M) (hr : rolesThere s (.retired port frame) = true) : AnsWithin M z (execRetired port frame s) := by
  unfold execRetired
  rw [inputTo_there hr]
  try dsimp only
  repeat' (first
      | (with_reducible first
          | assumption | intro _ | exact Sub.of (by decide +kernel) hm | apply State.when_within | apply ctrlTake_within
          | apply headRetired_within | apply ansWithin_next | apply within_ite)
      | split)

theorem execWakePatternStart_within {M : List Part} {z : State} (vlf : Nat) (s : State) (hs : Within M z s)
    (hm : Sub (hostPath ++ [.held, .force, .boundary, .power, .field, .cycle, .subGhz, .uwb, .radio]) M)
    (hr : rolesThere s (.wakePatternStart vlf) = true) : AnsWithin M z (execWakePatternStart vlf s) := by
  unfold execWakePatternStart
  rw [inputTo_there hr]
  try dsimp only
  repeat' (first
      | (with_reducible first
          | assumption | intro _ | exact Sub.of (by decide +kernel) hm | apply State.when_within
          | apply tryPattern_within | apply setVlf_within | apply ansWithin_next))

theorem execBridgeOvercurrent_within {M : List Part} {z : State} (chan : Nat) (toVlf : Bool) (s : State) (hs : Within M z s)
    (hm : Sub (hostPath ++ [.power, .field, .cycle, .subGhz, .uwb]) M)
    (hr : rolesThere s (.bridgeOvercurrent chan toVlf) = true) : AnsWithin M z (execBridgeOvercurrent chan toVlf s) := by
  unfold execBridgeOvercurrent
  rw [inputTo_there hr]
  apply ansWithin_next
  refine State.when_within _ _ _ (fun s hs => ?_) hs (Sub.of (by decide +kernel) hm)
  split
  · next p _ =>
    extract_lets a b t
    have ht : Within M z t := chanFails_within _ _ _ hs (Sub.of (by decide +kernel) hm)
    clear_value a b t
    repeat' (first
        | (with_reducible first
            | assumption | exact rfl | intro _ | exact Sub.of (by decide +kernel) hm | exact Or.inr rfl
            | exact Or.inl (Sub.has hm (by decide +kernel)) | apply abortPattern_within | apply within_ite
            | apply within_foldl)
        | (simp only [within_mk]; with_reducible apply Within.upd) | split)
  · exact hs

theorem execLfStartWaitEnd_within {M : List Part} {z : State} (s : State) (hs : Within M z s) (hm : Sub [.power, .field] M)
    (hr : rolesThere s (.lfStartWaitEnd) = true) : AnsWithin M z (execLfStartWaitEnd s) := by
  unfold execLfStartWaitEnd
  rw [inputTo_there hr]
  try dsimp only
  repeat' (first
      | (with_reducible first
          | assumption | exact rfl | intro _ | exact Sub.of (by decide +kernel) hm | exact Or.inr rfl
          | exact Or.inl (Sub.has hm (by decide +kernel)) | apply State.when_within | apply requestDiags_within
          | apply ansWithin_next)
      | (simp only [within_mk]; with_reducible apply Within.upd))

theorem execWakePatternEnd_within {M : List Part} {z : State} (estA : Nat) (estB : Nat) (loopA : Nat) (loopB : Nat)
    (s : State) (hs : Within M z s) (hm : Sub (hostPath ++ [.field, .cycle, .subGhz]) M)
    (hr : rolesThere s (.wakePatternEnd estA estB loopA loopB) = true)
    : AnsWithin M z (execWakePatternEnd estA estB loopA loopB s) := by
  unfold execWakePatternEnd
  rw [inputTo_there hr]
  apply ansWithin_next
  refine State.when_within _ _ _ (fun s hs => ?_) hs (Sub.of (by decide +kernel) hm)
  split
  · next p _ =>
    extract_lets t
    have ht : Within M z t := by
      refine lfChange_within _ _ hs (fun s hs => ?_) (Sub.of (by decide +kernel) hm)
      repeat' (first
          | (with_reducible first
              | assumption | exact rfl | intro _ | exact Sub.of (by decide +kernel) hm | exact Or.inr rfl
              | exact Or.inl (Sub.has hm (by decide +kernel)) | apply measured_within | apply within_ite
              | apply within_foldl)
          | (simp only [within_mk]; with_reducible apply Within.upd) | split)
    clear_value t
    repeat' (first
        | (with_reducible first
            | assumption | exact rfl | intro _ | exact Sub.of (by decide +kernel) hm | exact Or.inr rfl
            | exact Or.inl (Sub.has hm (by decide +kernel)) | apply sgrReceive_within | apply within_ite
            | apply within_foldl)
        | (simp only [within_mk]; with_reducible apply Within.upd) | split)
  · exact hs

theorem execDutyTick_within {M : List Part} {z : State} (s : State) (hs : Within M z s)
    (hm : Sub (hostPath ++ [.held, .force, .boundary, .power, .field, .cycle, .subGhz, .uwb, .radio]) M)
    (hr : rolesThere s (.dutyTick) = true) : AnsWithin M z (execDutyTick s) := by
  unfold execDutyTick
  rw [inputTo_there hr]
  try dsimp only
  repeat' (first
      | (with_reducible first
          | assumption | exact Sub.of (by decide +kernel) hm | apply tryPattern_within | apply tryBurst_within
          | apply ansWithin_next | apply within_ite)
      | split)

theorem execPollCycleBoundary_within {M : List Part} {z : State} (s : State) (hs : Within M z s)
    (hm : Sub (hostPath ++ [Part.held, Part.force, Part.boundary, Part.power, Part.field, Part.subGhz, Part.radio]) M)
    : AnsWithin M z (execPollCycleBoundary s) := by
  unfold execPollCycleBoundary
  try dsimp only
  repeat' (first
      | (with_reducible first
          | assumption | intro _ | exact Sub.of (by decide +kernel) hm | apply State.when_within
          | apply sgrNextJob_within | apply pollBoundary_within | apply ansWithin_next))

theorem chanPasses_within {M : List Part} {z : State} (s : State) (c : Nat) (resonance : Nat) (hs : Within M z s)
    (hm : Sub (hostPath ++ [Part.power, Part.field]) M) : Within M z (chanPasses s c resonance) := by
  unfold chanPasses
  try dsimp only
  repeat' (first
      | (with_reducible first
          | assumption | intro _ | exact Sub.of (by decide +kernel) hm | apply selftestChan_within
          | apply lfChange_within | apply State.setChan_within))

theorem rearmChan_within {M : List Part} {z : State} (chan : Nat) (s : State) (hs : Within M z s)
    (hm : Sub (hostPath ++ [Part.power, Part.field]) M) : Within M z (rearmChan chan s) := by
  unfold rearmChan
  try dsimp only
  repeat' (first
      | (with_reducible first
          | assumption | intro _ | exact Sub.of (by decide +kernel) hm | apply State.when_within | apply lfChange_within
          | apply State.setChan_within | apply requestDiag_within | apply within_ite)
      | split)

theorem execLfRearm_within {M : List Part} {z : State} (chan : Nat) (s : State) (hs : Within M z s)
    (hm : Sub (hostPath ++ [Part.power, Part.field]) M) : AnsWithin M z (execLfRearm chan s) := by
  unfold execLfRearm
  try dsimp only
  repeat' (first
      | (with_reducible first
          | assumption | intro _ | exact Sub.of (by decide +kernel) hm | apply State.when_within
          | apply auditedWrite_within | apply rearmChan_within | apply ansWithin_next))

theorem execLfDiagBurstEnd_within {M : List Part} {z : State} (chan : Nat) (trip : Bool) (current : Nat) (resonance : Nat)
    (s : State) (hs : Within M z s) (hm : Sub (hostPath ++ [.power, .field]) M)
    (hr : rolesThere s (.lfDiagBurstEnd chan trip current resonance) = true)
    : AnsWithin M z (execLfDiagBurstEnd chan trip current resonance s) := by
  unfold execLfDiagBurstEnd
  rw [inputTo_there hr]
  try dsimp only
  repeat' (first
      | (with_reducible first
          | assumption | exact rfl | intro _ | exact Sub.of (by decide +kernel) hm | exact Or.inr rfl
          | exact Or.inl (Sub.has hm (by decide +kernel)) | apply State.when_within | apply selftestChan_within
          | apply chanFails_within | apply chanPasses_within | apply ansWithin_next | apply within_ite)
      | (simp only [within_mk]; with_reducible apply Within.upd) | split)

theorem execVlfCollapse_within {M : List Part} {z : State} (vlf : Nat) (s : State) (hs : Within M z s)
    (hm : Sub [.status, .power, .field, .cycle, .subGhz, .uwb] M) (hr : rolesThere s (.vlfCollapse vlf) = true)
    : AnsWithin M z (execVlfCollapse vlf s) := by
  unfold execVlfCollapse
  rw [inputTo_there hr]
  try dsimp only
  repeat' (first
      | (with_reducible first
          | assumption | intro _ | exact Sub.of (by decide +kernel) hm | apply State.when_within
          | apply abortPattern_within | apply setVlf_within | apply ansWithin_next))

theorem execDiagNow_within {M : List Part} {z : State} (s : State) (hs : Within M z s) (hm : Sub [.host, .status, .power] M)
    : AnsWithin M z (execDiagNow s) := by
  unfold execDiagNow
  try dsimp only
  repeat' (first
      | (with_reducible first
          | assumption | intro _ | exact Sub.of (by decide +kernel) hm | apply State.when_within
          | apply auditedWrite_within | apply requestDiags_within | apply ansWithin_next))

theorem execLfDiagPeriod_within {M : List Part} {z : State} (s : State) (hs : Within M z s) (hm : Sub [.power] M)
    (hr : rolesThere s (.lfDiagPeriod) = true) : AnsWithin M z (execLfDiagPeriod s) := by
  unfold execLfDiagPeriod
  rw [inputTo_there hr]
  try dsimp only
  repeat' (first
      | (with_reducible first
          | assumption | intro _ | exact Sub.of (by decide +kernel) hm | apply State.when_within
          | apply requestDiags_within | apply ansWithin_next))

theorem resetDevice_within {M : List Part} {z : State} (cause : Nat) (s : State) (hs : Within M z s)
    (hm : Sub (hostPath ++ [Part.mode, Part.held, Part.force, Part.nvwp, Part.tap, Part.boundary, Part.store, Part.power, Part.keys, Part.holly, Part.release, Part.metering, Part.field, Part.cycle, Part.subGhz, Part.uwb, Part.radio, Part.transponder, Part.update]) M)
    : Within M z (resetDevice cause s) := by
  unfold resetDevice
  refine State.setStat_within _ _ _ ⟨?_, ?_⟩ (Sub.of (by decide +kernel) hm)
  · have k := hs.keeps
    exact ⟨k.pending, k.now, k.device, k.floor, k.appKey, k.uniqueKey, fun _ _ => ringLegal_reset, fun f => k.form f⟩
  · constructor
    all_goals intro h; exact absurd (Sub.has hm (by decide +kernel)) h

theorem restartWritten_within {M : List Part} {z : State} (s : State) (hs : Within M z s)
    (hm : Sub (hostPath ++ [Part.mode, Part.held, Part.force, Part.nvwp, Part.tap, Part.boundary, Part.store, Part.power, Part.keys, Part.holly, Part.release, Part.metering, Part.field, Part.cycle, Part.subGhz, Part.uwb, Part.radio, Part.transponder, Part.update]) M)
    : Within M z (restartWritten s) := by
  unfold restartWritten
  try dsimp only
  repeat' (first
      | (with_reducible first
          | assumption | exact Sub.of (by decide +kernel) hm | apply resetDevice_within | apply within_ite)
      | split)

theorem rtcLost_within {M : List Part} {z : State} (s : State) (hs : Within M z s) (hm : Sub [.status, .power] M)
    : Within M z (rtcLost s) := by
  unfold rtcLost
  try dsimp only
  repeat' (first
      | (with_reducible first
          | assumption | exact rfl | exact Sub.of (by decide +kernel) hm | exact Or.inr rfl
          | exact Or.inl (Sub.has hm (by decide +kernel)) | apply State.setStat_within)
      | (simp only [within_mk]; with_reducible apply Within.upd))

theorem powerOn_within {M : List Part} {z : State} (vddIo : Nat) (vbkHeld : Bool) (levels : List Nat) (s : State) (hs
    : Within M z s)
    (hm : Sub (hostPath ++ [Part.mode, Part.held, Part.force, Part.nvwp, Part.tap, Part.boundary, Part.store, Part.power, Part.keys, Part.holly, Part.release, Part.metering, Part.field, Part.cycle, Part.subGhz, Part.uwb, Part.radio, Part.transponder, Part.update]) M)
    : Within M z (powerOn vddIo vbkHeld levels s) := by
  unfold powerOn
  try dsimp only
  repeat' (first
      | (with_reducible first
          | assumption | exact rfl | exact Sub.of (by decide +kernel) hm | exact Or.inr rfl
          | exact Or.inl (Sub.has hm (by decide +kernel)) | apply resetDevice_within | apply State.setStat_within
          | apply rtcLost_within | apply within_ite)
      | (simp only [within_mk]; with_reducible apply Within.upd) | split)

theorem setCoilCtx_within {M : List Part} {z : State} (s : State) (c : CoilCtx) (hs : Within M z s)
    (hm : Sub [.transponder] M) : Within M z (setCoilCtx s c) := by
  unfold setCoilCtx
  try dsimp only
  repeat' (first
      | (with_reducible first
          | assumption | exact rfl | exact Or.inr rfl | exact Or.inl (Sub.has hm (by decide +kernel)))
      | (simp only [within_mk]; with_reducible apply Within.upd))

theorem sendAuth_within {M : List Part} {z : State} (s : State) (c : CoilCtx) (hs : Within M z s)
    (hm : Sub (hostPath ++ [Part.keys, Part.release, Part.transponder]) M) : Within M z (sendAuth s c) := by
  unfold sendAuth
  try dsimp only
  repeat' (first
      | (with_reducible first
          | assumption | exact rfl | exact Sub.of (by decide +kernel) hm | exact Or.inr rfl
          | exact Or.inl (Sub.has hm (by decide +kernel)) | apply endTag_within | apply setCoilCtx_within
          | apply State.draw_within | apply useSlot_within | apply sendCoilBytes_within | apply within_ite)
      | (simp only [within_mk]; with_reducible apply Within.upd) | split)

theorem execNonceReply_within {M : List Part} {z : State} (start : Nat) (current : Nat) (frame : Bytes) (s : State) (hs
    : Within M z s) (hm : Sub (hostPath ++ [.keys, .release, .transponder]) M)
    (hr : rolesThere s (.nonceReply start current frame) = true)
    : AnsWithin M z (execNonceReply start current frame s) := by
  unfold execNonceReply
  rw [inputTo_there hr]
  try dsimp only
  repeat' (first
      | (with_reducible first
          | assumption | exact Sub.of (by decide +kernel) hm | apply endTag_within | apply setCoilCtx_within
          | apply sendAuth_within | apply ansWithin_next | apply within_ite)
      | split)

theorem coilHeld_within {M : List Part} {z : State} (s : State) (hs : Within M z s) (hm : Sub [.status, .transponder] M)
    : Within M z (coilHeld s) := by
  unfold coilHeld
  try dsimp only
  repeat' (first
      | (with_reducible first
          | assumption | exact rfl | exact Sub.of (by decide +kernel) hm | exact Or.inr rfl
          | exact Or.inl (Sub.has hm (by decide +kernel)) | apply State.raise_within)
      | (simp only [within_mk]; with_reducible apply Within.upd))

theorem fieldTurnsOn_within {M : List Part} {z : State} (s : State) (j : CoilJob) (hs : Within M z s)
    (hm : Sub [.rings, .status, .force, .transponder] M) : Within M z (fieldTurnsOn s j) := by
  unfold fieldTurnsOn
  try dsimp only
  repeat' (first
      | (with_reducible first
          | assumption | exact rfl | exact Sub.of (by decide +kernel) hm | exact Or.inr rfl
          | exact Or.inl (Sub.has hm (by decide +kernel)) | apply applyTiming_within | apply State.setStat_within
          | apply markTaken_within | apply within_ite)
      | (simp only [within_mk]; with_reducible apply Within.upd) | split)

theorem coilFuel_within {M : List Part} {z : State} (a0_ : Nat) (a1_ : State) (ha1_ : Within M z a1_)
    (hm : Sub (ringPath ++ [Part.force, Part.transponder]) M) : Within M z (coilFuel a0_ a1_) := by
  induction a0_ generalizing a1_ with
  | zero =>
    unfold coilFuel
    try dsimp only
    repeat' (first
        | (with_reducible first
            | assumption | exact rfl | exact Sub.of (by decide +kernel) hm | exact Or.inr rfl
            | exact Or.inl (Sub.has hm (by decide +kernel)) | apply coilHeld_within | apply fieldTurnsOn_within
            | apply complete_within | apply State.raise_within | apply within_ite)
        | (simp only [within_mk]; with_reducible apply Within.upd) | split)
  | succ k ih =>
    unfold coilFuel
    try dsimp only
    repeat' (first
        | (with_reducible first
            | apply ih | assumption | exact rfl | exact Sub.of (by decide +kernel) hm | exact Or.inr rfl
            | exact Or.inl (Sub.has hm (by decide +kernel)) | apply coilHeld_within | apply fieldTurnsOn_within
            | apply complete_within | apply State.raise_within | apply within_ite)
        | (simp only [within_mk]; with_reducible apply Within.upd) | split)

theorem coilNext_within {M : List Part} {z : State} (s : State) (hs : Within M z s)
    (hm : Sub (ringPath ++ [Part.force, Part.transponder]) M) : Within M z (coilNext s) := by
  unfold coilNext
  try dsimp only
  repeat' (first
      | (with_reducible first
          | assumption | exact rfl | exact Sub.of (by decide +kernel) hm | exact Or.inr rfl
          | exact Or.inl (Sub.has hm (by decide +kernel)) | apply coilFuel_within | apply within_ite)
      | (simp only [within_mk]; with_reducible apply Within.upd) | split)

theorem coilCommand_within {M : List Part} {z : State} (tag : Nat) (j : CoilJob) (s : State) (hs : Within M z s)
    (hm : Sub (ringPath ++ [Part.force, Part.transponder]) M) : Within M z (coilCommand tag j s) := by
  unfold coilCommand
  try dsimp only
  repeat' (first
      | (with_reducible first
          | assumption | exact rfl | exact Sub.of (by decide +kernel) hm | exact Or.inr rfl
          | exact Or.inl (Sub.has hm (by decide +kernel)) | apply markTaken_within | apply coilNext_within)
      | (simp only [within_mk]; with_reducible apply Within.upd))

theorem execInventory_within {M : List Part} {z : State} (tag : Nat) (s : State) (hs : Within M z s)
    (hm : Sub [.rings, .host, .fabric, .status, .output, .nonces, .force, .transponder] M)
    (hr : rolesThere s (.inventory tag) = true) : AnsWithin M z (execInventory tag s) := by
  unfold execInventory
  rw [inputTo_there hr]
  try dsimp only
  repeat' (first
      | (with_reducible first
          | assumption | intro _ | exact Sub.of (by decide +kernel) hm | apply ringCmdIf_within
          | apply coilCommand_within | apply ansWithin_next))

theorem coilDecide_within {M : List Part} {z : State} (s : State) (c : CoilCtx) (hs : Within M z s)
    (hm : Sub (hostPath ++ [Part.store, Part.keys, Part.release, Part.metering, Part.cycle, Part.subGhz, Part.uwb, Part.transponder]) M)
    : Within M z (coilDecide s c) := by
  unfold coilDecide
  try dsimp only
  repeat' (first
      | (with_reducible first
          | assumption | exact rfl | exact Sub.of (by decide +kernel) hm | exact Or.inr rfl
          | exact Or.inl (Sub.has hm (by decide +kernel)) | apply setCoilCtx_within | apply endTag_within
          | apply requestGroups_within | apply within_ite)
      | (simp only [within_mk]; with_reducible apply Within.upd) | split)

theorem afterSecured_within {M : List Part} {z : State} (s : State) (c : CoilCtx) (hs : Within M z s)
    (hm : Sub (hostPath ++ [Part.store, Part.keys, Part.release, Part.metering, Part.cycle, Part.subGhz, Part.uwb, Part.transponder]) M)
    : Within M z (afterSecured s c) := by
  unfold afterSecured
  try dsimp only
  repeat' (first
      | (with_reducible first
          | assumption | exact Sub.of (by decide +kernel) hm | apply sendRead_within | apply coilDecide_within)
      | split)

theorem execWriteBlock_within {M : List Part} {z : State} (tag : Nat) (data : Bytes) (s : State) (hs : Within M z s)
    (hm : Sub [.rings, .host, .fabric, .status, .output, .nonces, .force, .transponder] M)
    (hr : rolesThere s (.writeBlock tag data) = true) : AnsWithin M z (execWriteBlock tag data s) := by
  unfold execWriteBlock
  rw [inputTo_there hr]
  try dsimp only
  repeat' (first
      | (with_reducible first
          | assumption | intro _ | exact Sub.of (by decide +kernel) hm | apply ringCmdIf_within
          | apply coilCommand_within | apply ansWithin_next))

theorem rearmCoil_within {M : List Part} {z : State} (s : State) (hs : Within M z s)
    (hm : Sub (hostPath ++ [Part.transponder]) M) : Within M z (rearmCoil s) := by
  unfold rearmCoil
  try dsimp only
  repeat' (first
      | (with_reducible first
          | assumption | intro _ | exact Sub.of (by decide +kernel) hm | apply State.when_within
          | apply coilState_within))

theorem execTpxRearm_within {M : List Part} {z : State} (s : State) (hs : Within M z s)
    (hm : Sub (hostPath ++ [Part.transponder]) M) : AnsWithin M z (execTpxRearm s) := by
  unfold execTpxRearm
  try dsimp only
  repeat' (first
      | (with_reducible first
          | assumption | intro _ | exact Sub.of (by decide +kernel) hm | apply State.when_within
          | apply auditedWrite_within | apply rearmCoil_within | apply ansWithin_next))

theorem sendPassword_within {M : List Part} {z : State} (s : State) (c : CoilCtx) (hs : Within M z s)
    (hm : Sub (hostPath ++ [Part.keys, Part.release, Part.transponder]) M) : Within M z (sendPassword s c) := by
  unfold sendPassword
  try dsimp only
  repeat' (first
      | (with_reducible first
          | assumption | exact rfl | exact Sub.of (by decide +kernel) hm | exact Or.inr rfl
          | exact Or.inl (Sub.has hm (by decide +kernel)) | apply endTag_within | apply setCoilCtx_within
          | apply useSlot_within | apply sendCoilBytes_within)
      | (simp only [within_mk]; with_reducible apply Within.upd) | split)

theorem secureTag_within {M : List Part} {z : State} (s : State) (c : CoilCtx) (hs : Within M z s)
    (hm : Sub (hostPath ++ [Part.keys, Part.release, Part.transponder]) M) : Within M z (secureTag s c) := by
  unfold secureTag
  try dsimp only
  repeat' (first
      | (with_reducible first
          | assumption | exact rfl | exact Sub.of (by decide +kernel) hm | exact Or.inr rfl
          | exact Or.inl (Sub.has hm (by decide +kernel)) | apply setCoilCtx_within | apply sendCoilBytes_within
          | apply haltTag_within | apply sendPassword_within | apply endTag_within | apply within_ite)
      | (simp only [within_mk]; with_reducible apply Within.upd) | split)

theorem classifyCoil_within {M : List Part} {z : State} (s : State) (current : Nat) (finding : Nat) (hs : Within M z s)
    (hm : Sub (hostPath ++ [Part.transponder]) M) : Within M z (classifyCoil s current finding) := by
  unfold classifyCoil
  try dsimp only
  repeat' (first
      | (with_reducible first
          | assumption | exact rfl | exact Sub.of (by decide +kernel) hm | exact Or.inr rfl
          | exact Or.inl (Sub.has hm (by decide +kernel)) | apply coilState_within)
      | (simp only [within_mk]; with_reducible apply Within.upd))

theorem execCoilOvercurrent_within {M : List Part} {z : State} (s : State) (hs : Within M z s)
    (hm : Sub (hostPath ++ [.store, .release, .transponder]) M) (hr : rolesThere s (.coilOvercurrent) = true)
    : AnsWithin M z (execCoilOvercurrent s) := by
  unfold execCoilOvercurrent
  rw [inputTo_there hr]
  try dsimp only
  repeat' (first
      | (with_reducible first
          | assumption | intro _ | exact Sub.of (by decide +kernel) hm | apply State.when_within
          | apply fieldCollapse_within | apply classifyCoil_within | apply ansWithin_next))

theorem execCoilPollStart_within {M : List Part} {z : State} (vlf : Nat) (s : State) (hs : Within M z s)
    (hm : Sub [.rings, .host, .fabric, .status, .output, .nonces, .force, .power, .transponder] M)
    (hr : rolesThere s (.coilPollStart vlf) = true) : AnsWithin M z (execCoilPollStart vlf s) := by
  unfold execCoilPollStart
  rw [inputTo_there hr]
  try dsimp only
  repeat' (first
      | (with_reducible first
          | assumption | intro _ | exact Sub.of (by decide +kernel) hm | apply State.when_within | apply coilNext_within
          | apply setVlf_within | apply ansWithin_next))

theorem execTpxReportBuffer_within {M : List Part} {z : State} (tag : Nat) (s : State) (hs : Within M z s)
    (hm : Sub [.rings, .host, .fabric, .status, .output, .nonces] M) (hr : rolesThere s (.tpxReportBuffer tag) = true)
    : AnsWithin M z (execTpxReportBuffer tag s) := by
  unfold execTpxReportBuffer
  rw [inputTo_there hr]
  try dsimp only
  repeat' (first
      | (with_reducible first
          | assumption | exact Sub.of (by decide +kernel) hm | apply postBuffer_within | apply ansWithin_next))

theorem securedMissing_within {M : List Part} {z : State} (s : State) (c : CoilCtx) (step : SecStep) (sentInFull : Bool) (hs
    : Within M z s) (hm : Sub (hostPath ++ [Part.store, Part.release, Part.transponder]) M)
    : Within M z (securedMissing s c step sentInFull) := by
  unfold securedMissing
  try dsimp only
  repeat' (first
      | (with_reducible first
          | assumption | intro _ | exact Sub.of (by decide +kernel) hm | apply endTag_within | apply setCoilCtx_within
          | apply writeEnds_within | apply haltTag_within | apply within_ite)
      | split)

theorem securedNak_within {M : List Part} {z : State} (s : State) (c : CoilCtx) (step : SecStep) (reason : Nat) (hs
    : Within M z s) (hm : Sub (hostPath ++ [Part.store, Part.release, Part.transponder]) M)
    : Within M z (securedNak s c step reason) := by
  unfold securedNak
  try dsimp only
  repeat' (first
      | (with_reducible first
          | assumption | exact Sub.of (by decide +kernel) hm | apply endTag_within | apply setCoilCtx_within
          | apply haltTag_within | apply securedMissing_within | apply within_ite)
      | split)

theorem readDone_within {M : List Part} {z : State} (s : State) (data : Bytes) (hs : Within M z s)
    (hm : Sub (ringPath ++ [Part.transponder]) M) : Within M z (readDone s data) := by
  unfold readDone
  try dsimp only
  repeat' (first
      | (with_reducible first
          | assumption | exact Sub.of (by decide +kernel) hm | apply haltTag_within | apply cmdDma_within)
      | split)

theorem sendStage_within {M : List Part} {z : State} (s : State) (c : CoilCtx) (again : Bool) (hs : Within M z s)
    (hm : Sub (hostPath ++ [Part.release, Part.transponder]) M) : Within M z (sendStage s c again) := by
  unfold sendStage
  try dsimp only
  repeat' (first | (with_reducible first | assumption | exact Sub.of (by decide +kernel) hm | apply sendSecured_within))

theorem securedStep_within {M : List Part} {z : State} (s : State) (c : CoilCtx) (step : SecStep) (data : Bytes) (hs
    : Within M z s)
    (hm : Sub (hostPath ++ [Part.store, Part.keys, Part.release, Part.metering, Part.cycle, Part.subGhz, Part.uwb, Part.transponder]) M)
    : Within M z (securedStep s c step data) := by
  unfold securedStep
  try dsimp only
  repeat' (first
      | (with_reducible first
          | assumption | exact Sub.of (by decide +kernel) hm | apply afterSecured_within | apply resolvePending_within
          | apply readDone_within | apply sendStage_within | apply sendSecured_within | apply securedNak_within
          | apply haltTag_within | apply sendRead_within | apply within_ite)
      | split)

theorem execReadBlock_within {M : List Part} {z : State} (tag : Nat) (s : State) (hs : Within M z s)
    (hm : Sub [.rings, .host, .fabric, .status, .output, .nonces, .force, .transponder] M)
    (hr : rolesThere s (.readBlock tag) = true) : AnsWithin M z (execReadBlock tag s) := by
  unfold execReadBlock
  rw [inputTo_there hr]
  try dsimp only
  repeat' (first
      | (with_reducible first
          | assumption | intro _ | exact Sub.of (by decide +kernel) hm | apply ringCmdIf_within
          | apply coilCommand_within | apply ansWithin_next))

theorem execWalkReply_within {M : List Part} {z : State} (start : Nat) (halves : List (Bool × Bool)) (s : State) (hs
    : Within M z s) (hm : Sub [.rings, .host, .fabric, .status, .output, .nonces, .transponder] M)
    (hr : rolesThere s (.walkReply start halves) = true) : AnsWithin M z (execWalkReply start halves s) := by
  unfold execWalkReply
  rw [inputTo_there hr]
  try dsimp only
  repeat' (first
      | (with_reducible first
          | assumption | exact rfl | exact Sub.of (by decide +kernel) hm | exact Or.inr rfl
          | exact Or.inl (Sub.has hm (by decide +kernel)) | apply walkNext_within | apply walkFound_within
          | apply sendWalk_within | apply walkDone_within | apply State.raise_within | apply ansWithin_next
          | apply within_ite)
      | (simp only [within_mk]; with_reducible apply Within.upd) | split)

theorem selectMissing_within {M : List Part} {z : State} (s : State) (hs : Within M z s)
    (hm : Sub (ringPath ++ [Part.transponder]) M) : Within M z (selectMissing s) := by
  unfold selectMissing
  try dsimp only
  repeat' (first
      | (with_reducible first
          | assumption | exact rfl | exact Sub.of (by decide +kernel) hm | exact Or.inr rfl
          | exact Or.inl (Sub.has hm (by decide +kernel)) | apply walkNext_within | apply endJob_within
          | apply within_ite)
      | (simp only [within_mk]; with_reducible apply Within.upd) | split)

theorem execPollNow_within {M : List Part} {z : State} (tag : Nat) (s : State) (hs : Within M z s)
    (hm : Sub [.rings, .host, .fabric, .status, .output, .nonces, .force, .transponder] M)
    (hr : rolesThere s (.pollNow tag) = true) : AnsWithin M z (execPollNow tag s) := by
  unfold execPollNow
  rw [inputTo_there hr]
  try dsimp only
  repeat' (first
      | (with_reducible first
          | assumption | intro _ | exact Sub.of (by decide +kernel) hm | apply ringCmd_within | apply coilCommand_within
          | apply ansWithin_next))

theorem countedEnd_within {M : List Part} {z : State} (s : State) (c : CoilCtx) (oc : Nat) (hs : Within M z s)
    (hm : Sub (hostPath ++ [Part.store, Part.holly, Part.release, Part.transponder]) M)
    : Within M z (countedEnd s c oc) := by
  unfold countedEnd
  try dsimp only
  repeat' (first
      | (with_reducible first
          | assumption | exact Sub.of (by decide +kernel) hm | apply endTag_within | apply setCoilCtx_within
          | apply thornFailure_within))

theorem handshakeReply_within {M : List Part} {z : State} (s : State) (c : CoilCtx) (right : Option Bool) (hs
    : Within M z s)
    (hm : Sub (hostPath ++ [Part.store, Part.keys, Part.holly, Part.release, Part.metering, Part.cycle, Part.subGhz, Part.uwb, Part.transponder]) M)
    : Within M z (handshakeReply s c right) := by
  unfold handshakeReply
  try dsimp only
  repeat' (first
      | (with_reducible first
          | assumption | exact Sub.of (by decide +kernel) hm | apply endTag_within | apply setCoilCtx_within
          | apply countedEnd_within | apply coilDecide_within | apply afterSecured_within | apply within_ite)
      | split)

theorem classifyReply_within {M : List Part} {z : State} (s : State) (c : CoilCtx) (start : Nat) (nominal : Nat)
    (frame : Bytes) (right : Option (Option Bool)) (hs : Within M z s)
    (hm : Sub (hostPath ++ [Part.store, Part.keys, Part.holly, Part.release, Part.metering, Part.cycle, Part.subGhz, Part.uwb, Part.transponder]) M)
    : Within M z (classifyReply s c start nominal frame right) := by
  unfold classifyReply
  try dsimp only
  repeat' (first
      | (with_reducible first
          | assumption | exact Sub.of (by decide +kernel) hm | apply endTag_within | apply setCoilCtx_within
          | apply countedEnd_within | apply handshakeReply_within | apply within_ite)
      | split)

theorem execCoilSettleEnd_within {M : List Part} {z : State} (current : Nat) (phaseOk : Bool) (fullDuty : Bool) (s : State)
    (hs : Within M z s) (hm : Sub (hostPath ++ [.transponder]) M)
    (hr : rolesThere s (.coilSettleEnd current phaseOk fullDuty) = true)
    : AnsWithin M z (execCoilSettleEnd current phaseOk fullDuty s) := by
  unfold execCoilSettleEnd
  rw [inputTo_there hr]
  try dsimp only
  repeat' (first
      | (with_reducible first
          | assumption | intro _ | exact Sub.of (by decide +kernel) hm | apply State.when_within
          | apply classifyCoil_within | apply endJob_within | apply walkNext_within | apply ansWithin_next
          | apply within_ite)
      | split)

theorem execTpxReplyMissing_within {M : List Part} {z : State} (current : Nat) (sentInFull : Bool) (s : State) (hs
    : Within M z s) (hm : Sub (hostPath ++ [.store, .release, .transponder]) M)
    (hr : rolesThere s (.tpxReplyMissing current sentInFull) = true)
    : AnsWithin M z (execTpxReplyMissing current sentInFull s) := by
  unfold execTpxReplyMissing
  rw [inputTo_there hr]
  try dsimp only
  repeat' (first
      | (with_reducible first
          | assumption | exact Sub.of (by decide +kernel) hm | apply walkNext_within | apply selectMissing_within
          | apply endTag_within | apply setCoilCtx_within | apply securedMissing_within | apply ansWithin_next)
      | split)

theorem execCoilVlfCollapse_within {M : List Part} {z : State} (s : State) (hs : Within M z s)
    (hm : Sub (hostPath ++ [.store, .release, .transponder]) M) (hr : rolesThere s (.coilVlfCollapse) = true)
    : AnsWithin M z (execCoilVlfCollapse s) := by
  unfold execCoilVlfCollapse
  rw [inputTo_there hr]
  try dsimp only
  repeat' (first
      | (with_reducible first
          | assumption | intro _ | exact Sub.of (by decide +kernel) hm | apply State.when_within
          | apply fieldCollapse_within | apply ansWithin_next))

theorem execSecuredReply_within {M : List Part} {z : State} (start : Nat) (current : Nat) (frame : Bytes) (s : State) (hs
    : Within M z s) (hm : Sub (hostPath ++ [.store, .keys, .release, .metering, .cycle, .subGhz, .uwb, .transponder]) M)
    (hr : rolesThere s (.securedReply start current frame) = true)
    : AnsWithin M z (execSecuredReply start current frame s) := by
  unfold execSecuredReply
  rw [inputTo_there hr]
  try dsimp only
  repeat' (first
      | (with_reducible first
          | assumption | exact Sub.of (by decide +kernel) hm | apply setCoilCtx_within | apply securedMissing_within
          | apply securedStep_within | apply securedNak_within | apply ansWithin_next | apply within_ite)
      | split)

theorem execPasswordReply_within {M : List Part} {z : State} (start : Nat) (current : Nat) (frame : Bytes) (s : State) (hs
    : Within M z s)
    (hm : Sub (hostPath ++ [.store, .keys, .holly, .release, .metering, .cycle, .subGhz, .uwb, .transponder]) M)
    (hr : rolesThere s (.passwordReply start current frame) = true)
    : AnsWithin M z (execPasswordReply start current frame s) := by
  unfold execPasswordReply
  rw [inputTo_there hr]
  try dsimp only
  repeat' (first
      | (with_reducible first
          | assumption | exact Sub.of (by decide +kernel) hm | apply classifyReply_within | apply ansWithin_next
          | apply within_ite)
      | split)

theorem execAuthReply_within {M : List Part} {z : State} (start : Nat) (current : Nat) (frame : Bytes) (s : State) (hs
    : Within M z s)
    (hm : Sub (hostPath ++ [.store, .keys, .holly, .release, .metering, .cycle, .subGhz, .uwb, .transponder]) M)
    (hr : rolesThere s (.authReply start current frame) = true) : AnsWithin M z (execAuthReply start current frame s) := by
  unfold execAuthReply
  rw [inputTo_there hr]
  try dsimp only
  repeat' (first
      | (with_reducible first
          | assumption | exact Sub.of (by decide +kernel) hm | apply classifyReply_within | apply ansWithin_next
          | apply within_ite)
      | split)

theorem execSelectedReply_within {M : List Part} {z : State} (start : Nat) (current : Nat) (frame : Bytes) (s : State) (hs
    : Within M z s) (hm : Sub (hostPath ++ [.keys, .release, .transponder]) M)
    (hr : rolesThere s (.selectedReply start current frame) = true)
    : AnsWithin M z (execSelectedReply start current frame s) := by
  unfold execSelectedReply
  rw [inputTo_there hr]
  try dsimp only
  repeat' (first
      | (with_reducible first
          | assumption | exact rfl | exact Sub.of (by decide +kernel) hm | exact Or.inr rfl
          | exact Or.inl (Sub.has hm (by decide +kernel)) | apply selectMissing_within | apply endTag_within
          | apply setCoilCtx_within | apply secureTag_within | apply ansWithin_next | apply within_ite)
      | (simp only [within_mk]; with_reducible apply Within.upd) | split)

theorem execVlfLowRetest_within {M : List Part} {z : State} (vlf : Nat) (s : State) (hs : Within M z s)
    (hm : Sub (hostPath ++ [.held, .force, .boundary, .power, .field, .cycle, .subGhz, .uwb, .radio, .transponder]) M)
    (hr : rolesThere s (.vlfLowRetest vlf) = true) : AnsWithin M z (execVlfLowRetest vlf s) := by
  unfold execVlfLowRetest
  rw [inputTo_there hr]
  try dsimp only
  repeat' (first
      | (with_reducible first
          | assumption | exact Sub.of (by decide +kernel) hm | apply setVlf_within | apply tryPattern_within
          | apply tryBurst_within | apply coilNext_within | apply ansWithin_next | apply within_ite)
      | split)

end Sys2Proof.Machine
end

