-- ==== Sys2Proof/Laws/WithinCycle.lean ====
section
/-! SUPPORT. What each definition keeps and where it may write (Laws/Within.lean): register writes, the store's blobs
and assets, the poll cycle and Holly. -/
namespace Sys2Proof.Machine

set_option Elab.async false

theorem doorsEnabled_within {M : List Part} {z : State} (s : State) (t : State) (hs : Within M z s) (ht : Within M z t)
    (hm : Sub [.release] M) : Within M z (doorsEnabled s t) := by
  unfold doorsEnabled
  try dsimp only
  repeat' (first
      | (with_reducible first
          | assumption | intro _ | exact Sub.of (by decide +kernel) hm | apply State.setDoor_within | apply within_ite
          | apply within_foldl | apply within_foldl_fst)
      | split)

theorem groupsDisabled_within {M : List Part} {z : State} (s : State) (t : State) (hs : Within M z s) (ht : Within M z t)
    (hm : Sub (hostPath ++ [Part.store, Part.keys, Part.release, Part.metering, Part.cycle, Part.subGhz, Part.uwb, Part.transponder]) M)
    : Within M z (groupsDisabled s t) := by
  unfold groupsDisabled
  try dsimp only
  repeat' (first
      | (with_reducible first
          | assumption | intro _ | exact Sub.of (by decide +kernel) hm | apply groupDisabled_within | apply within_ite
          | apply within_foldl | apply within_foldl_fst)
      | split)

theorem profileWritten_within {M : List Part} {z : State} (source : Nat) (off : Nat) (w : Nat) (s : State) (hs
    : Within M z s) (hm : Sub [.host, .status, .held, .force, .boundary, .metering] M)
    : Within M z (profileWritten source off w s) := by
  unfold profileWritten
  try dsimp only
  repeat' (first
      | (with_reducible first
          | assumption | exact Sub.of (by decide +kernel) hm | apply selectProfile_within | apply within_ite)
      | split)

theorem writeActions_within {M : List Part} {z : State} (off : Nat) (w : Nat) (s : State) (hs : Within M z s)
    (hm : Sub (hostPath ++ [Part.force, Part.power, Part.field, Part.transponder]) M)
    : Within M z (writeActions off w s) := by
  unfold writeActions
  try dsimp only
  repeat' (first
      | (with_reducible first
          | assumption | intro _ | exact Sub.of (by decide +kernel) hm | apply rejoins_within | apply rearmChan_within
          | apply requestDiags_within | apply rearmCoil_within | apply within_ite | apply within_foldl
          | apply within_foldl_fst)
      | split)

theorem coexFollows_within {M : List Part} {z : State} (s : State) (t : State) (hs : Within M z s) (ht : Within M z t)
    (hm : Sub (hostPath ++ [Part.release, Part.cycle, Part.subGhz, Part.uwb]) M) : Within M z (coexFollows s t) := by
  unfold coexFollows
  try dsimp only
  repeat' (first
      | (with_reducible first
          | assumption | exact Sub.of (by decide +kernel) hm | apply sgrPacketGoes_within | apply sgrNextJob_within
          | apply roundFails_within | apply State.raise_within | apply within_ite)
      | split)

theorem writeFollows_within {M : List Part} {z : State} (s : State) (t : State) (hs : Within M z s) (ht : Within M z t)
    (hm : Sub (hostPath ++ [Part.store, Part.keys, Part.release, Part.metering, Part.cycle, Part.subGhz, Part.uwb, Part.transponder]) M)
    : Within M z (writeFollows s t) := by
  unfold writeFollows
  try dsimp only
  repeat' (first
      | (with_reducible first
          | assumption | exact Sub.of (by decide +kernel) hm | apply coexFollows_within | apply groupsDisabled_within
          | apply doorsEnabled_within | apply portsDisabled_within))

theorem setupWritten_within {M : List Part} {z : State} (off : Nat) (w : Nat) (s : State) (hs : Within M z s)
    (hm : Sub (hostPath ++ [Part.held, Part.force, Part.boundary, Part.store, Part.power, Part.keys, Part.release, Part.metering, Part.field, Part.cycle, Part.subGhz, Part.uwb, Part.transponder]) M)
    : Within M z (setupWritten off w s) := by
  unfold setupWritten
  try dsimp only
  repeat' (first
      | (with_reducible first
          | assumption | exact Sub.of (by decide +kernel) hm | apply writeActions_within | apply writeFollows_within
          | apply profileWritten_within | apply writeFields_within))

theorem ringClamp_within {M : List Part} {z : State} (s : State) (n : Nat) (o : Nat) (lsb : Nat) (width : Nat) (v : Nat)
    (lo : Nat) (hi : Nat) (hs : Within M z s) (hm : Sub [.host, .status] M)
    : Within M z (ringClamp s n o lsb width v lo hi).1 := by
  unfold ringClamp
  try dsimp only
  repeat' (first
      | (with_reducible first
          | assumption | exact Sub.of (by decide +kernel) hm | apply clampReport_within | apply within_ite)
      | split)

theorem ringCtrlWritten_within {M : List Part} {z : State} (n : Nat) (w : Nat) (s : State) (hs : Within M z s)
    (hm : Sub (ringPath ++ [Part.store, Part.power, Part.keys, Part.holly, Part.subGhz, Part.transponder, Part.update]) M)
    : Within M z (ringCtrlWritten n w s) := by
  unfold ringCtrlWritten
  dsimp only
  have hc := ringClamp_bounds s n 0x14 16 8 (bitField w 16 8) 1 255 (by decide)
  have h := ringClamp_within _ n 0x14 16 8 (bitField w 16 8) 1 255 hs (Sub.of (by decide +kernel) hm)
  have key : Within M z ((ringClamp s n 0x14 16 8 (bitField w 16 8) 1 255).1.setRing n
      { (ringClamp s n 0x14 16 8 (bitField w 16 8) 1 255).1.ring n with
        intEn := bitAt w 1, vector := some (bitField w 8 6), coalCnt := (ringClamp s n 0x14 16 8 (bitField w 16 8) 1
            255).2 }) :=
    State.setRing_within _ _ _ h (Sub.of (by decide +kernel) hm) fun a => by
      obtain ⟨h1, h2, h3, h4, h5, h6, h7, h8, h9, h10, h11, h12⟩ := h.keeps.rings a n
      refine ⟨h1, h2, h3, hc.1, hc.2, h6, h7, fun v e => ?_, h9, h10, h11, h12⟩
      cases e
      exact Nat.mod_lt _ (by decide)
  split
  · exact ringEnables_within _ _ key (Sub.of (by decide +kernel) hm)
  · exact ringDisables_within _ _ key (Sub.of (by decide +kernel) hm)

theorem ringSizeWritten_within {M : List Part} {z : State} (n w : Nat) (s : State) (hs : Within M z s)
    (hd : (s.ring n).phase = .disabled)
    (hm : Sub [.rings, .host, .status] M) :
    Within M z (ringSizeWritten n w s) := by
  unfold ringSizeWritten
  dsimp only
  have hk := ringClamp_bounds s n 0x10 0 5 (bitField w 0 5) 4 16 (by decide)
  have hc := ringClamp_bounds (ringClamp s n 0x10 0 5 (bitField w 0 5) 4 16).1 n 0x10 8 5 (bitField w 8 5)
    (ringClamp s n 0x10 0 5 (bitField w 0 5) 4 16).2 16 hk.2
  have h := ringClamp_within _ n 0x10 8 5 (bitField w 8 5) (ringClamp s n 0x10 0 5 (bitField w 0 5) 4 16).2 16
    (ringClamp_within _ n 0x10 0 5 (bitField w 0 5) 4 16 hs (Sub.of (by decide +kernel) hm)) (Sub.of (by decide +kernel) hm)
  refine State.setRing_within _ _ _ h (Sub.of (by decide +kernel) hm) fun a => ?_
  obtain ⟨h1, h2, h3, h4, h5, h6, h7, h8, h9, h10, h11, h12⟩ := h.keeps.rings a n
  refine ⟨hk.1, hc.1, hc.2, h4, h5, h6, h7, h8, h9, h10, h11, fun h => absurd ?_ h⟩
  dsimp only
  rw [ringClamp_ring, ringClamp_ring, hd]

theorem sqBaseHalf_within {M : List Part} {z : State} (n w half : Nat) (s : State) (hs : Within M z s)
    (hm : Sub (ringPath ++ [Part.store, Part.power, Part.keys, Part.holly, Part.subGhz, Part.transponder, Part.update]) M) :
   Within M z (s.setRing n { s.ring n with sqBase := baseHalf (s.ring n).sqBase half w }) := by
  have hb : RingsLegal z → baseHalf (s.ring n).sqBase half w % 4096 = 0 := fun a => by
    obtain ⟨h1, h2, h3, h4, h5, h6, h7, h8, h9, h10, h11, h12⟩ := hs.keeps.rings a n
    exact baseHalf_aligned h9 half w
  generalize baseHalf (s.ring n).sqBase half w = b at hb ⊢
  exact State.setRing_within _ _ _ hs (Sub.of (by decide +kernel) hm) fun a => by
        obtain ⟨h1, h2, h3, h4, h5, h6, h7, h8, h9, h10, h11, h12⟩ := hs.keeps.rings a n
        exact ⟨h1, h2, h3, h4, h5, h6, h7, h8, hb a, h10, h11, h12⟩
theorem cqBaseHalf_within {M : List Part} {z : State} (n w half : Nat) (s : State) (hs : Within M z s)
    (hm : Sub [.rings] M) :
   Within M z (s.setRing n { s.ring n with cqBase := baseHalf (s.ring n).cqBase half w }) := by
  have hb : RingsLegal z → baseHalf (s.ring n).cqBase half w % 4096 = 0 := fun a => by
    obtain ⟨h1, h2, h3, h4, h5, h6, h7, h8, h9, h10, h11, h12⟩ := hs.keeps.rings a n
    exact baseHalf_aligned h10 half w
  generalize baseHalf (s.ring n).cqBase half w = b at hb ⊢
  exact State.setRing_within _ _ _ hs (Sub.of (by decide +kernel) hm) fun a => by
        obtain ⟨h1, h2, h3, h4, h5, h6, h7, h8, h9, h10, h11, h12⟩ := hs.keeps.rings a n
        exact ⟨h1, h2, h3, h4, h5, h6, h7, h8, h9, hb a, h11, h12⟩
theorem ringWritten_within {M : List Part} {z : State} (n : Nat) (o : Nat) (w : Nat) (s : State) (hs : Within M z s)
    (hm : Sub [.rings, .host, .fabric, .status, .output, .nonces, .store, .power, .keys, .holly, .subGhz, .transponder,
        .update] M) : Within M z (ringWritten n o w s) := by
  unfold ringWritten
  dsimp only
  split
  · with_reducible exact within_ite (sqBaseHalf_within _ _ _ _ hs (Sub.of (by decide +kernel) hm)) hs
  · with_reducible exact within_ite (sqBaseHalf_within _ _ _ _ hs (Sub.of (by decide +kernel) hm)) hs
  · with_reducible exact within_ite (cqBaseHalf_within _ _ _ _ hs (Sub.of (by decide +kernel) hm)) hs
  · with_reducible exact within_ite (cqBaseHalf_within _ _ _ _ hs (Sub.of (by decide +kernel) hm)) hs
  · split
    · next hd => exact ringSizeWritten_within _ _ _ hs (by simpa using hd) (Sub.of (by decide +kernel) hm)
    · exact hs
  · with_reducible exact ringCtrlWritten_within _ _ _ hs (Sub.of (by decide +kernel) hm)
  · have hc := ringClamp_bounds s n 0x18 0 10 (bitField w 0 10) 1 1000 (by decide)
    have h := ringClamp_within _ n 0x18 0 10 (bitField w 0 10) 1 1000 hs (Sub.of (by decide +kernel) hm)
    generalize ringClamp s n 0x18 0 10 (bitField w 0 10) 1 1000 = p at hc h ⊢
    exact State.setRing_within _ _ _ h (Sub.of (by decide +kernel) hm) fun a => by
      obtain ⟨h1, h2, h3, h4, h5, h6, h7, h8, h9, h10, h11, h12⟩ := h.keeps.rings a n
      exact ⟨h1, h2, h3, h4, h5, hc.1, hc.2, h8, h9, h10, h11, h12⟩
  · generalize clearBits (s.ring n).err (bitField w 0 4) = e
    exact State.setRing_within _ _ _ hs (Sub.of (by decide +kernel) hm) fun a => by
      obtain ⟨h1, h2, h3, h4, h5, h6, h7, h8, h9, h10, h11, h12⟩ := hs.keeps.rings a n
      exact ⟨h1, h2, h3, h4, h5, h6, h7, h8, h9, h10, h11, h12⟩
  · exact hs

theorem msixWritten_within {M : List Part} {z : State} (k : Nat) (w : Nat) (s : State) (hs : Within M z s)
    (hm : Sub [.host] M) : Within M z (msixWritten k w s) := by
  unfold msixWritten
  try dsimp only
  repeat' (first
      | (with_reducible first
          | assumption | exact rfl | exact Or.inr rfl | exact Or.inl (Sub.has hm (by decide +kernel)) | apply within_ite)
      | (simp only [within_mk]; with_reducible apply Within.upd) | split)

theorem registerWritten_within {M : List Part} {z : State} (source : Nat) (off : Nat) (w : Nat) (s : State) (hs
    : Within M z s)
    (hm : Sub (hostPath ++ [Part.mode, Part.held, Part.force, Part.nvwp, Part.tap, Part.boundary, Part.store, Part.power, Part.keys, Part.holly, Part.release, Part.metering, Part.field, Part.cycle, Part.subGhz, Part.uwb, Part.radio, Part.transponder, Part.update]) M)
    : Within M z (registerWritten source off w s) := by
  unfold registerWritten
  try dsimp only
  repeat' (first
      | (with_reducible first
          | assumption | intro _ | exact Sub.of (by decide +kernel) hm | apply restartWritten_within
          | apply ringWritten_within | apply msixWritten_within | apply auditedWrite_within | apply setupWritten_within
          | apply within_ite)
      | split)

theorem entryApplied_within {M : List Part} {z : State} (off : Nat) (w : Nat) (s : State) (hs : Within M z s)
    (hm : Sub (hostPath ++ [Part.held, Part.force, Part.boundary, Part.store, Part.keys, Part.release, Part.metering, Part.cycle, Part.subGhz, Part.uwb, Part.transponder]) M)
    : Within M z (entryApplied off w s) := by
  unfold entryApplied
  try dsimp only
  repeat' (first
      | (with_reducible first
          | assumption | exact Sub.of (by decide +kernel) hm | apply writeFollows_within | apply profileWritten_within
          | apply writeFields_within))

theorem olderReported_within {M : List Part} {z : State} (version : Nat) (current : Nat) (s : State) (hs : Within M z s)
    (hm : Sub [.host, .status] M) : Within M z (olderReported version current s) := by
  unfold olderReported
  try dsimp only
  repeat' (first | (with_reducible first | assumption | exact Sub.of (by decide +kernel) hm | apply clampReport_within))

theorem fieldDefaulted_within {M : List Part} {z : State} (off : Nat) (s : State) (r : FieldSpec) (hs : Within M z s)
    (hm : Sub [.host, .held, .force, .boundary, .metering] M) : Within M z (fieldDefaulted off s r) := by
  unfold fieldDefaulted
  try dsimp only
  repeat' (first
      | (with_reducible first
          | assumption | exact Sub.of (by decide +kernel) hm | apply storeField_within | apply within_ite)
      | split)

theorem registerDefaulted_within {M : List Part} {z : State} (off : Nat) (s : State) (hs : Within M z s)
    (hm : Sub (hostPath ++ [Part.held, Part.force, Part.boundary, Part.store, Part.keys, Part.release, Part.metering, Part.cycle, Part.subGhz, Part.uwb, Part.transponder]) M)
    : Within M z (registerDefaulted off s) := by
  unfold registerDefaulted
  try dsimp only
  repeat' (first
      | (with_reducible first
          | assumption | intro _ | exact Sub.of (by decide +kernel) hm | apply fieldDefaulted_within
          | apply writeFollows_within | apply dependents_within | apply selectProfile_within | apply within_ite
          | apply within_foldl | apply within_foldl_fst)
      | split)

theorem blobAudited_within {M : List Part} {z : State} (b : Bytes) (s : State) (t : State) (hs : Within M z s) (ht
    : Within M z t) (hm : Sub [.host, .status] M) : Within M z (blobAudited b s t) := by
  unfold blobAudited
  try dsimp only
  repeat' (first
      | (with_reducible first
          | assumption | intro _ | exact Sub.of (by decide +kernel) hm | apply audit_within | apply within_ite
          | apply within_foldl | apply within_foldl_fst)
      | split)

theorem applyBlob_within {M : List Part} {z : State} (current : Nat) (b : Bytes) (s : State) (hs : Within M z s)
    (hm : Sub (hostPath ++ [Part.held, Part.force, Part.boundary, Part.store, Part.keys, Part.release, Part.metering, Part.cycle, Part.subGhz, Part.uwb, Part.transponder]) M)
    : Within M z (applyBlob current b s).1 := by
  unfold applyBlob
  try dsimp only
  repeat' (first
      | (with_reducible first
          | assumption | intro _ | exact Sub.of (by decide +kernel) hm | apply entryApplied_within
          | apply olderReported_within | apply registerDefaulted_within | apply blobAudited_within | apply within_ite
          | apply within_foldl | apply within_foldl_fst)
      | split)

theorem countersImported_within {M : List Part} {z : State} (s : State) (r : Bytes) (hs : Within M z s)
    (hm : Sub [.metering] M) : Within M z (countersImported s r) := by
  unfold countersImported
  try dsimp only
  repeat' (first
      | (with_reducible first
          | assumption | exact rfl | exact Or.inr rfl | exact Or.inl (Sub.has hm (by decide +kernel)))
      | (simp only [within_mk]; with_reducible apply Within.upd))

theorem importTakes_within {M : List Part} {z : State} (r : Bytes) (s : State) (hs : Within M z s)
    (hm : Sub (hostPath ++ [Part.held, Part.force, Part.boundary, Part.store, Part.keys, Part.holly, Part.release, Part.metering, Part.cycle, Part.subGhz, Part.uwb, Part.transponder]) M)
    : Within M z (importTakes r s) := by
  unfold importTakes
  try dsimp only
  repeat' (first
      | (with_reducible first
          | assumption | exact rfl | exact Sub.of (by decide +kernel) hm | exact Or.inr rfl
          | exact Or.inl (Sub.has hm (by decide +kernel)) | apply countersImported_within | apply tableReplaced_within
          | apply applyBlob_within | apply auditCmd_within | apply State.setStat_within | apply within_ite)
      | (simp only [within_mk]; with_reducible apply Within.upd) | split)

theorem importResumed_within {M : List Part} {z : State} (s : State) (hs : Within M z s)
    (hm : Sub (hostPath ++ [Part.held, Part.force, Part.boundary, Part.store, Part.keys, Part.holly, Part.release, Part.metering, Part.cycle, Part.subGhz, Part.uwb, Part.transponder]) M)
    : Within M z (importResumed s) := by
  unfold importResumed
  try dsimp only
  repeat' (first
      | (with_reducible first
          | assumption | exact Sub.of (by decide +kernel) hm | apply importTakes_within | apply nvRequest_within)
      | split)

theorem setsStand_within {M : List Part} {z : State} (s : State) (hs : Within M z s) (hm : Sub [.store, .holly] M)
    : Within M z (setsStand s) := by
  unfold setsStand
  try dsimp only
  repeat' (first
      | (with_reducible first
          | assumption | exact rfl | intro _ | exact Or.inr rfl | exact Or.inl (Sub.has hm (by decide +kernel))
          | apply within_foldl | apply within_foldl_fst)
      | (simp only [within_mk]; with_reducible apply Within.upd))

theorem importStands_within {M : List Part} {z : State} (tag : Option Nat) (r : Bytes) (s : State) (hs : Within M z s)
    (hm : Sub (hostPath ++ [Part.held, Part.force, Part.boundary, Part.store, Part.keys, Part.holly, Part.release, Part.metering, Part.cycle, Part.subGhz, Part.uwb, Part.transponder, Part.update]) M)
    : Within M z (importStands tag r s) := by
  unfold importStands
  try dsimp only
  repeat' (first
      | (with_reducible first
          | assumption | exact rfl | exact Sub.of (by decide +kernel) hm | exact Or.inr rfl
          | exact Or.inl (Sub.has hm (by decide +kernel)) | apply setsStand_within | apply importTakes_within
          | apply within_ite)
      | (simp only [within_mk]; with_reducible apply Within.upd) | split)

theorem importBegun_within {M : List Part} {z : State} (e : NvEffect) (s : State) (hs : Within M z s) (hm : Sub [.update] M)
    : Within M z (importBegun e s) := by
  unfold importBegun
  try dsimp only
  repeat' (first
      | (with_reducible first
          | assumption | exact rfl | exact Or.inr rfl | exact Or.inl (Sub.has hm (by decide +kernel)))
      | (simp only [within_mk]; with_reducible apply Within.upd) | split)

theorem programOr_within {M : List Part} {z : State} (s : State) (i : RecItem) (verifyOk : Bool) (hs : Within M z s)
    (hm : Sub [.status, .store] M) : Within M z (programOr s i verifyOk) := by
  unfold programOr
  cases e : programItem s i verifyOk with
  | none => exact hs
  | some u => exact programItem_within _ _ _ hs hm u e

theorem programAll_within {M : List Part} {z : State} (s : State) (l : List RecItem) (unread : List Nat) (hs : Within M z s)
    (hm : Sub [.status, .store] M) : Within M z (programAll s l unread) := by
  unfold programAll
  refine within_foldl (fun t b h => ?_) _ _ hs
  repeat' (first
      | (with_reducible first
          | assumption | exact rfl | intro _ | exact Sub.of (by decide +kernel) hm | exact Or.inr rfl
          | exact Or.inl (Sub.has hm (by decide +kernel)) | apply programOr_within | apply within_ite
          | apply within_foldl)
      | (simp only [within_mk]; with_reducible apply Within.upd) | split)

theorem slotTakes_within {M : List Part} {z : State} (s : State) (op : Nat) (n : Nat) (k : KeySlot) (hs : Within M z s)
    (hm : Sub [.keys, .metering] M) : Within M z (slotTakes s op n k) := by
  unfold slotTakes
  try dsimp only
  repeat' (first
      | (with_reducible first
          | assumption | exact rfl | exact Sub.of (by decide +kernel) hm | exact Or.inr rfl
          | exact Or.inl (Sub.has hm (by decide +kernel)) | apply State.setSlot_within | apply clearWorkingKey_within
          | apply within_ite)
      | (simp only [within_mk]; with_reducible apply Within.upd) | split)

theorem endSessions_within {M : List Part} {z : State} (s : State) (cause : Nat) (hs : Within M z s)
    (hm : Sub (hostPath ++ [Part.store, Part.keys, Part.release, Part.metering, Part.cycle, Part.subGhz, Part.uwb, Part.transponder]) M)
    : Within M z (endSessions s cause) := by
  unfold endSessions
  try dsimp only
  repeat' (first
      | (with_reducible first
          | assumption | intro _ | exact Sub.of (by decide +kernel) hm | apply endAll_within | apply within_ite
          | apply within_foldl | apply within_foldl_fst)
      | split)

theorem lifeCycleTakes_within {M : List Part} {z : State} (s : State) (target : Nat) (hs : Within M z s)
    (hm : Sub (hostPath ++ [Part.tap, Part.store, Part.keys, Part.holly, Part.release, Part.metering, Part.cycle, Part.subGhz, Part.uwb, Part.transponder]) M)
    : Within M z (lifeCycleTakes s target) := by
  unfold lifeCycleTakes
  try dsimp only
  repeat' (first
      | (with_reducible first
          | assumption | exact rfl | intro _ | exact Sub.of (by decide +kernel) hm | exact Or.inr rfl
          | exact Or.inl (Sub.has hm (by decide +kernel)) | apply endSessions_within | apply State.setSlot_within
          | apply clearWorkingKey_within | apply hollyErased_within | apply audit_within | apply within_ite
          | apply within_foldl | apply within_foldl_fst)
      | (simp only [within_mk]; with_reducible apply Within.upd) | split)

theorem lcProceeds_within {M : List Part} {z : State} (s : State) (hs : Within M z s)
    (hm : Sub (hostPath ++ [Part.tap, Part.store, Part.keys, Part.holly, Part.release, Part.metering, Part.cycle, Part.subGhz, Part.uwb, Part.transponder]) M)
    : Within M z (lcProceeds s) := by
  unfold lcProceeds
  try dsimp only
  repeat' (first
      | (with_reducible first
          | assumption | exact rfl | exact Sub.of (by decide +kernel) hm | exact Or.inr rfl
          | exact Or.inl (Sub.has hm (by decide +kernel)) | apply endSessions_within | apply complete_within
          | apply remasksLate_within | apply lifeCycleTakes_within | apply nvRequest_within | apply within_ite)
      | (simp only [within_mk]; with_reducible apply Within.upd) | split)

theorem hollyTakes_within {M : List Part} {z : State} (s : State) (set : HollySet) (hs : Within M z s)
    (hm : Sub [.store, .holly] M) : Within M z (hollyTakes s set) := by
  unfold hollyTakes
  try dsimp only
  repeat' (first
      | (with_reducible first
          | assumption | exact rfl | exact Sub.of (by decide +kernel) hm | exact Or.inr rfl
          | exact Or.inl (Sub.has hm (by decide +kernel)) | apply requestLockCheckpoint_within)
      | (simp only [within_mk]; with_reducible apply Within.upd))

theorem learnTakes_within {M : List Part} {z : State} (s : State) (set : HollySet) (hs : Within M z s) (hm : Sub [.holly] M)
    : Within M z (learnTakes s set) := by
  unfold learnTakes
  try dsimp only
  repeat' (first
      | (with_reducible first
          | assumption | exact rfl | exact Sub.of (by decide +kernel) hm | exact Or.inr rfl
          | exact Or.inl (Sub.has hm (by decide +kernel)) | apply tableReplaced_within | apply within_ite)
      | (simp only [within_mk]; with_reducible apply Within.upd) | split)

theorem unlockTakes_within {M : List Part} {z : State} (s : State) (slot : Option Nat) (hs : Within M z s)
    (hm : Sub [.holly] M) : Within M z (unlockTakes s slot) := by
  unfold unlockTakes
  try dsimp only
  repeat' (first
      | (with_reducible first
          | assumption | exact rfl | exact Sub.of (by decide +kernel) hm | exact Or.inr rfl
          | exact Or.inl (Sub.has hm (by decide +kernel)) | apply setLock_within)
      | (simp only [within_mk]; with_reducible apply Within.upd) | split)

theorem rolloverTakes_within {M : List Part} {z : State} (s : State) (epoch : Nat) (hs : Within M z s)
    (hm : Sub [.release, .metering] M) : Within M z (rolloverTakes s epoch) := by
  unfold rolloverTakes
  try dsimp only
  repeat' (first
      | (with_reducible first
          | assumption | exact rfl | exact Or.inr rfl | exact Or.inl (Sub.has hm (by decide +kernel)))
      | (simp only [within_mk]; with_reducible apply Within.upd))

theorem commitEffect_within {M : List Part} {z : State} (s : State) (e : NvEffect) (hs : Within M z s)
    (hm : Sub (hostPath ++ [Part.held, Part.force, Part.tap, Part.boundary, Part.store, Part.keys, Part.holly, Part.release, Part.metering, Part.cycle, Part.subGhz, Part.uwb, Part.radio, Part.transponder, Part.update]) M)
    : Within M z (commitEffect s e) := by
  unfold commitEffect
  generalize raiseCeilings s.cip.ceilings = rc
  split
  case h_19 => generalize lockItems s = l; repeat' (first | (with_reducible first | assumption | exact rfl | intro _ | exact Sub.of (by decide +kernel) hm | exact Or.inr rfl | exact Or.inl (Sub.has hm (by decide +kernel)) | apply within_ite | apply within_foldl) | (simp only [within_mk]; with_reducible apply Within.upd) | split)
  all_goals try dsimp only
  all_goals
    repeat' (first
        | (with_reducible first
            | assumption | exact rfl | intro _ | exact Sub.of (by decide +kernel) hm | exact Or.inr rfl
            | exact Or.inl (Sub.has hm (by decide +kernel)) | apply auditOverwritten_within | apply State.setStat_within
            | apply complete_within | apply auditCmd_within | apply slotTakes_within | apply lifeCycleTakes_within
            | apply hollyTakes_within | apply learnTakes_within | apply unlockTakes_within | apply rolloverTakes_within
            | apply decide__within | apply receiptStands_within | apply ackTakes_within | apply importStands_within
            | apply passAbort_within | apply importTakes_within | apply remasksLate_within | apply lcProceeds_within
            | apply within_ite | apply within_foldl)
        | (simp only [within_mk]; with_reducible apply Within.upd) | split)

theorem auditDefers_within {M : List Part} {z : State} (s : State) (hs : Within M z s) (hm : Sub [.host, .status] M)
    : Within M z (auditDefers s) := by
  unfold auditDefers
  try dsimp only
  repeat' (first
      | (with_reducible first
          | assumption | exact rfl | exact Sub.of (by decide +kernel) hm | exact Or.inr rfl
          | exact Or.inl (Sub.has hm (by decide +kernel)) | apply State.setStat_within)
      | (simp only [within_mk]; with_reducible apply Within.upd))

theorem deferRequest_within {M : List Part} {z : State} (s : State) (e : NvEffect) (hs : Within M z s)
    (hm : Sub (hostPath ++ [Part.keys, Part.holly, Part.release, Part.metering, Part.cycle, Part.subGhz, Part.uwb, Part.transponder]) M)
    : Within M z (deferRequest s e) := by
  unfold deferRequest
  try dsimp only
  repeat' (first
      | (with_reducible first
          | assumption | exact rfl | intro _ | exact Sub.of (by decide +kernel) hm | exact Or.inr rfl
          | exact Or.inl (Sub.has hm (by decide +kernel)) | apply noteDeferredFor_within | apply complete_within
          | apply remasksLate_within | apply State.setStat_within | apply auditDefers_within | apply refuseReq_within
          | apply within_foldl | apply within_foldl_fst)
      | (simp only [within_mk]; with_reducible apply Within.upd) | split)

theorem commitRequest_within {M : List Part} {z : State} (suppliesOk : Bool) (verifyOk : Bool) (s : State) (hs
    : Within M z s)
    (hm : Sub (hostPath ++ [Part.held, Part.force, Part.tap, Part.boundary, Part.store, Part.keys, Part.holly, Part.release, Part.metering, Part.cycle, Part.subGhz, Part.uwb, Part.radio, Part.transponder, Part.update]) M)
    : Within M z (commitRequest suppliesOk verifyOk s) := by
  unfold commitRequest
  try dsimp only
  repeat' (first
      | (with_reducible first
          | assumption | exact rfl | exact Sub.of (by decide +kernel) hm | exact Or.inr rfl
          | exact Or.inl (Sub.has hm (by decide +kernel)) | apply commitEffect_within | apply noteDeferred_within
          | apply deferRequest_within | apply noteDeferredFor_within | apply importBegun_within | apply markTaken_within
          | refine programItem_within _ _ _ ?_ (Sub.of (by decide +kernel) hm) _ ‹_› | apply within_ite)
      | (simp only [within_mk]; with_reducible apply Within.upd) | split)

theorem auditCommitted_within {M : List Part} {z : State} (s : State) (hs : Within M z s)
    (hm : Sub (hostPath ++ [Part.held, Part.force, Part.tap, Part.boundary, Part.store, Part.keys, Part.holly, Part.release, Part.metering, Part.cycle, Part.subGhz, Part.uwb, Part.radio, Part.transponder, Part.update]) M)
    : Within M z (auditCommitted s) := by
  unfold auditCommitted
  try dsimp only
  repeat' (first
      | (with_reducible first
          | assumption | exact Sub.of (by decide +kernel) hm | apply commitEffect_within | apply programAll_within
          | apply within_ite)
      | split)

theorem writeCopyB_within {M : List Part} {z : State} (s : State) (key : Nat) (verifyOk : Bool) (hs : Within M z s)
    (hm : Sub [.status, .store] M) : ∀ u, writeCopyB s key verifyOk = some u → Within M z u := by
  unfold writeCopyB
  intro u e
  split at e
  · exact programItem_within _ _ _ hs hm u e
  · cases e; exact hs

theorem commitFront_within {M : List Part} {z : State} (suppliesOk : Bool) (verifyOk : Bool) (s : State) (hs : Within M z s)
    (hm : Sub (hostPath ++ [Part.held, Part.force, Part.tap, Part.boundary, Part.store, Part.keys, Part.holly, Part.release, Part.metering, Part.cycle, Part.subGhz, Part.uwb, Part.radio, Part.transponder, Part.update]) M)
    : Within M z (commitFront suppliesOk verifyOk s) := by
  unfold commitFront
  dsimp only
  split
  · split
    · exact noteDeferred_within _ hs (Sub.of (by decide +kernel) hm)
    · split
      · next t e =>
        have ht := writeCopyB_within _ _ _ hs (Sub.of (by decide +kernel) hm) t e
        repeat' (first
            | (with_reducible first
                | assumption | exact rfl | intro _ | exact Sub.of (by decide +kernel) hm | exact Or.inr rfl
                | exact Or.inl (Sub.has hm (by decide +kernel)) | apply within_ite | apply within_foldl)
            | (simp only [within_mk]; with_reducible apply Within.upd) | split)
      · exact hs
  · repeat' (first | (with_reducible first | assumption | exact rfl | intro _ | exact Sub.of (by decide +kernel) hm | exact Or.inr rfl | exact Or.inl (Sub.has hm (by decide +kernel)) | apply copyRecord_within | apply noteDeferred_within | apply within_ite | apply within_foldl) | (simp only [within_mk]; with_reducible apply Within.upd) | split)
  · repeat' (first | (with_reducible first | assumption | exact rfl | intro _ | exact Sub.of (by decide +kernel) hm | exact Or.inr rfl | exact Or.inl (Sub.has hm (by decide +kernel)) | apply commitRequest_within | apply within_ite | apply within_foldl) | (simp only [within_mk]; with_reducible apply Within.upd) | split)

theorem drawMany_within {M : List Part} {z : State} (a0_ : Nat) (a1_ : State) (ha1_ : Within M z a1_)
    (hm : Sub [.status, .nonces] M) : Within M z (drawMany a0_ a1_).2 := by
  induction a0_ generalizing a1_ with
  | zero =>
    unfold drawMany
    try dsimp only
    repeat' (first
        | (with_reducible first
            | assumption | exact Sub.of (by decide +kernel) hm | apply State.draw_within)
        | split)
  | succ k ih =>
    unfold drawMany
    try dsimp only
    repeat' (first
        | (with_reducible first
            | apply ih | assumption | exact Sub.of (by decide +kernel) hm | apply State.draw_within)
        | split)

theorem execNonce_within {M : List Part} {z : State} (tag : Nat) (s : State) (hs : Within M z s)
    (hm : Sub [.rings, .host, .fabric, .status, .output, .nonces] M) (hr : rolesThere s (.nonce tag) = true)
    : AnsWithin M z (execNonce tag s) := by
  unfold execNonce
  rw [inputTo_there hr]
  try dsimp only
  repeat' (first
      | (with_reducible first
          | assumption | intro _ | exact Sub.of (by decide +kernel) hm | apply ringCmdIf_within | apply drawMany_within
          | apply completeData_within | apply ansWithin_next)
      | split)

theorem execPrivetRemask_within {M : List Part} {z : State} (s : State) (hs : Within M z s)
    (hm : Sub [.status, .nonces, .force, .keys] M) : AnsWithin M z (execPrivetRemask s) := by
  unfold execPrivetRemask
  try dsimp only
  repeat' (first
      | (with_reducible first
          | assumption | exact rfl | intro _ | exact Sub.of (by decide +kernel) hm | exact Or.inr rfl
          | exact Or.inl (Sub.has hm (by decide +kernel)) | apply State.when_within | apply applyTiming_within
          | apply remaskSlot_within | apply ansWithin_next | apply within_ite)
      | (simp only [within_mk]; with_reducible apply Within.upd) | split)

theorem runJob_within {M : List Part} {z : State} (s : State) (n : Nat) (blocks : Bool) (hs : Within M z s)
    (hm : Sub [.status, .nonces, .keys] M) : Within M z (runJob s n blocks) := by
  unfold runJob
  try dsimp only
  repeat' (first
      | (with_reducible first
          | assumption | exact Sub.of (by decide +kernel) hm | apply useSlot_within | apply within_ite)
      | split)

theorem encryptRuns_within {M : List Part} {z : State} (d : Desc) (data : Bytes) (s : State) (hs : Within M z s)
    (hm : Sub (ringPath ++ [Part.keys]) M) : Within M z (encryptRuns d data s) := by
  unfold encryptRuns
  try dsimp only
  repeat' (first
      | (with_reducible first
          | assumption | exact Sub.of (by decide +kernel) hm | apply completeData_within | apply runJob_within
          | apply State.draw_within | apply cmdDma_within | apply complete_within)
      | split)

theorem encryptRefused_within {M : List Part} {z : State} (d : Desc) (s : State) (hs : Within M z s) (hm : Sub ringPath M)
    : Within M z (encryptRefused d s) := by
  unfold encryptRefused
  try dsimp only
  repeat' (first
      | (with_reducible first
          | assumption | exact Sub.of (by decide +kernel) hm | apply cmdDma_within | apply complete_within)
      | split)

theorem execEncrypt_within {M : List Part} {z : State} (tag : Nat) (data : Bytes) (s : State) (hs : Within M z s)
    (hm : Sub [.rings, .host, .fabric, .status, .output, .nonces, .keys] M) (hr : rolesThere s (.encrypt tag data) = true)
    : AnsWithin M z (execEncrypt tag data s) := by
  unfold execEncrypt
  rw [inputTo_there hr]
  try dsimp only
  repeat' (first
      | (with_reducible first
          | assumption | intro _ | exact Sub.of (by decide +kernel) hm | apply ringCmdIf_within
          | apply encryptRuns_within | apply encryptRefused_within | apply ansWithin_next | apply within_ite)
      | split)

theorem jobFails_within {M : List Part} {z : State} (s : State) (d : Desc) (status : Nat) (hs : Within M z s)
    (hm : Sub ringPath M) : Within M z (jobFails s d status) := by
  unfold jobFails
  try dsimp only
  repeat' (first
      | (with_reducible first
          | assumption | exact Sub.of (by decide +kernel) hm | apply complete_within | apply cmdDma_within))

theorem execDrbgReseed_within {M : List Part} {z : State} (end_ : Bool) (s : State) (hs : Within M z s)
    (hm : Sub [.status, .nonces, .force, .keys] M) : AnsWithin M z (execDrbgReseed end_ s) := by
  unfold execDrbgReseed
  try dsimp only
  repeat' (first
      | (with_reducible first
          | assumption | exact rfl | intro _ | exact Sub.of (by decide +kernel) hm | exact Or.inr rfl
          | exact Or.inl (Sub.has hm (by decide +kernel)) | apply State.when_within | apply applyTiming_within
          | apply State.setStat_within | apply reseedStarts_within | apply ansWithin_next | apply within_ite)
      | (simp only [within_mk]; with_reducible apply Within.upd) | split)

theorem windowTested_within {M : List Part} {z : State} (s : State) (bits : List Bool) (hs : Within M z s)
    (hm : Sub [.status, .keys] M) : Within M z (windowTested s bits).2 := by
  unfold windowTested
  try dsimp only
  repeat' (first
      | (with_reducible first
          | assumption | exact rfl | exact Sub.of (by decide +kernel) hm | exact Or.inr rfl
          | exact Or.inl (Sub.has hm (by decide +kernel)) | apply State.bump_within | apply within_ite)
      | (simp only [within_mk]; with_reducible apply Within.upd) | split)

theorem startupTested_within {M : List Part} {z : State} (s : State) (bits : List Bool) (hs : Within M z s)
    (hm : Sub [.status, .keys] M) : Within M z (startupTested s bits).2 := by
  unfold startupTested
  suffices h : ∀ (l : List (List Bool)) (a : Bool × State), Within M z a.2 →
      Within M z (l.foldl (fun (a : Bool × State) w => (a.1 || (windowTested a.2 w).1, (windowTested a.2 w).2)) a).2
          from h _ _ hs
  intro l
  induction l with
  | nil => exact fun _ h => h
  | cons w l ih => exact fun a h => ih _ (windowTested_within _ _ h (Sub.of (by decide +kernel) hm))

theorem decryptRuns_within {M : List Part} {z : State} (d : Desc) (data : Bytes) (side : Bytes) (s : State) (hs
    : Within M z s) (hm : Sub (ringPath ++ [Part.keys]) M) : Within M z (decryptRuns d data side s) := by
  unfold decryptRuns
  try dsimp only
  repeat' (first
      | (with_reducible first
          | assumption | exact Sub.of (by decide +kernel) hm | apply completeData_within | apply jobFails_within
          | apply runJob_within | apply complete_within | apply cmdDma_within | apply within_ite)
      | split)

theorem execDecrypt_within {M : List Part} {z : State} (tag : Nat) (data : Bytes) (side : Bytes) (s : State) (hs
    : Within M z s) (hm : Sub [.rings, .host, .fabric, .status, .output, .nonces, .keys] M)
    (hr : rolesThere s (.decrypt tag data side) = true) : AnsWithin M z (execDecrypt tag data side s) := by
  unfold execDecrypt
  rw [inputTo_there hr]
  try dsimp only
  repeat' (first
      | (with_reducible first
          | assumption | intro _ | exact Sub.of (by decide +kernel) hm | apply ringCmdIf_within
          | apply decryptRuns_within | apply complete_within | apply cmdDma_within | apply ansWithin_next
          | apply within_ite)
      | split)

theorem trngFails_within {M : List Part} {z : State} (s : State) (hs : Within M z s)
    (hm : Sub (hostPath ++ [Part.mode, Part.store, Part.power, Part.keys, Part.release, Part.metering, Part.field, Part.cycle, Part.subGhz, Part.uwb, Part.transponder]) M)
    : Within M z (trngFails s) := by
  unfold trngFails
  try dsimp only
  repeat' (first
      | (with_reducible first
          | assumption | exact Sub.of (by decide +kernel) hm | apply enterFailed_within | apply State.raise_within))

theorem execEntropyWindowEnd_within {M : List Part} {z : State} (first : Bool) (rest : List Bool) (s : State) (hs
    : Within M z s)
    (hm : Sub (hostPath ++ [Part.mode, Part.store, Part.power, Part.keys, Part.release, Part.metering, Part.field, Part.cycle, Part.subGhz, Part.uwb, Part.transponder]) M)
    : AnsWithin M z (execEntropyWindowEnd first rest s) := by
  unfold execEntropyWindowEnd
  try dsimp only
  repeat' (first
      | (with_reducible first
          | assumption | intro _ | exact Sub.of (by decide +kernel) hm | exact Or.inr rfl
          | exact Or.inl (Sub.has hm (by decide +kernel)) | apply State.when_within | apply windowTested_within
          | apply State.raise_within | apply trngFails_within | apply reseedStarts_within | apply ansWithin_next
          | apply within_ite)
      | (simp only [within_mk]; with_reducible refine Within.upd ?_ rfl rfl rfl rfl rfl rfl ?_ ?_ ?_ ?_ ?_ ?_ ?_ ?_ ?_ ?_ ?_ ?_ ?_ ?_ ?_ ?_ ?_ ?_ ?_ ?_ ?_ ?_ ?_ ?_ ?_) | split)

theorem execReseedWaitExpiry_within {M : List Part} {z : State} (s : State) (hs : Within M z s)
    (hm : Sub (hostPath ++ [Part.mode, Part.store, Part.power, Part.keys, Part.release, Part.metering, Part.field, Part.cycle, Part.subGhz, Part.uwb, Part.transponder]) M)
    : AnsWithin M z (execReseedWaitExpiry s) := by
  unfold execReseedWaitExpiry
  try dsimp only
  repeat' (first
      | (with_reducible first
          | assumption | intro _ | exact Sub.of (by decide +kernel) hm | apply State.when_within
          | apply trngFails_within | apply ansWithin_next))

theorem issueCounter_within {M : List Part} {z : State} (s : State) (n : Nat) (hs : Within M z s) (hm : Sub [.keys] M)
    : Within M z (issueCounter s n).2 := by
  unfold issueCounter
  try dsimp only
  repeat' (first
      | (with_reducible first
          | assumption | exact rfl | exact Or.inr rfl | exact Or.inl (Sub.has hm (by decide +kernel)))
      | (simp only [within_mk]; with_reducible apply Within.upd))

theorem execTrngStartupTestEnd_within {M : List Part} {z : State} (bits : List Bool) (s : State) (hs : Within M z s)
    (hm : Sub (hostPath ++ [Part.mode, Part.store, Part.power, Part.keys, Part.release, Part.metering, Part.field, Part.cycle, Part.subGhz, Part.uwb, Part.transponder]) M)
    : AnsWithin M z (execTrngStartupTestEnd bits s) := by
  unfold execTrngStartupTestEnd
  try dsimp only
  repeat' (first
      | (with_reducible first
          | assumption | exact rfl | intro _ | exact Sub.of (by decide +kernel) hm | exact Or.inr rfl
          | exact Or.inl (Sub.has hm (by decide +kernel)) | apply State.when_within | apply startupTested_within
          | apply State.bump_within | apply State.setStat_within | apply trngFails_within | apply ansWithin_next
          | apply within_ite)
      | (simp only [within_mk]; with_reducible apply Within.upd) | split)

theorem execCounter_within {M : List Part} {z : State} (tag : Nat) (s : State) (hs : Within M z s)
    (hm : Sub [.rings, .host, .fabric, .status, .output, .nonces, .store, .keys] M)
    (hr : rolesThere s (.counter tag) = true) : AnsWithin M z (execCounter tag s) := by
  unfold execCounter
  rw [inputTo_there hr]
  try dsimp only
  repeat' (first
      | (with_reducible first
          | assumption | intro _ | exact Sub.of (by decide +kernel) hm | apply ringCmdIf_within
          | apply refuseSilent_within | apply issueCounter_within | apply complete_within | apply changeCmd_within
          | apply nvRequest_within | apply markTaken_within | apply ansWithin_next | apply within_ite)
      | split)

theorem execMac_within {M : List Part} {z : State} (tag : Nat) (data : Bytes) (s : State) (hs : Within M z s)
    (hm : Sub [.rings, .host, .fabric, .status, .output, .nonces, .keys] M) (hr : rolesThere s (.mac tag data) = true)
    : AnsWithin M z (execMac tag data s) := by
  unfold execMac
  rw [inputTo_there hr]
  try dsimp only
  repeat' (first
      | (with_reducible first
          | assumption | intro _ | exact Sub.of (by decide +kernel) hm | apply ringCmdIf_within | apply slotCmac_within
          | apply complete_within | apply cmdDma_within | apply ansWithin_next | apply within_ite)
      | split)

theorem keyCtx_within {M : List Part} {z : State} (s : State) (n : Nat) (c : Ctx) (hs : Within M z s)
    (hm : Sub (hostPath ++ [Part.release, Part.cycle, Part.subGhz, Part.uwb]) M) : Within M z (keyCtx s n c) := by
  unfold keyCtx
  try dsimp only
  repeat' (first
      | (with_reducible first
          | assumption | exact rfl | exact Sub.of (by decide +kernel) hm | exact Or.inr rfl
          | exact Or.inl (Sub.has hm (by decide +kernel)) | apply State.setCtx_within | apply endCtx_within
          | apply noteChannels_within | apply cycleCheck_within)
      | (simp only [within_mk]; with_reducible apply Within.upd) | split)

theorem execResponseTimeout_within {M : List Part} {z : State} (s : State) (hs : Within M z s)
    (hm : Sub (hostPath ++ [.release, .cycle, .subGhz, .uwb]) M) (hr : rolesThere s (.responseTimeout) = true)
    : AnsWithin M z (execResponseTimeout s) := by
  unfold execResponseTimeout
  rw [inputTo_there hr]
  try dsimp only
  repeat' (first
      | (with_reducible first
          | assumption | exact Sub.of (by decide +kernel) hm | apply endCtx_within | apply ansWithin_next)
      | split)

theorem execAnnounceWindowOpen_within {M : List Part} {z : State} (s : State) (hs : Within M z s) (hm : Sub [.cycle] M)
    (hr : rolesThere s (.announceWindowOpen) = true) : AnsWithin M z (execAnnounceWindowOpen s) := by
  unfold execAnnounceWindowOpen
  rw [inputTo_there hr]
  try dsimp only
  repeat' (first
      | (with_reducible first
          | assumption | exact rfl | intro _ | exact Sub.of (by decide +kernel) hm | exact Or.inr rfl
          | exact Or.inl (Sub.has hm (by decide +kernel)) | apply State.when_within | apply ansWithin_next)
      | (simp only [within_mk]; with_reducible apply Within.upd))

theorem challengeSent_within {M : List Part} {z : State} (s : State) (n : Nat) (k : Nat) (c : Ctx) (lock : Bool) (us : Nat)
    (hs : Within M z s) (hm : Sub (hostPath ++ [Part.keys, Part.release, Part.cycle, Part.subGhz, Part.uwb]) M)
    : Within M z (challengeSent s n k c lock us) := by
  unfold challengeSent
  try dsimp only
  repeat' (first
      | (with_reducible first
          | assumption | exact rfl | exact Sub.of (by decide +kernel) hm | exact Or.inr rfl
          | exact Or.inl (Sub.has hm (by decide +kernel)) | apply State.draw_within | apply useSlot_within
          | apply State.setCtx_within | apply sgrTransmit_within | apply endCtx_within | apply sgrBusy_within
          | apply sgrHold_within | apply within_ite)
      | (simp only [within_mk]; with_reducible apply Within.upd) | split)

theorem classify_within {M : List Part} {z : State} (s : State) (n : Nat) (c : Ctx) (start10ns : Nat) (mact : Nat) (hs
    : Within M z s) (hm : Sub (hostPath ++ [Part.store, Part.holly, Part.release, Part.cycle, Part.subGhz, Part.uwb]) M)
    : Within M z (classify s n c start10ns mact) := by
  unfold classify
  try dsimp only
  repeat' (first
      | (with_reducible first
          | assumption | exact Sub.of (by decide +kernel) hm | apply endCtx_within | apply thornFailure_within
          | apply keyCtx_within | apply within_ite)
      | split)

theorem execResponseFrame_within {M : List Part} {z : State} (start10ns : Nat) (rssi : Int) (frame : Bytes)
    (complete : Bool) (s : State) (hs : Within M z s)
    (hm : Sub (hostPath ++ [.store, .holly, .release, .cycle, .subGhz, .uwb]) M)
    (hr : rolesThere s (.responseFrame start10ns rssi frame complete) = true)
    : AnsWithin M z (execResponseFrame start10ns rssi frame complete s) := by
  unfold execResponseFrame
  rw [inputTo_there hr]
  try dsimp only
  repeat' (first
      | (with_reducible first
          | assumption | exact Sub.of (by decide +kernel) hm | apply endCtx_within | apply noteRssi_within
          | apply classify_within | apply ansWithin_next | apply within_ite)
      | split)

theorem slotCloses_within {M : List Part} {z : State} (s : State) (hs : Within M z s)
    (hm : Sub (ringPath ++ [Part.cycle, Part.subGhz, Part.uwb]) M) : Within M z (slotCloses s) := by
  unfold slotCloses
  try dsimp only
  repeat' (first
      | (with_reducible first
          | assumption | exact rfl | exact Sub.of (by decide +kernel) hm | exact Or.inr rfl
          | exact Or.inl (Sub.has hm (by decide +kernel)) | apply cycleCheck_within | apply within_ite)
      | (simp only [within_mk]; with_reducible apply Within.upd) | split)

theorem execAnnounceFrame_within {M : List Part} {z : State} (rssi : Int) (frame : Bytes) (s : State) (hs : Within M z s)
    (hm : Sub (hostPath ++ [.release, .cycle, .subGhz, .uwb]) M) (hr : rolesThere s (.announceFrame rssi frame) = true)
    : AnsWithin M z (execAnnounceFrame rssi frame s) := by
  unfold execAnnounceFrame
  rw [inputTo_there hr]
  try dsimp only
  repeat' (first
      | (with_reducible first
          | assumption | exact rfl | intro _ | exact Sub.of (by decide +kernel) hm | exact Or.inr rfl
          | exact Or.inl (Sub.has hm (by decide +kernel)) | apply State.when_within | apply noteRssi_within
          | apply endCtx_within | apply ansWithin_next | apply within_ite)
      | (simp only [within_mk]; with_reducible apply Within.upd) | split)

theorem execSlotEmptyClose_within {M : List Part} {z : State} (s : State) (hs : Within M z s)
    (hm : Sub [.rings, .host, .fabric, .status, .output, .nonces, .cycle, .subGhz, .uwb] M)
    (hr : rolesThere s (.slotEmptyClose) = true) : AnsWithin M z (execSlotEmptyClose s) := by
  unfold execSlotEmptyClose
  rw [inputTo_there hr]
  try dsimp only
  repeat' (first
      | (with_reducible first
          | assumption | intro _ | exact Sub.of (by decide +kernel) hm | apply State.when_within
          | apply slotCloses_within | apply ansWithin_next))

theorem execSlotGuardEnd_within {M : List Part} {z : State} (s : State) (hs : Within M z s)
    (hm : Sub [.rings, .host, .fabric, .status, .output, .nonces, .cycle, .subGhz, .uwb] M)
    (hr : rolesThere s (.slotGuardEnd) = true) : AnsWithin M z (execSlotGuardEnd s) := by
  unfold execSlotGuardEnd
  rw [inputTo_there hr]
  try dsimp only
  repeat' (first
      | (with_reducible first
          | assumption | intro _ | exact Sub.of (by decide +kernel) hm | apply State.when_within
          | apply slotCloses_within | apply ansWithin_next))

theorem execChallengeTurn_within {M : List Part} {z : State} (ctx : Nat) (lock : Bool) (s : State) (hs : Within M z s)
    (hm : Sub (hostPath ++ [.keys, .release, .cycle, .subGhz, .uwb]) M) (hr : rolesThere s (.challengeTurn ctx lock) = true)
    : AnsWithin M z (execChallengeTurn ctx lock s) := by
  unfold execChallengeTurn
  rw [inputTo_there hr]
  try dsimp only
  repeat' (first
      | (with_reducible first
          | assumption | intro _ | exact Sub.of (by decide +kernel) hm | apply State.when_within | apply endCtx_within
          | apply challengeSent_within | refine sgrRefusal_within _ _ ?_ (Sub.of (by decide +kernel) hm) _ ‹_›
          | apply ansWithin_next | apply within_ite)
      | split)

theorem hollyCmd_within {M : List Part} {z : State} (op : Nat) (tag : Nat) (form : Desc → Bool) (written : Desc → Nat)
    (f : Desc → State → State) (s : State) (hf : ∀ (v0 : Desc) (v1 : State), Within M z v1 → Within M z (f v0 v1)) (hs
    : Within M z s) (hm : Sub ringPath M) : Within M z (hollyCmd op tag form written f s) := by
  unfold hollyCmd
  try dsimp only
  repeat' (first
      | (with_reducible first
          | assumption | intro _ | exact Sub.of (by decide +kernel) hm | apply ringCmdIf_within
          | apply refuseSilent_within | apply hform | apply hwritten | apply hf | apply within_ite)
      | split)

theorem hollyChange_within {M : List Part} {z : State} (op : Nat) (tag : Nat) (form : Desc → Bool)
    (f : Desc → State → State) (s : State) (hf : ∀ (v0 : Desc) (v1 : State), Within M z v1 → Within M z (f v0 v1)) (hs
    : Within M z s) (hm : Sub ringPath M) : Within M z (hollyChange op tag form f s) := by
  unfold hollyChange
  try dsimp only
  repeat' (first
      | (with_reducible first
          | assumption | intro _ | exact Sub.of (by decide +kernel) hm | apply hollyCmd_within | apply changeCmd_within
          | apply hform | apply hf))

theorem execLearnEntries_within {M : List Part} {z : State} (tag : Nat) (data : Bytes) (s : State) (hs : Within M z s)
    (hm : Sub (ringPath ++ [Part.holly]) M) : AnsWithin M z (execLearnEntries tag data s) := by
  unfold execLearnEntries
  try dsimp only
  repeat' (first
      | (with_reducible first
          | assumption | exact rfl | intro _ | exact Sub.of (by decide +kernel) hm | exact Or.inr rfl
          | exact Or.inl (Sub.has hm (by decide +kernel)) | apply hollyChange_within | apply complete_within
          | apply auditCmd_within | apply ansWithin_next | apply within_ite)
      | (simp only [within_mk]; with_reducible apply Within.upd) | split)

theorem execUnlock_within {M : List Part} {z : State} (tag : Nat) (s : State) (hs : Within M z s)
    (hm : Sub (hostPath ++ [Part.held, Part.force, Part.tap, Part.boundary, Part.store, Part.keys, Part.holly, Part.release, Part.metering, Part.cycle, Part.subGhz, Part.uwb, Part.radio, Part.transponder, Part.update]) M)
    : AnsWithin M z (execUnlock tag s) := by
  unfold execUnlock
  try dsimp only
  repeat' (first
      | (with_reducible first
          | assumption | intro _ | exact Sub.of (by decide +kernel) hm | apply hollyChange_within
          | apply commitEffect_within | apply nvRequest_within | apply markTaken_within | apply ansWithin_next
          | apply within_ite)
      | split)

theorem requestTable_within {M : List Part} {z : State} (tag : Nat) (op : Nat) (h : HollySlot) (s : State) (hs
    : Within M z s) (hm : Sub (ringPath ++ [Part.store]) M) : Within M z (requestTable tag op h s) := by
  unfold requestTable
  try dsimp only
  repeat' (first
      | (with_reducible first
          | assumption | exact Sub.of (by decide +kernel) hm | apply nvRequest_within | apply markTaken_within
          | apply complete_within)
      | split)

theorem execEnroll_within {M : List Part} {z : State} (tag : Nat) (data : Bytes) (s : State) (hs : Within M z s)
    (hm : Sub (ringPath ++ [Part.store]) M) : AnsWithin M z (execEnroll tag data s) := by
  unfold execEnroll
  try dsimp only
  repeat' (first
      | (with_reducible first
          | assumption | intro _ | exact Sub.of (by decide +kernel) hm | apply hollyChange_within
          | apply requestTable_within | apply ansWithin_next))

theorem execDigest_within {M : List Part} {z : State} (tag : Nat) (s : State) (hs : Within M z s) (hm : Sub ringPath M)
    : AnsWithin M z (execDigest tag s) := by
  unfold execDigest
  try dsimp only
  repeat' (first
      | (with_reducible first
          | assumption | intro _ | exact Sub.of (by decide +kernel) hm | apply hollyCmd_within
          | apply completeData_within | apply ansWithin_next))

theorem execLearnBegin_within {M : List Part} {z : State} (tag : Nat) (s : State) (hs : Within M z s)
    (hm : Sub (ringPath ++ [Part.holly]) M) : AnsWithin M z (execLearnBegin tag s) := by
  unfold execLearnBegin
  try dsimp only
  repeat' (first
      | (with_reducible first
          | assumption | exact rfl | intro _ | exact Sub.of (by decide +kernel) hm | exact Or.inr rfl
          | exact Or.inl (Sub.has hm (by decide +kernel)) | apply hollyChange_within | apply complete_within
          | apply auditCmd_within | apply ansWithin_next | apply within_ite)
      | (simp only [within_mk]; with_reducible apply Within.upd) | split)

theorem execLearnCancel_within {M : List Part} {z : State} (tag : Nat) (s : State) (hs : Within M z s)
    (hm : Sub (ringPath ++ [Part.store, Part.holly]) M) : AnsWithin M z (execLearnCancel tag s) := by
  unfold execLearnCancel
  try dsimp only
  repeat' (first
      | (with_reducible first
          | assumption | exact rfl | intro _ | exact Sub.of (by decide +kernel) hm | exact Or.inr rfl
          | exact Or.inl (Sub.has hm (by decide +kernel)) | apply hollyChange_within | apply complete_within
          | apply auditCmd_within | apply requestTable_within | apply ansWithin_next | apply within_ite)
      | (simp only [within_mk]; with_reducible apply Within.upd) | split)

theorem execUnknownLockoutEnd_within {M : List Part} {z : State} (s : State) (hs : Within M z s) (hm : Sub [] M)
    (hr : rolesThere s (.unknownLockoutEnd) = true) : AnsWithin M z (execUnknownLockoutEnd s) := by
  unfold execUnknownLockoutEnd
  rw [inputTo_there hr]
  try dsimp only
  repeat' (first | (with_reducible first | assumption | apply ansWithin_next))

theorem execLockoutEnd_within {M : List Part} {z : State} (slot : Nat) (s : State) (hs : Within M z s) (hm : Sub [] M)
    (hr : rolesThere s (.lockoutEnd slot) = true) : AnsWithin M z (execLockoutEnd slot s) := by
  unfold execLockoutEnd
  rw [inputTo_there hr]
  try dsimp only
  repeat' (first | (with_reducible first | assumption | apply ansWithin_next))

theorem execFind_within {M : List Part} {z : State} (tag : Nat) (s : State) (hs : Within M z s) (hm : Sub ringPath M)
    : AnsWithin M z (execFind tag s) := by
  unfold execFind
  try dsimp only
  repeat' (first
      | (with_reducible first
          | assumption | intro _ | exact Sub.of (by decide +kernel) hm | apply hollyCmd_within | apply complete_within
          | apply ansWithin_next)
      | split)

theorem execLearnCommit_within {M : List Part} {z : State} (tag : Nat) (data : Bytes) (s : State) (hs : Within M z s)
    (hm : Sub (ringPath ++ [Part.store, Part.holly]) M) : AnsWithin M z (execLearnCommit tag data s) := by
  unfold execLearnCommit
  try dsimp only
  repeat' (first
      | (with_reducible first
          | assumption | exact rfl | intro _ | exact Sub.of (by decide +kernel) hm | exact Or.inr rfl
          | exact Or.inl (Sub.has hm (by decide +kernel)) | apply hollyChange_within | apply complete_within
          | apply nvRequest_within | apply markTaken_within | apply ansWithin_next | apply within_ite)
      | (simp only [within_mk]; with_reducible apply Within.upd) | split)

theorem execReadSlot_within {M : List Part} {z : State} (tag : Nat) (s : State) (hs : Within M z s) (hm : Sub ringPath M)
    : AnsWithin M z (execReadSlot tag s) := by
  unfold execReadSlot
  try dsimp only
  repeat' (first
      | (with_reducible first
          | assumption | intro _ | exact Sub.of (by decide +kernel) hm | apply hollyCmd_within
          | apply completeData_within | apply complete_within | apply ansWithin_next | apply within_ite)
      | split)

theorem execLearnedSetEffective_within {M : List Part} {z : State} (s : State) (hs : Within M z s) (hm : Sub [.holly] M)
    : AnsWithin M z (execLearnedSetEffective s) := by
  unfold execLearnedSetEffective
  try dsimp only
  repeat' (first
      | (with_reducible first
          | assumption | intro _ | exact Sub.of (by decide +kernel) hm | apply State.when_within
          | apply tableReplaced_within | apply ansWithin_next)
      | split)

theorem execRevoke_within {M : List Part} {z : State} (tag : Nat) (s : State) (hs : Within M z s)
    (hm : Sub (ringPath ++ [Part.store]) M) : AnsWithin M z (execRevoke tag s) := by
  unfold execRevoke
  try dsimp only
  repeat' (first
      | (with_reducible first
          | assumption | intro _ | exact Sub.of (by decide +kernel) hm | apply hollyChange_within
          | apply requestTable_within | apply ansWithin_next))

theorem execLockoutCheckpoint_within {M : List Part} {z : State} (s : State) (hs : Within M z s) (hm : Sub [.store] M)
    (hr : rolesThere s (.lockoutCheckpoint) = true) : AnsWithin M z (execLockoutCheckpoint s) := by
  unfold execLockoutCheckpoint
  rw [inputTo_there hr]
  try dsimp only
  repeat' (first
      | (with_reducible first
          | assumption | intro _ | exact Sub.of (by decide +kernel) hm | apply State.when_within
          | apply requestLockCheckpoint_within | apply ansWithin_next))

end Sys2Proof.Machine
end

