-- ==== Sys2Proof/Laws/WithinHost.lean ====
section
/-! SUPPORT. What each definition keeps and where it may write (Laws/Within.lean): the host interface, the keys,
metering, the store and messages. -/
namespace Sys2Proof.Machine

set_option Elab.async false

theorem linkLost_within {M : List Part} {z : State} (s : State) (pos : Nat) (cls : Nat) (hs : Within M z s)
    (hm : Sub (sendPath ++ [Part.host]) M) : Within M z (linkLost s pos cls) := by
  unfold linkLost
  try dsimp only
  repeat' (first
      | (with_reducible first
          | assumption | exact Sub.of (by decide +kernel) hm | apply State.setLink_within | apply signalError_within
          | apply State.raise_within | apply within_ite)
      | split)

theorem resendAll_within {M : List Part} {z : State} (s : State) (pos : Nat) (cls : Nat) (hs : Within M z s)
    (hm : Sub sendPath M) : Within M z (resendAll s pos cls) := by
  unfold resendAll
  try dsimp only
  repeat' (first
      | (with_reducible first
          | assumption | intro _ | exact Sub.of (by decide +kernel) hm | apply proxyTransmit_within | apply within_foldl
          | apply within_foldl_fst))

theorem rtoPassed_within {M : List Part} {z : State} (s : State) (pos : Nat) (cls : Nat) (hs : Within M z s)
    (hm : Sub (sendPath ++ [Part.host]) M) : Within M z (rtoPassed s pos cls) := by
  unfold rtoPassed
  try dsimp only
  repeat' (first
      | (with_reducible first
          | assumption | exact Sub.of (by decide +kernel) hm | apply linkLost_within | apply State.setLink_within
          | apply resendAll_within | apply within_ite)
      | split)

theorem sendReadReq_within {M : List Part} {z : State} (s : State) (ring : Nat) (tag : Option Nat) (addr : Nat) (len : Nat)
    (hs : Within M z s) (hm : Sub (sendPath ++ [Part.host]) M) : Within M z (sendReadReq s ring tag addr len) := by
  unfold sendReadReq
  try dsimp only
  repeat' (first
      | (with_reducible first
          | assumption | exact rfl | exact Sub.of (by decide +kernel) hm | exact Or.inr rfl
          | exact Or.inl (Sub.has hm (by decide +kernel)) | apply proxySend_within)
      | (simp only [within_mk]; with_reducible apply Within.upd))

theorem readHost_within {M : List Part} {z : State} (a0_ : Nat) (a1_ : State) (a2_ : Nat) (a3_ : Option Nat) (a4_ : Nat)
    (a5_ : Nat) (ha1_ : Within M z a1_) (hm : Sub (sendPath ++ [Part.host]) M)
    : Within M z (readHost a0_ a1_ a2_ a3_ a4_ a5_) := by
  induction a0_ generalizing a1_ a2_ a3_ a4_ a5_ with
  | zero =>
    unfold readHost
    try dsimp only
    repeat' (first
        | (with_reducible first
            | assumption | exact Sub.of (by decide +kernel) hm | apply sendReadReq_within | apply within_ite)
        | split)
  | succ k ih =>
    unfold readHost
    try dsimp only
    repeat' (first
        | (with_reducible first
            | apply ih | assumption | exact Sub.of (by decide +kernel) hm | apply sendReadReq_within | apply within_ite)
        | split)

theorem hostRead_within {M : List Part} {z : State} (s : State) (ring : Nat) (tag : Option Nat) (addr : Nat) (len : Nat) (hs
    : Within M z s) (hm : Sub (sendPath ++ [Part.host]) M) : Within M z (hostRead s ring tag addr len) := by
  unfold hostRead
  try dsimp only
  repeat' (first
      | (with_reducible first
          | assumption | exact Sub.of (by decide +kernel) hm | apply readHost_within | apply within_ite)
      | split)

theorem readsFollow_within {M : List Part} {z : State} (s : State) (n : Nat) (d : Desc) (hs : Within M z s)
    (hm : Sub (sendPath ++ [Part.host]) M) : Within M z (readsFollow s n d) := by
  unfold readsFollow
  try dsimp only
  repeat' (first
      | (with_reducible first
          | assumption | exact Sub.of (by decide +kernel) hm | apply hostRead_within | apply within_ite)
      | split)

theorem descFetched_within {M : List Part} {z : State} (n : Nat) (d : Desc) (s : State) (hs : Within M z s)
    (hf : mayFetch s n = true)
    (hm : Sub ringPath M) :
    Within M z (descFetched n d s) := by
  unfold descFetched
  dsimp only
  simp only [mayFetch, Bool.and_eq_true, decide_eq_true_eq] at hf
  have key : ∀ l : List Outst, l.length ≤ 1 → Within M z (s.setRing n
      { s.ring n with
        sqHead := ((s.ring n).sqHead + 1) % 2 ^ (s.ring n).sqk, outstanding := (s.ring n).outstanding ++ l }) := fun l hl =>
    State.setRing_within _ _ _ hs (Sub.of (by decide +kernel) hm) fun a => by
      obtain ⟨h1, h2, h3, h4, h5, h6, h7, h8, h9, h10, h11, h12⟩ := hs.keeps.rings a n
      refine ⟨h1, h2, h3, h4, h5, h6, h7, h8, h9, h10, ?_, fun e => ?_⟩
      · have h64 : (openDescs (s.ring n)).length < 64 := by omega
        have := List.length_filter_le (fun o : Outst => !o.orphan) l
        simp only [openDescs, List.filter_append, List.length_append] at h64 ⊢
        omega
      · obtain ⟨_, h13, h14, h15⟩ := h12 e
        exact ⟨Nat.mod_lt _ (Nat.two_pow_pos _), h13, h14, h15⟩
  split
  · refine writeCompletion_within _ _ _ _ _ _ (hostRead_within _ _ _ _ _ (key _ (by simp)) ?_) ?_
    all_goals exact Sub.of (by decide +kernel) hm
  · refine readsFollow_within _ _ _ (hostRead_within _ _ _ _ _ (key _ (by simp)) ?_) ?_
    all_goals exact Sub.of (by decide +kernel) hm

theorem acceptDoorbell_within {M : List Part} {z : State} (n : Nat) (kind : Nat) (value : Nat) (s : State) (hs
    : Within M z s) (hm : Sub [.rings] M) : Within M z (acceptDoorbell n kind value s) := by
  unfold acceptDoorbell
  dsimp only
  apply within_ite hs
  have err : ∀ e : Nat, Within M z (s.setRing n { s.ring n with err := e }) := fun e =>
    State.setRing_within _ _ _ hs (Sub.of (by decide +kernel) hm) fun a => by
      obtain ⟨h1, h2, h3, h4, h5, h6, h7, h8, h9, h10, h11, h12⟩ := hs.keeps.rings a n
      exact ⟨h1, h2, h3, h4, h5, h6, h7, h8, h9, h10, h11, h12⟩
  by_cases hb : (decide (2 ^ (if kind = 0 then (s.ring n).sqk else (s.ring n).cqk) ≤ value) ||
      (s.ring n).phase == .disabled) = true
  · rw [if_pos hb]
    exact err _
  · rw [if_neg hb]
    simp only [Bool.or_eq_true, decide_eq_true_eq, beq_iff_eq, not_or, Nat.not_le] at hb
    obtain ⟨hb, hd⟩ := hb
    by_cases hk : kind = 0
    · rw [if_pos hk] at hb ⊢
      exact State.setRing_within _ _ _ hs (Sub.of (by decide +kernel) hm) fun a => by
        obtain ⟨h1, h2, h3, h4, h5, h6, h7, h8, h9, h10, h11, h12⟩ := hs.keeps.rings a n
        obtain ⟨h13, h14, h15, h16⟩ := h12 hd
        exact ⟨h1, h2, h3, h4, h5, h6, h7, h8, h9, h10, h11, fun _ => ⟨h13, hb, h15, h16⟩⟩
    · rw [if_neg hk] at hb ⊢
      exact State.setRing_within _ _ _ hs (Sub.of (by decide +kernel) hm) fun a => by
        obtain ⟨h1, h2, h3, h4, h5, h6, h7, h8, h9, h10, h11, h12⟩ := hs.keeps.rings a n
        obtain ⟨h13, h14, h15, h16⟩ := h12 hd
        exact ⟨h1, h2, h3, h4, h5, h6, h7, h8, h9, h10, h11, fun _ => ⟨h13, h14, h15, hb⟩⟩

theorem ringReset_within {M : List Part} {z : State} (s : State) (n : Nat) (hs : Within M z s)
    (hm : Sub (ringPath ++ [Part.store, Part.power, Part.keys, Part.holly, Part.subGhz, Part.transponder, Part.update]) M)
    : Within M z (ringReset s n) := by
  unfold ringReset
  dsimp only
  have h : Within M z (((s.ring n).outstanding.filter (fun o => !o.past)).foldl (fun s o => cancelWork n o.desc.tag s) s) :=
    within_foldl (fun t b ht => cancelWork_within _ _ _ ht (Sub.of (by decide +kernel) hm)) _ _ hs
  generalize ((s.ring n).outstanding.filter (fun o => !o.past)).foldl (fun s o => cancelWork n o.desc.tag s) s = t at h ⊢
  exact State.setRing_within _ _ _ h (Sub.of (by decide +kernel) hm) fun a => by
    obtain ⟨h1, h2, h3, h4, h5, h6, h7, h8, h9, h10, h11, h12⟩ := h.keeps.rings a n
    refine ⟨h1, h2, h3, h4, h5, h6, h7, h8, h9, h10, ?_, fun e => absurd rfl e⟩
    have : ∀ l : List Outst, (l.map (fun o => { o with orphan := true })).filter (fun o => !o.orphan) = [] := by
      intro l; induction l <;> simp_all
    simp [openDescs, this]

theorem proxyAcked_within {M : List Part} {z : State} (s : State) (pos : Nat) (cls : Nat) (ack : Nat) (hs : Within M z s)
    (hm : Sub (sendPath ++ [Part.host]) M) : Within M z (proxyAcked s pos cls ack) := by
  unfold proxyAcked
  try dsimp only
  repeat' (first
      | (with_reducible first
          | assumption | exact Sub.of (by decide +kernel) hm | apply proxyDrain_within | apply State.setLink_within))

theorem sendAck_within {M : List Part} {z : State} (s : State) (pos : Nat) (cls : Nat) (hs : Within M z s)
    (hm : Sub sendPath M) : Within M z (sendAck s pos cls) := by
  unfold sendAck
  try dsimp only
  repeat' (first | (with_reducible first | assumption | exact Sub.of (by decide +kernel) hm | apply proxyTransmit_within))

theorem proxyTake_within {M : List Part} {z : State} (pos : Nat) (cls : Nat) (seq : Nat) (ack : Nat) (f : State → State)
    (s : State) (hf : ∀ (v0 : State), Within M z v0 → Within M z (f v0)) (hs : Within M z s)
    (hm : Sub (sendPath ++ [Part.host]) M) : Within M z (proxyTake pos cls seq ack f s) := by
  unfold proxyTake
  try dsimp only
  repeat' (first
      | (with_reducible first
          | assumption | exact Sub.of (by decide +kernel) hm | apply proxyAcked_within | apply State.setLink_within
          | apply sendAck_within | apply hf | apply within_ite)
      | split)

theorem ringFails_within {M : List Part} {z : State} (n errBit : Nat) (s : State) (hs : Within M z s)
    (hd : (s.ring n).phase ≠ .disabled)
    (hm : Sub ringPath M) :
    Within M z (ringFails n errBit s) := by
  unfold ringFails
  dsimp only
  have key : Within M z (s.setRing n { s.ring n with phase := .error, err := setBit (s.ring n).err errBit }) :=
    State.setRing_within _ _ _ hs (Sub.of (by decide +kernel) hm) fun a => by
      obtain ⟨h1, h2, h3, h4, h5, h6, h7, h8, h9, h10, h11, h12⟩ := hs.keeps.rings a n
      exact ⟨h1, h2, h3, h4, h5, h6, h7, h8, h9, h10, h11, fun _ => h12 hd⟩
  split
  · exact signalError_within _ key (Sub.of (by decide +kernel) hm)
  · exact key

theorem unstall_within {M : List Part} {z : State} (s : State) (e : Bool × Nat × Bytes) (hs : Within M z s)
    (hm : Sub [.host, .output] M) : Within M z (unstall s e) := by
  unfold unstall
  try dsimp only
  repeat' (first
      | (with_reducible first
          | assumption | exact Sub.of (by decide +kernel) hm | apply State.emit_within | apply signalHead_within
          | apply within_ite)
      | split)

theorem pcieReadsFuel_within {M : List Part} {z : State} (a0_ : Nat) (a1_ : State) (a2_ : Nat) (a3_ : Nat) (ha1_
    : Within M z a1_) (hm : Sub [.output] M) : Within M z (pcieReadsFuel a0_ a1_ a2_ a3_) := by
  induction a0_ generalizing a1_ a2_ a3_ with
  | zero =>
    unfold pcieReadsFuel
    try dsimp only
    repeat' (first
        | (with_reducible first
            | assumption | exact Sub.of (by decide +kernel) hm | apply State.emit_within | apply within_ite)
        | split)
  | succ k ih =>
    unfold pcieReadsFuel
    try dsimp only
    repeat' (first
        | (with_reducible first
            | apply ih | assumption | exact Sub.of (by decide +kernel) hm | apply State.emit_within | apply within_ite)
        | split)

theorem regWriteOn_within {M : List Part} {z : State} (s : State) (pos : Nat) (off : Nat) (value : Nat) (hs : Within M z s)
    (hm : Sub (sendPath ++ [Part.host]) M) : Within M z (regWriteOn s pos off value) := by
  unfold regWriteOn
  try dsimp only
  repeat' (first
      | (with_reducible first
          | assumption | exact rfl | exact Sub.of (by decide +kernel) hm | exact Or.inr rfl
          | exact Or.inl (Sub.has hm (by decide +kernel)) | apply State.raise_within | apply proxySend_within
          | apply within_ite)
      | (simp only [within_mk]; with_reducible apply Within.upd) | split)

theorem badRead_within {M : List Part} {z : State} (s : State) (hs : Within M z s) (hm : Sub [.status, .output] M)
    : Within M z (badRead s) := by
  unfold badRead
  try dsimp only
  repeat' (first
      | (with_reducible first
          | assumption | exact Sub.of (by decide +kernel) hm | apply State.emit_within | apply State.raise_within))

theorem bufferFails_within {M : List Part} {z : State} (n : Nat) (tag : Nat) (s : State) (hs : Within M z s)
    (hm : Sub (ringPath ++ [Part.store, Part.power, Part.keys, Part.holly, Part.subGhz, Part.transponder, Part.update]) M)
    : Within M z (bufferFails n tag s) := by
  unfold bufferFails
  try dsimp only
  repeat' (first
      | (with_reducible first
          | assumption | exact Sub.of (by decide +kernel) hm | apply complete_within | apply cancelWork_within
          | apply within_ite)
      | split)

theorem readFails_within {M : List Part} {z : State} (failed : Bool) (n : Nat) (e : HostRead) (s : State) (hs
    : Within M z s)
    (hm : Sub (ringPath ++ [Part.store, Part.power, Part.keys, Part.holly, Part.subGhz, Part.transponder, Part.update]) M)
    : Within M z (readFails failed n e s) := by
  unfold readFails
  split
  · split
    · split
      · next hp => exact ringFails_within _ _ _ hs (by simp_all) (Sub.of (by decide +kernel) hm)
      · exact hs
    · exact bufferFails_within _ _ _ hs (Sub.of (by decide +kernel) hm)
  · exact hs

theorem bar0Write_within {M : List Part} {z : State} (off : Nat) (value : Nat) (s : State) (hs : Within M z s)
    (hm : Sub (hostPath ++ [Part.mode, Part.held, Part.force, Part.nvwp, Part.tap, Part.boundary, Part.store, Part.power, Part.keys, Part.holly, Part.release, Part.metering, Part.field, Part.cycle, Part.subGhz, Part.uwb, Part.radio, Part.transponder, Part.update]) M)
    : Within M z (bar0Write off value s) := by
  unfold bar0Write
  try dsimp only
  repeat' (first
      | (with_reducible first
          | assumption | exact Sub.of (by decide +kernel) hm | apply registerWritten_within | apply State.raise_within
          | apply within_ite)
      | split)

theorem doorbellOn_within {M : List Part} {z : State} (s : State) (pos : Nat) (n : Nat) (kind : Nat) (value : Nat) (hs
    : Within M z s) (hm : Sub (sendPath ++ [Part.host]) M) : Within M z (doorbellOn s pos n kind value) := by
  unfold doorbellOn
  try dsimp only
  repeat' (first
      | (with_reducible first
          | assumption | exact Sub.of (by decide +kernel) hm | apply State.setLink_within | apply proxySend_within
          | apply within_ite)
      | split)

theorem doorbellWritten_within {M : List Part} {z : State} (pos : Nat) (n : Nat) (kind : Nat) (value : Nat) (s : State) (hs
    : Within M z s) (hm : Sub ringPath M) : Within M z (doorbellWritten pos n kind value s) := by
  unfold doorbellWritten
  try dsimp only
  repeat' (first
      | (with_reducible first
          | assumption | exact Sub.of (by decide +kernel) hm | apply acceptDoorbell_within | apply doorbellOn_within
          | apply State.raise_within | apply within_ite)
      | split)

theorem bar0Read_within {M : List Part} {z : State} (off : Nat) (s : State) (hs : Within M z s)
    (hm : Sub [.fabric, .status, .output, .metering, .uwb] M) : Within M z (bar0Read off s) := by
  unfold bar0Read
  try dsimp only
  repeat' (first
      | (with_reducible first
          | assumption | exact Sub.of (by decide +kernel) hm | apply answerRead_within | apply badRead_within
          | apply within_ite)
      | split)

theorem regReadOn_within {M : List Part} {z : State} (s : State) (pos : Nat) (off : Nat) (hs : Within M z s)
    (hm : Sub (sendPath ++ [Part.host]) M) : Within M z (regReadOn s pos off) := by
  unfold regReadOn
  try dsimp only
  repeat' (first
      | (with_reducible first
          | assumption | exact rfl | exact Sub.of (by decide +kernel) hm | exact Or.inr rfl
          | exact Or.inl (Sub.has hm (by decide +kernel)) | apply proxySend_within)
      | (simp only [within_mk]; with_reducible apply Within.upd))

theorem pcieReads_within {M : List Part} {z : State} (s : State) (addr : Nat) (len : Nat) (hs : Within M z s)
    (hm : Sub [.output] M) : Within M z (pcieReads s addr len) := by
  unfold pcieReads
  try dsimp only
  repeat' (first | (with_reducible first | assumption | exact Sub.of (by decide +kernel) hm | apply pcieReadsFuel_within))

theorem readAnswered_within {M : List Part} {z : State} (s : State) (req : Nat) (value : Nat) (hs : Within M z s)
    (hm : Sub [.host, .output] M) : Within M z (readAnswered s req value) := by
  unfold readAnswered
  try dsimp only
  repeat' (first
      | (with_reducible first
          | assumption | exact rfl | exact Sub.of (by decide +kernel) hm | exact Or.inr rfl
          | exact Or.inl (Sub.has hm (by decide +kernel)) | apply State.emit_within)
      | (simp only [within_mk]; with_reducible apply Within.upd))

theorem bar4Read_within {M : List Part} {z : State} (pos : Nat) (off : Nat) (s : State) (hs : Within M z s)
    (hm : Sub (sendPath ++ [Part.host, Part.metering, Part.uwb]) M) : Within M z (bar4Read pos off s) := by
  unfold bar4Read
  try dsimp only
  repeat' (first
      | (with_reducible first
          | assumption | exact Sub.of (by decide +kernel) hm | apply bar0Read_within | apply badRead_within
          | apply State.emit_within | apply State.raise_within | apply regReadOn_within | apply within_ite)
      | split)

theorem bar2Write_within {M : List Part} {z : State} (word : Bool) (pos : Nat) (n : Nat) (kind : Nat) (value : Nat)
    (s : State) (hs : Within M z s) (hm : Sub ringPath M) : Within M z (bar2Write word pos n kind value s) := by
  unfold bar2Write
  try dsimp only
  repeat' (first
      | (with_reducible first
          | assumption | exact Sub.of (by decide +kernel) hm | apply doorbellWritten_within | apply State.raise_within
          | apply within_ite)
      | split)

theorem bar4Write_within {M : List Part} {z : State} (pos : Nat) (off : Nat) (value : Nat) (s : State) (hs : Within M z s)
    (hm : Sub (hostPath ++ [Part.mode, Part.held, Part.force, Part.nvwp, Part.tap, Part.boundary, Part.store, Part.power, Part.keys, Part.holly, Part.release, Part.metering, Part.field, Part.cycle, Part.subGhz, Part.uwb, Part.radio, Part.transponder, Part.update]) M)
    : Within M z (bar4Write pos off value s) := by
  unfold bar4Write
  try dsimp only
  repeat' (first
      | (with_reducible first
          | assumption | exact Sub.of (by decide +kernel) hm | apply bar0Write_within | apply State.raise_within
          | apply regWriteOn_within | apply within_ite)
      | split)

theorem execInterruptCoalesceExpiry_within {M : List Part} {z : State} (ring : Nat) (s : State) (hs : Within M z s)
    (hm : Sub [.rings, .host, .fabric, .status, .output, .nonces] M)
    (hr : rolesThere s (.interruptCoalesceExpiry ring) = true) : AnsWithin M z (execInterruptCoalesceExpiry ring s) := by
  unfold execInterruptCoalesceExpiry
  rw [inputTo_there hr]
  apply ansWithin_next
  refine State.when_within _ _ _ (fun s hs => ?_) hs (Sub.of (by decide +kernel) hm)
  refine signal_within _ _ _ ?_ (Sub.of (by decide +kernel) hm)
  exact State.setRing_within _ _ _ hs (Sub.of (by decide +kernel) hm) fun a => by
    obtain ⟨h1, h2, h3, h4, h5, h6, h7, h8, h9, h10, h11, h12⟩ := hs.keeps.rings a ring
    exact ⟨h1, h2, h3, h4, h5, h6, h7, h8, h9, h10, h11, h12⟩

theorem execProxyAck_within {M : List Part} {z : State} (pos : Nat) (cls : Nat) (ack : Nat) (s : State) (hs : Within M z s)
    (hm : Sub [.host, .fabric, .status, .output, .nonces] M) (hr : rolesThere s (.proxyAck pos cls ack) = true)
    : AnsWithin M z (execProxyAck pos cls ack s) := by
  unfold execProxyAck
  rw [inputTo_there hr]
  try dsimp only
  repeat' (first
      | (with_reducible first
          | assumption | intro _ | exact Sub.of (by decide +kernel) hm | apply State.when_within
          | apply proxyAcked_within | apply ansWithin_next))

theorem execPcieDmaError_within {M : List Part} {z : State} (ring : Nat) (kind : Nat) (tag : Nat) (s : State) (hs
    : Within M z s)
    (hm : Sub (ringPath ++ [Part.store, Part.power, Part.keys, Part.holly, Part.subGhz, Part.transponder, Part.update]) M)
    : AnsWithin M z (execPcieDmaError ring kind tag s) := by
  unfold execPcieDmaError
  apply ansWithin_next
  unfold State.when
  dsimp only
  apply within_ite _ hs
  split
  · split
    · next hp => exact ringFails_within _ _ _ hs (by intro e; simp [e] at hp) (Sub.of (by decide +kernel) hm)
    · exact hs
  · split
    · next hp => exact ringFails_within _ _ _ hs (by intro e; simp [e] at hp) (Sub.of (by decide +kernel) hm)
    · exact hs
  · exact bufferFails_within _ _ _ hs (Sub.of (by decide +kernel) hm)
  · exact hs

theorem execRegRead_within {M : List Part} {z : State} (seq : Nat) (ack : Nat) (req : Nat) (off : Nat) (s : State) (hs
    : Within M z s) (hm : Sub [.host, .fabric, .status, .output, .nonces, .metering, .uwb] M)
    (hr : rolesThere s (.regRead seq ack req off) = true) : AnsWithin M z (execRegRead seq ack req off s) := by
  unfold execRegRead
  rw [inputTo_there hr]
  try dsimp only
  repeat' (first
      | (with_reducible first
          | assumption | intro _ | exact Sub.of (by decide +kernel) hm | apply State.when_within
          | apply proxyTake_within | apply registerRead_within | apply proxySend_within | apply ansWithin_next)
      | split)

theorem execRegwaitExpiry_within {M : List Part} {z : State} (req : Nat) (s : State) (hs : Within M z s)
    (hm : Sub [.host, .status, .output] M) (hr : rolesThere s (.regwaitExpiry req) = true)
    : AnsWithin M z (execRegwaitExpiry req s) := by
  unfold execRegwaitExpiry
  rw [inputTo_there hr]
  try dsimp only
  repeat' (first
      | (with_reducible first
          | assumption | intro _ | exact Sub.of (by decide +kernel) hm | apply State.when_within
          | apply readAnswered_within | apply State.raise_within | apply ansWithin_next))

theorem execSqTail_within {M : List Part} {z : State} (pos : Nat) (ring : Nat) (value : Nat) (s : State)
    (word : optParam Bool true) (hs : Within M z s) (hm : Sub [.rings, .host, .fabric, .status, .output, .nonces] M)
    (hr : rolesThere s (.sqTail pos ring value word) = true) : AnsWithin M z (execSqTail pos ring value s word) := by
  unfold execSqTail
  rw [inputTo_there hr]
  try dsimp only
  repeat' (first
      | (with_reducible first
          | assumption | intro _ | exact Sub.of (by decide +kernel) hm | apply State.when_within
          | apply bar2Write_within | apply ansWithin_next))

theorem execPcieReset_within {M : List Part} {z : State} (s : State) (hs : Within M z s)
    (hm : Sub (ringPath ++ [Part.store, Part.power, Part.keys, Part.holly, Part.subGhz, Part.transponder, Part.update]) M)
    : AnsWithin M z (execPcieReset s) := by
  unfold execPcieReset
  apply ansWithin_next
  extract_lets t u
  have ht : Within M z t := within_foldl (fun t b h => ringReset_within _ _ h (Sub.of (by decide +kernel) hm)) _ _ hs
  clear_value t
  refine presentFunction_within _ ?_ (Sub.of (by decide +kernel) hm)
  unfold u
  repeat' (first
      | (with_reducible first
          | assumption | exact rfl | intro _ | exact Sub.of (by decide +kernel) hm | exact Or.inr rfl
          | exact Or.inl (Sub.has hm (by decide +kernel)) | apply within_ite | apply within_foldl)
      | (simp only [within_mk]; with_reducible apply Within.upd) | split)

theorem execBar4Access_within {M : List Part} {z : State} (pos : Nat) (off : Nat) (write : Bool) (value : Nat) (s : State)
    (hs : Within M z s)
    (hm : Sub (hostPath ++ [.mode, .held, .force, .nvwp, .tap, .boundary, .store, .power, .keys, .holly, .release, .metering, .field, .cycle, .subGhz, .uwb, .radio, .transponder, .update]) M)
    (hr : rolesThere s (.bar4Access pos off write value) = true)
    : AnsWithin M z (execBar4Access pos off write value s) := by
  unfold execBar4Access
  rw [inputTo_there hr]
  try dsimp only
  repeat' (first
      | (with_reducible first
          | assumption | intro _ | exact Sub.of (by decide +kernel) hm | apply State.when_within
          | apply bar4Write_within | apply bar4Read_within | apply ansWithin_next | apply within_ite)
      | split)

theorem execProxyWrite_within {M : List Part} {z : State} (pos : Nat) (seq : Nat) (ack : Nat) (ring : Nat) (addr : Nat)
    (data : Bytes) (s : State) (failed : optParam Bool false) (hs : Within M z s)
    (hm : Sub [.host, .fabric, .status, .output, .nonces] M)
    (hr : rolesThere s (.proxyWrite pos seq ack ring addr data failed) = true)
    : AnsWithin M z (execProxyWrite pos seq ack ring addr data s failed) := by
  unfold execProxyWrite
  rw [inputTo_there hr]
  try dsimp only
  repeat' (first
      | (with_reducible first
          | assumption | intro _ | exact Sub.of (by decide +kernel) hm | apply State.when_within
          | apply proxyTake_within | apply signalError_within | apply dma_within | apply ansWithin_next
          | apply within_ite)
      | split)

theorem execRingDrained_within {M : List Part} {z : State} (ring : Nat) (s : State) (hs : Within M z s)
    (hm : Sub [.rings] M) : AnsWithin M z (execRingDrained ring s) := by
  unfold execRingDrained
  try dsimp only
  repeat' (first
      | (with_reducible first
          | assumption | intro _ | exact Sub.of (by decide +kernel) hm | apply State.when_within | apply drained_within
          | apply ansWithin_next))

theorem execDoorbell_within {M : List Part} {z : State} (seq : Nat) (ack : Nat) (ring : Nat) (kind : Nat) (value : Nat)
    (s : State) (hs : Within M z s) (hm : Sub [.rings, .host, .fabric, .status, .output, .nonces] M)
    (hr : rolesThere s (.doorbell seq ack ring kind value) = true)
    : AnsWithin M z (execDoorbell seq ack ring kind value s) := by
  unfold execDoorbell
  rw [inputTo_there hr]
  try dsimp only
  repeat' (first
      | (with_reducible first
          | assumption | intro _ | exact Sub.of (by decide +kernel) hm | apply State.when_within
          | apply proxyTake_within | apply acceptDoorbell_within | apply ansWithin_next))

theorem execRegWrite_within {M : List Part} {z : State} (seq : Nat) (ack : Nat) (off : Nat) (value : Nat) (s : State) (hs
    : Within M z s)
    (hm : Sub (hostPath ++ [.mode, .held, .force, .nvwp, .tap, .boundary, .store, .power, .keys, .holly, .release, .metering, .field, .cycle, .subGhz, .uwb, .radio, .transponder, .update]) M)
    (hr : rolesThere s (.regWrite seq ack off value) = true) : AnsWithin M z (execRegWrite seq ack off value s) := by
  unfold execRegWrite
  rw [inputTo_there hr]
  try dsimp only
  repeat' (first
      | (with_reducible first
          | assumption | intro _ | exact Sub.of (by decide +kernel) hm | apply State.when_within
          | apply proxyTake_within | apply registerWritten_within | apply ansWithin_next))

theorem execUwbTimeLoRead_within {M : List Part} {z : State} (s : State) (hs : Within M z s)
    (hm : Sub [.fabric, .output, .metering, .uwb] M) : AnsWithin M z (execUwbTimeLoRead s) := by
  unfold execUwbTimeLoRead
  try dsimp only
  repeat' (first
      | (with_reducible first
          | assumption | exact Sub.of (by decide +kernel) hm | apply answerRead_within | apply ansWithin_next))

theorem execInterrupt_within {M : List Part} {z : State} (pos : Nat) (seq : Nat) (ack : Nat) (ring : Nat) (vector : Nat)
    (s : State) (hs : Within M z s) (hm : Sub [.host, .fabric, .status, .output, .nonces] M)
    (hr : rolesThere s (.interrupt pos seq ack ring vector) = true)
    : AnsWithin M z (execInterrupt pos seq ack ring vector s) := by
  unfold execInterrupt
  rw [inputTo_there hr]
  try dsimp only
  repeat' (first
      | (with_reducible first
          | assumption | intro _ | exact Sub.of (by decide +kernel) hm | apply State.when_within
          | apply proxyTake_within | apply signal_within | apply ansWithin_next))

theorem execDescriptorFetch_within {M : List Part} {z : State} (ring : Nat) (bytes : Bytes) (s : State)
    (nvwp : optParam (Option Bool) none) (hs : Within M z s)
    (hm : Sub [.rings, .host, .fabric, .status, .output, .nonces, .nvwp] M)
    (hr : rolesThere s (.descriptorFetch ring bytes nvwp) = true)
    : AnsWithin M z (execDescriptorFetch ring bytes s nvwp) := by
  unfold execDescriptorFetch
  rw [inputTo_there hr]
  apply ansWithin_next
  have h : Within M z (s.sampleNvwp nvwp) := State.sampleNvwp_within _ _ hs (Sub.of (by decide +kernel) hm)
  unfold State.when
  split
  · next hp =>
    simp only [Bool.and_eq_true] at hp
    exact descFetched_within _ _ _ h hp.1 (Sub.of (by decide +kernel) hm)
  · exact h

theorem execReadData_within {M : List Part} {z : State} (seq : Nat) (ack : Nat) (ring : Nat) (req : Nat) (failed : Bool)
    (data : Bytes) (s : State) (hs : Within M z s)
    (hm : Sub [.rings, .host, .fabric, .status, .output, .nonces, .store, .power, .keys, .holly, .subGhz, .transponder, .update] M)
    (hr : rolesThere s (.readData seq ack ring req failed data) = true)
    : AnsWithin M z (execReadData seq ack ring req failed data s) := by
  unfold execReadData
  rw [inputTo_there hr]
  try dsimp only
  repeat' (first
      | (with_reducible first
          | assumption | exact rfl | intro _ | exact Sub.of (by decide +kernel) hm | exact Or.inr rfl
          | exact Or.inl (Sub.has hm (by decide +kernel)) | apply State.when_within | apply proxyTake_within
          | apply readFails_within | apply ansWithin_next)
      | (simp only [within_mk]; with_reducible apply Within.upd) | split)

theorem execProxyRtoExpiry_within {M : List Part} {z : State} (pos : Nat) (cls : Nat) (s : State) (hs : Within M z s)
    (hm : Sub [.host, .fabric, .status, .output, .nonces] M) (hr : rolesThere s (.proxyRtoExpiry pos cls) = true)
    : AnsWithin M z (execProxyRtoExpiry pos cls s) := by
  unfold execProxyRtoExpiry
  rw [inputTo_there hr]
  try dsimp only
  repeat' (first
      | (with_reducible first
          | assumption | intro _ | exact Sub.of (by decide +kernel) hm | apply State.when_within
          | apply rtoPassed_within | apply ansWithin_next))

theorem execBadAccessRead_within {M : List Part} {z : State} (s : State) (bar2Word : optParam Bool false) (hs
    : Within M z s) (hm : Sub [.status, .output] M) : AnsWithin M z (execBadAccessRead s bar2Word) := by
  unfold execBadAccessRead
  try dsimp only
  repeat' (first
      | (with_reducible first
          | assumption | exact Sub.of (by decide +kernel) hm | apply State.emit_within | apply badRead_within
          | apply ansWithin_next | apply within_ite)
      | split)

theorem execRegisterWrite_within {M : List Part} {z : State} (off : Nat) (value : Nat) (s : State) (hs : Within M z s)
    (hm : Sub (hostPath ++ [Part.mode, Part.held, Part.force, Part.nvwp, Part.tap, Part.boundary, Part.store, Part.power, Part.keys, Part.holly, Part.release, Part.metering, Part.field, Part.cycle, Part.subGhz, Part.uwb, Part.radio, Part.transponder, Part.update]) M)
    : AnsWithin M z (execRegisterWrite off value s) := by
  unfold execRegisterWrite
  try dsimp only
  repeat' (first
      | (with_reducible first
          | assumption | exact Sub.of (by decide +kernel) hm | apply bar0Write_within | apply ansWithin_next))

theorem execPcieLinkUp_within {M : List Part} {z : State} (gen2 : Bool) (s : State) (maxRead : optParam Nat 512) (hs
    : Within M z s) (hm : Sub (sendPath ++ [Part.host, Part.force]) M) : AnsWithin M z (execPcieLinkUp gen2 s maxRead) := by
  unfold execPcieLinkUp
  try dsimp only
  repeat' (first
      | (with_reducible first
          | assumption | exact rfl | intro _ | exact Sub.of (by decide +kernel) hm | exact Or.inr rfl
          | exact Or.inl (Sub.has hm (by decide +kernel)) | apply State.when_within | apply State.setStat_within
          | apply presentFunction_within | apply State.raise_within | apply judgeHead_within | apply ansWithin_next
          | apply within_ite)
      | (simp only [within_mk]; with_reducible apply Within.upd) | split)

theorem execPcieLinkDown_within {M : List Part} {z : State} (s : State) (hs : Within M z s) (hm : Sub [.status] M)
    : AnsWithin M z (execPcieLinkDown s) := by
  unfold execPcieLinkDown
  try dsimp only
  repeat' (first
      | (with_reducible first
          | assumption | exact Sub.of (by decide +kernel) hm | apply State.setStat_within | apply ansWithin_next))

theorem execNop_within {M : List Part} {z : State} (ring : Nat) (tag : Nat) (s : State) (hs : Within M z s)
    (hm : Sub [.rings, .host, .fabric, .status, .output, .nonces] M) (hr : rolesThere s (.nop ring tag) = true)
    : AnsWithin M z (execNop ring tag s) := by
  unfold execNop
  rw [inputTo_there hr]
  try dsimp only
  repeat' (first
      | (with_reducible first
          | assumption | intro _ | exact Sub.of (by decide +kernel) hm | apply ringCmd_within | apply complete_within
          | apply ansWithin_next))

theorem execProfileWrite_within {M : List Part} {z : State} (value : Nat) (s : State) (hs : Within M z s)
    (hm : Sub (hostPath ++ [Part.mode, Part.held, Part.force, Part.nvwp, Part.tap, Part.boundary, Part.store, Part.power, Part.keys, Part.holly, Part.release, Part.metering, Part.field, Part.cycle, Part.subGhz, Part.uwb, Part.radio, Part.transponder, Part.update]) M)
    : AnsWithin M z (execProfileWrite value s) := by
  unfold execProfileWrite
  try dsimp only
  repeat' (first
      | (with_reducible first
          | assumption | exact Sub.of (by decide +kernel) hm | apply registerWritten_within | apply ansWithin_next))

theorem execRingEnable_within {M : List Part} {z : State} (ring : Nat) (s : State) (hs : Within M z s) (hm : Sub [.rings] M)
    : AnsWithin M z (execRingEnable ring s) := by
  unfold execRingEnable
  try dsimp only
  repeat' (first
      | (with_reducible first
          | assumption | intro _ | exact Sub.of (by decide +kernel) hm | apply State.when_within
          | apply ringEnables_within | apply ansWithin_next))

theorem execRegData_within {M : List Part} {z : State} (pos : Nat) (seq : Nat) (ack : Nat) (req : Nat) (value : Nat)
    (s : State) (hs : Within M z s) (hm : Sub [.host, .fabric, .status, .output, .nonces] M)
    (hr : rolesThere s (.regData pos seq ack req value) = true) : AnsWithin M z (execRegData pos seq ack req value s) := by
  unfold execRegData
  rw [inputTo_there hr]
  try dsimp only
  repeat' (first
      | (with_reducible first
          | assumption | intro _ | exact Sub.of (by decide +kernel) hm | apply State.when_within
          | apply proxyTake_within | apply readAnswered_within | apply ansWithin_next | apply within_ite)
      | split)

theorem execCqHead_within {M : List Part} {z : State} (pos : Nat) (ring : Nat) (value : Nat) (s : State)
    (word : optParam Bool true) (hs : Within M z s) (hm : Sub [.rings, .host, .fabric, .status, .output, .nonces] M)
    (hr : rolesThere s (.cqHead pos ring value word) = true) : AnsWithin M z (execCqHead pos ring value s word) := by
  unfold execCqHead
  rw [inputTo_there hr]
  try dsimp only
  repeat' (first
      | (with_reducible first
          | assumption | intro _ | exact Sub.of (by decide +kernel) hm | apply State.when_within
          | apply bar2Write_within | apply ansWithin_next))

theorem execPciePowerState_within {M : List Part} {z : State} (d3hot : Bool) (s : State) (hs : Within M z s)
    (hm : Sub [.host, .output] M) : AnsWithin M z (execPciePowerState d3hot s) := by
  unfold execPciePowerState
  try dsimp only
  repeat' (first
      | (with_reducible first
          | assumption | exact rfl | intro _ | exact Sub.of (by decide +kernel) hm | exact Or.inr rfl
          | exact Or.inl (Sub.has hm (by decide +kernel)) | apply State.when_within | apply unstall_within
          | apply ansWithin_next | apply within_ite | apply within_foldl | apply within_foldl_fst)
      | (simp only [within_mk]; with_reducible apply Within.upd) | split)

theorem execAbort_within {M : List Part} {z : State} (ring : Nat) (tag : Nat) (s : State) (hs : Within M z s)
    (hm : Sub [.rings, .host, .fabric, .status, .output, .nonces, .store, .power, .keys, .holly, .subGhz, .transponder, .update] M)
    (hr : rolesThere s (.abort ring tag) = true) : AnsWithin M z (execAbort ring tag s) := by
  unfold execAbort
  rw [inputTo_there hr]
  try dsimp only
  repeat' (first
      | (with_reducible first
          | assumption | intro _ | exact Sub.of (by decide +kernel) hm | apply ringCmd_within | apply abortTag_within
          | apply complete_within | apply ansWithin_next | apply within_ite)
      | split)

theorem execRingDisable_within {M : List Part} {z : State} (ring : Nat) (s : State) (hs : Within M z s)
    (hm : Sub (ringPath ++ [Part.store, Part.power, Part.keys, Part.holly, Part.subGhz, Part.transponder, Part.update]) M)
    : AnsWithin M z (execRingDisable ring s) := by
  unfold execRingDisable
  try dsimp only
  repeat' (first
      | (with_reducible first
          | assumption | intro _ | exact Sub.of (by decide +kernel) hm | apply State.when_within
          | apply ringDisables_within | apply ansWithin_next))

theorem execReadReq_within {M : List Part} {z : State} (pos : Nat) (seq : Nat) (ack : Nat) (ring : Nat) (req : Nat)
    (len : Nat) (addr : Nat) (failed : Bool) (data : Bytes) (s : State) (hs : Within M z s)
    (hm : Sub [.host, .fabric, .status, .output, .nonces] M)
    (hr : rolesThere s (.readReq pos seq ack ring req len addr failed data) = true)
    : AnsWithin M z (execReadReq pos seq ack ring req len addr failed data s) := by
  unfold execReadReq
  rw [inputTo_there hr]
  try dsimp only
  repeat' (first
      | (with_reducible first
          | assumption | intro _ | exact Sub.of (by decide +kernel) hm | apply State.when_within
          | apply proxyTake_within | apply pcieReads_within | apply signalError_within | apply proxySend_within
          | apply ansWithin_next | apply within_ite)
      | split)

theorem slotItems_within {M : List Part} {z : State} (s : State) (op : Nat) (n : Nat) (k : KeySlot) (hs : Within M z s)
    (hm : Sub [.status, .nonces, .keys] M) : Within M z (slotItems s op n k).2 := by
  unfold slotItems
  try dsimp only
  repeat' (first
      | (with_reducible first
          | assumption | exact Sub.of (by decide +kernel) hm | apply sealSlot_within | apply within_ite)
      | split)

theorem requestSlot_within {M : List Part} {z : State} (tag : Nat) (op : Nat) (n : Nat) (k : KeySlot) (s : State) (hs
    : Within M z s) (hm : Sub [.status, .nonces, .store, .keys] M) : Within M z (requestSlot tag op n k s) := by
  unfold requestSlot
  try dsimp only
  repeat' (first
      | (with_reducible first
          | assumption | exact Sub.of (by decide +kernel) hm | apply slotItems_within | apply nvRequest_within)
      | split)

theorem execNarrow_within {M : List Part} {z : State} (tag : Nat) (s : State) (hs : Within M z s)
    (hm : Sub (ringPath ++ [Part.store, Part.keys]) M) : AnsWithin M z (execNarrow tag s) := by
  unfold execNarrow
  try dsimp only
  repeat' (first
      | (with_reducible first
          | assumption | intro _ | exact Sub.of (by decide +kernel) hm | apply ringCmdIf_within
          | apply refuseSilent_within | apply changeCmd_within | apply requestSlot_within | apply markTaken_within
          | apply ansWithin_next | apply within_ite)
      | split)

theorem execLcNonceExpiry_within {M : List Part} {z : State} (s : State) (hs : Within M z s) (hm : Sub [.keys] M)
    : AnsWithin M z (execLcNonceExpiry s) := by
  unfold execLcNonceExpiry
  try dsimp only
  repeat' (first
      | (with_reducible first
          | assumption | exact rfl | intro _ | exact Sub.of (by decide +kernel) hm | exact Or.inr rfl
          | exact Or.inl (Sub.has hm (by decide +kernel)) | apply State.when_within | apply ansWithin_next)
      | (simp only [within_mk]; with_reducible apply Within.upd))

theorem loadSlot_within {M : List Part} {z : State} (op : Nat) (tag : Nat) (open_ : Desc → State → Bool)
    (source : Desc → Option Nat) (value : Desc → State → Option Bytes) (d : Desc) (s : State) (hs : Within M z s)
    (hm : Sub (ringPath ++ [Part.store, Part.keys]) M) : Within M z (loadSlot op tag open_ source value d s) := by
  unfold loadSlot
  try dsimp only
  repeat' (first
      | (with_reducible first
          | assumption | intro _ | exact Sub.of (by decide +kernel) hm | apply complete_within
          | apply refuseSilent_within | apply changeCmd_within | apply useSlot_within | apply maskedSlot_within
          | apply requestSlot_within | apply markTaken_within | apply hopen_ | apply hsource | apply hvalue
          | apply within_ite)
      | split)

theorem execAttest_within {M : List Part} {z : State} (tag : Nat) (s : State) (hs : Within M z s)
    (hm : Sub (ringPath ++ [Part.keys]) M) : AnsWithin M z (execAttest tag s) := by
  unfold execAttest
  try dsimp only
  repeat' (first
      | (with_reducible first
          | assumption | intro _ | exact Sub.of (by decide +kernel) hm | apply ringCmdIf_within
          | apply refuseSilent_within | apply slotCmac_within | apply completeData_within | apply ansWithin_next
          | apply within_ite)
      | split)

theorem execLcAdvance_within {M : List Part} {z : State} (tag : Nat) (data : Bytes) (s : State) (hs : Within M z s)
    (hm : Sub (hostPath ++ [Part.tap, Part.store, Part.keys, Part.holly, Part.release, Part.metering, Part.cycle, Part.subGhz, Part.uwb, Part.transponder]) M)
    : AnsWithin M z (execLcAdvance tag data s) := by
  unfold execLcAdvance
  refine ansWithin_next (ringCmdIf_within _ _ _ _ _ _ (fun d s hs => ?_) hs (Sub.of (by decide +kernel) hm))
  split
  · exact refuseSilent_within _ _ _ _ hs (Sub.of (by decide +kernel) hm)
  · extract_lets good spend
    have hsp : ∀ v, Within M z v → Within M z (spend v) := by
      intro v hv
      unfold spend
      repeat' (first
          | (with_reducible first
              | assumption | exact rfl | intro _ | exact Sub.of (by decide +kernel) hm | exact Or.inr rfl
              | exact Or.inl (Sub.has hm (by decide +kernel)) | apply authJob_within | apply within_ite
              | apply within_foldl)
          | (simp only [within_mk]; with_reducible apply Within.upd) | split)
    clear_value spend good
    split
    · exact refuseSilent_within _ _ _ _ (hsp _ hs) (Sub.of (by decide +kernel) hm)
    · split
      · exact complete_within _ _ _ _ _ (lifeCycleTakes_within _ _ (hsp _ hs) (Sub.of (by decide +kernel) hm)) (Sub.of (by decide +kernel) hm)
      · refine changeCmd_within _ _ _ _ _ (fun v hv => ?_) hs (Sub.of (by decide +kernel) hm)
        have hu : Within M z (markTaken (spend v) 8 tag false) := markTaken_within _ _ _ _ (hsp _ hv) (Sub.of (by decide +kernel) hm)
        generalize markTaken (spend v) 8 tag false = w at hu ⊢
        dsimp only
        repeat' (first
            | (with_reducible first
                | assumption | exact rfl | intro _ | exact Sub.of (by decide +kernel) hm | exact Or.inr rfl
                | exact Or.inl (Sub.has hm (by decide +kernel)) | apply lcProceeds_within | apply within_ite
                | apply within_foldl)
            | (simp only [within_mk]; with_reducible apply Within.upd) | split)

theorem execDerive_within {M : List Part} {z : State} (tag : Nat) (data : Bytes) (s : State) (hs : Within M z s)
    (hm : Sub (ringPath ++ [Part.store, Part.keys]) M) : AnsWithin M z (execDerive tag data s) := by
  unfold execDerive
  try dsimp only
  repeat' (first
      | (with_reducible first
          | assumption | intro _ | exact Sub.of (by decide +kernel) hm | apply ringCmdIf_within | apply loadSlot_within
          | apply ansWithin_next))

theorem execLcNonce_within {M : List Part} {z : State} (tag : Nat) (s : State) (hs : Within M z s)
    (hm : Sub (ringPath ++ [Part.keys]) M) : AnsWithin M z (execLcNonce tag s) := by
  unfold execLcNonce
  try dsimp only
  repeat' (first
      | (with_reducible first
          | assumption | exact rfl | intro _ | exact Sub.of (by decide +kernel) hm | exact Or.inr rfl
          | exact Or.inl (Sub.has hm (by decide +kernel)) | apply ringCmdIf_within | apply State.draw_within
          | apply completeData_within | apply ansWithin_next)
      | (simp only [within_mk]; with_reducible apply Within.upd) | split)

theorem execLoadWrapped_within {M : List Part} {z : State} (tag : Nat) (data : Bytes) (s : State) (hs : Within M z s)
    (hm : Sub (ringPath ++ [Part.store, Part.keys]) M) : AnsWithin M z (execLoadWrapped tag data s) := by
  unfold execLoadWrapped
  try dsimp only
  repeat' (first
      | (with_reducible first
          | assumption | intro _ | exact Sub.of (by decide +kernel) hm | apply ringCmdIf_within | apply loadSlot_within
          | apply ansWithin_next))

theorem execErase_within {M : List Part} {z : State} (tag : Nat) (s : State) (hs : Within M z s)
    (hm : Sub (ringPath ++ [Part.store, Part.keys]) M) : AnsWithin M z (execErase tag s) := by
  unfold execErase
  try dsimp only
  repeat' (first
      | (with_reducible first
          | assumption | intro _ | exact Sub.of (by decide +kernel) hm | apply ringCmdIf_within
          | apply refuseSilent_within | apply changeCmd_within | apply requestSlot_within | apply markTaken_within
          | apply ansWithin_next | apply within_ite)
      | split)

theorem execLoadClear_within {M : List Part} {z : State} (tag : Nat) (data : Bytes) (s : State) (hs : Within M z s)
    (hm : Sub (ringPath ++ [Part.store, Part.keys]) M) : AnsWithin M z (execLoadClear tag data s) := by
  unfold execLoadClear
  try dsimp only
  repeat' (first
      | (with_reducible first
          | assumption | intro _ | exact Sub.of (by decide +kernel) hm | apply ringCmdIf_within | apply loadSlot_within
          | apply ansWithin_next))

theorem execTapInstruction_within {M : List Part} {z : State} (instr : Nat) (s : State) (hs : Within M z s)
    (hm : Sub [.tap] M) : AnsWithin M z (execTapInstruction instr s) := by
  unfold execTapInstruction
  try dsimp only
  repeat' (first
      | (with_reducible first
          | assumption | exact rfl | exact Or.inr rfl | exact Or.inl (Sub.has hm (by decide +kernel))
          | apply ansWithin_next)
      | (simp only [within_mk]; with_reducible apply Within.upd))

theorem execAck_within {M : List Part} {z : State} (tag : Nat) (s : State) (hs : Within M z s)
    (hm : Sub [.rings, .host, .fabric, .status, .output, .nonces, .store] M) (hr : rolesThere s (.ack tag) = true)
    : AnsWithin M z (execAck tag s) := by
  unfold execAck
  rw [inputTo_there hr]
  try dsimp only
  repeat' (first
      | (with_reducible first
          | assumption | intro _ | exact Sub.of (by decide +kernel) hm | apply ringCmd_within | apply complete_within
          | apply changeCmd_within | apply nvRequest_within | apply markTaken_within | apply ansWithin_next
          | apply within_ite)
      | split)

theorem requestRollUp_within {M : List Part} {z : State} (s : State) (hs : Within M z s) (hm : Sub [.store] M)
    : Within M z (requestRollUp s) := by
  unfold requestRollUp
  try dsimp only
  repeat' (first | (with_reducible first | assumption | exact Sub.of (by decide +kernel) hm | apply nvRequest_within))

theorem markSessions_within {M : List Part} {z : State} (s : State) (w : XchkWindow) (dev : Nat) (tamper : Bool) (hs
    : Within M z s) (hm : Sub [.release, .metering] M) : Within M z (markSessions s w dev tamper) := by
  unfold markSessions
  extract_lets t
  have ht : Within M z t := by
    refine within_foldl (fun t b h => ?_) _ _ hs
    dsimp only
    repeat' (first
        | (with_reducible first
            | assumption | exact rfl | intro _ | exact Sub.of (by decide +kernel) hm | exact Or.inr rfl
            | exact Or.inl (Sub.has hm (by decide +kernel)) | apply State.setSess_within | apply within_ite
            | apply within_foldl)
        | (simp only [within_mk]; with_reducible apply Within.upd) | split)
  clear_value t
  generalize List.map _ _ = l
  repeat' (first
      | (with_reducible first
          | assumption | exact rfl | intro _ | exact Sub.of (by decide +kernel) hm | exact Or.inr rfl
          | exact Or.inl (Sub.has hm (by decide +kernel)) | apply State.setSess_within | apply within_ite
          | apply within_foldl)
      | (simp only [within_mk]; with_reducible apply Within.upd) | split)

theorem tamperWindow_within {M : List Part} {z : State} (s : State) (hs : Within M z s)
    (hm : Sub (hostPath ++ [Part.metering]) M) : Within M z (tamperWindow s) := by
  unfold tamperWindow
  try dsimp only
  repeat' (first
      | (with_reducible first
          | assumption | exact rfl | exact Sub.of (by decide +kernel) hm | exact Or.inr rfl
          | exact Or.inl (Sub.has hm (by decide +kernel)) | apply State.bump_within | apply State.raise_within
          | apply event_within | apply within_ite)
      | (simp only [within_mk]; with_reducible apply Within.upd) | split)

theorem execXchkWindowEnd_within {M : List Part} {z : State} (s : State) (hs : Within M z s)
    (hm : Sub (hostPath ++ [.release, .metering]) M) (hr : rolesThere s (.xchkWindowEnd) = true)
    : AnsWithin M z (execXchkWindowEnd s) := by
  unfold execXchkWindowEnd
  rw [inputTo_there hr]
  try dsimp only
  repeat' (first
      | (with_reducible first
          | assumption | exact rfl | intro _ | exact Sub.of (by decide +kernel) hm | exact Or.inr rfl
          | exact Or.inl (Sub.has hm (by decide +kernel)) | apply State.when_within | apply State.setStat_within
          | apply markSessions_within | apply tamperWindow_within | apply ansWithin_next | apply within_ite)
      | (simp only [within_mk]; with_reducible apply Within.upd) | split)

theorem State.setMchan_within {M : List Part} {z : State} (s : State) (n : Nat) (c : Channel) (hs : Within M z s)
    (hm : Sub [.metering] M) : Within M z (State.setMchan s n c) := by
  unfold State.setMchan
  try dsimp only
  repeat' (first
      | (with_reducible first
          | assumption | exact rfl | exact Or.inr rfl | exact Or.inl (Sub.has hm (by decide +kernel)))
      | (simp only [within_mk]; with_reducible apply Within.upd))

theorem channelResult_within {M : List Part} {z : State} (s : State) (n : Nat) (y : Int) (still : Bool) (hs : Within M z s)
    (hm : Sub (hostPath ++ [Part.metering]) M) : Within M z (channelResult s n y still) := by
  unfold channelResult
  try dsimp only
  repeat' (first
      | (with_reducible first
          | assumption | exact Sub.of (by decide +kernel) hm | apply State.setMchan_within | apply raiseEvent_within
          | apply within_ite)
      | split)

theorem meterChannels_within {M : List Part} {z : State} (old : State) (ys : List Int) (still : List Bool) (hold
    : Within M z old) (hm : Sub (hostPath ++ [Part.release, Part.metering]) M)
    : Within M z (meterChannels old ys still) := by
  unfold meterChannels
  try dsimp only
  repeat' (first
      | (with_reducible first
          | assumption | exact rfl | intro _ | exact Sub.of (by decide +kernel) hm | exact Or.inr rfl
          | exact Or.inl (Sub.has hm (by decide +kernel)) | apply channelResult_within | apply within_foldl
          | apply within_foldl_fst)
      | (simp only [within_mk]; with_reducible apply Within.upd))

theorem creditQuanta_within {M : List Part} {z : State} (s : State) (ki : Nat) (ke : Nat) (kin : Nat) (kout : Nat)
    (b : Bool) (hs : Within M z s) (hm : Sub [.release, .metering] M) : Within M z (creditQuanta s ki ke kin kout b) := by
  unfold creditQuanta
  try dsimp only
  repeat' (first
      | (with_reducible first
          | assumption | exact rfl | exact Sub.of (by decide +kernel) hm | exact Or.inr rfl
          | exact Or.inl (Sub.has hm (by decide +kernel)) | apply State.setSess_within | apply within_ite)
      | (simp only [within_mk]; with_reducible apply Within.upd) | split)

theorem accumulate_within {M : List Part} {z : State} (s : State) (cur : Int) (volt : Int) (p : Nat) (b : Bool) (hs
    : Within M z s) (hm : Sub [.release, .metering] M) : Within M z (accumulate s cur volt p b) := by
  unfold accumulate
  try dsimp only
  repeat' (first
      | (with_reducible first
          | assumption | exact rfl | exact Sub.of (by decide +kernel) hm | exact Or.inr rfl
          | exact Or.inl (Sub.has hm (by decide +kernel)) | apply creditQuanta_within | apply within_ite)
      | (simp only [within_mk]; with_reducible apply Within.upd) | split)

theorem unmetered_within {M : List Part} {z : State} (s : State) (p : Nat) (hs : Within M z s)
    (hm : Sub [.release, .metering] M) : Within M z (unmetered s p) := by
  unfold unmetered
  try dsimp only
  repeat' (first
      | (with_reducible first
          | assumption | exact rfl | intro _ | exact Sub.of (by decide +kernel) hm | exact Or.inr rfl
          | exact Or.inl (Sub.has hm (by decide +kernel)) | apply State.setSess_within | apply within_ite
          | apply within_foldl | apply within_foldl_fst)
      | (simp only [within_mk]; with_reducible apply Within.upd) | split)

theorem windowAdd_within {M : List Part} {z : State} (s : State) (a : Int × Int) (b : Int × Int) (src : Nat) (kept : Bool)
    (bad : Bool) (hs : Within M z s) (hm : Sub [.metering] M) : Within M z (windowAdd s a b src kept bad) := by
  unfold windowAdd
  try dsimp only
  repeat' (first
      | (with_reducible first
          | assumption | exact rfl | exact Or.inr rfl | exact Or.inl (Sub.has hm (by decide +kernel)) | apply within_ite)
      | (simp only [within_mk]; with_reducible apply Within.upd) | split)

theorem meterTake_within {M : List Part} {z : State} (s : State) (src : Nat) (a : Int × Int) (b : Int × Int) (counts : Bool)
    (kept : Bool) (bad : Bool) (hs : Within M z s) (hm : Sub [.release, .metering] M)
    : Within M z (meterTake s src a b counts kept bad) := by
  unfold meterTake
  try dsimp only
  repeat' (first
      | (with_reducible first
          | assumption | exact rfl | exact Sub.of (by decide +kernel) hm | exact Or.inr rfl
          | exact Or.inl (Sub.has hm (by decide +kernel)) | apply accumulate_within | apply unmetered_within
          | apply windowAdd_within | apply within_ite)
      | (simp only [within_mk]; with_reducible apply Within.upd) | split)

theorem execDecimatorResult_within {M : List Part} {z : State} (codes : List Int) (still : List Bool) (s : State) (hs
    : Within M z s) (hm : Sub (hostPath ++ [.release, .metering]) M)
    (hr : rolesThere s (.decimatorResult codes still) = true) : AnsWithin M z (execDecimatorResult codes still s) := by
  unfold execDecimatorResult
  rw [inputTo_there hr]
  try dsimp only
  repeat' (first
      | (with_reducible first
          | assumption | exact rfl | intro _ | exact Sub.of (by decide +kernel) hm | exact Or.inr rfl
          | exact Or.inl (Sub.has hm (by decide +kernel)) | apply State.when_within | apply meterChannels_within
          | apply meterTake_within | apply ansWithin_next | apply within_ite)
      | (simp only [within_mk]; with_reducible apply Within.upd) | split)

theorem execReceiptKeyUsable_within {M : List Part} {z : State} (s : State) (hs : Within M z s)
    (hm : Sub [.status, .nonces, .store, .keys, .metering] M) (hr : rolesThere s (.receiptKeyUsable) = true)
    : AnsWithin M z (execReceiptKeyUsable s) := by
  unfold execReceiptKeyUsable
  rw [inputTo_there hr]
  try dsimp only
  repeat' (first
      | (with_reducible first
          | assumption | intro _ | exact Sub.of (by decide +kernel) hm | apply State.when_within
          | apply startReceipt_within | apply ansWithin_next))

theorem ackAgain_within {M : List Part} {z : State} (s : State) (hs : Within M z s) (hm : Sub [.store, .metering] M)
    : Within M z (ackAgain s) := by
  unfold ackAgain
  try dsimp only
  repeat' (first
      | (with_reducible first
          | assumption | exact rfl | exact Sub.of (by decide +kernel) hm | exact Or.inr rfl
          | exact Or.inl (Sub.has hm (by decide +kernel)) | apply nvRequest_within)
      | (simp only [within_mk]; with_reducible apply Within.upd) | split)

theorem execReceiptCommitRetry_within {M : List Part} {z : State} (s : State) (hs : Within M z s)
    (hm : Sub [.status, .nonces, .store, .keys, .metering] M) (hr : rolesThere s (.receiptCommitRetry) = true)
    : AnsWithin M z (execReceiptCommitRetry s) := by
  unfold execReceiptCommitRetry
  rw [inputTo_there hr]
  try dsimp only
  repeat' (first
      | (with_reducible first
          | assumption | exact Sub.of (by decide +kernel) hm | apply startReceipt_within | apply ackAgain_within
          | apply requestRollUp_within | apply ansWithin_next | apply within_ite)
      | split)

theorem execCounters_within {M : List Part} {z : State} (tag : Nat) (s : State) (hs : Within M z s)
    (hm : Sub [.rings, .host, .fabric, .status, .output, .nonces] M) (hr : rolesThere s (.counters tag) = true)
    : AnsWithin M z (execCounters tag s) := by
  unfold execCounters
  rw [inputTo_there hr]
  try dsimp only
  repeat' (first
      | (with_reducible first
          | assumption | intro _ | exact Sub.of (by decide +kernel) hm | apply ringCmdIf_within
          | apply completeData_within | apply ansWithin_next))

theorem execMeterCheckpoint_within {M : List Part} {z : State} (s : State) (hs : Within M z s)
    (hm : Sub [.store, .metering] M) (hr : rolesThere s (.meterCheckpoint) = true)
    : AnsWithin M z (execMeterCheckpoint s) := by
  unfold execMeterCheckpoint
  rw [inputTo_there hr]
  try dsimp only
  repeat' (first
      | (with_reducible first
          | assumption | exact rfl | intro _ | exact Sub.of (by decide +kernel) hm | exact Or.inr rfl
          | exact Or.inl (Sub.has hm (by decide +kernel)) | apply State.when_within | apply nvRequest_within
          | apply ansWithin_next)
      | (simp only [within_mk]; with_reducible apply Within.upd))

theorem execMeterSettingsApply_within {M : List Part} {z : State} (s : State) (hs : Within M z s)
    (hm : Sub [.force, .metering] M) (hr : rolesThere s (.meterSettingsApply) = true)
    : AnsWithin M z (execMeterSettingsApply s) := by
  unfold execMeterSettingsApply
  rw [inputTo_there hr]
  try dsimp only
  repeat' (first
      | (with_reducible first
          | assumption | exact rfl | intro _ | exact Sub.of (by decide +kernel) hm | exact Or.inr rfl
          | exact Or.inl (Sub.has hm (by decide +kernel)) | apply State.when_within | apply applyTiming_within
          | apply State.setMchan_within | apply ansWithin_next | apply within_foldl | apply within_foldl_fst)
      | (simp only [within_mk]; with_reducible apply Within.upd))

theorem execRollover_within {M : List Part} {z : State} (tag : Nat) (data : Bytes) (s : State) (hs : Within M z s)
    (hm : Sub [.rings, .host, .fabric, .status, .output, .nonces, .store, .keys, .metering] M)
    (hr : rolesThere s (.rollover tag data) = true) : AnsWithin M z (execRollover tag data s) := by
  unfold execRollover
  rw [inputTo_there hr]
  try dsimp only
  repeat' (first
      | (with_reducible first
          | assumption | exact rfl | intro _ | exact Sub.of (by decide +kernel) hm | exact Or.inr rfl
          | exact Or.inl (Sub.has hm (by decide +kernel)) | apply ringCmdIf_within | apply changeCmd_within
          | apply authJob_within | apply complete_within | apply nvRequest_within | apply markTaken_within
          | apply ansWithin_next)
      | (simp only [within_mk]; with_reducible apply Within.upd) | split)

theorem execReceiptFormed_within {M : List Part} {z : State} (s : State) (hs : Within M z s)
    (hm : Sub (hostPath ++ [.tap, .store, .keys, .holly, .release, .metering, .cycle, .subGhz, .uwb, .transponder]) M)
    (hr : rolesThere s (.receiptFormed) = true) : AnsWithin M z (execReceiptFormed s) := by
  unfold execReceiptFormed
  rw [inputTo_there hr]
  apply ansWithin_next
  split
  · refine State.when_within _ _ _ (fun v hv => ?_) hs (Sub.of (by decide +kernel) hm)
    refine lcProceeds_within _ ?_ (Sub.of (by decide +kernel) hm)
    extract_lets a b b2 u t b3
    have hu : Within M z u := by
      unfold u b b2
      repeat' (first
          | (with_reducible first
              | assumption | exact rfl | intro _ | exact Sub.of (by decide +kernel) hm | exact Or.inr rfl
              | exact Or.inl (Sub.has hm (by decide +kernel)) | apply within_ite | apply within_foldl)
          | (simp only [within_mk]; with_reducible apply Within.upd) | split)
    clear_value u
    clear_value b b2
    have ht : Within M z t := by
      unfold t
      repeat' (first
          | (with_reducible first
              | assumption | exact rfl | intro _ | exact Sub.of (by decide +kernel) hm | exact Or.inr rfl
              | exact Or.inl (Sub.has hm (by decide +kernel)) | apply State.raise_within | apply within_ite
              | apply within_foldl)
          | (simp only [within_mk]; with_reducible apply Within.upd) | split)
    unfold b3
    clear_value t
    repeat' (first
        | (with_reducible first
            | assumption | exact rfl | intro _ | exact Sub.of (by decide +kernel) hm | exact Or.inr rfl
            | exact Or.inl (Sub.has hm (by decide +kernel)) | apply requestRollUp_within | apply startReceipt_within
            | apply within_ite | apply within_foldl)
        | (simp only [within_mk]; with_reducible apply Within.upd) | split)
  · exact hs

theorem execReceiptCommitted_within {M : List Part} {z : State} (suppliesOk : Bool) (verifyOk : Bool) (s : State) (hs
    : Within M z s)
    (hm : Sub (hostPath ++ [.held, .force, .tap, .boundary, .store, .keys, .holly, .release, .metering, .cycle, .subGhz, .uwb, .radio, .transponder, .update]) M)
    (hr : rolesThere s (.receiptCommitted suppliesOk verifyOk) = true)
    : AnsWithin M z (execReceiptCommitted suppliesOk verifyOk s) := by
  unfold execReceiptCommitted
  rw [inputTo_there hr]
  try dsimp only
  repeat' (first
      | (with_reducible first
          | assumption | intro _ | exact Sub.of (by decide +kernel) hm | apply State.when_within
          | apply commitFront_within | apply ansWithin_next)
      | split)

theorem execRollNonce_within {M : List Part} {z : State} (tag : Nat) (s : State) (hs : Within M z s)
    (hm : Sub [.rings, .host, .fabric, .status, .output, .nonces, .metering] M) (hr : rolesThere s (.rollNonce tag) = true)
    : AnsWithin M z (execRollNonce tag s) := by
  unfold execRollNonce
  rw [inputTo_there hr]
  try dsimp only
  repeat' (first
      | (with_reducible first
          | assumption | exact rfl | intro _ | exact Sub.of (by decide +kernel) hm | exact Or.inr rfl
          | exact Or.inl (Sub.has hm (by decide +kernel)) | apply ringCmdIf_within | apply State.draw_within
          | apply completeData_within | apply ansWithin_next)
      | (simp only [within_mk]; with_reducible apply Within.upd) | split)

theorem execChannelUsableReturn_within {M : List Part} {z : State} (chan : Nat) (s : State) (hs : Within M z s)
    (hm : Sub (hostPath ++ [.metering]) M) (hr : rolesThere s (.channelUsableReturn chan) = true)
    : AnsWithin M z (execChannelUsableReturn chan s) := by
  unfold execChannelUsableReturn
  rw [inputTo_there hr]
  try dsimp only
  repeat' (first
      | (with_reducible first
          | assumption | intro _ | exact Sub.of (by decide +kernel) hm | apply State.when_within
          | apply raiseEvent_within | apply State.setMchan_within | apply ansWithin_next))

theorem execCounterLoRead_within {M : List Part} {z : State} (counter : Nat) (s : State) (hs : Within M z s)
    (hm : Sub [.fabric, .output, .metering, .uwb] M) : AnsWithin M z (execCounterLoRead counter s) := by
  unfold execCounterLoRead
  try dsimp only
  repeat' (first
      | (with_reducible first
          | assumption | intro _ | exact Sub.of (by decide +kernel) hm | apply State.when_within
          | apply answerRead_within | apply ansWithin_next))

theorem execReadReceipt_within {M : List Part} {z : State} (tag : Nat) (s : State) (hs : Within M z s)
    (hm : Sub [.rings, .host, .fabric, .status, .output, .nonces] M) (hr : rolesThere s (.readReceipt tag) = true)
    : AnsWithin M z (execReadReceipt tag s) := by
  unfold execReadReceipt
  rw [inputTo_there hr]
  try dsimp only
  repeat' (first
      | (with_reducible first
          | assumption | intro _ | exact Sub.of (by decide +kernel) hm | apply ringCmdIf_within
          | apply completeData_within | apply ansWithin_next | apply within_ite)
      | split)

theorem execRollNonceExpiry_within {M : List Part} {z : State} (s : State) (hs : Within M z s) (hm : Sub [.metering] M)
    (hr : rolesThere s (.rollNonceExpiry) = true) : AnsWithin M z (execRollNonceExpiry s) := by
  unfold execRollNonceExpiry
  rw [inputTo_there hr]
  try dsimp only
  repeat' (first
      | (with_reducible first
          | assumption | exact rfl | exact Or.inr rfl | exact Or.inl (Sub.has hm (by decide +kernel))
          | apply ansWithin_next)
      | (simp only [within_mk]; with_reducible apply Within.upd))

theorem execReceiptBuffer_within {M : List Part} {z : State} (tag : Nat) (s : State) (hs : Within M z s)
    (hm : Sub [.rings, .host, .fabric, .status, .output, .nonces, .metering] M)
    (hr : rolesThere s (.receiptBuffer tag) = true) : AnsWithin M z (execReceiptBuffer tag s) := by
  unfold execReceiptBuffer
  rw [inputTo_there hr]
  try dsimp only
  repeat' (first
      | (with_reducible first
          | assumption | exact Sub.of (by decide +kernel) hm | apply postReceipts_within | apply postBuffer_within
          | apply ansWithin_next))

theorem headerCut_within {M : List Part} {z : State} (kind : Nat) (a : Area) (s : State) (hs : Within M z s)
    (hm : Sub [.store] M) : Within M z (headerCut kind a s) := by
  unfold headerCut
  dsimp only
  have hcut (k : Nat) : Within M z ((dropSector s a k).setArea a { s.area a with
      unformatted := k :: (s.area a).unformatted.filter (fun x => x != k) }) :=
    State.setArea_within _ _ _ (dropSector_within _ _ _ hs (Sub.of (by decide +kernel) hm))
      (fun h => (h a).congr rfl rfl id (h a).2.2.2.1 (h a).2.2.2.2.1) (Sub.of (by decide +kernel) hm)
  have hflag (v : AreaState) (e : AreaForm a (s.area a) s.nvs.recs → AreaForm a v s.nvs.recs) : Within M z (s.setArea a v) :=
    State.setArea_within _ _ _ hs (fun h => e (h a)) (Sub.of (by decide +kernel) hm)
  split
  · exact hcut _
  · exact hcut _
  · exact hflag _ (fun h => h.congr rfl rfl id h.2.2.2.1 h.2.2.2.2.1)
  · exact hflag _ (fun h => h.congr rfl rfl id h.2.2.2.1 h.2.2.2.2.1)
  · exact hs

theorem importCut_within {M : List Part} {z : State} (s : State) (n : Nat) (hs : Within M z s)
    (hm : Sub [.store, .update] M) : Within M z (importCut s n) := by
  unfold importCut
  try dsimp only
  repeat' (first
      | (with_reducible first
          | assumption | exact rfl | exact Sub.of (by decide +kernel) hm | exact Or.inr rfl
          | exact Or.inl (Sub.has hm (by decide +kernel)) | apply importBegun_within | apply within_ite)
      | (simp only [within_mk]; with_reducible apply Within.upd) | split)

theorem fusesFollow_within {M : List Part} {z : State} (s : State) (n : Nat) (hs : Within M z s) (hm : Sub [.keys] M)
    : Within M z (fusesFollow s n) := by
  unfold fusesFollow
  try dsimp only
  repeat' (first
      | (with_reducible first
          | assumption | exact rfl | exact Or.inr rfl | exact Or.inl (Sub.has hm (by decide +kernel)) | apply within_ite)
      | (simp only [within_mk]; with_reducible apply Within.upd) | split)

theorem execMainSupplyFailure_within {M : List Part} {z : State} (vdd : Nat) (finalRecords : Nat) (s : State)
    (mv : optParam Nat 0) (cut : optParam (Option Nat) none) (flash : optParam (Option (Nat × Nat)) none)
    (unread : optParam (List Nat) []) (hs : Within M z s) (hm : Sub [.status, .store, .power, .keys, .update] M)
    : AnsWithin M z (execMainSupplyFailure vdd finalRecords s mv cut flash unread) := by
  unfold execMainSupplyFailure
  try dsimp only
  repeat' (first
      | (with_reducible first
          | assumption | exact rfl | intro _ | exact Sub.of (by decide +kernel) hm | exact Or.inr rfl
          | exact Or.inl (Sub.has hm (by decide +kernel)) | apply State.when_within | apply headerCut_within
          | apply programAll_within | apply importCut_within | apply fusesFollow_within | apply cutItem_within
          | apply ansWithin_next | apply within_ite)
      | (simp only [within_mk]; with_reducible apply Within.upd) | split)

theorem execHostRecordList_within {M : List Part} {z : State} (tag : Nat) (s : State) (hs : Within M z s)
    (hm : Sub ringPath M) : AnsWithin M z (execHostRecordList tag s) := by
  unfold execHostRecordList
  try dsimp only
  repeat' (first
      | (with_reducible first
          | assumption | intro _ | exact Sub.of (by decide +kernel) hm | apply ringCmdIf_within
          | apply completeData_within | apply ansWithin_next))

theorem execWear_within {M : List Part} {z : State} (tag : Nat) (s : State) (hs : Within M z s) (hm : Sub ringPath M)
    : AnsWithin M z (execWear tag s) := by
  unfold execWear
  try dsimp only
  repeat' (first
      | (with_reducible first
          | assumption | intro _ | exact Sub.of (by decide +kernel) hm | apply ringCmdIf_within
          | apply completeData_within | apply ansWithin_next))

theorem scrubOne_within {M : List Part} {z : State} (unread : List Nat) (acc : State × Nat) (e : StoredRec × Nat) (hacc
    : Within M z acc.1) (hm : Sub [.status, .store] M) : Within M z (scrubOne unread acc e).1 := by
  unfold scrubOne
  try dsimp only
  repeat' (first
      | (with_reducible first
          | assumption | exact Sub.of (by decide +kernel) hm | apply copyRecord_within | apply within_ite)
      | split)

theorem scrubWeak_within {M : List Part} {z : State} (s : State) (mask : Nat) (weak : List Nat) (unread : List Nat) (hs
    : Within M z s) (hm : Sub [.status, .store] M) : Within M z (scrubWeak s mask weak unread).1 := by
  unfold scrubWeak
  try dsimp only
  repeat' (first
      | (with_reducible first
          | assumption | intro _ | exact Sub.of (by decide +kernel) hm | apply scrubOne_within
          | apply State.raise_within | apply within_ite | apply within_foldl | apply within_foldl_fst)
      | split)

theorem scrubHeaders_within {M : List Part} {z : State} (s : State) (mask : Nat) (headers : List (Nat × Nat)) (hs
    : Within M z s) (hm : Sub [.status, .store] M) : Within M z (scrubHeaders s mask headers) := by
  unfold scrubHeaders
  try dsimp only
  repeat' (first
      | (with_reducible first
          | assumption | intro _ | exact Sub.of (by decide +kernel) hm | apply reclaimWeak_within | apply within_ite
          | apply within_foldl | apply within_foldl_fst)
      | split)

theorem scrubPass_within {M : List Part} {z : State} (s : State) (mask : Nat) (weak : List Nat) (headers : List (Nat × Nat))
    (unread : List Nat) (hs : Within M z s) (hm : Sub [.status, .store] M)
    : Within M z (scrubPass s mask weak headers unread).1 := by
  unfold scrubPass
  try dsimp only
  repeat' (first
      | (with_reducible first
          | assumption | exact Sub.of (by decide +kernel) hm | apply scrubWeak_within | apply scrubHeaders_within)
      | split)

theorem execScrubNow_within {M : List Part} {z : State} (tag : Nat) (weak : List Nat) (s : State)
    (headers : optParam (List (Nat × Nat)) []) (suppliesOk : optParam Bool true) (unread : optParam (List Nat) []) (hs
    : Within M z s) (hm : Sub [.rings, .host, .fabric, .status, .output, .nonces, .store] M)
    (hr : rolesThere s (.scrubNow tag weak headers suppliesOk unread) = true)
    : AnsWithin M z (execScrubNow tag weak s headers suppliesOk unread) := by
  unfold execScrubNow
  rw [inputTo_there hr]
  try dsimp only
  repeat' (first
      | (with_reducible first
          | assumption | intro _ | exact Sub.of (by decide +kernel) hm | apply ringCmdIf_within | apply complete_within
          | apply noteDeferred_within | apply scrubPass_within | apply ansWithin_next | apply within_ite)
      | split)

theorem execSectorEraseDone_within {M : List Part} {z : State} (area : Nat) (blank : Bool) (s : State)
    (suppliesOk : optParam Bool true) (hs : Within M z s) (hm : Sub (hostPath ++ [.store]) M)
    (hr : rolesThere s (.sectorEraseDone area blank suppliesOk) = true)
    : AnsWithin M z (execSectorEraseDone area blank s suppliesOk) := by
  unfold execSectorEraseDone
  rw [inputTo_there hr]
  try dsimp only
  repeat' (first
      | (with_reducible first
          | assumption | intro _ | exact Sub.of (by decide +kernel) hm | apply State.when_within
          | apply noteDeferred_within | apply sectorErased_within | apply ansWithin_next | apply within_ite)
      | split)

theorem execVholdReady_within {M : List Part} {z : State} (riseUs : Nat) (s : State) (hs : Within M z s)
    (hm : Sub (hostPath ++ [Part.store, Part.power]) M) : AnsWithin M z (execVholdReady riseUs s) := by
  unfold execVholdReady
  try dsimp only
  repeat' (first
      | (with_reducible first
          | assumption | exact rfl | intro _ | exact Sub.of (by decide +kernel) hm | exact Or.inr rfl
          | exact Or.inl (Sub.has hm (by decide +kernel)) | apply State.when_within | apply raiseEvent_within
          | apply ansWithin_next | apply within_ite)
      | (simp only [within_mk]; with_reducible apply Within.upd) | split)

theorem execRead_within {M : List Part} {z : State} (tag : Nat) (s : State) (hs : Within M z s) (hm : Sub ringPath M)
    : AnsWithin M z (execRead tag s) := by
  unfold execRead
  try dsimp only
  repeat' (first
      | (with_reducible first
          | assumption | intro _ | exact Sub.of (by decide +kernel) hm | apply ringCmdIf_within
          | apply completeData_within | apply complete_within | apply ansWithin_next)
      | split)

theorem execScrubPeriod_within {M : List Part} {z : State} (weak : List Nat) (s : State)
    (headers : optParam (List (Nat × Nat)) []) (suppliesOk : optParam Bool true) (unread : optParam (List Nat) []) (hs
    : Within M z s) (hm : Sub [.status, .store] M) (hr : rolesThere s (.scrubPeriod weak headers suppliesOk unread) = true)
    : AnsWithin M z (execScrubPeriod weak s headers suppliesOk unread) := by
  unfold execScrubPeriod
  rw [inputTo_there hr]
  try dsimp only
  repeat' (first
      | (with_reducible first
          | assumption | intro _ | exact Sub.of (by decide +kernel) hm | apply State.when_within
          | apply scrubPass_within | apply noteDeferred_within | apply State.setStat_within | apply ansWithin_next
          | apply within_ite)
      | split)

theorem execWrite_within {M : List Part} {z : State} (tag : Nat) (data : Bytes) (s : State) (hs : Within M z s)
    (hm : Sub (ringPath ++ [Part.store]) M) : AnsWithin M z (execWrite tag data s) := by
  unfold execWrite
  try dsimp only
  repeat' (first
      | (with_reducible first
          | assumption | intro _ | exact Sub.of (by decide +kernel) hm | apply ringCmdIf_within | apply changeCmd_within
          | apply complete_within | apply nvRequest_within | apply markTaken_within | apply ansWithin_next
          | apply within_ite)
      | split)

theorem execRecordWriteDone_within {M : List Part} {z : State} (suppliesOk : Bool) (verifyOk : Bool) (s : State) (hs
    : Within M z s)
    (hm : Sub (hostPath ++ [.held, .force, .tap, .boundary, .store, .keys, .holly, .release, .metering, .cycle, .subGhz, .uwb, .radio, .transponder, .update]) M)
    (hr : rolesThere s (.recordWriteDone suppliesOk verifyOk) = true)
    : AnsWithin M z (execRecordWriteDone suppliesOk verifyOk s) := by
  unfold execRecordWriteDone
  rw [inputTo_there hr]
  try dsimp only
  repeat' (first
      | (with_reducible first
          | assumption | intro _ | exact Sub.of (by decide +kernel) hm | apply State.when_within
          | apply commitFront_within | apply ansWithin_next))

theorem execDelete_within {M : List Part} {z : State} (tag : Nat) (s : State) (hs : Within M z s)
    (hm : Sub (ringPath ++ [Part.store]) M) : AnsWithin M z (execDelete tag s) := by
  unfold execDelete
  try dsimp only
  repeat' (first
      | (with_reducible first
          | assumption | intro _ | exact Sub.of (by decide +kernel) hm | apply ringCmdIf_within | apply changeCmd_within
          | apply nvRequest_within | apply markTaken_within | apply ansWithin_next))

theorem execConfigSave_within {M : List Part} {z : State} (s : State) (nvwp : optParam (Option Bool) none) (hs
    : Within M z s) (hm : Sub [.host, .status, .nvwp, .store] M) : AnsWithin M z (execConfigSave s nvwp) := by
  unfold execConfigSave
  try dsimp only
  repeat' (first
      | (with_reducible first
          | assumption | exact rfl | intro _ | exact Sub.of (by decide +kernel) hm | exact Or.inr rfl
          | exact Or.inl (Sub.has hm (by decide +kernel)) | apply State.when_within | apply State.setStat_within
          | apply nvRequest_within | apply State.sampleNvwp_within | apply ansWithin_next | apply within_ite)
      | (simp only [within_mk]; with_reducible apply Within.upd) | split)

theorem execAuditCommit_within {M : List Part} {z : State} (s : State) (hs : Within M z s) (hm : Sub [.store] M)
    (hr : rolesThere s (.auditCommit) = true) : AnsWithin M z (execAuditCommit s) := by
  unfold execAuditCommit
  rw [inputTo_there hr]
  try dsimp only
  repeat' (first
      | (with_reducible first
          | assumption | intro _ | exact Sub.of (by decide +kernel) hm | apply State.when_within
          | apply nvRequest_within | apply ansWithin_next))

theorem execMailboxRecvBuffer_within {M : List Part} {z : State} (tag : Nat) (s : State) (hs : Within M z s)
    (hm : Sub ringPath M) : AnsWithin M z (execMailboxRecvBuffer tag s) := by
  unfold execMailboxRecvBuffer
  try dsimp only
  repeat' (first
      | (with_reducible first
          | assumption | exact Sub.of (by decide +kernel) hm | apply postBuffer_within | apply ansWithin_next))

theorem execPeerMessage_within {M : List Part} {z : State} (src : Nat) (seq : Nat) (time : Nat) (channel : Nat)
    (multicast : Bool) (data : Bytes) (s : State) (hs : Within M z s)
    (hm : Sub [.rings, .host, .fabric, .status, .output, .nonces] M)
    (hr : rolesThere s (.peerMessage src seq time channel multicast data) = true)
    : AnsWithin M z (execPeerMessage src seq time channel multicast data s) := by
  unfold execPeerMessage
  rw [inputTo_there hr]
  try dsimp only
  repeat' (first
      | (with_reducible first
          | assumption | intro _ | exact Sub.of (by decide +kernel) hm | apply State.when_within
          | apply seqAccept_within | apply fillBuffer_within | apply ansWithin_next))

theorem execConfigApply_within {M : List Part} {z : State} (tag : Nat) (data : Bytes) (s : State) (hs : Within M z s)
    (hm : Sub (hostPath ++ [Part.held, Part.force, Part.boundary, Part.store, Part.keys, Part.release, Part.metering, Part.cycle, Part.subGhz, Part.uwb, Part.transponder]) M)
    : AnsWithin M z (execConfigApply tag data s) := by
  unfold execConfigApply
  try dsimp only
  repeat' (first
      | (with_reducible first
          | assumption | intro _ | exact Sub.of (by decide +kernel) hm | apply ringCmdIf_within | apply applyBlob_within
          | apply complete_within | apply ansWithin_next | apply within_ite)
      | split)

theorem execRecvBuffer_within {M : List Part} {z : State} (tag : Nat) (s : State) (hs : Within M z s)
    (hm : Sub [.rings, .host, .fabric, .status, .output, .nonces] M) (hr : rolesThere s (.recvBuffer tag) = true)
    : AnsWithin M z (execRecvBuffer tag s) := by
  unfold execRecvBuffer
  rw [inputTo_there hr]
  try dsimp only
  repeat' (first
      | (with_reducible first
          | assumption | exact Sub.of (by decide +kernel) hm | apply postBuffer_within | apply ansWithin_next))

theorem execConfigExport_within {M : List Part} {z : State} (tag : Nat) (s : State) (hs : Within M z s)
    (hm : Sub ringPath M) : AnsWithin M z (execConfigExport tag s) := by
  unfold execConfigExport
  try dsimp only
  repeat' (first
      | (with_reducible first
          | assumption | intro _ | exact Sub.of (by decide +kernel) hm | apply ringCmdIf_within
          | apply completeData_within | apply ansWithin_next))

theorem execAppMessage_within {M : List Part} {z : State} (channel : Nat) (data : Bytes) (s : State) (hs : Within M z s)
    (hm : Sub ringPath M) : AnsWithin M z (execAppMessage channel data s) := by
  unfold execAppMessage
  try dsimp only
  repeat' (first
      | (with_reducible first
          | assumption | intro _ | exact Sub.of (by decide +kernel) hm | apply State.when_within
          | apply fillBuffer_within | apply ansWithin_next))

theorem execMailboxTake_within {M : List Part} {z : State} (s : State) (hs : Within M z s) (hm : Sub ringPath M)
    : AnsWithin M z (execMailboxTake s) := by
  unfold execMailboxTake
  try dsimp only
  repeat' (first
      | (with_reducible first
          | assumption | exact rfl | intro _ | exact Sub.of (by decide +kernel) hm | exact Or.inr rfl
          | exact Or.inl (Sub.has hm (by decide +kernel)) | apply State.when_within | apply complete_within
          | apply State.emit_within | apply ansWithin_next)
      | (simp only [within_mk]; with_reducible apply Within.upd) | split)

theorem execAuditRead_within {M : List Part} {z : State} (tag : Nat) (s : State) (hs : Within M z s) (hm : Sub ringPath M)
    : AnsWithin M z (execAuditRead tag s) := by
  unfold execAuditRead
  try dsimp only
  repeat' (first
      | (with_reducible first
          | assumption | intro _ | exact Sub.of (by decide +kernel) hm | apply ringCmdIf_within
          | apply completeData_within | apply ansWithin_next))

theorem execSend_within {M : List Part} {z : State} (tag : Nat) (data : Bytes) (s : State) (hs : Within M z s)
    (hm : Sub [.rings, .host, .fabric, .status, .output, .nonces] M) (hr : rolesThere s (.send tag data) = true)
    : AnsWithin M z (execSend tag data s) := by
  unfold execSend
  rw [inputTo_there hr]
  try dsimp only
  repeat' (first
      | (with_reducible first
          | assumption | intro _ | exact Sub.of (by decide +kernel) hm | apply ringCmdIf_within | apply complete_within
          | apply sendFrame_within | apply ansWithin_next | apply within_ite)
      | split)

theorem execPost_within {M : List Part} {z : State} (tag : Nat) (data : Bytes) (s : State) (hs : Within M z s)
    (hm : Sub ringPath M) : AnsWithin M z (execPost tag data s) := by
  unfold execPost
  try dsimp only
  repeat' (first
      | (with_reducible first
          | assumption | exact rfl | intro _ | exact Sub.of (by decide +kernel) hm | exact Or.inr rfl
          | exact Or.inl (Sub.has hm (by decide +kernel)) | apply ringCmdIf_within | apply complete_within
          | apply markTaken_within | apply ansWithin_next | apply within_ite)
      | (simp only [within_mk]; with_reducible apply Within.upd) | split)

end Sys2Proof.Machine
end

