-- ==== Sys2Proof/Laws/WithinPower.lean ====
section
/-! SUPPORT. What each definition keeps and where it may write (Laws/Within.lean): radio, update and start operations,
power and supervision. -/
namespace Sys2Proof.Machine

set_option Elab.async false

theorem prodDone_within {M : List Part} {z : State} (s : State) (hs : Within M z s)
    (hm : Sub (ringPath ++ [Part.power, Part.subGhz]) M) : Within M z (prodDone s) := by
  unfold prodDone
  try dsimp only
  repeat' (first
      | (with_reducible first
          | assumption | exact rfl | exact Sub.of (by decide +kernel) hm | exact Or.inr rfl
          | exact Or.inl (Sub.has hm (by decide +kernel)) | apply sgrNextJob_within | apply complete_within
          | apply within_ite)
      | (simp only [within_mk]; with_reducible apply Within.upd) | split)

theorem prodSent_within {M : List Part} {z : State} (s : State) (hs : Within M z s) (hm : Sub [.power] M)
    : Within M z (prodSent s) := by
  unfold prodSent
  try dsimp only
  repeat' (first
      | (with_reducible first
          | assumption | exact rfl | exact Or.inr rfl | exact Or.inl (Sub.has hm (by decide +kernel)))
      | (simp only [within_mk]; with_reducible apply Within.upd) | split)

theorem prodUwbLeaves_within {M : List Part} {z : State} (s : State) (nine : Bool) (hs : Within M z s)
    (hm : Sub [.output, .power, .uwb] M) : Within M z (prodUwbLeaves s nine) := by
  unfold prodUwbLeaves
  try dsimp only
  repeat' (first
      | (with_reducible first
          | assumption | exact rfl | exact Sub.of (by decide +kernel) hm | exact Or.inr rfl
          | exact Or.inl (Sub.has hm (by decide +kernel)) | apply uwbCharge_within | apply prodSent_within
          | apply State.emit_within)
      | (simp only [within_mk]; with_reducible apply Within.upd))

theorem prodUwb_within {M : List Part} {z : State} (s : State) (hs : Within M z s)
    (hm : Sub [.status, .output, .power, .uwb] M) : Within M z (prodUwb s) := by
  unfold prodUwb
  try dsimp only
  repeat' (first
      | (with_reducible first
          | assumption | exact Sub.of (by decide +kernel) hm | apply State.raise_within | apply prodUwbLeaves_within
          | apply within_ite)
      | split)

theorem prodLeaves_within {M : List Part} {z : State} (s : State) (hs : Within M z s)
    (hm : Sub [.output, .power, .subGhz] M) : Within M z (prodLeaves s) := by
  unfold prodLeaves
  try dsimp only
  repeat' (first
      | (with_reducible first
          | assumption | exact Sub.of (by decide +kernel) hm | apply prodSent_within | apply sgrTransmit_within))

theorem prodSgr_within {M : List Part} {z : State} (s : State) (hs : Within M z s)
    (hm : Sub [.status, .output, .power, .subGhz] M) : Within M z (prodSgr s) := by
  unfold prodSgr
  try dsimp only
  repeat' (first
      | (with_reducible first
          | assumption | exact rfl | exact Sub.of (by decide +kernel) hm | exact Or.inr rfl
          | exact Or.inl (Sub.has hm (by decide +kernel)) | apply prodLeaves_within | apply sgrBusy_within
          | apply sgrHold_within | refine sgrRefusal_within _ _ ?_ (Sub.of (by decide +kernel) hm) _ ‹_›
          | apply within_ite)
      | (simp only [within_mk]; with_reducible apply Within.upd) | split)

theorem prodFrame_within {M : List Part} {z : State} (s : State) (hs : Within M z s)
    (hm : Sub (ringPath ++ [Part.power, Part.subGhz, Part.uwb]) M) : Within M z (prodFrame s) := by
  unfold prodFrame
  try dsimp only
  repeat' (first
      | (with_reducible first
          | assumption | exact rfl | exact Sub.of (by decide +kernel) hm | exact Or.inr rfl
          | exact Or.inl (Sub.has hm (by decide +kernel)) | apply prodDone_within | apply prodUwb_within
          | apply prodSgr_within | apply within_ite)
      | (simp only [within_mk]; with_reducible apply Within.upd) | split)

theorem taskMarks_within {M : List Part} {z : State} (s : State) (t : Task) (hs : Within M z s) (hm : Sub [.rings] M)
    : Within M z (taskMarks s t) := by
  unfold taskMarks
  try dsimp only
  repeat' (first
      | (with_reducible first
          | assumption | intro _ | exact Sub.of (by decide +kernel) hm | apply markTaken_within | apply within_ite
          | apply within_foldl | apply within_foldl_fst)
      | split)

theorem sgrAfterCal_within {M : List Part} {z : State} (s : State) (hs : Within M z s) (hm : Sub [.subGhz] M)
    : Within M z (sgrAfterCal s) := by
  unfold sgrAfterCal
  try dsimp only
  repeat' (first
      | (with_reducible first
          | assumption | exact rfl | exact Sub.of (by decide +kernel) hm | exact Or.inr rfl
          | exact Or.inl (Sub.has hm (by decide +kernel)) | apply sgrReceive_within | apply sgrIdleAt_within
          | apply within_ite)
      | (simp only [within_mk]; with_reducible apply Within.upd) | split)

theorem leaveCal_within {M : List Part} {z : State} (s : State) (uwb : Bool) (hs : Within M z s)
    (hm : Sub [.subGhz, .uwb] M) : Within M z (leaveCal s uwb) := by
  unfold leaveCal
  try dsimp only
  repeat' (first
      | (with_reducible first
          | assumption | exact rfl | exact Sub.of (by decide +kernel) hm | exact Or.inr rfl
          | exact Or.inl (Sub.has hm (by decide +kernel)) | apply sgrAfterCal_within | apply within_ite)
      | (simp only [within_mk]; with_reducible apply Within.upd) | split)

theorem calPassed_within {M : List Part} {z : State} (s : State) (mask : Nat) (hs : Within M z s)
    (hm : Sub [.subGhz, .uwb] M) : Within M z (calPassed s mask) := by
  unfold calPassed
  try dsimp only
  repeat' (first
      | (with_reducible first
          | assumption | exact rfl | exact Or.inr rfl | exact Or.inl (Sub.has hm (by decide +kernel)))
      | (simp only [within_mk]; with_reducible apply Within.upd))

theorem calFails_within {M : List Part} {z : State} (s : State) (uwb : Bool) (hs : Within M z s) (hm : Sub hostPath M)
    : Within M z (calFails s uwb) := by
  unfold calFails
  try dsimp only
  repeat' (first
      | (with_reducible first
          | assumption | exact Sub.of (by decide +kernel) hm | apply raiseEvent_within | apply within_ite)
      | split)

theorem noteReference_within {M : List Part} {z : State} (s : State) (uwb : Bool) (hs : Within M z s)
    (hm : Sub [.power, .subGhz, .uwb] M) : Within M z (noteReference s uwb) := by
  unfold noteReference
  try dsimp only
  repeat' (first
      | (with_reducible first
          | assumption | exact rfl | exact Sub.of (by decide +kernel) hm | exact Or.inr rfl
          | exact Or.inl (Sub.has hm (by decide +kernel)) | apply requestCal_within | apply within_ite)
      | (simp only [within_mk]; with_reducible apply Within.upd) | split)

theorem blockEnds_within {M : List Part} {z : State} (s : State) (t : Task) (failed : Nat) (hs : Within M z s)
    (hm : Sub (hostPath ++ [Part.power, Part.subGhz, Part.uwb]) M) : Within M z (blockEnds s t failed) := by
  unfold blockEnds
  try dsimp only
  repeat' (first
      | (with_reducible first
          | assumption | exact rfl | exact Sub.of (by decide +kernel) hm | exact Or.inr rfl
          | exact Or.inl (Sub.has hm (by decide +kernel)) | apply calPassed_within | apply calibrateNote_within
          | apply calFails_within | apply noteReference_within | apply leaveCal_within | apply sgrNextJob_within
          | apply selftestBit_within | apply within_ite)
      | (simp only [within_mk]; with_reducible apply Within.upd) | split)

theorem oscStarts_within {M : List Part} {z : State} (s : State) (hs : Within M z s) (hm : Sub [.power, .subGhz] M)
    : Within M z (oscStarts s) := by
  unfold oscStarts
  try dsimp only
  repeat' (first
      | (with_reducible first
          | assumption | exact rfl | exact Or.inr rfl | exact Or.inl (Sub.has hm (by decide +kernel)))
      | (simp only [within_mk]; with_reducible apply Within.upd))

theorem startTask_within {M : List Part} {z : State} (s : State) (t : Task) (leakGnd : Bool) (leakVlf : Bool) (hs
    : Within M z s) (hm : Sub (hostPath ++ [Part.power, Part.field, Part.subGhz, Part.uwb]) M)
    : Within M z (startTask s t leakGnd leakVlf) := by
  unfold startTask
  try dsimp only
  repeat' (first
      | (with_reducible first
          | assumption | exact rfl | exact Sub.of (by decide +kernel) hm | exact Or.inr rfl
          | exact Or.inl (Sub.has hm (by decide +kernel)) | apply taskMarks_within | apply dropTask_within
          | apply runDiag_within | apply sgrIdleAt_within | apply oscStarts_within)
      | (simp only [within_mk]; with_reducible apply Within.upd) | split)

theorem appFallsBack_within {M : List Part} {z : State} (s : State) (hs : Within M z s) (hm : Sub [.update] M)
    : Within M z (appFallsBack s) := by
  unfold appFallsBack
  try dsimp only
  repeat' (first
      | (with_reducible first
          | assumption | exact rfl | exact Or.inr rfl | exact Or.inl (Sub.has hm (by decide +kernel)))
      | (simp only [within_mk]; with_reducible apply Within.upd) | split)

theorem restartNeeded_within {M : List Part} {z : State} (s : State) (hs : Within M z s) (hm : Sub [.status] M)
    : Within M z (restartNeeded s) := by
  unfold restartNeeded
  try dsimp only
  repeat' (first | (with_reducible first | assumption | exact Sub.of (by decide +kernel) hm | apply State.raise_within))

theorem abandonActivation_within {M : List Part} {z : State} (s : State) (hs : Within M z s)
    (hm : Sub (ringPath ++ [Part.update]) M) : Within M z (abandonActivation s) := by
  unfold abandonActivation
  try dsimp only
  repeat' (first
      | (with_reducible first
          | assumption | exact rfl | exact Sub.of (by decide +kernel) hm | exact Or.inr rfl
          | exact Or.inl (Sub.has hm (by decide +kernel)) | apply complete_within | apply restartNeeded_within)
      | (simp only [within_mk]; with_reducible apply Within.upd) | split)

theorem abandonMixed_within {M : List Part} {z : State} (s : State) (hs : Within M z s)
    (hm : Sub (ringPath ++ [Part.update]) M) : Within M z (abandonMixed s) := by
  unfold abandonMixed
  try dsimp only
  repeat' (first
      | (with_reducible first
          | assumption | exact Sub.of (by decide +kernel) hm | apply abandonActivation_within | apply State.raise_within
          | apply within_ite)
      | split)

theorem appSwitches_within {M : List Part} {z : State} (s : State) (a : Activation) (hs : Within M z s)
    (hm : Sub (hostPath ++ [Part.held, Part.force, Part.boundary, Part.store, Part.keys, Part.release, Part.metering, Part.cycle, Part.subGhz, Part.uwb, Part.transponder, Part.update]) M)
    : Within M z (appSwitches s a) := by
  unfold appSwitches
  try dsimp only
  repeat' (first
      | (with_reducible first
          | assumption | exact rfl | exact Sub.of (by decide +kernel) hm | exact Or.inr rfl
          | exact Or.inl (Sub.has hm (by decide +kernel)) | apply applyBlob_within)
      | (simp only [within_mk]; with_reducible apply Within.upd) | split)

theorem roleSwapped_within {M : List Part} {z : State} (s : State) (a : Activation) (n : Nat) (hs : Within M z s)
    (hm : Sub [.rings, .status, .update] M) : Within M z (roleSwapped s a n) := by
  unfold roleSwapped
  try dsimp only
  repeat' (first
      | (with_reducible first
          | assumption | exact rfl | exact Sub.of (by decide +kernel) hm | exact Or.inr rfl
          | exact Or.inl (Sub.has hm (by decide +kernel)) | apply markTaken_within | apply State.setStat_within
          | apply within_ite)
      | (simp only [within_mk]; with_reducible apply Within.upd) | split)

theorem activationDone_within {M : List Part} {z : State} (s : State) (a : Activation) (hs : Within M z s)
    (hm : Sub (ringPath ++ [Part.update]) M) : Within M z (activationDone s a) := by
  unfold activationDone
  refine complete_within _ _ _ _ _ (hs.trans ⟨rfl, rfl, rfl, ?_, fun _ => rfl, fun _ => rfl, id, id⟩ ?_) (Sub.of (by decide +kernel) hm)
  · dsimp only
    split <;> omega
  · exact { Untouched.refl M s with update := fun h => absurd (Sub.has hm (by decide +kernel)) h }

theorem refillEnds_within {M : List Part} {z : State} (s : State) (hs : Within M z s)
    (hm : Sub (ringPath ++ [Part.update]) M) : Within M z (refillEnds s) := by
  unfold refillEnds
  try dsimp only
  repeat' (first
      | (with_reducible first
          | assumption | exact Sub.of (by decide +kernel) hm | apply activationDone_within | apply within_ite)
      | split)

theorem resumeChecks_within {M : List Part} {z : State} (s : State) (hs : Within M z s) (hm : Sub [.transponder] M)
    : Within M z (resumeChecks s) := by
  unfold resumeChecks
  try dsimp only
  repeat' (first
      | (with_reducible first
          | assumption | exact rfl | exact Or.inr rfl | exact Or.inl (Sub.has hm (by decide +kernel)))
      | (simp only [within_mk]; with_reducible apply Within.upd) | split)

theorem allInForce_within {M : List Part} {z : State} (s : State) (hs : Within M z s)
    (hm : Sub [.force, .boundary, .metering] M) : Within M z (allInForce s) := by
  unfold allInForce
  have h := applyTiming_within .meterSettings _ (applyTiming_within .boundary _ hs (Sub.of (by decide +kernel) hm)) (Sub.of (by decide +kernel) hm)
  generalize applyTiming .meterSettings (applyTiming .boundary s) = t at h ⊢
  repeat' (first
      | (with_reducible first
          | assumption | exact rfl | intro _ | exact Sub.of (by decide +kernel) hm | exact Or.inr rfl
          | exact Or.inl (Sub.has hm (by decide +kernel)) | apply State.setStat_within | apply within_ite
          | apply within_foldl)
      | (simp only [within_mk]; with_reducible apply Within.upd) | split)

theorem recordDefaults_within {M : List Part} {z : State} (s : State) (hs : Within M z s) (hm : Sub [.held, .force] M)
    : Within M z (recordDefaults s) := by
  unfold recordDefaults
  try dsimp only
  repeat' (first
      | (with_reducible first
          | assumption | intro _ | exact Sub.of (by decide +kernel) hm | apply State.setForce_within
          | apply State.setHeld_within | apply within_ite | apply within_foldl | apply within_foldl_fst)
      | split)

theorem resolveRegRec_within {M : List Part} {z : State} (s : State) (hs : Within M z s)
    (hm : Sub [.host, .status, .held, .force, .radio] M) : Within M z (resolveRegRec s) := by
  unfold resolveRegRec
  try dsimp only
  repeat' (first
      | (with_reducible first
          | assumption | exact rfl | exact Sub.of (by decide +kernel) hm | exact Or.inr rfl
          | exact Or.inl (Sub.has hm (by decide +kernel)) | apply recordTakesEffect_within | apply recordDefaults_within)
      | (simp only [within_mk]; with_reducible apply Within.upd) | split)

theorem startCalibrations_within {M : List Part} {z : State} (failed : Nat) (s : State) (hs : Within M z s)
    (hm : Sub (hostPath ++ [Part.power, Part.subGhz, Part.uwb]) M) : Within M z (startCalibrations failed s) := by
  unfold startCalibrations
  try dsimp only
  repeat' (first
      | (with_reducible first
          | assumption | exact rfl | exact Sub.of (by decide +kernel) hm | exact Or.inr rfl
          | exact Or.inl (Sub.has hm (by decide +kernel)) | apply calPassed_within | apply calFails_within
          | apply oscStarts_within | apply within_ite)
      | (simp only [within_mk]; with_reducible apply Within.upd) | split)

theorem closeTorn_within {M : List Part} {z : State} (s : State) (hs : Within M z s) (hm : Sub [.status, .store] M)
    : Within M z (closeTorn s) := by
  unfold closeTorn
  refine within_foldl (fun t a h => ?_) _ _ hs
  have hf : Within M z (t.setArea a { t.area a with full := true }) :=
    State.setArea_within _ _ _ h (fun h => (h a).congr rfl rfl id (h a).2.2.2.1 (h a).2.2.2.2.1) (Sub.of (by decide +kernel) hm)
  dsimp only
  split
  · exact h
  · split
    · exact State.raise_within _ _ hf (Sub.of (by decide +kernel) hm)
    · split
      · exact hf
      · exact h

theorem completesInterrupted_within {M : List Part} {z : State} (s : State) (hs : Within M z s) (hm : Sub [.store] M)
    : Within M z (completesInterrupted s) := by
  unfold completesInterrupted
  try dsimp only
  repeat' (first
      | (with_reducible first
          | assumption | exact rfl | exact Or.inr rfl | exact Or.inl (Sub.has hm (by decide +kernel)) | apply within_ite)
      | (simp only [within_mk]; with_reducible apply Within.upd) | split)

theorem runs_within {M : List Part} {z : State} (calFailed : Nat) (temp : Int) (s : State) (hs : Within M z s)
    (hm : Sub (hostPath ++ [Part.mode, Part.store, Part.power, Part.keys, Part.release, Part.metering, Part.field, Part.cycle, Part.subGhz, Part.uwb, Part.transponder]) M)
    : Within M z (runs calFailed temp s) := by
  unfold runs
  try dsimp only
  repeat' (first
      | (with_reducible first
          | assumption | exact rfl | exact Sub.of (by decide +kernel) hm | exact Or.inr rfl
          | exact Or.inl (Sub.has hm (by decide +kernel)) | apply noteChannels_within | apply State.raise_within
          | apply tempTaken_within | apply startCalibrations_within | apply within_ite)
      | (simp only [within_mk]; with_reducible apply Within.upd) | split)

theorem fillSlot0_within {M : List Part} {z : State} (s : State) (hs : Within M z s) (hm : Sub [.status, .nonces, .keys] M)
    : Within M z (fillSlot0 s) := by
  unfold fillSlot0
  try dsimp only
  repeat' (first
      | (with_reducible first
          | assumption | exact Sub.of (by decide +kernel) hm | apply maskedSlot_within | apply State.setSlot_within
          | apply within_ite)
      | split)

theorem imageRuns_within {M : List Part} {z : State} (s : State) (hs : Within M z s) (hm : Sub [.update] M)
    : Within M z (imageRuns s) := by
  unfold imageRuns
  try dsimp only
  repeat' (first
      | (with_reducible first
          | assumption | exact rfl | exact Or.inr rfl | exact Or.inl (Sub.has hm (by decide +kernel)))
      | (simp only [within_mk]; with_reducible apply Within.upd))

theorem configFormatChecked_within {M : List Part} {z : State} (s : State) (hs : Within M z s)
    (hm : Sub (hostPath ++ [Part.held, Part.force, Part.boundary, Part.store, Part.keys, Part.release, Part.metering, Part.cycle, Part.subGhz, Part.uwb, Part.transponder, Part.update]) M)
    : Within M z (configFormatChecked s) := by
  unfold configFormatChecked
  extract_lets f t u
  have ht : Within M z t := by
    refine olderReported_within _ _ _ (within_foldl (fun t b h => registerDefaulted_within _ _ h (Sub.of (by decide +kernel) hm)) _ _ hs) (Sub.of (by decide +kernel) hm)
  clear_value t
  have hu : Within M z u := State.raise_within _ _ (blobAudited_within _ _ _ hs ht (Sub.of (by decide +kernel) hm)) (Sub.of (by decide +kernel) hm)
  clear_value u
  repeat' (first
      | (with_reducible first
          | assumption | exact rfl | intro _ | exact Sub.of (by decide +kernel) hm | exact Or.inr rfl
          | exact Or.inl (Sub.has hm (by decide +kernel)) | apply State.setStat_within | apply within_ite
          | apply within_foldl)
      | (simp only [within_mk]; with_reducible apply Within.upd) | split)

theorem resolveConfig_within {M : List Part} {z : State} (s : State) (hs : Within M z s)
    (hm : Sub [.held, .force, .store, .update] M) : Within M z (resolveConfig s) := by
  unfold resolveConfig
  try dsimp only
  repeat' (first
      | (with_reducible first
          | assumption | exact rfl | exact Or.inr rfl | exact Or.inl (Sub.has hm (by decide +kernel)))
      | (simp only [within_mk]; with_reducible apply Within.upd) | split)

theorem noteTies_within {M : List Part} {z : State} (s : State) (hs : Within M z s) (hm : Sub hostPath M)
    : Within M z (noteTies s) := by
  unfold noteTies
  try dsimp only
  repeat' (first
      | (with_reducible first
          | assumption | intro _ | exact Sub.of (by decide +kernel) hm | apply raiseEvent_within | apply within_ite
          | apply within_foldl | apply within_foldl_fst)
      | split)

theorem resolveStore_within {M : List Part} {z : State} (s : State) (hs : Within M z s)
    (hm : Sub (hostPath ++ [Part.held, Part.force, Part.boundary, Part.store, Part.keys, Part.release, Part.metering, Part.cycle, Part.subGhz, Part.uwb, Part.radio, Part.transponder, Part.update]) M)
    : Within M z (resolveStore s) := by
  unfold resolveStore
  try dsimp only
  repeat' (first
      | (with_reducible first
          | assumption | exact Sub.of (by decide +kernel) hm | apply noteProfile_within | apply resolveRegRec_within
          | apply allInForce_within | apply configFormatChecked_within | apply resolveConfig_within
          | apply closeTorn_within | apply noteTies_within | apply State.raise_within | apply State.setStat_within
          | apply within_ite)
      | split)

theorem restoreSlot_within {M : List Part} {z : State} (s : State) (n : Nat) (hs : Within M z s)
    (hm : Sub (hostPath ++ [Part.keys]) M) : Within M z (restoreSlot s n) := by
  unfold restoreSlot
  try dsimp only
  repeat' (first
      | (with_reducible first
          | assumption | exact Sub.of (by decide +kernel) hm | apply useSlot_within | apply maskedSlot_within
          | apply State.setSlot_within | apply event_within)
      | split)

theorem restoreSlots_within {M : List Part} {z : State} (s : State) (hs : Within M z s)
    (hm : Sub (hostPath ++ [Part.keys]) M) : Within M z (restoreSlots s) := by
  unfold restoreSlots
  try dsimp only
  repeat' (first
      | (with_reducible first
          | assumption | intro _ | exact Sub.of (by decide +kernel) hm | apply restoreSlot_within | apply within_foldl
          | apply within_foldl_fst))

theorem deriveSlot2_within {M : List Part} {z : State} (s : State) (hs : Within M z s)
    (hm : Sub [.status, .nonces, .keys] M) : Within M z (deriveSlot2 s) := by
  unfold deriveSlot2
  try dsimp only
  repeat' (first
      | (with_reducible first
          | assumption | exact Sub.of (by decide +kernel) hm | apply maskedSlot_within | apply useSlot_within
          | apply State.setSlot_within | apply within_ite)
      | split)

theorem makeUniqueKey_within {M : List Part} {z : State} (s : State) (hs : Within M z s)
    (hm : Sub [.status, .nonces, .keys] M) : Within M z (makeUniqueKey s) := by
  unfold makeUniqueKey
  have h2 : Within M z s.draw.2.draw.2 := State.draw_within _ (State.draw_within _ hs (Sub.of (by decide +kernel) hm)) (Sub.of (by decide +kernel) hm)
  split
  · next hc =>
    generalize s.draw = p at h2 ⊢
    obtain ⟨a, t⟩ := p
    dsimp only at h2 ⊢
    generalize t.draw = q at h2 ⊢
    obtain ⟨b, u⟩ := q
    have k := h2.keeps
    refine ⟨⟨k.pending, k.now, k.device, k.floor, k.appKey, fun e => ?_, k.rings, k.form⟩,
      { h2.untouched with keys := fun h => absurd (Sub.has hm (by decide +kernel)) h }⟩
    have := hs.keeps.uniqueKey e
    rw [← this] at e
    simp only [Bool.and_eq_true, Option.isNone_iff_eq_none] at hc
    rw [hc.2] at e
    exact absurd e (by simp)
  · exact hs

theorem resumeMeter_within {M : List Part} {z : State} (s : State) (hs : Within M z s)
    (hm : Sub [.status, .store, .metering] M) : Within M z (resumeMeter s) := by
  unfold resumeMeter
  try dsimp only
  repeat' (first
      | (with_reducible first
          | assumption | exact rfl | exact Sub.of (by decide +kernel) hm | exact Or.inr rfl
          | exact Or.inl (Sub.has hm (by decide +kernel)) | apply State.raise_within | apply within_ite)
      | (simp only [within_mk]; with_reducible apply Within.upd) | split)
  all_goals exact rfl

theorem resumeReceipts_within {M : List Part} {z : State} (s : State) (hs : Within M z s) (hm : Sub [.metering] M)
    : Within M z (resumeReceipts s) := by
  unfold resumeReceipts
  try dsimp only
  repeat' (first
      | (with_reducible first
          | assumption | exact rfl | exact Or.inr rfl | exact Or.inl (Sub.has hm (by decide +kernel)) | apply within_ite)
      | (simp only [within_mk]; with_reducible apply Within.upd) | split)

theorem resumeCounters_within {M : List Part} {z : State} (s : State) (hs : Within M z s)
    (hm : Sub [.store, .keys, .release] M) : Within M z (resumeCounters s) := by
  unfold resumeCounters
  try dsimp only
  repeat' (first
      | (with_reducible first
          | assumption | exact rfl | exact Sub.of (by decide +kernel) hm | exact Or.inr rfl
          | exact Or.inl (Sub.has hm (by decide +kernel)) | apply nvRequest_within)
      | (simp only [within_mk]; with_reducible apply Within.upd) | split)

theorem endLostSessions_within {M : List Part} {z : State} (s : State) (hs : Within M z s)
    (hm : Sub (ringPath ++ [Part.store, Part.keys, Part.metering]) M) : Within M z (endLostSessions s) := by
  unfold endLostSessions
  try dsimp only
  repeat' (first
      | (with_reducible first
          | assumption | exact rfl | intro _ | exact Sub.of (by decide +kernel) hm | exact Or.inr rfl
          | exact Or.inl (Sub.has hm (by decide +kernel)) | apply receiptDue_within | apply sessEvent_within
          | apply startReceipt_within | apply within_foldl | apply within_foldl_fst)
      | (simp only [within_mk]; with_reducible apply Within.upd) | split)

theorem noteLocks_within {M : List Part} {z : State} (s : State) (hs : Within M z s) (hm : Sub [.holly] M)
    : Within M z (noteLocks s) := by
  unfold noteLocks
  try dsimp only
  repeat' (first
      | (with_reducible first
          | assumption | exact rfl | exact Or.inr rfl | exact Or.inl (Sub.has hm (by decide +kernel)))
      | (simp only [within_mk]; with_reducible apply Within.upd))

theorem resumeLocks_within {M : List Part} {z : State} (s : State) (hs : Within M z s) (hm : Sub [.holly] M)
    : Within M z (resumeLocks s) := by
  unfold resumeLocks
  try dsimp only
  repeat' (first
      | (with_reducible first
          | assumption | exact rfl | intro _ | exact Sub.of (by decide +kernel) hm | exact Or.inr rfl
          | exact Or.inl (Sub.has hm (by decide +kernel)) | apply noteLocks_within | apply within_ite
          | apply within_foldl | apply within_foldl_fst)
      | (simp only [within_mk]; with_reducible apply Within.upd) | split)

theorem resumeHolly_within {M : List Part} {z : State} (s : State) (hs : Within M z s) (hm : Sub [.holly] M)
    : Within M z (resumeHolly s) := by
  unfold resumeHolly
  try dsimp only
  repeat' (first
      | (with_reducible first
          | assumption | exact rfl | exact Sub.of (by decide +kernel) hm | exact Or.inr rfl
          | exact Or.inl (Sub.has hm (by decide +kernel)) | apply resumeLocks_within | apply within_ite)
      | (simp only [within_mk]; with_reducible apply Within.upd) | split)

theorem stateRestored_within {M : List Part} {z : State} (s : State) (hs : Within M z s)
    (hm : Sub (hostPath ++ [Part.held, Part.force, Part.boundary, Part.store, Part.keys, Part.holly, Part.release, Part.metering, Part.cycle, Part.subGhz, Part.uwb, Part.radio, Part.transponder, Part.update]) M)
    : Within M z (stateRestored s) := by
  unfold stateRestored
  extract_lets a b c e f g
  have ha : Within M z a := resolveStore_within _ hs (Sub.of (by decide +kernel) hm)
  clear_value a
  have hb : Within M z b := restoreSlots_within _ (deriveSlot2_within _ (fillSlot0_within _ (makeUniqueKey_within _ ha (Sub.of (by decide +kernel) hm)) (Sub.of (by decide +kernel) hm)) (Sub.of (by decide +kernel) hm)) (Sub.of (by decide +kernel) hm)
  clear_value b
  have hc : Within M z c :=
    resumeChecks_within _ (resumeMeter_within _ (resumeReceipts_within _ (resumeCounters_within _ hb (Sub.of (by decide +kernel) hm)) (Sub.of (by decide +kernel) hm)) (Sub.of (by decide +kernel) hm)) (Sub.of (by decide +kernel) hm)
  clear_value c
  have he : Within M z e := endLostSessions_within _ hc (Sub.of (by decide +kernel) hm)
  clear_value e
  have hf : Within M z f := importResumed_within _ (resumeHolly_within _ he (Sub.of (by decide +kernel) hm)) (Sub.of (by decide +kernel) hm)
  clear_value f
  have hg : Within M z g := by
    unfold g
    repeat' (first
        | (with_reducible first
            | assumption | exact rfl | intro _ | exact Sub.of (by decide +kernel) hm | exact Or.inr rfl
            | exact Or.inl (Sub.has hm (by decide +kernel)) | apply completesInterrupted_within
            | apply portTrains_within | apply within_ite | apply within_foldl)
        | (simp only [within_mk]; with_reducible apply Within.upd) | split)
  clear_value g
  generalize heldWord g 0x0430 = w
  repeat' (first
      | (with_reducible first
          | assumption | exact rfl | intro _ | exact Sub.of (by decide +kernel) hm | exact Or.inr rfl
          | exact Or.inl (Sub.has hm (by decide +kernel)) | apply judgeHead_within | apply within_ite
          | apply within_foldl)
      | (simp only [within_mk]; with_reducible apply Within.upd) | split)

theorem headerRead_form {a : Area} {v : AreaState} {l : List StoredRec} (k : Nat) (b : Bytes) (h : AreaForm a v l) :
    AreaForm a (headerRead a k b v) l := by
  unfold headerRead
  dsimp only
  split
  · have hn : AreaForm a (if (decide (k = v.writeSector) && nextIsFree a v) = true then nextSector a v else v) l := by
      split
      · next e => exact h.next (Bool.and_eq_true _ _ ▸ e).2
      · exact h
    exact hn.congr rfl rfl id hn.2.2.2.1 hn.2.2.2.2.1
  · split
    · split
      · next e =>
        simp only [Bool.and_eq_true, decide_eq_true_eq] at e
        refine ⟨h.1, h.2.1, fun _ => Nat.pos_of_ne_zero (by simpa using e.2), h.2.2.2.1, h.2.2.2.2.1, fun r hr hra => ?_⟩
        exact ⟨(h.2.2.2.2.2 r hr hra).1, (sectorFree_congr a v _ r.sector rfl rfl).trans (h.2.2.2.2.2 r hr hra).2⟩
      · exact h.congr rfl rfl id h.2.2.2.1 h.2.2.2.2.1
    · split
      · exact h.congr rfl rfl id h.2.2.2.1 h.2.2.2.2.1
      · exact h

theorem flashRead_within {M : List Part} {z : State} (r : StartResult) (s : State) (hs : Within M z s)
    (hm : Sub [.store] M) :
    Within M z (flashRead r s) := by
  unfold flashRead
  refine within_foldl (fun t e h => ?_) _ _ ?_
  · split
    · next a _ =>
      split
      · exact State.setArea_within _ _ _ h (fun h => headerRead_form _ _ (h a)) (Sub.of (by decide +kernel) hm)
      · exact h
    · exact h
  · refine hs.inStore (Sub.has hm (by decide +kernel)) (fun hz a => ?_)
    obtain ⟨w1, w2, w3, w4, w5, w6⟩ := hs.keeps.form hz a
    refine ⟨w1, w2, w3, w4, w5, fun x hx hxa => ?_⟩
    obtain ⟨e, he, rfl⟩ := List.mem_map.mp hx
    exact w6 e.1 (List.fst_mem_of_mem_zipIdx he) hxa

theorem startRuns_within {M : List Part} {z : State} (r : StartResult) (loader : Nat) (s : State) (hs : Within M z s)
    (hm : Sub (hostPath ++ [Part.mode, Part.held, Part.force, Part.boundary, Part.store, Part.power, Part.keys, Part.holly, Part.release, Part.metering, Part.field, Part.cycle, Part.subGhz, Part.uwb, Part.radio, Part.transponder, Part.update]) M)
    : Within M z (startRuns r loader s) := by
  unfold startRuns
  try dsimp only
  repeat' (first
      | (with_reducible first
          | assumption | exact rfl | exact Sub.of (by decide +kernel) hm | exact Or.inr rfl
          | exact Or.inl (Sub.has hm (by decide +kernel)) | apply imageRuns_within | apply stateRestored_within
          | apply flashRead_within | apply enterFailed_within | apply runs_within | apply within_ite)
      | (simp only [within_mk]; with_reducible apply Within.upd) | split)

theorem recovers_within {M : List Part} {z : State} (loader : Option Nat) (s : State) (hs : Within M z s)
    (hm : Sub [.mode, .update] M) : Within M z (recovers loader s) := by
  unfold recovers
  try dsimp only
  repeat' (first
      | (with_reducible first
          | assumption | exact rfl | exact Or.inr rfl | exact Or.inl (Sub.has hm (by decide +kernel)))
      | (simp only [within_mk]; with_reducible apply Within.upd))

theorem sourceTaken_within {M : List Part} {z : State} (swing : Nat) (s : State) (hs : Within M z s) (hm : Sub [.power] M)
    : Within M z (sourceTaken swing s) := by
  unfold sourceTaken
  try dsimp only
  repeat' (first
      | (with_reducible first
          | assumption | exact rfl | exact Or.inr rfl | exact Or.inl (Sub.has hm (by decide +kernel)))
      | (simp only [within_mk]; with_reducible apply Within.upd))

theorem rise_within {M : List Part} {z : State} (s : State) (hs : Within M z s)
    (hm : Sub (hostPath ++ [Part.power, Part.keys]) M) : Within M z (rise s) := by
  unfold rise
  try dsimp only
  repeat' (first
      | (with_reducible first
          | assumption | exact rfl | intro _ | exact Sub.of (by decide +kernel) hm | exact Or.inr rfl
          | exact Or.inl (Sub.has hm (by decide +kernel)) | apply restoreSlots_within | apply deriveSlot2_within
          | apply fillSlot0_within | apply portTrains_within | apply within_ite | apply within_foldl
          | apply within_foldl_fst)
      | (simp only [within_mk]; with_reducible apply Within.upd) | split)

theorem coilTakenOver_within {M : List Part} {z : State} (s : State) (hs : Within M z s)
    (hm : Sub (hostPath ++ [Part.store, Part.release, Part.transponder]) M) : Within M z (coilTakenOver s) := by
  unfold coilTakenOver
  try dsimp only
  repeat' (first
      | (with_reducible first
          | assumption | exact rfl | exact Sub.of (by decide +kernel) hm | exact Or.inr rfl
          | exact Or.inl (Sub.has hm (by decide +kernel)) | apply fieldCollapse_within)
      | (simp only [within_mk]; with_reducible apply Within.upd) | split)

theorem dropCellFrame_within {M : List Part} {z : State} (s : State) (o : Nat) (c : Nat) (hs : Within M z s)
    (hm : Sub sendPath M) : Within M z (dropCellFrame s o c) := by
  unfold dropCellFrame
  try dsimp only
  repeat' (first
      | (with_reducible first
          | assumption | exact Sub.of (by decide +kernel) hm | apply countDrop_within | apply freeCells_within
          | apply State.setQueue_within | apply retireCheck_within | apply startBlock_within | apply within_ite)
      | split)

theorem engineDies_within {M : List Part} {z : State} (s : State) (e : Nat) (hs : Within M z s) (hm : Sub [.power] M)
    : Within M z (engineDies s e) := by
  unfold engineDies
  try dsimp only
  repeat' (first
      | (with_reducible first
          | assumption | exact rfl | exact Or.inr rfl | exact Or.inl (Sub.has hm (by decide +kernel)) | apply within_ite)
      | (simp only [within_mk]; with_reducible apply Within.upd) | split)

theorem sendSleepHello_within {M : List Part} {z : State} (s : State) (port : Nat) (hs : Within M z s) (hm : Sub sendPath M)
    : Within M z (sendSleepHello s port) := by
  unfold sendSleepHello
  try dsimp only
  repeat' (first
      | (with_reducible first
          | assumption | exact Sub.of (by decide +kernel) hm | apply helloFrame_within | apply sendSymbols_within
          | apply within_ite)
      | split)

theorem descend_within {M : List Part} {z : State} (s : State) (hs : Within M z s)
    (hm : Sub (sendPath ++ [Part.power, Part.keys, Part.subGhz, Part.uwb]) M) : Within M z (descend s) := by
  unfold descend
  try dsimp only
  repeat' (first
      | (with_reducible first
          | assumption | exact rfl | exact Sub.of (by decide +kernel) hm | exact Or.inr rfl
          | exact Or.inl (Sub.has hm (by decide +kernel)) | apply maskingPauses_within | apply clearWorkingKey_within
          | apply sendSleepHello_within | apply sgrIdleAt_within | apply within_ite)
      | (simp only [within_mk]; with_reducible apply Within.upd) | split)

theorem appRestarts_within {M : List Part} {z : State} (s : State) (hs : Within M z s)
    (hm : Sub (hostPath ++ [Part.power, Part.update]) M) : Within M z (appRestarts s) := by
  unfold appRestarts
  try dsimp only
  repeat' (first
      | (with_reducible first
          | assumption | exact Sub.of (by decide +kernel) hm | apply abandonActivation_within
          | apply appFallsBack_within | apply singleFault_within))

theorem countDouble_within {M : List Part} {z : State} (s : State) (hs : Within M z s) (hm : Sub [.status] M)
    : Within M z (countDouble s) := by
  unfold countDouble
  try dsimp only
  repeat' (first
      | (with_reducible first
          | assumption | exact Sub.of (by decide +kernel) hm | apply State.raise_within | apply State.bump_within))

theorem endRoleCtxs_within {M : List Part} {z : State} (s : State) (role : Nat) (hs : Within M z s)
    (hm : Sub (hostPath ++ [Part.release, Part.cycle, Part.subGhz, Part.uwb]) M) : Within M z (endRoleCtxs s role) := by
  unfold endRoleCtxs
  try dsimp only
  repeat' (first
      | (with_reducible first
          | assumption | intro _ | exact Sub.of (by decide +kernel) hm | apply roundOver_within | apply endCtxs_within
          | apply within_ite)
      | split)

theorem engineFaults_within {M : List Part} {z : State} (s : State) (role : Nat) (hs : Within M z s)
    (hm : Sub (hostPath ++ [Part.mode, Part.store, Part.power, Part.keys, Part.release, Part.metering, Part.field, Part.cycle, Part.subGhz, Part.uwb, Part.transponder, Part.update]) M)
    : Within M z (engineFaults s role) := by
  unfold engineFaults
  try dsimp only
  repeat' (first
      | (with_reducible first
          | assumption | exact rfl | exact Sub.of (by decide +kernel) hm | exact Or.inr rfl
          | exact Or.inl (Sub.has hm (by decide +kernel)) | apply enterFailed_within | apply abandonMixed_within
          | apply endRoleCtxs_within | apply within_ite)
      | (simp only [within_mk]; with_reducible apply Within.upd) | split)

theorem slotRestored_within {M : List Part} {z : State} (s : State) (n : Nat) (hs : Within M z s)
    (hm : Sub (hostPath ++ [Part.keys]) M) : Within M z (slotRestored s n) := by
  unfold slotRestored
  try dsimp only
  repeat' (first
      | (with_reducible first
          | assumption | exact Sub.of (by decide +kernel) hm | apply fillSlot0_within | apply deriveSlot2_within
          | apply restoreSlot_within | apply within_ite)
      | split)

theorem doubleError_within {M : List Part} {z : State} (s : State) (memory : Nat) (unit : Nat) (hs : Within M z s)
    (hm : Sub (hostPath ++ [Part.mode, Part.store, Part.power, Part.keys, Part.release, Part.metering, Part.field, Part.cycle, Part.subGhz, Part.uwb, Part.transponder, Part.update]) M)
    : Within M z (doubleError s memory unit) := by
  unfold doubleError
  try dsimp only
  repeat' (first
      | (with_reducible first
          | assumption | exact Sub.of (by decide +kernel) hm | apply appRestarts_within | apply countDouble_within
          | apply engineFaults_within | apply engineDies_within | apply enterFailed_within | apply eccDoubleFault_within
          | apply dropCellFrame_within | apply slotRestored_within | apply within_ite)
      | split)

theorem takesOver_within {M : List Part} {z : State} (s : State) (role : Nat) (hs : Within M z s)
    (hm : Sub (hostPath ++ [Part.store, Part.power, Part.release, Part.transponder, Part.update]) M)
    : Within M z (takesOver s role) := by
  unfold takesOver
  try dsimp only
  repeat' (first
      | (with_reducible first
          | assumption | exact rfl | exact Sub.of (by decide +kernel) hm | exact Or.inr rfl
          | exact Or.inl (Sub.has hm (by decide +kernel)) | apply singleFault_within | apply coilTakenOver_within
          | apply selftestBit_within | apply within_ite)
      | (simp only [within_mk]; with_reducible apply Within.upd) | split)

theorem relock_within {M : List Part} {z : State} (s : State) (k : Nat) (island : Nat) (hs : Within M z s)
    (hm : Sub (hostPath ++ [Part.mode, Part.store, Part.power, Part.keys, Part.release, Part.metering, Part.field, Part.cycle, Part.subGhz, Part.uwb, Part.transponder]) M)
    : Within M z (relock s k island) := by
  unfold relock
  try dsimp only
  repeat' (first
      | (with_reducible first
          | assumption | exact rfl | exact Sub.of (by decide +kernel) hm | exact Or.inr rfl
          | exact Or.inl (Sub.has hm (by decide +kernel)) | apply singleFault_within | apply enterFailed_within
          | apply within_ite)
      | (simp only [within_mk]; with_reducible apply Within.upd) | split)

theorem execMonitors_within {M : List Part} {z : State} (tag : Nat) (s : State) (hs : Within M z s)
    (hm : Sub [.rings, .host, .fabric, .status, .output, .nonces] M) (hr : rolesThere s (.monitors tag) = true)
    : AnsWithin M z (execMonitors tag s) := by
  unfold execMonitors
  rw [inputTo_there hr]
  try dsimp only
  repeat' (first
      | (with_reducible first
          | assumption | intro _ | exact Sub.of (by decide +kernel) hm | apply ringCmdIf_within
          | apply completeData_within | apply ansWithin_next))

theorem lfRelocks_within {M : List Part} {z : State} (s : State) (hs : Within M z s)
    (hm : Sub (hostPath ++ [Part.mode, Part.store, Part.power, Part.keys, Part.release, Part.metering, Part.field, Part.cycle, Part.subGhz, Part.uwb, Part.transponder]) M)
    : Within M z (lfRelocks s) := by
  unfold lfRelocks
  try dsimp only
  repeat' (first
      | (with_reducible first
          | assumption | exact Sub.of (by decide +kernel) hm | apply abortPattern_within | apply relock_within
          | apply fieldCollapse_within | apply within_ite)
      | split)

theorem pllStops_within {M : List Part} {z : State} (s : State) (hs : Within M z s)
    (hm : Sub (hostPath ++ [Part.mode, Part.store, Part.power, Part.keys, Part.release, Part.metering, Part.field, Part.cycle, Part.subGhz, Part.uwb, Part.transponder]) M)
    : Within M z (pllStops s) := by
  unfold pllStops
  try dsimp only
  repeat' (first
      | (with_reducible first
          | assumption | exact rfl | exact Sub.of (by decide +kernel) hm | exact Or.inr rfl
          | exact Or.inl (Sub.has hm (by decide +kernel)) | apply enterFailed_within | apply driveOutputs_within)
      | (simp only [within_mk]; with_reducible apply Within.upd))

theorem rfRelocks_within {M : List Part} {z : State} (s : State) (hs : Within M z s)
    (hm : Sub (hostPath ++ [Part.mode, Part.store, Part.power, Part.keys, Part.release, Part.metering, Part.field, Part.cycle, Part.subGhz, Part.uwb, Part.transponder]) M)
    : Within M z (rfRelocks s) := by
  unfold rfRelocks
  try dsimp only
  repeat' (first
      | (with_reducible first
          | assumption | intro _ | exact Sub.of (by decide +kernel) hm | apply relock_within | apply endCtxs_within
          | apply roundOver_within | apply within_ite)
      | split)

theorem meterRelocks_within {M : List Part} {z : State} (s : State) (hs : Within M z s)
    (hm : Sub (hostPath ++ [Part.mode, Part.store, Part.power, Part.keys, Part.release, Part.metering, Part.field, Part.cycle, Part.subGhz, Part.uwb, Part.transponder]) M)
    : Within M z (meterRelocks s) := by
  unfold meterRelocks
  try dsimp only
  repeat' (first
      | (with_reducible first
          | assumption | exact Sub.of (by decide +kernel) hm | apply relock_within | apply unmetered_within
          | apply within_ite)
      | split)

theorem crystalStops_within {M : List Part} {z : State} (s : State) (hs : Within M z s)
    (hm : Sub (hostPath ++ [Part.power]) M) : Within M z (crystalStops s) := by
  unfold crystalStops
  try dsimp only
  repeat' (first
      | (with_reducible first
          | assumption | exact Sub.of (by decide +kernel) hm | apply singleFault_within | apply State.setStat_within))

theorem execClockMonitorFlag_within {M : List Part} {z : State} (source : Nat) (s : State) (hs : Within M z s)
    (hm : Sub (hostPath ++ [Part.mode, Part.store, Part.power, Part.keys, Part.release, Part.metering, Part.field, Part.cycle, Part.subGhz, Part.uwb, Part.transponder]) M)
    : AnsWithin M z (execClockMonitorFlag source s) := by
  unfold execClockMonitorFlag
  try dsimp only
  repeat' (first
      | (with_reducible first
          | assumption | intro _ | exact Sub.of (by decide +kernel) hm | apply State.when_within | apply pllStops_within
          | apply lfRelocks_within | apply rfRelocks_within | apply meterRelocks_within | apply crystalStops_within
          | apply ansWithin_next)
      | split)

theorem execXtal32Recover_within {M : List Part} {z : State} (s : State) (hs : Within M z s) (hm : Sub [.status] M)
    : AnsWithin M z (execXtal32Recover s) := by
  unfold execXtal32Recover
  try dsimp only
  repeat' (first
      | (with_reducible first
          | assumption | intro _ | exact Sub.of (by decide +kernel) hm | apply State.when_within
          | apply State.setStat_within | apply ansWithin_next))

theorem execWakeSequence_within {M : List Part} {z : State} (port : Nat) (s : State) (hs : Within M z s)
    (hm : Sub (hostPath ++ [Part.power, Part.keys]) M) : AnsWithin M z (execWakeSequence port s) := by
  unfold execWakeSequence
  try dsimp only
  repeat' (first
      | (with_reducible first
          | assumption | intro _ | exact Sub.of (by decide +kernel) hm | apply State.when_within
          | apply portTrains_within | apply rise_within | apply ansWithin_next))

theorem execAppFault_within {M : List Part} {z : State} (s : State) (hs : Within M z s)
    (hm : Sub (hostPath ++ [Part.power, Part.update]) M) : AnsWithin M z (execAppFault s) := by
  unfold execAppFault
  try dsimp only
  repeat' (first
      | (with_reducible first
          | assumption | intro _ | exact Sub.of (by decide +kernel) hm | apply State.when_within
          | apply appRestarts_within | apply ansWithin_next))

theorem execEngineCheckpoint_within {M : List Part} {z : State} (role : Nat) (s : State) (hs : Within M z s)
    (hm : Sub [.power, .transponder] M) : AnsWithin M z (execEngineCheckpoint role s) := by
  unfold execEngineCheckpoint
  try dsimp only
  repeat' (first
      | (with_reducible first
          | assumption | exact rfl | intro _ | exact Sub.of (by decide +kernel) hm | exact Or.inr rfl
          | exact Or.inl (Sub.has hm (by decide +kernel)) | apply State.when_within | apply ansWithin_next
          | apply within_ite)
      | (simp only [within_mk]; with_reducible apply Within.upd) | split)

theorem execFaults_within {M : List Part} {z : State} (tag : Nat) (s : State) (hs : Within M z s)
    (hm : Sub [.rings, .host, .fabric, .status, .output, .nonces] M) (hr : rolesThere s (.faults tag) = true)
    : AnsWithin M z (execFaults tag s) := by
  unfold execFaults
  rw [inputTo_there hr]
  try dsimp only
  repeat' (first
      | (with_reducible first
          | assumption | intro _ | exact Sub.of (by decide +kernel) hm | apply ringCmdIf_within
          | apply completeData_within | apply ansWithin_next))

theorem heldRestart_within {M : List Part} {z : State} (s : State) (t : Nat) (hs : Within M z s) (hm : Sub [.holly] M)
    : Within M z (heldRestart s t) := by
  unfold heldRestart
  try dsimp only
  repeat' (first
      | (with_reducible first
          | assumption | exact rfl | intro _ | exact Sub.of (by decide +kernel) hm | exact Or.inr rfl
          | exact Or.inl (Sub.has hm (by decide +kernel)) | apply setLock_within | apply within_ite | apply within_foldl
          | apply within_foldl_fst)
      | (simp only [within_mk]; with_reducible apply Within.upd) | split)

theorem rtcSets_within {M : List Part} {z : State} (s : State) (tag : Nat) (t : Nat) (hs : Within M z s)
    (hm : Sub (ringPath ++ [Part.power, Part.holly]) M) : Within M z (rtcSets s tag t) := by
  unfold rtcSets
  try dsimp only
  repeat' (first
      | (with_reducible first
          | assumption | exact rfl | exact Sub.of (by decide +kernel) hm | exact Or.inr rfl
          | exact Or.inl (Sub.has hm (by decide +kernel)) | apply heldRestart_within | apply State.setStat_within
          | apply complete_within | apply audit_within | apply within_ite)
      | (simp only [within_mk]; with_reducible apply Within.upd) | split)

theorem execRtcNonceExpiry_within {M : List Part} {z : State} (s : State) (hs : Within M z s) (hm : Sub [.power] M)
    : AnsWithin M z (execRtcNonceExpiry s) := by
  unfold execRtcNonceExpiry
  try dsimp only
  repeat' (first
      | (with_reducible first
          | assumption | exact rfl | intro _ | exact Sub.of (by decide +kernel) hm | exact Or.inr rfl
          | exact Or.inl (Sub.has hm (by decide +kernel)) | apply State.when_within | apply ansWithin_next)
      | (simp only [within_mk]; with_reducible apply Within.upd))

theorem execWakeSource_within {M : List Part} {z : State} (source : Nat) (s : State) (hs : Within M z s)
    (hm : Sub (hostPath ++ [Part.held, Part.force, Part.boundary, Part.power, Part.keys, Part.metering]) M)
    : AnsWithin M z (execWakeSource source s) := by
  unfold execWakeSource
  try dsimp only
  repeat' (first
      | (with_reducible first
          | assumption | intro _ | exact Sub.of (by decide +kernel) hm | apply State.when_within
          | apply storeField_within | apply rise_within | apply ansWithin_next | apply within_ite)
      | split)

theorem execVbkLoss_within {M : List Part} {z : State} (s : State) (mv : optParam Nat 0) (hs : Within M z s)
    (hm : Sub [.status, .power] M) : AnsWithin M z (execVbkLoss s mv) := by
  unfold execVbkLoss
  try dsimp only
  repeat' (first
      | (with_reducible first
          | assumption | exact rfl | intro _ | exact Sub.of (by decide +kernel) hm | exact Or.inr rfl
          | exact Or.inl (Sub.has hm (by decide +kernel)) | apply State.when_within | apply rtcLost_within
          | apply ansWithin_next)
      | (simp only [within_mk]; with_reducible apply Within.upd))

theorem execDeepAfterExpiry_within {M : List Part} {z : State} (s : State) (hs : Within M z s)
    (hm : Sub (sendPath ++ [Part.power, Part.keys, Part.subGhz, Part.uwb]) M) : AnsWithin M z (execDeepAfterExpiry s) := by
  unfold execDeepAfterExpiry
  try dsimp only
  repeat' (first
      | (with_reducible first
          | assumption | intro _ | exact Sub.of (by decide +kernel) hm | apply State.when_within | apply descend_within
          | apply ansWithin_next))

theorem execSpareTakeover_within {M : List Part} {z : State} (loaded : Bool) (s : State) (hs : Within M z s)
    (hm : Sub (hostPath ++ [Part.mode, Part.store, Part.power, Part.keys, Part.release, Part.metering, Part.field, Part.cycle, Part.subGhz, Part.uwb, Part.transponder, Part.update]) M)
    : AnsWithin M z (execSpareTakeover loaded s) := by
  unfold execSpareTakeover
  try dsimp only
  repeat' (first
      | (with_reducible first
          | assumption | intro _ | exact Sub.of (by decide +kernel) hm | apply State.when_within
          | apply takesOver_within | apply enterFailed_within | apply ansWithin_next | apply within_ite)
      | split)

theorem execSpareMemoryTest_within {M : List Part} {z : State} (pass : Bool) (s : State) (hs : Within M z s)
    (hm : Sub [.rings, .host, .fabric, .status, .output, .nonces, .power] M)
    (hr : rolesThere s (.spareMemoryTest pass) = true) : AnsWithin M z (execSpareMemoryTest pass s) := by
  unfold execSpareMemoryTest
  rw [inputTo_there hr]
  try dsimp only
  repeat' (first
      | (with_reducible first
          | assumption | intro _ | exact Sub.of (by decide +kernel) hm | apply State.when_within
          | apply State.setStat_within | apply selftestBit_within | apply ansWithin_next | apply within_ite)
      | split)

theorem execEccError_within {M : List Part} {z : State} (memory : Nat) (unit : Nat) (double : Bool) (s : State) (hs
    : Within M z s)
    (hm : Sub (hostPath ++ [Part.mode, Part.store, Part.power, Part.keys, Part.release, Part.metering, Part.field, Part.cycle, Part.subGhz, Part.uwb, Part.transponder, Part.update]) M)
    : AnsWithin M z (execEccError memory unit double s) := by
  unfold execEccError
  try dsimp only
  repeat' (first
      | (with_reducible first
          | assumption | intro _ | exact Sub.of (by decide +kernel) hm | apply State.when_within
          | apply doubleError_within | apply State.bump_within | apply ansWithin_next | apply within_ite)
      | split)

theorem execSupervisionEventBuffer_within {M : List Part} {z : State} (tag : Nat) (s : State) (hs : Within M z s)
    (hm : Sub [.rings, .host, .fabric, .status, .output, .nonces] M)
    (hr : rolesThere s (.supervisionEventBuffer tag) = true) : AnsWithin M z (execSupervisionEventBuffer tag s) := by
  unfold execSupervisionEventBuffer
  rw [inputTo_there hr]
  try dsimp only
  repeat' (first
      | (with_reducible first
          | assumption | exact Sub.of (by decide +kernel) hm | apply postBuffer_within | apply ansWithin_next))

theorem execEngineFault_within {M : List Part} {z : State} (role : Nat) (s : State) (hs : Within M z s)
    (hm : Sub (hostPath ++ [Part.mode, Part.store, Part.power, Part.keys, Part.release, Part.metering, Part.field, Part.cycle, Part.subGhz, Part.uwb, Part.transponder, Part.update]) M)
    : AnsWithin M z (execEngineFault role s) := by
  unfold execEngineFault
  try dsimp only
  repeat' (first
      | (with_reducible first
          | assumption | intro _ | exact Sub.of (by decide +kernel) hm | apply State.when_within
          | apply engineFaults_within | apply ansWithin_next))

theorem execSetRtc_within {M : List Part} {z : State} (tag : Nat) (data : Bytes) (s : State) (hs : Within M z s)
    (hm : Sub (ringPath ++ [Part.power, Part.keys, Part.holly]) M) : AnsWithin M z (execSetRtc tag data s) := by
  unfold execSetRtc
  try dsimp only
  repeat' (first
      | (with_reducible first
          | assumption | exact rfl | intro _ | exact Sub.of (by decide +kernel) hm | exact Or.inr rfl
          | exact Or.inl (Sub.has hm (by decide +kernel)) | apply ringCmdIf_within | apply rtcSets_within
          | apply authJob_within | apply complete_within | apply ansWithin_next | apply within_ite)
      | (simp only [within_mk]; with_reducible apply Within.upd) | split)

theorem execTemperatureSample_within {M : List Part} {z : State} (tenths : Int) (s : State) (hs : Within M z s)
    (hm : Sub (hostPath ++ [.mode, .store, .power, .keys, .release, .metering, .field, .cycle, .subGhz, .uwb, .transponder]) M)
    (hr : rolesThere s (.temperatureSample tenths) = true) : AnsWithin M z (execTemperatureSample tenths s) := by
  unfold execTemperatureSample
  rw [inputTo_there hr]
  try dsimp only
  repeat' (first
      | (with_reducible first
          | assumption | intro _ | exact Sub.of (by decide +kernel) hm | apply State.when_within
          | apply tempTaken_within | apply requestCal_within | apply ansWithin_next | apply within_ite)
      | split)

theorem execRtcNonce_within {M : List Part} {z : State} (tag : Nat) (s : State) (hs : Within M z s)
    (hm : Sub (ringPath ++ [Part.power]) M) : AnsWithin M z (execRtcNonce tag s) := by
  unfold execRtcNonce
  try dsimp only
  repeat' (first
      | (with_reducible first
          | assumption | exact rfl | intro _ | exact Sub.of (by decide +kernel) hm | exact Or.inr rfl
          | exact Or.inl (Sub.has hm (by decide +kernel)) | apply ringCmdIf_within | apply State.draw_within
          | apply completeData_within | apply ansWithin_next)
      | (simp only [within_mk]; with_reducible apply Within.upd) | split)

end Sys2Proof.Machine
end

