-- ==== Sys2Proof/Laws/WithinRest.lean ====
section
/-! SUPPORT. What each definition keeps and where it may write (Laws/Within.lean): radio, ranging, release, start,
update and what every tick brings. -/
namespace Sys2Proof.Machine

set_option Elab.async false

theorem execCoexWaitExpiry_within {M : List Part} {z : State} (s : State) (hs : Within M z s)
    (hm : Sub [.rings, .host, .fabric, .status, .output, .nonces, .subGhz] M) (hr : rolesThere s (.coexWaitExpiry) = true)
    : AnsWithin M z (execCoexWaitExpiry s) := by
  unfold execCoexWaitExpiry
  rw [inputTo_there hr]
  try dsimp only
  repeat' (first
      | (with_reducible first
          | assumption | exact Sub.of (by decide +kernel) hm | apply sgrNextJob_within | apply complete_within
          | apply sgrFree_within | apply ansWithin_next | apply within_ite)
      | split)

theorem execRegrecRead_within {M : List Part} {z : State} (tag : Nat) (s : State) (hs : Within M z s)
    (hm : Sub [.rings, .host, .fabric, .status, .output, .nonces] M) (hr : rolesThere s (.regrecRead tag) = true)
    : AnsWithin M z (execRegrecRead tag s) := by
  unfold execRegrecRead
  rw [inputTo_there hr]
  try dsimp only
  repeat' (first
      | (with_reducible first
          | assumption | intro _ | exact Sub.of (by decide +kernel) hm | apply ringCmdIf_within
          | apply completeData_within | apply ansWithin_next)
      | split)

theorem execSgrRxTimeout_within {M : List Part} {z : State} (s : State) (hs : Within M z s)
    (hm : Sub [.rings, .host, .fabric, .status, .output, .nonces, .subGhz] M) (hr : rolesThere s (.sgrRxTimeout) = true)
    : AnsWithin M z (execSgrRxTimeout s) := by
  unfold execSgrRxTimeout
  rw [inputTo_there hr]
  try dsimp only
  repeat' (first
      | (with_reducible first
          | assumption | exact Sub.of (by decide +kernel) hm | apply jobEnds_within | apply ansWithin_next)
      | split)

theorem execSchedule_within {M : List Part} {z : State} (tag : Nat) (s : State) (hs : Within M z s)
    (hm : Sub [.rings, .host, .fabric, .status, .output, .nonces] M) (hr : rolesThere s (.schedule tag) = true)
    : AnsWithin M z (execSchedule tag s) := by
  unfold execSchedule
  rw [inputTo_there hr]
  try dsimp only
  repeat' (first
      | (with_reducible first
          | assumption | intro _ | exact Sub.of (by decide +kernel) hm | apply ringCmdIf_within
          | apply completeData_within | apply ansWithin_next))

theorem execCalBlockEnd_within {M : List Part} {z : State} (failed : Nat) (s : State) (hs : Within M z s)
    (hm : Sub (hostPath ++ [.power, .subGhz, .uwb]) M) (hr : rolesThere s (.calBlockEnd failed) = true)
    : AnsWithin M z (execCalBlockEnd failed s) := by
  unfold execCalBlockEnd
  rw [inputTo_there hr]
  try dsimp only
  repeat' (first
      | (with_reducible first
          | assumption | exact Sub.of (by decide +kernel) hm | apply blockEnds_within | apply ansWithin_next
          | apply within_ite)
      | split)

theorem execSgrPacketReceived_within {M : List Part} {z : State} (rssi : Int) (frame : Bytes) (s : State) (hs
    : Within M z s) (hm : Sub [.rings, .host, .fabric, .status, .output, .nonces, .subGhz] M)
    (hr : rolesThere s (.sgrPacketReceived rssi frame) = true) : AnsWithin M z (execSgrPacketReceived rssi frame s) := by
  unfold execSgrPacketReceived
  rw [inputTo_there hr]
  try dsimp only
  repeat' (first
      | (with_reducible first
          | assumption | exact Sub.of (by decide +kernel) hm | apply noteRssi_within | apply cmdDma_within
          | apply jobEnds_within | apply ansWithin_next | apply within_ite)
      | split)

theorem queueJob_within {M : List Part} {z : State} (s : State) (tag : Nat) (w : SgrWork) (hs : Within M z s)
    (hm : Sub (ringPath ++ [Part.subGhz]) M) : Within M z (queueJob s tag w) := by
  unfold queueJob
  try dsimp only
  repeat' (first
      | (with_reducible first
          | assumption | exact rfl | exact Sub.of (by decide +kernel) hm | exact Or.inr rfl
          | exact Or.inl (Sub.has hm (by decide +kernel)) | apply complete_within | apply markTaken_within
          | apply sgrNextJob_within | apply within_ite)
      | (simp only [within_mk]; with_reducible apply Within.upd) | split)

theorem execProdTx_within {M : List Part} {z : State} (tag : Nat) (s : State) (hs : Within M z s)
    (hm : Sub [.rings, .host, .fabric, .status, .output, .nonces, .power, .subGhz, .uwb] M)
    (hr : rolesThere s (.prodTx tag) = true) : AnsWithin M z (execProdTx tag s) := by
  unfold execProdTx
  rw [inputTo_there hr]
  try dsimp only
  repeat' (first
      | (with_reducible first
          | assumption | exact rfl | intro _ | exact Sub.of (by decide +kernel) hm | exact Or.inr rfl
          | exact Or.inl (Sub.has hm (by decide +kernel)) | apply ringCmdIf_within | apply refuseSilent_within
          | apply markTaken_within | apply prodFrame_within | apply ansWithin_next | apply within_ite)
      | (simp only [within_mk]; with_reducible apply Within.upd) | split)

theorem execSgrTxWaitExpiry_within {M : List Part} {z : State} (s : State) (hs : Within M z s)
    (hm : Sub (hostPath ++ [.power, .release, .cycle, .subGhz, .uwb]) M) (hr : rolesThere s (.sgrTxWaitExpiry) = true)
    : AnsWithin M z (execSgrTxWaitExpiry s) := by
  unfold execSgrTxWaitExpiry
  rw [inputTo_there hr]
  try dsimp only
  repeat' (first
      | (with_reducible first
          | assumption | intro _ | exact Sub.of (by decide +kernel) hm | apply State.when_within | apply sgrBusy_within
          | apply endCtx_within | apply sgrNextJob_within | apply complete_within | apply sgrFree_within
          | apply prodDone_within | apply ansWithin_next)
      | split)

theorem execSgrSynthLock_within {M : List Part} {z : State} (s : State) (hs : Within M z s)
    (hm : Sub [.rings, .host, .fabric, .status, .output, .nonces, .power, .subGhz] M)
    (hr : rolesThere s (.sgrSynthLock) = true) : AnsWithin M z (execSgrSynthLock s) := by
  unfold execSgrSynthLock
  rw [inputTo_there hr]
  try dsimp only
  repeat' (first
      | (with_reducible first
          | assumption | exact rfl | intro _ | exact Sub.of (by decide +kernel) hm | exact Or.inr rfl
          | exact Or.inl (Sub.has hm (by decide +kernel)) | apply State.when_within | apply challengeLeaves_within
          | apply packetLeaves_within | apply sgrNextJob_within | apply prodDone_within | apply sgrFree_within
          | apply sgrIdleAt_within | apply prodLeaves_within
          | refine sgrRefusal_within _ _ ?_ (Sub.of (by decide +kernel) hm) _ ‹_› | apply ansWithin_next
          | apply within_ite)
      | (simp only [within_mk]; with_reducible apply Within.upd) | split)

theorem execRssi_within {M : List Part} {z : State} (tag : Nat) (s : State) (hs : Within M z s)
    (hm : Sub [.rings, .host, .fabric, .status, .output, .nonces, .subGhz] M) (hr : rolesThere s (.rssi tag) = true)
    : AnsWithin M z (execRssi tag s) := by
  unfold execRssi
  rw [inputTo_there hr]
  try dsimp only
  repeat' (first
      | (with_reducible first
          | assumption | intro _ | exact Sub.of (by decide +kernel) hm | apply ringCmdIf_within | apply queueJob_within
          | apply ansWithin_next))

theorem oscEnds_within {M : List Part} {z : State} (s : State) (passed : Bool) (hs : Within M z s)
    (hm : Sub (ringPath ++ [Part.power, Part.subGhz]) M) : Within M z (oscEnds s passed) := by
  unfold oscEnds
  try dsimp only
  repeat' (first
      | (with_reducible first
          | assumption | exact rfl | intro _ | exact Sub.of (by decide +kernel) hm | exact Or.inr rfl
          | exact Or.inl (Sub.has hm (by decide +kernel)) | apply selftestNote_within | apply calibrateNote_within
          | apply within_ite)
      | (simp only [within_mk]; with_reducible apply Within.upd) | split)

theorem execOscMeasureEnd_within {M : List Part} {z : State} (count : Nat) (s : State) (hs : Within M z s)
    (hm : Sub (hostPath ++ [.power, .subGhz]) M) (hr : rolesThere s (.oscMeasureEnd count) = true)
    : AnsWithin M z (execOscMeasureEnd count s) := by
  unfold execOscMeasureEnd
  rw [inputTo_there hr]
  try dsimp only
  repeat' (first
      | (with_reducible first
          | assumption | exact rfl | intro _ | exact Sub.of (by decide +kernel) hm | exact Or.inr rfl
          | exact Or.inl (Sub.has hm (by decide +kernel)) | apply State.when_within | apply oscEnds_within
          | apply calFails_within | apply ansWithin_next | apply within_ite)
      | (simp only [within_mk]; with_reducible apply Within.upd) | split)

theorem stepsStopped_within {M : List Part} {z : State} (s : State) (t : Task) (hs : Within M z s)
    (hm : Sub (hostPath ++ [Part.store, Part.release, Part.subGhz, Part.uwb, Part.transponder]) M)
    : Within M z (stepsStopped s t) := by
  unfold stepsStopped
  try dsimp only
  repeat' (first
      | (with_reducible first
          | assumption | exact Sub.of (by decide +kernel) hm | apply fieldCollapse_within | apply roundOver_within
          | apply sgrIdleAt_within | apply within_ite)
      | split)

theorem execSgrTxEnd_within {M : List Part} {z : State} (s : State) (hs : Within M z s)
    (hm : Sub [.rings, .host, .fabric, .status, .output, .nonces, .power, .subGhz] M) (hr : rolesThere s (.sgrTxEnd) = true)
    : AnsWithin M z (execSgrTxEnd s) := by
  unfold execSgrTxEnd
  rw [inputTo_there hr]
  try dsimp only
  repeat' (first
      | (with_reducible first
          | assumption | intro _ | exact Sub.of (by decide +kernel) hm | apply State.when_within
          | apply State.emit_within | apply jobEnds_within | apply prodDone_within | apply sgrFree_within
          | apply sgrIdleAt_within | apply ansWithin_next)
      | split)

theorem execSgrLockLoss_within {M : List Part} {z : State} (s : State) (hs : Within M z s)
    (hm : Sub [.rings, .host, .fabric, .status, .output, .nonces, .power, .subGhz] M)
    (hr : rolesThere s (.sgrLockLoss) = true) : AnsWithin M z (execSgrLockLoss s) := by
  unfold execSgrLockLoss
  rw [inputTo_there hr]
  try dsimp only
  repeat' (first
      | (with_reducible first
          | assumption | exact rfl | exact Sub.of (by decide +kernel) hm | exact Or.inr rfl
          | exact Or.inl (Sub.has hm (by decide +kernel)) | apply sgrIdleAt_within | apply State.emit_within
          | apply State.raise_within | apply sgrNextJob_within | apply complete_within | apply sgrFree_within
          | apply prodDone_within | apply ansWithin_next)
      | (simp only [within_mk]; with_reducible apply Within.upd) | split)

theorem execRxPacket_within {M : List Part} {z : State} (tag : Nat) (s : State) (hs : Within M z s)
    (hm : Sub [.rings, .host, .fabric, .status, .output, .nonces, .subGhz] M) (hr : rolesThere s (.rxPacket tag) = true)
    : AnsWithin M z (execRxPacket tag s) := by
  unfold execRxPacket
  rw [inputTo_there hr]
  try dsimp only
  repeat' (first
      | (with_reducible first
          | assumption | intro _ | exact Sub.of (by decide +kernel) hm | apply ringCmdIf_within | apply queueJob_within
          | apply ansWithin_next))

theorem selftestDiag_within {M : List Part} {z : State} (tag : Nat) (wait : Nat) (s : State) (c : Nat) (hs : Within M z s)
    (hm : Sub [.power] M) : Within M z (selftestDiag tag wait s c) := by
  unfold selftestDiag
  try dsimp only
  repeat' (first
      | (with_reducible first
          | assumption | exact Sub.of (by decide +kernel) hm | apply requestTask_within | apply within_ite)
      | split)

theorem execSelftest_within {M : List Part} {z : State} (tag : Nat) (s : State) (hs : Within M z s)
    (hm : Sub [.rings, .host, .fabric, .status, .output, .nonces, .power] M) (hr : rolesThere s (.selftest tag) = true)
    : AnsWithin M z (execSelftest tag s) := by
  unfold execSelftest
  rw [inputTo_there hr]
  try dsimp only
  repeat' (first
      | (with_reducible first
          | assumption | exact rfl | intro _ | exact Sub.of (by decide +kernel) hm | exact Or.inr rfl
          | exact Or.inl (Sub.has hm (by decide +kernel)) | apply ringCmdIf_within | apply complete_within
          | apply markTaken_within | apply selftestDiag_within | apply requestTask_within | apply selftestNote_within
          | apply selftestBit_within | apply ansWithin_next | apply within_ite | apply within_foldl
          | apply within_foldl_fst)
      | (simp only [within_mk]; with_reducible apply Within.upd) | split)

theorem execTxPacket_within {M : List Part} {z : State} (tag : Nat) (data : Bytes) (s : State) (hs : Within M z s)
    (hm : Sub [.rings, .host, .fabric, .status, .output, .nonces, .subGhz] M)
    (hr : rolesThere s (.txPacket tag data) = true) : AnsWithin M z (execTxPacket tag data s) := by
  unfold execTxPacket
  rw [inputTo_there hr]
  try dsimp only
  repeat' (first
      | (with_reducible first
          | assumption | intro _ | exact Sub.of (by decide +kernel) hm | apply ringCmdIf_within | apply queueJob_within
          | apply ansWithin_next))

theorem execRegrecWrite_within {M : List Part} {z : State} (tag : Nat) (data : Bytes) (s : State) (hs : Within M z s)
    (hm : Sub [.rings, .host, .fabric, .status, .output, .nonces, .store] M)
    (hr : rolesThere s (.regrecWrite tag data) = true) : AnsWithin M z (execRegrecWrite tag data s) := by
  unfold execRegrecWrite
  rw [inputTo_there hr]
  try dsimp only
  repeat' (first
      | (with_reducible first
          | assumption | intro _ | exact Sub.of (by decide +kernel) hm | apply ringCmdIf_within
          | apply refuseSilent_within | apply changeCmd_within | apply nvRequest_within | apply markTaken_within
          | apply complete_within | apply ansWithin_next | apply within_ite)
      | split)

theorem execQuietSlotTask_within {M : List Part} {z : State} (leakGnd : Bool) (leakVlf : Bool) (s : State) (hs
    : Within M z s) (hm : Sub (hostPath ++ [.power, .field, .subGhz, .uwb]) M)
    (hr : rolesThere s (.quietSlotTask leakGnd leakVlf) = true) : AnsWithin M z (execQuietSlotTask leakGnd leakVlf s) := by
  unfold execQuietSlotTask
  rw [inputTo_there hr]
  try dsimp only
  repeat' (first
      | (with_reducible first
          | assumption | exact Sub.of (by decide +kernel) hm | apply startTask_within | apply ansWithin_next)
      | split)

theorem execCalibrate_within {M : List Part} {z : State} (tag : Nat) (s : State) (hs : Within M z s)
    (hm : Sub [.rings, .host, .fabric, .status, .output, .nonces, .power, .subGhz] M)
    (hr : rolesThere s (.calibrate tag) = true) : AnsWithin M z (execCalibrate tag s) := by
  unfold execCalibrate
  rw [inputTo_there hr]
  try dsimp only
  repeat' (first
      | (with_reducible first
          | assumption | exact rfl | intro _ | exact Sub.of (by decide +kernel) hm | exact Or.inr rfl
          | exact Or.inl (Sub.has hm (by decide +kernel)) | apply ringCmdIf_within | apply complete_within
          | apply markTaken_within | apply requestCals_within | apply ansWithin_next | apply within_ite)
      | (simp only [within_mk]; with_reducible apply Within.upd) | split)

theorem execTaskDeadlinePreempt_within {M : List Part} {z : State} (leakGnd : Bool) (leakVlf : Bool) (s : State) (hs
    : Within M z s) (hm : Sub (hostPath ++ [.store, .power, .release, .field, .cycle, .subGhz, .uwb, .transponder]) M)
    (hr : rolesThere s (.taskDeadlinePreempt leakGnd leakVlf) = true)
    : AnsWithin M z (execTaskDeadlinePreempt leakGnd leakVlf s) := by
  unfold execTaskDeadlinePreempt
  rw [inputTo_there hr]
  try dsimp only
  repeat' (first
      | (with_reducible first
          | assumption | intro _ | exact Sub.of (by decide +kernel) hm | apply endCtxs_within
          | apply stepsStopped_within | apply State.raise_within | apply State.bump_within | apply event_within
          | apply startTask_within | apply ansWithin_next | apply within_ite)
      | split)

theorem execCoexGrantChange_within {M : List Part} {z : State} (level : Bool) (s : State) (hs : Within M z s)
    (hm : Sub (hostPath ++ [Part.release, Part.cycle, Part.subGhz, Part.uwb, Part.radio]) M)
    : AnsWithin M z (execCoexGrantChange level s) := by
  unfold execCoexGrantChange
  try dsimp only
  repeat' (first
      | (with_reducible first
          | assumption | exact rfl | exact Sub.of (by decide +kernel) hm | exact Or.inr rfl
          | exact Or.inl (Sub.has hm (by decide +kernel)) | apply sgrPacketGoes_within | apply sgrNextJob_within
          | apply roundFails_within | apply State.raise_within | apply ansWithin_next | apply within_ite)
      | (simp only [within_mk]; with_reducible apply Within.upd) | split)

theorem execProdTxPeriod_within {M : List Part} {z : State} (s : State) (hs : Within M z s)
    (hm : Sub [.rings, .host, .fabric, .status, .output, .nonces, .power, .subGhz, .uwb] M)
    (hr : rolesThere s (.prodTxPeriod) = true) : AnsWithin M z (execProdTxPeriod s) := by
  unfold execProdTxPeriod
  rw [inputTo_there hr]
  try dsimp only
  repeat' (first
      | (with_reducible first
          | assumption | intro _ | exact Sub.of (by decide +kernel) hm | apply State.when_within
          | apply prodFrame_within | apply ansWithin_next))

theorem execRssiMeasureEnd_within {M : List Part} {z : State} (mean : Int) (s : State) (hs : Within M z s)
    (hm : Sub [.rings, .host, .fabric, .status, .output, .nonces, .subGhz] M)
    (hr : rolesThere s (.rssiMeasureEnd mean) = true) : AnsWithin M z (execRssiMeasureEnd mean s) := by
  unfold execRssiMeasureEnd
  rw [inputTo_there hr]
  try dsimp only
  repeat' (first
      | (with_reducible first
          | assumption | exact Sub.of (by decide +kernel) hm | apply jobEnds_within | apply ansWithin_next)
      | split)

theorem releaseDecision_within {M : List Part} {z : State} (s : State) (n : Nat) (c : Ctx) (p : List Int) (range : Int)
    (az : Int) (el : Int) (ba : Option (Int × Option Int)) (bb : Option (Int × Option Int)) (hs : Within M z s)
    (hm : Sub (hostPath ++ [Part.store, Part.keys, Part.release, Part.metering, Part.cycle, Part.subGhz, Part.uwb, Part.transponder]) M)
    : Within M z (releaseDecision s n c p range az el ba bb) := by
  unfold releaseDecision
  try dsimp only
  repeat' (first
      | (with_reducible first
          | assumption | exact Sub.of (by decide +kernel) hm | apply endCtx_within | apply State.setCtx_within
          | apply requestGroups_within | apply within_ite)
      | split)

theorem execFusionComplete_within {M : List Part} {z : State} (ctx : Nat) (s : State) (hs : Within M z s)
    (hm : Sub (hostPath ++ [.store, .keys, .release, .metering, .cycle, .subGhz, .uwb, .transponder]) M)
    (hr : rolesThere s (.fusionComplete ctx) = true) : AnsWithin M z (execFusionComplete ctx s) := by
  unfold execFusionComplete
  rw [inputTo_there hr]
  try dsimp only
  repeat' (first
      | (with_reducible first
          | assumption | exact Sub.of (by decide +kernel) hm | apply endCtx_within | apply releaseDecision_within
          | apply ansWithin_next | apply within_ite)
      | split)

theorem execUwbRoundStart_within {M : List Part} {z : State} (sinceGrant : Nat) (sinceReq : Nat) (counter : Nat) (s : State)
    (hs : Within M z s) (hm : Sub (hostPath ++ [.force, .release, .cycle, .subGhz, .uwb]) M)
    (hr : rolesThere s (.uwbRoundStart sinceGrant sinceReq counter) = true)
    : AnsWithin M z (execUwbRoundStart sinceGrant sinceReq counter s) := by
  unfold execUwbRoundStart
  rw [inputTo_there hr]
  try dsimp only
  repeat' (first
      | (with_reducible first
          | assumption | exact Sub.of (by decide +kernel) hm | apply endCtx_within | apply State.raise_within
          | apply roundStarts_within | apply applyTiming_within | apply ansWithin_next | apply within_ite)
      | split)

theorem execTestPoint_within {M : List Part} {z : State} (tag : Nat) (s : State) (hs : Within M z s)
    (hm : Sub [.rings, .host, .fabric, .status, .output, .nonces] M) (hr : rolesThere s (.testPoint tag) = true)
    : AnsWithin M z (execTestPoint tag s) := by
  unfold execTestPoint
  rw [inputTo_there hr]
  try dsimp only
  repeat' (first
      | (with_reducible first
          | assumption | intro _ | exact Sub.of (by decide +kernel) hm | apply ringCmdIf_within | apply complete_within
          | apply ansWithin_next | apply within_foldl | apply within_foldl_fst))

theorem execUwbRxWindowEnd_within {M : List Part} {z : State} (s : State) (hs : Within M z s)
    (hm : Sub (hostPath ++ [.release, .cycle, .subGhz, .uwb]) M) (hr : rolesThere s (.uwbRxWindowEnd) = true)
    : AnsWithin M z (execUwbRxWindowEnd s) := by
  unfold execUwbRxWindowEnd
  rw [inputTo_there hr]
  try dsimp only
  repeat' (first
      | (with_reducible first
          | assumption | exact Sub.of (by decide +kernel) hm | apply roundFails_within | apply ansWithin_next
          | apply within_ite)
      | split)

theorem execUwbReportFrame_within {M : List Part} {z : State} (payload : Bytes) (s : State) (hs : Within M z s)
    (hm : Sub (hostPath ++ [.release, .cycle, .subGhz, .uwb]) M) (hr : rolesThere s (.uwbReportFrame payload) = true)
    : AnsWithin M z (execUwbReportFrame payload s) := by
  unfold execUwbReportFrame
  rw [inputTo_there hr]
  try dsimp only
  repeat' (first
      | (with_reducible first
          | assumption | exact Sub.of (by decide +kernel) hm | apply State.setCtx_within | apply roundOver_within
          | apply roundFails_within | apply ansWithin_next | apply within_ite)
      | split)

theorem execBoundingRunComplete_within {M : List Part} {z : State} (rounds : List (Option BoundRound)) (s : State) (hs
    : Within M z s) (hm : Sub [.rings, .host, .fabric, .status, .output, .nonces, .cycle, .subGhz, .uwb] M)
    (hr : rolesThere s (.boundingRunComplete rounds) = true) : AnsWithin M z (execBoundingRunComplete rounds s) := by
  unfold execBoundingRunComplete
  rw [inputTo_there hr]
  try dsimp only
  repeat' (first
      | (with_reducible first
          | assumption | exact rfl | exact Sub.of (by decide +kernel) hm | exact Or.inr rfl
          | exact Or.inl (Sub.has hm (by decide +kernel)) | apply State.setCtx_within | apply roundOver_within
          | apply cycleCheck_within | apply ansWithin_next)
      | (simp only [within_mk]; with_reducible apply Within.upd) | split)

theorem execUwbResponseFrame_within {M : List Part} {z : State} (counter : Nat) (phases : List (Option Nat)) (offset : Int)
    (s : State) (hs : Within M z s) (hm : Sub (hostPath ++ [.release, .cycle, .subGhz, .uwb]) M)
    (hr : rolesThere s (.uwbResponseFrame counter phases offset) = true)
    : AnsWithin M z (execUwbResponseFrame counter phases offset s) := by
  unfold execUwbResponseFrame
  rw [inputTo_there hr]
  try dsimp only
  repeat' (first
      | (with_reducible first
          | assumption | exact rfl | exact Sub.of (by decide +kernel) hm | exact Or.inr rfl
          | exact Or.inl (Sub.has hm (by decide +kernel)) | apply roundFails_within | apply ansWithin_next
          | apply within_ite)
      | (simp only [within_mk]; with_reducible apply Within.upd) | split)

theorem execUwbTxWaitExpiry_within {M : List Part} {z : State} (s : State) (hs : Within M z s)
    (hm : Sub (hostPath ++ [.release, .cycle, .subGhz, .uwb]) M) (hr : rolesThere s (.uwbTxWaitExpiry) = true)
    : AnsWithin M z (execUwbTxWaitExpiry s) := by
  unfold execUwbTxWaitExpiry
  rw [inputTo_there hr]
  try dsimp only
  repeat' (first
      | (with_reducible first
          | assumption | intro _ | exact Sub.of (by decide +kernel) hm | apply State.when_within
          | apply roundFails_within | apply State.raise_within | apply endCtx_within | apply ansWithin_next)
      | split)

theorem execPrxReportBuffer_within {M : List Part} {z : State} (tag : Nat) (s : State) (hs : Within M z s)
    (hm : Sub [.rings, .host, .fabric, .status, .output, .nonces] M) (hr : rolesThere s (.prxReportBuffer tag) = true)
    : AnsWithin M z (execPrxReportBuffer tag s) := by
  unfold execPrxReportBuffer
  rw [inputTo_there hr]
  try dsimp only
  repeat' (first
      | (with_reducible first
          | assumption | exact Sub.of (by decide +kernel) hm | apply postBuffer_within | apply ansWithin_next))

theorem execRangeGrantTimeout_within {M : List Part} {z : State} (ctx : Nat) (s : State) (hs : Within M z s)
    (hm : Sub (hostPath ++ [.release, .cycle, .subGhz, .uwb]) M) (hr : rolesThere s (.rangeGrantTimeout ctx) = true)
    : AnsWithin M z (execRangeGrantTimeout ctx s) := by
  unfold execRangeGrantTimeout
  rw [inputTo_there hr]
  try dsimp only
  repeat' (first
      | (with_reducible first
          | assumption | exact Sub.of (by decide +kernel) hm | apply endCtx_within | apply ansWithin_next
          | apply within_ite)
      | split)

theorem execUwbLockLoss_within {M : List Part} {z : State} (s : State) (hs : Within M z s)
    (hm : Sub (hostPath ++ [.release, .cycle, .subGhz, .uwb]) M) (hr : rolesThere s (.uwbLockLoss) = true)
    : AnsWithin M z (execUwbLockLoss s) := by
  unfold execUwbLockLoss
  rw [inputTo_there hr]
  try dsimp only
  repeat' (first
      | (with_reducible first
          | assumption | exact rfl | intro _ | exact Sub.of (by decide +kernel) hm | exact Or.inr rfl
          | exact Or.inl (Sub.has hm (by decide +kernel)) | apply State.when_within | apply roundFails_within
          | apply State.raise_within | apply ansWithin_next | apply within_ite)
      | (simp only [within_mk]; with_reducible apply Within.upd) | split)

theorem execUwbFinalTx_within {M : List Part} {z : State} (counter : Nat) (s : State) (hs : Within M z s)
    (hm : Sub [.output, .uwb] M) (hr : rolesThere s (.uwbFinalTx counter) = true)
    : AnsWithin M z (execUwbFinalTx counter s) := by
  unfold execUwbFinalTx
  rw [inputTo_there hr]
  try dsimp only
  repeat' (first
      | (with_reducible first
          | assumption | exact rfl | exact Sub.of (by decide +kernel) hm | exact Or.inr rfl
          | exact Or.inl (Sub.has hm (by decide +kernel)) | apply State.emit_within | apply ansWithin_next)
      | (simp only [within_mk]; with_reducible apply Within.upd) | split)

theorem execGrantAnswerTimeout_within {M : List Part} {z : State} (ctx : Nat) (group : Nat) (s : State) (hs : Within M z s)
    (hm : Sub (hostPath ++ [.release, .cycle, .subGhz, .uwb, .transponder]) M)
    (hr : rolesThere s (.grantAnswerTimeout ctx group) = true) : AnsWithin M z (execGrantAnswerTimeout ctx group s) := by
  unfold execGrantAnswerTimeout
  rw [inputTo_there hr]
  try dsimp only
  repeat' (first
      | (with_reducible first
          | assumption | exact Sub.of (by decide +kernel) hm | apply settle_within | apply ansWithin_next))

theorem rbSample_within {M : List Part} {z : State} (s : State) (g : Nat) (code : Nat) (hs : Within M z s)
    (hm : Sub [.release] M) : Within M z (rbSample s g code) := by
  unfold rbSample
  try dsimp only
  repeat' (first
      | (with_reducible first
          | assumption | exact Sub.of (by decide +kernel) hm | apply State.setReadback_within | apply within_ite)
      | split)

theorem releaseFrame_within {M : List Part} {z : State} (src : Nat) (dst : Nat) (seq : Nat) (typ : Nat) (len : Nat)
    (payload : Bytes) (f : State → State) (s : State) (hf : ∀ (v0 : State), Within M z v0 → Within M z (f v0)) (hs
    : Within M z s) (hm : Sub (hostPath ++ [Part.keys, Part.release]) M)
    : Within M z (releaseFrame src dst seq typ len payload f s) := by
  unfold releaseFrame
  try dsimp only
  repeat' (first
      | (with_reducible first
          | assumption | exact Sub.of (by decide +kernel) hm | apply useSlot_within | apply seqAccept_within
          | apply dropRelease_within | apply hf | apply within_ite)
      | split)

theorem execSessionEnd_within {M : List Part} {z : State} (src : Nat) (dst : Nat) (seq : Nat) (payload : Bytes) (s : State)
    (hs : Within M z s) (hm : Sub (hostPath ++ [.store, .keys, .release, .metering, .cycle, .subGhz, .uwb, .transponder]) M)
    (hr : rolesThere s (.sessionEnd src dst seq payload) = true)
    : AnsWithin M z (execSessionEnd src dst seq payload s) := by
  unfold execSessionEnd
  rw [inputTo_there hr]
  try dsimp only
  repeat' (first
      | (with_reducible first
          | assumption | intro _ | exact Sub.of (by decide +kernel) hm | apply releaseFrame_within
          | apply endEntry_within | apply ansWithin_next)
      | split)

theorem auxSample_within {M : List Part} {z : State} (s : State) (n : Nat) (code : Nat) (hs : Within M z s)
    (hm : Sub [.status] M) : Within M z (auxSample s n code) := by
  unfold auxSample
  try dsimp only
  repeat' (first | (with_reducible first | assumption | exact Sub.of (by decide +kernel) hm | apply State.setStat_within))

theorem execEndSession_within {M : List Part} {z : State} (tag : Nat) (s : State) (hs : Within M z s)
    (hm : Sub (hostPath ++ [Part.store, Part.keys, Part.release, Part.metering, Part.cycle, Part.subGhz, Part.uwb, Part.transponder]) M)
    : AnsWithin M z (execEndSession tag s) := by
  unfold execEndSession
  try dsimp only
  repeat' (first
      | (with_reducible first
          | assumption | intro _ | exact Sub.of (by decide +kernel) hm | apply ringCmdIf_within | apply auditCmd_within
          | apply complete_within | apply endEntry_within | apply ansWithin_next | apply within_ite)
      | split)

theorem execSessionTimeout_within {M : List Part} {z : State} (entry : Nat) (s : State) (hs : Within M z s)
    (hm : Sub (hostPath ++ [Part.store, Part.keys, Part.release, Part.metering, Part.cycle, Part.subGhz, Part.uwb, Part.transponder]) M)
    : AnsWithin M z (execSessionTimeout entry s) := by
  unfold execSessionTimeout
  try dsimp only
  repeat' (first
      | (with_reducible first
          | assumption | intro _ | exact Sub.of (by decide +kernel) hm | apply State.when_within | apply endEntry_within
          | apply ansWithin_next))

theorem execList_within {M : List Part} {z : State} (tag : Nat) (s : State) (hs : Within M z s) (hm : Sub ringPath M)
    : AnsWithin M z (execList tag s) := by
  unfold execList
  try dsimp only
  repeat' (first
      | (with_reducible first
          | assumption | intro _ | exact Sub.of (by decide +kernel) hm | apply ringCmdIf_within
          | apply completeData_within | apply ansWithin_next | apply within_ite)
      | split)

theorem execQueueWaitExpiry_within {M : List Part} {z : State} (place : Nat) (s : State) (hs : Within M z s)
    (hm : Sub (hostPath ++ [Part.keys, Part.release, Part.cycle, Part.subGhz, Part.uwb, Part.transponder]) M)
    : AnsWithin M z (execQueueWaitExpiry place s) := by
  unfold execQueueWaitExpiry
  try dsimp only
  repeat' (first
      | (with_reducible first
          | assumption | exact rfl | exact Sub.of (by decide +kernel) hm | exact Or.inr rfl
          | exact Or.inl (Sub.has hm (by decide +kernel)) | apply refuseReq_within | apply ansWithin_next)
      | (simp only [within_mk]; with_reducible apply Within.upd) | split)

theorem doorSample_within {M : List Part} {z : State} (s : State) (n : Nat) (code : Nat) (hs : Within M z s)
    (hm : Sub (hostPath ++ [Part.store, Part.keys, Part.release, Part.metering, Part.cycle, Part.subGhz, Part.uwb, Part.transponder]) M)
    : Within M z (doorSample s n code) := by
  unfold doorSample
  try dsimp only
  repeat' (first
      | (with_reducible first
          | assumption | intro _ | exact Sub.of (by decide +kernel) hm | apply State.setDoor_within
          | apply raiseEvent_within | apply endEntries_within | apply within_ite)
      | split)

theorem execAuxAdcFrame_within {M : List Part} {z : State} (doors : List Nat) (rb : List Nat) (aux : List Nat) (s : State)
    (hs : Within M z s)
    (hm : Sub (hostPath ++ [Part.store, Part.power, Part.keys, Part.release, Part.metering, Part.cycle, Part.subGhz, Part.uwb, Part.transponder]) M)
    : AnsWithin M z (execAuxAdcFrame doors rb aux s) := by
  unfold execAuxAdcFrame
  try dsimp only
  repeat' (first
      | (with_reducible first
          | assumption | exact rfl | intro _ | exact Sub.of (by decide +kernel) hm | exact Or.inr rfl
          | exact Or.inl (Sub.has hm (by decide +kernel)) | apply State.when_within | apply doorSample_within
          | apply rbSample_within | apply auxSample_within | apply setGovernor_within | apply ansWithin_next
          | apply within_foldl | apply within_foldl_fst)
      | (simp only [within_mk]; with_reducible apply Within.upd))

theorem setRelA_within {M : List Part} {z : State} (s : State) (g : Nat) (high : Bool) (hs : Within M z s)
    (hm : Sub [.release] M) : Within M z (setRelA s g high) := by
  unfold setRelA
  try dsimp only
  repeat' (first
      | (with_reducible first
          | assumption | exact rfl | exact Sub.of (by decide +kernel) hm | exact Or.inr rfl
          | exact Or.inl (Sub.has hm (by decide +kernel)) | apply State.setReadback_within | apply within_ite)
      | (simp only [within_mk]; with_reducible apply Within.upd) | split)

theorem execFaultGraceExpiry_within {M : List Part} {z : State} (s : State) (hs : Within M z s)
    (hm : Sub (hostPath ++ [Part.store, Part.power, Part.keys, Part.release, Part.metering, Part.cycle, Part.subGhz, Part.uwb, Part.transponder]) M)
    : AnsWithin M z (execFaultGraceExpiry s) := by
  unfold execFaultGraceExpiry
  try dsimp only
  repeat' (first
      | (with_reducible first
          | assumption | intro _ | exact Sub.of (by decide +kernel) hm | apply State.when_within | apply endGrace_within
          | apply ansWithin_next))

theorem execSessionCeilingCommit_within {M : List Part} {z : State} (suppliesOk : Bool) (s : State)
    (verifyOk : optParam Bool true) (hs : Within M z s)
    (hm : Sub (hostPath ++ [.held, .force, .tap, .boundary, .store, .keys, .holly, .release, .metering, .cycle, .subGhz, .uwb, .radio, .transponder, .update]) M)
    (hr : rolesThere s (.sessionCeilingCommit suppliesOk verifyOk) = true)
    : AnsWithin M z (execSessionCeilingCommit suppliesOk s verifyOk) := by
  unfold execSessionCeilingCommit
  rw [inputTo_there hr]
  try dsimp only
  repeat' (first
      | (with_reducible first
          | assumption | exact Sub.of (by decide +kernel) hm | apply commitFront_within | apply ansWithin_next)
      | split)

theorem execReleaseGrant_within {M : List Part} {z : State} (src : Nat) (dst : Nat) (seq : Nat) (payload : Bytes)
    (s : State) (hs : Within M z s)
    (hm : Sub (hostPath ++ [.store, .keys, .release, .metering, .cycle, .subGhz, .uwb, .transponder]) M)
    (hr : rolesThere s (.releaseGrant src dst seq payload) = true)
    : AnsWithin M z (execReleaseGrant src dst seq payload s) := by
  unfold execReleaseGrant
  rw [inputTo_there hr]
  try dsimp only
  repeat' (first
      | (with_reducible first
          | assumption | intro _ | exact Sub.of (by decide +kernel) hm | apply releaseFrame_within
          | apply decide__within | apply State.bump_within | apply ansWithin_next))

theorem execGroupDisable_within {M : List Part} {z : State} (group : Nat) (s : State) (hs : Within M z s)
    (hm : Sub (hostPath ++ [Part.held, Part.force, Part.boundary, Part.store, Part.keys, Part.release, Part.metering, Part.cycle, Part.subGhz, Part.uwb, Part.transponder]) M)
    : AnsWithin M z (execGroupDisable group s) := by
  unfold execGroupDisable
  try dsimp only
  repeat' (first
      | (with_reducible first
          | assumption | intro _ | exact Sub.of (by decide +kernel) hm | apply State.when_within
          | apply auditedWrite_within | apply groupDisabled_within | apply storeField_within | apply ansWithin_next))

theorem execHoldSample_within {M : List Part} {z : State} (s : State) (hs : Within M z s)
    (hm : Sub (hostPath ++ [.store, .keys, .release, .metering, .cycle, .subGhz, .uwb, .transponder]) M)
    (hr : rolesThere s (.holdSample) = true) : AnsWithin M z (execHoldSample s) := by
  unfold execHoldSample
  rw [inputTo_there hr]
  try dsimp only
  repeat' (first
      | (with_reducible first
          | assumption | exact rfl | intro _ | exact Sub.of (by decide +kernel) hm | exact Or.inr rfl
          | exact Or.inl (Sub.has hm (by decide +kernel)) | apply State.when_within | apply endEntries_within
          | apply ansWithin_next | apply within_ite)
      | (simp only [within_mk]; with_reducible apply Within.upd) | split)

theorem execHoldMaxtimeExpiry_within {M : List Part} {z : State} (entry : Nat) (s : State) (hs : Within M z s)
    (hm : Sub (hostPath ++ [Part.store, Part.keys, Part.release, Part.metering, Part.cycle, Part.subGhz, Part.uwb, Part.transponder]) M)
    : AnsWithin M z (execHoldMaxtimeExpiry entry s) := by
  unfold execHoldMaxtimeExpiry
  try dsimp only
  repeat' (first
      | (with_reducible first
          | assumption | intro _ | exact Sub.of (by decide +kernel) hm | apply State.when_within | apply endEntry_within
          | apply ansWithin_next))

theorem execSetDeadline_within {M : List Part} {z : State} (tag : Nat) (s : State) (hs : Within M z s)
    (hm : Sub (ringPath ++ [Part.release, Part.metering]) M) : AnsWithin M z (execSetDeadline tag s) := by
  unfold execSetDeadline
  try dsimp only
  repeat' (first
      | (with_reducible first
          | assumption | intro _ | exact Sub.of (by decide +kernel) hm | apply ringCmdIf_within | apply auditCmd_within
          | apply complete_within | apply State.setSess_within | apply ansWithin_next)
      | split)

theorem execEndGroup_within {M : List Part} {z : State} (tag : Nat) (s : State) (hs : Within M z s)
    (hm : Sub (hostPath ++ [Part.store, Part.keys, Part.release, Part.metering, Part.cycle, Part.subGhz, Part.uwb, Part.transponder]) M)
    : AnsWithin M z (execEndGroup tag s) := by
  unfold execEndGroup
  try dsimp only
  repeat' (first
      | (with_reducible first
          | assumption | intro _ | exact Sub.of (by decide +kernel) hm | apply ringCmdIf_within | apply auditCmd_within
          | apply complete_within | apply endEntries_within | apply ansWithin_next | apply within_ite)
      | split)

theorem execReadbackTimeout_within {M : List Part} {z : State} (group : Nat) (s : State) (hs : Within M z s)
    (hm : Sub (hostPath ++ [Part.release]) M) : AnsWithin M z (execReadbackTimeout group s) := by
  unfold execReadbackTimeout
  try dsimp only
  repeat' (first
      | (with_reducible first
          | assumption | intro _ | exact Sub.of (by decide +kernel) hm | apply State.when_within | apply event_within
          | apply State.raiseBit_within | apply State.setReadback_within | apply ansWithin_next | apply within_ite)
      | split)

theorem execEndRemote_within {M : List Part} {z : State} (tag : Nat) (s : State) (hs : Within M z s)
    (hm : Sub [.rings, .host, .fabric, .status, .output, .nonces, .keys] M) (hr : rolesThere s (.endRemote tag) = true)
    : AnsWithin M z (execEndRemote tag s) := by
  unfold execEndRemote
  rw [inputTo_there hr]
  try dsimp only
  repeat' (first
      | (with_reducible first
          | assumption | intro _ | exact Sub.of (by decide +kernel) hm | apply ringCmdIf_within | apply auditCmd_within
          | apply sendRelease_within | apply complete_within | apply ansWithin_next)
      | split)

theorem execEventBuffer_within {M : List Part} {z : State} (tag : Nat) (s : State) (hs : Within M z s) (hm : Sub ringPath M)
    : AnsWithin M z (execEventBuffer tag s) := by
  unfold execEventBuffer
  try dsimp only
  repeat' (first
      | (with_reducible first
          | assumption | exact Sub.of (by decide +kernel) hm | apply postBuffer_within | apply ansWithin_next))

theorem execReleaseLatchTaken_within {M : List Part} {z : State} (group : Nat) (s : State) (hs : Within M z s)
    (hm : Sub (hostPath ++ [Part.release, Part.cycle, Part.subGhz, Part.uwb, Part.transponder]) M)
    : AnsWithin M z (execReleaseLatchTaken group s) := by
  unfold execReleaseLatchTaken
  try dsimp only
  repeat' (first
      | (with_reducible first
          | assumption | exact rfl | intro _ | exact Sub.of (by decide +kernel) hm | exact Or.inr rfl
          | exact Or.inl (Sub.has hm (by decide +kernel)) | apply State.when_within | apply setRelA_within
          | apply settle_within | apply ansWithin_next | apply within_ite | apply within_foldl | apply within_foldl_fst)
      | (simp only [within_mk]; with_reducible apply Within.upd) | split)

theorem execGrantAnswer_within {M : List Part} {z : State} (src : Nat) (dst : Nat) (seq : Nat) (payload : Bytes) (s : State)
    (hs : Within M z s) (hm : Sub (hostPath ++ [.keys, .release, .cycle, .subGhz, .uwb, .transponder]) M)
    (hr : rolesThere s (.grantAnswer src dst seq payload) = true)
    : AnsWithin M z (execGrantAnswer src dst seq payload s) := by
  unfold execGrantAnswer
  rw [inputTo_there hr]
  try dsimp only
  repeat' (first
      | (with_reducible first
          | assumption | intro _ | exact Sub.of (by decide +kernel) hm | apply releaseFrame_within
          | apply grantAnswered_within | apply ansWithin_next)
      | split)

theorem execBrownOut_within {M : List Part} {z : State} (s : State) (mv : optParam Nat 0) (hs : Within M z s)
    (hm : Sub (hostPath ++ [Part.mode, Part.held, Part.force, Part.nvwp, Part.tap, Part.boundary, Part.store, Part.power, Part.keys, Part.holly, Part.release, Part.metering, Part.field, Part.cycle, Part.subGhz, Part.uwb, Part.radio, Part.transponder, Part.update]) M)
    : AnsWithin M z (execBrownOut s mv) := by
  unfold execBrownOut
  try dsimp only
  repeat' (first
      | (with_reducible first
          | assumption | exact rfl | intro _ | exact Sub.of (by decide +kernel) hm | exact Or.inr rfl
          | exact Or.inl (Sub.has hm (by decide +kernel)) | apply State.when_within | apply resetDevice_within
          | apply ansWithin_next | apply within_ite)
      | (simp only [within_mk]; with_reducible apply Within.upd) | split)

theorem execNrst_within {M : List Part} {z : State} (s : State) (hs : Within M z s)
    (hm : Sub (hostPath ++ [Part.mode, Part.held, Part.force, Part.nvwp, Part.tap, Part.boundary, Part.store, Part.power, Part.keys, Part.holly, Part.release, Part.metering, Part.field, Part.cycle, Part.subGhz, Part.uwb, Part.radio, Part.transponder, Part.update]) M)
    : AnsWithin M z (execNrst s) := by
  unfold execNrst
  try dsimp only
  repeat' (first
      | (with_reducible first
          | assumption | intro _ | exact Sub.of (by decide +kernel) hm | apply State.when_within
          | apply resetDevice_within | apply ansWithin_next))

theorem execAutoRestart_within {M : List Part} {z : State} (s : State) (hs : Within M z s)
    (hm : Sub (hostPath ++ [Part.mode, Part.held, Part.force, Part.nvwp, Part.tap, Part.boundary, Part.store, Part.power, Part.keys, Part.holly, Part.release, Part.metering, Part.field, Part.cycle, Part.subGhz, Part.uwb, Part.radio, Part.transponder, Part.update]) M)
    : AnsWithin M z (execAutoRestart s) := by
  unfold execAutoRestart
  try dsimp only
  repeat' (first
      | (with_reducible first
          | assumption | exact rfl | intro _ | exact Sub.of (by decide +kernel) hm | exact Or.inr rfl
          | exact Or.inl (Sub.has hm (by decide +kernel)) | apply State.when_within | apply resetDevice_within
          | apply ansWithin_next)
      | (simp only [within_mk]; with_reducible apply Within.upd))

theorem execWatchdogReset_within {M : List Part} {z : State} (s : State) (hs : Within M z s)
    (hm : Sub (hostPath ++ [Part.mode, Part.held, Part.force, Part.nvwp, Part.tap, Part.boundary, Part.store, Part.power, Part.keys, Part.holly, Part.release, Part.metering, Part.field, Part.cycle, Part.subGhz, Part.uwb, Part.radio, Part.transponder, Part.update]) M)
    : AnsWithin M z (execWatchdogReset s) := by
  unfold execWatchdogReset
  try dsimp only
  repeat' (first
      | (with_reducible first
          | assumption | intro _ | exact Sub.of (by decide +kernel) hm | apply State.when_within
          | apply resetDevice_within | apply ansWithin_next))

theorem execPwrRestart_within {M : List Part} {z : State} (s : State) (hs : Within M z s)
    (hm : Sub (hostPath ++ [Part.mode, Part.held, Part.force, Part.nvwp, Part.tap, Part.boundary, Part.store, Part.power, Part.keys, Part.holly, Part.release, Part.metering, Part.field, Part.cycle, Part.subGhz, Part.uwb, Part.radio, Part.transponder, Part.update]) M)
    : AnsWithin M z (execPwrRestart s) := by
  unfold execPwrRestart
  try dsimp only
  repeat' (first
      | (with_reducible first
          | assumption | exact Sub.of (by decide +kernel) hm | apply restartWritten_within | apply ansWithin_next))

theorem execStartSequence_within {M : List Part} {z : State} (r : StartResult) (s : State) (hs : Within M z s)
    (hm : Sub (hostPath ++ [Part.mode, Part.held, Part.force, Part.nvwp, Part.boundary, Part.store, Part.power, Part.keys, Part.holly, Part.release, Part.metering, Part.field, Part.cycle, Part.subGhz, Part.uwb, Part.radio, Part.transponder, Part.update]) M)
    : AnsWithin M z (execStartSequence r s) := by
  unfold execStartSequence
  try dsimp only
  repeat' (first
      | (with_reducible first
          | assumption | exact rfl | intro _ | exact Sub.of (by decide +kernel) hm | exact Or.inr rfl
          | exact Or.inl (Sub.has hm (by decide +kernel)) | apply State.when_within | apply sourceTaken_within
          | apply startRuns_within | apply recovers_within | apply ansWithin_next)
      | (simp only [within_mk]; with_reducible apply Within.upd) | split)

theorem execPowerOnReset_within {M : List Part} {z : State} (vddIo : Nat) (vbkHeld : Bool) (s : State)
    (levels : optParam (List Nat) [800, 1800, 1800, 0, 3000, 0]) (hs : Within M z s)
    (hm : Sub (hostPath ++ [Part.mode, Part.held, Part.force, Part.nvwp, Part.tap, Part.boundary, Part.store, Part.power, Part.keys, Part.holly, Part.release, Part.metering, Part.field, Part.cycle, Part.subGhz, Part.uwb, Part.radio, Part.transponder, Part.update]) M)
    : AnsWithin M z (execPowerOnReset vddIo vbkHeld s levels) := by
  unfold execPowerOnReset
  try dsimp only
  repeat' (first
      | (with_reducible first
          | assumption | exact Sub.of (by decide +kernel) hm | apply powerOn_within | apply ansWithin_next))

theorem execAppWaitExpiry_within {M : List Part} {z : State} (s : State) (hs : Within M z s)
    (hm : Sub (hostPath ++ [Part.held, Part.force, Part.boundary, Part.store, Part.keys, Part.release, Part.metering, Part.cycle, Part.subGhz, Part.uwb, Part.transponder, Part.update]) M)
    : AnsWithin M z (execAppWaitExpiry s) := by
  unfold execAppWaitExpiry
  try dsimp only
  repeat' (first
      | (with_reducible first
          | assumption | exact Sub.of (by decide +kernel) hm | apply appSwitches_within | apply restartNeeded_within
          | apply abandonActivation_within | apply ansWithin_next | apply within_ite)
      | split)

theorem imageWritten_within {M : List Part} {z : State} (s : State) (hs : Within M z s)
    (hm : Sub [.host, .status, .update] M) : Within M z (imageWritten s) := by
  unfold imageWritten
  try dsimp only
  repeat' (first
      | (with_reducible first
          | assumption | exact rfl | exact Sub.of (by decide +kernel) hm | exact Or.inr rfl
          | exact Or.inl (Sub.has hm (by decide +kernel)) | apply auditCmd_within | apply within_ite)
      | (simp only [within_mk]; with_reducible apply Within.upd) | split)

theorem beginAccepted_within {M : List Part} {z : State} (d : Desc) (h : Bytes) (s : State) (hs : Within M z s)
    (hm : Sub (ringPath ++ [Part.force, Part.update]) M) : Within M z (beginAccepted d h s) := by
  unfold beginAccepted
  try dsimp only
  repeat' (first
      | (with_reducible first
          | assumption | exact rfl | exact Sub.of (by decide +kernel) hm | exact Or.inr rfl
          | exact Or.inl (Sub.has hm (by decide +kernel)) | apply auditCmd_within | apply applyTiming_within
          | apply complete_within | apply imageWritten_within | apply within_ite)
      | (simp only [within_mk]; with_reducible apply Within.upd) | split)

theorem execRestart_within {M : List Part} {z : State} (tag : Nat) (s : State) (hs : Within M z s)
    (hm : Sub (hostPath ++ [Part.mode, Part.held, Part.force, Part.nvwp, Part.tap, Part.boundary, Part.store, Part.power, Part.keys, Part.holly, Part.release, Part.metering, Part.field, Part.cycle, Part.subGhz, Part.uwb, Part.radio, Part.transponder, Part.update]) M)
    : AnsWithin M z (execRestart tag s) := by
  unfold execRestart
  try dsimp only
  repeat' (first
      | (with_reducible first
          | assumption | intro _ | exact Sub.of (by decide +kernel) hm | apply ringCmd_within | apply resetDevice_within
          | apply auditCommitted_within | apply complete_within | apply auditCmd_within | apply ansWithin_next))

theorem execChunkDeferExpiry_within {M : List Part} {z : State} (s : State) (hs : Within M z s)
    (hm : Sub [.rings, .host, .fabric, .status, .output, .nonces, .update] M) (hr : rolesThere s (.chunkDeferExpiry) = true)
    : AnsWithin M z (execChunkDeferExpiry s) := by
  unfold execChunkDeferExpiry
  rw [inputTo_there hr]
  try dsimp only
  repeat' (first
      | (with_reducible first
          | assumption | exact rfl | exact Sub.of (by decide +kernel) hm | exact Or.inr rfl
          | exact Or.inl (Sub.has hm (by decide +kernel)) | apply complete_within | apply ansWithin_next)
      | (simp only [within_mk]; with_reducible apply Within.upd) | split)

theorem sectorsProgrammed_within {M : List Part} {z : State} (s : State) (i : Nat) (c : Bytes) (n : Nat) (hs : Within M z s)
    (hm : Sub [.update] M) : Within M z (sectorsProgrammed s i c n) := by
  unfold sectorsProgrammed
  try dsimp only
  repeat' (first
      | (with_reducible first
          | assumption | exact rfl | exact Or.inr rfl | exact Or.inl (Sub.has hm (by decide +kernel)) | apply within_ite)
      | (simp only [within_mk]; with_reducible apply Within.upd) | split)

theorem chunkProgrammed_within {M : List Part} {z : State} (s : State) (tag : Nat) (i : Nat) (c : Bytes) (hs : Within M z s)
    (hm : Sub (ringPath ++ [Part.update]) M) : Within M z (chunkProgrammed s tag i c) := by
  unfold chunkProgrammed
  try dsimp only
  repeat' (first
      | (with_reducible first
          | assumption | exact rfl | exact Sub.of (by decide +kernel) hm | exact Or.inr rfl
          | exact Or.inl (Sub.has hm (by decide +kernel)) | apply sectorsProgrammed_within | apply complete_within
          | apply imageWritten_within | apply within_ite)
      | (simp only [within_mk]; with_reducible apply Within.upd) | split)

theorem execChunk_within {M : List Part} {z : State} (tag : Nat) (data : Bytes) (sectors : Nat) (s : State) (hs
    : Within M z s) (hm : Sub [.rings, .host, .fabric, .status, .output, .nonces, .update] M)
    (hr : rolesThere s (.chunk tag data sectors) = true) : AnsWithin M z (execChunk tag data sectors s) := by
  unfold execChunk
  rw [inputTo_there hr]
  try dsimp only
  repeat' (first
      | (with_reducible first
          | assumption | exact rfl | intro _ | exact Sub.of (by decide +kernel) hm | exact Or.inr rfl
          | exact Or.inl (Sub.has hm (by decide +kernel)) | apply ringCmdIf_within | apply complete_within
          | apply chunkProgrammed_within | apply passAbort_within | apply sectorsProgrammed_within
          | apply noteDeferred_within | apply ansWithin_next | apply within_ite)
      | (simp only [within_mk]; with_reducible apply Within.upd) | split)

theorem execExportAsset_within {M : List Part} {z : State} (tag : Nat) (s : State) (hs : Within M z s)
    (hm : Sub (ringPath ++ [Part.keys]) M) : AnsWithin M z (execExportAsset tag s) := by
  unfold execExportAsset
  try dsimp only
  repeat' (first
      | (with_reducible first
          | assumption | intro _ | exact Sub.of (by decide +kernel) hm | apply ringCmd_within
          | apply refuseSilent_within | apply complete_within | apply completeData_within | apply useSlot_within
          | apply ansWithin_next | apply within_ite)
      | split)

theorem execImportAsset_within {M : List Part} {z : State} (tag : Nat) (data : Bytes) (suppliesOk : Bool) (s : State) (hs
    : Within M z s) (hm : Sub [.rings, .host, .fabric, .status, .output, .nonces, .store, .keys] M)
    (hr : rolesThere s (.importAsset tag data suppliesOk) = true)
    : AnsWithin M z (execImportAsset tag data suppliesOk s) := by
  unfold execImportAsset
  rw [inputTo_there hr]
  try dsimp only
  repeat' (first
      | (with_reducible first
          | assumption | intro _ | exact Sub.of (by decide +kernel) hm | apply ringCmdIf_within | apply changeCmd_within
          | apply authJob_within | apply complete_within | apply noteDeferred_within | apply nvRequest_within
          | apply markTaken_within | apply ansWithin_next | apply within_ite)
      | split)

theorem execAppHandoverPoint_within {M : List Part} {z : State} (s : State) (hs : Within M z s)
    (hm : Sub (hostPath ++ [Part.held, Part.force, Part.boundary, Part.store, Part.keys, Part.release, Part.metering, Part.cycle, Part.subGhz, Part.uwb, Part.transponder, Part.update]) M)
    : AnsWithin M z (execAppHandoverPoint s) := by
  unfold execAppHandoverPoint
  try dsimp only
  repeat' (first
      | (with_reducible first
          | assumption | exact Sub.of (by decide +kernel) hm | apply appSwitches_within | apply ansWithin_next)
      | split)

theorem execBegin_within {M : List Part} {z : State} (tag : Nat) (data : Bytes) (s : State)
    (suppliesOk : optParam Bool true) (hs : Within M z s)
    (hm : Sub [.rings, .host, .fabric, .status, .output, .nonces, .force, .update] M)
    (hr : rolesThere s (.begin_ tag data suppliesOk) = true) : AnsWithin M z (execBegin tag data s suppliesOk) := by
  unfold execBegin
  rw [inputTo_there hr]
  try dsimp only
  repeat' (first
      | (with_reducible first
          | assumption | intro _ | exact Sub.of (by decide +kernel) hm | apply ringCmdIf_within | apply complete_within
          | apply noteDeferred_within | apply beginAccepted_within | apply ansWithin_next | apply within_ite)
      | split)

theorem execRoleHandoverSwap_within {M : List Part} {z : State} (sectionOk : Bool) (s : State) (hs : Within M z s)
    (hm : Sub (ringPath ++ [Part.update]) M) : AnsWithin M z (execRoleHandoverSwap sectionOk s) := by
  unfold execRoleHandoverSwap
  try dsimp only
  repeat' (first
      | (with_reducible first
          | assumption | intro _ | exact Sub.of (by decide +kernel) hm | apply State.when_within
          | apply roleSwapped_within | apply abandonMixed_within | apply ansWithin_next | apply within_ite)
      | split)

theorem execSetAppkey_within {M : List Part} {z : State} (tag : Nat) (data : Bytes) (s : State) (hs : Within M z s)
    (hm : Sub (ringPath ++ [Part.update]) M) : AnsWithin M z (execSetAppkey tag data s) := by
  unfold execSetAppkey
  apply ansWithin_next
  refine ringCmdIf_within _ _ _ _ _ _ (fun d s hs => ?_) hs (Sub.of (by decide +kernel) hm)
  dsimp only
  generalize beNat (sha256 (padTo 64 data)) = k
  split
  · with_reducible exact refuseSilent_within _ _ _ _ hs (Sub.of (by decide +kernel) hm)
  · next hc =>
    split
    · with_reducible exact complete_within _ _ _ _ _ hs (Sub.of (by decide +kernel) hm)
    · refine complete_within _ _ _ _ _ (auditCmd_within _ _ _ _ (hs.trans
        ⟨rfl, rfl, rfl, Nat.le_refl _, fun a => ?_, fun _ => rfl, id, id⟩
        { Untouched.refl M s with update := fun h => absurd (Sub.has hm (by decide +kernel)) h }) ?_) ?_
      · simp only [Bool.not_eq_true, Bool.not_eq_false', Bool.and_eq_true, decide_eq_true_eq] at hc
        exact absurd hc.1 a
      · exact Sub.of (by decide +kernel) hm
      · exact Sub.of (by decide +kernel) hm

theorem execActivate_within {M : List Part} {z : State} (tag : Nat) (data : Bytes) (s : State)
    (bundleOk : optParam Bool true) (hs : Within M z s) (hm : Sub (ringPath ++ [Part.force, Part.update]) M)
    : AnsWithin M z (execActivate tag data s bundleOk) := by
  unfold execActivate
  try dsimp only
  repeat' (first
      | (with_reducible first
          | assumption | exact rfl | intro _ | exact Sub.of (by decide +kernel) hm | exact Or.inr rfl
          | exact Or.inl (Sub.has hm (by decide +kernel)) | apply ringCmdIf_within | apply complete_within
          | apply State.setStat_within | apply auditCmd_within | apply restartNeeded_within | apply applyTiming_within
          | apply markTaken_within | apply ansWithin_next | apply within_ite)
      | (simp only [within_mk]; with_reducible apply Within.upd) | split)

theorem tickRest_within {M : List Part} {z : State} (s : State) (hs : Within M z s) (hm : Sub [.keys, .subGhz] M)
    : Within M z (tickRest s) := by
  unfold tickRest
  try dsimp only
  repeat' (first
      | (with_reducible first
          | assumption | exact Sub.of (by decide +kernel) hm | apply sgrIdleAt_within | apply maskingPauses_within
          | apply clearWorkingKey_within | apply within_ite)
      | split)

theorem tickCharger_within {M : List Part} {z : State} (s : State) (hs : Within M z s) (hm : Sub [.power] M)
    : Within M z (tickCharger s) := by
  unfold tickCharger
  try dsimp only
  repeat' (first
      | (with_reducible first
          | assumption | exact rfl | intro _ | exact Sub.of (by decide +kernel) hm | exact Or.inr rfl
          | exact Or.inl (Sub.has hm (by decide +kernel)) | apply State.when_within)
      | (simp only [within_mk]; with_reducible apply Within.upd))

end Sys2Proof.Machine
end

