-- ==== Sys2Proof/Laws/Tick.lean ====
section
/-! SUPPORT. What a tick can do: the clocks move and the charger fills HOLD, and beyond them only what a resting rung, a waiting
life-cycle transition and the end of a refill change. -/
namespace Sys2Proof.Machine

/-- The parts that a tick may change beyond the clocks. -/
def tickParts : List Part :=
  hostPath ++ [Part.tap, Part.store, Part.power, Part.keys, Part.holly, Part.release, Part.metering, Part.cycle, Part.subGhz,
    Part.uwb, Part.transponder, Part.update]

/-- A tick but for what waits for it: a life-cycle transition and the end of a refill. -/
def tickBody (s : State) : State := tickRest (tickCharger (tickClocks s))

theorem tickBody_within (s : State) : Within [.power, .keys, .subGhz] (tickClocks s) (tickBody s) :=
  tickRest_within _ (tickCharger_within _ (Within.refl _ _) (fun p h => by revert p; decide)) (fun p h => by revert p; decide)

theorem tick_within (s : State) : Within tickParts (tickClocks s) (tick s) :=
  refillEnds_within _ (lcProceeds_within _ (tickRest_within _ (tickCharger_within _ (Within.refl _ _) (fun p h => by revert p; decide))
    (fun p h => by revert p; decide)) (fun p h => by revert p; decide)) (fun p h => by revert p; decide)

theorem lcProceeds_idle (s : State) (h : s.cip.lcWaits = none) : lcProceeds s = s := by
  unfold lcProceeds; rw [h]

theorem refillEnds_idle (s : State) (h : s.upd.act = none) : refillEnds s = s := by
  unfold refillEnds; rw [h]

theorem tickClocks_pending (s : State) : (tickClocks s).pending = s.pending := rfl
theorem tickClocks_now (s : State) : (tickClocks s).now = s.now + 1 := rfl
theorem tickClocks_rings (s : State) : (tickClocks s).rings = s.rings := rfl

theorem tickCharger_cip (s : State) : (tickCharger s).cip = s.cip := by
  unfold tickCharger State.when; split <;> rfl

theorem tickCharger_upd (s : State) : (tickCharger s).upd = s.upd := by
  unfold tickCharger State.when; split <;> rfl

theorem tickRest_lcWaits (s : State) : (tickRest s).cip.lcWaits = s.cip.lcWaits := by
  unfold tickRest sgrIdleAt maskingPauses clearWorkingKey; dsimp only; (repeat' split) <;> rfl

theorem tickRest_upd (s : State) : (tickRest s).upd = s.upd := by
  unfold tickRest sgrIdleAt maskingPauses clearWorkingKey; dsimp only; (repeat' split) <;> rfl

theorem tickBody_lcWaits (s : State) : (tickBody s).cip.lcWaits = s.cip.lcWaits := by
  unfold tickBody; rw [tickRest_lcWaits, tickCharger_cip]; rfl

theorem tickBody_act (s : State) : (tickBody s).upd.act = s.upd.act := by
  unfold tickBody; rw [tickRest_upd, tickCharger_upd]; rfl

theorem tickBody_rtc (s : State) : (tickBody s).pwr.rtc = (tickClocks s).pwr.rtc ∧ (tickBody s).pwr.rtcPhase = (tickClocks s).pwr.rtcPhase := by
  have h1 : ∀ t : State, (tickRest t).pwr = t.pwr := fun t => by
    unfold tickRest sgrIdleAt maskingPauses clearWorkingKey; dsimp only; (repeat' split) <;> rfl
  have h2 : ∀ t : State, (tickCharger t).pwr.rtc = t.pwr.rtc ∧ (tickCharger t).pwr.rtcPhase = t.pwr.rtcPhase := fun t => by
    unfold tickCharger State.when; split <;> exact ⟨rfl, rfl⟩
  unfold tickBody
  rw [h1]
  exact h2 _

/-- With neither waiting, a tick is its body. -/
theorem tick_idle (s : State) (h : s.cip.lcWaits = none) (g : s.upd.act = none) : tick s = tickBody s := by
  unfold tick
  rw [show tickRest (tickCharger (tickClocks s)) = tickBody s from rfl, lcProceeds_idle _ ((tickBody_lcWaits s).trans h),
    refillEnds_idle _ ((tickBody_act s).trans g)]

end Sys2Proof.Machine
end

