-- ==== Sys2Proof/Machine/Pins.lean ====
section
/-! DEFINITION. The pins and their states: from power-on to the step of the start at which the owning block takes each, and as the
block drives it from then on (16_electrical_and_package.md R420, R421, R426, R432, R436). -/
namespace Sys2Proof.Machine

/-- The signal pins of R420, those of a kind by their number; supplies apart. -/
inductive Pin where
  | lf (n : Nat) | tpx | sgRf | uwbRf | trswTx | trswRx | paEn | utrsw | coexReq | coexPri | coexAct | coexGrant
  | mdat (n : Nat) | mclk (n : Nat) | aux (n : Nat) | door (n : Nat) | rb (n : Nat) | relA (g : Nat) | relB (g : Nat)
  | nvwp | hold | xtal32 | xtal38 | xspiCk | xspiCsN | xspiDqs | xspiIo (n : Nat) | xspiResetN | linkTx (port : Nat) | pcieTx
  | perstN | nrst | tck | tms | tdi | tdo | trstN
  deriving DecidableEq, Repr

/-- What stands at a pin. -/
inductive PinState where
  /-- both legs of a bridge are low-side on -/
  | lowSide
  /-- the bridge is driven -/
  | bridge
  /-- a radio port or an oscillator is off -/
  | off
  /-- a radio port or an oscillator is on -/
  | on
  /-- a weak pull-down, or the pull-down of TRST_N -/
  | pullDown
  /-- a pull-up -/
  | pullUp
  /-- driven to a level -/
  | level (high : Bool)
  /-- a clock or square wave of this frequency, Hz -/
  | wave (hz : Nat)
  /-- high impedance, or an input without a pull -/
  | highZ
  /-- the charger of HOLD is off -/
  | chargerOff
  /-- the charger of HOLD runs -/
  | charging
  /-- a transmit pair idle: differential 0 V, or electrical idle -/
  | txIdle
  /-- a transmit pair at work -/
  | txActive
  deriving DecidableEq, Repr

/-- The column "Unpowered, reset, start" of R420. A door's pull-up needs VDD_ANA, the 32.768 kHz oscillator VBK. -/
def startPin (s : State) (p : Pin) : PinState :=
  match p with
  | .lf _ | .tpx => .lowSide
  | .sgRf | .uwbRf => .off
  | .trswTx | .trswRx | .paEn | .utrsw => .pullDown
  | .coexReq | .coexPri | .coexAct => .level false
  | .coexGrant | .mdat _ => .pullDown
  | .mclk _ => .level false
  | .aux _ | .rb _ => .highZ
  | .door _ => if 1620 ≤ nth 2 s.pwr.supplies 0 then .pullUp else .highZ
  | .relA _ | .relB _ => .level false
  | .nvwp => .pullUp
  | .hold => .chargerOff
  | .xtal32 => if 2000 ≤ nth 5 s.pwr.supplies 0 then .on else .off
  | .xtal38 => if s.pwr.amp38 then .on else .off
  | .xspiCsN => .level true
  | .xspiResetN => .level false
  | .xspiCk | .xspiDqs | .xspiIo _ => .pullDown
  | .linkTx _ | .pcieTx => .txIdle
  | .perstN => .highZ
  | .nrst | .tck | .tms | .tdi => .pullUp
  | .tdo => .highZ
  | .trstN => .pullDown

/-- LF channel `n` is driven: by the pattern in progress or by a diagnostic burst. -/
def lfDriven (s : State) (n : Nat) : Bool :=
  s.lf.burst == some n ||
    match s.lf.pattern with
    | some p => s.cyc.phase == .pattern && (p.chA = n || p.chB == some n)
    | none => false

/-- MCLKn, in Hz: 160 MHz divided by MTR_CLK.DIV while metrology runs (10 R257). -/
def mclkHz (s : State) : Nat := 160000000 / s.eff Reg.mtrClkDiv

/-- A pin as it stands once its block has taken it. The idle xSPI port keeps its chip select high, out of reset from step 7 on
(R436); a pin that only takes something in stays as it was. -/
def ownedPin (s : State) (p : Pin) : PinState :=
  match p with
  | .lf n => if lfDriven s n then .bridge else .lowSide
  | .tpx => if s.tpx.phase == .off then .lowSide else .bridge
  | .sgRf => if s.sgr.phase == .tx || s.sgr.phase == .rx then .on else .off
  | .uwbRf => if s.uwb.phase == .tx || s.uwb.phase == .rx then .on else .off
  | .trswTx => .level (switchPins s).1
  | .trswRx => .level (switchPins s).2.1
  | .paEn => .level (switchPins s).2.2
  | .utrsw => .level s.uwb.utrsw
  | .coexReq => .level (s.cyc.coexReq || s.sgr.coexReq)
  | .coexPri => .level s.cyc.coexPri
  | .coexAct => .level (coexAct s)
  | .mclk _ => if meterRuns s then .wave (mclkHz s) else .level false
  | .relA g => .level (bitAt s.rel.relA g)
  | .relB g => if bitAt s.rel.relB g then .wave 1000 else .level false
  | .hold => if chargerOn s then .charging else .chargerOff
  | .xspiResetN => .level true
  | .linkTx n => if fabricRuns s && portEnabled s n && portPhase s n != .asleep then .txActive else .txIdle
  | .pcieTx => if s.stat Reg.hifStatusLinkUp = 1 then .txActive else .txIdle
  | p => startPin s p

/-- The pin as it stands: a start's one instant takes the pins at its end. HOST trains its link at any step of a start (15 R403), and
the charger runs in RECOVERY too, which writes flash (14 R373). -/
def pinState (s : State) (p : Pin) : PinState :=
  if s.pwr.pinsTaken || p == .pcieTx || p == .hold then ownedPin s p else startPin s p

end Sys2Proof.Machine
end

