-- ==== Sys2Proof/WellFormed.lean ====
section
/-! DEFINITION. Well-formed commands: every operand within the width that the spec gives the thing it stands for. The meanings
are total and do not rest on this check; it says which commands an encoding of the table's rows could carry. -/
namespace Sys2Proof

/-- `v` fits in `n` bits. -/
def fits (n v : Nat) : Bool := decide (v < 2 ^ n)

/-- `v` is one of `n` numbers from 0. -/
def below (n v : Nat) : Bool := decide (v < n)

/-- `v` lies from `lo` to `hi`. -/
def range (lo hi v : Int) : Bool := decide (lo ≤ v) && decide (v ≤ hi)

/-- `l` is `n` words of `w` bits. -/
def words (n w : Nat) (l : List Nat) : Bool := l.length == n && l.all (fits w)

/-- A response burst: 32 chips and two readings of the 40-bit time counter (06 R151). -/
def BoundRound.wf (b : BoundRound) : Bool := fits 32 b.chips && fits 40 b.sent && fits 40 b.heard

/-- A block as received: its violations counted in 16 bits. A block longer than R285 allows is an operand too. -/
def LinkBlock.wf (b : LinkBlock) : Bool := decide (b.data.length ≤ 1044) && fits 16 b.violations

/-- What a start finds: masks, sizes and readings within their widths (15 R402; 13 R350). -/
def StartResult.wf (r : StartResult) : Bool :=
  fits 15 r.engines && fits 7 r.xspi && fits 6 r.calFailed && fits 16 r.swing38 &&
    r.headers.all (fun e => below 6 e.1 && fits 8 e.2.1 && e.2.2.length == 16) && r.badHeads.all (fits 16) &&
    r.badData.all (fits 16) && range (-1280) 2000 r.temp

/-- Every operand of the command is within its width. -/
def wellFormed (i : Instr) : Bool :=
  match i with
  | .registerWrite off value => fits 16 off && fits 32 value
  | .profileWrite value => fits 4 value
  | .pollCycleBoundary => true
  | .wakePatternStart vlf => fits 16 vlf
  | .dutyTick => true
  | .vlfLowRetest vlf => fits 16 vlf
  | .vlfCollapse vlf => fits 16 vlf
  | .bridgeOvercurrent chan _ => below 8 chan
  | .wakePatternEnd estA estB loopA loopB => fits 16 estA && fits 16 estB && fits 16 loopA && fits 16 loopB
  | .lfStartWaitEnd => true
  | .lfDiagPeriod => true
  | .diagNow => true
  | .lfRearm chan => below 8 chan
  | .lfDiagBurstEnd chan _ current resonance => below 8 chan && fits 16 current && fits 16 resonance
  | .announceWindowOpen => true
  | .slotEmptyClose => true
  | .slotGuardEnd => true
  | .announceFrame rssi frame => range (-128) 127 rssi && frame.length ≤ 1044
  | .challengeTurn ctx _ => below 16 ctx
  | .responseFrame start10ns rssi frame _ => fits 32 start10ns && range (-128) 127 rssi && frame.length ≤ 1044
  | .responseTimeout => true
  | .uwbRoundStart sinceGrant sinceReq counter => fits 32 sinceGrant && fits 32 sinceReq && fits 40 counter
  | .rangeGrantTimeout ctx => below 16 ctx
  | .uwbResponseFrame counter phases offset =>
    fits 40 counter && phases.length ≤ 4 && phases.all (fun p => p.all (fits 16)) && range (-32768) 32767 offset
  | .uwbFinalTx counter => fits 40 counter
  | .uwbReportFrame payload => payload.length ≤ 1024
  | .uwbRxWindowEnd => true
  | .uwbLockLoss => true
  | .uwbTxWaitExpiry => true
  | .boundingRunComplete rounds => rounds.length ≤ 64 && rounds.all (fun p => p.all BoundRound.wf)
  | .fusionComplete ctx => below 16 ctx
  | .grantAnswerTimeout ctx group => below 16 ctx && below 17 group
  | .releaseLatchTaken group => below 2 group
  | .coilPollStart vlf => fits 16 vlf
  | .coilSettleEnd current _ _ => fits 16 current
  | .coilOvercurrent => true
  | .coilVlfCollapse => true
  | .walkReply start halves => fits 16 start && halves.length ≤ 2048
  | .selectedReply start current frame => fits 16 start && fits 16 current && frame.length ≤ 1044
  | .nonceReply start current frame => fits 16 start && fits 16 current && frame.length ≤ 1044
  | .authReply start current frame => fits 16 start && fits 16 current && frame.length ≤ 1044
  | .passwordReply start current frame => fits 16 start && fits 16 current && frame.length ≤ 1044
  | .securedReply start current frame => fits 16 start && fits 16 current && frame.length ≤ 1044
  | .tpxReplyMissing current _ => fits 16 current
  | .tpxRearm => true
  | .tpxReportBuffer tag => fits 16 tag
  | .pollNow tag => fits 16 tag
  | .inventory tag => fits 16 tag
  | .readBlock tag => fits 16 tag
  | .writeBlock tag data => fits 16 tag && data.length ≤ 131072
  | .sgrSynthLock => true
  | .sgrLockLoss => true
  | .sgrTxWaitExpiry => true
  | .sgrTxEnd => true
  | .sgrPacketReceived rssi frame => range (-128) 127 rssi && frame.length ≤ 1044
  | .sgrRxTimeout => true
  | .rssiMeasureEnd mean => range (-128) 127 mean
  | .temperatureSample tenths => range (-1280) 1279 tenths
  | .quietSlotTask _ _ => true
  | .taskDeadlinePreempt _ _ => true
  | .spareMemoryTest _ => true
  | .calBlockEnd failed => fits 6 failed
  | .oscMeasureEnd count => fits 32 count
  | .coexGrantChange _ => true
  | .coexWaitExpiry => true
  | .txPacket tag data => fits 16 tag && data.length ≤ 131072
  | .rxPacket tag => fits 16 tag
  | .calibrate tag => fits 16 tag
  | .regrecRead tag => fits 16 tag
  | .regrecWrite tag data => fits 16 tag && data.length ≤ 131072
  | .rssi tag => fits 16 tag
  | .prxReportBuffer tag => fits 16 tag
  | .testPoint tag => fits 16 tag
  | .encrypt tag data => fits 16 tag && data.length ≤ 131072
  | .decrypt tag data side => fits 16 tag && data.length ≤ 131072 && side.length = 32
  | .mac tag data => fits 16 tag && data.length ≤ 131072
  | .nonce tag => fits 16 tag
  | .counter tag => fits 16 tag
  | .privetRemask => true
  | .drbgReseed _ => true
  | .entropyWindowEnd _ rest => rest.length = 1023
  | .trngStartupTestEnd bits => bits.length = 4096
  | .loadClear tag data => fits 16 tag && data.length ≤ 131072
  | .loadWrapped tag data => fits 16 tag && data.length ≤ 131072
  | .derive tag data => fits 16 tag && data.length ≤ 131072
  | .erase tag => fits 16 tag
  | .narrow tag => fits 16 tag
  | .attest tag => fits 16 tag
  | .lcNonce tag => fits 16 tag
  | .lcNonceExpiry => true
  | .lcAdvance tag data => fits 16 tag && data.length ≤ 131072
  | .enroll tag data => fits 16 tag && data.length ≤ 131072
  | .revoke tag => fits 16 tag
  | .readSlot tag => fits 16 tag
  | .find tag => fits 16 tag
  | .learnBegin tag => fits 16 tag
  | .learnEntries tag data => fits 16 tag && data.length ≤ 131072
  | .learnCommit tag data => fits 16 tag && data.length ≤ 131072
  | .learnCancel tag => fits 16 tag
  | .unlock tag => fits 16 tag
  | .digest tag => fits 16 tag
  | .learnedSetEffective => true
  | .lockoutEnd slot => below 1024 slot
  | .unknownLockoutEnd => true
  | .lockoutCheckpoint => true
  | .sessionTimeout entry => below 8 entry
  | .auxAdcFrame doors rb aux => words 4 16 doors && words 2 16 rb && words 2 16 aux
  | .readbackTimeout group => below 2 group
  | .holdSample => true
  | .holdMaxtimeExpiry entry => below 8 entry
  | .queueWaitExpiry place => below 9 place
  | .faultGraceExpiry => true
  | .sessionCeilingCommit _ _ => true
  | .releaseGrant src dst seq payload => fits 16 src && fits 16 dst && fits 16 seq && payload.length ≤ 1024
  | .grantAnswer src dst seq payload => fits 16 src && fits 16 dst && fits 16 seq && payload.length ≤ 1024
  | .sessionEnd src dst seq payload => fits 16 src && fits 16 dst && fits 16 seq && payload.length ≤ 1024
  | .eventBuffer tag => fits 16 tag
  | .list tag => fits 16 tag
  | .endSession tag => fits 16 tag
  | .endGroup tag => fits 16 tag
  | .setDeadline tag => fits 16 tag
  | .endRemote tag => fits 16 tag
  | .groupDisable group => below 2 group
  | .decimatorResult codes still => codes.length = 4 && codes.all (range (-8388608) 8388607) && still.length = 4
  | .channelUsableReturn chan => below 4 chan
  | .xchkWindowEnd => true
  | .meterCheckpoint => true
  | .meterSettingsApply => true
  | .receiptFormed => true
  | .receiptCommitted _ _ => true
  | .receiptCommitRetry => true
  | .receiptKeyUsable => true
  | .receiptBuffer tag => fits 16 tag
  | .ack tag => fits 16 tag
  | .readReceipt tag => fits 16 tag
  | .counters tag => fits 16 tag
  | .rollNonce tag => fits 16 tag
  | .rollNonceExpiry => true
  | .rollover tag data => fits 16 tag && data.length ≤ 131072
  | .counterLoRead counter => below 4 counter
  | .linkLoss port codes => below 4 port && fits 32 codes
  | .hello port frame => below 4 port && frame.length ≤ 1044
  | .helloTimeout port => below 4 port
  | .idleSequenceRun port => below 4 port
  | .helloSend port => below 4 port
  | .joinReqRetry => true
  | .joinReq port frame => below 4 port && frame.length ≤ 1044
  | .joinAnswer port frame => below 4 port && frame.length ≤ 1044
  | .addrFullRetry => true
  | .leave port frame => below 4 port && frame.length ≤ 1044
  | .positionLeaveTimeout pos => below 64 pos
  | .timeSyncSend => true
  | .timeSync port residence frame => below 4 port && fits 32 residence && frame.length ≤ 1044
  | .timeSyncLoss => true
  | .frameReceived port first rest => below 4 port && first.wf && rest.all LinkBlock.wf
  | .frameSent out cls => below 6 out && below 4 cls
  | .spillReadback out cls _ => below 6 out && below 4 cls
  | .portEvent port frame => below 4 port && frame.length ≤ 1044
  | .prepare port frame => below 4 port && frame.length ≤ 1044
  | .ready port frame => below 4 port && frame.length ≤ 1044
  | .flip port frame => below 4 port && frame.length ≤ 1044
  | .retired port frame => below 4 port && frame.length ≤ 1044
  | .cancel port frame => below 4 port && frame.length ≤ 1044
  | .readyTimeout => true
  | .retireTimeout => true
  | .updateRepeat => true
  | .updateHoldoffEnd => true
  | .holdTimeExpiry port => below 4 port
  | .asleepHoldExpiry port => below 4 port
  | .wakeSequence port => below 4 port
  | .segAdvertSend => true
  | .segAdvert port frame => below 4 port && frame.length ≤ 1044
  | .rejoin => true
  | .fabTimeLoRead => true
  | .uwbTimeLoRead => true
  | .send tag data => fits 16 tag && data.length ≤ 131072
  | .recvBuffer tag => fits 16 tag
  | .peerMessage src seq time channel _ data =>
    fits 16 src && fits 16 seq && fits 32 time && fits 8 channel && data.length ≤ 131072
  | .pcieReset => true
  | .sqTail pos ring value _ => below 64 pos && below 16 ring && fits 16 value
  | .cqHead pos ring value _ => below 64 pos && below 16 ring && fits 16 value
  | .descriptorFetch ring bytes _ => below 16 ring && bytes.length = 32
  | .nop ring tag => below 16 ring && fits 16 tag
  | .abort ring tag => below 16 ring && fits 16 tag
  | .pcieDmaError ring kind tag => below 16 ring && below 3 kind && fits 16 tag
  | .interruptCoalesceExpiry ring => below 16 ring
  | .ringEnable ring => below 16 ring
  | .ringDisable ring => below 16 ring
  | .ringDrained ring => below 16 ring
  | .bar4Access pos off _ value => below 64 pos && fits 16 off && fits 32 value
  | .doorbell seq ack ring kind value => fits 16 seq && fits 16 ack && below 16 ring && below 2 kind && fits 16 value
  | .readReq pos seq ack ring req len addr _ data =>
    below 64 pos && fits 16 seq && fits 16 ack && below 16 ring && fits 16 req && fits 16 len && fits 64 addr &&
      data.length ≤ 131072
  | .readData seq ack ring req _ data =>
    fits 16 seq && fits 16 ack && below 16 ring && fits 16 req && data.length ≤ 131072
  | .proxyWrite pos seq ack ring addr data _ =>
    below 64 pos && fits 16 seq && fits 16 ack && below 16 ring && fits 64 addr && data.length ≤ 131072
  | .interrupt pos seq ack ring vector => below 64 pos && fits 16 seq && fits 16 ack && below 16 ring && below 64 vector
  | .regWrite seq ack off value => fits 16 seq && fits 16 ack && fits 16 off && fits 32 value
  | .regRead seq ack req off => fits 16 seq && fits 16 ack && fits 16 req && fits 16 off
  | .regData pos seq ack req value => below 64 pos && fits 16 seq && fits 16 ack && fits 16 req && fits 32 value
  | .proxyAck pos cls ack => below 64 pos && below 2 cls && fits 16 ack
  | .proxyRtoExpiry pos cls => below 64 pos && below 2 cls
  | .regwaitExpiry req => fits 16 req
  | .configApply tag data => fits 16 tag && data.length ≤ 131072
  | .configExport tag => fits 16 tag
  | .auditRead tag => fits 16 tag
  | .configSave _ => true
  | .auditCommit => true
  | .post tag data => fits 16 tag && data.length ≤ 131072
  | .mailboxRecvBuffer tag => fits 16 tag
  | .appMessage channel data => fits 16 channel && data.length ≤ 131072
  | .recordWriteDone _ _ => true
  | .sectorEraseDone area _ _ => below 6 area
  | .vholdReady riseUs => fits 32 riseUs
  | .mainSupplyFailure vdd finalRecords mv cut flash unread =>
    below 4 vdd && fits 32 finalRecords && fits 16 mv && cut.all (fits 11) &&
      flash.all (fun e => below 6 e.1 && fits 8 e.2) && unread.all (fits 16)
  | .scrubPeriod weak headers _ unread =>
    weak.all (fits 16) && headers.all (fun e => below 6 e.1 && fits 8 e.2) && unread.all (fits 16)
  | .read tag => fits 16 tag
  | .write tag data => fits 16 tag && data.length ≤ 131072
  | .delete tag => fits 16 tag
  | .hostRecordList tag => fits 16 tag
  | .wear tag => fits 16 tag
  | .scrubNow tag weak headers _ unread =>
    fits 16 tag && weak.all (fits 16) && headers.all (fun e => below 6 e.1 && fits 8 e.2) && unread.all (fits 16)
  | .begin_ tag data _ => fits 16 tag && data.length ≤ 131072
  | .chunk tag data sectors => fits 16 tag && data.length ≤ 131072 && fits 5 sectors
  | .chunkDeferExpiry => true
  | .activate tag data _ => fits 16 tag && data.length ≤ 131072
  | .roleHandoverSwap _ => true
  | .appHandoverPoint => true
  | .appWaitExpiry => true
  | .restart tag => fits 16 tag
  | .exportAsset tag => fits 16 tag
  | .importAsset tag data _ => fits 16 tag && data.length ≤ 131072
  | .setAppkey tag data => fits 16 tag && data.length ≤ 131072
  | .deepAfterExpiry => true
  | .wakeSource source => below 5 source
  | .supervisionEventBuffer tag => fits 16 tag
  | .setRtc tag data => fits 16 tag && data.length ≤ 131072
  | .rtcNonce tag => fits 16 tag
  | .rtcNonceExpiry => true
  | .selftest tag => fits 16 tag
  | .prodTx tag => fits 16 tag
  | .prodTxPeriod => true
  | .schedule tag => fits 16 tag
  | .monitors tag => fits 16 tag
  | .faults tag => fits 16 tag
  | .vbkLoss mv => fits 16 mv
  | .clockMonitorFlag source => below 6 source
  | .xtal32Recover => true
  | .powerOnReset vddIo _ levels => fits 16 vddIo && words 6 16 levels
  | .nrst => true
  | .brownOut mv => fits 16 mv
  | .pwrRestart => true
  | .autoRestart => true
  | .watchdogReset => true
  | .startSequence r => r.wf
  | .engineCheckpoint role => below 14 role
  | .eccError memory unit _ => below 5 memory && fits 16 unit
  | .engineFault role => below 14 role
  | .spareTakeover _ => true
  | .appFault => true
  | .reseedWaitExpiry => true
  | .pcieLinkUp _ maxRead => fits 10 maxRead
  | .pcieLinkDown => true
  | .pciePowerState _ => true
  | .mailboxTake => true
  | .tapInstruction instr => fits 8 instr
  | .badAccessRead _ => true

end Sys2Proof
end

