-- ==== Sys2Proof/Tests/Slice0.lean ====
section
/-! SUPPORT. Small tests: commands with an operand out of its width are not well-formed; figures that the spec works out; and
for every statement with hypotheses, states and operands that meet them. -/
open Sys2Proof Sys2Proof.Machine

namespace Sys2Proof.Tests

set_option Elab.async false

/-! ### States the tests start from -/


/-- A running head of segment 17 with position 2 in use. -/
def up : State :=
  { State.reset with
    mode := .running,
    fab := { Fab.reset with head := true, addr := some 1088, join := .joined, members := [(0, ⟨1, false, false, 0, 0⟩), (2, ⟨2, false, false, 1, 0⟩)], inuse := 5, ports := [0, 1, 2, 3].map fun p => (p, { Port.reset with phase := .training }) },
    pwr := { Pwr.reset with appServing := true, pinsTaken := true },
    nvs := { Nvs.reset with holdSeen := true } }

/-- A regulatory record whose every field is legal, with one band. -/
def aRecord : Bytes :=
  leBytes 2 1 ++ leBytes 2 72 ++ zeroBytes 4 ++ leBytes 2 10000 ++ leBytes 2 15000 ++ leBytes 2 1500 ++ [50, 100, 200, 1] ++
    leBytes 2 500 ++ leBytes 2 20 ++ leBytes 2 0 ++
    (leBytes 2 0 ++ leBytes 2 26400 ++ [48, 1] ++ leBytes 2 10000 ++ leBytes 2 1000 ++ leBytes 2 0) ++ zeroBytes 36

/-- A head that may poll: a record in force, schedule entry 0 on LF channels 0 and 1. -/
def polled : State :=
  { up with
    rad := { Rad.reset with regRec := some aRecord },


    lf := { Lf.reset with allowed := true, chans := [(0, { LfChan.reset with base := .ok })] } }

/-- A pattern on channels 0 and 1. -/
def aPattern : Pattern :=
  { entry := 0, chA := 0, chB := some 1, phase := 0, freq := 12500, ipeak := 1000, group := 0, num := 7, tick := 0, cut := 0,
    loopA := 0, loopB := 0 }

/-- A context in a phase, for the token with identifier 9. -/
def aCtx (p : CtxPhase) : Ctx :=
  { phase := p, slot := 0, id := 9, nt := 0, announce := zeroBytes 31, rssi := -60, holly := some 0, entry := HollySlot.empty,
    epoch := 0, chA := 0, chB := none, loops := (1000, 0), ipeak := 1000, nd := 0, kt := 0, ks := 0, challenge := [], keyedAt := 0,
    nextNine := false, exchanges := [], channels := 0, boundNonce := 0, bound := none, reqs := Requests.none, fused := none,
    detail := 0 }

/-- The announce window is open and the receiver on. -/
def windowed : State := { up with cyc := { Cyc.reset with phase := .window }, sgr := { Sgr.reset with phase := .rx } }

/-- A master key in slot 5 and token 9 in Holly slot 0; context 0 is HELD. -/
def exchanging : State :=
  { polled with
    cip := { Cip.reset with slots := [(5, ⟨0, 0, 0x1F4F4, 0x100⟩)] },
    aut := { Aut.reset with table := { HollySet.empty with slots := [(0, { HollySlot.empty with id := 9, role := 1, validUntil := 4294967295 })] } },
    sgr := { Sgr.reset with phase := .rx, lock := true, work := .cycle, calDone := 127 },
    uwb := { Uwb.reset with calDone := 127, phase := .idle },
    cyc := { Cyc.reset with phase := .exchanges, ctxs := [(0, aCtx .held)], allocated := 1 } }

/-- The response of context 0 is awaited. -/
def awaiting : State :=
  { exchanging with cyc := { exchanging.cyc with ctxs := [(0, aCtx .challenging)], onAir := some 0 } }

/-- A response start at the middle of the window. -/
def windowMid : Nat := 25000

/-- The right response of context 0. -/
def goodResponse : Bytes :=
  let b := [0#8] ++ beBytes 8 (macT 0x54 0 0 0 9)
  b ++ [BitVec.ofNat 8 (crc8 b)]

/-- Context 0 is KEYED and next for a round. -/
def ranging0 : State :=
  { exchanging with cyc := { exchanging.cyc with ctxs := [(0, aCtx .keyed)], keyed := [0] }, rad := { exchanging.rad with grantPin := true } }

/-- An exchange of 1 m straight ahead. -/
def anExchange : Exchange := ⟨1000000000, 0, 0, true, false, [0, 0, 0], 0⟩

/-- The same context with its exchanges made: its bounding run is next. -/
def ranging1 : State :=
  { ranging0 with cyc := { ranging0.cyc with ctxs := [(0, { aCtx .keyed with exchanges := [anExchange] })] } }

/-- A round of context 0 at a step. -/
def aRound (p : RoundStep) : Round :=
  { ctx := 0, step := p, nine := false, t1 := 1, t4 := 2, t5 := 3, phases := [], offset := 0 }

/-- That round in progress. -/
def inRound (p : RoundStep) : State :=
  { exchanging with
    cyc := { exchanging.cyc with ctxs := [(0, aCtx .ranging)], keyed := [0] },
    uwb := { exchanging.uwb with phase := .rx, lock := true, round := some (aRound p) } }

/-- A genuine report of that round. -/
def goodReport : Bytes :=
  let b := [0xE4, 0] ++ zeroBytes 10
  b ++ beBytes 8 (mac8 (key16 0) (0x72#8 :: b))

/-- A context ready for fusion: one exchange of 1 m straight ahead and a bounding run that agrees. -/
def fusing1Ctx : Ctx :=
  { aCtx .fusing with
    announce := zeroBytes 24 ++ [0x88, 0x88, 0x88, 0x88, 0x88, 0x88, 0],
    exchanges := [⟨1000000000, 0, 0, true, false, [0, 0, 0], 0⟩], bound := some ⟨0, 1, 100000000000000000, 0⟩ }

/-- The device with that context and wide tolerances. -/
def fusing1 : State :=
  { (((((exchanging.setForce Reg.prxTol0Lf 65535).setForce (Reg.prxLftabD 0) 500).setForce (Reg.prxLftabFhi 0) 200).setForce
      (Reg.prxLftabD 1) 2000).setForce (Reg.prxLftabFhi 1) 100) with
    cyc := { exchanging.cyc with ctxs := [(0, fusing1Ctx)] } }

/-- The parts of a plausible fusion. -/
def fusedParts (f : Fused) : List Int × Int × Int × Int × Option (Int × Option Int) × Option (Int × Option Int) :=
  match f with
  | .plausible p r a e ba bb => (p, r, a, e, ba, bb)
  | .implausible d => ([], d, 0, 0, none, none)

/-- The detail of an implausible one. -/
def implDetail : Nat :=
  match fuse { exchanging with cyc := { exchanging.cyc with ctxs := [(0, aCtx .fusing)] } } (aCtx .fusing) with
  | .implausible d => d
  | .plausible _ _ _ _ _ _ => 0

/-- `s` with one command of ring `n` outstanding and not taken up. -/
def cmd (s : State) (n op tag len p0 p1 : Nat) : State :=
  s.setRing n { RingState.reset with
    phase := .enabled, sqHead := 1, sqTail := 1, outstanding := [⟨⟨op, 0, tag, len, 4096, p0, p1⟩, false, false, false⟩] }


/-- The transponder context of the tag with identifier 9. -/
def tagCtx : CoilCtx := { CoilCtx.start 9 with cap := 1 }

/-- The coil field is on for a job, in a phase, with that tag selected. -/
def coilIn (p : CoilPhase) (j : CoilJob) : State :=
  { polled with tpx := { Tpx.reset with phase := p, job := some j, ctx := some tagCtx } }

/-- An uplink reply with its CRC-16. -/
def reply (b : Bytes) : Bytes := b ++ beBytes 2 (crc16 b)

/-- Token 9 is enrolled and its validity is over: the RTC is set and reads 0. -/
def invalid9 (s : State) : State :=
  { s with
    aut := { Aut.reset with table := { HollySet.empty with slots := [(0, { HollySlot.empty with id := 9, role := 1, validFrom := 5, validUntil := 6 })] } },
    statCells := [(Reg.pwrStatusRtcValid.key, 1)] }

/-- An AES slot 5 that HOST may use for everything but unwraps, with values left to its counter. -/
def keyed5 : State := { up with cip := { Cip.reset with slots := [(5, ⟨0, 0, 0x1F087, 0x10000⟩)], ceilings := [(5, 65536)] } }

/-- Token 9 is enrolled in slot 0 of an individual table, and HOST sees the transport slot. -/
def quickset : State :=
  { up with
    cip := { Cip.reset with slots := [(3, ⟨0, 0, 0x1F78A, 0x10000⟩)], lifeCycle := .field },
    aut := { Aut.reset with table := { HollySet.empty with individual := true, slots := [(0, { HollySlot.empty with id := 9, role := 1, validUntil := 4294967295 })] } } }

/-- The entry of token 9. -/
def token9 : Bytes := leBytes 8 9 ++ [1, 0] ++ zeroBytes 22

/-- A running head with a FABRIC key in slot 4. -/
def paired : State := { up with cip := { Cip.reset with slots := [(4, ⟨0, 0, 0x1F5C1, 0x800⟩)] } }

/-- A release-class frame of member 1090 for 1088 with sequence 0 and its MAC under a zero key. -/
def grantFrame (typ len : Nat) (body : Bytes) : Bytes :=
  let b := BitVec.ofNat 8 typ :: body.take (len - 9)
  b ++ relMac paired 4 1088 1090 0 typ b

/-- Four usable channels with nothing left to discard. -/
def metering (s : State) : State :=
  { s with
    rel := { s.rel with sessions := [(0, { SessionEntry.free with phase := .open, number := 1 })] },
    mtr := { s.mtr with chans := (List.range 4).map (fun n => (n, { Channel.reset with usable := true, discard := 0 })) } }

/-- A log that is full. -/
def fullLog : State := {up with mtr := {up.mtr with rcptNext := 1025}}

/-- A device that may roll its receipt epoch to 2: a fresh nonce 3, nothing unacknowledged, a reloaded key. -/
def rolling : State :=
  { cmd up 6 6 7 16 2 0 with
    cip := { Cip.reset with slots := [(1, ⟨0, 0, 0x1F2C1, 0x1⟩)] },
    mtr := { Mtr.reset with rollNonce := some (3, true), reloaded := true } }

/-- The authorisation of that rollover. -/
def rollMac : Bytes := authMac rolling 0x4E (beBytes 2 2 ++ beBytes 16 3)

/-- A CTRL frame of this type with its CRC-32, sent with sequence 5. -/
def ctrlFrame (src dst typ : Nat) (payload : Bytes) : Bytes :=
  let b := beBytes 2 dst ++ beBytes 2 src ++ [0, BitVec.ofNat 8 typ] ++ beBytes 2 5 ++ beBytes 2 payload.length ++ beBytes 2 1023 ++
    zeroBytes 4 ++ payload
  b ++ beBytes 4 (frameCrc b)

/-- A device at position 2 of segment 17, joined downstream of its head, with its east and west ports UP. -/
def downstream : State :=
  { up with
    fab := { Fab.reset with
      head := false, addr := some 1090, join := .joined, inuse := 5,
      ports := [(0, { Port.reset with phase := .up, sendsHello := true }), (1, { Port.reset with phase := .up, sendsHello := true })] } }

/-- The head of segment 17 with its east and west ports UP. -/
def linked : State :=
  { up with fab := { up.fab with
      ports := [(0, { Port.reset with phase := .up, sendsHello := true }), (1, { Port.reset with phase := .up, sendsHello := true })] } }

/-- A RANGE frame with no payload and this hop limit. -/
def rangeFrame (src dst hops : Nat) : Bytes :=
  let b := beBytes 2 dst ++ beBytes 2 src ++ [128, 0] ++ beBytes 2 5 ++ beBytes 2 0 ++ beBytes 2 hops ++ zeroBytes 4
  b ++ beBytes 4 (frameCrc b)

/-- Ring 7 with a posted job under tag 7 and an ABORT of it under tag 8. -/
def aborting : State :=
  up.setRing 7 { RingState.reset with
    phase := .enabled, sqHead := 2, sqTail := 2,
    outstanding := [⟨⟨5, 0, 7, 0, 4096, 5, 0⟩, false, false, false⟩, ⟨⟨255, 0, 8, 0, 4096, 7, 0⟩, false, false, false⟩] }

/-- A blob of format 2 with one entry: register 0x1400 with value 1. -/
def emptyBlob : Bytes :=
  let e := leBytes 2 0x1400 ++ zeroBytes 2 ++ leBytes 4 1
  leBytes 2 2 ++ leBytes 2 1 ++ leBytes 4 24 ++ leBytes 4 (crc32 e) ++ zeroBytes 4 ++ e

/-- A header of two chunks whose body is one zero byte. -/
def shortHeader : Bytes :=
  [1, 1, 2, 0, 1, 0, 0, 0] ++ zeroBytes 248 ++
    [110, 52, 11, 156, 255, 179, 122, 152, 156, 165, 68, 230, 187, 120, 10, 44] ++
    [120, 144, 29, 63, 179, 55, 56, 118, 133, 17, 163, 6, 23, 175, 160, 29]

/-- `quickset` with an attestation key. -/
def exporting : State :=
  { quickset with cip := { quickset.cip with slots := [(1, ⟨0, 0, 0x1F2C1, 0x1⟩), (3, ⟨0, 0, 0x1F78A, 0x10000⟩)] } }

/-- An asset record with no Holly entry and the blob `emptyBlob`; its own MAC is zero. -/
def aAsset : Bytes :=
  [8, 1] ++ zeroBytes 46 ++ leBytes 4 24 ++ zeroBytes 12 ++
    [0xd1, 0xec, 0x99, 0xca, 0x31, 0x9a, 0xa9, 0x84, 0x4c, 0x8f, 0x7f, 0x59, 0xa1, 0xcd, 0x55, 0x80] ++
    [0x56, 0x36, 0xb1, 0x63, 0x40, 0x7a, 0x1d, 0x96, 0xba, 0xce, 0x49, 0xeb, 0x78, 0x20, 0xad, 0x7b] ++ zeroBytes 16 ++ emptyBlob

/-- A PROVISIONED device with an attestation key, which may import an asset. -/
def importing : State :=
  { up with cip := { Cip.reset with lifeCycle := .provisioned, slots := [(1, ⟨0, 0, 0x1F2C1, 0x1⟩)] } }

/-- A start in which loader copy 0 and the main image, as delivered, verify. -/
def goodStart : StartResult :=
  { loader0 := true, loader1 := false, main := true, bundle := true, roles := true, restored := true, knownAnswers := true,
    engines := 32767, xspi := 32, calFailed := 0, swing38 := 0 }

/-- `n` raw bits in turn 0 and 1. -/
def altBits (n : Nat) : List Bool := (List.range n).map (fun k => k % 2 == 1)

/-- A device in FIELD with the attestation and the transport keys, an LC_NONCE, and LC_ADVANCE to RETURNED waiting. -/
def retiring : State :=
  { cmd up 8 8 7 16 3 0 with
    cip := { Cip.reset with lifeCycle := .field, slots := [(1, ⟨0, 0, 0x1F2C1, 0x1⟩), (3, ⟨0, 0, 0x1F78A, 0x10000⟩)], lcNonce := some (5, 0) } }

/-- The authorisation of that transition. -/
def retireMac : Bytes := authMac retiring 0x4C (3#8 :: beBytes 16 5)

/-- A frame of at most 256 bytes as the block that carries it. -/
def oneBlock (f : Bytes) : LinkBlock := ⟨blockTag (frameCls f) true true, f, 0⟩

/-- A multicast RANGE frame of segment 17's group 3. -/
def mcastFrame : Bytes :=
  let b := beBytes 2 1091 ++ beBytes 2 1090 ++ [144, 0] ++ beBytes 2 5 ++ beBytes 2 0 ++ beBytes 2 9 ++ zeroBytes 4
  b ++ beBytes 4 (frameCrc b)

/-- A set RTC, a nonce, an attestation key and SET_RTC to second 3 waiting. -/
def timing : State :=
  { cmd (up.setStat Reg.pwrStatusRtcValid 1) 13 2 7 16 3 0 with
    cip := { Cip.reset with slots := [(1, ⟨0, 0, 0x1F2C1, 0x1⟩)] },
    pwr := { up.pwr with rtcNonce := some (5, 0) } }

/-- The authorisation of that setting. -/
def timeMac : Bytes := authMac timing 0x43 (beBytes 4 3 ++ beBytes 16 5)

/-! ### Well-formed commands: each term breaks one check -/

theorem test_ill_formed_1 : ([
    .registerWrite 65536 0, .registerWrite 0 4294967296, .profileWrite 16, .wakePatternStart 65536, .vlfLowRetest 65536,
    .vlfCollapse 65536, .bridgeOvercurrent 8 false, .wakePatternEnd 65536 0 0 0, .wakePatternEnd 0 65536 0 0,
    .wakePatternEnd 0 0 65536 0, .wakePatternEnd 0 0 0 65536, .lfRearm 8, .lfDiagBurstEnd 8 false 0 0,
    .lfDiagBurstEnd 0 false 65536 0, .lfDiagBurstEnd 0 false 0 65536, .announceFrame 128 [],
    .announceFrame 0 (List.replicate 1045 0), .challengeTurn 16 false, .responseFrame 4294967296 0 [] false,
    .responseFrame 0 128 [] false, .responseFrame 0 0 (List.replicate 1045 0) false, .uwbRoundStart 4294967296 0 0,
    .uwbRoundStart 0 4294967296 0, .uwbRoundStart 0 0 1099511627776, .rangeGrantTimeout 16, .uwbFinalTx 1099511627776,
    .uwbReportFrame (List.replicate 1025 0), .boundingRunComplete (List.replicate 65 none),
    .boundingRunComplete [some { chips := 4294967296, sent := 0, heard := 0 }], .fusionComplete 16,
    .grantAnswerTimeout 16 0, .grantAnswerTimeout 0 17] : List Instr).all (fun i => !wellFormed i) = true := by decide +kernel

theorem test_ill_formed_2 : ([
    .releaseLatchTaken 2, .coilPollStart 65536, .coilSettleEnd 65536 false false, .walkReply 65536 [],
    .walkReply 0 (List.replicate 2049 (false, false)), .selectedReply 65536 0 [], .selectedReply 0 65536 [],
    .selectedReply 0 0 (List.replicate 1045 0), .nonceReply 65536 0 [], .nonceReply 0 65536 [],
    .nonceReply 0 0 (List.replicate 1045 0), .authReply 65536 0 [], .authReply 0 65536 [],
    .authReply 0 0 (List.replicate 1045 0), .passwordReply 65536 0 [], .passwordReply 0 65536 [],
    .passwordReply 0 0 (List.replicate 1045 0), .securedReply 65536 0 [], .securedReply 0 65536 [],
    .securedReply 0 0 (List.replicate 1045 0), .tpxReplyMissing 65536 false, .tpxReportBuffer 65536, .pollNow 65536,
    .inventory 65536, .readBlock 65536, .writeBlock 65536 [], .sgrPacketReceived 128 [],
    .sgrPacketReceived 0 (List.replicate 1045 0), .rssiMeasureEnd 128, .temperatureSample 1280, .calBlockEnd 64,
    .oscMeasureEnd 4294967296] : List Instr).all (fun i => !wellFormed i) = true := by decide +kernel

theorem test_ill_formed_3 : ([
    .txPacket 65536 [], .rxPacket 65536, .calibrate 65536, .regrecRead 65536, .regrecWrite 65536 [], .rssi 65536,
    .prxReportBuffer 65536, .testPoint 65536, .encrypt 65536 [], .decrypt 65536 [] (List.replicate 32 0),
    .decrypt 0 [] [], .mac 65536 [], .nonce 65536, .counter 65536, .entropyWindowEnd false [], .trngStartupTestEnd [],
    .loadClear 65536 [], .loadWrapped 65536 [], .derive 65536 [], .erase 65536, .narrow 65536, .attest 65536,
    .lcNonce 65536, .lcAdvance 65536 [], .enroll 65536 [], .revoke 65536, .readSlot 65536, .find 65536,
    .learnBegin 65536, .learnEntries 65536 [], .learnCommit 65536 [], .learnCancel 65536] : List Instr).all (fun i => !wellFormed i) = true := by decide +kernel

theorem test_ill_formed_4 : ([
    .unlock 65536, .digest 65536, .lockoutEnd 1024, .sessionTimeout 8,
    .auxAdcFrame [] (List.replicate 2 0) (List.replicate 2 0), .auxAdcFrame (List.replicate 4 0) [] (List.replicate 2 0),
    .auxAdcFrame (List.replicate 4 0) (List.replicate 2 0) [], .readbackTimeout 2, .holdMaxtimeExpiry 8,
    .queueWaitExpiry 9, .releaseGrant 65536 0 0 [], .releaseGrant 0 65536 0 [], .releaseGrant 0 0 65536 [],
    .releaseGrant 0 0 0 (List.replicate 1025 0), .grantAnswer 65536 0 0 [], .grantAnswer 0 65536 0 [],
    .grantAnswer 0 0 65536 [], .grantAnswer 0 0 0 (List.replicate 1025 0), .sessionEnd 65536 0 0 [],
    .sessionEnd 0 65536 0 [], .sessionEnd 0 0 65536 [], .sessionEnd 0 0 0 (List.replicate 1025 0), .eventBuffer 65536,
    .list 65536, .endSession 65536, .endGroup 65536, .setDeadline 65536, .endRemote 65536, .groupDisable 2,
    .decimatorResult [] (List.replicate 4 false), .decimatorResult [8388608] (List.replicate 4 false),
    .decimatorResult (List.replicate 4 0) []] : List Instr).all (fun i => !wellFormed i) = true := by decide +kernel

theorem test_ill_formed_5 : ([
    .channelUsableReturn 4, .receiptBuffer 65536, .ack 65536, .readReceipt 65536, .counters 65536, .rollNonce 65536,
    .rollover 65536 [], .counterLoRead 4, .linkLoss 4 0, .linkLoss 0 4294967296, .hello 4 [],
    .hello 0 (List.replicate 1045 0), .helloTimeout 4, .idleSequenceRun 4, .helloSend 4, .joinReq 4 [],
    .joinReq 0 (List.replicate 1045 0), .joinAnswer 4 [], .joinAnswer 0 (List.replicate 1045 0), .leave 4 [],
    .leave 0 (List.replicate 1045 0), .positionLeaveTimeout 64, .timeSync 4 0 [], .timeSync 0 4294967296 [],
    .timeSync 0 0 (List.replicate 1045 0), .frameReceived 4 { tag := 0, data := [], violations := 0 } [],
    .frameReceived 0 { tag := 0, data := [], violations := 65536 } [],
    .frameReceived 0 { tag := 0, data := [], violations := 0 } [{ tag := 0, data := [], violations := 65536 }],
    .frameSent 6 0, .frameSent 0 4, .spillReadback 6 0 false, .spillReadback 0 4 false] : List Instr).all (fun i => !wellFormed i) = true := by decide +kernel

theorem test_ill_formed_6 : ([
    .portEvent 4 [], .portEvent 0 (List.replicate 1045 0), .prepare 4 [], .prepare 0 (List.replicate 1045 0),
    .ready 4 [], .ready 0 (List.replicate 1045 0), .flip 4 [], .flip 0 (List.replicate 1045 0), .retired 4 [],
    .retired 0 (List.replicate 1045 0), .cancel 4 [], .cancel 0 (List.replicate 1045 0), .holdTimeExpiry 4,
    .asleepHoldExpiry 4, .wakeSequence 4, .segAdvert 4 [], .segAdvert 0 (List.replicate 1045 0), .send 65536 [],
    .recvBuffer 65536, .sqTail 64 0 0 false, .sqTail 0 16 0 false, .sqTail 0 0 65536 false, .cqHead 64 0 0 false,
    .cqHead 0 16 0 false, .cqHead 0 0 65536 false, .descriptorFetch 16 (List.replicate 32 0) none,
    .descriptorFetch 0 [] none, .nop 16 0, .nop 0 65536, .abort 16 0, .abort 0 65536, .pcieDmaError 16 0 0] : List Instr).all (fun i => !wellFormed i) = true := by decide +kernel

theorem test_ill_formed_7 : ([
    .pcieDmaError 0 3 0, .pcieDmaError 0 0 65536, .interruptCoalesceExpiry 16, .ringEnable 16, .ringDisable 16,
    .ringDrained 16, .bar4Access 64 0 false 0, .bar4Access 0 65536 false 0, .bar4Access 0 0 false 4294967296,
    .doorbell 65536 0 0 0 0, .doorbell 0 65536 0 0 0, .doorbell 0 0 16 0 0, .doorbell 0 0 0 2 0, .doorbell 0 0 0 0 65536,
    .interrupt 64 0 0 0 0, .interrupt 0 65536 0 0 0, .interrupt 0 0 65536 0 0, .interrupt 0 0 0 16 0,
    .interrupt 0 0 0 0 64, .regWrite 65536 0 0 0, .regWrite 0 65536 0 0, .regWrite 0 0 65536 0,
    .regWrite 0 0 0 4294967296, .regRead 65536 0 0 0, .regRead 0 65536 0 0, .regRead 0 0 65536 0, .regRead 0 0 0 65536,
    .regData 64 0 0 0 0, .regData 0 65536 0 0 0, .regData 0 0 65536 0 0, .regData 0 0 0 65536 0,
    .regData 0 0 0 0 4294967296] : List Instr).all (fun i => !wellFormed i) = true := by decide +kernel

theorem test_ill_formed_8 : ([
    .proxyAck 64 0 0, .proxyAck 0 2 0, .proxyAck 0 0 65536, .proxyRtoExpiry 64 0, .proxyRtoExpiry 0 2,
    .regwaitExpiry 65536, .configApply 65536 [], .configExport 65536, .auditRead 65536, .post 65536 [],
    .mailboxRecvBuffer 65536, .appMessage 65536 [], .sectorEraseDone 6 false false, .vholdReady 4294967296, .read 65536,
    .write 65536 [], .delete 65536, .hostRecordList 65536, .wear 65536, .begin_ 65536 [] false, .chunk 65536 [] 0,
    .chunk 0 [] 32, .activate 65536 [] false, .restart 65536, .exportAsset 65536, .importAsset 65536 [] false,
    .setAppkey 65536 [], .wakeSource 5, .supervisionEventBuffer 65536, .setRtc 65536 [], .rtcNonce 65536, .selftest 65536] : List Instr).all (fun i => !wellFormed i) = true := by decide +kernel

theorem test_ill_formed_9 : ([
    .prodTx 65536, .schedule 65536, .monitors 65536, .faults 65536, .vbkLoss 65536, .clockMonitorFlag 6,
    .powerOnReset 65536 false (List.replicate 6 0), .powerOnReset 0 false [], .brownOut 65536,
    .startSequence { goodStart with engines := 32768 }, .startSequence { goodStart with xspi := 128 },
    .startSequence { goodStart with calFailed := 64 }, .startSequence { goodStart with swing38 := 65536 },
    .startSequence { goodStart with headers := [(6, 0, zeroBytes 16)] },
    .startSequence { goodStart with headers := [(0, 256, zeroBytes 16)] },
    .startSequence { goodStart with headers := [(0, 0, [])] }, .startSequence { goodStart with badHeads := [65536] },
    .startSequence { goodStart with badData := [65536] }, .startSequence { goodStart with temp := 2001 },
    .engineCheckpoint 14, .eccError 5 0 false, .eccError 0 65536 false, .engineFault 14, .pcieLinkUp false 1024,
    .tapInstruction 256] : List Instr).all (fun i => !wellFormed i) = true := by decide +kernel

theorem test_ill_formed_data (d : Bytes) (h : 131072 < d.length) :
    ([.readReq 0 0 0 0 0 0 0 false d, .readData 0 0 0 0 false d, .send 0 d, .write 0 d, .chunk 0 d 1, .post 0 d] : List Instr).all
      (fun i => !wellFormed i) = true := by
  simp [wellFormed, Nat.not_le.mpr h]

theorem test_well_formed :
    ([.registerWrite 65535 4294967295, .announceFrame (-128) (zeroBytes 31), .helloTimeout 3, .badAccessRead true] : List Instr).all
      wellFormed = true := by decide +kernel

/-! ### Figures that the spec works out -/

/-- 00_scope.md: 0x1234_5678 in host memory and on the fabric. -/
theorem test_byte_orders : leBytes 4 0x12345678 = [0x78, 0x56, 0x34, 0x12] ∧ beBytes 4 0x12345678 = [0x12, 0x34, 0x56, 0x78] := by
  decide

/-- 05 R115: the worked interval across the wrap of the 40-bit counter. -/
theorem test_worked_interval : stampDiff 0x0001123456 0xFFFF800000 = 26358870 := by decide

/-- 11 R293: the header of the worked grant. -/
theorem test_worked_header :
    let h : Bytes := [0x00, 0x01, 0x00, 0x04, 0x40, 0x01, 0x2F, 0x41, 0x00, 0x28, 0x03, 0xFF, 0x5E, 0x3A, 0x7D, 0x2E]
    frameDst h = 1 ∧ frameSrc h = 4 ∧ frameCls h = 1 ∧ frameMcast h = false ∧ frameType h = 1 ∧ frameSeq h = 0x2F41 ∧
      frameLen h = 40 ∧ frameHops h = 1023 := by decide +kernel

/-- 11 R295: after 0x2F40, 0x2F41 is newer; after 0x2F41 the replay, 0xAF41 and, of the two forgeries, the nearest are not. -/
theorem test_worked_sequences :
    let s := seqAccept State.reset 4 1 0x2F40
    seqNewer s 4 1 0x2F41 = true ∧ seqNewer (seqAccept s 4 1 0x2F41) 4 1 0x2F41 = false ∧ seqNewer s 4 1 0xAF41 = false ∧
      seqNewer s 4 1 0xAF40 = false := by decide +kernel

/-- 07 R165 names FIPS 197: its AES-128 example. -/
theorem test_aes128 :
    aesEncrypt ((List.range 16).map (BitVec.ofNat 8)) ((List.range 16).map (fun i => BitVec.ofNat 8 (17 * i))) =
      [0x69, 0xc4, 0xe0, 0xd8, 0x6a, 0x7b, 0x04, 0x30, 0xd8, 0xcd, 0xb7, 0x80, 0x70, 0xb4, 0xc5, 0x5a] := by decide +kernel

/-- 15 R400: what an empty queue does to the RTC at the thousandth millisecond (log 2). -/
theorem test_rtc_second :
    (tickRtc 0 0 { Pwr.reset with rtcPhase := rtcSecond - rtcTick, rtc := 4294967295 }).rtc = 0 := by decide

/-- A command in front of the queue runs; the rest waits. -/
theorem test_front_runs :
    (match step { linked with pending := [.helloTimeout 0, .helloTimeout 1] } with
      | .next t => ((t.port 0).phase, (t.port 1).phase, t.pending.length)
      | _ => (.disabled, .disabled, 0)) = (.training, .up, 1) := by decide +kernel

/-! ### Hypotheses that some state and operands meet, clause by clause -/

theorem witness_WakePatternLifeCycle :
    ((({up with boundaryDue := true} : State).running = true) ∧ (({up with boundaryDue := true} : State).boundaryDue
      = true) ∧ (({up with boundaryDue := true} : State).cyc.phase = .idle) ∧ (({up with boundaryDue := true} :
      State).cyc.ctxs = []) ∧ (pollsRun ({up with boundaryDue := true} : State) = false)) ∧
    ((rolesThere (polled) (.wakePatternStart (8000 : Nat)) = true) ∧ ((polled).running = true) ∧ ((polled).pwr.deep =
      none) ∧ (patternFree (polled) = true) ∧ (intervalPassed (polled) = true) ∧ ((polled).lf.refusedAt = none) ∧
      ((pollBoundary (setVlf (polled) (8000 : Nat))).on Reg.lfPollEn = true) ∧ ((pollBoundary (setVlf (polled) (8000 :
      Nat))).rad.regRec ≠ none) ∧ (lfMayEmit (pollBoundary (setVlf (polled) (8000 : Nat))) = true) ∧ (chooseEntry
      (pollBoundary (setVlf (polled) (8000 : Nat))) = some ((0 : Nat), (0 : Nat), (none : Option Nat))) ∧ (7500 ≤
      vlfNow (pollBoundary (setVlf (polled) (8000 : Nat)))) ∧ (lfDutyOk (pollBoundary (setVlf (polled) (8000 : Nat)))
      ([(0 : Nat)] ++ (none : Option Nat).toList) patternLen = true)) ∧
    ((rolesThere ({polled with lf := {polled.lf with refusedAt := some 0}} : State) (.dutyTick) = true) ∧ (({polled with lf := {polled.lf with refusedAt := some 0}}
      : State).lf.refusedAt.isSome = true) ∧ (patternFree ({polled with lf := {polled.lf with refusedAt := some 0}} :
      State) = true)) ∧
    ((rolesThere (polled) (.wakePatternStart (7000 : Nat)) = true) ∧ ((polled).running = true) ∧ ((polled).pwr.deep =
      none) ∧ (patternFree (polled) = true) ∧ (intervalPassed (polled) = true) ∧ ((polled).lf.refusedAt = none) ∧
      ((pollBoundary (setVlf (polled) (7000 : Nat))).on Reg.lfPollEn = true) ∧ ((pollBoundary (setVlf (polled) (7000 :
      Nat))).rad.regRec ≠ none) ∧ (lfMayEmit (pollBoundary (setVlf (polled) (7000 : Nat))) = true) ∧ (chooseEntry
      (pollBoundary (setVlf (polled) (7000 : Nat))) = some ((0 : Nat), (0 : Nat), (none : Option Nat))) ∧ (vlfNow
      (pollBoundary (setVlf (polled) (7000 : Nat))) < 7500)) ∧
    ((rolesThere ({polled with lf := {polled.lf with vlfHeld := true}} : State) (.vlfLowRetest (8000 : Nat)) = true)
      ∧ (({polled with lf := {polled.lf with vlfHeld := true}} : State).lf.vlfHeld = true) ∧ (patternFree ({polled with lf := {polled.lf with vlfHeld := true}}
      : State) = true)) ∧
    ((rolesThere ({up with cyc := {up.cyc with phase := .pattern}} : State) (.vlfCollapse (5000 : Nat)) = true) ∧
      (({up with cyc := {up.cyc with phase := .pattern}} : State).cyc.phase = .pattern) ∧ ((5000 : Nat) < 6000)) ∧
    ((rolesThere ({up with cyc := {up.cyc with phase := .pattern}, lf := {up.lf with pattern := some aPattern}} :
      State) (.bridgeOvercurrent (0 : Nat) (true : Bool)) = true) ∧ (({up with cyc := {up.cyc with phase := .pattern}, lf := {up.lf with pattern := some aPattern}}
      : State).cyc.phase = .pattern) ∧ (({up with cyc := {up.cyc with phase := .pattern}, lf := {up.lf with pattern := some aPattern}}
      : State).lf.pattern = some (aPattern : Pattern)) ∧ ((aPattern : Pattern).chA = (0 : Nat)) ∧ ((aPattern :
      Pattern).chB = some (1 : Nat)) ∧ ((0 : Nat) ≠ (1 : Nat)) ∧ ((aPattern : Pattern).cut = 0)) ∧
    ((rolesThere ({up with cyc := {up.cyc with phase := .pattern}, lf := {up.lf with pattern := some aPattern}} :
      State) (.bridgeOvercurrent (1 : Nat) (false : Bool)) = true) ∧ (({up with cyc := {up.cyc with phase := .pattern}, lf := {up.lf with pattern := some aPattern}}
      : State).cyc.phase = .pattern) ∧ (({up with cyc := {up.cyc with phase := .pattern}, lf := {up.lf with pattern := some aPattern}}
      : State).lf.pattern = some (aPattern : Pattern)) ∧ ((aPattern : Pattern).chA = (0 : Nat)) ∧ ((aPattern :
      Pattern).chB = some (1 : Nat)) ∧ ((1 : Nat) ≠ (0 : Nat)) ∧ ((aPattern : Pattern).cut = 0)) ∧
    ((rolesThere ({up with cyc := {up.cyc with phase := .pattern}, lf := {up.lf with pattern := some {aPattern with cut := 1}}}
      : State) (.bridgeOvercurrent (1 : Nat) (true : Bool)) = true) ∧ (({up with cyc := {up.cyc with phase := .pattern}, lf := {up.lf with pattern := some {aPattern with cut := 1}}}
      : State).cyc.phase = .pattern) ∧ (({up with cyc := {up.cyc with phase := .pattern}, lf := {up.lf with pattern := some {aPattern with cut := 1}}}
      : State).lf.pattern = some ({aPattern with cut := 1} : Pattern)) ∧ ((1 : Nat) ≠ (0 : Nat)) ∧ ((({aPattern with cut := 1}
      : Pattern).cut = 1 ∧ ({aPattern with cut := 1} : Pattern).chA = (0 : Nat) ∧ ({aPattern with cut := 1} :
      Pattern).chB = some (1 : Nat)) ∨ (({aPattern with cut := 1} : Pattern).cut = 2 ∧ ({aPattern with cut := 1} :
      Pattern).chA = (1 : Nat) ∧ ({aPattern with cut := 1} : Pattern).chB = some (0 : Nat)))) ∧
    ((rolesThere ({up with cyc := {up.cyc with phase := .pattern}, lf := {up.lf with pattern := some {aPattern with chB := none}}}
      : State) (.bridgeOvercurrent (0 : Nat) (false : Bool)) = true) ∧ (({up with cyc := {up.cyc with phase := .pattern}, lf := {up.lf with pattern := some {aPattern with chB := none}}}
      : State).cyc.phase = .pattern) ∧ (({up with cyc := {up.cyc with phase := .pattern}, lf := {up.lf with pattern := some {aPattern with chB := none}}}
      : State).lf.pattern = some ({aPattern with chB := none} : Pattern)) ∧ (({aPattern with chB := none} :
      Pattern).chA = (0 : Nat)) ∧ (({aPattern with chB := none} : Pattern).chB = none) ∧ (({aPattern with chB := none}
      : Pattern).cut = 0)) ∧
    ((rolesThere ({up with cyc := {up.cyc with phase := .pattern}, lf := {up.lf with pattern := some aPattern}} :
      State) (.wakePatternEnd (12000 : Nat) (12000 : Nat) (1000 : Nat) (1000 : Nat)) = true) ∧ (({up with cyc := {up.cyc with phase := .pattern}, lf := {up.lf with pattern := some aPattern}}
      : State).cyc.phase = .pattern) ∧ (({up with cyc := {up.cyc with phase := .pattern}, lf := {up.lf with pattern := some aPattern}}
      : State).lf.pattern = some (aPattern : Pattern))) := by
  refine ⟨?_, ?_, ?_, ?_, ?_, ?_, ?_, ?_, ?_, ?_, ?_⟩ <;> decide +kernel

theorem witness_AnnounceWindow :
    ((rolesThere ({up with cyc := {up.cyc with phase := .gap}} : State) (.announceWindowOpen) = true) ∧ (({up with cyc := {up.cyc with phase := .gap}}
      : State).cyc.phase = .gap)) ∧
    ((rolesThere ({up with cyc := {up.cyc with phase := .window}} : State) (.slotEmptyClose) = true) ∧ (({up with cyc := {up.cyc with phase := .window}}
      : State).cyc.phase = .window) ∧ (({up with cyc := {up.cyc with phase := .window}} : State).cyc.slotBusy = false)
      ∧ (({up with cyc := {up.cyc with phase := .window}} : State).cyc.slot ≠ 15)) ∧
    ((rolesThere ({up with cyc := {up.cyc with phase := .window, slot := 15, slotBusy := true}} : State)
      (.slotGuardEnd) = true) ∧ (({up with cyc := {up.cyc with phase := .window, slot := 15, slotBusy := true}} :
      State).cyc.phase = .window) ∧ (({up with cyc := {up.cyc with phase := .window, slot := 15, slotBusy := true}} :
      State).cyc.slotBusy = true) ∧ (({up with cyc := {up.cyc with phase := .window, slot := 15, slotBusy := true}} :
      State).cyc.slot = 15)) ∧
    ((rolesThere ({up with cyc := {up.cyc with phase := .window, slot := 3, slotBusy := true}} : State)
      (.slotGuardEnd) = true) ∧ (({up with cyc := {up.cyc with phase := .window, slot := 3, slotBusy := true}} :
      State).cyc.phase = .window) ∧ (({up with cyc := {up.cyc with phase := .window, slot := 3, slotBusy := true}} :
      State).cyc.slotBusy = true) ∧ (({up with cyc := {up.cyc with phase := .window, slot := 3, slotBusy := true}} :
      State).cyc.slot ≠ 15)) ∧
    ((rolesThere (windowed) (.announceFrame (-60 : Int) ((zeroBytes 30 ++ [BitVec.ofNat 8 (crc8 (zeroBytes 30))]) :
      Bytes)) = true) ∧ ((windowed).cyc.phase = .window) ∧ ((windowed).cyc.slotBusy = false) ∧ ((windowed).sgr.phase =
      .rx) ∧ (((zeroBytes 30 ++ [BitVec.ofNat 8 (crc8 (zeroBytes 30))]) : Bytes).length = 31) ∧ (byteAt ((zeroBytes 30
      ++ [BitVec.ofNat 8 (crc8 (zeroBytes 30))]) : Bytes) 30 = crc8 (((zeroBytes 30 ++ [BitVec.ofNat 8 (crc8
      (zeroBytes 30))]) : Bytes).take 30)) ∧ ((windowed).cyc.ctxs.length < (windowed).eff Reg.autCtxCount) ∧ (checkR33
      (noteRssi (windowed) (-60 : Int)) (beAt ((zeroBytes 30 ++ [BitVec.ofNat 8 (crc8 (zeroBytes 30))]) : Bytes) 0 8)
      = none)) ∧
    ((rolesThere (windowed) (.announceFrame (-60 : Int) ((zeroBytes 30 ++ [BitVec.ofNat 8 (crc8 (zeroBytes 30) + 1)])
      : Bytes)) = true) ∧ ((windowed).cyc.phase = .window) ∧ ((windowed).cyc.slotBusy = false) ∧ ((windowed).sgr.phase
      = .rx) ∧ (byteAt ((zeroBytes 30 ++ [BitVec.ofNat 8 (crc8 (zeroBytes 30) + 1)]) : Bytes) 30 ≠ crc8 (((zeroBytes
      30 ++ [BitVec.ofNat 8 (crc8 (zeroBytes 30) + 1)]) : Bytes).take 30))) := by
  refine ⟨?_, ?_, ?_, ?_, ?_, ?_⟩ <;> decide +kernel

theorem witness_ChallengeAndResponse :
    ((rolesThere (exchanging) (.challengeTurn (0 : Nat) (true : Bool)) = true) ∧ ((exchanging).cyc.phase =
      .exchanges) ∧ ((exchanging).cyc.onAir = none) ∧ (nextHeld (exchanging) = some (0 : Nat)) ∧ ((exchanging).ctx (0
      : Nat) = some (aCtx .held : Ctx)) ∧ (checkR33 (exchanging) (aCtx .held : Ctx).id = none) ∧ (masterSlot
      (exchanging) = some (5 : Nat)) ∧ (sgrRefusal (exchanging) (airtime (exchanging) challengeBits) = none) ∧
      (sgrNeverCalibrated (exchanging) = false)) ∧
    ((rolesThere ({exchanging with aut := {exchanging.aut with table := {exchanging.aut.table with slots := [(0, { HollySlot.empty with id := 9, role := 1, validFrom := 5, validUntil := 6 })]}}, statCells := [(Reg.pwrStatusRtcValid.key, 1)]}
      : State) (.challengeTurn (0 : Nat) (true : Bool)) = true) ∧ (({exchanging with aut := {exchanging.aut with table := {exchanging.aut.table with slots := [(0, { HollySlot.empty with id := 9, role := 1, validFrom := 5, validUntil := 6 })]}}, statCells := [(Reg.pwrStatusRtcValid.key, 1)]}
      : State).cyc.phase = .exchanges) ∧ (({exchanging with aut := {exchanging.aut with table := {exchanging.aut.table with slots := [(0, { HollySlot.empty with id := 9, role := 1, validFrom := 5, validUntil := 6 })]}}, statCells := [(Reg.pwrStatusRtcValid.key, 1)]}
      : State).cyc.onAir = none) ∧ (nextHeld ({exchanging with aut := {exchanging.aut with table := {exchanging.aut.table with slots := [(0, { HollySlot.empty with id := 9, role := 1, validFrom := 5, validUntil := 6 })]}}, statCells := [(Reg.pwrStatusRtcValid.key, 1)]}
      : State) = some (0 : Nat)) ∧ (({exchanging with aut := {exchanging.aut with table := {exchanging.aut.table with slots := [(0, { HollySlot.empty with id := 9, role := 1, validFrom := 5, validUntil := 6 })]}}, statCells := [(Reg.pwrStatusRtcValid.key, 1)]}
      : State).ctx (0 : Nat) = some (aCtx .held : Ctx)) ∧ (checkR33 ({exchanging with aut := {exchanging.aut with table := {exchanging.aut.table with slots := [(0, { HollySlot.empty with id := 9, role := 1, validFrom := 5, validUntil := 6 })]}}, statCells := [(Reg.pwrStatusRtcValid.key, 1)]}
      : State) (aCtx .held : Ctx).id = some (8 : Nat))) ∧
    ((rolesThere (awaiting) (.responseFrame (100 : Nat) (-50 : Int) ([] : Bytes) true) = true) ∧ (responseAwaited
      (awaiting) = some ((0 : Nat), (aCtx .challenging : Ctx))) ∧ ((awaiting).sgr.phase = .rx) ∧ ((100 : Nat) ≤
      responseLimit) ∧ (responseBody ([] : Bytes) = none)) ∧
    ((rolesThere (awaiting) (.responseFrame (0 : Nat) (-50 : Int) ((zeroBytes 9 ++ [BitVec.ofNat 8 (crc8 (zeroBytes
      9))]) : Bytes) true) = true) ∧ (responseAwaited (awaiting) = some ((0 : Nat), (aCtx .challenging : Ctx))) ∧
      ((awaiting).sgr.phase = .rx) ∧ ((0 : Nat) ≤ responseLimit) ∧ (responseBody ((zeroBytes 9 ++ [BitVec.ofNat 8
      (crc8 (zeroBytes 9))]) : Bytes) = some ((0 : Nat), (0 : Nat))) ∧ ((0 : Nat) % 16 = (aCtx .challenging :
      Ctx).slot) ∧ (inWindow (noteRssi (awaiting) (-50 : Int)) (0 : Nat) = false)) ∧
    ((rolesThere (awaiting) (.responseFrame (windowMid : Nat) (-50 : Int) ((zeroBytes 9 ++ [BitVec.ofNat 8 (crc8
      (zeroBytes 9))]) : Bytes) true) = true) ∧ (responseAwaited (awaiting) = some ((0 : Nat), (aCtx .challenging :
      Ctx))) ∧ ((awaiting).sgr.phase = .rx) ∧ ((windowMid : Nat) ≤ responseLimit) ∧ (responseBody ((zeroBytes 9 ++
      [BitVec.ofNat 8 (crc8 (zeroBytes 9))]) : Bytes) = some ((0 : Nat), (0 : Nat))) ∧ ((0 : Nat) % 16 = (aCtx
      .challenging : Ctx).slot) ∧ (inWindow (noteRssi (awaiting) (-50 : Int)) (windowMid : Nat) = true) ∧ ((0 : Nat) ≠
      macT 0x54 (aCtx .challenging : Ctx).kt (aCtx .challenging : Ctx).nd (aCtx .challenging : Ctx).nt (aCtx
      .challenging : Ctx).id)) ∧
    ((rolesThere (awaiting) (.responseFrame (windowMid : Nat) (-50 : Int) (goodResponse : Bytes) true) = true) ∧
      (responseAwaited (awaiting) = some ((0 : Nat), (aCtx .challenging : Ctx))) ∧ ((awaiting).sgr.phase = .rx) ∧
      ((windowMid : Nat) ≤ responseLimit) ∧ (responseBody (goodResponse : Bytes) = some ((0 : Nat), (macT 0x54 0 0 0 9
      : Nat))) ∧ ((0 : Nat) % 16 = (aCtx .challenging : Ctx).slot) ∧ (inWindow (noteRssi (awaiting) (-50 : Int))
      (windowMid : Nat) = true) ∧ ((macT 0x54 0 0 0 9 : Nat) = macT 0x54 (aCtx .challenging : Ctx).kt (aCtx
      .challenging : Ctx).nd (aCtx .challenging : Ctx).nt (aCtx .challenging : Ctx).id) ∧ (findHolly (noteRssi
      (awaiting) (-50 : Int)) (aCtx .challenging : Ctx).id = some (0 : Nat)) ∧ ((noteRssi (awaiting) (-50 :
      Int)).cyc.keyedIds.contains (aCtx .challenging : Ctx).id = false)) ∧
    ((rolesThere (awaiting) (.responseFrame (0 : Nat) (-50 : Int) ([] : Bytes) false) = true) ∧ (responseAwaited
      (awaiting) = some ((0 : Nat), (aCtx .challenging : Ctx))) ∧ ((awaiting).sgr.phase = .rx) ∧ ((0 : Nat) ≤
      responseLimit)) ∧
    ((rolesThere (awaiting) (.responseFrame (200000 : Nat) (-50 : Int) ([] : Bytes) (true : Bool)) = true) ∧
      (responseAwaited (awaiting) = some ((0 : Nat), (aCtx .challenging : Ctx))) ∧ ((awaiting).sgr.phase = .rx) ∧
      (responseLimit < (200000 : Nat))) ∧
    ((rolesThere (awaiting) (.responseTimeout) = true) ∧ (responseAwaited (awaiting) = some ((0 : Nat), (aCtx
      .challenging : Ctx)))) := by
  refine ⟨?_, ?_, ?_, ?_, ?_, ?_, ?_, ?_, ?_⟩ <;> decide +kernel

theorem witness_RangingRounds :
    ((rolesThere (ranging0) (.uwbRoundStart (0 : Nat) (0 : Nat) (0 : Nat)) = true) ∧ (roundNext (ranging0) = some ((0
      : Nat), (aCtx .keyed : Ctx))) ∧ (uwbFree (ranging0) = true) ∧ (govLevel (ranging0) < 3) ∧
      ((ranging0).rad.regRec.isSome = true) ∧ ((aCtx .keyed : Ctx).exchanges.length < (ranging0).eff Reg.uwbRangeAvg)
      ∧ (grantCovers (ranging0) (exchangeTime (ranging0)) (0 : Nat) (0 : Nat) = true) ∧ (uwbNeverCalibrated (ranging0)
      = false) ∧ (uwbDutyOk (ranging0) (exchangeTime (ranging0)) = true)) ∧
    ((rolesThere (ranging1) (.uwbRoundStart (0 : Nat) (0 : Nat) (0 : Nat)) = true) ∧ (roundNext (ranging1) = some ((0
      : Nat), ({ aCtx .keyed with exchanges := [anExchange] } : Ctx))) ∧ (uwbFree (ranging1) = true) ∧ (govLevel
      (ranging1) < 3) ∧ ((ranging1).rad.regRec.isSome = true) ∧ ((ranging1).eff Reg.uwbRangeAvg ≤ ({ aCtx .keyed with exchanges := [anExchange] }
      : Ctx).exchanges.length) ∧ (grantCovers (ranging1) (boundingTime (ranging1)) (0 : Nat) (0 : Nat) = true) ∧
      (uwbNeverCalibrated (ranging1) = false) ∧ (uwbDutyOk (ranging1) (boundingTime (ranging1)) = true)) ∧
    ((rolesThere (ranging0) (.rangeGrantTimeout (0 : Nat)) = true) ∧ (roundNext (ranging0) = some ((0 : Nat), (aCtx
      .keyed : Ctx)))) ∧
    ((rolesThere (inRound .response) (.uwbResponseFrame (5 : Nat) ([] : List (Option Nat)) (4000 : Int)) = true) ∧
      (roundAt (inRound .response) .response = some (aRound .response : Round)) ∧ ((4000 : Int).natAbs ≤ 4000)) ∧
    ((rolesThere (inRound .response) (.uwbResponseFrame (5 : Nat) ([] : List (Option Nat)) (-4001 : Int)) = true) ∧
      (roundAt (inRound .response) .response = some (aRound .response : Round)) ∧ (4000 < (-4001 : Int).natAbs)) ∧
    ((rolesThere (inRound .final) (.uwbFinalTx (77 : Nat)) = true) ∧ (roundAt (inRound .final) .final = some (aRound
      .final : Round))) ∧
    ((rolesThere (inRound .report) (.uwbReportFrame (goodReport : Bytes)) = true) ∧ (roundAt (inRound .report)
      .report = some (aRound .report : Round)) ∧ ((inRound .report).ctx (aRound .report : Round).ctx = some (aCtx
      .ranging : Ctx)) ∧ (reportOk (aCtx .ranging : Ctx) (aRound .report : Round) (goodReport : Bytes) = true)) ∧
    ((rolesThere (inRound .report) (.uwbReportFrame ([] : Bytes)) = true) ∧ (roundAt (inRound .report) .report = some
      (aRound .report : Round)) ∧ ((inRound .report).ctx (aRound .report : Round).ctx = some (aCtx .ranging : Ctx)) ∧
      (reportOk (aCtx .ranging : Ctx) (aRound .report : Round) ([] : Bytes) = false)) ∧
    ((rolesThere (inRound .report) (.uwbRxWindowEnd) = true) ∧ (roundAt (inRound .report) .report = some (aRound
      .report : Round))) ∧
    ((rolesThere (inRound .report) (.uwbLockLoss) = true) ∧ ((inRound .report).uwb.lock = true) ∧ ((inRound
      .report).uwb.phase = .rx ∨ (inRound .report).uwb.phase = .tx)) ∧
    ((rolesThere ({exchanging with uwb := {exchanging.uwb with phase := .idle, lock := true}} : State) (.uwbLockLoss)
      = true) ∧ (({exchanging with uwb := {exchanging.uwb with phase := .idle, lock := true}} : State).uwb.lock =
      true) ∧ (({exchanging with uwb := {exchanging.uwb with phase := .idle, lock := true}} : State).uwb.phase =
      .idle)) ∧
    ((rolesThere ({inRound .final with uwb := {(inRound .final).uwb with phase := .cal}} : State) (.uwbTxWaitExpiry)
      = true) ∧ (({inRound .final with uwb := {(inRound .final).uwb with phase := .cal}} : State).uwb.phase = .cal) ∧
      (roundAt ({inRound .final with uwb := {(inRound .final).uwb with phase := .cal}} : State) .final = some (aRound
      .final : Round))) ∧
    ((rolesThere (inRound .bounding) (.boundingRunComplete ([] : List (Option BoundRound))) = true) ∧ (roundAt
      (inRound .bounding) .bounding = some (aRound .bounding : Round)) ∧ ((inRound .bounding).ctx (aRound .bounding :
      Round).ctx = some (aCtx .ranging : Ctx))) := by
  refine ⟨?_, ?_, ?_, ?_, ?_, ?_, ?_, ?_, ?_, ?_, ?_, ?_, ?_⟩ <;> decide +kernel

theorem witness_FusionAndZones :
    ((rolesThere ({exchanging with cyc := {exchanging.cyc with ctxs := [(0, aCtx .fusing)]}} : State)
      (.fusionComplete (0 : Nat)) = true) ∧ (({exchanging with cyc := {exchanging.cyc with ctxs := [(0, aCtx .fusing)]}}
      : State).ctx (0 : Nat) = some (aCtx .fusing : Ctx)) ∧ ((aCtx .fusing : Ctx).phase = .fusing) ∧ (fuse
      ({exchanging with cyc := {exchanging.cyc with ctxs := [(0, aCtx .fusing)]}} : State) (aCtx .fusing : Ctx) =
      .implausible (implDetail : Nat))) ∧
    ((rolesThere (fusing1) (.fusionComplete (0 : Nat)) = true) ∧ ((fusing1).ctx (0 : Nat) = some (fusing1Ctx : Ctx))
      ∧ ((fusing1Ctx : Ctx).phase = .fusing) ∧ (fuse (fusing1) (fusing1Ctx : Ctx) = .plausible ((fusedParts (fuse
      fusing1 fusing1Ctx)).1 : List Int) ((fusedParts (fuse fusing1 fusing1Ctx)).2.1 : Int) ((fusedParts (fuse fusing1
      fusing1Ctx)).2.2.1 : Int) ((fusedParts (fuse fusing1 fusing1Ctx)).2.2.2.1 : Int) ((fusedParts (fuse fusing1
      fusing1Ctx)).2.2.2.2.1 : Option (Int × Option Int)) ((fusedParts (fuse fusing1 fusing1Ctx)).2.2.2.2.2 : Option
      (Int × Option Int)))) ∧
    ((rolesThere (cmd up 3 1 7 64 0 0) (.prxReportBuffer (7 : Nat)) = true) ∧ (Waiting (cmd up 3 1 7 64 0 0) 3 0x01
      (7 : Nat) (⟨1, 0, 7, 64, 4096, 0, 0⟩ : Desc)) ∧ (64 ≤ (⟨1, 0, 7, 64, 4096, 0, 0⟩ : Desc).len)) ∧
    ((rolesThere (cmd up 3 2 7 0 0 0) (.testPoint (7 : Nat)) = true) ∧ (Waiting (cmd up 3 2 7 0 0 0) 3 0x02 (7 : Nat)
      (⟨2, 0, 7, 0, 4096, 0, 0⟩ : Desc)) ∧ ((⟨2, 0, 7, 0, 4096, 0, 0⟩ : Desc).p0 < 2 ^ 48)) := by
  refine ⟨?_, ?_, ?_, ?_⟩ <;> decide +kernel

theorem witness_LfDiagnostics :
    ((rolesThere (up) (.lfStartWaitEnd) = true) ∧ ((up).running = true) ∧ ((up).lf.allowed = false)) ∧
    ((rolesThere (polled) (.lfDiagPeriod) = true) ∧ ((polled).running = true) ∧ ((polled).lf.allowed = true)) ∧
    (((up).running = true)) ∧
    (((up).running = true) ∧ ((7 : Nat) < 8)) ∧
    ((rolesThere ({up with lf := {up.lf with burst := some 3}} : State) (.lfDiagBurstEnd (3 : Nat) true (0 : Nat) (0
      : Nat)) = true) ∧ (({up with lf := {up.lf with burst := some 3}} : State).lf.burst = some (3 : Nat))) ∧
    ((rolesThere ({up with lf := {up.lf with burst := some 3}} : State) (.lfDiagBurstEnd (3 : Nat) false (19 : Nat)
      (0 : Nat)) = true) ∧ (({up with lf := {up.lf with burst := some 3}} : State).lf.burst = some (3 : Nat)) ∧ ((19 :
      Nat) < 20)) ∧
    ((rolesThere ({up with lf := {up.lf with burst := some 3}} : State) (.lfDiagBurstEnd (3 : Nat) false (20 : Nat)
      (12600 : Nat)) = true) ∧ (({up with lf := {up.lf with burst := some 3}} : State).lf.burst = some (3 : Nat)) ∧
      (20 ≤ (20 : Nat))) := by
  refine ⟨?_, ?_, ?_, ?_, ?_, ?_, ?_⟩ <;> decide +kernel

theorem witness_SubGhzStates :
    ((rolesThere ({up with sgr := {up.sgr with phase := .synth}} : State) (.sgrSynthLock) = true) ∧ (({up with sgr := {up.sgr with phase := .synth}}
      : State).sgr.phase = .synth) ∧ (({up with sgr := {up.sgr with phase := .synth}} : State).sgr.held = false)) ∧
    ((rolesThere ({up with sgr := {up.sgr with phase := .synth, held := true, work := .cycle}} : State)
      (.sgrSynthLock) = true) ∧ (({up with sgr := {up.sgr with phase := .synth, held := true, work := .cycle}} :
      State).sgr.phase = .synth) ∧ (({up with sgr := {up.sgr with phase := .synth, held := true, work := .cycle}} :
      State).sgr.held = true) ∧ (({up with sgr := {up.sgr with phase := .synth, held := true, work := .cycle}} :
      State).sgr.work = .cycle)) ∧
    ((rolesThere ({up with sgr := {up.sgr with phase := .tx, work := .txPacket 4 [] 0}} : State) (.sgrLockLoss) =
      true) ∧ (({up with sgr := {up.sgr with phase := .tx, work := .txPacket 4 [] 0}} : State).sgr.phase = .tx) ∧
      (({up with sgr := {up.sgr with phase := .tx, work := .txPacket 4 [] 0}} : State).sgr.work = .txPacket (4 : Nat)
      ([] : Bytes) (0 : Nat))) ∧
    ((rolesThere ({up with sgr := {up.sgr with phase := .rx, lock := true}} : State) (.sgrLockLoss) = true) ∧ (({up with sgr := {up.sgr with phase := .rx, lock := true}}
      : State).sgr.phase = .rx)) ∧
    ((rolesThere ({up with sgr := {up.sgr with phase := .synth, held := true, work := .txPacket 4 [] 0}} : State)
      (.sgrTxWaitExpiry) = true) ∧ (({up with sgr := {up.sgr with phase := .synth, held := true, work := .txPacket 4 [] 0}}
      : State).sgr.held = true) ∧ (({up with sgr := {up.sgr with phase := .synth, held := true, work := .txPacket 4 [] 0}}
      : State).sgr.phase = .synth) ∧ (({up with sgr := {up.sgr with phase := .synth, held := true, work := .txPacket 4 [] 0}}
      : State).sgr.work = .txPacket (4 : Nat) ([] : Bytes) (0 : Nat))) ∧
    ((rolesThere ({awaiting with sgr := {awaiting.sgr with phase := .cal, held := true}} : State) (.sgrTxWaitExpiry)
      = true) ∧ (({awaiting with sgr := {awaiting.sgr with phase := .cal, held := true}} : State).sgr.held = true) ∧
      (({awaiting with sgr := {awaiting.sgr with phase := .cal, held := true}} : State).sgr.phase = .cal) ∧
      (({awaiting with sgr := {awaiting.sgr with phase := .cal, held := true}} : State).sgr.work = .cycle) ∧
      (({awaiting with sgr := {awaiting.sgr with phase := .cal, held := true}} : State).cyc.onAir = some (0 : Nat))) ∧
    ((rolesThere ({up with sgr := {up.sgr with phase := .tx, work := .cycle}} : State) (.sgrTxEnd) = true) ∧ (({up with sgr := {up.sgr with phase := .tx, work := .cycle}}
      : State).sgr.phase = .tx) ∧ (({up with sgr := {up.sgr with phase := .tx, work := .cycle}} : State).sgr.work =
      .cycle)) ∧
    ((rolesThere ({up with sgr := {up.sgr with phase := .tx, work := .txPacket 4 [] 0}} : State) (.sgrTxEnd) = true)
      ∧ (({up with sgr := {up.sgr with phase := .tx, work := .txPacket 4 [] 0}} : State).sgr.phase = .tx) ∧ (({up with sgr := {up.sgr with phase := .tx, work := .txPacket 4 [] 0}}
      : State).sgr.work = .txPacket (4 : Nat) ([] : Bytes) (0 : Nat))) := by
  refine ⟨?_, ?_, ?_, ?_, ?_, ?_, ?_, ?_⟩ <;> decide +kernel

theorem witness_CalibrationAndTasks :
    ((rolesThere (up) (.temperatureSample (1550 : Int)) = true) ∧ ((up).running = true) ∧ ((up).pwr.deep = none) ∧
      (1550 ≤ (1550 : Int))) ∧
    ((rolesThere (up) (.temperatureSample (1549 : Int)) = true) ∧ ((up).running = true) ∧ ((up).pwr.deep = none) ∧
      ((1549 : Int) < 1550)) ∧
    ((rolesThere ({up with pwr := {up.pwr with tasks := [⟨.oscTrim, 0, 9, [], 0, false⟩]}} : State) (.quietSlotTask
      (false : Bool) (false : Bool)) = true) ∧ ((tasksByDeadline ({up with pwr := {up.pwr with tasks := [⟨.oscTrim, 0, 9, [], 0, false⟩]}}
      : State)).find? (taskQuiet ({up with pwr := {up.pwr with tasks := [⟨.oscTrim, 0, 9, [], 0, false⟩]}} : State)) =
      some (⟨.oscTrim, 0, 9, [], 0, false⟩ : Task))) ∧
    ((rolesThere ({up with pwr := {up.pwr with tasks := [⟨.sgrCal, 15, 9, [], 15, false⟩]}} : State)
      (.taskDeadlinePreempt (false : Bool) (false : Bool)) = true) ∧ (tasksByDeadline ({up with pwr := {up.pwr with tasks := [⟨.sgrCal, 15, 9, [], 15, false⟩]}}
      : State) = (⟨.sgrCal, 15, 9, [], 15, false⟩ : Task) :: ([] : List Task)) ∧ (mayPreempt ({up with pwr := {up.pwr with tasks := [⟨.sgrCal, 15, 9, [], 15, false⟩]}}
      : State) (⟨.sgrCal, 15, 9, [], 15, false⟩ : Task) = true)) ∧
    ((rolesThere ({up with pwr := {up.pwr with running := some ⟨.sgrCal, 15, 9, [], 15, false⟩}} : State)
      (.calBlockEnd (1 : Nat)) = true) ∧ (({up with pwr := {up.pwr with running := some ⟨.sgrCal, 15, 9, [], 15, false⟩}}
      : State).pwr.running = some (⟨.sgrCal, 15, 9, [], 15, false⟩ : Task)) ∧ ((⟨.sgrCal, 15, 9, [], 15, false⟩ :
      Task).kind = .sgrCal)) ∧
    ((rolesThere ({up with sgr := {up.sgr with measuring := true}} : State) (.oscMeasureEnd (38400000 : Nat)) = true)
      ∧ (({up with sgr := {up.sgr with measuring := true}} : State).sgr.measuring = true) ∧ (oscPasses (38400000 :
      Nat) = true)) ∧
    ((rolesThere ({up with sgr := {up.sgr with measuring := true}} : State) (.oscMeasureEnd (0 : Nat)) = true) ∧
      (({up with sgr := {up.sgr with measuring := true}} : State).sgr.measuring = true) ∧ (oscPasses (0 : Nat) =
      false) ∧ (({up with sgr := {up.sgr with measuring := true}} : State).sgr.measureAgain = false)) ∧
    ((rolesThere ({up with sgr := {up.sgr with measuring := true, measureAgain := true}} : State) (.oscMeasureEnd (0
      : Nat)) = true) ∧ (({up with sgr := {up.sgr with measuring := true, measureAgain := true}} :
      State).sgr.measuring = true) ∧ (oscPasses (0 : Nat) = false) ∧ (({up with sgr := {up.sgr with measuring := true, measureAgain := true}}
      : State).sgr.measureAgain = true)) := by
  refine ⟨?_, ?_, ?_, ?_, ?_, ?_, ?_, ?_⟩ <;> decide +kernel

theorem witness_CoexistenceGrant :
    ((grantSeen { (({inRound .response with rad := {(inRound .response).rad with grantPin := true}}.setForce Reg.sgrCoexEn 1).setForce Reg.sgrCoexGrantPol 0) with rad := { (({inRound .response with rad := {(inRound .response).rad with grantPin := true}}.setForce Reg.sgrCoexEn 1).setForce Reg.sgrCoexGrantPol 0).rad with grantPin := false } }
      = false) ∧ ((({inRound .response with rad := {(inRound .response).rad with grantPin := true}}.setForce
      Reg.sgrCoexEn 1).setForce Reg.sgrCoexGrantPol 0).uwb.round.isSome = true)) ∧
    ((grantSeen { ({up with sgr := {up.sgr with phase := .rx, lock := true, work := .txPacket 4 [] 0, grantWait := true}} : State) with rad := { ({up with sgr := {up.sgr with phase := .rx, lock := true, work := .txPacket 4 [] 0, grantWait := true}} : State).rad with grantPin := true } }
      = true) ∧ (({up with sgr := {up.sgr with phase := .rx, lock := true, work := .txPacket 4 [] 0, grantWait := true}}
      : State).sgr.work = .txPacket (4 : Nat) ([] : Bytes) (0 : Nat)) ∧ (({up with sgr := {up.sgr with phase := .rx, lock := true, work := .txPacket 4 [] 0, grantWait := true}}
      : State).sgr.grantWait = true)) ∧
    ((rolesThere ({up with sgr := {up.sgr with work := .txPacket 4 [] 0, grantWait := true}} : State)
      (.coexWaitExpiry) = true) ∧ (({up with sgr := {up.sgr with work := .txPacket 4 [] 0, grantWait := true}} :
      State).sgr.work = .txPacket (4 : Nat) ([] : Bytes) (0 : Nat)) ∧ (({up with sgr := {up.sgr with work := .txPacket 4 [] 0, grantWait := true}}
      : State).sgr.grantWait = true)) := by
  refine ⟨?_, ?_, ?_⟩ <;> decide +kernel

theorem witness_RadioRing :
    ((rolesThere (cmd up 5 1 7 3 0 0) (.txPacket (7 : Nat) ([1, 2, 3] : Bytes)) = true) ∧ (Waiting (cmd up 5 1 7 3 0
      0) 5 0x01 (7 : Nat) (⟨1, 0, 7, 3, 4096, 0, 0⟩ : Desc)) ∧ (1 ≤ (⟨1, 0, 7, 3, 4096, 0, 0⟩ : Desc).len) ∧ ((⟨1, 0,
      7, 3, 4096, 0, 0⟩ : Desc).len ≤ 255) ∧ (([1, 2, 3] : Bytes).length = (⟨1, 0, 7, 3, 4096, 0, 0⟩ : Desc).len) ∧
      ((⟨1, 0, 7, 3, 4096, 0, 0⟩ : Desc).p0 < 4)) ∧
    ((rolesThere (cmd up 5 2 7 3 100 0) (.rxPacket (7 : Nat)) = true) ∧ (Waiting (cmd up 5 2 7 3 100 0) 5 0x02 (7 :
      Nat) (⟨2, 0, 7, 3, 4096, 100, 0⟩ : Desc)) ∧ (1 ≤ (⟨2, 0, 7, 3, 4096, 100, 0⟩ : Desc).len) ∧ ((⟨2, 0, 7, 3, 4096,
      100, 0⟩ : Desc).len ≤ 255) ∧ (100 ≤ (⟨2, 0, 7, 3, 4096, 100, 0⟩ : Desc).p0) ∧ ((⟨2, 0, 7, 3, 4096, 100, 0⟩ :
      Desc).p0 ≤ 10000000) ∧ ((⟨2, 0, 7, 3, 4096, 100, 0⟩ : Desc).p1 < 4)) ∧
    ((rolesThere (cmd up 5 6 7 0 10000 0) (.rssi (7 : Nat)) = true) ∧ (Waiting (cmd up 5 6 7 0 10000 0) 5 0x06 (7 :
      Nat) (⟨6, 0, 7, 0, 4096, 10000, 0⟩ : Desc)) ∧ (100 ≤ (⟨6, 0, 7, 0, 4096, 10000, 0⟩ : Desc).p0) ∧ ((⟨6, 0, 7, 0,
      4096, 10000, 0⟩ : Desc).p0 ≤ 10000)) ∧
    ((rolesThere ({cmd up 5 2 7 3 100 0 with sgr := {up.sgr with phase := .rx, work := .rxPacket 7 3 0}} : State)
      (.sgrPacketReceived (-70 : Int) ([3, 1, 2, 3, 0, 0] : Bytes)) = true) ∧ (({cmd up 5 2 7 3 100 0 with sgr := {up.sgr with phase := .rx, work := .rxPacket 7 3 0}}
      : State).sgr.work = .rxPacket (7 : Nat) (3 : Nat) (0 : Nat)) ∧ (({cmd up 5 2 7 3 100 0 with sgr := {up.sgr with phase := .rx, work := .rxPacket 7 3 0}}
      : State).sgr.phase = .rx) ∧ (findOut ({cmd up 5 2 7 3 100 0 with sgr := {up.sgr with phase := .rx, work := .rxPacket 7 3 0}}
      : State) 5 (7 : Nat) = some (⟨⟨2, 0, 7, 3, 4096, 100, 0⟩, false, false, false⟩ : Outst))) ∧
    ((rolesThere ({up with sgr := {up.sgr with work := .rxPacket 7 3 0}} : State) (.sgrRxTimeout) = true) ∧ (({up with sgr := {up.sgr with work := .rxPacket 7 3 0}}
      : State).sgr.work = .rxPacket (7 : Nat) (3 : Nat) (0 : Nat))) ∧
    ((rolesThere ({up with sgr := {up.sgr with work := .rssi 7}} : State) (.rssiMeasureEnd (-80 : Int)) = true) ∧
      (({up with sgr := {up.sgr with work := .rssi 7}} : State).sgr.work = .rssi (7 : Nat))) ∧
    ((rolesThere (cmd up 5 3 7 0 127 0) (.calibrate (7 : Nat)) = true) ∧ (Waiting (cmd up 5 3 7 0 127 0) 5 0x03 (7 :
      Nat) (⟨3, 0, 7, 0, 4096, 127, 0⟩ : Desc)) ∧ ((⟨3, 0, 7, 0, 4096, 127, 0⟩ : Desc).p0 < 128) ∧ ((⟨3, 0, 7, 0,
      4096, 127, 0⟩ : Desc).p0 ≠ 0)) ∧
    ((rolesThere (cmd polled 5 4 7 72 0 0) (.regrecRead (7 : Nat)) = true) ∧ (Waiting (cmd polled 5 4 7 72 0 0) 5
      0x04 (7 : Nat) (⟨4, 0, 7, 72, 4096, 0, 0⟩ : Desc)) ∧ ((⟨4, 0, 7, 72, 4096, 0, 0⟩ : Desc).len = 72) ∧ ((cmd
      polled 5 4 7 72 0 0).rad.regRec = some (aRecord : Bytes))) ∧
    ((rolesThere (cmd up 5 4 7 72 0 0) (.regrecRead (7 : Nat)) = true) ∧ (Waiting (cmd up 5 4 7 72 0 0) 5 0x04 (7 :
      Nat) (⟨4, 0, 7, 72, 4096, 0, 0⟩ : Desc)) ∧ ((⟨4, 0, 7, 72, 4096, 0, 0⟩ : Desc).len = 72) ∧ ((cmd up 5 4 7 72 0
      0).rad.regRec = none)) ∧
    ((rolesThere (cmd {up with cip := {up.cip with lifeCycle := .field}} 5 5 7 72 0 0) (.regrecWrite (7 : Nat)
      (aRecord : Bytes)) = true) ∧ (Waiting (cmd {up with cip := {up.cip with lifeCycle := .field}} 5 5 7 72 0 0) 5
      0x05 (7 : Nat) (⟨5, 0, 7, 72, 4096, 0, 0⟩ : Desc)) ∧ ((⟨5, 0, 7, 72, 4096, 0, 0⟩ : Desc).len = 72) ∧ ((aRecord :
      Bytes).length = 72) ∧ (regrecAccepted (cmd {up with cip := {up.cip with lifeCycle := .field}} 5 5 7 72 0 0) =
      false)) ∧
    ((rolesThere (cmd up 5 5 7 72 0 0) (.regrecWrite (7 : Nat) (aRecord : Bytes)) = true) ∧ (Waiting (cmd up 5 5 7 72
      0 0) 5 0x05 (7 : Nat) (⟨5, 0, 7, 72, 4096, 0, 0⟩ : Desc)) ∧ ((⟨5, 0, 7, 72, 4096, 0, 0⟩ : Desc).len = 72) ∧
      ((aRecord : Bytes).length = 72) ∧ (regrecAccepted (cmd up 5 5 7 72 0 0) = true) ∧ (regRecLegal (aRecord : Bytes)
      = true)) := by
  refine ⟨?_, ?_, ?_, ?_, ?_, ?_, ?_, ?_, ?_, ?_, ?_⟩ <;> decide +kernel

theorem witness_TestRing :
    ((rolesThere (cmd up 13 1 7 0 0 10) (.selftest (7 : Nat)) = true) ∧ (Waiting (cmd up 13 1 7 0 0 10) 13 0x01 (7 :
      Nat) (⟨1, 0, 7, 0, 4096, 0, 10⟩ : Desc)) ∧ ((⟨1, 0, 7, 0, 4096, 0, 10⟩ : Desc).p0 = 0) ∧ (10 ≤ (⟨1, 0, 7, 0,
      4096, 0, 10⟩ : Desc).p1) ∧ ((⟨1, 0, 7, 0, 4096, 0, 10⟩ : Desc).p1 ≤ 4000)) ∧
    ((rolesThere (cmd up 13 1 7 0 8 4000) (.selftest (7 : Nat)) = true) ∧ (Waiting (cmd up 13 1 7 0 8 4000) 13 0x01
      (7 : Nat) (⟨1, 0, 7, 0, 4096, 8, 4000⟩ : Desc)) ∧ ((⟨1, 0, 7, 0, 4096, 8, 4000⟩ : Desc).p0 = 8) ∧ (10 ≤ (⟨1, 0,
      7, 0, 4096, 8, 4000⟩ : Desc).p1) ∧ ((⟨1, 0, 7, 0, 4096, 8, 4000⟩ : Desc).p1 ≤ 4000)) ∧
    ((rolesThere (cmd {up with cip := {up.cip with lifeCycle := .field}} 13 4 7 0 65536 1000) (.prodTx (7 : Nat)) =
      true) ∧ (Waiting (cmd {up with cip := {up.cip with lifeCycle := .field}} 13 4 7 0 65536 1000) 13 0x04 (7 : Nat)
      (⟨4, 0, 7, 0, 4096, 65536, 1000⟩ : Desc)) ∧ ((⟨4, 0, 7, 0, 4096, 65536, 1000⟩ : Desc).p0 < 2 ^ 32) ∧ (bitField
      (⟨4, 0, 7, 0, 4096, 65536, 1000⟩ : Desc).p0 1 15 = 0) ∧ (1 ≤ bitField (⟨4, 0, 7, 0, 4096, 65536, 1000⟩ :
      Desc).p0 16 16) ∧ (1000 ≤ (⟨4, 0, 7, 0, 4096, 65536, 1000⟩ : Desc).p1) ∧ ((⟨4, 0, 7, 0, 4096, 65536, 1000⟩ :
      Desc).p1 ≤ 1000000) ∧ ((cmd {up with cip := {up.cip with lifeCycle := .field}} 13 4 7 0 65536
      1000).cip.lifeCycle ≠ .blank) ∧ ((cmd {up with cip := {up.cip with lifeCycle := .field}} 13 4 7 0 65536
      1000).cip.lifeCycle ≠ .returned)) ∧
    ((rolesThere (cmd up 13 4 7 0 65537 1000000) (.prodTx (7 : Nat)) = true) ∧ (Waiting (cmd up 13 4 7 0 65537
      1000000) 13 0x04 (7 : Nat) (⟨4, 0, 7, 0, 4096, 65537, 1000000⟩ : Desc)) ∧ ((⟨4, 0, 7, 0, 4096, 65537, 1000000⟩ :
      Desc).p0 < 2 ^ 32) ∧ (bitField (⟨4, 0, 7, 0, 4096, 65537, 1000000⟩ : Desc).p0 1 15 = 0) ∧ (1 ≤ bitField (⟨4, 0,
      7, 0, 4096, 65537, 1000000⟩ : Desc).p0 16 16) ∧ (1000 ≤ (⟨4, 0, 7, 0, 4096, 65537, 1000000⟩ : Desc).p1) ∧ ((⟨4,
      0, 7, 0, 4096, 65537, 1000000⟩ : Desc).p1 ≤ 1000000) ∧ ((cmd up 13 4 7 0 65537 1000000).cip.lifeCycle = .blank ∨
      (cmd up 13 4 7 0 65537 1000000).cip.lifeCycle = .returned) ∧ ((cmd up 13 4 7 0 65537 1000000).pwr.prodTx = none)) ∧
    ((rolesThere (up) (.prodTxPeriod) = true) ∧ ((up).running = true) ∧ ((up).sgr.work ≠ .prod)) ∧
    ((rolesThere (cmd up 13 5 7 256 0 0) (.schedule (7 : Nat)) = true) ∧ (Waiting (cmd up 13 5 7 256 0 0) 13 0x05 (7
      : Nat) (⟨5, 0, 7, 256, 4096, 0, 0⟩ : Desc)) ∧ ((⟨5, 0, 7, 256, 4096, 0, 0⟩ : Desc).len = 256)) := by
  refine ⟨?_, ?_, ?_, ?_, ?_, ?_⟩ <;> decide +kernel

theorem witness_CoilPollsAndWalk :
    ((rolesThere (polled) (.coilPollStart (8000 : Nat)) = true) ∧ (coilMayStart (polled) = true)) ∧
    ((rolesThere (coilIn .settle .poll) (.coilSettleEnd (4 : Nat) (true : Bool) (true : Bool)) = true) ∧ ((coilIn
      .settle .poll).tpx.phase = .settle) ∧ (coilFinding (coilIn .settle .poll) (4 : Nat) (true : Bool) (true : Bool)
      = coilOpen)) ∧
    ((rolesThere (coilIn .settle .poll) (.coilSettleEnd (5 : Nat) (true : Bool) (false : Bool)) = true) ∧ ((coilIn
      .settle .poll).tpx.phase = .settle) ∧ (coilFinding (coilIn .settle .poll) (5 : Nat) (true : Bool) (false : Bool)
      ≠ coilOpen)) ∧
    ((rolesThere (coilIn .settle .poll) (.coilOvercurrent) = true) ∧ (fieldOn (coilIn .settle .poll) = true)) ∧
    ((rolesThere (coilIn .auth .poll) (.coilVlfCollapse) = true) ∧ (fieldOn (coilIn .auth .poll) = true)) ∧
    (((up).running = true)) ∧
    ((rolesThere (coilIn (.walk 63 5 0) .poll) (.walkReply (turn256 : Nat) ([(true, false)] : List (Bool × Bool))) =
      true) ∧ ((coilIn (.walk 63 5 0) .poll).tpx.phase = .walk (63 : Nat) (5 : Nat) (0 : Nat)) ∧ (inTurnaround
      (turn256 : Nat) turn256 = true) ∧ (readWalk (64 - (63 : Nat)) 0 0 ([(true, false)] : List (Bool × Bool)) =
      .whole (1 : Nat))) ∧
    ((rolesThere (coilIn (.walk 0 0 0) .poll) (.walkReply (turn256 : Nat) ([(true, false), (true, true)] : List (Bool
      × Bool))) = true) ∧ ((coilIn (.walk 0 0 0) .poll).tpx.phase = .walk (0 : Nat) (0 : Nat) (0 : Nat)) ∧
      (inTurnaround (turn256 : Nat) turn256 = true) ∧ (readWalk (64 - (0 : Nat)) 0 0 ([(true, false), (true, true)] :
      List (Bool × Bool)) = .collided (1 : Nat) (1 : Nat))) ∧
    ((rolesThere (coilIn (.walk 0 0 0) .poll) (.walkReply (3169 : Nat) ([] : List (Bool × Bool))) = true) ∧ ((coilIn
      (.walk 0 0 0) .poll).tpx.phase = .walk (0 : Nat) (0 : Nat) (0 : Nat)) ∧ (inTurnaround (3169 : Nat) turn256 =
      false)) ∧
    ((rolesThere (coilIn (.walk 0 0 0) .poll) (.tpxReplyMissing (10 : Nat) (false : Bool)) = true) ∧ ((coilIn (.walk
      0 0 0) .poll).tpx.phase = .walk (0 : Nat) (0 : Nat) (0 : Nat))) := by
  refine ⟨?_, ?_, ?_, ?_, ?_, ?_, ?_, ?_, ?_, ?_⟩ <;> decide +kernel

theorem witness_TransponderHandshake :
    ((rolesThere (coilIn .select (.readBlock 7 9 0)) (.selectedReply (turn256 : Nat) (20 : Nat) (reply [0x81, 1] :
      Bytes)) = true) ∧ ((coilIn .select (.readBlock 7 9 0)).tpx.phase = .select) ∧ (coilCtx (coilIn .select
      (.readBlock 7 9 0)) (20 : Nat) = some ({tagCtx with current := 20} : CoilCtx)) ∧ (inTurnaround (turn256 : Nat)
      turn256 = true) ∧ (replyPayload (reply [0x81, 1] : Bytes) 0x81 1 = some ([1] : Bytes)) ∧ (beNat ([1] : Bytes) =
      (1 : Nat)) ∧ (servesTags (coilIn .select (.readBlock 7 9 0)) = false)) ∧
    ((rolesThere (invalid9 (coilIn .select .poll)) (.selectedReply (turn256 : Nat) (20 : Nat) (reply [0x81, 1] :
      Bytes)) = true) ∧ ((invalid9 (coilIn .select .poll)).tpx.phase = .select) ∧ (coilCtx (invalid9 (coilIn .select
      .poll)) (20 : Nat) = some ({tagCtx with current := 20} : CoilCtx)) ∧ (inTurnaround (turn256 : Nat) turn256 =
      true) ∧ (replyPayload (reply [0x81, 1] : Bytes) 0x81 1 = some ([1] : Bytes)) ∧ (servesTags (invalid9 (coilIn
      .select .poll)) = true) ∧ (checkR33 { (invalid9 (coilIn .select .poll)) with tpx := { (invalid9 (coilIn .select .poll)).tpx with contexts := (invalid9 (coilIn .select .poll)).tpx.contexts + 1 } }
      ({tagCtx with current := 20} : CoilCtx).id = some (ocValidity : Nat))) ∧
    ((rolesThere (coilIn .getNonce .poll) (.nonceReply (turn256 : Nat) (20 : Nat) (reply (0x82#8 :: zeroBytes 16) :
      Bytes)) = true) ∧ ((coilIn .getNonce .poll).tpx.phase = .getNonce) ∧ (coilCtx (coilIn .getNonce .poll) (20 :
      Nat) = some ({tagCtx with current := 20} : CoilCtx)) ∧ (inTurnaround (turn256 : Nat) turn256 = true) ∧
      (replyPayload (reply (0x82#8 :: zeroBytes 16) : Bytes) 0x82 16 = some (zeroBytes 16 : Bytes))) ∧
    ((rolesThere (coilIn .getNonce .poll) (.nonceReply (2975 : Nat) (20 : Nat) ([] : Bytes)) = true) ∧ ((coilIn
      .getNonce .poll).tpx.phase = .getNonce) ∧ (coilCtx (coilIn .getNonce .poll) (20 : Nat) = some ({tagCtx with current := 20}
      : CoilCtx)) ∧ (inTurnaround (2975 : Nat) turn256 = false)) ∧
    ((rolesThere (coilIn .auth .poll) (.authReply (49152 : Nat) (20 : Nat) (reply (0x83#8 :: zeroBytes 8) : Bytes)) =
      true) ∧ ((coilIn .auth .poll).tpx.phase = .auth) ∧ (coilCtx (coilIn .auth .poll) (20 : Nat) = some ({tagCtx with current := 20}
      : CoilCtx)) ∧ (replyWhole (reply (0x83#8 :: zeroBytes 8) : Bytes) = true) ∧ (replyPayload (reply (0x83#8 ::
      zeroBytes 8) : Bytes) 0x83 8 = some (zeroBytes 8 : Bytes)) ∧ ((49152 : Nat) ≤ 49152) ∧ (inTurnaround (49152 :
      Nat) turn2048 = false)) ∧
    ((rolesThere (coilIn .auth .poll) (.authReply (turn2048 : Nat) (20 : Nat) (reply (0x83#8 :: zeroBytes 8) :
      Bytes)) = true) ∧ ((coilIn .auth .poll).tpx.phase = .auth) ∧ (coilCtx (coilIn .auth .poll) (20 : Nat) = some
      ({tagCtx with current := 20} : CoilCtx)) ∧ (replyWhole (reply (0x83#8 :: zeroBytes 8) : Bytes) = true) ∧
      (replyPayload (reply (0x83#8 :: zeroBytes 8) : Bytes) 0x83 8 = some (zeroBytes 8 : Bytes)) ∧ (inTurnaround
      (turn2048 : Nat) turn2048 = true) ∧ (beNat (zeroBytes 8 : Bytes) ≠ macT 0x74 ({tagCtx with current := 20} :
      CoilCtx).kt ({tagCtx with current := 20} : CoilCtx).nd ({tagCtx with current := 20} : CoilCtx).nt ({tagCtx with current := 20}
      : CoilCtx).id)) ∧
    ((rolesThere ({coilIn .auth .poll with aut := exchanging.aut} : State) (.authReply (turn2048 : Nat) (20 : Nat)
      (reply (0x83#8 :: beBytes 8 (macT 0x74 0 0 0 9)) : Bytes)) = true) ∧ (({coilIn .auth .poll with aut := exchanging.aut}
      : State).tpx.phase = .auth) ∧ (coilCtx ({coilIn .auth .poll with aut := exchanging.aut} : State) (20 : Nat) =
      some ({tagCtx with current := 20} : CoilCtx)) ∧ (replyWhole (reply (0x83#8 :: beBytes 8 (macT 0x74 0 0 0 9)) :
      Bytes) = true) ∧ (replyPayload (reply (0x83#8 :: beBytes 8 (macT 0x74 0 0 0 9)) : Bytes) 0x83 8 = some (beBytes
      8 (macT 0x74 0 0 0 9) : Bytes)) ∧ (inTurnaround (turn2048 : Nat) turn2048 = true) ∧ (beNat (beBytes 8 (macT 0x74
      0 0 0 9) : Bytes) = macT 0x74 ({tagCtx with current := 20} : CoilCtx).kt ({tagCtx with current := 20} :
      CoilCtx).nd ({tagCtx with current := 20} : CoilCtx).nt ({tagCtx with current := 20} : CoilCtx).id) ∧ (({tagCtx with current := 20}
      : CoilCtx).byPassword = false) ∧ ((findHolly ({coilIn .auth .poll with aut := exchanging.aut} : State) ({tagCtx with current := 20}
      : CoilCtx).id).isSome = true)) ∧
    ((rolesThere ((fun (u : State) => {u with aut := exchanging.aut, tpx := {u.tpx with ctx := some {tagCtx with byPassword := true}}})
      (coilIn .password .poll)) (.passwordReply (turn256 : Nat) (20 : Nat) (reply [0x80] : Bytes)) = true) ∧ (((fun (u
      : State) => {u with aut := exchanging.aut, tpx := {u.tpx with ctx := some {tagCtx with byPassword := true}}})
      (coilIn .password .poll)).tpx.phase = .password) ∧ (coilCtx ((fun (u : State) => {u with aut := exchanging.aut, tpx := {u.tpx with ctx := some {tagCtx with byPassword := true}}})
      (coilIn .password .poll)) (20 : Nat) = some ({tagCtx with current := 20, byPassword := true} : CoilCtx)) ∧
      (replyWhole (reply [0x80] : Bytes) = true) ∧ (replyPayload (reply [0x80] : Bytes) 0x80 0 = some ([] : Bytes)) ∧
      (inTurnaround (turn256 : Nat) turn256 = true) ∧ (({tagCtx with current := 20, byPassword := true} :
      CoilCtx).byPassword = true) ∧ ((findHolly ((fun (u : State) => {u with aut := exchanging.aut, tpx := {u.tpx with ctx := some {tagCtx with byPassword := true}}})
      (coilIn .password .poll)) ({tagCtx with current := 20, byPassword := true} : CoilCtx).id).isSome = true)) ∧
    ((rolesThere (coilIn (.secured .read) (.readBlock 7 9 0)) (.securedReply (turn1024 : Nat) (20 : Nat) (reply
      (0x84#8 :: (beBytes 4 0 ++ zeroBytes 16 ++ secMac 0 0x54 0x30 0 (zeroBytes 16))) : Bytes)) = true) ∧ ((coilIn
      (.secured .read) (.readBlock 7 9 0)).tpx.phase = .secured (.read : SecStep)) ∧ (coilCtx (coilIn (.secured .read)
      (.readBlock 7 9 0)) (20 : Nat) = some ({tagCtx with current := 20} : CoilCtx)) ∧ (secInTime (.read : SecStep)
      (turn1024 : Nat) = true) ∧ (securedPayload ({tagCtx with current := 20} : CoilCtx) (.read : SecStep).op (.read :
      SecStep).replyLen (reply (0x84#8 :: (beBytes 4 0 ++ zeroBytes 16 ++ secMac 0 0x54 0x30 0 (zeroBytes 16))) :
      Bytes) = some (secCrypt 0 0x54 0x30 0 (zeroBytes 16) : Bytes))) ∧
    ((rolesThere (coilIn (.secured (.commit 0)) (.writeBlock 7 9 0 [])) (.securedReply (72001 : Nat) (20 : Nat) ([] :
      Bytes)) = true) ∧ ((coilIn (.secured (.commit 0)) (.writeBlock 7 9 0 [])).tpx.phase = .secured (.commit 0 :
      SecStep)) ∧ (coilCtx (coilIn (.secured (.commit 0)) (.writeBlock 7 9 0 [])) (20 : Nat) = some ({tagCtx with current := 20}
      : CoilCtx)) ∧ (secInTime (.commit 0 : SecStep) (72001 : Nat) = false)) ∧
    ((rolesThere (coilIn .auth .poll) (.tpxReplyMissing (20 : Nat) (true : Bool)) = true) ∧ ((coilIn .auth
      .poll).tpx.phase = .auth) ∧ (coilCtx (coilIn .auth .poll) (20 : Nat) = some ({tagCtx with current := 20} :
      CoilCtx))) ∧
    ((rolesThere (coilIn (.secured (.stage false)) (.writeBlock 7 9 0 [])) (.tpxReplyMissing (20 : Nat) (true :
      Bool)) = true) ∧ ((coilIn (.secured (.stage false)) (.writeBlock 7 9 0 [])).tpx.phase = .secured (.stage false :
      SecStep)) ∧ (coilCtx (coilIn (.secured (.stage false)) (.writeBlock 7 9 0 [])) (20 : Nat) = some ({tagCtx with current := 20}
      : CoilCtx))) := by
  refine ⟨?_, ?_, ?_, ?_, ?_, ?_, ?_, ?_, ?_, ?_, ?_, ?_⟩ <;> decide +kernel

theorem witness_CoilRing :
    ((rolesThere (cmd up 4 1 7 32 0 0) (.tpxReportBuffer (7 : Nat)) = true) ∧ (Waiting (cmd up 4 1 7 32 0 0) 4 0x01
      (7 : Nat) (⟨1, 0, 7, 32, 4096, 0, 0⟩ : Desc)) ∧ (32 ≤ (⟨1, 0, 7, 32, 4096, 0, 0⟩ : Desc).len)) ∧
    ((rolesThere (cmd up 4 2 7 0 0 0) (.pollNow (7 : Nat)) = true) ∧ (Waiting (cmd up 4 2 7 0 0 0) 4 0x02 (7 : Nat)
      (⟨2, 0, 7, 0, 4096, 0, 0⟩ : Desc))) ∧
    ((rolesThere (cmd up 4 3 7 64 0 0) (.inventory (7 : Nat)) = true) ∧ (Waiting (cmd up 4 3 7 64 0 0) 4 0x03 (7 :
      Nat) (⟨3, 0, 7, 64, 4096, 0, 0⟩ : Desc)) ∧ (8 ≤ (⟨3, 0, 7, 64, 4096, 0, 0⟩ : Desc).len) ∧ ((⟨3, 0, 7, 64, 4096,
      0, 0⟩ : Desc).len ≤ 64) ∧ ((⟨3, 0, 7, 64, 4096, 0, 0⟩ : Desc).len % 8 = 0)) ∧
    ((rolesThere (cmd up 4 4 7 16 9 15) (.readBlock (7 : Nat)) = true) ∧ (Waiting (cmd up 4 4 7 16 9 15) 4 0x04 (7 :
      Nat) (⟨4, 0, 7, 16, 4096, 9, 15⟩ : Desc)) ∧ ((⟨4, 0, 7, 16, 4096, 9, 15⟩ : Desc).len = 16) ∧ ((⟨4, 0, 7, 16,
      4096, 9, 15⟩ : Desc).p1 < 16)) ∧
    ((rolesThere (cmd up 4 4 7 16 9 16) (.readBlock (7 : Nat)) = true) ∧ (Waiting (cmd up 4 4 7 16 9 16) 4 0x04 (7 :
      Nat) (⟨4, 0, 7, 16, 4096, 9, 16⟩ : Desc)) ∧ ((⟨4, 0, 7, 16, 4096, 9, 16⟩ : Desc).len ≠ 16 ∨ 16 ≤ (⟨4, 0, 7, 16,
      4096, 9, 16⟩ : Desc).p1)) ∧
    ((rolesThere (cmd up 4 5 7 16 9 15) (.writeBlock (7 : Nat) (zeroBytes 16 : Bytes)) = true) ∧ (Waiting (cmd up 4 5
      7 16 9 15) 4 0x05 (7 : Nat) (⟨5, 0, 7, 16, 4096, 9, 15⟩ : Desc)) ∧ ((⟨5, 0, 7, 16, 4096, 9, 15⟩ : Desc).len =
      16) ∧ ((⟨5, 0, 7, 16, 4096, 9, 15⟩ : Desc).p1 < 16)) := by
  refine ⟨?_, ?_, ?_, ?_, ?_, ?_⟩ <;> decide +kernel

theorem witness_CipherJobs :
    ((rolesThere (cmd keyed5 7 1 7 16 5 0) (.encrypt (7 : Nat) (zeroBytes 16 : Bytes)) = true) ∧ (Waiting (cmd keyed5
      7 1 7 16 5 0) 7 0x01 (7 : Nat) (⟨1, 0, 7, 16, 4096, 5, 0⟩ : Desc)) ∧ (encryptForm (⟨1, 0, 7, 16, 4096, 5, 0⟩ :
      Desc) = true) ∧ (slotPermits (cmd keyed5 7 1 7 16 5 0) (jobSlot (⟨1, 0, 7, 16, 4096, 5, 0⟩ : Desc)) reqHost
      false useEnc = true)) ∧
    ((rolesThere (cmd up 7 1 7 16 5 0) (.encrypt (7 : Nat) (zeroBytes 16 : Bytes)) = true) ∧ (Waiting (cmd up 7 1 7
      16 5 0) 7 0x01 (7 : Nat) (⟨1, 0, 7, 16, 4096, 5, 0⟩ : Desc)) ∧ (encryptForm (⟨1, 0, 7, 16, 4096, 5, 0⟩ : Desc) =
      true) ∧ (slotPermits (cmd up 7 1 7 16 5 0) (jobSlot (⟨1, 0, 7, 16, 4096, 5, 0⟩ : Desc)) reqHost false useEnc =
      false)) ∧
    ((rolesThere (cmd keyed5 7 2 7 16 5 0) (.decrypt (7 : Nat) (zeroBytes 16 : Bytes) ([] : Bytes)) = true) ∧
      (Waiting (cmd keyed5 7 2 7 16 5 0) 7 0x02 (7 : Nat) (⟨2, 0, 7, 16, 4096, 5, 0⟩ : Desc)) ∧ (decryptForm (⟨2, 0,
      7, 16, 4096, 5, 0⟩ : Desc) = true) ∧ (slotPermits (cmd keyed5 7 2 7 16 5 0) (jobSlot (⟨2, 0, 7, 16, 4096, 5, 0⟩
      : Desc)) reqHost false useDec = true)) ∧
    ((rolesThere (cmd up 7 2 7 16 5 0) (.decrypt (7 : Nat) (zeroBytes 16 : Bytes) ([] : Bytes)) = true) ∧ (Waiting
      (cmd up 7 2 7 16 5 0) 7 0x02 (7 : Nat) (⟨2, 0, 7, 16, 4096, 5, 0⟩ : Desc)) ∧ (decryptForm (⟨2, 0, 7, 16, 4096,
      5, 0⟩ : Desc) = true) ∧ (slotPermits (cmd up 7 2 7 16 5 0) (jobSlot (⟨2, 0, 7, 16, 4096, 5, 0⟩ : Desc)) reqHost
      false useDec = false)) ∧
    ((rolesThere (cmd keyed5 7 3 7 65535 5 16) (.mac (7 : Nat) ([] : Bytes)) = true) ∧ (Waiting (cmd keyed5 7 3 7
      65535 5 16) 7 0x03 (7 : Nat) (⟨3, 0, 7, 65535, 4096, 5, 16⟩ : Desc)) ∧ (macForm (⟨3, 0, 7, 65535, 4096, 5, 16⟩ :
      Desc) = true) ∧ (slotPermits (cmd keyed5 7 3 7 65535 5 16) (jobSlot (⟨3, 0, 7, 65535, 4096, 5, 16⟩ : Desc))
      reqHost false useEnc = true)) ∧
    ((rolesThere (cmd up 7 4 7 4096 0 0) (.nonce (7 : Nat)) = true) ∧ (Waiting (cmd up 7 4 7 4096 0 0) 7 0x04 (7 :
      Nat) (⟨4, 0, 7, 4096, 4096, 0, 0⟩ : Desc)) ∧ (16 ≤ (⟨4, 0, 7, 4096, 4096, 0, 0⟩ : Desc).len) ∧ ((⟨4, 0, 7, 4096,
      4096, 0, 0⟩ : Desc).len ≤ 4096) ∧ ((⟨4, 0, 7, 4096, 4096, 0, 0⟩ : Desc).len % 16 = 0)) ∧
    ((rolesThere (cmd keyed5 7 5 7 0 5 0) (.counter (7 : Nat)) = true) ∧ (Waiting (cmd keyed5 7 5 7 0 5 0) 7 0x05 (7
      : Nat) (⟨5, 0, 7, 0, 4096, 5, 0⟩ : Desc)) ∧ ((⟨5, 0, 7, 0, 4096, 5, 0⟩ : Desc).p0 < 64) ∧ (slotVisible (cmd
      keyed5 7 5 7 0 5 0) (⟨5, 0, 7, 0, 4096, 5, 0⟩ : Desc).p0 reqHost false = true) ∧ (counterOf (cmd keyed5 7 5 7 0
      5 0) (⟨5, 0, 7, 0, 4096, 5, 0⟩ : Desc).p0 ≠ ceilingOf (cmd keyed5 7 5 7 0 5 0) (⟨5, 0, 7, 0, 4096, 5, 0⟩ :
      Desc).p0)) ∧
    ((rolesThere (cmd up 7 5 7 0 63 0) (.counter (7 : Nat)) = true) ∧ (Waiting (cmd up 7 5 7 0 63 0) 7 0x05 (7 : Nat)
      (⟨5, 0, 7, 0, 4096, 63, 0⟩ : Desc)) ∧ ((⟨5, 0, 7, 0, 4096, 63, 0⟩ : Desc).p0 < 64) ∧ (slotVisible (cmd up 7 5 7
      0 63 0) (⟨5, 0, 7, 0, 4096, 63, 0⟩ : Desc).p0 reqHost false = false)) := by
  refine ⟨?_, ?_, ?_, ?_, ?_, ?_, ?_, ?_⟩ <;> decide +kernel

theorem witness_RandomSource :
    ((({up with mode := .starting} : State).mode = .starting) ∧ (trngReady ({up with mode := .starting} : State) =
      false) ∧ ((startupTested (({up with mode := .starting} : State).bump Reg.cipTrngStartups) (altBits 4096 : List
      Bool)).1 = false)) ∧
    ((({up with mode := .starting} : State).mode = .starting) ∧ (trngReady ({up with mode := .starting} : State) =
      false) ∧ ((startupTested (({up with mode := .starting} : State).bump Reg.cipTrngStartups) (List.replicate 64
      true : List Bool)).1 = true) ∧ ((startupTested (({up with mode := .starting} : State).bump Reg.cipTrngStartups)
      (List.replicate 64 true : List Bool)).2.cip.startupFails = 0)) ∧
    ((({up with mode := .starting, cip := {up.cip with startupFails := 1}} : State).mode = .starting) ∧ (trngReady
      ({up with mode := .starting, cip := {up.cip with startupFails := 1}} : State) = false) ∧ ((startupTested (({up with mode := .starting, cip := {up.cip with startupFails := 1}}
      : State).bump Reg.cipTrngStartups) (List.replicate 64 true : List Bool)).1 = true) ∧ ((startupTested (({up with mode := .starting, cip := {up.cip with startupFails := 1}}
      : State).bump Reg.cipTrngStartups) (List.replicate 64 true : List Bool)).2.cip.startupFails = 1)) ∧
    (((up).mode = .running) ∧ ((windowTested (up) ((false : Bool) :: (altBits 1024 : List Bool))).1 = false)) ∧
    (((up).mode = .running) ∧ ((windowTested (up) ((true : Bool) :: (List.replicate 63 true : List Bool))).1 = true)
      ∧ ((windowTested (up) ((true : Bool) :: (List.replicate 63 true : List Bool))).2.cip.healthFails.filter (fun t
      => decide ((windowTested (up) ((true : Bool) :: (List.replicate 63 true : List Bool))).2.now ≤ t + 1000)) = [])) ∧
    ((trngReady ({up with statCells := [(Reg.cipStatusTrngReady.key, 1)], cip := {up.cip with drbg := {up.cip.drbg with requests := 2 ^ 32}}}
      : State) = true) ∧ (({up with statCells := [(Reg.cipStatusTrngReady.key, 1)], cip := {up.cip with drbg := {up.cip.drbg with requests := 2 ^ 32}}}
      : State).stat Reg.cipStatusReseeding ≠ 1) ∧ (reseedFalls ({up with statCells := [(Reg.cipStatusTrngReady.key, 1)], cip := {up.cip with drbg := {up.cip.drbg with requests := 2 ^ 32}}}
      : State) = true) ∧ (({up with statCells := [(Reg.cipStatusTrngReady.key, 1)], cip := {up.cip with drbg := {up.cip.drbg with requests := 2 ^ 32}}}
      : State).cip.windowBad = false)) ∧
    ((trngReady ({up with statCells := [(Reg.cipStatusTrngReady.key, 1)], cip := {up.cip with windowBad := true, drbg := {up.cip.drbg with requests := 2 ^ 32}}}
      : State) = true) ∧ (({up with statCells := [(Reg.cipStatusTrngReady.key, 1)], cip := {up.cip with windowBad := true, drbg := {up.cip.drbg with requests := 2 ^ 32}}}
      : State).stat Reg.cipStatusReseeding ≠ 1) ∧ (reseedFalls ({up with statCells := [(Reg.cipStatusTrngReady.key, 1)], cip := {up.cip with windowBad := true, drbg := {up.cip.drbg with requests := 2 ^ 32}}}
      : State) = true) ∧ (({up with statCells := [(Reg.cipStatusTrngReady.key, 1)], cip := {up.cip with windowBad := true, drbg := {up.cip.drbg with requests := 2 ^ 32}}}
      : State).cip.windowBad = true)) ∧
    ((trngReady (({up with statCells := [(Reg.cipStatusTrngReady.key, 1)]}).setStat Reg.cipStatusReseeding 1) = true)
      ∧ ((({up with statCells := [(Reg.cipStatusTrngReady.key, 1)]}).setStat Reg.cipStatusReseeding 1).stat
      Reg.cipStatusReseeding = 1)) ∧
    ((({up with cip := {up.cip with reseedDue := true}} : State).cip.reseedDue = true)) ∧
    ((trngReady ({up with statCells := [(Reg.cipStatusTrngReady.key, 1)], cip := {up.cip with remask := 63}} : State)
      = true) ∧ (rung ({up with statCells := [(Reg.cipStatusTrngReady.key, 1)], cip := {up.cip with remask := 63}} :
      State) ≤ 1) ∧ (({up with statCells := [(Reg.cipStatusTrngReady.key, 1)], cip := {up.cip with remask := 63}} :
      State).cip.remask ≠ 0) ∧ (slotBeingWritten ({up with statCells := [(Reg.cipStatusTrngReady.key, 1)], cip := {up.cip with remask := 63}}
      : State) ({up with statCells := [(Reg.cipStatusTrngReady.key, 1)], cip := {up.cip with remask := 63}} :
      State).cip.remask = false)) := by
  refine ⟨?_, ?_, ?_, ?_, ?_, ?_, ?_, ?_, ?_, ?_⟩ <;> decide +kernel

theorem witness_KeyLoads :
    ((Waiting (cmd up 8 1 7 32 5 0) 8 0x01 (7 : Nat) (⟨1, 0, 7, 32, 4096, 5, 0⟩ : Desc)) ∧ ((⟨1, 0, 7, 32, 4096, 5,
      0⟩ : Desc).len = 32) ∧ (oneSlot (⟨1, 0, 7, 32, 4096, 5, 0⟩ : Desc) = true)) ∧
    ((Waiting (cmd up 8 2 7 40 773 0) 8 0x02 (7 : Nat) (⟨2, 0, 7, 40, 4096, 773, 0⟩ : Desc)) ∧ ((⟨2, 0, 7, 40, 4096,
      773, 0⟩ : Desc).len = 40) ∧ (twoSlots (⟨2, 0, 7, 40, 4096, 773, 0⟩ : Desc) = true)) ∧
    ((Waiting (cmd up 8 3 7 64 773 0) 8 0x03 (7 : Nat) (⟨3, 0, 7, 64, 4096, 773, 0⟩ : Desc)) ∧ ((⟨3, 0, 7, 64, 4096,
      773, 0⟩ : Desc).len ≤ 64) ∧ (twoSlots (⟨3, 0, 7, 64, 4096, 773, 0⟩ : Desc) = true)) ∧
    ((Waiting (cmd keyed5 8 4 7 0 5 0) 8 0x04 (7 : Nat) (⟨4, 0, 7, 0, 4096, 5, 0⟩ : Desc)) ∧ (oneSlot (⟨4, 0, 7, 0,
      4096, 5, 0⟩ : Desc) = true) ∧ (hostSees (cmd keyed5 8 4 7 0 5 0) (keyTarget (⟨4, 0, 7, 0, 4096, 5, 0⟩ : Desc)) =
      true) ∧ ((cmd keyed5 8 4 7 0 5 0).nvwp = false) ∧ (nvBusy (cmd keyed5 8 4 7 0 5 0) 8 = false)) ∧
    ((Waiting (cmd up 8 4 7 0 63 0) 8 0x04 (7 : Nat) (⟨4, 0, 7, 0, 4096, 63, 0⟩ : Desc)) ∧ (oneSlot (⟨4, 0, 7, 0,
      4096, 63, 0⟩ : Desc) = true) ∧ (hostSees (cmd up 8 4 7 0 63 0) (keyTarget (⟨4, 0, 7, 0, 4096, 63, 0⟩ : Desc)) =
      false)) ∧
    ((Waiting (cmd keyed5 8 5 7 0 5 0) 8 0x05 (7 : Nat) (⟨5, 0, 7, 0, 4096, 5, 0⟩ : Desc)) ∧ (oneSlot (⟨5, 0, 7, 0,
      4096, 5, 0⟩ : Desc) = true) ∧ (hostSees (cmd keyed5 8 5 7 0 5 0) (keyTarget (⟨5, 0, 7, 0, 4096, 5, 0⟩ : Desc)) =
      true) ∧ ((cmd keyed5 8 5 7 0 5 0).nvwp = false) ∧ (nvBusy (cmd keyed5 8 5 7 0 5 0) 8 = false)) := by
  refine ⟨?_, ?_, ?_, ?_, ?_, ?_⟩ <;> decide +kernel

theorem witness_LifeCycleAndAttestation :
    ((Waiting ({cmd up 8 6 7 116 0 0 with cip := {up.cip with slots := [(1, ⟨0, 0, 0x1F2C1, 0x1⟩)]}} : State) 8 0x06
      (7 : Nat) (⟨6, 0, 7, 116, 4096, 0, 0⟩ : Desc)) ∧ ((⟨6, 0, 7, 116, 4096, 0, 0⟩ : Desc).len = 116) ∧ (attestUsable
      ({cmd up 8 6 7 116 0 0 with cip := {up.cip with slots := [(1, ⟨0, 0, 0x1F2C1, 0x1⟩)]}} : State) = true)) ∧
    ((Waiting (cmd up 8 6 7 116 0 0) 8 0x06 (7 : Nat) (⟨6, 0, 7, 116, 4096, 0, 0⟩ : Desc)) ∧ ((⟨6, 0, 7, 116, 4096,
      0, 0⟩ : Desc).len = 116) ∧ (attestUsable (cmd up 8 6 7 116 0 0) = false)) ∧
    ((Waiting (cmd up 8 7 7 16 0 0) 8 0x07 (7 : Nat) (⟨7, 0, 7, 16, 4096, 0, 0⟩ : Desc)) ∧ ((⟨7, 0, 7, 16, 4096, 0,
      0⟩ : Desc).len = 16)) ∧
    ((({up with cip := {up.cip with lcNonce := some (5, 0)}} : State).cip.lcNonce.isSome = true)) ∧
    ((Waiting (cmd up 8 8 7 16 2 0) 8 0x08 (7 : Nat) (⟨8, 0, 7, 16, 4096, 2, 0⟩ : Desc)) ∧ ((⟨8, 0, 7, 16, 4096, 2,
      0⟩ : Desc).len = 16) ∧ ((⟨8, 0, 7, 16, 4096, 2, 0⟩ : Desc).p0 < 8) ∧ (lcRow (cmd up 8 8 7 16 2 0) (⟨8, 0, 7, 16,
      4096, 2, 0⟩ : Desc).p0 = none)) ∧
    ((Waiting ({cmd up 8 8 7 16 1 0 with cip := {up.cip with slots := [(1, ⟨0, 0, 0x2C1, 0x1⟩), (3, ⟨0, 0, 0x7CA, 0x1⟩)]}}
      : State) 8 0x08 (7 : Nat) (⟨8, 0, 7, 16, 4096, 1, 0⟩ : Desc)) ∧ ((⟨8, 0, 7, 16, 4096, 1, 0⟩ : Desc).len = 16) ∧
      ((⟨8, 0, 7, 16, 4096, 1, 0⟩ : Desc).p0 < 8) ∧ (lcRow ({cmd up 8 8 7 16 1 0 with cip := {up.cip with slots := [(1, ⟨0, 0, 0x2C1, 0x1⟩), (3, ⟨0, 0, 0x7CA, 0x1⟩)]}}
      : State) (⟨8, 0, 7, 16, 4096, 1, 0⟩ : Desc).p0 = some false) ∧ (lcWipes (⟨8, 0, 7, 16, 4096, 1, 0⟩ : Desc).p0 =
      false)) ∧
    ((Waiting ({cmd up 8 8 7 16 3 0 with cip := {up.cip with lifeCycle := .field, lcNonce := some (5, 0)}} : State) 8
      0x08 (7 : Nat) (⟨8, 0, 7, 16, 4096, 3, 0⟩ : Desc)) ∧ ((⟨8, 0, 7, 16, 4096, 3, 0⟩ : Desc).len = 16) ∧ ((⟨8, 0, 7,
      16, 4096, 3, 0⟩ : Desc).p0 < 8) ∧ (lcRow ({cmd up 8 8 7 16 3 0 with cip := {up.cip with lifeCycle := .field, lcNonce := some (5, 0)}}
      : State) (⟨8, 0, 7, 16, 4096, 3, 0⟩ : Desc).p0 = some true) ∧ (lcAuthorised ({cmd up 8 8 7 16 3 0 with cip := {up.cip with lifeCycle := .field, lcNonce := some (5, 0)}}
      : State) (⟨8, 0, 7, 16, 4096, 3, 0⟩ : Desc).p0 (padTo 16 ([] : Bytes)) = false)) ∧
    ((Waiting (retiring) 8 0x08 (7 : Nat) (⟨8, 0, 7, 16, 4096, 3, 0⟩ : Desc)) ∧ ((⟨8, 0, 7, 16, 4096, 3, 0⟩ :
      Desc).len = 16) ∧ ((⟨8, 0, 7, 16, 4096, 3, 0⟩ : Desc).p0 < 8) ∧ (lcRow (retiring) (⟨8, 0, 7, 16, 4096, 3, 0⟩ :
      Desc).p0 = some true) ∧ (lcAuthorised (retiring) (⟨8, 0, 7, 16, 4096, 3, 0⟩ : Desc).p0 (padTo 16 (retireMac :
      Bytes)) = true) ∧ (lcWipes (⟨8, 0, 7, 16, 4096, 3, 0⟩ : Desc).p0 = true) ∧ ((authJob
      (retiring).cip.lcNonce.isSome (retiring)).cip.lifeCycle ≠ .blank) ∧ ((retiring).nvwp = false) ∧ (nvBusy
      (retiring) 8 = false)) := by
  refine ⟨?_, ?_, ?_, ?_, ?_, ?_, ?_, ?_⟩ <;> decide +kernel

theorem witness_HollyRing :
    ((Waiting (cmd quickset 2 1 7 32 0 0) 2 0x01 (7 : Nat) (⟨1, 0, 7, 32, 4096, 0, 0⟩ : Desc)) ∧ ((⟨1, 0, 7, 32,
      4096, 0, 0⟩ : Desc).len = 32) ∧ (entryLegal (padTo 32 (token9 : Bytes)) = true) ∧ (hollyPermits (cmd quickset 2
      1 7 32 0 0) = true) ∧ ((cmd quickset 2 1 7 32 0 0).nvwp = false) ∧ (nvBusy (cmd quickset 2 1 7 32 0 0) 2 =
      false)) ∧
    ((Waiting ({cmd quickset 2 1 7 32 0 0 with nvwp := true} : State) 2 0x01 (7 : Nat) (⟨1, 0, 7, 32, 4096, 0, 0⟩ :
      Desc)) ∧ ((⟨1, 0, 7, 32, 4096, 0, 0⟩ : Desc).len = 32) ∧ (entryLegal (padTo 32 (token9 : Bytes)) = true) ∧
      (hollyPermits ({cmd quickset 2 1 7 32 0 0 with nvwp := true} : State) = true) ∧ (({cmd quickset 2 1 7 32 0 0 with nvwp := true}
      : State).nvwp = true)) ∧
    ((Waiting (cmd quickset 2 2 7 0 9 0) 2 0x02 (7 : Nat) (⟨2, 0, 7, 0, 4096, 9, 0⟩ : Desc)) ∧ (hollyPermits (cmd
      quickset 2 2 7 0 9 0) = true) ∧ ((cmd quickset 2 2 7 0 9 0).nvwp = false) ∧ (nvBusy (cmd quickset 2 2 7 0 9 0) 2
      = false)) ∧
    ((Waiting (cmd quickset 2 2 7 0 8 0) 2 0x02 (7 : Nat) (⟨2, 0, 7, 0, 4096, 8, 0⟩ : Desc)) ∧ (hollyPermits (cmd
      quickset 2 2 7 0 8 0) = true) ∧ ((cmd quickset 2 2 7 0 8 0).nvwp = false) ∧ (nvBusy (cmd quickset 2 2 7 0 8 0) 2
      = false) ∧ (individualOpen (cmd quickset 2 2 7 0 8 0) = true) ∧ (findHolly (cmd quickset 2 2 7 0 8 0) (⟨2, 0, 7,
      0, 4096, 8, 0⟩ : Desc).p0 = none)) ∧
    ((Waiting (cmd quickset 2 3 7 32 0 0) 2 0x03 (7 : Nat) (⟨3, 0, 7, 32, 4096, 0, 0⟩ : Desc)) ∧ ((⟨3, 0, 7, 32,
      4096, 0, 0⟩ : Desc).len = 32) ∧ (hollyPermits (cmd quickset 2 3 7 32 0 0) = true) ∧ ((⟨3, 0, 7, 32, 4096, 0, 0⟩
      : Desc).p0 < modeSlots (cmd quickset 2 3 7 32 0 0).aut.table.individual)) ∧
    ((Waiting (cmd up 2 3 7 32 0 0) 2 0x03 (7 : Nat) (⟨3, 0, 7, 32, 4096, 0, 0⟩ : Desc)) ∧ ((⟨3, 0, 7, 32, 4096, 0,
      0⟩ : Desc).len = 32) ∧ (hollyPermits (cmd up 2 3 7 32 0 0) = false)) ∧
    ((Waiting (cmd quickset 2 4 7 0 9 0) 2 0x04 (7 : Nat) (⟨4, 0, 7, 0, 4096, 9, 0⟩ : Desc)) ∧ (hollyPermits (cmd
      quickset 2 4 7 0 9 0) = true)) ∧
    ((Waiting (cmd quickset 2 5 7 0 1 0) 2 0x05 (7 : Nat) (⟨5, 0, 7, 0, 4096, 1, 0⟩ : Desc)) ∧ ((⟨5, 0, 7, 0, 4096,
      1, 0⟩ : Desc).p0 < 2 ^ 32) ∧ (hollyPermits (cmd quickset 2 5 7 0 1 0) = true) ∧ ((cmd quickset 2 5 7 0 1 0).nvwp
      = false) ∧ (nvBusy (cmd quickset 2 5 7 0 1 0) 2 = false) ∧ ((cmd quickset 2 5 7 0 1 0).aut.table.epoch < (⟨5, 0,
      7, 0, 4096, 1, 0⟩ : Desc).p0) ∧ ((cmd quickset 2 5 7 0 1 0).aut.learn = none) ∧ ((cmd quickset 2 5 7 0 1
      0).aut.pendingSet = none)) ∧
    ((Waiting (cmd {quickset with aut := {quickset.aut with learn := some ⟨false, 1, [], false⟩}} 2 6 7 32 0 0) 2
      0x06 (7 : Nat) (⟨6, 0, 7, 32, 4096, 0, 0⟩ : Desc)) ∧ (32 ≤ (⟨6, 0, 7, 32, 4096, 0, 0⟩ : Desc).len) ∧ ((⟨6, 0, 7,
      32, 4096, 0, 0⟩ : Desc).len ≤ 1024) ∧ ((⟨6, 0, 7, 32, 4096, 0, 0⟩ : Desc).len % 32 = 0) ∧ ((pieces 32 (padTo
      (⟨6, 0, 7, 32, 4096, 0, 0⟩ : Desc).len (token9 : Bytes))).all entryLegal = true) ∧ (hollyPermits (cmd {quickset with aut := {quickset.aut with learn := some ⟨false, 1, [], false⟩}}
      2 6 7 32 0 0) = true) ∧ ((cmd {quickset with aut := {quickset.aut with learn := some ⟨false, 1, [], false⟩}} 2 6
      7 32 0 0).nvwp = false) ∧ (nvBusy (cmd {quickset with aut := {quickset.aut with learn := some ⟨false, 1, [], false⟩}}
      2 6 7 32 0 0) 2 = false) ∧ ((cmd {quickset with aut := {quickset.aut with learn := some ⟨false, 1, [], false⟩}}
      2 6 7 32 0 0).aut.learn = some (⟨false, 1, [], false⟩ : Learn)) ∧ (hasDuplicate (entryIds ((⟨false, 1, [],
      false⟩ : Learn).entries ++ pieces 32 (padTo (⟨6, 0, 7, 32, 4096, 0, 0⟩ : Desc).len (token9 : Bytes)))) = false)
      ∧ (((⟨false, 1, [], false⟩ : Learn).entries ++ pieces 32 (padTo (⟨6, 0, 7, 32, 4096, 0, 0⟩ : Desc).len (token9 :
      Bytes))).length ≤ modeSlots (⟨false, 1, [], false⟩ : Learn).individual)) ∧
    ((Waiting (cmd {quickset with aut := {quickset.aut with learn := some ⟨false, 1, [], false⟩}} 2 7 7 32 0 0) 2
      0x07 (7 : Nat) (⟨7, 0, 7, 32, 4096, 0, 0⟩ : Desc)) ∧ ((⟨7, 0, 7, 32, 4096, 0, 0⟩ : Desc).len = 32) ∧ ((⟨7, 0, 7,
      32, 4096, 0, 0⟩ : Desc).p1 < 2 ^ 32) ∧ (hollyPermits (cmd {quickset with aut := {quickset.aut with learn := some ⟨false, 1, [], false⟩}}
      2 7 7 32 0 0) = true) ∧ ((cmd {quickset with aut := {quickset.aut with learn := some ⟨false, 1, [], false⟩}} 2 7
      7 32 0 0).nvwp = false) ∧ (nvBusy (cmd {quickset with aut := {quickset.aut with learn := some ⟨false, 1, [], false⟩}}
      2 7 7 32 0 0) 2 = false) ∧ ((cmd {quickset with aut := {quickset.aut with learn := some ⟨false, 1, [], false⟩}}
      2 7 7 32 0 0).aut.learn = some (⟨false, 1, [], false⟩ : Learn)) ∧ ((⟨7, 0, 7, 32, 4096, 0, 0⟩ : Desc).p0 =
      (⟨false, 1, [], false⟩ : Learn).entries.length) ∧ (sha256 (⟨false, 1, [], false⟩ : Learn).entries.flatten =
      padTo 32 (sha256 [] : Bytes))) ∧
    ((Waiting (cmd {quickset with aut := {quickset.aut with learn := some ⟨false, 1, [], false⟩}} 2 8 7 0 0 0) 2 0x08
      (7 : Nat) (⟨8, 0, 7, 0, 4096, 0, 0⟩ : Desc)) ∧ (hollyPermits (cmd {quickset with aut := {quickset.aut with learn := some ⟨false, 1, [], false⟩}}
      2 8 7 0 0 0) = true) ∧ ((cmd {quickset with aut := {quickset.aut with learn := some ⟨false, 1, [], false⟩}} 2 8
      7 0 0 0).nvwp = false) ∧ (nvBusy (cmd {quickset with aut := {quickset.aut with learn := some ⟨false, 1, [], false⟩}}
      2 8 7 0 0 0) 2 = false) ∧ ((cmd {quickset with aut := {quickset.aut with learn := some ⟨false, 1, [], false⟩}} 2
      8 7 0 0 0).aut.learn = some (⟨false, 1, [], false⟩ : Learn))) ∧
    ((Waiting (cmd {quickset with aut := {quickset.aut with pendingSet := some HollySet.empty}} 2 8 7 0 0 0) 2 0x08
      (7 : Nat) (⟨8, 0, 7, 0, 4096, 0, 0⟩ : Desc)) ∧ (hollyPermits (cmd {quickset with aut := {quickset.aut with pendingSet := some HollySet.empty}}
      2 8 7 0 0 0) = true) ∧ ((cmd {quickset with aut := {quickset.aut with pendingSet := some HollySet.empty}} 2 8 7
      0 0 0).nvwp = false) ∧ (nvBusy (cmd {quickset with aut := {quickset.aut with pendingSet := some HollySet.empty}}
      2 8 7 0 0 0) 2 = false) ∧ ((cmd {quickset with aut := {quickset.aut with pendingSet := some HollySet.empty}} 2 8
      7 0 0 0).aut.learn = none) ∧ ((cmd {quickset with aut := {quickset.aut with pendingSet := some HollySet.empty}}
      2 8 7 0 0 0).aut.pendingSet.isSome = true)) ∧
    ((Waiting (cmd {quickset with aut := {quickset.aut with locks := [(0, ⟨5, 3, 1, 0, 60⟩)]}} 2 9 7 0 9 0) 2 0x09 (7
      : Nat) (⟨9, 0, 7, 0, 4096, 9, 0⟩ : Desc)) ∧ (hollyPermits (cmd {quickset with aut := {quickset.aut with locks := [(0, ⟨5, 3, 1, 0, 60⟩)]}}
      2 9 7 0 9 0) = true) ∧ ((cmd {quickset with aut := {quickset.aut with locks := [(0, ⟨5, 3, 1, 0, 60⟩)]}} 2 9 7 0
      9 0).nvwp = false) ∧ (nvBusy (cmd {quickset with aut := {quickset.aut with locks := [(0, ⟨5, 3, 1, 0, 60⟩)]}} 2
      9 7 0 9 0) 2 = false) ∧ ((unlockItems (cmd {quickset with aut := {quickset.aut with locks := [(0, ⟨5, 3, 1, 0, 60⟩)]}}
      2 9 7 0 9 0) (⟨9, 0, 7, 0, 4096, 9, 0⟩ : Desc).p0).isEmpty = false)) ∧
    ((Waiting (cmd quickset 2 9 7 0 8 0) 2 0x09 (7 : Nat) (⟨9, 0, 7, 0, 4096, 8, 0⟩ : Desc)) ∧ (hollyPermits (cmd
      quickset 2 9 7 0 8 0) = true) ∧ ((cmd quickset 2 9 7 0 8 0).nvwp = false) ∧ (nvBusy (cmd quickset 2 9 7 0 8 0) 2
      = false) ∧ ((unlockItems (cmd quickset 2 9 7 0 8 0) (⟨9, 0, 7, 0, 4096, 8, 0⟩ : Desc).p0).isEmpty = true)) ∧
    ((Waiting (cmd quickset 2 10 7 32 0 0) 2 0x0A (7 : Nat) (⟨10, 0, 7, 32, 4096, 0, 0⟩ : Desc)) ∧ ((⟨10, 0, 7, 32,
      4096, 0, 0⟩ : Desc).len = 32) ∧ (hollyPermits (cmd quickset 2 10 7 32 0 0) = true)) := by
  refine ⟨?_, ?_, ?_, ?_, ?_, ?_, ?_, ?_, ?_, ?_, ?_, ?_, ?_, ?_, ?_⟩ <;> decide +kernel

theorem witness_LockOuts :
    ((({quickset with aut := {quickset.aut with pendingSet := some HollySet.empty}, statCells := [(Reg.pwrStatusRtcValid.key, 1)]}
      : State).aut.pendingSet = some (HollySet.empty : HollySet)) ∧ (({quickset with aut := {quickset.aut with pendingSet := some HollySet.empty}, statCells := [(Reg.pwrStatusRtcValid.key, 1)]}
      : State).rtcSet = true) ∧ ((HollySet.empty : HollySet).time ≤ ({quickset with aut := {quickset.aut with pendingSet := some HollySet.empty}, statCells := [(Reg.pwrStatusRtcValid.key, 1)]}
      : State).rtc) ∧ (hollyWriting ({quickset with aut := {quickset.aut with pendingSet := some HollySet.empty}, statCells := [(Reg.pwrStatusRtcValid.key, 1)]}
      : State) = false)) ∧
    ((({quickset with aut := {quickset.aut with pendingSet := some HollySet.empty}} : State).aut.pendingSet = some
      (HollySet.empty : HollySet)) ∧ (({quickset with aut := {quickset.aut with pendingSet := some HollySet.empty}} :
      State).rtcSet = false)) ∧
    ((rolesThere (up) (.lockoutEnd (3 : Nat)) = true)) ∧
    ((rolesThere (up) (.unknownLockoutEnd) = true)) ∧
    ((rolesThere ({quickset with aut := {quickset.aut with locksChanged := true}} : State) (.lockoutCheckpoint) =
      true) ∧ (({quickset with aut := {quickset.aut with locksChanged := true}} : State).aut.locksChanged = true)) := by
  refine ⟨?_, ?_, ?_, ?_, ?_⟩ <;> decide +kernel

theorem witness_SessionEndsAndOutputs :
    (((1 : Nat) < 2) ∧ (bitAt ({up with rel := {up.rel with relA := 2}} : State).rel.relA (1 : Nat) = true) ∧
      (groupReleased ({up with rel := {up.rel with relA := 2}} : State) (1 : Nat) = false)) ∧
    (((0 : Nat) < 2) ∧ (bitAt ({up with rel := {up.rel with sessions := [(0, {SessionEntry.free with phase := .open, number := 1})]}}
      : State).rel.relA (0 : Nat) = false) ∧ (groupReleased ({up with rel := {up.rel with sessions := [(0, {SessionEntry.free with phase := .open, number := 1})]}}
      : State) (0 : Nat) = true)) ∧
    (((0 : Nat) < 2) ∧ (bitAt ({up with rel := {up.rel with relA := 1, latch := [(0, 0, 0)], sessions := [(0, {SessionEntry.free with phase := .open, number := 1})]}}
      : State).rel.relA (0 : Nat) = true) ∧ (groupReleased ({up with rel := {up.rel with relA := 1, latch := [(0, 0, 0)], sessions := [(0, {SessionEntry.free with phase := .open, number := 1})]}}
      : State) (0 : Nat) = true) ∧ (({up with rel := {up.rel with relA := 1, latch := [(0, 0, 0)], sessions := [(0, {SessionEntry.free with phase := .open, number := 1})]}}
      : State).rel.latch.any (fun l => l.2.2 == (0 : Nat)) = true)) ∧
    ((rolesThere (up) (.grantAnswerTimeout (0 : Nat) (1 : Nat)) = true)) ∧
    (((7 : Nat) < 8) ∧ ((({up with rel := {up.rel with sessions := [(7, {SessionEntry.free with phase := .open, number := 1})]}}
      : State).sess (7 : Nat)).phase = .open)) ∧
    (((0 : Nat) < 8) ∧ ((({up with rel := {up.rel with sessions := [(0, {SessionEntry.free with phase := .holding, number := 1})]}}
      : State).sess (0 : Nat)).phase = .holding)) ∧
    ((rolesThere ({up with rel := {up.rel with holdBlock := (0, 80)}} : State) (.holdSample) = true) ∧ (80 ≤ ({up with rel := {up.rel with holdBlock := (0, 80)}}
      : State).rel.holdBlock.2) ∧ (holdHigh { ({up with rel := {up.rel with holdBlock := (0, 80)}} : State) with rel := { ({up with rel := {up.rel with holdBlock := (0, 80)}} : State).rel with hold := (({up with rel := {up.rel with holdBlock := (0, 80)}} : State).rel.holdBlock.1 / ({up with rel := {up.rel with holdBlock := (0, 80)}} : State).rel.holdBlock.2, pairUsable ({up with rel := {up.rel with holdBlock := (0, 80)}} : State) false), holdBlock := (0, 0) } }
      = false)) ∧
    ((({up with rel := {up.rel with queue := [⟨0, 9, 1, false, none, 0, none, 0, 0⟩]}} : State).rel.queue[(0 : Nat)]?
      = some (⟨0, 9, 1, false, none, 0, none, 0, 0⟩ : OpenReq))) ∧
    ((({up with mode := .failed, pwr := {up.pwr with graceEnd := some 5}} : State).mode = .failed) ∧ (({up with mode := .failed, pwr := {up.pwr with graceEnd := some 5}}
      : State).pwr.graceEnd.isSome = true)) ∧
    ((rolesThere ({up with nvs := {up.nvs with queue := [⟨[], true, .sessionCeiling 65⟩]}} : State)
      (.sessionCeilingCommit (true : Bool)) = true) ∧ (({up with nvs := {up.nvs with queue := [⟨[], true, .sessionCeiling 65⟩]}}
      : State).nvs.queue = (⟨[], true, .sessionCeiling 65⟩ : NvReq) :: ([] : List NvReq)) ∧ ((⟨[], true,
      .sessionCeiling 65⟩ : NvReq).eff = .sessionCeiling (65 : Nat))) ∧
    ((((up).mode == .running || (up).mode == .failed) = true) ∧ ((up).pwr.deep = none)) ∧
    (((0 : Nat) < 2) ∧ (rbEnabled (({up with rel := {up.rel with relA := 1, rb := [(0, {Readback.reset with mismatch := some 1})]}}).setForce
      Reg.relRbEn0 1) (0 : Nat) = true) ∧ (((({up with rel := {up.rel with relA := 1, rb := [(0, {Readback.reset with mismatch := some 1})]}}).setForce
      Reg.relRbEn0 1).readback (0 : Nat)).mismatch.isSome = true) ∧ (bitAt (({up with rel := {up.rel with relA := 1, rb := [(0, {Readback.reset with mismatch := some 1})]}}).setForce
      Reg.relRbEn0 1).rel.relA (0 : Nat) = true)) ∧
    (((1 : Nat) < 2) ∧ (rbEnabled (({up with rel := {up.rel with rb := [(1, {Readback.reset with mismatch := some 1})]}}).setForce
      Reg.relRbEn1 1) (1 : Nat) = true) ∧ (((({up with rel := {up.rel with rb := [(1, {Readback.reset with mismatch := some 1})]}}).setForce
      Reg.relRbEn1 1).readback (1 : Nat)).mismatch.isSome = true) ∧ (bitAt (({up with rel := {up.rel with rb := [(1, {Readback.reset with mismatch := some 1})]}}).setForce
      Reg.relRbEn1 1).rel.relA (1 : Nat) = false)) ∧
    (((1 : Nat) < 2) ∧ ((up).mode = .running)) := by
  refine ⟨?_, ?_, ?_, ?_, ?_, ?_, ?_, ?_, ?_, ?_, ?_, ?_, ?_, ?_⟩ <;> decide +kernel

theorem witness_ReleaseFrames :
    ((rolesThere (paired) (.releaseGrant (1090 : Nat) (1088 : Nat) (0 : Nat) (grantFrame 0x01 40 (zeroBytes 32) :
      Bytes)) = true) ∧ ((paired).mode = .running) ∧ (fabricSlot (paired) = some (4 : Nat)) ∧ (releaseFrameOk (useSlot
      (paired) (4 : Nat)) (1090 : Nat) (1088 : Nat) (0 : Nat) 0x01 40 (grantFrame 0x01 40 (zeroBytes 32) : Bytes) =
      true)) ∧
    ((rolesThere (up) (.releaseGrant (1090 : Nat) (1088 : Nat) (0 : Nat) ([] : Bytes)) = true) ∧ ((up).mode =
      .running) ∧ (fabricSlot (up) = none)) ∧
    ((rolesThere (paired) (.releaseGrant (1090 : Nat) (1088 : Nat) (0 : Nat) ([] : Bytes)) = true) ∧ ((paired).mode =
      .running) ∧ (fabricSlot (paired) = some (4 : Nat)) ∧ (releaseFrameOk (useSlot (paired) (4 : Nat)) (1090 : Nat)
      (1088 : Nat) (0 : Nat) 0x01 40 ([] : Bytes) = false)) ∧
    ((rolesThere (paired) (.grantAnswer (1090 : Nat) (1088 : Nat) (0 : Nat) ([] : Bytes)) = true) ∧ ((paired).mode =
      .running) ∧ (fabricSlot (paired) = some (4 : Nat)) ∧ (releaseFrameOk (useSlot (paired) (4 : Nat)) (1090 : Nat)
      (1088 : Nat) (0 : Nat) 0x02 24 ([] : Bytes) = false)) ∧
    ((rolesThere (paired) (.sessionEnd (1090 : Nat) (1088 : Nat) (0 : Nat) ([] : Bytes)) = true) ∧ ((paired).mode =
      .running) ∧ (fabricSlot (paired) = some (4 : Nat)) ∧ (releaseFrameOk (useSlot (paired) (4 : Nat)) (1090 : Nat)
      (1088 : Nat) (0 : Nat) 0x03 32 ([] : Bytes) = false)) ∧
    ((rolesThere ({paired with rel := {paired.rel with sent := [⟨0, 1090, 0, 9, 1, none, 0, false⟩]}} : State)
      (.grantAnswer (1090 : Nat) (1088 : Nat) (0 : Nat) (grantFrame 0x02 24 (zeroBytes 16) : Bytes)) = true) ∧
      (({paired with rel := {paired.rel with sent := [⟨0, 1090, 0, 9, 1, none, 0, false⟩]}} : State).mode = .running)
      ∧ (fabricSlot ({paired with rel := {paired.rel with sent := [⟨0, 1090, 0, 9, 1, none, 0, false⟩]}} : State) =
      some (4 : Nat)) ∧ (releaseFrameOk (useSlot ({paired with rel := {paired.rel with sent := [⟨0, 1090, 0, 9, 1, none, 0, false⟩]}}
      : State) (4 : Nat)) (1090 : Nat) (1088 : Nat) (0 : Nat) 0x02 24 (grantFrame 0x02 24 (zeroBytes 16) : Bytes) =
      true) ∧ ((seqAccept (useSlot ({paired with rel := {paired.rel with sent := [⟨0, 1090, 0, 9, 1, none, 0, false⟩]}}
      : State) (4 : Nat)) (1090 : Nat) clsRelease (0 : Nat)).rel.sent.find? (fun x => x.reqNo == beAt (grantFrame 0x02
      24 (zeroBytes 16) : Bytes) 2 2 && x.owner == (1090 : Nat) && x.group == byteAt (grantFrame 0x02 24 (zeroBytes
      16) : Bytes) 1 % 2) = some (⟨0, 1090, 0, 9, 1, none, 0, false⟩ : SentGrant)) ∧ (answerOf (grantFrame 0x02 24
      (zeroBytes 16) : Bytes) = some (.opened 0 : Answer))) ∧
    ((rolesThere ({paired with rel := {paired.rel with sessions := [(0, {SessionEntry.free with phase := .open, peer := some 1090})]}}
      : State) (.sessionEnd (1090 : Nat) (1088 : Nat) (0 : Nat) (grantFrame 0x03 32 (zeroBytes 24) : Bytes)) = true) ∧
      (({paired with rel := {paired.rel with sessions := [(0, {SessionEntry.free with phase := .open, peer := some 1090})]}}
      : State).mode = .running) ∧ (fabricSlot ({paired with rel := {paired.rel with sessions := [(0, {SessionEntry.free with phase := .open, peer := some 1090})]}}
      : State) = some (4 : Nat)) ∧ (releaseFrameOk (useSlot ({paired with rel := {paired.rel with sessions := [(0, {SessionEntry.free with phase := .open, peer := some 1090})]}}
      : State) (4 : Nat)) (1090 : Nat) (1088 : Nat) (0 : Nat) 0x03 32 (grantFrame 0x03 32 (zeroBytes 24) : Bytes) =
      true) ∧ (findSess (seqAccept (useSlot ({paired with rel := {paired.rel with sessions := [(0, {SessionEntry.free with phase := .open, peer := some 1090})]}}
      : State) (4 : Nat)) (1090 : Nat) clsRelease (0 : Nat)) (fun e => e.live && e.number == beAt (grantFrame 0x03 32
      (zeroBytes 24) : Bytes) 10 4 && e.id == beAt (grantFrame 0x03 32 (zeroBytes 24) : Bytes) 14 8 && e.peer == some
      (1090 : Nat)) = some (0 : Nat))) := by
  refine ⟨?_, ?_, ?_, ?_, ?_, ?_, ?_⟩ <;> decide +kernel

theorem witness_ReleaseRing :
    ((Waiting (cmd up 1 1 7 32 0 0) 1 0x01 (7 : Nat) (⟨1, 0, 7, 32, 4096, 0, 0⟩ : Desc)) ∧ (32 ≤ (⟨1, 0, 7, 32, 4096,
      0, 0⟩ : Desc).len)) ∧
    ((Waiting (cmd up 1 2 7 256 0 0) 1 0x02 (7 : Nat) (⟨2, 0, 7, 256, 4096, 0, 0⟩ : Desc)) ∧ ((⟨2, 0, 7, 256, 4096,
      0, 0⟩ : Desc).len = 256)) ∧
    ((Waiting (cmd {up with rel := {up.rel with sessions := [(0, {SessionEntry.free with phase := .open, number := 1})]}}
      1 3 7 0 1 0) 1 0x03 (7 : Nat) (⟨3, 0, 7, 0, 4096, 1, 0⟩ : Desc)) ∧ ((⟨3, 0, 7, 0, 4096, 1, 0⟩ : Desc).p0 < 2 ^
      32) ∧ ((⟨3, 0, 7, 0, 4096, 1, 0⟩ : Desc).p1 < 2) ∧ (findSess (auditCmd (cmd {up with rel := {up.rel with sessions := [(0, {SessionEntry.free with phase := .open, number := 1})]}}
      1 3 7 0 1 0) 1 0x03 (⟨3, 0, 7, 0, 4096, 1, 0⟩ : Desc).p0) (fun e => e.live && e.number == (⟨3, 0, 7, 0, 4096, 1,
      0⟩ : Desc).p0) = some (0 : Nat))) ∧
    ((Waiting (cmd up 1 3 7 0 1 0) 1 0x03 (7 : Nat) (⟨3, 0, 7, 0, 4096, 1, 0⟩ : Desc)) ∧ ((⟨3, 0, 7, 0, 4096, 1, 0⟩ :
      Desc).p0 < 2 ^ 32) ∧ ((⟨3, 0, 7, 0, 4096, 1, 0⟩ : Desc).p1 < 2) ∧ (findSess (auditCmd (cmd up 1 3 7 0 1 0) 1
      0x03 (⟨3, 0, 7, 0, 4096, 1, 0⟩ : Desc).p0) (fun e => e.live && e.number == (⟨3, 0, 7, 0, 4096, 1, 0⟩ : Desc).p0)
      = none)) ∧
    ((Waiting (cmd up 1 4 7 0 1 1) 1 0x04 (7 : Nat) (⟨4, 0, 7, 0, 4096, 1, 1⟩ : Desc)) ∧ ((⟨4, 0, 7, 0, 4096, 1, 1⟩ :
      Desc).p0 < 2) ∧ ((⟨4, 0, 7, 0, 4096, 1, 1⟩ : Desc).p1 < 2)) ∧
    ((Waiting (cmd {up with rel := {up.rel with sessions := [(0, {SessionEntry.free with phase := .open, number := 1})]}}
      1 5 7 0 1 86400) 1 0x05 (7 : Nat) (⟨5, 0, 7, 0, 4096, 1, 86400⟩ : Desc)) ∧ ((⟨5, 0, 7, 0, 4096, 1, 86400⟩ :
      Desc).p0 < 2 ^ 32) ∧ (1 ≤ (⟨5, 0, 7, 0, 4096, 1, 86400⟩ : Desc).p1) ∧ ((⟨5, 0, 7, 0, 4096, 1, 86400⟩ : Desc).p1
      ≤ 86400) ∧ (findSess (auditCmd (cmd {up with rel := {up.rel with sessions := [(0, {SessionEntry.free with phase := .open, number := 1})]}}
      1 5 7 0 1 86400) 1 0x05 (⟨5, 0, 7, 0, 4096, 1, 86400⟩ : Desc).p0) (fun e => e.phase == .open && e.number == (⟨5,
      0, 7, 0, 4096, 1, 86400⟩ : Desc).p0) = some (0 : Nat))) ∧
    ((Waiting (cmd up 1 5 7 0 1 86400) 1 0x05 (7 : Nat) (⟨5, 0, 7, 0, 4096, 1, 86400⟩ : Desc)) ∧ ((⟨5, 0, 7, 0, 4096,
      1, 86400⟩ : Desc).p0 < 2 ^ 32) ∧ (1 ≤ (⟨5, 0, 7, 0, 4096, 1, 86400⟩ : Desc).p1) ∧ ((⟨5, 0, 7, 0, 4096, 1, 86400⟩
      : Desc).p1 ≤ 86400) ∧ (findSess (auditCmd (cmd up 1 5 7 0 1 86400) 1 0x05 (⟨5, 0, 7, 0, 4096, 1, 86400⟩ :
      Desc).p0) (fun e => e.phase == .open && e.number == (⟨5, 0, 7, 0, 4096, 1, 86400⟩ : Desc).p0) = none)) ∧
    ((rolesThere (cmd ((paired.setForce (relRouteEn 1) 1).setForce (relRouteRemote 1) 1) 1 6 7 0 1 0) (.endRemote (7
      : Nat)) = true) ∧ (Waiting (cmd ((paired.setForce (relRouteEn 1) 1).setForce (relRouteRemote 1) 1) 1 6 7 0 1 0)
      1 0x06 (7 : Nat) (⟨6, 0, 7, 0, 4096, 1, 0⟩ : Desc)) ∧ ((⟨6, 0, 7, 0, 4096, 1, 0⟩ : Desc).len = 0) ∧ ((⟨6, 0, 7,
      0, 4096, 1, 0⟩ : Desc).p1 < 64) ∧ ((⟨6, 0, 7, 0, 4096, 1, 0⟩ : Desc).p0 < 2 ^ 32) ∧ (routeTo (auditCmd (cmd
      ((paired.setForce (relRouteEn 1) 1).setForce (relRouteRemote 1) 1) 1 6 7 0 1 0) 1 0x06 (⟨6, 0, 7, 0, 4096, 1, 0⟩
      : Desc).addr) (⟨6, 0, 7, 0, 4096, 1, 0⟩ : Desc).p1 = some (1 : Nat)) ∧ (fabricSlot (auditCmd (cmd
      ((paired.setForce (relRouteEn 1) 1).setForce (relRouteRemote 1) 1) 1 6 7 0 1 0) 1 0x06 (⟨6, 0, 7, 0, 4096, 1, 0⟩
      : Desc).addr) = some (4 : Nat))) ∧
    ((rolesThere (cmd up 1 6 7 0 1 0) (.endRemote (7 : Nat)) = true) ∧ (Waiting (cmd up 1 6 7 0 1 0) 1 0x06 (7 : Nat)
      (⟨6, 0, 7, 0, 4096, 1, 0⟩ : Desc)) ∧ ((⟨6, 0, 7, 0, 4096, 1, 0⟩ : Desc).len = 0) ∧ ((⟨6, 0, 7, 0, 4096, 1, 0⟩ :
      Desc).p1 < 64) ∧ ((⟨6, 0, 7, 0, 4096, 1, 0⟩ : Desc).p0 < 2 ^ 32) ∧ (routeTo (auditCmd (cmd up 1 6 7 0 1 0) 1
      0x06 (⟨6, 0, 7, 0, 4096, 1, 0⟩ : Desc).addr) (⟨6, 0, 7, 0, 4096, 1, 0⟩ : Desc).p1 = none)) := by
  refine ⟨?_, ?_, ?_, ?_, ?_, ?_, ?_, ?_, ?_⟩ <;> decide +kernel

theorem witness_MeterSamples :
    ((rolesThere (up.setForce Reg.mtrCtrlEn 0) (.decimatorResult ([0, 0, 0, 0] : List Int) ([false, false, false,
      false] : List Bool)) = true) ∧ (meterRuns (up.setForce Reg.mtrCtrlEn 0) = true) ∧ (([0, 0, 0, 0] : List
      Int).length = 4) ∧ (([false, false, false, false] : List Bool).length = 4) ∧ ((meterChannels (up.setForce
      Reg.mtrCtrlEn 0) (meterCodes (up.setForce Reg.mtrCtrlEn 0) ([0, 0, 0, 0] : List Int)) ([false, false, false,
      false] : List Bool)).on Reg.mtrCtrlEn = false)) ∧
    ((rolesThere ((metering up).setForce Reg.mtrCtrlEn 1) (.decimatorResult ([1000, 1000, 1000, 1000] : List Int)
      ([false, false, false, false] : List Bool)) = true) ∧ (meterRuns ((metering up).setForce Reg.mtrCtrlEn 1) =
      true) ∧ (([1000, 1000, 1000, 1000] : List Int).length = 4) ∧ (([false, false, false, false] : List Bool).length
      = 4) ∧ ((meterChannels ((metering up).setForce Reg.mtrCtrlEn 1) (meterCodes ((metering up).setForce
      Reg.mtrCtrlEn 1) ([1000, 1000, 1000, 1000] : List Int)) ([false, false, false, false] : List Bool)).on
      Reg.mtrCtrlEn = true)) ∧
    ((rolesThere ({up with mtr := {up.mtr with chans := [(3, {Channel.reset with usable := false})]}} : State)
      (.channelUsableReturn (3 : Nat)) = true) ∧ ((3 : Nat) < 4) ∧ ((({up with mtr := {up.mtr with chans := [(3, {Channel.reset with usable := false})]}}
      : State).mchan (3 : Nat)).usable = false) ∧ ((({up with mtr := {up.mtr with chans := [(3, {Channel.reset with usable := false})]}}
      : State).mchan (3 : Nat)).still = false) ∧ ((({up with mtr := {up.mtr with chans := [(3, {Channel.reset with usable := false})]}}
      : State).mchan (3 : Nat)).satRun < 16)) ∧
    ((rolesThere (({up with mtr := {up.mtr with window := {XchkWindow.reset with count := 10}}}).setForce
      Reg.mtrCtrlXchkEn 0) (.xchkWindowEnd) = true) ∧ (((fun (s : State) => (({ s with mtr := { s.mtr with window := XchkWindow.reset } }.setStat
      Reg.mtrPwr (unsignedOf 32 (divRound s.mtr.window.powSrc (1000000 * s.mtr.window.count)))).setStat Reg.mtrCurr
      (unsignedOf 32 (divRound s.mtr.window.curSrc (100 * s.mtr.window.count))))) (({up with mtr := {up.mtr with window := {XchkWindow.reset with count := 10}}}).setForce
      Reg.mtrCtrlXchkEn 0)) = (({ (({up with mtr := {up.mtr with window := {XchkWindow.reset with count := 10}}}).setForce Reg.mtrCtrlXchkEn 0) with mtr := { (({up with mtr := {up.mtr with window := {XchkWindow.reset with count := 10}}}).setForce Reg.mtrCtrlXchkEn 0).mtr with window := XchkWindow.reset } }.setStat
      Reg.mtrPwr (unsignedOf 32 (divRound (({up with mtr := {up.mtr with window := {XchkWindow.reset with count := 10}}}).setForce
      Reg.mtrCtrlXchkEn 0).mtr.window.powSrc (1000000 * (({up with mtr := {up.mtr with window := {XchkWindow.reset with count := 10}}}).setForce
      Reg.mtrCtrlXchkEn 0).mtr.window.count)))).setStat Reg.mtrCurr (unsignedOf 32 (divRound (({up with mtr := {up.mtr with window := {XchkWindow.reset with count := 10}}}).setForce
      Reg.mtrCtrlXchkEn 0).mtr.window.curSrc (100 * (({up with mtr := {up.mtr with window := {XchkWindow.reset with count := 10}}}).setForce
      Reg.mtrCtrlXchkEn 0).mtr.window.count))))) ∧ (0 < (({up with mtr := {up.mtr with window := {XchkWindow.reset with count := 10}}}).setForce
      Reg.mtrCtrlXchkEn 0).mtr.window.count) ∧ (((fun (s : State) => (({ s with mtr := { s.mtr with window := XchkWindow.reset } }.setStat
      Reg.mtrPwr (unsignedOf 32 (divRound s.mtr.window.powSrc (1000000 * s.mtr.window.count)))).setStat Reg.mtrCurr
      (unsignedOf 32 (divRound s.mtr.window.curSrc (100 * s.mtr.window.count))))) (({up with mtr := {up.mtr with window := {XchkWindow.reset with count := 10}}}).setForce
      Reg.mtrCtrlXchkEn 0)).on Reg.mtrCtrlXchkEn = false)) ∧
    ((rolesThere (({up with mtr := {up.mtr with window := {XchkWindow.reset with count := 10, bad := true}}}).setForce
      Reg.mtrCtrlXchkEn 1) (.xchkWindowEnd) = true) ∧ (((fun (s : State) => (({ s with mtr := { s.mtr with window := XchkWindow.reset } }.setStat
      Reg.mtrPwr (unsignedOf 32 (divRound s.mtr.window.powSrc (1000000 * s.mtr.window.count)))).setStat Reg.mtrCurr
      (unsignedOf 32 (divRound s.mtr.window.curSrc (100 * s.mtr.window.count))))) (({up with mtr := {up.mtr with window := {XchkWindow.reset with count := 10, bad := true}}}).setForce
      Reg.mtrCtrlXchkEn 1)) = (({ (({up with mtr := {up.mtr with window := {XchkWindow.reset with count := 10, bad := true}}}).setForce Reg.mtrCtrlXchkEn 1) with mtr := { (({up with mtr := {up.mtr with window := {XchkWindow.reset with count := 10, bad := true}}}).setForce Reg.mtrCtrlXchkEn 1).mtr with window := XchkWindow.reset } }.setStat
      Reg.mtrPwr (unsignedOf 32 (divRound (({up with mtr := {up.mtr with window := {XchkWindow.reset with count := 10, bad := true}}}).setForce
      Reg.mtrCtrlXchkEn 1).mtr.window.powSrc (1000000 * (({up with mtr := {up.mtr with window := {XchkWindow.reset with count := 10, bad := true}}}).setForce
      Reg.mtrCtrlXchkEn 1).mtr.window.count)))).setStat Reg.mtrCurr (unsignedOf 32 (divRound (({up with mtr := {up.mtr with window := {XchkWindow.reset with count := 10, bad := true}}}).setForce
      Reg.mtrCtrlXchkEn 1).mtr.window.curSrc (100 * (({up with mtr := {up.mtr with window := {XchkWindow.reset with count := 10, bad := true}}}).setForce
      Reg.mtrCtrlXchkEn 1).mtr.window.count))))) ∧ (0 < (({up with mtr := {up.mtr with window := {XchkWindow.reset with count := 10, bad := true}}}).setForce
      Reg.mtrCtrlXchkEn 1).mtr.window.count) ∧ (((fun (s : State) => (({ s with mtr := { s.mtr with window := XchkWindow.reset } }.setStat
      Reg.mtrPwr (unsignedOf 32 (divRound s.mtr.window.powSrc (1000000 * s.mtr.window.count)))).setStat Reg.mtrCurr
      (unsignedOf 32 (divRound s.mtr.window.curSrc (100 * s.mtr.window.count))))) (({up with mtr := {up.mtr with window := {XchkWindow.reset with count := 10, bad := true}}}).setForce
      Reg.mtrCtrlXchkEn 1)).on Reg.mtrCtrlXchkEn = true) ∧ (((({up with mtr := {up.mtr with window := {XchkWindow.reset with count := 10, bad := true}}}).setForce
      Reg.mtrCtrlXchkEn 1).mtr.window.bad || ((fun (s : State) => (({ s with mtr := { s.mtr with window := XchkWindow.reset } }.setStat
      Reg.mtrPwr (unsignedOf 32 (divRound s.mtr.window.powSrc (1000000 * s.mtr.window.count)))).setStat Reg.mtrCurr
      (unsignedOf 32 (divRound s.mtr.window.curSrc (100 * s.mtr.window.count))))) (({up with mtr := {up.mtr with window := {XchkWindow.reset with count := 10, bad := true}}}).setForce
      Reg.mtrCtrlXchkEn 1)).eff Reg.mtrXchkDev < windowDeviation ((fun (s : State) => (({ s with mtr := { s.mtr with window := XchkWindow.reset } }.setStat
      Reg.mtrPwr (unsignedOf 32 (divRound s.mtr.window.powSrc (1000000 * s.mtr.window.count)))).setStat Reg.mtrCurr
      (unsignedOf 32 (divRound s.mtr.window.curSrc (100 * s.mtr.window.count))))) (({up with mtr := {up.mtr with window := {XchkWindow.reset with count := 10, bad := true}}}).setForce
      Reg.mtrCtrlXchkEn 1)) (({up with mtr := {up.mtr with window := {XchkWindow.reset with count := 10, bad := true}}}).setForce
      Reg.mtrCtrlXchkEn 1).mtr.window) = true)) ∧
    ((rolesThere (({up with mtr := {up.mtr with window := {XchkWindow.reset with count := 10}}}).setForce
      Reg.mtrCtrlXchkEn 1) (.xchkWindowEnd) = true) ∧ (((fun (s : State) => (({ s with mtr := { s.mtr with window := XchkWindow.reset } }.setStat
      Reg.mtrPwr (unsignedOf 32 (divRound s.mtr.window.powSrc (1000000 * s.mtr.window.count)))).setStat Reg.mtrCurr
      (unsignedOf 32 (divRound s.mtr.window.curSrc (100 * s.mtr.window.count))))) (({up with mtr := {up.mtr with window := {XchkWindow.reset with count := 10}}}).setForce
      Reg.mtrCtrlXchkEn 1)) = (({ (({up with mtr := {up.mtr with window := {XchkWindow.reset with count := 10}}}).setForce Reg.mtrCtrlXchkEn 1) with mtr := { (({up with mtr := {up.mtr with window := {XchkWindow.reset with count := 10}}}).setForce Reg.mtrCtrlXchkEn 1).mtr with window := XchkWindow.reset } }.setStat
      Reg.mtrPwr (unsignedOf 32 (divRound (({up with mtr := {up.mtr with window := {XchkWindow.reset with count := 10}}}).setForce
      Reg.mtrCtrlXchkEn 1).mtr.window.powSrc (1000000 * (({up with mtr := {up.mtr with window := {XchkWindow.reset with count := 10}}}).setForce
      Reg.mtrCtrlXchkEn 1).mtr.window.count)))).setStat Reg.mtrCurr (unsignedOf 32 (divRound (({up with mtr := {up.mtr with window := {XchkWindow.reset with count := 10}}}).setForce
      Reg.mtrCtrlXchkEn 1).mtr.window.curSrc (100 * (({up with mtr := {up.mtr with window := {XchkWindow.reset with count := 10}}}).setForce
      Reg.mtrCtrlXchkEn 1).mtr.window.count))))) ∧ (0 < (({up with mtr := {up.mtr with window := {XchkWindow.reset with count := 10}}}).setForce
      Reg.mtrCtrlXchkEn 1).mtr.window.count) ∧ (((fun (s : State) => (({ s with mtr := { s.mtr with window := XchkWindow.reset } }.setStat
      Reg.mtrPwr (unsignedOf 32 (divRound s.mtr.window.powSrc (1000000 * s.mtr.window.count)))).setStat Reg.mtrCurr
      (unsignedOf 32 (divRound s.mtr.window.curSrc (100 * s.mtr.window.count))))) (({up with mtr := {up.mtr with window := {XchkWindow.reset with count := 10}}}).setForce
      Reg.mtrCtrlXchkEn 1)).on Reg.mtrCtrlXchkEn = true) ∧ (((({up with mtr := {up.mtr with window := {XchkWindow.reset with count := 10}}}).setForce
      Reg.mtrCtrlXchkEn 1).mtr.window.bad || ((fun (s : State) => (({ s with mtr := { s.mtr with window := XchkWindow.reset } }.setStat
      Reg.mtrPwr (unsignedOf 32 (divRound s.mtr.window.powSrc (1000000 * s.mtr.window.count)))).setStat Reg.mtrCurr
      (unsignedOf 32 (divRound s.mtr.window.curSrc (100 * s.mtr.window.count))))) (({up with mtr := {up.mtr with window := {XchkWindow.reset with count := 10}}}).setForce
      Reg.mtrCtrlXchkEn 1)).eff Reg.mtrXchkDev < windowDeviation ((fun (s : State) => (({ s with mtr := { s.mtr with window := XchkWindow.reset } }.setStat
      Reg.mtrPwr (unsignedOf 32 (divRound s.mtr.window.powSrc (1000000 * s.mtr.window.count)))).setStat Reg.mtrCurr
      (unsignedOf 32 (divRound s.mtr.window.curSrc (100 * s.mtr.window.count))))) (({up with mtr := {up.mtr with window := {XchkWindow.reset with count := 10}}}).setForce
      Reg.mtrCtrlXchkEn 1)) (({up with mtr := {up.mtr with window := {XchkWindow.reset with count := 10}}}).setForce
      Reg.mtrCtrlXchkEn 1).mtr.window) = false)) ∧
    ((rolesThere ({up with mtr := {up.mtr with changed := true}} : State) (.meterCheckpoint) = true) ∧ ((({up with mtr := {up.mtr with changed := true}}
      : State).mode == .running || ({up with mtr := {up.mtr with changed := true}} : State).mode == .failed) = true) ∧
      (({up with mtr := {up.mtr with changed := true}} : State).mtr.changed = true) ∧ (nvWaits ({up with mtr := {up.mtr with changed := true}}
      : State) (· == .checkpoint) = false)) ∧
    ((rolesThere ({up with mtr := {up.mtr with settingsPending := true}} : State) (.meterSettingsApply) = true) ∧
      (({up with mtr := {up.mtr with settingsPending := true}} : State).mtr.settingsPending = true) ∧ (liveCount ({up with mtr := {up.mtr with settingsPending := true}}
      : State) = 0)) := by
  refine ⟨?_, ?_, ?_, ?_, ?_, ?_, ?_, ?_⟩ <;> decide +kernel

theorem witness_Receipts :
    ((rolesThere ({up with mtr := {up.mtr with due := [sessionDraft up SessionEntry.free 1]}} : State)
      (.receiptFormed) = true) ∧ ((up) = { ({up with mtr := {up.mtr with due := [sessionDraft up SessionEntry.free 1]}} : State) with mtr := { ({up with mtr := {up.mtr with due := [sessionDraft up SessionEntry.free 1]}} : State).mtr with due := ([] : List Draft) }, nvs := { ({up with mtr := {up.mtr with due := [sessionDraft up SessionEntry.free 1]}} : State).nvs with firstReceiptFlag := false } })
      ∧ (({up with mtr := {up.mtr with due := [sessionDraft up SessionEntry.free 1]}} : State).mtr.due = (sessionDraft
      up SessionEntry.free 1 : Draft) :: ([] : List Draft)) ∧ (({up with mtr := {up.mtr with due := [sessionDraft up SessionEntry.free 1]}}
      : State).roleThere 9 = true) ∧ (logFull (up) = false)) ∧
    ((rolesThere ({fullLog with mtr := {fullLog.mtr with due := [sessionDraft up SessionEntry.free 1]}} : State)
      (.receiptFormed) = true) ∧ ((fullLog) = { ({fullLog with mtr := {fullLog.mtr with due := [sessionDraft up SessionEntry.free 1]}} : State) with mtr := { ({fullLog with mtr := {fullLog.mtr with due := [sessionDraft up SessionEntry.free 1]}} : State).mtr with due := ([] : List Draft) }, nvs := { ({fullLog with mtr := {fullLog.mtr with due := [sessionDraft up SessionEntry.free 1]}} : State).nvs with firstReceiptFlag := false } })
      ∧ (({fullLog with mtr := {fullLog.mtr with due := [sessionDraft up SessionEntry.free 1]}} : State).mtr.due =
      (sessionDraft up SessionEntry.free 1 : Draft) :: ([] : List Draft)) ∧ (({fullLog with mtr := {fullLog.mtr with due := [sessionDraft up SessionEntry.free 1]}}
      : State).roleThere 9 = true) ∧ (logFull (fullLog) = true)) ∧
    ((rolesThere ({up with nvs := {up.nvs with queue := [⟨[dataItem .receipt 0x0200 (.receipt 1 [])], true, .receipt 1 []⟩]}}
      : State) (.receiptCommitted (true : Bool) (true : Bool)) = true) ∧ (({up with nvs := {up.nvs with queue := [⟨[dataItem .receipt 0x0200 (.receipt 1 [])], true, .receipt 1 []⟩]}}
      : State).nvs.queue = (⟨[dataItem .receipt 0x0200 (.receipt 1 [])], true, .receipt 1 []⟩ : NvReq) :: ([] : List
      NvReq)) ∧ ((⟨[dataItem .receipt 0x0200 (.receipt 1 [])], true, .receipt 1 []⟩ : NvReq).eff = .receipt (1 : Nat)
      ([] : Bytes)) ∧ ((⟨[dataItem .receipt 0x0200 (.receipt 1 [])], true, .receipt 1 []⟩ : NvReq).items = (dataItem
      .receipt 0x0200 (.receipt 1 []) : RecItem) :: ([] : List RecItem)) ∧ ((dataItem .receipt 0x0200 (.receipt 1 [])
      : RecItem).area = .receipt)) ∧
    ((rolesThere ({up with cip := {up.cip with slots := [(4, ⟨0, 0, 0x1F6C1, 0x400⟩)]}} : State) (.receiptKeyUsable)
      = true) ∧ ((receiptSlot ({up with cip := {up.cip with slots := [(4, ⟨0, 0, 0x1F6C1, 0x400⟩)]}} : State)).isSome
      = true)) ∧
    ((rolesThere (up) (.receiptCommitRetry) = true) ∧ ((up) = startReceipt (ackAgain (up))) ∧ (standing (up) 0x0142 =
      none) ∧ ((up).mtr.rollup = none)) ∧
    ((rolesThere ({up with mtr := {up.mtr with rollup := some (rollUpAdd none (sessionDraft up SessionEntry.free 1))}}
      : State) (.receiptCommitRetry) = true) ∧ (({up with mtr := {up.mtr with rollup := some (rollUpAdd none (sessionDraft up SessionEntry.free 1))}}
      : State) = startReceipt (ackAgain ({up with mtr := {up.mtr with rollup := some (rollUpAdd none (sessionDraft up SessionEntry.free 1))}}
      : State))) ∧ (standing ({up with mtr := {up.mtr with rollup := some (rollUpAdd none (sessionDraft up SessionEntry.free 1))}}
      : State) 0x0142 = none) ∧ (({up with mtr := {up.mtr with rollup := some (rollUpAdd none (sessionDraft up SessionEntry.free 1))}}
      : State).mtr.rollup.isSome = true) ∧ (({up with mtr := {up.mtr with rollup := some (rollUpAdd none (sessionDraft up SessionEntry.free 1))}}
      : State).nvs.queue.any (fun q => q.items.any (fun i => i.key == 0x0142)) = false)) ∧
    ((rolesThere (cmd up 6 1 7 112 0 0) (.receiptBuffer (7 : Nat)) = true) ∧ (Waiting (cmd up 6 1 7 112 0 0) 6 0x01
      (7 : Nat) (⟨1, 0, 7, 112, 4096, 0, 0⟩ : Desc)) ∧ (112 ≤ (⟨1, 0, 7, 112, 4096, 0, 0⟩ : Desc).len)) ∧
    ((rolesThere (cmd up 6 2 7 0 1 0) (.ack (7 : Nat)) = true) ∧ (Waiting (cmd up 6 2 7 0 1 0) 6 0x02 (7 : Nat) (⟨2,
      0, 7, 0, 4096, 1, 0⟩ : Desc)) ∧ ((cmd up 6 2 7 0 1 0).mtr.rcptNext ≤ (⟨2, 0, 7, 0, 4096, 1, 0⟩ : Desc).p0)) ∧
    ((rolesThere (cmd up 6 2 7 0 0 0) (.ack (7 : Nat)) = true) ∧ (Waiting (cmd up 6 2 7 0 0 0) 6 0x02 (7 : Nat) (⟨2,
      0, 7, 0, 4096, 0, 0⟩ : Desc)) ∧ ((⟨2, 0, 7, 0, 4096, 0, 0⟩ : Desc).p0 < (cmd up 6 2 7 0 0 0).mtr.rcptNext) ∧
      ((⟨2, 0, 7, 0, 4096, 0, 0⟩ : Desc).p0 ≤ (cmd up 6 2 7 0 0 0).mtr.rcptAck)) ∧
    ((rolesThere ({cmd up 6 2 7 0 1 0 with mtr := {up.mtr with rcptNext := 2}} : State) (.ack (7 : Nat)) = true) ∧
      (Waiting ({cmd up 6 2 7 0 1 0 with mtr := {up.mtr with rcptNext := 2}} : State) 6 0x02 (7 : Nat) (⟨2, 0, 7, 0,
      4096, 1, 0⟩ : Desc)) ∧ ((⟨2, 0, 7, 0, 4096, 1, 0⟩ : Desc).p0 < ({cmd up 6 2 7 0 1 0 with mtr := {up.mtr with rcptNext := 2}}
      : State).mtr.rcptNext) ∧ (({cmd up 6 2 7 0 1 0 with mtr := {up.mtr with rcptNext := 2}} : State).mtr.rcptAck <
      (⟨2, 0, 7, 0, 4096, 1, 0⟩ : Desc).p0) ∧ (nvBusy ({cmd up 6 2 7 0 1 0 with mtr := {up.mtr with rcptNext := 2}} :
      State) 6 = false)) ∧
    ((rolesThere ({cmd up 6 3 7 112 1 0 with mtr := {up.mtr with rcptNext := 2}, nvs := {up.nvs with recs := [⟨.receipt, 0, 16, false, 0x0200, 1, false, false, true, true, true, none, .receipt 1 (zeroBytes 12 ++ [1])⟩]}}
      : State) (.readReceipt (7 : Nat)) = true) ∧ (Waiting ({cmd up 6 3 7 112 1 0 with mtr := {up.mtr with rcptNext := 2}, nvs := {up.nvs with recs := [⟨.receipt, 0, 16, false, 0x0200, 1, false, false, true, true, true, none, .receipt 1 (zeroBytes 12 ++ [1])⟩]}}
      : State) 6 0x03 (7 : Nat) (⟨3, 0, 7, 112, 4096, 1, 0⟩ : Desc)) ∧ ((⟨3, 0, 7, 112, 4096, 1, 0⟩ : Desc).len = 112)
      ∧ (loggedReceipt ({cmd up 6 3 7 112 1 0 with mtr := {up.mtr with rcptNext := 2}, nvs := {up.nvs with recs := [⟨.receipt, 0, 16, false, 0x0200, 1, false, false, true, true, true, none, .receipt 1 (zeroBytes 12 ++ [1])⟩]}}
      : State) (⟨3, 0, 7, 112, 4096, 1, 0⟩ : Desc).p0 = some ((zeroBytes 12 ++ [1]) : Bytes)) ∧ (({cmd up 6 3 7 112 1 0 with mtr := {up.mtr with rcptNext := 2}, nvs := {up.nvs with recs := [⟨.receipt, 0, 16, false, 0x0200, 1, false, false, true, true, true, none, .receipt 1 (zeroBytes 12 ++ [1])⟩]}}
      : State).mtr.rcptAck < (⟨3, 0, 7, 112, 4096, 1, 0⟩ : Desc).p0) ∧ ((⟨3, 0, 7, 112, 4096, 1, 0⟩ : Desc).p0 < ({cmd up 6 3 7 112 1 0 with mtr := {up.mtr with rcptNext := 2}, nvs := {up.nvs with recs := [⟨.receipt, 0, 16, false, 0x0200, 1, false, false, true, true, true, none, .receipt 1 (zeroBytes 12 ++ [1])⟩]}}
      : State).mtr.rcptNext)) ∧
    ((rolesThere (cmd up 6 3 7 112 1 0) (.readReceipt (7 : Nat)) = true) ∧ (Waiting (cmd up 6 3 7 112 1 0) 6 0x03 (7
      : Nat) (⟨3, 0, 7, 112, 4096, 1, 0⟩ : Desc)) ∧ ((⟨3, 0, 7, 112, 4096, 1, 0⟩ : Desc).len = 112) ∧ (loggedReceipt
      (cmd up 6 3 7 112 1 0) (⟨3, 0, 7, 112, 4096, 1, 0⟩ : Desc).p0 = none)) ∧
    ((rolesThere ({cmd up 6 3 7 112 1 0 with mtr := {up.mtr with rcptNext := 2, rcptAck := 1}, nvs := {up.nvs with recs := [⟨.receipt, 0, 16, false, 0x0200, 1, false, false, true, true, true, none, .receipt 1 (zeroBytes 12 ++ [1])⟩]}}
      : State) (.readReceipt (7 : Nat)) = true) ∧ (Waiting ({cmd up 6 3 7 112 1 0 with mtr := {up.mtr with rcptNext := 2, rcptAck := 1}, nvs := {up.nvs with recs := [⟨.receipt, 0, 16, false, 0x0200, 1, false, false, true, true, true, none, .receipt 1 (zeroBytes 12 ++ [1])⟩]}}
      : State) 6 0x03 (7 : Nat) (⟨3, 0, 7, 112, 4096, 1, 0⟩ : Desc)) ∧ ((⟨3, 0, 7, 112, 4096, 1, 0⟩ : Desc).len = 112)
      ∧ (loggedReceipt ({cmd up 6 3 7 112 1 0 with mtr := {up.mtr with rcptNext := 2, rcptAck := 1}, nvs := {up.nvs with recs := [⟨.receipt, 0, 16, false, 0x0200, 1, false, false, true, true, true, none, .receipt 1 (zeroBytes 12 ++ [1])⟩]}}
      : State) (⟨3, 0, 7, 112, 4096, 1, 0⟩ : Desc).p0 = some ((zeroBytes 12 ++ [1]) : Bytes)) ∧ ((⟨3, 0, 7, 112, 4096,
      1, 0⟩ : Desc).p0 ≤ ({cmd up 6 3 7 112 1 0 with mtr := {up.mtr with rcptNext := 2, rcptAck := 1}, nvs := {up.nvs with recs := [⟨.receipt, 0, 16, false, 0x0200, 1, false, false, true, true, true, none, .receipt 1 (zeroBytes 12 ++ [1])⟩]}}
      : State).mtr.rcptAck)) ∧
    ((rolesThere (cmd up 6 4 7 32 0 0) (.counters (7 : Nat)) = true) ∧ (Waiting (cmd up 6 4 7 32 0 0) 6 0x04 (7 :
      Nat) (⟨4, 0, 7, 32, 4096, 0, 0⟩ : Desc)) ∧ ((⟨4, 0, 7, 32, 4096, 0, 0⟩ : Desc).len = 32)) ∧
    ((rolesThere (cmd up 6 5 7 16 0 0) (.rollNonce (7 : Nat)) = true) ∧ (Waiting (cmd up 6 5 7 16 0 0) 6 0x05 (7 :
      Nat) (⟨5, 0, 7, 16, 4096, 0, 0⟩ : Desc)) ∧ ((⟨5, 0, 7, 16, 4096, 0, 0⟩ : Desc).len = 16)) ∧
    ((rolesThere ({up with mtr := {up.mtr with rollNonce := some (3, true)}} : State) (.rollNonceExpiry) = true) ∧
      (({up with mtr := {up.mtr with rollNonce := some (3, true)}} : State).mtr.rollNonce = some ((3 : Nat), (true :
      Bool)))) ∧
    ((rolesThere (cmd up 6 6 7 16 2 0) (.rollover (7 : Nat) ([] : Bytes)) = true) ∧ (Waiting (cmd up 6 6 7 16 2 0) 6
      0x06 (7 : Nat) (⟨6, 0, 7, 16, 4096, 2, 0⟩ : Desc)) ∧ ((⟨6, 0, 7, 16, 4096, 2, 0⟩ : Desc).len = 16) ∧ ((⟨6, 0, 7,
      16, 4096, 2, 0⟩ : Desc).p0 < 2 ^ 16) ∧ ((cmd up 6 6 7 16 2 0).nvwp = false) ∧ (nvBusy (cmd up 6 6 7 16 2 0) 6 =
      false) ∧ (rollRefusal (cmd up 6 6 7 16 2 0) (⟨6, 0, 7, 16, 4096, 2, 0⟩ : Desc).p0 (padTo 16 ([] : Bytes)) = some
      (1 : Nat))) ∧
    ((rolesThere (rolling) (.rollover (7 : Nat) (rollMac : Bytes)) = true) ∧ (Waiting (rolling) 6 0x06 (7 : Nat) (⟨6,
      0, 7, 16, 4096, 2, 0⟩ : Desc)) ∧ ((⟨6, 0, 7, 16, 4096, 2, 0⟩ : Desc).len = 16) ∧ ((⟨6, 0, 7, 16, 4096, 2, 0⟩ :
      Desc).p0 < 2 ^ 16) ∧ ((rolling).nvwp = false) ∧ (nvBusy (rolling) 6 = false) ∧ (rollRefusal (rolling) (⟨6, 0, 7,
      16, 4096, 2, 0⟩ : Desc).p0 (padTo 16 (rollMac : Bytes)) = none)) ∧
    (((3 : Nat) < 4)) := by
  refine ⟨?_, ?_, ?_, ?_, ?_, ?_, ?_, ?_, ?_, ?_, ?_, ?_, ?_, ?_, ?_, ?_, ?_, ?_, ?_⟩ <;> decide +kernel

theorem witness_FabricLinks :
    ((rolesThere (up) (.idleSequenceRun (3 : Nat)) = true) ∧ (fabricRuns (up) = true) ∧ ((3 : Nat) < 4) ∧
      (portEnabled (up) (3 : Nat) = true)) ∧
    ((rolesThere (linked) (.helloSend (1 : Nat)) = true) ∧ (fabricRuns (linked) = true) ∧ ((1 : Nat) < 4) ∧
      (portEnabled (linked) (1 : Nat) = true) ∧ (((linked).port (1 : Nat)).sendsHello = true)) ∧
    ((rolesThere (linked) (.helloTimeout (0 : Nat)) = true) ∧ (fabricRuns (linked) = true) ∧ ((0 : Nat) < 2) ∧
      (portEnabled (linked) (0 : Nat) = true) ∧ (((linked).port (0 : Nat)).phase = .up) ∧ ((sendIdle ((stopTx linked
      0).setPort 0 { linked.port 0 with phase := .training, sendsHello := false, heard := false }) 0) = sendIdle
      ((stopTx (linked) (0 : Nat)).setPort (0 : Nat) { (linked).port (0 : Nat) with phase := .training, sendsHello := false, heard := false })
      (0 : Nat))) ∧
    ((rolesThere (linked) (.helloTimeout (3 : Nat)) = true) ∧ (fabricRuns (linked) = true) ∧ ((3 : Nat) < 4) ∧
      (portEnabled (linked) (3 : Nat) = true) ∧ ((((linked).port (3 : Nat)).phase == .up && decide ((3 : Nat) < 2)) =
      false)) ∧
    ((rolesThere (up) (.hello (3 : Nat) ([] : Bytes)) = true) ∧ (fabricRuns (up) = true) ∧ ((3 : Nat) < 4) ∧
      (portEnabled (up) (3 : Nat) = true) ∧ (frameOk ([] : Bytes) = false)) ∧
    ((rolesThere ({up with fab := {up.fab with ports := [(3, {Port.reset with sendsHello := true})]}} : State)
      (.hello (3 : Nat) (ctrlFrame 1090 1088 1 (zeroBytes 11 ++ [4] ++ zeroBytes 16) : Bytes)) = true) ∧ (fabricRuns
      ({up with fab := {up.fab with ports := [(3, {Port.reset with sendsHello := true})]}} : State) = true) ∧ ((3 :
      Nat) < 4) ∧ (portEnabled ({up with fab := {up.fab with ports := [(3, {Port.reset with sendsHello := true})]}} :
      State) (3 : Nat) = true) ∧ (frameOk (ctrlFrame 1090 1088 1 (zeroBytes 11 ++ [4] ++ zeroBytes 16) : Bytes) =
      true) ∧ (frameType (ctrlFrame 1090 1088 1 (zeroBytes 11 ++ [4] ++ zeroBytes 16) : Bytes) = 0x01) ∧ (frameCls
      (ctrlFrame 1090 1088 1 (zeroBytes 11 ++ [4] ++ zeroBytes 16) : Bytes) = clsCtrl) ∧ (28 ≤ frameLen (ctrlFrame
      1090 1088 1 (zeroBytes 11 ++ [4] ++ zeroBytes 16) : Bytes)) ∧ ((({up with fab := {up.fab with ports := [(3, {Port.reset with sendsHello := true})]}}
      : State).setPort 3 { Port.reset with sendsHello := true, heard := true, peer := 0 }) = (if bitAt (byteAt
      (framePayload (ctrlFrame 1090 1088 1 (zeroBytes 11 ++ [4] ++ zeroBytes 16) : Bytes)) 11) 1 && decide ((3 : Nat)
      < 2) then yieldHead (({up with fab := {up.fab with ports := [(3, {Port.reset with sendsHello := true})]}} :
      State).setPort (3 : Nat) ({ Port.reset with sendsHello := true, heard := true, peer := 0 } : Port)) (beAt
      (framePayload (ctrlFrame 1090 1088 1 (zeroBytes 11 ++ [4] ++ zeroBytes 16) : Bytes)) 12 6) (beAt (framePayload
      (ctrlFrame 1090 1088 1 (zeroBytes 11 ++ [4] ++ zeroBytes 16) : Bytes)) 0 8) else ({up with fab := {up.fab with ports := [(3, {Port.reset with sendsHello := true})]}}
      : State).setPort (3 : Nat) ({ Port.reset with sendsHello := true, heard := true, peer := 0 } : Port))) ∧ (({ Port.reset with sendsHello := true, heard := true, peer := 0 }
      : Port) = { ({up with fab := {up.fab with ports := [(3, {Port.reset with sendsHello := true})]}} : State).port (3 : Nat) with heard := true, peer := beAt (framePayload (ctrlFrame 1090 1088 1 (zeroBytes 11 ++ [4] ++ zeroBytes 16) : Bytes)) 8 2, peerId := beAt (framePayload (ctrlFrame 1090 1088 1 (zeroBytes 11 ++ [4] ++ zeroBytes 16) : Bytes)) 0 8, peerTime := beAt (framePayload (ctrlFrame 1090 1088 1 (zeroBytes 11 ++ [4] ++ zeroBytes 16) : Bytes)) 12 6, heardAt := ({up with fab := {up.fab with ports := [(3, {Port.reset with sendsHello := true})]}} : State).fab.time, delay := if bitAt (byteAt (framePayload (ctrlFrame 1090 1088 1 (zeroBytes 11 ++ [4] ++ zeroBytes 16) : Bytes)) 11) 0 && (({up with fab := {up.fab with ports := [(3, {Port.reset with sendsHello := true})]}} : State).port (3 : Nat)).phase != .up then (((({up with fab := {up.fab with ports := [(3, {Port.reset with sendsHello := true})]}} : State).fab.time + 2 ^ 48 - beAt (framePayload (ctrlFrame 1090 1088 1 (zeroBytes 11 ++ [4] ++ zeroBytes 16) : Bytes)) 18 6) % 2 ^ 48) * 1000 - beAt (framePayload (ctrlFrame 1090 1088 1 (zeroBytes 11 ++ [4] ++ zeroBytes 16) : Bytes)) 24 4) / 2 else (({up with fab := {up.fab with ports := [(3, {Port.reset with sendsHello := true})]}} : State).port (3 : Nat)).delay })
      ∧ (bitAt (byteAt (framePayload (ctrlFrame 1090 1088 1 (zeroBytes 11 ++ [4] ++ zeroBytes 16) : Bytes)) 11) 2 =
      true)) ∧
    ((rolesThere ({up with fab := {up.fab with ports := [(3, {Port.reset with sendsHello := true})]}} : State)
      (.hello (3 : Nat) (ctrlFrame 1090 1088 1 (zeroBytes 11 ++ [1] ++ zeroBytes 16) : Bytes)) = true) ∧ (fabricRuns
      ({up with fab := {up.fab with ports := [(3, {Port.reset with sendsHello := true})]}} : State) = true) ∧ ((3 :
      Nat) < 4) ∧ (portEnabled ({up with fab := {up.fab with ports := [(3, {Port.reset with sendsHello := true})]}} :
      State) (3 : Nat) = true) ∧ (frameOk (ctrlFrame 1090 1088 1 (zeroBytes 11 ++ [1] ++ zeroBytes 16) : Bytes) =
      true) ∧ (frameType (ctrlFrame 1090 1088 1 (zeroBytes 11 ++ [1] ++ zeroBytes 16) : Bytes) = 0x01) ∧ (frameCls
      (ctrlFrame 1090 1088 1 (zeroBytes 11 ++ [1] ++ zeroBytes 16) : Bytes) = clsCtrl) ∧ (28 ≤ frameLen (ctrlFrame
      1090 1088 1 (zeroBytes 11 ++ [1] ++ zeroBytes 16) : Bytes)) ∧ ((({up with fab := {up.fab with ports := [(3, {Port.reset with sendsHello := true})]}}
      : State).setPort 3 { Port.reset with sendsHello := true, heard := true, peer := 0 }) = (if bitAt (byteAt
      (framePayload (ctrlFrame 1090 1088 1 (zeroBytes 11 ++ [1] ++ zeroBytes 16) : Bytes)) 11) 1 && decide ((3 : Nat)
      < 2) then yieldHead (({up with fab := {up.fab with ports := [(3, {Port.reset with sendsHello := true})]}} :
      State).setPort (3 : Nat) ({ Port.reset with sendsHello := true, heard := true, peer := 0 } : Port)) (beAt
      (framePayload (ctrlFrame 1090 1088 1 (zeroBytes 11 ++ [1] ++ zeroBytes 16) : Bytes)) 12 6) (beAt (framePayload
      (ctrlFrame 1090 1088 1 (zeroBytes 11 ++ [1] ++ zeroBytes 16) : Bytes)) 0 8) else ({up with fab := {up.fab with ports := [(3, {Port.reset with sendsHello := true})]}}
      : State).setPort (3 : Nat) ({ Port.reset with sendsHello := true, heard := true, peer := 0 } : Port))) ∧ (({ Port.reset with sendsHello := true, heard := true, peer := 0 }
      : Port) = { ({up with fab := {up.fab with ports := [(3, {Port.reset with sendsHello := true})]}} : State).port (3 : Nat) with heard := true, peer := beAt (framePayload (ctrlFrame 1090 1088 1 (zeroBytes 11 ++ [1] ++ zeroBytes 16) : Bytes)) 8 2, peerId := beAt (framePayload (ctrlFrame 1090 1088 1 (zeroBytes 11 ++ [1] ++ zeroBytes 16) : Bytes)) 0 8, peerTime := beAt (framePayload (ctrlFrame 1090 1088 1 (zeroBytes 11 ++ [1] ++ zeroBytes 16) : Bytes)) 12 6, heardAt := ({up with fab := {up.fab with ports := [(3, {Port.reset with sendsHello := true})]}} : State).fab.time, delay := if bitAt (byteAt (framePayload (ctrlFrame 1090 1088 1 (zeroBytes 11 ++ [1] ++ zeroBytes 16) : Bytes)) 11) 0 && (({up with fab := {up.fab with ports := [(3, {Port.reset with sendsHello := true})]}} : State).port (3 : Nat)).phase != .up then (((({up with fab := {up.fab with ports := [(3, {Port.reset with sendsHello := true})]}} : State).fab.time + 2 ^ 48 - beAt (framePayload (ctrlFrame 1090 1088 1 (zeroBytes 11 ++ [1] ++ zeroBytes 16) : Bytes)) 18 6) % 2 ^ 48) * 1000 - beAt (framePayload (ctrlFrame 1090 1088 1 (zeroBytes 11 ++ [1] ++ zeroBytes 16) : Bytes)) 24 4) / 2 else (({up with fab := {up.fab with ports := [(3, {Port.reset with sendsHello := true})]}} : State).port (3 : Nat)).delay })
      ∧ (bitAt (byteAt (framePayload (ctrlFrame 1090 1088 1 (zeroBytes 11 ++ [1] ++ zeroBytes 16) : Bytes)) 11) 2 =
      false) ∧ ((bitAt (byteAt (framePayload (ctrlFrame 1090 1088 1 (zeroBytes 11 ++ [1] ++ zeroBytes 16) : Bytes))
      11) 0 && ({ Port.reset with sendsHello := true, heard := true, peer := 0 } : Port).sendsHello && ({ Port.reset with sendsHello := true, heard := true, peer := 0 }
      : Port).phase != .up) = true)) ∧
    ((rolesThere ({up with fab := {up.fab with ports := [(3, {Port.reset with sendsHello := true})]}} : State)
      (.hello (3 : Nat) (ctrlFrame 1090 1088 1 (zeroBytes 11 ++ [0] ++ zeroBytes 16) : Bytes)) = true) ∧ (fabricRuns
      ({up with fab := {up.fab with ports := [(3, {Port.reset with sendsHello := true})]}} : State) = true) ∧ ((3 :
      Nat) < 4) ∧ (portEnabled ({up with fab := {up.fab with ports := [(3, {Port.reset with sendsHello := true})]}} :
      State) (3 : Nat) = true) ∧ (frameOk (ctrlFrame 1090 1088 1 (zeroBytes 11 ++ [0] ++ zeroBytes 16) : Bytes) =
      true) ∧ (frameType (ctrlFrame 1090 1088 1 (zeroBytes 11 ++ [0] ++ zeroBytes 16) : Bytes) = 0x01) ∧ (frameCls
      (ctrlFrame 1090 1088 1 (zeroBytes 11 ++ [0] ++ zeroBytes 16) : Bytes) = clsCtrl) ∧ (28 ≤ frameLen (ctrlFrame
      1090 1088 1 (zeroBytes 11 ++ [0] ++ zeroBytes 16) : Bytes)) ∧ ((({up with fab := {up.fab with ports := [(3, {Port.reset with sendsHello := true})]}}
      : State).setPort 3 { Port.reset with sendsHello := true, heard := true, peer := 0 }) = (if bitAt (byteAt
      (framePayload (ctrlFrame 1090 1088 1 (zeroBytes 11 ++ [0] ++ zeroBytes 16) : Bytes)) 11) 1 && decide ((3 : Nat)
      < 2) then yieldHead (({up with fab := {up.fab with ports := [(3, {Port.reset with sendsHello := true})]}} :
      State).setPort (3 : Nat) ({ Port.reset with sendsHello := true, heard := true, peer := 0 } : Port)) (beAt
      (framePayload (ctrlFrame 1090 1088 1 (zeroBytes 11 ++ [0] ++ zeroBytes 16) : Bytes)) 12 6) (beAt (framePayload
      (ctrlFrame 1090 1088 1 (zeroBytes 11 ++ [0] ++ zeroBytes 16) : Bytes)) 0 8) else ({up with fab := {up.fab with ports := [(3, {Port.reset with sendsHello := true})]}}
      : State).setPort (3 : Nat) ({ Port.reset with sendsHello := true, heard := true, peer := 0 } : Port))) ∧ (({ Port.reset with sendsHello := true, heard := true, peer := 0 }
      : Port) = { ({up with fab := {up.fab with ports := [(3, {Port.reset with sendsHello := true})]}} : State).port (3 : Nat) with heard := true, peer := beAt (framePayload (ctrlFrame 1090 1088 1 (zeroBytes 11 ++ [0] ++ zeroBytes 16) : Bytes)) 8 2, peerId := beAt (framePayload (ctrlFrame 1090 1088 1 (zeroBytes 11 ++ [0] ++ zeroBytes 16) : Bytes)) 0 8, peerTime := beAt (framePayload (ctrlFrame 1090 1088 1 (zeroBytes 11 ++ [0] ++ zeroBytes 16) : Bytes)) 12 6, heardAt := ({up with fab := {up.fab with ports := [(3, {Port.reset with sendsHello := true})]}} : State).fab.time, delay := if bitAt (byteAt (framePayload (ctrlFrame 1090 1088 1 (zeroBytes 11 ++ [0] ++ zeroBytes 16) : Bytes)) 11) 0 && (({up with fab := {up.fab with ports := [(3, {Port.reset with sendsHello := true})]}} : State).port (3 : Nat)).phase != .up then (((({up with fab := {up.fab with ports := [(3, {Port.reset with sendsHello := true})]}} : State).fab.time + 2 ^ 48 - beAt (framePayload (ctrlFrame 1090 1088 1 (zeroBytes 11 ++ [0] ++ zeroBytes 16) : Bytes)) 18 6) % 2 ^ 48) * 1000 - beAt (framePayload (ctrlFrame 1090 1088 1 (zeroBytes 11 ++ [0] ++ zeroBytes 16) : Bytes)) 24 4) / 2 else (({up with fab := {up.fab with ports := [(3, {Port.reset with sendsHello := true})]}} : State).port (3 : Nat)).delay })
      ∧ (bitAt (byteAt (framePayload (ctrlFrame 1090 1088 1 (zeroBytes 11 ++ [0] ++ zeroBytes 16) : Bytes)) 11) 2 =
      false) ∧ ((bitAt (byteAt (framePayload (ctrlFrame 1090 1088 1 (zeroBytes 11 ++ [0] ++ zeroBytes 16) : Bytes))
      11) 0 && ({ Port.reset with sendsHello := true, heard := true, peer := 0 } : Port).sendsHello && ({ Port.reset with sendsHello := true, heard := true, peer := 0 }
      : Port).phase != .up) = false)) ∧
    ((fabricRuns (linked) = true) ∧ ((1 : Nat) < 4) ∧ (portPhase (linked) (1 : Nat) = .up) ∧ ((uplinkLost
      ((countCodes linked 1 3).setPort 1 { linked.port 1 with phase := .held, sendsHello := false, heard := false })
      1) = uplinkLost ((countCodes (linked) (1 : Nat) (3 : Nat)).setPort (1 : Nat) { (linked).port (1 : Nat) with phase := .held, sendsHello := false, heard := false })
      (1 : Nat))) ∧
    ((fabricRuns ({up with fab := {up.fab with ports := [(1, {Port.reset with phase := .held})]}} : State) = true) ∧
      ((1 : Nat) < 4) ∧ (portPhase ({up with fab := {up.fab with ports := [(1, {Port.reset with phase := .held})]}} :
      State) (1 : Nat) = .held)) ∧
    ((fabricRuns ({up with fab := {up.fab with ports := [(1, {Port.reset with phase := .asleep})]}} : State) = true)
      ∧ ((1 : Nat) < 4) ∧ (portPhase ({up with fab := {up.fab with ports := [(1, {Port.reset with phase := .asleep})]}}
      : State) (1 : Nat) = .asleep)) := by
  refine ⟨?_, ?_, ?_, ?_, ?_, ?_, ?_, ?_, ?_, ?_, ?_⟩ <;> decide +kernel

theorem witness_FabricJoining :
    ((rolesThere ({downstream with fab := {downstream.fab with asking := true}} : State) (.joinReqRetry) = true) ∧
      (fabricRuns ({downstream with fab := {downstream.fab with asking := true}} : State) = true) ∧ (({downstream with fab := {downstream.fab with asking := true}}
      : State).fab.head = false) ∧ (({downstream with fab := {downstream.fab with asking := true}} : State).fab.asking
      = true) ∧ ((portUsable ({downstream with fab := {downstream.fab with asking := true}} : State) 0 || portUsable
      ({downstream with fab := {downstream.fab with asking := true}} : State) 1) = true)) ∧
    ((rolesThere ({downstream with fab := {downstream.fab with join := .addrFull}} : State) (.addrFullRetry) = true)
      ∧ (fabricRuns ({downstream with fab := {downstream.fab with join := .addrFull}} : State) = true) ∧ (({downstream with fab := {downstream.fab with join := .addrFull}}
      : State).fab.head = false) ∧ ((({downstream with fab := {downstream.fab with join := .addrFull}} :
      State).fab.join == .addrFull || (({downstream with fab := {downstream.fab with join := .addrFull}} :
      State).fab.join == .headConflict && ({downstream with fab := {downstream.fab with join := .addrFull}} :
      State).fab.addr.isNone && !({downstream with fab := {downstream.fab with join := .addrFull}} :
      State).fab.asking)) = true)) ∧
    ((rolesThere (linked) (.joinReq (0 : Nat) (ctrlFrame 7 1103 2 (beBytes 8 7 ++ [0xFF]) : Bytes)) = true) ∧
      ((linked).fab.head = true) ∧ (joinRepeated (linked) (ctrlFrame 7 1103 2 (beBytes 8 7 ++ [0xFF]) : Bytes) =
      false) ∧ (FreshCtrl (linked) 0x02 9 (ctrlFrame 7 1103 2 (beBytes 8 7 ++ [0xFF]) : Bytes)) ∧ (byteAt
      (framePayload (ctrlFrame 7 1103 2 (beBytes 8 7 ++ [0xFF]) : Bytes)) 8 = 0xFF) ∧ ((∀ e ∈ (linked).fab.members,
      e.2.id ≠ beAt (framePayload (ctrlFrame 7 1103 2 (beBytes 8 7 ++ [0xFF]) : Bytes)) 0 8)) ∧ (lowestFree (positions
      (linked)) = some (1 : Nat)) ∧ (((fun v : State => dropPosition (if v.fab.joined.contains 7 then noteRestart v 1
      else v) 1) (ctrlAccepted linked (ctrlFrame 7 1103 2 (beBytes 8 7 ++ [0xFF])))) = (fun v : State => dropPosition
      (if v.fab.joined.contains (beAt (framePayload (ctrlFrame 7 1103 2 (beBytes 8 7 ++ [0xFF]) : Bytes)) 0 8) then
      noteRestart v (1 : Nat) else v) (1 : Nat)) (ctrlAccepted (linked) (ctrlFrame 7 1103 2 (beBytes 8 7 ++ [0xFF]) :
      Bytes)))) ∧
    ((rolesThere ({linked with fab := {linked.fab with members := (List.range 64).map (fun n => (n, ⟨1, false, false, n, 0⟩))}}
      : State) (.joinReq (0 : Nat) (ctrlFrame 7 1103 2 (beBytes 8 7 ++ [0xFF]) : Bytes)) = true) ∧ (({linked with fab := {linked.fab with members := (List.range 64).map (fun n => (n, ⟨1, false, false, n, 0⟩))}}
      : State).fab.head = true) ∧ (joinRepeated ({linked with fab := {linked.fab with members := (List.range 64).map (fun n => (n, ⟨1, false, false, n, 0⟩))}}
      : State) (ctrlFrame 7 1103 2 (beBytes 8 7 ++ [0xFF]) : Bytes) = false) ∧ (FreshCtrl ({linked with fab := {linked.fab with members := (List.range 64).map (fun n => (n, ⟨1, false, false, n, 0⟩))}}
      : State) 0x02 9 (ctrlFrame 7 1103 2 (beBytes 8 7 ++ [0xFF]) : Bytes)) ∧ (byteAt (framePayload (ctrlFrame 7 1103
      2 (beBytes 8 7 ++ [0xFF]) : Bytes)) 8 = 0xFF) ∧ ((∀ e ∈ ({linked with fab := {linked.fab with members := (List.range 64).map (fun n => (n, ⟨1, false, false, n, 0⟩))}}
      : State).fab.members, e.2.id ≠ beAt (framePayload (ctrlFrame 7 1103 2 (beBytes 8 7 ++ [0xFF]) : Bytes)) 0 8)) ∧
      (lowestFree (positions ({linked with fab := {linked.fab with members := (List.range 64).map (fun n => (n, ⟨1, false, false, n, 0⟩))}}
      : State)) = none)) ∧
    ((rolesThere ({downstream with fab := {downstream.fab with asking := true, addr := none, join := .joining}} :
      State) (.joinAnswer (0 : Nat) (ctrlFrame 1088 1103 3 (beBytes 8 downstream.cip.deviceId ++ [0, 2] ++ beBytes 2
      17 ++ zeroBytes 6) : Bytes)) = true) ∧ (({downstream with fab := {downstream.fab with asking := true, addr := none, join := .joining}}
      : State).fab.head = false) ∧ (FreshCtrl ({downstream with fab := {downstream.fab with asking := true, addr := none, join := .joining}}
      : State) 0x03 18 (ctrlFrame 1088 1103 3 (beBytes 8 downstream.cip.deviceId ++ [0, 2] ++ beBytes 2 17 ++
      zeroBytes 6) : Bytes)) ∧ (beAt (framePayload (ctrlFrame 1088 1103 3 (beBytes 8 downstream.cip.deviceId ++ [0, 2]
      ++ beBytes 2 17 ++ zeroBytes 6) : Bytes)) 0 8 = ({downstream with fab := {downstream.fab with asking := true, addr := none, join := .joining}}
      : State).cip.deviceId) ∧ (byteAt (framePayload (ctrlFrame 1088 1103 3 (beBytes 8 downstream.cip.deviceId ++ [0,
      2] ++ beBytes 2 17 ++ zeroBytes 6) : Bytes)) 8 = 0)) ∧
    ((rolesThere (downstream) (.joinAnswer (0 : Nat) (ctrlFrame 1088 1103 3 (beBytes 8 downstream.cip.deviceId ++ [1,
      0] ++ beBytes 2 17 ++ zeroBytes 6) : Bytes)) = true) ∧ ((downstream).fab.head = false) ∧ (FreshCtrl (downstream)
      0x03 18 (ctrlFrame 1088 1103 3 (beBytes 8 downstream.cip.deviceId ++ [1, 0] ++ beBytes 2 17 ++ zeroBytes 6) :
      Bytes)) ∧ (beAt (framePayload (ctrlFrame 1088 1103 3 (beBytes 8 downstream.cip.deviceId ++ [1, 0] ++ beBytes 2
      17 ++ zeroBytes 6) : Bytes)) 0 8 = (downstream).cip.deviceId) ∧ (byteAt (framePayload (ctrlFrame 1088 1103 3
      (beBytes 8 downstream.cip.deviceId ++ [1, 0] ++ beBytes 2 17 ++ zeroBytes 6) : Bytes)) 8 ≠ 0)) ∧
    ((rolesThere (downstream) (.joinAnswer (0 : Nat) (ctrlFrame 1088 1103 3 (beBytes 8 7 ++ [0, 3] ++ beBytes 2 17 ++
      zeroBytes 6) : Bytes)) = true) ∧ (FreshCtrl (downstream) 0x03 18 (ctrlFrame 1088 1103 3 (beBytes 8 7 ++ [0, 3]
      ++ beBytes 2 17 ++ zeroBytes 6) : Bytes)) ∧ (beAt (framePayload (ctrlFrame 1088 1103 3 (beBytes 8 7 ++ [0, 3] ++
      beBytes 2 17 ++ zeroBytes 6) : Bytes)) 0 8 ≠ (downstream).cip.deviceId) ∧ (byteAt (framePayload (ctrlFrame 1088
      1103 3 (beBytes 8 7 ++ [0, 3] ++ beBytes 2 17 ++ zeroBytes 6) : Bytes)) 8 = 0)) ∧
    ((rolesThere (linked) (.leave (0 : Nat) (ctrlFrame 1090 1088 0x0C (beBytes 8 2) : Bytes)) = true) ∧
      ((linked).fab.head = true) ∧ (FreshCtrl (linked) 0x0C 8 (ctrlFrame 1090 1088 0x0C (beBytes 8 2) : Bytes)) ∧
      ((linked).fab.members.find? (fun x => x.2.id == beAt (framePayload (ctrlFrame 1090 1088 0x0C (beBytes 8 2) :
      Bytes)) 0 8 && x.1 != 0) = some ((2, ⟨2, false, false, 1, 0⟩) : Nat × Member))) ∧
    ((rolesThere (linked) (.positionLeaveTimeout (2 : Nat)) = true) ∧ (fabricRuns (linked) = true) ∧
      ((linked).fab.head = true) ∧ ((2 : Nat) ≠ 0) ∧ ((linked).fab.members.any (fun e => e.1 == (2 : Nat) &&
      !e.2.asleep) = true)) ∧
    (((linked).running = true)) ∧
    ((rolesThere (linked) (.timeSyncSend) = true) ∧ (fabricRuns (linked) = true) ∧ (timeSource (linked) = true)) ∧
    ((rolesThere (linked) (.timeSync (2 : Nat) (3 : Nat) (ctrlFrame 1090 1103 4 (zeroBytes 8) : Bytes)) = true) ∧ (2
      ≤ (2 : Nat)) ∧ ((2 : Nat) < 4) ∧ (sentBySelf (linked) (ctrlFrame 1090 1103 4 (zeroBytes 8) : Bytes) = false) ∧
      (FreshCtrl (linked) 0x04 8 (ctrlFrame 1090 1103 4 (zeroBytes 8) : Bytes)) ∧ (((learnUplink { ctrlAccepted linked (ctrlFrame 1090 1103 4 (zeroBytes 8)) with fab := { (ctrlAccepted linked (ctrlFrame 1090 1103 4 (zeroBytes 8))).fab with time := (beAt (framePayload (ctrlFrame 1090 1103 4 (zeroBytes 8))) 0 6 + (linked.port 2).delay / 1000 + 3) % 2 ^ 48, synced := true, hops := (beAt (framePayload (ctrlFrame 1090 1103 4 (zeroBytes 8))) 6 2 + 1) % 65536 } }
      (uplinkShown linked 2 (frameHops (ctrlFrame 1090 1103 4 (zeroBytes 8))) (beAt (framePayload (ctrlFrame 1090 1103
      4 (zeroBytes 8))) 6 2) (frameSrc (ctrlFrame 1090 1103 4 (zeroBytes 8))))).setStat Reg.fabStatusTimeOk 1) =
      (learnUplink { ctrlAccepted (linked) (ctrlFrame 1090 1103 4 (zeroBytes 8) : Bytes) with fab := { (ctrlAccepted (linked) (ctrlFrame 1090 1103 4 (zeroBytes 8) : Bytes)).fab with time := (beAt (framePayload (ctrlFrame 1090 1103 4 (zeroBytes 8) : Bytes)) 0 6 + ((linked).port (2 : Nat)).delay / 1000 + (3 : Nat)) % 2 ^ 48, synced := true, hops := (beAt (framePayload (ctrlFrame 1090 1103 4 (zeroBytes 8) : Bytes)) 6 2 + 1) % 65536 } }
      (uplinkShown (linked) (2 : Nat) (frameHops (ctrlFrame 1090 1103 4 (zeroBytes 8) : Bytes)) (beAt (framePayload
      (ctrlFrame 1090 1103 4 (zeroBytes 8) : Bytes)) 6 2) (frameSrc (ctrlFrame 1090 1103 4 (zeroBytes 8) :
      Bytes)))).setStat Reg.fabStatusTimeOk 1)) ∧
    ((rolesThere (linked) (.timeSync (1 : Nat) (3 : Nat) (ctrlFrame 1090 1103 4 (zeroBytes 8) : Bytes)) = true) ∧ ((1
      : Nat) < 2) ∧ (((linked).fab.head && frameSrc (ctrlFrame 1090 1103 4 (zeroBytes 8) : Bytes) % 64 = 0) = false) ∧
      (sentBySelf (linked) (ctrlFrame 1090 1103 4 (zeroBytes 8) : Bytes) = false) ∧ (FreshCtrl (linked) 0x04 8
      (ctrlFrame 1090 1103 4 (zeroBytes 8) : Bytes)) ∧ (((learnUplink { ctrlAccepted linked (ctrlFrame 1090 1103 4 (zeroBytes 8)) with fab := { (ctrlAccepted linked (ctrlFrame 1090 1103 4 (zeroBytes 8))).fab with time := (beAt (framePayload (ctrlFrame 1090 1103 4 (zeroBytes 8))) 0 6 + (linked.port 1).delay / 1000 + 3) % 2 ^ 48, synced := true, hops := (beAt (framePayload (ctrlFrame 1090 1103 4 (zeroBytes 8))) 6 2 + 1) % 65536 } }
      (uplinkShown linked 1 (frameHops (ctrlFrame 1090 1103 4 (zeroBytes 8))) (beAt (framePayload (ctrlFrame 1090 1103
      4 (zeroBytes 8))) 6 2) (frameSrc (ctrlFrame 1090 1103 4 (zeroBytes 8))))).setStat Reg.fabStatusTimeOk 1) =
      (learnUplink { ctrlAccepted (linked) (ctrlFrame 1090 1103 4 (zeroBytes 8) : Bytes) with fab := { (ctrlAccepted (linked) (ctrlFrame 1090 1103 4 (zeroBytes 8) : Bytes)).fab with time := (beAt (framePayload (ctrlFrame 1090 1103 4 (zeroBytes 8) : Bytes)) 0 6 + ((linked).port (1 : Nat)).delay / 1000 + (3 : Nat)) % 2 ^ 48, synced := true, hops := (beAt (framePayload (ctrlFrame 1090 1103 4 (zeroBytes 8) : Bytes)) 6 2 + 1) % 65536 } }
      (uplinkShown (linked) (1 : Nat) (frameHops (ctrlFrame 1090 1103 4 (zeroBytes 8) : Bytes)) (beAt (framePayload
      (ctrlFrame 1090 1103 4 (zeroBytes 8) : Bytes)) 6 2) (frameSrc (ctrlFrame 1090 1103 4 (zeroBytes 8) :
      Bytes)))).setStat Reg.fabStatusTimeOk 1)) ∧
    ((rolesThere (downstream) (.timeSyncLoss) = true) ∧ (fabricRuns (downstream) = true) ∧ (((downstream).fab.head &&
      (downstream).fab.uplink.isNone) = false)) := by
  refine ⟨?_, ?_, ?_, ?_, ?_, ?_, ?_, ?_, ?_, ?_, ?_, ?_, ?_, ?_⟩ <;> decide +kernel

theorem witness_FabricFrames :
    ((fabricRuns (linked) = true) ∧ ((1 : Nat) < 4) ∧ (portEnabled (linked) (1 : Nat) = true) ∧ (([] : Bytes) = (({ tag := 0, data := [], violations := 0 }
      : LinkBlock) :: ([] : List LinkBlock)).flatMap LinkBlock.data) ∧ ((countCodes linked 1 0) = countCodes (linked)
      (1 : Nat) ((({ tag := 0, data := [], violations := 0 } : LinkBlock) :: ([] : List LinkBlock)).map
      LinkBlock.violations).sum) ∧ ((blocksOk (({ tag := 0, data := [], violations := 0 } : LinkBlock) :: ([] : List
      LinkBlock)) && frameOk ([] : Bytes)) = false)) ∧
    ((fabricRuns (up) = true) ∧ ((1 : Nat) < 4) ∧ (portEnabled (up) (1 : Nat) = true) ∧ ((rangeFrame 1090 1088 9 :
      Bytes) = ((oneBlock (rangeFrame 1090 1088 9) : LinkBlock) :: ([] : List LinkBlock)).flatMap LinkBlock.data) ∧
      ((countCodes up 1 0) = countCodes (up) (1 : Nat) (((oneBlock (rangeFrame 1090 1088 9) : LinkBlock) :: ([] : List
      LinkBlock)).map LinkBlock.violations).sum) ∧ (blocksOk ((oneBlock (rangeFrame 1090 1088 9) : LinkBlock) :: ([] :
      List LinkBlock)) = true) ∧ (frameOk (rangeFrame 1090 1088 9 : Bytes) = true) ∧ (portPhase (countCodes up 1 0) (1
      : Nat) ≠ .up)) ∧
    ((fabricRuns (linked) = true) ∧ ((1 : Nat) < 4) ∧ (portEnabled (linked) (1 : Nat) = true) ∧ ((rangeFrame 1090
      1088 9 : Bytes) = ((oneBlock (rangeFrame 1090 1088 9) : LinkBlock) :: ([] : List LinkBlock)).flatMap
      LinkBlock.data) ∧ ((countCodes linked 1 0) = countCodes (linked) (1 : Nat) (((oneBlock (rangeFrame 1090 1088 9)
      : LinkBlock) :: ([] : List LinkBlock)).map LinkBlock.violations).sum) ∧ ((frameWithHops (rangeFrame 1090 1088 9)
      (frameHops (rangeFrame 1090 1088 9) - 1) : Bytes) = frameWithHops (rangeFrame 1090 1088 9 : Bytes) (frameHops
      (rangeFrame 1090 1088 9 : Bytes) - 1)) ∧ (blocksOk ((oneBlock (rangeFrame 1090 1088 9) : LinkBlock) :: ([] :
      List LinkBlock)) = true) ∧ (frameOk (rangeFrame 1090 1088 9 : Bytes) = true) ∧ (portPhase (countCodes linked 1
      0) (1 : Nat) = .up) ∧ (frameCls (rangeFrame 1090 1088 9 : Bytes) ≠ clsCtrl) ∧ (frameMcast (frameWithHops
      (rangeFrame 1090 1088 9) (frameHops (rangeFrame 1090 1088 9) - 1) : Bytes) = false) ∧ ((countCodes linked 1
      0).fab.addr = some (frameDst (frameWithHops (rangeFrame 1090 1088 9) (frameHops (rangeFrame 1090 1088 9) - 1) :
      Bytes)))) ∧
    ((fabricRuns (linked) = true) ∧ ((0 : Nat) < 4) ∧ (portEnabled (linked) (0 : Nat) = true) ∧ ((rangeFrame 1090
      1091 1 : Bytes) = ((oneBlock (rangeFrame 1090 1091 1) : LinkBlock) :: ([] : List LinkBlock)).flatMap
      LinkBlock.data) ∧ ((countCodes linked 0 0) = countCodes (linked) (0 : Nat) (((oneBlock (rangeFrame 1090 1091 1)
      : LinkBlock) :: ([] : List LinkBlock)).map LinkBlock.violations).sum) ∧ ((frameWithHops (rangeFrame 1090 1091 1)
      (frameHops (rangeFrame 1090 1091 1) - 1) : Bytes) = frameWithHops (rangeFrame 1090 1091 1 : Bytes) (frameHops
      (rangeFrame 1090 1091 1 : Bytes) - 1)) ∧ (blocksOk ((oneBlock (rangeFrame 1090 1091 1) : LinkBlock) :: ([] :
      List LinkBlock)) = true) ∧ (frameOk (rangeFrame 1090 1091 1 : Bytes) = true) ∧ (portPhase (countCodes linked 0
      0) (0 : Nat) = .up) ∧ (frameCls (rangeFrame 1090 1091 1 : Bytes) ≠ clsCtrl) ∧ (frameMcast (frameWithHops
      (rangeFrame 1090 1091 1) (frameHops (rangeFrame 1090 1091 1) - 1) : Bytes) = false) ∧ ((countCodes linked 0
      0).fab.addr ≠ some (frameDst (frameWithHops (rangeFrame 1090 1091 1) (frameHops (rangeFrame 1090 1091 1) - 1) :
      Bytes))) ∧ (frameHops (rangeFrame 1090 1091 1 : Bytes) ≤ 1)) ∧
    ((fabricRuns (linked) = true) ∧ ((0 : Nat) < 4) ∧ (portEnabled (linked) (0 : Nat) = true) ∧ ((rangeFrame 1090
      1091 2 : Bytes) = ((oneBlock (rangeFrame 1090 1091 2) : LinkBlock) :: ([] : List LinkBlock)).flatMap
      LinkBlock.data) ∧ ((countCodes linked 0 0) = countCodes (linked) (0 : Nat) (((oneBlock (rangeFrame 1090 1091 2)
      : LinkBlock) :: ([] : List LinkBlock)).map LinkBlock.violations).sum) ∧ ((frameWithHops (rangeFrame 1090 1091 2)
      (frameHops (rangeFrame 1090 1091 2) - 1) : Bytes) = frameWithHops (rangeFrame 1090 1091 2 : Bytes) (frameHops
      (rangeFrame 1090 1091 2 : Bytes) - 1)) ∧ (blocksOk ((oneBlock (rangeFrame 1090 1091 2) : LinkBlock) :: ([] :
      List LinkBlock)) = true) ∧ (frameOk (rangeFrame 1090 1091 2 : Bytes) = true) ∧ (portPhase (countCodes linked 0
      0) (0 : Nat) = .up) ∧ (frameCls (rangeFrame 1090 1091 2 : Bytes) ≠ clsCtrl) ∧ (frameMcast (frameWithHops
      (rangeFrame 1090 1091 2) (frameHops (rangeFrame 1090 1091 2) - 1) : Bytes) = false) ∧ ((countCodes linked 0
      0).fab.addr ≠ some (frameDst (frameWithHops (rangeFrame 1090 1091 2) (frameHops (rangeFrame 1090 1091 2) - 1) :
      Bytes))) ∧ (2 ≤ frameHops (rangeFrame 1090 1091 2 : Bytes)) ∧ ((countCodes linked 0 0).fab.addr.isSome = true)) ∧
    ((fabricRuns (linked) = true) ∧ ((0 : Nat) < 4) ∧ (portEnabled (linked) (0 : Nat) = true) ∧ ((mcastFrame : Bytes)
      = ((oneBlock (mcastFrame) : LinkBlock) :: ([] : List LinkBlock)).flatMap LinkBlock.data) ∧ ((countCodes linked 0
      0) = countCodes (linked) (0 : Nat) (((oneBlock (mcastFrame) : LinkBlock) :: ([] : List LinkBlock)).map
      LinkBlock.violations).sum) ∧ ((frameWithHops (mcastFrame) (frameHops (mcastFrame) - 1) : Bytes) = frameWithHops
      (mcastFrame : Bytes) (frameHops (mcastFrame : Bytes) - 1)) ∧ (blocksOk ((oneBlock (mcastFrame) : LinkBlock) ::
      ([] : List LinkBlock)) = true) ∧ (frameOk (mcastFrame : Bytes) = true) ∧ (portPhase (countCodes linked 0 0) (0 :
      Nat) = .up) ∧ (frameCls (mcastFrame : Bytes) ≠ clsCtrl) ∧ (frameMcast (frameWithHops (mcastFrame) (frameHops
      (mcastFrame) - 1) : Bytes) = true) ∧ (2 ≤ frameHops (mcastFrame : Bytes))) ∧
    ((fabricRuns ({linked with fab := {linked.fab with tx := [(0, 1)], queues := [(0, ⟨[⟨[], false, 0, false, 0⟩], false⟩)]}}
      : State) = true) ∧ ((0 : Nat) < 6) ∧ ((0 : Nat) < 4) ∧ (outputOpen ({linked with fab := {linked.fab with tx := [(0, 1)], queues := [(0, ⟨[⟨[], false, 0, false, 0⟩], false⟩)]}}
      : State) (0 : Nat) = true) ∧ (txClass ({linked with fab := {linked.fab with tx := [(0, 1)], queues := [(0, ⟨[⟨[], false, 0, false, 0⟩], false⟩)]}}
      : State) (0 : Nat) = some (0 : Nat)) ∧ (blocksLeft ({linked with fab := {linked.fab with tx := [(0, 1)], queues := [(0, ⟨[⟨[], false, 0, false, 0⟩], false⟩)]}}
      : State) (0 : Nat) (0 : Nat) ≤ 1)) ∧
    ((fabricRuns ({linked with fab := {linked.fab with tx := [(0, 1)], queues := [(0, ⟨[⟨zeroBytes 300, false, 0, false, 0⟩], false⟩)]}}
      : State) = true) ∧ ((0 : Nat) < 6) ∧ ((0 : Nat) < 4) ∧ (outputOpen ({linked with fab := {linked.fab with tx := [(0, 1)], queues := [(0, ⟨[⟨zeroBytes 300, false, 0, false, 0⟩], false⟩)]}}
      : State) (0 : Nat) = true) ∧ (txClass ({linked with fab := {linked.fab with tx := [(0, 1)], queues := [(0, ⟨[⟨zeroBytes 300, false, 0, false, 0⟩], false⟩)]}}
      : State) (0 : Nat) = some (0 : Nat)) ∧ (2 ≤ blocksLeft ({linked with fab := {linked.fab with tx := [(0, 1)], queues := [(0, ⟨[⟨zeroBytes 300, false, 0, false, 0⟩], false⟩)]}}
      : State) (0 : Nat) (0 : Nat)) ∧ (pickClass ({linked with fab := {linked.fab with tx := [(0, 1)], queues := [(0, ⟨[⟨zeroBytes 300, false, 0, false, 0⟩], false⟩)]}}
      : State) (0 : Nat) = some (0 : Nat))) ∧
    ((fabricRuns ({linked with fab := {linked.fab with spilled := 1, queues := [(3, ⟨[⟨[1], true, 0, false, 0⟩], true⟩)]}}
      : State) = true) ∧ ((0 : Nat) < 6) ∧ ((3 : Nat) < 4) ∧ ((decide (chipCells (({linked with fab := {linked.fab with spilled := 1, queues := [(3, ⟨[⟨[1], true, 0, false, 0⟩], true⟩)]}}
      : State).queue (0 : Nat) (3 : Nat)) < ({linked with fab := {linked.fab with spilled := 1, queues := [(3, ⟨[⟨[1], true, 0, false, 0⟩], true⟩)]}}
      : State).eff Reg.fabBufMin) || decide (({linked with fab := {linked.fab with spilled := 1, queues := [(3, ⟨[⟨[1], true, 0, false, 0⟩], true⟩)]}}
      : State).fab.sharedUsed < threshCells ({linked with fab := {linked.fab with spilled := 1, queues := [(3, ⟨[⟨[1], true, 0, false, 0⟩], true⟩)]}}
      : State))) = true) ∧ ((({linked with fab := {linked.fab with spilled := 1, queues := [(3, ⟨[⟨[1], true, 0, false, 0⟩], true⟩)]}}
      : State).queue (0 : Nat) (3 : Nat)).frames = [(⟨[1], true, 0, false, 0⟩ : QFrame)]) ∧ ((⟨[1], true, 0, false, 0⟩
      : QFrame).spilled = true)) ∧
    ((fabricRuns ({linked with fab := {linked.fab with spilled := 1, queues := [(3, ⟨[⟨[1], true, 0, false, 0⟩], true⟩)]}}
      : State) = true) ∧ ((0 : Nat) < 6) ∧ ((3 : Nat) < 4) ∧ ((decide (chipCells (({linked with fab := {linked.fab with spilled := 1, queues := [(3, ⟨[⟨[1], true, 0, false, 0⟩], true⟩)]}}
      : State).queue (0 : Nat) (3 : Nat)) < ({linked with fab := {linked.fab with spilled := 1, queues := [(3, ⟨[⟨[1], true, 0, false, 0⟩], true⟩)]}}
      : State).eff Reg.fabBufMin) || decide (({linked with fab := {linked.fab with spilled := 1, queues := [(3, ⟨[⟨[1], true, 0, false, 0⟩], true⟩)]}}
      : State).fab.sharedUsed < threshCells ({linked with fab := {linked.fab with spilled := 1, queues := [(3, ⟨[⟨[1], true, 0, false, 0⟩], true⟩)]}}
      : State))) = true) ∧ ((({linked with fab := {linked.fab with spilled := 1, queues := [(3, ⟨[⟨[1], true, 0, false, 0⟩], true⟩)]}}
      : State).queue (0 : Nat) (3 : Nat)).frames = [(⟨[1], true, 0, false, 0⟩ : QFrame)]) ∧ ((⟨[1], true, 0, false, 0⟩
      : QFrame).spilled = true) ∧ ((0 : Nat) = (if chipCells (({linked with fab := {linked.fab with spilled := 1, queues := [(3, ⟨[⟨[1], true, 0, false, 0⟩], true⟩)]}}
      : State).queue (0 : Nat) (3 : Nat)) + frameCells (⟨[1], true, 0, false, 0⟩ : QFrame).bytes ≤ ({linked with fab := {linked.fab with spilled := 1, queues := [(3, ⟨[⟨[1], true, 0, false, 0⟩], true⟩)]}}
      : State).eff Reg.fabBufMin then 0 else frameCells (⟨[1], true, 0, false, 0⟩ : QFrame).bytes))) := by
  refine ⟨?_, ?_, ?_, ?_, ?_, ?_, ?_, ?_, ?_, ?_⟩ <;> decide +kernel

theorem witness_FabricTables :
    ((rolesThere (linked) (.portEvent (0 : Nat) (ctrlFrame 1090 1088 5 [0, 1, 0, 0] : Bytes)) = true) ∧
      ((linked).fab.head = true) ∧ (FreshCtrl (linked) 0x05 4 (ctrlFrame 1090 1088 5 [0, 1, 0, 0] : Bytes))) ∧
    ((rolesThere (downstream) (.prepare (0 : Nat) (ctrlFrame 1088 1103 6 [0, 0, 0, 1, 1, 0, 2, 0, 2] : Bytes)) =
      true) ∧ ((downstream).fab.head = false) ∧ ((downstream).fab.addr.isSome = true) ∧ (FreshCtrl (downstream) 0x06 7
      (ctrlFrame 1088 1103 6 [0, 0, 0, 1, 1, 0, 2, 0, 2] : Bytes)) ∧ (byteAt (framePayload (ctrlFrame 1088 1103 6 [0,
      0, 0, 1, 1, 0, 2, 0, 2] : Bytes)) 4 % 2 ≠ (downstream).fab.epoch)) ∧
    ((rolesThere (downstream) (.prepare (0 : Nat) (ctrlFrame 1088 1103 6 [0, 0, 0, 1, 0, 0, 2, 0, 2] : Bytes)) =
      true) ∧ ((downstream).fab.head = false) ∧ ((downstream).fab.addr.isSome = true) ∧ (FreshCtrl (downstream) 0x06 7
      (ctrlFrame 1088 1103 6 [0, 0, 0, 1, 0, 0, 2, 0, 2] : Bytes)) ∧ (byteAt (framePayload (ctrlFrame 1088 1103 6 [0,
      0, 0, 1, 0, 0, 2, 0, 2] : Bytes)) 4 % 2 = (downstream).fab.epoch) ∧ (((downstream).bank
      (downstream).fab.epoch).state = .invalid) ∧ (({ctrlAccepted downstream (ctrlFrame 1088 1103 6 [0, 0, 0, 1, 0, 0, 2, 0, 2]) with fab := {(ctrlAccepted downstream (ctrlFrame 1088 1103 6 [0, 0, 0, 1, 0, 0, 2, 0, 2])).fab with epoch := 1}}
      : State) = { ctrlAccepted (downstream) (ctrlFrame 1088 1103 6 [0, 0, 0, 1, 0, 0, 2, 0, 2] : Bytes) with fab := { (ctrlAccepted (downstream) (ctrlFrame 1088 1103 6 [0, 0, 0, 1, 0, 0, 2, 0, 2] : Bytes)).fab with epoch := 1 - byteAt (framePayload (ctrlFrame 1088 1103 6 [0, 0, 0, 1, 0, 0, 2, 0, 2] : Bytes)) 4 % 2 } })) ∧
    ((rolesThere ({linked with fab := {linked.fab with upd := .preparing [2]}} : State) (.ready (0 : Nat) (ctrlFrame
      1090 1088 7 [0, 0, 0, 0] : Bytes)) = true) ∧ (({linked with fab := {linked.fab with upd := .preparing [2]}} :
      State).fab.head = true) ∧ (FreshCtrl ({linked with fab := {linked.fab with upd := .preparing [2]}} : State) 0x07
      4 (ctrlFrame 1090 1088 7 [0, 0, 0, 0] : Bytes)) ∧ (({linked with fab := {linked.fab with upd := .preparing [2]}}
      : State).fab.upd = .preparing ([2] : List Nat)) ∧ (beAt (framePayload (ctrlFrame 1090 1088 7 [0, 0, 0, 0] :
      Bytes)) 0 4 = ({linked with fab := {linked.fab with upd := .preparing [2]}} : State).fab.update) ∧ (([2] : List
      Nat).filter (fun p => p != frameSrc (ctrlFrame 1090 1088 7 [0, 0, 0, 0] : Bytes) % 64) = [])) ∧
    ((rolesThere ({linked with fab := {linked.fab with upd := .preparing [2, 3]}} : State) (.ready (0 : Nat)
      (ctrlFrame 1090 1088 7 [0, 0, 0, 0] : Bytes)) = true) ∧ (({linked with fab := {linked.fab with upd := .preparing [2, 3]}}
      : State).fab.head = true) ∧ (FreshCtrl ({linked with fab := {linked.fab with upd := .preparing [2, 3]}} : State)
      0x07 4 (ctrlFrame 1090 1088 7 [0, 0, 0, 0] : Bytes)) ∧ (({linked with fab := {linked.fab with upd := .preparing [2, 3]}}
      : State).fab.upd = .preparing ([2, 3] : List Nat)) ∧ (beAt (framePayload (ctrlFrame 1090 1088 7 [0, 0, 0, 0] :
      Bytes)) 0 4 = ({linked with fab := {linked.fab with upd := .preparing [2, 3]}} : State).fab.update) ∧ (([2, 3] :
      List Nat).filter (fun p => p != frameSrc (ctrlFrame 1090 1088 7 [0, 0, 0, 0] : Bytes) % 64) ≠ [])) ∧
    ((rolesThere ({downstream with fab := {downstream.fab with banks := [(1, {Bank.reset with state := .valid})]}} :
      State) (.flip (0 : Nat) (ctrlFrame 1088 1103 8 [0, 0, 0, 0] : Bytes)) = true) ∧ (({downstream with fab := {downstream.fab with banks := [(1, {Bank.reset with state := .valid})]}}
      : State).fab.head = false) ∧ (({downstream with fab := {downstream.fab with banks := [(1, {Bank.reset with state := .valid})]}}
      : State).fab.addr.isSome = true) ∧ (FreshCtrl ({downstream with fab := {downstream.fab with banks := [(1, {Bank.reset with state := .valid})]}}
      : State) 0x08 4 (ctrlFrame 1088 1103 8 [0, 0, 0, 0] : Bytes)) ∧ (beAt (framePayload (ctrlFrame 1088 1103 8 [0,
      0, 0, 0] : Bytes)) 0 4 = ({downstream with fab := {downstream.fab with banks := [(1, {Bank.reset with state := .valid})]}}
      : State).fab.update) ∧ ((({downstream with fab := {downstream.fab with banks := [(1, {Bank.reset with state := .valid})]}}
      : State).bank (1 - ({downstream with fab := {downstream.fab with banks := [(1, {Bank.reset with state := .valid})]}}
      : State).fab.epoch)).state = .valid)) ∧
    ((rolesThere (linked) (.retired (0 : Nat) (ctrlFrame 1090 1088 9 [0, 0, 0, 0] : Bytes)) = true) ∧
      ((linked).fab.head = true) ∧ (FreshCtrl (linked) 0x09 4 (ctrlFrame 1090 1088 9 [0, 0, 0, 0] : Bytes)) ∧ (beAt
      (framePayload (ctrlFrame 1090 1088 9 [0, 0, 0, 0] : Bytes)) 0 4 = (linked).fab.update)) ∧
    ((rolesThere (downstream) (.cancel (0 : Nat) (ctrlFrame 1088 1103 10 [0, 0, 0, 0] : Bytes)) = true) ∧
      ((downstream).fab.head = false) ∧ ((downstream).fab.addr.isSome = true) ∧ (FreshCtrl (downstream) 0x0A 4
      (ctrlFrame 1088 1103 10 [0, 0, 0, 0] : Bytes)) ∧ (beAt (framePayload (ctrlFrame 1088 1103 10 [0, 0, 0, 0] :
      Bytes)) 0 4 = (downstream).fab.update)) ∧
    ((rolesThere ({linked with fab := {linked.fab with upd := .preparing [2]}} : State) (.readyTimeout) = true) ∧
      (fabricRuns ({linked with fab := {linked.fab with upd := .preparing [2]}} : State) = true) ∧ (({linked with fab := {linked.fab with upd := .preparing [2]}}
      : State).fab.upd = .preparing ([2] : List Nat))) ∧
    ((rolesThere ({linked with fab := {linked.fab with upd := .retiring [2], banks := [(1, {Bank.reset with state := .retiring})]}}
      : State) (.retireTimeout) = true) ∧ (fabricRuns ({linked with fab := {linked.fab with upd := .retiring [2], banks := [(1, {Bank.reset with state := .retiring})]}}
      : State) = true) ∧ (({linked with fab := {linked.fab with upd := .retiring [2], banks := [(1, {Bank.reset with state := .retiring})]}}
      : State).fab.upd = .retiring ([2] : List Nat)) ∧ ((({linked with fab := {linked.fab with upd := .retiring [2], banks := [(1, {Bank.reset with state := .retiring})]}}
      : State).bank (1 - ({linked with fab := {linked.fab with upd := .retiring [2], banks := [(1, {Bank.reset with state := .retiring})]}}
      : State).fab.epoch)).state = .retiring)) ∧
    ((rolesThere ({linked with fab := {linked.fab with upd := .cancelled}} : State) (.updateRepeat) = true) ∧
      (fabricRuns ({linked with fab := {linked.fab with upd := .cancelled}} : State) = true) ∧ (({linked with fab := {linked.fab with upd := .cancelled}}
      : State).fab.upd = .cancelled)) ∧
    ((rolesThere ({linked with fab := {linked.fab with upd := .holdoff, updateDue := true}} : State)
      (.updateHoldoffEnd) = true) ∧ (fabricRuns ({linked with fab := {linked.fab with upd := .holdoff, updateDue := true}}
      : State) = true) ∧ (({linked with fab := {linked.fab with upd := .holdoff, updateDue := true}} : State).fab.upd
      = .holdoff) ∧ (({linked with fab := {linked.fab with upd := .holdoff, updateDue := true}} : State).fab.updateDue
      = true)) ∧
    ((rolesThere ({linked with fab := {linked.fab with upd := .holdoff}} : State) (.updateHoldoffEnd) = true) ∧
      (fabricRuns ({linked with fab := {linked.fab with upd := .holdoff}} : State) = true) ∧ (({linked with fab := {linked.fab with upd := .holdoff}}
      : State).fab.upd = .holdoff) ∧ (({linked with fab := {linked.fab with upd := .holdoff}} : State).fab.updateDue =
      false)) ∧
    ((rolesThere ({linked with fab := {linked.fab with ports := [(2, {Port.reset with phase := .up})]}} : State)
      (.segAdvertSend) = true) ∧ (fabricRuns ({linked with fab := {linked.fab with ports := [(2, {Port.reset with phase := .up})]}}
      : State) = true) ∧ (({linked with fab := {linked.fab with ports := [(2, {Port.reset with phase := .up})]}} :
      State).fab.addr.isSome = true) ∧ (portUsable ({linked with fab := {linked.fab with ports := [(2, {Port.reset with phase := .up})]}}
      : State) 2 = true)) ∧
    ((rolesThere (linked) (.segAdvert (0 : Nat) (ctrlFrame 1090 1103 11 (zeroBytes 127 ++ [2]) : Bytes)) = true) ∧
      ((linked).fab.addr.isSome = true) ∧ ((0 : Nat) ≠ 2) ∧ (FreshCtrl (linked) 0x0B 128 (ctrlFrame 1090 1103 11
      (zeroBytes 127 ++ [2]) : Bytes)) ∧ ((ctrlAccepted linked (ctrlFrame 1090 1103 11 (zeroBytes 127 ++ [2]))) = (if
      (0 : Nat) = 3 then sendGroup15 (ctrlAccepted (linked) (ctrlFrame 1090 1103 11 (zeroBytes 127 ++ [2]) : Bytes))
      0x0B (beBytes 128 (beNat ((framePayload (ctrlFrame 1090 1103 11 (zeroBytes 127 ++ [2]) : Bytes)).take 128)))
      else ctrlAccepted (linked) (ctrlFrame 1090 1103 11 (zeroBytes 127 ++ [2]) : Bytes))) ∧ ((2 : Nat) = (if (0 :
      Nat) = 3 then (ctrlAccepted (linked) (ctrlFrame 1090 1103 11 (zeroBytes 127 ++ [2]) : Bytes)).pos else frameSrc
      (ctrlFrame 1090 1103 11 (zeroBytes 127 ++ [2]) : Bytes) % 64)) ∧ (tblGet 0 (ctrlAccepted linked (ctrlFrame 1090
      1103 11 (zeroBytes 127 ++ [2]))).fab.adverts (2 : Nat) ≠ beNat ((framePayload (ctrlFrame 1090 1103 11 (zeroBytes
      127 ++ [2]) : Bytes)).take 128))) ∧
    ((rolesThere (linked) (.segAdvert (0 : Nat) (ctrlFrame 1090 1103 11 (zeroBytes 128) : Bytes)) = true) ∧
      ((linked).fab.addr.isSome = true) ∧ ((0 : Nat) ≠ 2) ∧ (FreshCtrl (linked) 0x0B 128 (ctrlFrame 1090 1103 11
      (zeroBytes 128) : Bytes)) ∧ ((ctrlAccepted linked (ctrlFrame 1090 1103 11 (zeroBytes 128))) = (if (0 : Nat) = 3
      then sendGroup15 (ctrlAccepted (linked) (ctrlFrame 1090 1103 11 (zeroBytes 128) : Bytes)) 0x0B (beBytes 128
      (beNat ((framePayload (ctrlFrame 1090 1103 11 (zeroBytes 128) : Bytes)).take 128))) else ctrlAccepted (linked)
      (ctrlFrame 1090 1103 11 (zeroBytes 128) : Bytes))) ∧ ((2 : Nat) = (if (0 : Nat) = 3 then (ctrlAccepted (linked)
      (ctrlFrame 1090 1103 11 (zeroBytes 128) : Bytes)).pos else frameSrc (ctrlFrame 1090 1103 11 (zeroBytes 128) :
      Bytes) % 64)) ∧ (tblGet 0 (ctrlAccepted linked (ctrlFrame 1090 1103 11 (zeroBytes 128))).fab.adverts (2 : Nat) =
      beNat ((framePayload (ctrlFrame 1090 1103 11 (zeroBytes 128) : Bytes)).take 128))) := by
  refine ⟨?_, ?_, ?_, ?_, ?_, ?_, ?_, ?_, ?_, ?_, ?_, ?_, ?_, ?_, ?_, ?_⟩ <;> decide +kernel

theorem witness_RegistersAndBars :
    (((0x1400 : Nat) % 4 = 0)) ∧
    (((0x1401 : Nat) % 4 ≠ 0)) ∧
    ((rolesThere (up) (.bar4Access 0 (0xFFFC : Nat) true (1 : Nat)) = true) ∧ ((0xFFFC : Nat) < 0x10000) ∧ ((0xFFFC :
      Nat) % 4 = 0)) ∧
    ((rolesThere (up) (.bar4Access 0 (0xFFFC : Nat) false (1 : Nat)) = true) ∧ ((0xFFFC : Nat) < 0x10000) ∧ ((0xFFFC
      : Nat) % 4 = 0)) ∧
    ((rolesThere (up) (.bar4Access (63 : Nat) (0xFFFE : Nat) true (1 : Nat)) = true) ∧ ((63 : Nat) < 64) ∧ ((0xFFFE :
      Nat) < 0x10000) ∧ ((0xFFFE : Nat) % 4 ≠ 0)) ∧
    ((rolesThere (up) (.bar4Access (63 : Nat) (0xFFFE : Nat) false (1 : Nat)) = true) ∧ ((63 : Nat) < 64) ∧ ((0xFFFE
      : Nat) < 0x10000) ∧ ((0xFFFE : Nat) % 4 ≠ 0)) ∧
    ((rolesThere (up) (.bar4Access (63 : Nat) (0xFFFC : Nat) false (0 : Nat)) = true) ∧ (1 ≤ (63 : Nat)) ∧ ((63 :
      Nat) < 64) ∧ ((0xFFFC : Nat) < 0x10000) ∧ ((0xFFFC : Nat) % 4 = 0) ∧ (isMember (up) (63 : Nat) = false)) ∧
    ((rolesThere (up) (.bar4Access (63 : Nat) (0xFFFC : Nat) true (0 : Nat)) = true) ∧ (1 ≤ (63 : Nat)) ∧ ((63 : Nat)
      < 64) ∧ ((0xFFFC : Nat) < 0x10000) ∧ ((0xFFFC : Nat) % 4 = 0) ∧ (isMember (up) (63 : Nat) = false)) ∧
    ((rolesThere (up) (.bar4Access (2 : Nat) (0x1400 : Nat) false (1 : Nat)) = true) ∧ (1 ≤ (2 : Nat)) ∧ ((2 : Nat) <
      64) ∧ ((0x1400 : Nat) < 0xE000) ∧ ((0x1400 : Nat) % 4 = 0) ∧ (isMember (up) (2 : Nat) = true) ∧ ((up).running =
      true)) ∧
    ((rolesThere ({ up with hif := { up.hif with links := [(5, { ProxyLink.reset with waiting := List.replicate 256 ⟨0, 0x06, 0xFF, []⟩ })] } }
      : State) (.bar4Access (2 : Nat) (0x1400 : Nat) true (1 : Nat)) = true) ∧ (1 ≤ (2 : Nat)) ∧ ((2 : Nat) < 64) ∧
      ((0x1400 : Nat) < 0xE000) ∧ ((0x1400 : Nat) % 4 = 0) ∧ (isMember ({ up with hif := { up.hif with links := [(5, { ProxyLink.reset with waiting := List.replicate 256 ⟨0, 0x06, 0xFF, []⟩ })] } }
      : State) (2 : Nat) = true) ∧ (({ up with hif := { up.hif with links := [(5, { ProxyLink.reset with waiting := List.replicate 256 ⟨0, 0x06, 0xFF, []⟩ })] } }
      : State).running = true) ∧ (256 ≤ regWritesHeld ({ up with hif := { up.hif with links := [(5, { ProxyLink.reset with waiting := List.replicate 256 ⟨0, 0x06, 0xFF, []⟩ })] } }
      : State))) ∧
    ((rolesThere (up) (.bar4Access (2 : Nat) (0x1400 : Nat) true (1 : Nat)) = true) ∧ (1 ≤ (2 : Nat)) ∧ ((2 : Nat) <
      64) ∧ ((0x1400 : Nat) < 0xE000) ∧ ((0x1400 : Nat) % 4 = 0) ∧ (isMember (up) (2 : Nat) = true) ∧ ((up).running =
      true) ∧ (regWritesHeld (up) < 256)) := by
  refine ⟨?_, ?_, ?_, ?_, ?_, ?_, ?_, ?_, ?_, ?_, ?_⟩ <;> decide +kernel

theorem witness_RingEvents :
    ((rolesThere (cmd up 15 0 7 0 0 0) (.sqTail 0 (15 : Nat) (15 : Nat) true) = true) ∧ ((15 : Nat) < 16) ∧ ((cmd up
      15 0 7 0 0 0).hif.d3hot = false) ∧ (((cmd up 15 0 7 0 0 0).ring (15 : Nat)).phase ≠ .disabled) ∧ ((15 : Nat) < 2
      ^ ((cmd up 15 0 7 0 0 0).ring (15 : Nat)).sqk) ∧ ((15 : Nat) < 65536)) ∧
    ((rolesThere (cmd up 15 0 7 0 0 0) (.sqTail 0 (15 : Nat) (16 : Nat) true) = true) ∧ ((15 : Nat) < 16) ∧ ((cmd up
      15 0 7 0 0 0).hif.d3hot = false) ∧ (((cmd up 15 0 7 0 0 0).ring (15 : Nat)).phase ≠ .disabled) ∧ (2 ^ ((cmd up
      15 0 7 0 0 0).ring (15 : Nat)).sqk ≤ (16 : Nat)) ∧ ((16 : Nat) < 65536)) ∧
    ((rolesThere (up) (.sqTail (2 : Nat) (15 : Nat) (16 : Nat) true) = true) ∧ (1 ≤ (2 : Nat)) ∧ ((2 : Nat) < 64) ∧
      ((15 : Nat) < 16) ∧ ((up).hif.d3hot = false) ∧ (isMember (up) (2 : Nat) = true) ∧ ((up).running = true)) ∧
    ((rolesThere (up) (.sqTail (2 : Nat) (15 : Nat) (16 : Nat) false) = true) ∧ ((2 : Nat) < 64) ∧ ((15 : Nat) < 16)) ∧
    ((rolesThere (cmd up 15 0 7 0 0 0) (.cqHead 0 (15 : Nat) (15 : Nat) true) = true) ∧ ((15 : Nat) < 16) ∧ ((cmd up
      15 0 7 0 0 0).hif.d3hot = false) ∧ (((cmd up 15 0 7 0 0 0).ring (15 : Nat)).phase ≠ .disabled) ∧ ((15 : Nat) < 2
      ^ ((cmd up 15 0 7 0 0 0).ring (15 : Nat)).cqk) ∧ ((15 : Nat) < 65536)) ∧
    ((rolesThere (cmd up 15 0 7 0 0 0) (.cqHead 0 (15 : Nat) (16 : Nat) true) = true) ∧ ((15 : Nat) < 16) ∧ ((cmd up
      15 0 7 0 0 0).hif.d3hot = false) ∧ (((cmd up 15 0 7 0 0 0).ring (15 : Nat)).phase ≠ .disabled) ∧ (2 ^ ((cmd up
      15 0 7 0 0 0).ring (15 : Nat)).cqk ≤ (16 : Nat)) ∧ ((16 : Nat) < 65536)) ∧
    ((rolesThere (up) (.cqHead (2 : Nat) (15 : Nat) (16 : Nat) true) = true) ∧ (1 ≤ (2 : Nat)) ∧ ((2 : Nat) < 64) ∧
      ((15 : Nat) < 16) ∧ ((up).hif.d3hot = false) ∧ (isMember (up) (2 : Nat) = true) ∧ ((up).running = true)) ∧
    ((rolesThere (up) (.cqHead (2 : Nat) (15 : Nat) (16 : Nat) false) = true) ∧ ((2 : Nat) < 64) ∧ ((15 : Nat) < 16)) ∧
    ((rolesThere ({cmd up 0 0 7 0 0 0 with rings := [(0, {RingState.reset with phase := .enabled, sqTail := 1})]} :
      State) (.descriptorFetch (0 : Nat) (zeroBytes 32 : Bytes) (some true : Option Bool)) = true) ∧ (mayFetch ({cmd up 0 0 7 0 0 0 with rings := [(0, {RingState.reset with phase := .enabled, sqTail := 1})]}
      : State) (0 : Nat) = true) ∧ ((zeroBytes 32 : Bytes).length = 32)) ∧
    ((rolesThere (cmd up 7 0 7 0 0 0) (.nop (7 : Nat) (7 : Nat)) = true) ∧ (Waiting (cmd up 7 0 7 0 0 0) (7 : Nat)
      0x00 (7 : Nat) (⟨0, 0, 7, 0, 4096, 0, 0⟩ : Desc))) ∧
    ((rolesThere (aborting) (.abort (7 : Nat) (8 : Nat)) = true) ∧ (Waiting (aborting) (7 : Nat) 0xFF (8 : Nat)
      (⟨255, 0, 8, 0, 4096, 7, 0⟩ : Desc)) ∧ ((abortTag (7 : Nat) ((⟨255, 0, 8, 0, 4096, 7, 0⟩ : Desc).p0 % 65536)
      (aborting)).2 = true)) ∧
    ((rolesThere (cmd up 7 255 8 0 9 0) (.abort (7 : Nat) (8 : Nat)) = true) ∧ (Waiting (cmd up 7 255 8 0 9 0) (7 :
      Nat) 0xFF (8 : Nat) (⟨255, 0, 8, 0, 4096, 9, 0⟩ : Desc)) ∧ ((abortTag (7 : Nat) ((⟨255, 0, 8, 0, 4096, 9, 0⟩ :
      Desc).p0 % 65536) (cmd up 7 255 8 0 9 0)).2 = false)) ∧
    (((7 : Nat) < 16) ∧ (((cmd up 7 0 7 0 0 0).ring (7 : Nat)).phase = .enabled)) ∧
    (((7 : Nat) < 16) ∧ (((({up with rings := [(7, {RingState.reset with phase := .draining})]} : State).ring (7 :
      Nat)).phase == .enabled || (({up with rings := [(7, {RingState.reset with phase := .draining})]} : State).ring
      (7 : Nat)).phase == .draining) = true)) ∧
    (((7 : Nat) < 16)) ∧
    ((rolesThere ({up with rings := [(7, {RingState.reset with coalPending := 1})]} : State)
      (.interruptCoalesceExpiry (7 : Nat)) = true) ∧ ((7 : Nat) < 16) ∧ (0 < (({up with rings := [(7, {RingState.reset with coalPending := 1})]}
      : State).ring (7 : Nat)).coalPending)) ∧
    (((15 : Nat) < 16) ∧ (answersIn (up).mode 0x0800 = true)) ∧
    (((0 : Nat) < 16) ∧ (answersIn (up).mode 0x0800 = true)) ∧
    (((0 : Nat) < 16)) := by
  refine ⟨?_, ?_, ?_, ?_, ?_, ?_, ?_, ?_, ?_, ?_, ?_, ?_, ?_, ?_, ?_, ?_, ?_, ?_, ?_⟩ <;> decide +kernel

theorem witness_ProxyFrames :
    ((rolesThere (downstream) (.doorbell (0 : Nat) (0 : Nat) (1 : Nat) (0 : Nat) (1 : Nat)) = true) ∧
      ((downstream).fab.head = false) ∧ (linkOpen (downstream) 0 = true)) ∧
    ((rolesThere (up) (.readReq (2 : Nat) (0 : Nat) (0 : Nat) (1 : Nat) (0 : Nat) (1008 : Nat) (0 : Nat) (false :
      Bool) ([] : Bytes)) = true) ∧ ((up).fab.head = true) ∧ (linkOpen (up) (2 : Nat) = true) ∧ ((up).hif.d3hot =
      false) ∧ (1 ≤ (1008 : Nat)) ∧ ((1008 : Nat) ≤ 1008)) ∧
    ((rolesThere (downstream) (.readData (0 : Nat) (0 : Nat) (1 : Nat) (0 : Nat) (false : Bool) ([] : Bytes)) = true)
      ∧ ((downstream).fab.head = false) ∧ (linkOpen (downstream) 0 = true)) ∧
    ((rolesThere (up) (.proxyWrite (2 : Nat) (0 : Nat) (0 : Nat) (1 : Nat) (0 : Nat) ([] : Bytes) false) = true) ∧
      ((up).fab.head = true) ∧ (linkOpen (up) (2 : Nat) = true)) ∧
    ((rolesThere (up) (.proxyWrite (2 : Nat) (0 : Nat) (0 : Nat) (1 : Nat) (0 : Nat) ([] : Bytes) true) = true) ∧
      ((up).fab.head = true) ∧ (linkOpen (up) (2 : Nat) = true)) ∧
    ((rolesThere (up) (.interrupt (2 : Nat) (0 : Nat) (0 : Nat) (1 : Nat) (63 : Nat)) = true) ∧ ((up).fab.head =
      true) ∧ (linkOpen (up) (2 : Nat) = true) ∧ ((63 : Nat) < 64)) ∧
    ((rolesThere (downstream) (.regWrite (0 : Nat) (0 : Nat) (0x1400 : Nat) (1 : Nat)) = true) ∧
      ((downstream).fab.head = false) ∧ (linkOpen (downstream) 0 = true)) ∧
    ((rolesThere (downstream) (.regRead (0 : Nat) (0 : Nat) (0 : Nat) (0x1400 : Nat)) = true) ∧
      ((downstream).fab.head = false) ∧ (linkOpen (downstream) 0 = true)) ∧
    ((rolesThere (up) (.regData (2 : Nat) (0 : Nat) (0 : Nat) (0 : Nat) (1 : Nat)) = true) ∧ ((up).fab.head = true) ∧
      (linkOpen (up) (2 : Nat) = true)) ∧
    ((rolesThere (up) (.proxyAck (2 : Nat) (1 : Nat) (0 : Nat)) = true) ∧ (linkOpen (up) (2 : Nat) = true) ∧ ((1 :
      Nat) < 2)) ∧
    ((rolesThere (up) (.proxyRtoExpiry (2 : Nat) (0 : Nat)) = true) ∧ (linkOpen (up) (2 : Nat) = true) ∧ ((0 : Nat) <
      2)) ∧
    ((rolesThere ({up with hif := {up.hif with barReads := [⟨5, 2, 0⟩]}} : State) (.regwaitExpiry (5 : Nat)) = true)
      ∧ (({up with hif := {up.hif with barReads := [⟨5, 2, 0⟩]}} : State).hif.barReads.any (fun x => x.req == (5 :
      Nat)) = true)) := by
  refine ⟨?_, ?_, ?_, ?_, ?_, ?_, ?_, ?_, ?_, ?_, ?_, ?_⟩ <;> decide +kernel

theorem witness_PcieLink :
    ((((fun v : State => { v with hif := { v.hif with maxRead := 256 } }) (((up : State).setStat Reg.hifStatusLinkUp
      1).setStat Reg.hifStatusGen2 1)) = (fun v : State => if [128, 256, 512].contains (256 : Nat) then { v with hif := { v.hif with maxRead := (256 : Nat) } }
      else v) (((up).setStat Reg.hifStatusLinkUp 1).setStat Reg.hifStatusGen2 (bit (true : Bool)))) ∧ (((up).mode !=
      .seed) = true) ∧ ((!((fun v : State => { v with hif := { v.hif with maxRead := 256 } }) (((up : State).setStat
      Reg.hifStatusLinkUp 1).setStat Reg.hifStatusGen2 1)).running || ((fun v : State => { v with hif := { v.hif with maxRead := 256 } })
      (((up : State).setStat Reg.hifStatusLinkUp 1).setStat Reg.hifStatusGen2 1)).fab.head) = true)) ∧
    ((((fun v : State => { v with hif := { v.hif with maxRead := 256 } }) (((downstream : State).setStat
      Reg.hifStatusLinkUp 1).setStat Reg.hifStatusGen2 1)) = (fun v : State => if [128, 256, 512].contains (256 : Nat)
      then { v with hif := { v.hif with maxRead := (256 : Nat) } } else v) (((downstream).setStat Reg.hifStatusLinkUp
      1).setStat Reg.hifStatusGen2 (bit (true : Bool)))) ∧ (((downstream).mode != .seed) = true) ∧ ((!((fun v : State
      => { v with hif := { v.hif with maxRead := 256 } }) (((downstream : State).setStat Reg.hifStatusLinkUp
      1).setStat Reg.hifStatusGen2 1)).running || ((fun v : State => { v with hif := { v.hif with maxRead := 256 } })
      (((downstream : State).setStat Reg.hifStatusLinkUp 1).setStat Reg.hifStatusGen2 1)).fab.head) = false) ∧ ((((fun
      v : State => { v with hif := { v.hif with maxRead := 256 } }) (((downstream : State).setStat Reg.hifStatusLinkUp
      1).setStat Reg.hifStatusGen2 1)).fab.addr.isSome || ((fun v : State => { v with hif := { v.hif with maxRead := 256 } })
      (((downstream : State).setStat Reg.hifStatusLinkUp 1).setStat Reg.hifStatusGen2 1)).fab.join == .addrFull) =
      true)) ∧
    ((((fun v : State => { v with hif := { v.hif with maxRead := 256 } }) ((({downstream with fab := {downstream.fab with addr := none}}
      : State).setStat Reg.hifStatusLinkUp 1).setStat Reg.hifStatusGen2 1)) = (fun v : State => if [128, 256,
      512].contains (256 : Nat) then { v with hif := { v.hif with maxRead := (256 : Nat) } } else v) ((({downstream with fab := {downstream.fab with addr := none}}
      : State).setStat Reg.hifStatusLinkUp 1).setStat Reg.hifStatusGen2 (bit (true : Bool)))) ∧ ((({downstream with fab := {downstream.fab with addr := none}}
      : State).mode != .seed) = true) ∧ ((!((fun v : State => { v with hif := { v.hif with maxRead := 256 } })
      ((({downstream with fab := {downstream.fab with addr := none}} : State).setStat Reg.hifStatusLinkUp 1).setStat
      Reg.hifStatusGen2 1)).running || ((fun v : State => { v with hif := { v.hif with maxRead := 256 } })
      ((({downstream with fab := {downstream.fab with addr := none}} : State).setStat Reg.hifStatusLinkUp 1).setStat
      Reg.hifStatusGen2 1)).fab.head) = false) ∧ ((((fun v : State => { v with hif := { v.hif with maxRead := 256 } })
      ((({downstream with fab := {downstream.fab with addr := none}} : State).setStat Reg.hifStatusLinkUp 1).setStat
      Reg.hifStatusGen2 1)).fab.addr.isSome || ((fun v : State => { v with hif := { v.hif with maxRead := 256 } })
      ((({downstream with fab := {downstream.fab with addr := none}} : State).setStat Reg.hifStatusLinkUp 1).setStat
      Reg.hifStatusGen2 1)).fab.join == .addrFull) = false)) ∧
    (((up.setStat Reg.hifStatusLinkUp 1).stat Reg.hifStatusLinkUp ≠ 0)) ∧
    (((up.setStat Reg.hifStatusLinkUp 1).stat Reg.hifStatusLinkUp ≠ 0)) ∧
    ((((List.range 16).foldl ringReset up) = (List.range 16).foldl ringReset (up))) := by
  refine ⟨?_, ?_, ?_, ?_, ?_, ?_⟩ <;> decide +kernel

theorem witness_ConfigurationRing :
    ((Waiting (cmd up 0 1 7 24 0 0) 0 0x01 (7 : Nat) (⟨1, 0, 7, 24, 4096, 0, 0⟩ : Desc)) ∧ (24 ≤ (⟨1, 0, 7, 24, 4096,
      0, 0⟩ : Desc).len) ∧ ((⟨1, 0, 7, 24, 4096, 0, 0⟩ : Desc).len ≤ 16400) ∧ (blobStatus 2 (padTo (⟨1, 0, 7, 24,
      4096, 0, 0⟩ : Desc).len (emptyBlob : Bytes)) = stOk)) ∧
    ((Waiting (cmd up 0 1 7 24 0 0) 0 0x01 (7 : Nat) (⟨1, 0, 7, 24, 4096, 0, 0⟩ : Desc)) ∧ (24 ≤ (⟨1, 0, 7, 24, 4096,
      0, 0⟩ : Desc).len) ∧ ((⟨1, 0, 7, 24, 4096, 0, 0⟩ : Desc).len ≤ 16400) ∧ (blobStatus 2 (padTo (⟨1, 0, 7, 24,
      4096, 0, 0⟩ : Desc).len (zeroBytes 24 : Bytes)) ≠ stOk)) ∧
    ((Waiting (cmd up 0 2 7 16400 0 0) 0 0x02 (7 : Nat) (⟨2, 0, 7, 16400, 4096, 0, 0⟩ : Desc)) ∧ ((configBlob (cmd up
      0 2 7 16400 0 0)).length ≤ (⟨2, 0, 7, 16400, 4096, 0, 0⟩ : Desc).len)) ∧
    ((Waiting (cmd up 0 3 7 65504 0 0) 0 0x03 (7 : Nat) (⟨3, 0, 7, 65504, 4096, 0, 0⟩ : Desc)) ∧ (32 ≤ (⟨3, 0, 7,
      65504, 4096, 0, 0⟩ : Desc).len) ∧ ((⟨3, 0, 7, 65504, 4096, 0, 0⟩ : Desc).len ≤ 65504) ∧ ((⟨3, 0, 7, 65504, 4096,
      0, 0⟩ : Desc).len % 32 = 0) ∧ ((⟨3, 0, 7, 65504, 4096, 0, 0⟩ : Desc).p0 < 2 ^ 32)) ∧
    ((({up with hif := {up.hif with cfgChanged := true}, nvwp := true} : State) = ({up with hif := {up.hif with cfgChanged := true}}
      : State).sampleNvwp (some true : Option Bool)) ∧ (({up with hif := {up.hif with cfgChanged := true}} :
      State).running = true) ∧ ((({up with hif := {up.hif with cfgChanged := true}} : State).hif.cfgChanged || ({up with hif := {up.hif with cfgChanged := true}}
      : State).stat Reg.hifStatusCfgUnsaved != 0) = true) ∧ (nvWaits ({up with hif := {up.hif with cfgChanged := true}}
      : State) (· == .config) = false) ∧ (({up with hif := {up.hif with cfgChanged := true}, nvwp := true} :
      State).nvwp = true)) ∧
    ((({up with hif := {up.hif with cfgChanged := true}} : State) = ({up with hif := {up.hif with cfgChanged := true}}
      : State).sampleNvwp (none : Option Bool)) ∧ (({up with hif := {up.hif with cfgChanged := true}} : State).running
      = true) ∧ ((({up with hif := {up.hif with cfgChanged := true}} : State).hif.cfgChanged || ({up with hif := {up.hif with cfgChanged := true}}
      : State).stat Reg.hifStatusCfgUnsaved != 0) = true) ∧ (nvWaits ({up with hif := {up.hif with cfgChanged := true}}
      : State) (· == .config) = false) ∧ (({up with hif := {up.hif with cfgChanged := true}} : State).nvwp = false)) ∧
    ((rolesThere ({up with hif := {up.hif with auditWaiting := [⟨0, 0, 0, 0, 0, 0, 0, 0, 0, 0⟩]}} : State)
      (.auditCommit) = true) ∧ ((({up with hif := {up.hif with auditWaiting := [⟨0, 0, 0, 0, 0, 0, 0, 0, 0, 0⟩]}} :
      State).mode != .seed) = true) ∧ (({up with hif := {up.hif with auditWaiting := [⟨0, 0, 0, 0, 0, 0, 0, 0, 0, 0⟩]}}
      : State).hif.auditWaiting ≠ []) ∧ (nvWaits ({up with hif := {up.hif with auditWaiting := [⟨0, 0, 0, 0, 0, 0, 0, 0, 0, 0⟩]}}
      : State) isAudit = false)) := by
  refine ⟨?_, ?_, ?_, ?_, ?_, ?_, ?_⟩ <;> decide +kernel

theorem witness_MessageRings :
    ((rolesThere (cmd linked 12 1 7 1 1090 255) (.send (7 : Nat) ([3] : Bytes)) = true) ∧ (Waiting (cmd linked 12 1 7
      1 1090 255) 12 0x01 (7 : Nat) (⟨1, 0, 7, 1, 4096, 1090, 255⟩ : Desc)) ∧ (1 ≤ (⟨1, 0, 7, 1, 4096, 1090, 255⟩ :
      Desc).len) ∧ ((⟨1, 0, 7, 1, 4096, 1090, 255⟩ : Desc).len ≤ 1000) ∧ ((⟨1, 0, 7, 1, 4096, 1090, 255⟩ : Desc).p0 <
      2 ^ 17) ∧ ((⟨1, 0, 7, 1, 4096, 1090, 255⟩ : Desc).p1 < 256) ∧ ((cmd linked 12 1 7 1 1090 255).fab.addr.isNone =
      false) ∧ ((bitAt (⟨1, 0, 7, 1, 4096, 1090, 255⟩ : Desc).p0 16 || reachable (cmd linked 12 1 7 1 1090 255) ((⟨1,
      0, 7, 1, 4096, 1090, 255⟩ : Desc).p0 % 65536)) = true)) ∧
    ((rolesThere (cmd up 12 1 7 1000 1090 0) (.send (7 : Nat) ([3] : Bytes)) = true) ∧ (Waiting (cmd up 12 1 7 1000
      1090 0) 12 0x01 (7 : Nat) (⟨1, 0, 7, 1000, 4096, 1090, 0⟩ : Desc)) ∧ (1 ≤ (⟨1, 0, 7, 1000, 4096, 1090, 0⟩ :
      Desc).len) ∧ ((⟨1, 0, 7, 1000, 4096, 1090, 0⟩ : Desc).len ≤ 1000) ∧ ((⟨1, 0, 7, 1000, 4096, 1090, 0⟩ : Desc).p0
      < 2 ^ 17) ∧ ((⟨1, 0, 7, 1000, 4096, 1090, 0⟩ : Desc).p1 < 256) ∧ ((cmd up 12 1 7 1000 1090 0).fab.addr.isNone =
      false) ∧ ((bitAt (⟨1, 0, 7, 1000, 4096, 1090, 0⟩ : Desc).p0 16 || reachable (cmd up 12 1 7 1000 1090 0) ((⟨1, 0,
      7, 1000, 4096, 1090, 0⟩ : Desc).p0 % 65536)) = false)) ∧
    ((rolesThere ((cmd {up with fab := {up.fab with addr := none}} 12 1 7 1000 1090 0)) (.send (7 : Nat) ([3] :
      Bytes)) = true) ∧ (Waiting ((cmd {up with fab := {up.fab with addr := none}} 12 1 7 1000 1090 0)) 12 0x01 (7 :
      Nat) (⟨1, 0, 7, 1000, 4096, 1090, 0⟩ : Desc)) ∧ (1 ≤ (⟨1, 0, 7, 1000, 4096, 1090, 0⟩ : Desc).len) ∧ ((⟨1, 0, 7,
      1000, 4096, 1090, 0⟩ : Desc).len ≤ 1000) ∧ ((⟨1, 0, 7, 1000, 4096, 1090, 0⟩ : Desc).p0 < 2 ^ 17) ∧ ((⟨1, 0, 7,
      1000, 4096, 1090, 0⟩ : Desc).p1 < 256) ∧ (((cmd {up with fab := {up.fab with addr := none}} 12 1 7 1000 1090
      0)).fab.addr.isNone = true)) ∧
    ((rolesThere (cmd up 12 2 7 1024 0 0) (.recvBuffer (7 : Nat)) = true) ∧ (Waiting (cmd up 12 2 7 1024 0 0) 12 0x02
      (7 : Nat) (⟨2, 0, 7, 1024, 4096, 0, 0⟩ : Desc)) ∧ (1024 ≤ (⟨2, 0, 7, 1024, 4096, 0, 0⟩ : Desc).len)) ∧
    ((rolesThere (up) (.peerMessage (1090 : Nat) (0 : Nat) (0 : Nat) (0 : Nat) (false : Bool) ([] : Bytes)) = true) ∧
      ((up).running = true) ∧ (([] : Bytes).length ≤ 1000)) ∧
    ((Waiting (cmd up 15 1 7 4096 65535 0) 15 0x01 (7 : Nat) (⟨1, 0, 7, 4096, 4096, 65535, 0⟩ : Desc)) ∧ (1 ≤ (⟨1, 0,
      7, 4096, 4096, 65535, 0⟩ : Desc).len) ∧ ((⟨1, 0, 7, 4096, 4096, 65535, 0⟩ : Desc).len ≤ 4096) ∧ ((⟨1, 0, 7,
      4096, 4096, 65535, 0⟩ : Desc).p0 < 65536) ∧ ((cmd up 15 1 7 4096 65535 0).hif.mailbox.length < 8)) ∧
    ((Waiting ({cmd up 15 1 7 1 0 0 with hif := {up.hif with mailbox := List.replicate 8 ⟨1, 0, []⟩}} : State) 15
      0x01 (7 : Nat) (⟨1, 0, 7, 1, 4096, 0, 0⟩ : Desc)) ∧ (1 ≤ (⟨1, 0, 7, 1, 4096, 0, 0⟩ : Desc).len) ∧ ((⟨1, 0, 7, 1,
      4096, 0, 0⟩ : Desc).len ≤ 4096) ∧ ((⟨1, 0, 7, 1, 4096, 0, 0⟩ : Desc).p0 < 65536) ∧ (8 ≤ ({cmd up 15 1 7 1 0 0 with hif := {up.hif with mailbox := List.replicate 8 ⟨1, 0, []⟩}}
      : State).hif.mailbox.length)) ∧
    ((Waiting (cmd up 15 2 7 4112 0 0) 15 0x02 (7 : Nat) (⟨2, 0, 7, 4112, 4096, 0, 0⟩ : Desc)) ∧ (4112 ≤ (⟨2, 0, 7,
      4112, 4096, 0, 0⟩ : Desc).len)) ∧
    ((appServes (up) = true) ∧ (([] : Bytes).length ≤ 4096)) ∧
    ((appServes ({up with hif := {up.hif with mailbox := [⟨1, 0, []⟩]}} : State) = true) ∧ (({up with hif := {up.hif with mailbox := [⟨1, 0, []⟩]}}
      : State).hif.mailbox = (⟨1, 0, []⟩ : MailboxMsg) :: ([] : List MailboxMsg))) := by
  refine ⟨?_, ?_, ?_, ?_, ?_, ?_, ?_, ?_, ?_, ?_⟩ <;> decide +kernel

theorem witness_StoreEvents :
    ((rolesThere (up) (.recordWriteDone (true : Bool) (true : Bool)) = true) ∧ (((up).mode != .seed) = true) ∧
      ((up).nvs.failing = false) ∧ ((!(up).nvs.single.isEmpty || (nextCopy (up)).isSome || !ownCommitRow (up)) = true)) ∧
    ((rolesThere ({up with nvs := {up.nvs with areas := [(5, {AreaState.reset with erasing := true})]}} : State)
      (.sectorEraseDone (5 : Nat) true true) = true) ∧ (areaAt (5 : Nat) = some (.audit : Area)) ∧ ((eraseTarget (({up with nvs := {up.nvs with areas := [(5, {AreaState.reset with erasing := true})]}}
      : State).area (.audit : Area)) (.audit : Area)).isSome = true) ∧ (({up with nvs := {up.nvs with areas := [(5, {AreaState.reset with erasing := true})]}}
      : State).nvs.holdSeen = true) ∧ (({up with nvs := {up.nvs with areas := [(5, {AreaState.reset with erasing := true})]}}
      : State).nvs.failing = false)) ∧
    ((rolesThere ({up with nvs := {up.nvs with areas := [(5, {AreaState.reset with erasing := true})]}} : State)
      (.sectorEraseDone (5 : Nat) false true) = true) ∧ (areaAt (5 : Nat) = some (.audit : Area)) ∧ ((eraseTarget
      (({up with nvs := {up.nvs with areas := [(5, {AreaState.reset with erasing := true})]}} : State).area (.audit :
      Area)) (.audit : Area)).isSome = true) ∧ (({up with nvs := {up.nvs with areas := [(5, {AreaState.reset with erasing := true})]}}
      : State).nvs.holdSeen = true) ∧ (({up with nvs := {up.nvs with areas := [(5, {AreaState.reset with erasing := true})]}}
      : State).nvs.failing = false)) ∧
    ((rolesThere ({up with nvs := {up.nvs with areas := [(5, {AreaState.reset with erasing := true})]}} : State)
      (.sectorEraseDone (5 : Nat) (true : Bool) (false : Bool)) = true) ∧ (areaAt (5 : Nat) = some (.audit : Area)) ∧
      ((eraseTarget (({up with nvs := {up.nvs with areas := [(5, {AreaState.reset with erasing := true})]}} :
      State).area (.audit : Area)) (.audit : Area)).isSome = true) ∧ (((false : Bool) && ({up with nvs := {up.nvs with areas := [(5, {AreaState.reset with erasing := true})]}}
      : State).nvs.holdSeen) = false) ∧ (({up with nvs := {up.nvs with areas := [(5, {AreaState.reset with erasing := true})]}}
      : State).nvs.failing = false)) ∧
    ((chargerOn ({up with nvs := {up.nvs with holdSeen := false}} : State) = true) ∧ (({up with nvs := {up.nvs with holdSeen := false}}
      : State).nvs.holdSeen = false) ∧ (2000 ≤ (2000 : Nat))) ∧
    ((chargerOn ({up with nvs := {up.nvs with holdSeen := false}} : State) = true) ∧ (({up with nvs := {up.nvs with holdSeen := false}}
      : State).nvs.holdSeen = false) ∧ ((1999 : Nat) < 2000)) ∧
    (((3 : Nat) < 4) ∧ ((0 : Nat) < failsBelow (up) (3 : Nat)) ∧ (((up).mode != .seed) = true) ∧ ((up).nvs.failing =
      false) ∧ (((headerCut 1 .critA {up with nvs := {up.nvs with failing := true}, pwr := {up.pwr with failedSupply := some 3, supplies := up.pwr.supplies.set 3 0}}))
      = ((some (0, 1) : Option (Nat × Nat)).bind (fun e => (areaAt e.1).map (fun a => (a, e.2)))).elim { (up) with nvs := { (up).nvs with failing := true }, pwr := { (up).pwr with failedSupply := some (3 : Nat), supplies := (up).pwr.supplies.set (3 : Nat) (0 : Nat) } }
      (fun e => headerCut e.2 e.1 { (up) with nvs := { (up).nvs with failing := true }, pwr := { (up).pwr with failedSupply := some (3 : Nat), supplies := (up).pwr.supplies.set (3 : Nat) (0 : Nat) } }))
      ∧ (((headerCut 1 .critA {up with nvs := {up.nvs with failing := true}, pwr := {up.pwr with failedSupply := some 3, supplies := up.pwr.supplies.set 3 0}})).nvs.holdSeen
      = true)) ∧
    (((3 : Nat) < 4) ∧ ((0 : Nat) < failsBelow (up) (3 : Nat)) ∧ (((up).mode != .seed) = true) ∧ ((up).nvs.failing =
      false) ∧ (((headerCut 1 .critA {up with nvs := {up.nvs with failing := true}, pwr := {up.pwr with failedSupply := some 3, supplies := up.pwr.supplies.set 3 0}}))
      = ((some (0, 1) : Option (Nat × Nat)).bind (fun e => (areaAt e.1).map (fun a => (a, e.2)))).elim { (up) with nvs := { (up).nvs with failing := true }, pwr := { (up).pwr with failedSupply := some (3 : Nat), supplies := (up).pwr.supplies.set (3 : Nat) (0 : Nat) } }
      (fun e => headerCut e.2 e.1 { (up) with nvs := { (up).nvs with failing := true }, pwr := { (up).pwr with failedSupply := some (3 : Nat), supplies := (up).pwr.supplies.set (3 : Nat) (0 : Nat) } }))
      ∧ (((headerCut 1 .critA {up with nvs := {up.nvs with failing := true}, pwr := {up.pwr with failedSupply := some 3, supplies := up.pwr.supplies.set 3 0}})).nvs.holdSeen
      = true) ∧ ((finalItems ((headerCut 1 .critA {up with nvs := {up.nvs with failing := true}, pwr := {up.pwr with failedSupply := some 3, supplies := up.pwr.supplies.set 3 0}})))[(0
      : Nat)]? = some (((finalItems up)[0]?).getD (dataItem .meter 0 (.host [])) : RecItem))) ∧
    (((3 : Nat) < 4) ∧ ((0 : Nat) < failsBelow ({up with nvs := {up.nvs with holdSeen := false}} : State) (3 : Nat))
      ∧ ((({up with nvs := {up.nvs with holdSeen := false}} : State).mode != .seed) = true) ∧ (({up with nvs := {up.nvs with holdSeen := false}}
      : State).nvs.failing = false) ∧ (((headerCut 1 .critA {({up with nvs := {up.nvs with holdSeen := false}} : State) with nvs := {({up with nvs := {up.nvs with holdSeen := false}} : State).nvs with failing := true}, pwr := {({up with nvs := {up.nvs with holdSeen := false}} : State).pwr with failedSupply := some 3, supplies := ({up with nvs := {up.nvs with holdSeen := false}} : State).pwr.supplies.set 3 0}}))
      = ((some (0, 1) : Option (Nat × Nat)).bind (fun e => (areaAt e.1).map (fun a => (a, e.2)))).elim { ({up with nvs := {up.nvs with holdSeen := false}} : State) with nvs := { ({up with nvs := {up.nvs with holdSeen := false}} : State).nvs with failing := true }, pwr := { ({up with nvs := {up.nvs with holdSeen := false}} : State).pwr with failedSupply := some (3 : Nat), supplies := ({up with nvs := {up.nvs with holdSeen := false}} : State).pwr.supplies.set (3 : Nat) (0 : Nat) } }
      (fun e => headerCut e.2 e.1 { ({up with nvs := {up.nvs with holdSeen := false}} : State) with nvs := { ({up with nvs := {up.nvs with holdSeen := false}} : State).nvs with failing := true }, pwr := { ({up with nvs := {up.nvs with holdSeen := false}} : State).pwr with failedSupply := some (3 : Nat), supplies := ({up with nvs := {up.nvs with holdSeen := false}} : State).pwr.supplies.set (3 : Nat) (0 : Nat) } }))
      ∧ (((headerCut 1 .critA {({up with nvs := {up.nvs with holdSeen := false}} : State) with nvs := {({up with nvs := {up.nvs with holdSeen := false}} : State).nvs with failing := true}, pwr := {({up with nvs := {up.nvs with holdSeen := false}} : State).pwr with failedSupply := some 3, supplies := ({up with nvs := {up.nvs with holdSeen := false}} : State).pwr.supplies.set 3 0}})).nvs.holdSeen
      = false)) ∧
    ((rolesThere (up.setForce Reg.nvsCtrlScrubEn 1) (.scrubPeriod ([] : List Nat) ([] : List (Nat × Nat)) true ([] :
      List Nat)) = true) ∧ ((up.setForce Reg.nvsCtrlScrubEn 1).on Reg.nvsCtrlScrubEn = true) ∧ (((up.setForce
      Reg.nvsCtrlScrubEn 1).mode != .seed) = true) ∧ ((up.setForce Reg.nvsCtrlScrubEn 1).nvs.holdSeen = true) ∧
      ((up.setForce Reg.nvsCtrlScrubEn 1).nvs.failing = false)) ∧
    ((rolesThere (up.setForce Reg.nvsCtrlScrubEn 1) (.scrubPeriod ([0] : List Nat) ([] : List (Nat × Nat)) (false :
      Bool) ([] : List Nat)) = true) ∧ ((up.setForce Reg.nvsCtrlScrubEn 1).on Reg.nvsCtrlScrubEn = true) ∧
      (((up.setForce Reg.nvsCtrlScrubEn 1).mode != .seed) = true) ∧ (((false : Bool) && (up.setForce
      Reg.nvsCtrlScrubEn 1).nvs.holdSeen) = false) ∧ ((up.setForce Reg.nvsCtrlScrubEn 1).nvs.failing = false) ∧ ((([0]
      : List Nat).isEmpty && ([] : List (Nat × Nat)).isEmpty) = false)) ∧
    (∃ (s t : State) (i : RecItem) (w : AreaState), StoreForm s ∧ i.area ≠ .critB ∧ areaFor i.area (s.area i.area)
      (footprint i.len) = some w ∧ (w.erase.contains w.writeSector || w.unformatted.contains w.writeSector) = false ∧
      (∀ r ∈ s.nvs.recs, r.area = i.area → r.sector = w.writeSector → r.headOk = true) ∧ programItem s i true = some t) :=
  ⟨by decide +kernel, by decide +kernel, by decide +kernel, by decide +kernel, by decide +kernel, by decide +kernel, by decide +kernel, by decide +kernel, by decide +kernel, by decide +kernel, by decide +kernel, ⟨up, (programItem up (dataItem .meter 0x0100 (.host [1])) true).getD up, dataItem .meter 0x0100 (.host [1]), (areaFor .meter (up.area .meter) (footprint 1)).getD AreaState.reset, (by intro a; cases a <;> exact ⟨by decide +kernel, by decide +kernel, by decide +kernel, by decide +kernel, by decide +kernel, by decide +kernel⟩), by decide +kernel, by decide +kernel, by decide +kernel, by decide +kernel, by decide +kernel⟩⟩

theorem witness_StoreRing :
    ((Waiting ({cmd up 9 1 7 1024 0x8000 0 with nvs := {up.nvs with recs := [⟨.critA, 0, 16, false, 0x8000, 1, false, false, true, true, true, none, .host [1, 2]⟩]}}
      : State) 9 0x01 (7 : Nat) (⟨1, 0, 7, 1024, 4096, 0x8000, 0⟩ : Desc)) ∧ (1024 ≤ (⟨1, 0, 7, 1024, 4096, 0x8000, 0⟩
      : Desc).len) ∧ (hostKey (⟨1, 0, 7, 1024, 4096, 0x8000, 0⟩ : Desc).p0 = true) ∧ (hostRecord ({cmd up 9 1 7 1024 0x8000 0 with nvs := {up.nvs with recs := [⟨.critA, 0, 16, false, 0x8000, 1, false, false, true, true, true, none, .host [1, 2]⟩]}}
      : State) (⟨1, 0, 7, 1024, 4096, 0x8000, 0⟩ : Desc).p0 = some ([1, 2] : Bytes))) ∧
    ((Waiting (cmd up 9 1 7 1024 0x80FF 0) 9 0x01 (7 : Nat) (⟨1, 0, 7, 1024, 4096, 0x80FF, 0⟩ : Desc)) ∧ (1024 ≤ (⟨1,
      0, 7, 1024, 4096, 0x80FF, 0⟩ : Desc).len) ∧ (hostKey (⟨1, 0, 7, 1024, 4096, 0x80FF, 0⟩ : Desc).p0 = true) ∧
      (hostRecord (cmd up 9 1 7 1024 0x80FF 0) (⟨1, 0, 7, 1024, 4096, 0x80FF, 0⟩ : Desc).p0 = none)) ∧
    ((Waiting (cmd up 9 2 7 1024 0x8000 0) 9 0x02 (7 : Nat) (⟨2, 0, 7, 1024, 4096, 0x8000, 0⟩ : Desc)) ∧ ((⟨2, 0, 7,
      1024, 4096, 0x8000, 0⟩ : Desc).len ≤ 1024) ∧ (hostKey (⟨2, 0, 7, 1024, 4096, 0x8000, 0⟩ : Desc).p0 = true) ∧
      ((cmd up 9 2 7 1024 0x8000 0).nvwp = false) ∧ (nvBusy (cmd up 9 2 7 1024 0x8000 0) 9 = false) ∧ (hostBytes (cmd
      up 9 2 7 1024 0x8000 0) (⟨2, 0, 7, 1024, 4096, 0x8000, 0⟩ : Desc).p0 + (⟨2, 0, 7, 1024, 4096, 0x8000, 0⟩ :
      Desc).len ≤ 131072)) ∧
    ((Waiting ({cmd up 9 2 7 1024 0x8000 0 with nvs := {up.nvs with recs := [⟨.critA, 0, 16, false, 0x8001, 1, false, false, true, true, true, none, .host (List.replicate 131000 0)⟩]}}
      : State) 9 0x02 (7 : Nat) (⟨2, 0, 7, 1024, 4096, 0x8000, 0⟩ : Desc)) ∧ ((⟨2, 0, 7, 1024, 4096, 0x8000, 0⟩ :
      Desc).len ≤ 1024) ∧ (hostKey (⟨2, 0, 7, 1024, 4096, 0x8000, 0⟩ : Desc).p0 = true) ∧ (({cmd up 9 2 7 1024 0x8000 0 with nvs := {up.nvs with recs := [⟨.critA, 0, 16, false, 0x8001, 1, false, false, true, true, true, none, .host (List.replicate 131000 0)⟩]}}
      : State).nvwp = false) ∧ (nvBusy ({cmd up 9 2 7 1024 0x8000 0 with nvs := {up.nvs with recs := [⟨.critA, 0, 16, false, 0x8001, 1, false, false, true, true, true, none, .host (List.replicate 131000 0)⟩]}}
      : State) 9 = false) ∧ (131072 < hostBytes ({cmd up 9 2 7 1024 0x8000 0 with nvs := {up.nvs with recs := [⟨.critA, 0, 16, false, 0x8001, 1, false, false, true, true, true, none, .host (List.replicate 131000 0)⟩]}}
      : State) (⟨2, 0, 7, 1024, 4096, 0x8000, 0⟩ : Desc).p0 + (⟨2, 0, 7, 1024, 4096, 0x8000, 0⟩ : Desc).len)) ∧
    ((Waiting ({cmd up 9 2 7 0 0x8000 0 with nvwp := true} : State) 9 0x02 (7 : Nat) (⟨2, 0, 7, 0, 4096, 0x8000, 0⟩ :
      Desc)) ∧ ((⟨2, 0, 7, 0, 4096, 0x8000, 0⟩ : Desc).len ≤ 1024) ∧ (hostKey (⟨2, 0, 7, 0, 4096, 0x8000, 0⟩ :
      Desc).p0 = true) ∧ (({cmd up 9 2 7 0 0x8000 0 with nvwp := true} : State).nvwp = true)) ∧
    ((Waiting (cmd up 9 3 7 0 0x8000 0) 9 0x03 (7 : Nat) (⟨3, 0, 7, 0, 4096, 0x8000, 0⟩ : Desc)) ∧ (hostKey (⟨3, 0,
      7, 0, 4096, 0x8000, 0⟩ : Desc).p0 = true) ∧ ((cmd up 9 3 7 0 0x8000 0).nvwp = false) ∧ (nvBusy (cmd up 9 3 7 0
      0x8000 0) 9 = false)) ∧
    ((Waiting (cmd up 9 4 7 32 0 0) 9 0x04 (7 : Nat) (⟨4, 0, 7, 32, 4096, 0, 0⟩ : Desc)) ∧ ((⟨4, 0, 7, 32, 4096, 0,
      0⟩ : Desc).len = 32)) ∧
    ((Waiting (cmd up 9 5 7 48 0 0) 9 0x05 (7 : Nat) (⟨5, 0, 7, 48, 4096, 0, 0⟩ : Desc)) ∧ ((⟨5, 0, 7, 48, 4096, 0,
      0⟩ : Desc).len = 48)) ∧
    ((rolesThere (cmd up 9 6 7 0 63 0) (.scrubNow (7 : Nat) ([0] : List Nat) ([] : List (Nat × Nat)) true ([] : List
      Nat)) = true) ∧ (Waiting (cmd up 9 6 7 0 63 0) 9 0x06 (7 : Nat) (⟨6, 0, 7, 0, 4096, 63, 0⟩ : Desc)) ∧ ((⟨6, 0,
      7, 0, 4096, 63, 0⟩ : Desc).p0 < 64) ∧ ((([0] : List Nat).isEmpty && ([] : List (Nat × Nat)).isEmpty) = false) ∧
      ((cmd up 9 6 7 0 63 0).nvs.holdSeen = true) ∧ ((cmd up 9 6 7 0 63 0).nvs.failing = false)) ∧
    ((rolesThere ({cmd up 9 6 7 0 63 0 with nvs := {up.nvs with failing := true}} : State) (.scrubNow (7 : Nat) ([0]
      : List Nat) ([] : List (Nat × Nat)) (true : Bool) ([] : List Nat)) = true) ∧ (Waiting ({cmd up 9 6 7 0 63 0 with nvs := {up.nvs with failing := true}}
      : State) 9 0x06 (7 : Nat) (⟨6, 0, 7, 0, 4096, 63, 0⟩ : Desc)) ∧ ((⟨6, 0, 7, 0, 4096, 63, 0⟩ : Desc).p0 < 64) ∧
      ((([0] : List Nat).isEmpty && ([] : List (Nat × Nat)).isEmpty) = false) ∧ (((true : Bool) && ({cmd up 9 6 7 0 63 0 with nvs := {up.nvs with failing := true}}
      : State).nvs.holdSeen && !({cmd up 9 6 7 0 63 0 with nvs := {up.nvs with failing := true}} : State).nvs.failing)
      = false)) ∧
    ((rolesThere (cmd up 9 6 7 0 63 0) (.scrubNow (7 : Nat) [] [] (true : Bool) ([] : List Nat)) = true) ∧ (Waiting
      (cmd up 9 6 7 0 63 0) 9 0x06 (7 : Nat) (⟨6, 0, 7, 0, 4096, 63, 0⟩ : Desc)) ∧ ((⟨6, 0, 7, 0, 4096, 63, 0⟩ :
      Desc).p0 < 64)) := by
  refine ⟨?_, ?_, ?_, ?_, ?_, ?_, ?_, ?_, ?_, ?_, ?_⟩ <;> decide +kernel

theorem witness_UpdateRing :
    ((rolesThere (cmd up 10 1 7 4096 0 0) (.begin_ (7 : Nat) ([] : Bytes) (true : Bool)) = true) ∧ (Waiting (cmd up
      10 1 7 4096 0 0) 10 0x01 (7 : Nat) (⟨1, 0, 7, 4096, 4096, 0, 0⟩ : Desc)) ∧ ((⟨1, 0, 7, 4096, 4096, 0, 0⟩ :
      Desc).len = 4096) ∧ (onlyLow 1 (⟨1, 0, 7, 4096, 4096, 0, 0⟩ : Desc).p0 = true) ∧ ((cmd up 10 1 7 4096 0 0).nvwp
      = false) ∧ ((cmd up 10 1 7 4096 0 0).upd.phase ≠ .activating) ∧ ((cmd up 10 1 7 4096 0 0).nvs.failing = false)) ∧
    ((rolesThere (cmd {up with upd := {up.upd with phase := .receiving, header := shortHeader}} 10 2 7 1 256 0)
      (.chunk (7 : Nat) ([0] : Bytes) (2 : Nat)) = true) ∧ (Waiting (cmd {up with upd := {up.upd with phase := .receiving, header := shortHeader}}
      10 2 7 1 256 0) 10 0x02 (7 : Nat) (⟨2, 0, 7, 1, 4096, 256, 0⟩ : Desc)) ∧ (1 ≤ (⟨2, 0, 7, 1, 4096, 256, 0⟩ :
      Desc).len) ∧ ((⟨2, 0, 7, 1, 4096, 256, 0⟩ : Desc).len ≤ 131072) ∧ (onlyLow 9 (⟨2, 0, 7, 1, 4096, 256, 0⟩ :
      Desc).p0 = true) ∧ ((cmd {up with upd := {up.upd with phase := .receiving, header := shortHeader}} 10 2 7 1 256
      0).nvwp = false) ∧ ((cmd {up with upd := {up.upd with phase := .receiving, header := shortHeader}} 10 2 7 1 256
      0).upd.phase = .receiving) ∧ ((⟨2, 0, 7, 1, 4096, 256, 0⟩ : Desc).p0 % 256 = nextChunk (cmd {up with upd := {up.upd with phase := .receiving, header := shortHeader}}
      10 2 7 1 256 0)) ∧ (chunkContent (cmd {up with upd := {up.upd with phase := .receiving, header := shortHeader}}
      10 2 7 1 256 0) (⟨2, 0, 7, 1, 4096, 256, 0⟩ : Desc) (padTo (⟨2, 0, 7, 1, 4096, 256, 0⟩ : Desc).len ([0] :
      Bytes)) = some ([0] : Bytes)) ∧ (chunkMatches (cmd {up with upd := {up.upd with phase := .receiving, header := shortHeader}}
      10 2 7 1 256 0).upd.header ((⟨2, 0, 7, 1, 4096, 256, 0⟩ : Desc).p0 % 256) ([0] : Bytes) = true) ∧ ((cmd {up with upd := {up.upd with phase := .receiving, header := shortHeader}}
      10 2 7 1 256 0).nvs.failing = false) ∧ ((cmd {up with upd := {up.upd with phase := .receiving, header := shortHeader}}
      10 2 7 1 256 0).nvs.holdSeen = true) ∧ (sectorsDue (cmd {up with upd := {up.upd with phase := .receiving, header := shortHeader}}
      10 2 7 1 256 0) ((⟨2, 0, 7, 1, 4096, 256, 0⟩ : Desc).p0 % 256) ([0] : Bytes) ≤ (2 : Nat))) ∧
    ((rolesThere (cmd {up with upd := {up.upd with phase := .receiving, header := shortHeader}} 10 2 7 1 256 0)
      (.chunk (7 : Nat) ([0] : Bytes) (0 : Nat)) = true) ∧ (Waiting (cmd {up with upd := {up.upd with phase := .receiving, header := shortHeader}}
      10 2 7 1 256 0) 10 0x02 (7 : Nat) (⟨2, 0, 7, 1, 4096, 256, 0⟩ : Desc)) ∧ (1 ≤ (⟨2, 0, 7, 1, 4096, 256, 0⟩ :
      Desc).len) ∧ ((⟨2, 0, 7, 1, 4096, 256, 0⟩ : Desc).len ≤ 131072) ∧ (onlyLow 9 (⟨2, 0, 7, 1, 4096, 256, 0⟩ :
      Desc).p0 = true) ∧ ((cmd {up with upd := {up.upd with phase := .receiving, header := shortHeader}} 10 2 7 1 256
      0).nvwp = false) ∧ ((cmd {up with upd := {up.upd with phase := .receiving, header := shortHeader}} 10 2 7 1 256
      0).upd.phase = .receiving) ∧ ((⟨2, 0, 7, 1, 4096, 256, 0⟩ : Desc).p0 % 256 = nextChunk (cmd {up with upd := {up.upd with phase := .receiving, header := shortHeader}}
      10 2 7 1 256 0)) ∧ (chunkContent (cmd {up with upd := {up.upd with phase := .receiving, header := shortHeader}}
      10 2 7 1 256 0) (⟨2, 0, 7, 1, 4096, 256, 0⟩ : Desc) (padTo (⟨2, 0, 7, 1, 4096, 256, 0⟩ : Desc).len ([0] :
      Bytes)) = some ([0] : Bytes)) ∧ (chunkMatches (cmd {up with upd := {up.upd with phase := .receiving, header := shortHeader}}
      10 2 7 1 256 0).upd.header ((⟨2, 0, 7, 1, 4096, 256, 0⟩ : Desc).p0 % 256) ([0] : Bytes) = true) ∧ ((cmd {up with upd := {up.upd with phase := .receiving, header := shortHeader}}
      10 2 7 1 256 0).nvs.failing = false) ∧ ((if (cmd {up with upd := {up.upd with phase := .receiving, header := shortHeader}}
      10 2 7 1 256 0).nvs.holdSeen then (0 : Nat) else 0) < sectorsDue (cmd {up with upd := {up.upd with phase := .receiving, header := shortHeader}}
      10 2 7 1 256 0) ((⟨2, 0, 7, 1, 4096, 256, 0⟩ : Desc).p0 % 256) ([0] : Bytes))) ∧
    ((rolesThere (cmd {up with upd := {up.upd with phase := .receiving, header := shortHeader}} 10 2 7 1 256 0)
      (.chunk (7 : Nat) ([1] : Bytes) (0 : Nat)) = true) ∧ (Waiting (cmd {up with upd := {up.upd with phase := .receiving, header := shortHeader}}
      10 2 7 1 256 0) 10 0x02 (7 : Nat) (⟨2, 0, 7, 1, 4096, 256, 0⟩ : Desc)) ∧ (1 ≤ (⟨2, 0, 7, 1, 4096, 256, 0⟩ :
      Desc).len) ∧ ((⟨2, 0, 7, 1, 4096, 256, 0⟩ : Desc).len ≤ 131072) ∧ (onlyLow 9 (⟨2, 0, 7, 1, 4096, 256, 0⟩ :
      Desc).p0 = true) ∧ ((cmd {up with upd := {up.upd with phase := .receiving, header := shortHeader}} 10 2 7 1 256
      0).nvwp = false) ∧ ((cmd {up with upd := {up.upd with phase := .receiving, header := shortHeader}} 10 2 7 1 256
      0).upd.phase = .receiving) ∧ ((⟨2, 0, 7, 1, 4096, 256, 0⟩ : Desc).p0 % 256 = nextChunk (cmd {up with upd := {up.upd with phase := .receiving, header := shortHeader}}
      10 2 7 1 256 0)) ∧ (chunkContent (cmd {up with upd := {up.upd with phase := .receiving, header := shortHeader}}
      10 2 7 1 256 0) (⟨2, 0, 7, 1, 4096, 256, 0⟩ : Desc) (padTo (⟨2, 0, 7, 1, 4096, 256, 0⟩ : Desc).len ([1] :
      Bytes)) = some ([1] : Bytes)) ∧ (chunkMatches (cmd {up with upd := {up.upd with phase := .receiving, header := shortHeader}}
      10 2 7 1 256 0).upd.header ((⟨2, 0, 7, 1, 4096, 256, 0⟩ : Desc).p0 % 256) ([1] : Bytes) = false)) ∧
    ((rolesThere ({up with upd := {up.upd with deferred := some (7, [])}} : State) (.chunkDeferExpiry) = true) ∧
      (({up with upd := {up.upd with deferred := some (7, [])}} : State).upd.deferred = some ((7 : Nat), ([] :
      Bytes)))) ∧
    ((Waiting (cmd {up with upd := {up.upd with phase := .written}} 10 3 7 0 1 0) 10 0x03 (7 : Nat) (⟨3, 0, 7, 0,
      4096, 1, 0⟩ : Desc)) ∧ (onlyLow 1 (⟨3, 0, 7, 0, 4096, 1, 0⟩ : Desc).p0 = true) ∧ ((decide ((⟨3, 0, 7, 0, 4096,
      1, 0⟩ : Desc).len = 0) || newBlob (cmd {up with upd := {up.upd with phase := .written}} 10 3 7 0 1 0) (padTo
      (⟨3, 0, 7, 0, 4096, 1, 0⟩ : Desc).len ([] : Bytes))) = true) ∧ ((cmd {up with upd := {up.upd with phase := .written}}
      10 3 7 0 1 0).upd.phase = .written) ∧ ((cmd {up with upd := {up.upd with phase := .written}} 10 3 7 0 1
      0).upd.loader = false) ∧ (bitAt (⟨3, 0, 7, 0, 4096, 1, 0⟩ : Desc).p0 0 = true) ∧ (activateStatus (cmd {up with upd := {up.upd with phase := .written}}
      10 3 7 0 1 0) (padTo (⟨3, 0, 7, 0, 4096, 1, 0⟩ : Desc).len ([] : Bytes)) = stOk)) ∧
    ((Waiting (cmd {up with upd := {up.upd with phase := .written}} 10 3 7 0 1 0) 10 0x03 (7 : Nat) (⟨3, 0, 7, 0,
      4096, 1, 0⟩ : Desc)) ∧ (onlyLow 1 (⟨3, 0, 7, 0, 4096, 1, 0⟩ : Desc).p0 = true) ∧ ((decide ((⟨3, 0, 7, 0, 4096,
      1, 0⟩ : Desc).len = 0) || newBlob (cmd {up with upd := {up.upd with phase := .written}} 10 3 7 0 1 0) (padTo
      (⟨3, 0, 7, 0, 4096, 1, 0⟩ : Desc).len ([] : Bytes))) = true) ∧ ((cmd {up with upd := {up.upd with phase := .written}}
      10 3 7 0 1 0).upd.phase = .written) ∧ ((cmd {up with upd := {up.upd with phase := .written}} 10 3 7 0 1
      0).upd.loader = false) ∧ (bitAt (⟨3, 0, 7, 0, 4096, 1, 0⟩ : Desc).p0 0 = true) ∧ (activateStatus (cmd {up with upd := {up.upd with phase := .written}}
      10 3 7 0 1 0) (padTo (⟨3, 0, 7, 0, 4096, 1, 0⟩ : Desc).len ([] : Bytes)) = stOk)) ∧
    ((Waiting (cmd {up with upd := {up.upd with phase := .written, spareRole := some 3}} 10 3 7 0 1 0) 10 0x03 (7 :
      Nat) (⟨3, 0, 7, 0, 4096, 1, 0⟩ : Desc)) ∧ (onlyLow 1 (⟨3, 0, 7, 0, 4096, 1, 0⟩ : Desc).p0 = true) ∧ ((decide
      ((⟨3, 0, 7, 0, 4096, 1, 0⟩ : Desc).len = 0) || newBlob (cmd {up with upd := {up.upd with phase := .written, spareRole := some 3}}
      10 3 7 0 1 0) (padTo (⟨3, 0, 7, 0, 4096, 1, 0⟩ : Desc).len ([] : Bytes))) = true) ∧ ((cmd {up with upd := {up.upd with phase := .written, spareRole := some 3}}
      10 3 7 0 1 0).upd.phase = .written) ∧ ((cmd {up with upd := {up.upd with phase := .written, spareRole := some 3}}
      10 3 7 0 1 0).upd.loader = false) ∧ (bitAt (⟨3, 0, 7, 0, 4096, 1, 0⟩ : Desc).p0 0 = true) ∧ (activateStatus (cmd
      {up with upd := {up.upd with phase := .written, spareRole := some 3}} 10 3 7 0 1 0) (padTo (⟨3, 0, 7, 0, 4096,
      1, 0⟩ : Desc).len ([] : Bytes)) ≠ stOk)) ∧
    ((Waiting (cmd {up with upd := {up.upd with phase := .written}} 10 3 7 0 0 0) 10 0x03 (7 : Nat) (⟨3, 0, 7, 0,
      4096, 0, 0⟩ : Desc)) ∧ (onlyLow 1 (⟨3, 0, 7, 0, 4096, 0, 0⟩ : Desc).p0 = true) ∧ ((decide ((⟨3, 0, 7, 0, 4096,
      0, 0⟩ : Desc).len = 0) || newBlob (cmd {up with upd := {up.upd with phase := .written}} 10 3 7 0 0 0) (padTo
      (⟨3, 0, 7, 0, 4096, 0, 0⟩ : Desc).len ([] : Bytes))) = true) ∧ ((cmd {up with upd := {up.upd with phase := .written}}
      10 3 7 0 0 0).upd.phase = .written) ∧ ((cmd {up with upd := {up.upd with phase := .written}} 10 3 7 0 0
      0).upd.loader = false) ∧ (bitAt (⟨3, 0, 7, 0, 4096, 0, 0⟩ : Desc).p0 0 = false)) ∧
    ((Waiting (cmd up 10 4 7 0 0 0) 10 0x04 (7 : Nat) (⟨4, 0, 7, 0, 4096, 0, 0⟩ : Desc))) ∧
    ((Waiting (cmd exporting 10 5 7 65536 0 0) 10 0x05 (7 : Nat) (⟨5, 0, 7, 65536, 4096, 0, 0⟩ : Desc)) ∧
      (exportPermits (cmd exporting 10 5 7 65536 0 0) = true) ∧ ((assetRecord (cmd exporting 10 5 7 65536 0 0)).length
      ≤ (⟨5, 0, 7, 65536, 4096, 0, 0⟩ : Desc).len)) ∧
    ((Waiting (cmd up 10 5 7 64 0 0) 10 0x05 (7 : Nat) (⟨5, 0, 7, 64, 4096, 0, 0⟩ : Desc)) ∧ (exportPermits (cmd up
      10 5 7 64 0 0) = false)) ∧
    ((rolesThere (cmd up 10 6 7 136 0 0) (.importAsset (7 : Nat) (aAsset : Bytes) (true : Bool)) = true) ∧ (Waiting
      (cmd up 10 6 7 136 0 0) 10 0x06 (7 : Nat) (⟨6, 0, 7, 136, 4096, 0, 0⟩ : Desc)) ∧ (assetForm (padTo (⟨6, 0, 7,
      136, 4096, 0, 0⟩ : Desc).len (aAsset : Bytes)) = true) ∧ ((cmd up 10 6 7 136 0 0).nvwp = false) ∧ (nvBusy (cmd
      up 10 6 7 136 0 0) 10 = false) ∧ (assetReason (cmd up 10 6 7 136 0 0) (padTo (⟨6, 0, 7, 136, 4096, 0, 0⟩ :
      Desc).len (aAsset : Bytes)) (leBytes 8 (⟨6, 0, 7, 136, 4096, 0, 0⟩ : Desc).p0 ++ leBytes 8 (⟨6, 0, 7, 136, 4096,
      0, 0⟩ : Desc).p1) ≠ 0)) ∧
    ((rolesThere (cmd importing 10 6 7 136 15055885282621557406 13221260720026596347) (.importAsset (7 : Nat) (aAsset
      : Bytes) true) = true) ∧ (Waiting (cmd importing 10 6 7 136 15055885282621557406 13221260720026596347) 10 0x06
      (7 : Nat) (⟨6, 0, 7, 136, 4096, 15055885282621557406, 13221260720026596347⟩ : Desc)) ∧ (assetForm (padTo (⟨6, 0,
      7, 136, 4096, 15055885282621557406, 13221260720026596347⟩ : Desc).len (aAsset : Bytes)) = true) ∧ ((cmd
      importing 10 6 7 136 15055885282621557406 13221260720026596347).nvwp = false) ∧ (nvBusy (cmd importing 10 6 7
      136 15055885282621557406 13221260720026596347) 10 = false) ∧ (assetReason (cmd importing 10 6 7 136
      15055885282621557406 13221260720026596347) (padTo (⟨6, 0, 7, 136, 4096, 15055885282621557406,
      13221260720026596347⟩ : Desc).len (aAsset : Bytes)) (leBytes 8 (⟨6, 0, 7, 136, 4096, 15055885282621557406,
      13221260720026596347⟩ : Desc).p0 ++ leBytes 8 (⟨6, 0, 7, 136, 4096, 15055885282621557406, 13221260720026596347⟩
      : Desc).p1) = 0) ∧ (assetBody (padTo (⟨6, 0, 7, 136, 4096, 15055885282621557406, 13221260720026596347⟩ :
      Desc).len (aAsset : Bytes)) = true) ∧ ((authJob true (cmd importing 10 6 7 136 15055885282621557406
      13221260720026596347)).nvs.holdSeen = true)) ∧
    ((Waiting (cmd up 10 7 7 64 0 0) 10 0x07 (7 : Nat) (⟨7, 0, 7, 64, 4096, 0, 0⟩ : Desc)) ∧ ((⟨7, 0, 7, 64, 4096, 0,
      0⟩ : Desc).len = 64) ∧ ((cmd up 10 7 7 64 0 0).upd.appKey = 0) ∧ (((cmd up 10 7 7 64 0 0).cip.lifeCycle ==
      .blank || (cmd up 10 7 7 64 0 0).cip.lifeCycle == .provisioned) = true) ∧ ((cmd up 10 7 7 64 0 0).nvwp = false)) ∧
    ((Waiting (cmd {up with upd := {up.upd with appKey := 1}} 10 7 7 64 0 0) 10 0x07 (7 : Nat) (⟨7, 0, 7, 64, 4096,
      0, 0⟩ : Desc)) ∧ ((⟨7, 0, 7, 64, 4096, 0, 0⟩ : Desc).len = 64) ∧ (((cmd {up with upd := {up.upd with appKey := 1}}
      10 7 7 64 0 0).upd.appKey = 0 && ((cmd {up with upd := {up.upd with appKey := 1}} 10 7 7 64 0 0).cip.lifeCycle
      == .blank || (cmd {up with upd := {up.upd with appKey := 1}} 10 7 7 64 0 0).cip.lifeCycle == .provisioned)) =
      false)) := by
  refine ⟨?_, ?_, ?_, ?_, ?_, ?_, ?_, ?_, ?_, ?_, ?_, ?_, ?_, ?_, ?_, ?_⟩ <;> decide +kernel

theorem witness_LiveActivation :
    ((({up with upd := {up.upd with act := some ⟨7, .role 3, 0, none, none⟩}} : State).running = true) ∧ (({up with upd := {up.upd with act := some ⟨7, .role 3, 0, none, none⟩}}
      : State).upd.act = some (⟨7, .role 3, 0, none, none⟩ : Activation)) ∧ ((⟨7, .role 3, 0, none, none⟩ :
      Activation).step = .role (3 : Nat))) ∧
    ((({up with upd := {up.upd with act := some ⟨7, .role 3, 0, none, none⟩}} : State).running = true) ∧ (({up with upd := {up.upd with act := some ⟨7, .role 3, 0, none, none⟩}}
      : State).upd.act = some (⟨7, .role 3, 0, none, none⟩ : Activation)) ∧ ((⟨7, .role 3, 0, none, none⟩ :
      Activation).step = .role (3 : Nat))) ∧
    ((atAppStep ({up with upd := {up.upd with act := some ⟨7, .app, 0, none, none⟩}} : State) = some (⟨7, .app, 0,
      none, none⟩ : Activation))) ∧
    ((atAppStep (({up with upd := {up.upd with act := some ⟨7, .app, 0, none, none⟩}}).setForce Reg.updCtrlAppForce
      0) = some (⟨7, .app, 0, none, none⟩ : Activation)) ∧ ((({up with upd := {up.upd with act := some ⟨7, .app, 0, none, none⟩}}).setForce
      Reg.updCtrlAppForce 0).on Reg.updCtrlAppForce = false)) ∧
    ((atAppStep (({up with upd := {up.upd with act := some ⟨7, .app, 0, none, none⟩}}).setForce Reg.updCtrlAppForce
      1) = some (⟨7, .app, 0, none, none⟩ : Activation)) ∧ ((({up with upd := {up.upd with act := some ⟨7, .app, 0, none, none⟩}}).setForce
      Reg.updCtrlAppForce 1).on Reg.updCtrlAppForce = true)) := by
  refine ⟨?_, ?_, ?_, ?_, ?_⟩ <;> decide +kernel

theorem witness_PowerLadder :
    ((mayDescend (((((({up with fab := {up.fab with head := false}} : State).setForce Reg.pwrIdleDeepAfter
      1).setForce Reg.pwrIdleRung 2).setForce Reg.lfPollEn 0).setForce Reg.tpxCtrlEn 0).setForce Reg.mtrCtrlEn 0) =
      true)) ∧
    ((wakes ({up with pwr := {up.pwr with deep := some 3}} : State) (2 : Nat) = true) ∧ ((2 : Nat) ≠ 3)) ∧
    ((wakes (({up with pwr := {up.pwr with deep := some 4}}).setForce Reg.pwrAlarm 1) 3 = true)) ∧
    (((3 : Nat) < 4) ∧ (({up with pwr := {up.pwr with deep := some 3}} : State).pwr.deep = some rungTwig)) ∧
    ((({up with mode := .seed} : State).mode = .seed) ∧ ((1999 : Nat) < 2000)) ∧
    (((up).mode ≠ .seed)) ∧
    ((((up).mode != .seed) = true)) ∧
    ((((up).mode != .seed) = true) ∧ ((up).pwr.deep = none)) ∧
    ((((up).mode != .seed) = true) ∧ (rung (up) ≤ 1)) ∧
    ((((up).mode != .seed) = true) ∧ (rung (up) ≤ 1)) ∧
    ((((up).mode != .seed) = true) ∧ ((up).stat Reg.pwrStatusKeepRc = 0)) ∧
    (((up.setStat Reg.pwrStatusKeepRc 1).stat Reg.pwrStatusKeepRc = 1)) := by
  refine ⟨?_, ?_, ?_, ?_, ?_, ?_, ?_, ?_, ?_, ?_, ?_, ?_⟩ <;> decide +kernel

theorem witness_RealTimeClockAndReports :
    ((Waiting (cmd up 13 2 7 0 4294967295 0) 13 0x02 (7 : Nat) (⟨2, 0, 7, 0, 4096, 4294967295, 0⟩ : Desc)) ∧ ((⟨2, 0,
      7, 0, 4096, 4294967295, 0⟩ : Desc).p0 < 2 ^ 32) ∧ (((⟨2, 0, 7, 0, 4096, 4294967295, 0⟩ : Desc).len = 0 || (⟨2,
      0, 7, 0, 4096, 4294967295, 0⟩ : Desc).len = 16) = true) ∧ ((⟨2, 0, 7, 0, 4096, 4294967295, 0⟩ : Desc).len = ([]
      : Bytes).length) ∧ ((cmd up 13 2 7 0 4294967295 0).rtcSet = false)) ∧
    ((Waiting (cmd (up.setStat Reg.pwrStatusRtcValid 1) 13 2 7 0 2 0) 13 0x02 (7 : Nat) (⟨2, 0, 7, 0, 4096, 2, 0⟩ :
      Desc)) ∧ ((⟨2, 0, 7, 0, 4096, 2, 0⟩ : Desc).p0 < 2 ^ 32) ∧ (((⟨2, 0, 7, 0, 4096, 2, 0⟩ : Desc).len = 0 || (⟨2,
      0, 7, 0, 4096, 2, 0⟩ : Desc).len = 16) = true) ∧ ((⟨2, 0, 7, 0, 4096, 2, 0⟩ : Desc).len = ([] : Bytes).length) ∧
      ((cmd (up.setStat Reg.pwrStatusRtcValid 1) 13 2 7 0 2 0).rtcSet = true) ∧ (smallStepAllowed (cmd (up.setStat
      Reg.pwrStatusRtcValid 1) 13 2 7 0 2 0) (⟨2, 0, 7, 0, 4096, 2, 0⟩ : Desc).p0 = true)) ∧
    ((Waiting (timing) 13 0x02 (7 : Nat) (⟨2, 0, 7, 16, 4096, 3, 0⟩ : Desc)) ∧ ((⟨2, 0, 7, 16, 4096, 3, 0⟩ : Desc).p0
      < 2 ^ 32) ∧ (((⟨2, 0, 7, 16, 4096, 3, 0⟩ : Desc).len = 0 || (⟨2, 0, 7, 16, 4096, 3, 0⟩ : Desc).len = 16) = true)
      ∧ ((⟨2, 0, 7, 16, 4096, 3, 0⟩ : Desc).len = (timeMac : Bytes).length) ∧ ((timing).rtcSet = true) ∧
      (smallStepAllowed (timing) (⟨2, 0, 7, 16, 4096, 3, 0⟩ : Desc).p0 = false) ∧ (rtcAuthorised (timing) (⟨2, 0, 7,
      16, 4096, 3, 0⟩ : Desc).p0 (timeMac : Bytes) = true)) ∧
    ((Waiting (cmd (up.setStat Reg.pwrStatusRtcValid 1) 13 2 7 0 3 0) 13 0x02 (7 : Nat) (⟨2, 0, 7, 0, 4096, 3, 0⟩ :
      Desc)) ∧ ((⟨2, 0, 7, 0, 4096, 3, 0⟩ : Desc).p0 < 2 ^ 32) ∧ (((⟨2, 0, 7, 0, 4096, 3, 0⟩ : Desc).len = 0 || (⟨2,
      0, 7, 0, 4096, 3, 0⟩ : Desc).len = 16) = true) ∧ ((⟨2, 0, 7, 0, 4096, 3, 0⟩ : Desc).len = ([] : Bytes).length) ∧
      ((cmd (up.setStat Reg.pwrStatusRtcValid 1) 13 2 7 0 3 0).rtcSet = true) ∧ (smallStepAllowed (cmd (up.setStat
      Reg.pwrStatusRtcValid 1) 13 2 7 0 3 0) (⟨2, 0, 7, 0, 4096, 3, 0⟩ : Desc).p0 = false) ∧ (rtcAuthorised (cmd
      (up.setStat Reg.pwrStatusRtcValid 1) 13 2 7 0 3 0) (⟨2, 0, 7, 0, 4096, 3, 0⟩ : Desc).p0 ([] : Bytes) = false)) ∧
    ((Waiting (cmd up 13 3 7 16 0 0) 13 0x03 (7 : Nat) (⟨3, 0, 7, 16, 4096, 0, 0⟩ : Desc)) ∧ ((⟨3, 0, 7, 16, 4096, 0,
      0⟩ : Desc).len = 16)) ∧
    ((({up with pwr := {up.pwr with rtcNonce := some (5, 0)}} : State).pwr.rtcNonce.isSome = true)) ∧
    ((rolesThere (cmd up 14 1 7 32 0 0) (.monitors (7 : Nat)) = true) ∧ (Waiting (cmd up 14 1 7 32 0 0) 14 0x01 (7 :
      Nat) (⟨1, 0, 7, 32, 4096, 0, 0⟩ : Desc)) ∧ ((⟨1, 0, 7, 32, 4096, 0, 0⟩ : Desc).len = 32)) ∧
    ((rolesThere (cmd up 14 2 7 256 0 0) (.faults (7 : Nat)) = true) ∧ (Waiting (cmd up 14 2 7 256 0 0) 14 0x02 (7 :
      Nat) (⟨2, 0, 7, 256, 4096, 0, 0⟩ : Desc)) ∧ ((⟨2, 0, 7, 256, 4096, 0, 0⟩ : Desc).len = 256)) ∧
    ((rolesThere (cmd up 11 1 7 32 0 0) (.supervisionEventBuffer (7 : Nat)) = true) ∧ (Waiting (cmd up 11 1 7 32 0 0)
      11 0x01 (7 : Nat) (⟨1, 0, 7, 32, 4096, 0, 0⟩ : Desc)) ∧ (32 ≤ (⟨1, 0, 7, 32, 4096, 0, 0⟩ : Desc).len)) := by
  refine ⟨?_, ?_, ?_, ?_, ?_, ?_, ?_, ?_, ?_⟩ <;> decide +kernel

theorem witness_FaultsAndResets :
    (((up).running = true) ∧ ((13 : Nat) < 14) ∧ ((up).roleThere (13 : Nat) = true) ∧ ((13 : Nat) ≠ 2)) ∧
    (((up).running = true) ∧ ((up).roleThere 2 = true)) ∧
    ((((up).mode != .seed) = true) ∧ ((4 : Nat) < 5)) ∧
    ((((up).mode != .seed) = true) ∧ ((0 : Nat) < 5)) ∧
    (((up).running = true) ∧ ((13 : Nat) < 14)) ∧
    ((({up with pwr := {up.pwr with vacant := some ⟨3, 0⟩}} : State).pwr.vacant = some (⟨3, 0⟩ : VacantRole)) ∧ (({up with pwr := {up.pwr with vacant := some ⟨3, 0⟩}}
      : State).running = true)) ∧
    ((({up with pwr := {up.pwr with vacant := some ⟨3, 0⟩}} : State).pwr.vacant = some (⟨3, 0⟩ : VacantRole)) ∧ (({up with pwr := {up.pwr with vacant := some ⟨3, 0⟩}}
      : State).running = true)) ∧
    ((((up).running || (up).mode == .recovery) = true)) ∧
    ((rolesThere (up) (.spareMemoryTest false) = true) ∧ ((up).running = true) ∧ ((up).upd.spareRole = none) ∧
      ((up).pwr.vacant = none)) ∧
    ((rolesThere (up) (.spareMemoryTest true) = true) ∧ ((up).running = true) ∧ ((up).upd.spareRole = none) ∧
      ((up).pwr.vacant = none)) ∧
    (((up).mode ≠ .seed)) ∧
    ((({up with pwr := {up.pwr with failedSupply := some 2}} : State).pwr.failedSupply = some (2 : Nat)) ∧ ((({up with pwr := {up.pwr with failedSupply := some 2}}
      : State).mode != .seed) = true) ∧ (failureEnds ({up with pwr := {up.pwr with failedSupply := some 2}} : State)
      (2 : Nat) (1640 : Nat) = true) ∧ (((2 : Nat) ≠ 0 ∨ 700 ≤ (1640 : Nat)))) ∧
    ((({up with pwr := {up.pwr with failedSupply := some 0}} : State).pwr.failedSupply = some 0) ∧ ((({up with pwr := {up.pwr with failedSupply := some 0}}
      : State).mode != .seed) = true) ∧ ((699 : Nat) < 700)) ∧
    ((({up with pwr := {up.pwr with failedSupply := some 2}} : State).pwr.failedSupply = some (2 : Nat)) ∧
      (failureEnds ({up with pwr := {up.pwr with failedSupply := some 2}} : State) (2 : Nat) (1639 : Nat) = false)) ∧
    ((autoRestartAllowed (({up with mode := .failed, pwr := {up.pwr with graceEnd := none}}).setForce
      Reg.pwrCtrlAutoRestart 1) = true)) ∧
    (((up).running = true)) ∧
    (((({up with mode := .starting}).setStat Reg.cipStatusTrngReady 1).mode = .starting) ∧ ((({up with mode := .starting}).setStat
      Reg.cipStatusTrngReady 1).stat Reg.cipStatusTrngReady = 1) ∧ (codeVerified (goodStart : StartResult)
      (sourceTaken (goodStart : StartResult).swing38 { (({up with mode := .starting}).setStat Reg.cipStatusTrngReady 1) with nvwp := (goodStart : StartResult).nvwp })
      = some (0 : Nat))) ∧
    (((({up with mode := .starting}).setStat Reg.cipStatusTrngReady 1).mode = .starting) ∧ ((({up with mode := .starting}).setStat
      Reg.cipStatusTrngReady 1).stat Reg.cipStatusTrngReady = 1) ∧ (codeVerified ({goodStart with main := false} :
      StartResult) (sourceTaken ({goodStart with main := false} : StartResult).swing38 { (({up with mode := .starting}).setStat Reg.cipStatusTrngReady 1) with nvwp := ({goodStart with main := false} : StartResult).nvwp })
      = none)) := by
  refine ⟨?_, ?_, ?_, ?_, ?_, ?_, ?_, ?_, ?_, ?_, ?_, ?_, ?_, ?_, ?_, ?_, ?_, ?_⟩ <;> decide +kernel

theorem witness_IdleStepTicks :
    ((linked : State).pending = [] ∧ inputDue linked = none ∧ (linked : State).cip.lcWaits = none ∧ (linked :
      State).upd.act = none) ∧
    (({ linked with pwr := { linked.pwr with rtcPhase := 4095999 } } : State).pending = [] ∧ inputDue { linked with pwr := { linked.pwr with rtcPhase := 4095999 } }
      = none) ∧
    (({ linked with pwr := { linked.pwr with inputs := [.meterCheckpoint] } } : State).pending = [] ∧ inputDue { linked with pwr := { linked.pwr with inputs := [.meterCheckpoint] } }
      = some (.meterCheckpoint, [])) := by
  refine ⟨?_, ?_, ?_⟩ <;> decide +kernel

theorem witness_RingsStayLegal :
    (∃ t, RingsLegal { State.reset with pending := [.sqTail 0 0 1 true] } ∧ StoreForm { State.reset with pending := [.sqTail 0 0 1 true] }
      ∧ step { State.reset with pending := [.sqTail 0 0 1 true] } = .next t) := ⟨_, fun _ => ringLegal_reset, (by intro a; cases a <;> exact ⟨by decide +kernel, by decide +kernel, by decide +kernel, by decide +kernel, by decide +kernel, by decide +kernel⟩), rfl⟩

theorem witness_OneTimeFuses :
    (∃ t, step { State.reset with upd := { Upd.reset with appKey := 5 }, cip := { Cip.reset with uniqueKey := some 9 }, pending := [.watchdogReset] }
      = .next t) := ⟨_, rfl⟩

theorem witness_QueueAndClock :
    (∃ t, step linked = .next t) ∧
    (∃ t, step { linked with pending := [.helloTimeout 0, .helloTimeout 1] } = .next t) :=
  ⟨⟨_, rfl⟩, ⟨_, rfl⟩⟩

theorem witness_FramesOfCommands :
    (∃ (s t : State), exec (.meterCheckpoint) s = .next t ∧ rolesThere s .meterCheckpoint = false) ∧
    (∃ t, exec (.meterCheckpoint) linked = .next t ∧ rolesThere linked .meterCheckpoint = true) :=
  ⟨⟨{ linked with pwr := { linked.pwr with vacant := some ⟨9, 0⟩ } }, _, rfl, by decide +kernel⟩, ⟨_, rfl, by decide +kernel⟩⟩

theorem witness_EveryCommandCompletes :
    (rolesThere { linked with pwr := { linked.pwr with vacant := some ⟨9, 0⟩ } } .meterCheckpoint = false) := by decide +kernel

theorem witness_FieldReadAfterWrite :
    ((3 : Nat) < 2 ^ Reg.relGraceTime.width) ∧
    (Reg.relGraceTime.key ≠ Reg.prxTol0Lf.key) := by
  refine ⟨?_, ?_⟩ <;> decide +kernel

theorem witness_RingsApart :
    ((3 : Nat) ≠ 2) := by decide +kernel

theorem witness_CompletionLayout :
    ((7 : Nat) < 2 ^ 16 ∧ (6 : Nat) < 2 ^ 8 ∧ (5 : Nat) < 2 ^ 64 ∧ ((cmd linked 3 1 7 0 0 0).ring 3).sqHead < 2 ^ 16
      ∧ ((cmd linked 3 1 7 0 0 0).ring 3).phase ≠ .error ∧ ((cmd linked 3 1 7 0 0 0).ring 3).phase ≠ .disabled ∧
      ringsSilent (cmd linked 3 1 7 0 0 0) = false) := by decide +kernel

theorem witness_ByteOrders :
    ((65535 : Nat) < 256 ^ 2) := by decide +kernel

theorem witness_DescriptorLayout :
    ((255 : Nat) < 2 ^ 8 ∧ (255 : Nat) < 2 ^ 8 ∧ (65535 : Nat) < 2 ^ 16 ∧ (0 : Nat) < 2 ^ 32 ∧ (4096 : Nat) < 2 ^ 64
      ∧ (0 : Nat) < 2 ^ 64 ∧ (2 ^ 64 - 1 : Nat) < 2 ^ 64) := by decide +kernel

theorem witness_SecondEngineFault :
    ((linked : State).mode = .running ∧ (3 : Nat) < 14 ∧ (({ linked with upd := { linked.upd with spareRole := some 5 } }
      : State).upd.spareRole.isSome || linked.pwr.vacant.isSome) = true) := by decide +kernel

theorem witness_RegulatoryRecordChecked :
    (rolesThere (cmd up 5 5 7 72 0 0) (.regrecWrite 7 aRecord) = true ∧ Waiting (cmd up 5 5 7 72 0 0) 5 0x05 7 ⟨5, 0,
      7, 72, 4096, 0, 0⟩ ∧ regrecAccepted (cmd up 5 5 7 72 0 0) = true ∧ (cmd up 5 5 7 72 0 0).nvwp = false ∧ nvBusy
      (cmd up 5 5 7 72 0 0) 5 = false ∧ regRecLegal (zeroBytes 72) = false ∧ regRecLegal aRecord = true ∧
      aRecord.length = 72) := by decide +kernel

theorem witness_CorruptAnnounce :
    (((zeroBytes 30 ++ [1#8]).length ≠ 31 ∨ byteAt (zeroBytes 30 ++ [1#8]) 30 ≠ crc8 ((zeroBytes 30 ++ [1#8]).take
      30))) := by decide +kernel

theorem witness_PollNumbers :
    (({ polled with lf := { polled.lf with pollNum := some 4294967295 } } : State).lf.pollNum = some 4294967295) ∧
    ((polled : State).lf.pollNum = none) := by
  refine ⟨?_, ?_⟩ <;> decide +kernel

end Sys2Proof.Tests
end

section
/-! PROOFS. Byte order (00_scope.md R1, R2): a number written in `n` bytes is read back modulo 256^n, so the numbers that
fit read back as they were. -/
namespace Sys2Proof.Machine

@[simp] theorem length_leBytes (n w : Nat) : (leBytes n w).length = n := by
  induction n generalizing w with
  | zero => rfl
  | succ n ih => simp [leBytes, ih]

@[simp] theorem length_beBytes (n w : Nat) : (beBytes n w).length = n := by
  simp [beBytes]

/-- The low byte carries `w % 256` and the bytes behind it `w / 256`, so the string stands for `w` cut to `n` bytes. -/
theorem leNat_leBytes (n w : Nat) : leNat (leBytes n w) = w % 256 ^ n := by
  induction n generalizing w with
  | zero => simp [leBytes, leNat, Nat.mod_one]
  | succ n ih =>
    calc leNat (leBytes (n + 1) w)
        = w % 256 + 256 * (w / 256 % 256 ^ n) := by simp [leBytes, leNat, ih]
      _ = w % 256 ^ (n + 1) := by rw [Nat.pow_succ', Nat.mod_mul]

theorem beNat_beBytes (n w : Nat) : beNat (beBytes n w) = w % 256 ^ n := by
  simp [beNat, beBytes, leNat_leBytes]

theorem slice_zero_of_length {bs : Bytes} {n : Nat} (h : bs.length = n) : slice bs 0 n = bs := by
  simp [slice, ← h]

theorem leAt_leBytes (n w : Nat) : leAt (leBytes n w) 0 n = w % 256 ^ n := by
  rw [leAt, slice_zero_of_length (length_leBytes n w), leNat_leBytes]

theorem beAt_beBytes (n w : Nat) : beAt (beBytes n w) 0 n = w % 256 ^ n := by
  rw [beAt, slice_zero_of_length (length_beBytes n w), beNat_beBytes]

/-- Settles O55: both read-backs are `w % 256 ^ n`, which is `w` for a number that fits in `n` bytes. -/
theorem byteOrders : Obligations.ByteOrders := by
  intro n w hw
  have hfit : w % 256 ^ n = w := Nat.mod_eq_of_lt hw
  exact ⟨length_leBytes n w, (leAt_leBytes n w).trans hfit, (beAt_beBytes n w).trans hfit, rfl⟩

end Sys2Proof.Machine
end

section
/-! PROOFS. Host accesses of BAR0, BAR2 and BAR4 (00_scope.md R5; 05_radios.md R140; 12_host_interface.md R312, R313): what
a read and a write of each window do, by alignment, position and whether the position is in use. -/
namespace Sys2Proof.Machine

/-! ### The commands and the windows they reach -/

theorem exec_registerWrite (off v : Nat) (s : State) : exec (.registerWrite off v) s = .next (bar0Write off v s) := rfl

theorem exec_badAccessRead_other (s : State) : exec (.badAccessRead false) s = .next (badRead s) := rfl

/-- An access inside the window of one of the 64 positions, where its role is there, reaches that position. -/
theorem exec_bar4Access {s : State} {p off v : Nat} {write : Bool}
    (hr : rolesThere s (.bar4Access p off write v) = true) (hp : p < 64) (ho : off < 0x10000) :
    exec (.bar4Access p off write v) s = .next (if write then bar4Write p off v s else bar4Read p off s) := by
  have hin : (decide (p < 64) && decide (off < 0x10000)) = true := by simp [hp, ho]
  calc exec (.bar4Access p off write v) s
      = execBar4Access p off write v s := rfl
    _ = _ := by rw [execBar4Access, inputTo_there hr, hin, when_true]

theorem exec_bar4Access_write {s : State} {p off v : Nat} (hr : rolesThere s (.bar4Access p off true v) = true)
    (hp : p < 64) (ho : off < 0x10000) : exec (.bar4Access p off true v) s = .next (bar4Write p off v s) :=
  exec_bar4Access hr hp ho

theorem exec_bar4Access_read {s : State} {p off v : Nat} (hr : rolesThere s (.bar4Access p off false v) = true)
    (hp : p < 64) (ho : off < 0x10000) : exec (.bar4Access p off false v) s = .next (bar4Read p off s) :=
  exec_bar4Access hr hp ho

/-! ### BAR0, and position 0 of BAR4 -/

section
variable {off : Nat} (s : State)

theorem bar0Write_aligned (v : Nat) (h : off % 4 = 0) : bar0Write off v s = registerWritten 0 off (v % 2 ^ 32) s :=
  if_pos h

theorem bar0Write_unaligned (v : Nat) (h : off % 4 ≠ 0) : bar0Write off v s = s.raise Reg.hifFaultBadAccess :=
  if_neg h

theorem bar0Read_aligned (h : off % 4 = 0) : bar0Read off s = answerRead off s := if_pos h

theorem bar0Read_unaligned (h : off % 4 ≠ 0) : bar0Read off s = badRead s := if_neg h

theorem bar4Write_zero (v : Nat) : bar4Write 0 off v s = bar0Write off v s := rfl

theorem bar4Read_zero : bar4Read 0 off s = bar0Read off s := rfl

end

/-! ### BAR4 of any position -/

section
variable {p off : Nat} (s : State)

theorem bar4Write_unaligned (v : Nat) (h : off % 4 ≠ 0) : bar4Write p off v s = s.raise Reg.hifFaultBadAccess := by
  by_cases hp : p = 0
  · rw [hp, bar4Write_zero, bar0Write_unaligned s v h]
  · simp only [bar4Write, if_neg hp, if_pos h]

theorem bar4Read_unaligned (h : off % 4 ≠ 0) : bar4Read p off s = badRead s := by
  by_cases hp : p = 0
  · rw [hp, bar4Read_zero, bar0Read_unaligned s h]
  · simp only [bar4Read, if_neg hp, if_pos h]

variable (hp : 1 ≤ p) (ha : off % 4 = 0)
include hp ha

theorem bar4Write_absent (v : Nat) (hm : isMember s p = false) :
    bar4Write p off v s = s.raise Reg.hifFaultNoPosition := by
  simp [bar4Write, Nat.ne_of_gt hp, ha, hm]

theorem bar4Read_absent (hm : isMember s p = false) :
    bar4Read p off s = (s.raise Reg.hifFaultNoPosition).emit (.barAnswer 0xFFFFFFFF) := by
  simp [bar4Read, Nat.ne_of_gt hp, ha, hm]

theorem bar4Write_member (v : Nat) (hm : isMember s p = true) (ho : off < 0xE000) (hrun : s.running = true) :
    bar4Write p off v s = regWriteOn s p off (v % 2 ^ 32) := by
  simp [bar4Write, Nat.ne_of_gt hp, ha, hm, Nat.not_le_of_lt ho, hrun]

theorem bar4Read_member (hm : isMember s p = true) (ho : off < 0xE000) (hrun : s.running = true) :
    bar4Read p off s = regReadOn s p off := by
  simp [bar4Read, Nat.ne_of_gt hp, ha, hm, Nat.not_le_of_lt ho, hrun]

end

/-! ### Writes passed on to another position -/

theorem regWriteOn_full {s : State} (p off v : Nat) (h : 256 ≤ regWritesHeld s) :
    regWriteOn s p off v = s.raise Reg.hifFaultRegDrop :=
  if_pos h

theorem regWriteOn_room {s : State} (p off v : Nat) (h : regWritesHeld s < 256) :
    regWriteOn s p off v = proxySend (if isRingPlace off then
      { s with hif := { s.hif with ringRegs := tblPut 0 s.hif.ringRegs (p * 65536 + off) v } } else s) p 0xFF 0x06
      (beBytes 2 off ++ [0, 0] ++ beBytes 4 v) :=
  if_neg (Nat.not_le_of_lt h)

/-- Settles O30: each clause is the window's command followed by what that window does with such an access. -/
theorem registersAndBars : Obligations.RegistersAndBars := by
  refine ⟨?registerWrite, ?registerWriteUnaligned, fun _ _ => rfl, fun _ => rfl, fun _ => rfl, exec_badAccessRead_other,
    ?headWrite, ?headRead, ?writeUnaligned, ?readUnaligned, ?readAbsent, ?writeAbsent, ?readOn, ?writeFull, ?writeOn⟩
  case registerWrite =>
    intro s off v ha
    rw [exec_registerWrite, bar0Write_aligned s v ha]
  case registerWriteUnaligned =>
    intro s off v ha
    rw [exec_registerWrite, bar0Write_unaligned s v ha]
  case headWrite =>
    intro s off v hr ho ha
    rw [exec_bar4Access_write hr (by decide) ho, bar4Write_zero, bar0Write_aligned s v ha]
  case headRead =>
    intro s off v hr ho ha
    rw [exec_bar4Access_read hr (by decide) ho, bar4Read_zero, bar0Read_aligned s ha]
  case writeUnaligned =>
    intro s p off v hr hp ho ha
    rw [exec_bar4Access_write hr hp ho, bar4Write_unaligned s v ha]
  case readUnaligned =>
    intro s p off v hr hp ho ha
    rw [exec_bar4Access_read hr hp ho, bar4Read_unaligned s ha, badRead]
  case readAbsent =>
    intro s p off v hr hp1 hp ho ha hm
    rw [exec_bar4Access_read hr hp ho, bar4Read_absent s hp1 ha hm]
  case writeAbsent =>
    intro s p off v hr hp1 hp ho ha hm
    rw [exec_bar4Access_write hr hp ho, bar4Write_absent s hp1 ha v hm]
  case readOn =>
    intro s p off v hr hp1 hp ho ha hm hrun
    rw [exec_bar4Access_read hr hp (by omega), bar4Read_member s hp1 ha hm ho hrun]
  case writeFull =>
    intro s p off v hr hp1 hp ho ha hm hrun hfull
    rw [exec_bar4Access_write hr hp (by omega), bar4Write_member s hp1 ha v hm ho hrun,
      regWriteOn_full p off _ hfull]
  case writeOn =>
    intro s p off v hr hp1 hp ho ha hm hrun hroom
    rw [exec_bar4Access_write hr hp (by omega), bar4Write_member s hp1 ha v hm ho hrun,
      regWriteOn_room p off _ hroom]

end Sys2Proof.Machine
end

section
/-! PROOFS. A second engine fault (01_system_view.md R13; 15_power_and_supervision.md R407, R410): the entry into FAILED
sets the mode, and nothing that it does afterwards reaches the mode or the update part of the state. -/
namespace Sys2Proof.Machine

/-! ### What entering FAILED leaves of the mode and of the roles -/

/-- Whatever writes only parts other than the mode leaves the mode. -/
theorem Within.mode_eq {M : List Part} {s t : State} (h : Within M s t) (hm : Part.mode ∉ M) : t.mode = s.mode :=
  h.untouched.mode hm

@[simp] theorem endCtxs_mode (s : State) (p : Ctx → Bool) (oc : Nat) : (endCtxs s p oc).mode = s.mode :=
  (endCtxs_within s p oc (Within.refl _ s) fun _ => id).mode_eq (by decide)

@[simp] theorem stopEmissions_mode (s : State) : (stopEmissions s).mode = s.mode :=
  (stopEmissions_within s (Within.refl _ s) fun _ => id).mode_eq (by decide)

@[simp] theorem endGrace_mode (s : State) : (endGrace s).mode = s.mode :=
  (endGrace_within s (Within.refl _ s) fun _ => id).mode_eq (by decide)

/-- A device that was not FAILED gets the mode before its contexts end and its emissions stop, and with a grace time of 0
    before its sessions end. -/
@[simp] theorem enterFailed_mode (s : State) (cause detail : Nat) : (enterFailed s cause detail).mode = .failed := by
  by_cases h : s.mode = .failed
  · simp [enterFailed, h]
  · by_cases hg : ((s.setStat Reg.pwrFailinfoCause cause).setStat Reg.pwrFailinfoDetail detail).eff Reg.relGraceTime = 0
    · simp [enterFailed, h, hg]
    · simp [enterFailed, h, hg]

@[simp] theorem enterFailed_upd (s : State) (cause detail : Nat) : (enterFailed s cause detail).upd = s.upd :=
  (enterFailed_within s cause detail (Within.refl _ s) fun _ => id).untouched.update (by decide)

/-! ### Engine faults -/

theorem exec_engineFault {s : State} {role : Nat} (hrun : s.mode = .running) (hr : role < 14) :
    exec (.engineFault role) s = .next (engineFaults s role) := by
  have hin : (s.running && decide (role < 14)) = true := by simp [State.running, hrun, hr]
  calc exec (.engineFault role) s
      = execEngineFault role s := rfl
    _ = _ := by rw [execEngineFault, hin, when_true]

/-- A spare that carries a role, or is owed to a vacant one, cannot take another role over: the fault has cause 0x01. -/
theorem engineFaults_spareTaken {s : State} {role : Nat} (h : (s.upd.spareRole.isSome || s.pwr.vacant.isSome) = true) :
    engineFaults s role = enterFailed s 0x01 role :=
  if_pos (by rwa [Bool.or_comm])

/-- Settles O57: with the spare taken the fault is the entry into FAILED, which leaves the update part, and so the roles'
    engines and the images, as it was. -/
theorem secondEngineFault : Obligations.SecondEngineFault := by
  intro s role hrun hr hspare
  have hupd : (enterFailed s 0x01 role).upd = s.upd := enterFailed_upd s 0x01 role
  refine ⟨enterFailed s 0x01 role, ?next, enterFailed_mode s 0x01 role, ?spareRole, ?engmap, ?images⟩
  case next => rw [exec_engineFault hrun hr, engineFaults_spareTaken hspare]
  case spareRole => rw [hupd]
  case engmap => rw [hupd]
  case images => rw [hupd]

end Sys2Proof.Machine
end

section
/-! PROOFS. Wake patterns (02_release_cycle.md R25-R29; 03_lf_field.md R52, R53, R64): the number a pattern carries,
when a due pattern starts, waits or is refused, and what cuts or ends it. -/
namespace Sys2Proof.Machine

/-! ### Poll numbers (R29) -/

/-- The poll number of a pattern that starts now. -/
def pollNumber (s : State) : Nat :=
  match s.lf.pollNum with
  | some k => (k + 1) % 2 ^ 32
  | none => s.cip.drbg.next.1 % 2 ^ 32

theorem pollNumber_next {s : State} {k : Nat} (h : s.lf.pollNum = some k) : pollNumber s = (k + 1) % 2 ^ 32 := by
  simp [pollNumber, h]

theorem pollNumber_first {s : State} (h : s.lf.pollNum = none) : pollNumber s = s.cip.drbg.next.1 % 2 ^ 32 := by
  simp [pollNumber, h]

theorem pollNumber_lt (s : State) : pollNumber s < 2 ^ 32 := by
  unfold pollNumber
  split <;> exact Nat.mod_lt _ (by decide)

section
variable (s : State) (n a : Nat) (b : Option Nat)

/-- The poll number is kept for the next pattern. -/
theorem patternStarts_pollNum : (patternStarts s n a b).lf.pollNum = some (pollNumber s) := by
  unfold patternStarts pollNumber
  cases s.lf.pollNum <;> rfl

/-- The poll number is that of the pattern sent. -/
theorem patternStarts_pattern : ∃ p, (patternStarts s n a b).lf.pattern = some p ∧ p.num = pollNumber s := by
  unfold patternStarts pollNumber
  cases s.lf.pollNum <;> exact ⟨_, rfl, rfl⟩

/-- The poll number is the one shown: LF_POLLNUM is set last, and it holds 32 bits. -/
theorem patternStarts_shown : (patternStarts s n a b).stat Reg.lfPollnum = pollNumber s := by
  have hshown : ∀ t : State, (t.setStat Reg.lfPollnum (pollNumber s)).stat Reg.lfPollnum = pollNumber s := fun t => by
    rw [stat_setStat]
    exact Nat.mod_eq_of_lt (pollNumber_lt s)
  unfold patternStarts
  cases hk : s.lf.pollNum with
  | some k =>
    rw [pollNumber_next hk] at hshown ⊢
    exact hshown _
  | none =>
    rw [pollNumber_first hk] at hshown ⊢
    exact hshown _

end

/-- Settles O60: a pattern keeps, sends and shows the one number `pollNumber`; a reset leaves none behind. -/
theorem pollNumbers : Obligations.PollNumbers := by
  refine ⟨?next, ?first, fun _ _ => rfl, rfl⟩
  case next =>
    intro s n a k b hk
    rw [← pollNumber_next hk]
    exact ⟨patternStarts_pollNum s n a b, patternStarts_shown s n a b, patternStarts_pattern s n a b⟩
  case first =>
    intro s n a b hk
    rw [← pollNumber_first hk]
    exact ⟨patternStarts_pollNum s n a b, patternStarts_pattern s n a b⟩

/-! ### A due pattern (R25, R26; 03 R52, R64) -/

section
variable {s : State} {n a : Nat} {b : Option Nat}
variable (hen : (pollBoundary s).on Reg.lfPollEn = true) (hrec : (pollBoundary s).rad.regRec ≠ none)
  (hmay : lfMayEmit (pollBoundary s) = true) (hch : chooseEntry (pollBoundary s) = some (n, a, b))
include hen hrec hmay hch

/-- With a usable entry, what is in force after the boundary decides by VLF and then by the duty rings. -/
theorem tryPattern_chosen :
    tryPattern s =
      if vlfNow (pollBoundary s) < 7500 then
        { (pollBoundary s).raise Reg.lfFaultVlfLow with lf := { (pollBoundary s).lf with vlfHeld := true } }
      else if lfDutyOk (pollBoundary s) ([a] ++ b.toList) patternLen then patternStarts (pollBoundary s) n a b
      else patternDelayed s := by
  unfold tryPattern
  dsimp only
  rw [hen, Option.isNone_eq_false_iff.mpr (Option.isSome_iff_ne_none.mpr hrec), hmay, hch]
  simp only [Bool.not_true, Bool.false_eq_true, if_false]

theorem tryPattern_starts (hv : 7500 ≤ vlfNow (pollBoundary s))
    (hd : lfDutyOk (pollBoundary s) ([a] ++ b.toList) patternLen = true) :
    tryPattern s = patternStarts (pollBoundary s) n a b := by
  rw [tryPattern_chosen hen hrec hmay hch, if_neg (Nat.not_lt_of_le hv), if_pos hd]

theorem tryPattern_heldForVlf (hv : vlfNow (pollBoundary s) < 7500) :
    tryPattern s = { (pollBoundary s).raise Reg.lfFaultVlfLow with
      lf := { (pollBoundary s).lf with vlfHeld := true } } := by
  rw [tryPattern_chosen hen hrec hmay hch, if_pos hv]

end

theorem exec_wakePatternStart {s : State} {vlf : Nat} (hr : rolesThere s (.wakePatternStart vlf) = true)
    (hrun : s.running = true) (hdeep : s.pwr.deep = none) (hfree : patternFree s = true)
    (hint : intervalPassed s = true) (href : s.lf.refusedAt = none) :
    exec (.wakePatternStart vlf) s = .next (tryPattern (setVlf s vlf)) := by
  calc exec (.wakePatternStart vlf) s
      = execWakePatternStart vlf s := rfl
    _ = _ := by simp [execWakePatternStart, inputTo_there hr, hrun, hdeep, hfree, hint, href]

theorem exec_dutyTick {s : State} (hr : rolesThere s .dutyTick = true) (href : s.lf.refusedAt.isSome = true)
    (hfree : patternFree s = true) : exec .dutyTick s = .next (tryPattern s) := by
  calc exec .dutyTick s
      = execDutyTick s := rfl
    _ = _ := by simp [execDutyTick, inputTo_there hr, href, hfree]

theorem exec_vlfLowRetest {s : State} {vlf : Nat} (hr : rolesThere s (.vlfLowRetest vlf) = true)
    (hheld : s.lf.vlfHeld = true) (hfree : patternFree s = true) :
    exec (.vlfLowRetest vlf) s =
      .next ((fun u : State => if u.tpx.vlfHeld then coilNext u else u) (tryBurst (tryPattern (setVlf s vlf)))) := by
  have hdue : ((setVlf s vlf).lf.vlfHeld && patternFree (setVlf s vlf)) = true := by
    rw [show (setVlf s vlf).lf.vlfHeld = s.lf.vlfHeld from rfl,
      show patternFree (setVlf s vlf) = patternFree s from rfl, hheld, hfree]
    rfl
  calc exec (.vlfLowRetest vlf) s
      = execVlfLowRetest vlf s := rfl
    _ = _ := by simp only [execVlfLowRetest, inputTo_there hr, hdue, if_true]

/-! ### The boundary before an idle device, and a pattern cut off (R25; 03 R52, R53) -/

theorem exec_pollCycleBoundary {s : State} (hrun : s.running = true) (hdue : s.boundaryDue = true)
    (hp : s.cyc.phase = .idle) (hc : s.cyc.ctxs = []) (hpolls : pollsRun s = false) :
    exec .pollCycleBoundary s = .next (sgrNextJob (pollBoundary s)) := by
  calc exec .pollCycleBoundary s
      = execPollCycleBoundary s := rfl
    _ = _ := by simp [execPollCycleBoundary, hrun, hdue, hp, hc, hpolls]

theorem exec_vlfCollapse {s : State} {vlf : Nat} (hr : rolesThere s (.vlfCollapse vlf) = true)
    (hp : s.cyc.phase = .pattern) (hv : vlf < 6000) :
    exec (.vlfCollapse vlf) s = .next (abortPattern (setVlf s vlf)) := by
  calc exec (.vlfCollapse vlf) s
      = execVlfCollapse vlf s := rfl
    _ = _ := by simp [execVlfCollapse, inputTo_there hr, hp, hv]

section
variable {s : State} {p : Pattern} {c : Nat} {toVlf : Bool}
variable (hr : rolesThere s (.bridgeOvercurrent c toVlf) = true) (hp : s.cyc.phase = .pattern)
  (hpat : s.lf.pattern = some p)
include hr hp hpat

/-- The first trip of a pair leaves the pattern to the partner. -/
theorem exec_bridgeOvercurrent_partner {d cut : Nat} (hpair : p.chB = some d) (hcut : p.cut = 0)
    (htrip : p.chA = c ∨ d = c) (hwhich : (if p.chA = c then 1 else 2) = cut) :
    exec (.bridgeOvercurrent c toVlf) s =
      .next { chanFails s c (if toVlf then .shortVlf else .shortGnd) with
        lf := { (chanFails s c (if toVlf then .shortVlf else .shortGnd)).lf with
          pattern := some { p with cut := cut } } } := by
  subst hwhich
  calc exec (.bridgeOvercurrent c toVlf) s
      = execBridgeOvercurrent c toVlf s := rfl
    _ = _ := by simp [execBridgeOvercurrent, inputTo_there hr, hp, hpat, hpair, hcut, htrip]

/-- A trip of the one channel that still drives the pattern leaves nothing to send it. -/
theorem exec_bridgeOvercurrent_last (halone : p.chB = none ∨ p.cut ≠ 0)
    (htrip : p.chA = c ∧ p.cut ≠ 1 ∨ p.chB = some c ∧ p.cut ≠ 2) :
    exec (.bridgeOvercurrent c toVlf) s =
      .next (abortPattern (chanFails s c (if toVlf then .shortVlf else .shortGnd))) := by
  have hno : (p.chB.isSome && decide (p.cut = 0)) = false := by
    rcases halone with h | h <;> simp [h]
  have hdrives : (decide (p.chA = c) && p.cut != 1 || decide (p.chB = some c) && p.cut != 2) = true := by
    simpa using htrip
  calc exec (.bridgeOvercurrent c toVlf) s
      = execBridgeOvercurrent c toVlf s := rfl
    _ = _ := by
      rw [execBridgeOvercurrent, inputTo_there hr, hp, beq_self_eq_true, when_true, hpat]
      simp only [hdrives, hno, if_true, Bool.false_eq_true, if_false]

end

/-! ### The end of a pattern (R28) -/

@[simp] theorem sgrReceive_cyc (s : State) : (sgrReceive s).cyc = s.cyc := by
  unfold sgrReceive
  split <;> rfl

@[simp] theorem sgrReceive_lf (s : State) : (sgrReceive s).lf = s.lf := by
  unfold sgrReceive
  split <;> rfl

/-- The array with what a pattern measured on the channels that drove it to its end. -/
def patternMeasured (s : State) (p : Pattern) (estA estB loopA loopB : Nat) : State :=
  lfChange s fun s =>
    let s := if p.cut = 1 then s else measured s p.ipeak loopA estA p.chA
    match p.chB with
    | some b => if p.cut = 2 then s else measured s p.ipeak loopB estB b
    | none => s

theorem exec_wakePatternEnd {s : State} {p : Pattern} {estA estB loopA loopB : Nat}
    (hr : rolesThere s (.wakePatternEnd estA estB loopA loopB) = true) (hp : s.cyc.phase = .pattern)
    (hpat : s.lf.pattern = some p) :
    exec (.wakePatternEnd estA estB loopA loopB) s =
      .next (sgrReceive { patternMeasured s p estA estB loopA loopB with
        lf := { (patternMeasured s p estA estB loopA loopB).lf with
          pattern := some { p with loopA := loopA, loopB := loopB } },
        cyc := { (patternMeasured s p estA estB loopA loopB).cyc with phase := .gap, coexReq := true } }) := by
  calc exec (.wakePatternEnd estA estB loopA loopB) s
      = execWakePatternEnd estA estB loopA loopB s := rfl
    _ = _ := by
      cases hb : p.chB <;>
        simp only [execWakePatternEnd, inputTo_there hr, hp, beq_self_eq_true, when_true, hpat, patternMeasured, hb]

/-- Settles O1: the boundary, a due pattern tested behind it, and a pattern's trips, collapse and end. -/
theorem wakePatternLifeCycle : Obligations.WakePatternLifeCycle := by
  refine ⟨?boundary, ?starts, ?dutyTick, ?held, ?retest, ?collapse, ?firstTrips, ?secondTrips, ?bothTrip, ?onlyTrips,
    ?ends⟩
  case boundary =>
    intro s hrun hdue hp hc hpolls
    exact exec_pollCycleBoundary hrun hdue hp hc hpolls
  case starts =>
    intro s vlf n a b hr hrun hdeep hfree hint href hen hrec hmay hch hv hd
    rw [exec_wakePatternStart hr hrun hdeep hfree hint href, tryPattern_starts hen hrec hmay hch hv hd]
  case dutyTick =>
    intro s hr href hfree
    exact exec_dutyTick hr href hfree
  case held =>
    intro s vlf n a b hr hrun hdeep hfree hint href hen hrec hmay hch hv
    rw [exec_wakePatternStart hr hrun hdeep hfree hint href, tryPattern_heldForVlf hen hrec hmay hch hv]
    generalize pollBoundary (setVlf s vlf) = u
    exact ⟨_, rfl, rfl, rfl, rfl⟩
  case retest =>
    intro s vlf hr hheld hfree
    exact exec_vlfLowRetest hr hheld hfree
  case collapse =>
    intro s vlf hr hp hv
    exact exec_vlfCollapse hr hp hv
  case firstTrips =>
    intro s p c d toVlf hr hp hpat hA hB _ hcut
    exact exec_bridgeOvercurrent_partner hr hp hpat hB hcut (.inl hA) (if_pos hA)
  case secondTrips =>
    intro s p c d toVlf hr hp hpat hA hB hne hcut
    exact exec_bridgeOvercurrent_partner hr hp hpat hB hcut (.inr rfl) (if_neg fun h => hne (h.symm.trans hA))
  case bothTrip =>
    intro s p c d toVlf hr hp hpat _ hcut
    rcases hcut with ⟨hcut, _, hB⟩ | ⟨hcut, hA, _⟩
    · exact exec_bridgeOvercurrent_last hr hp hpat (.inr (by simp [hcut])) (.inr ⟨hB, by simp [hcut]⟩)
    · exact exec_bridgeOvercurrent_last hr hp hpat (.inr (by simp [hcut])) (.inl ⟨hA, by simp [hcut]⟩)
  case onlyTrips =>
    intro s p c toVlf hr hp hpat hA hB hcut
    exact exec_bridgeOvercurrent_last hr hp hpat (.inl hB) (.inl ⟨hA, by simp [hcut]⟩)
  case ends =>
    intro s p estA estB loopA loopB hr hp hpat
    refine ⟨_, exec_wakePatternEnd hr hp hpat, ?_, ?_, ?_⟩
    · rw [sgrReceive_cyc]
    · rw [sgrReceive_cyc]
    · rw [sgrReceive_lf]

end Sys2Proof.Machine
end

section
/-! PROOFS. The announce window (02_release_cycle.md R30-R33): how its slots close, and what an announce leaves by
whether it is heard and genuine. -/
namespace Sys2Proof.Machine

/-- A command to a role that is vacant is held and nothing else. -/
theorem inputTo_away {s : State} {c : Instr} {a : Ans} (h : rolesThere s c = false) :
    inputTo s c a = .next (inputHeld s c) := by
  simp [inputTo, h]

/-! ### The announce window (R30) -/

/-- The slot open is the last, slot 15: the exchanges begin. -/
theorem slotCloses_last {s : State} (h : s.cyc.slot = 15) :
    slotCloses s = cycleCheck { s with cyc := { s.cyc with phase := .exchanges, slotBusy := false } } :=
  if_pos h

theorem slotCloses_next {s : State} (h : s.cyc.slot ≠ 15) :
    slotCloses s = { s with cyc := { s.cyc with slot := s.cyc.slot + 1, slotBusy := false } } :=
  if_neg h

theorem exec_announceWindowOpen {s : State} (hr : rolesThere s .announceWindowOpen = true) (hp : s.cyc.phase = .gap) :
    exec .announceWindowOpen s =
      .next { s with cyc := { s.cyc with phase := .window, slot := 0, slotBusy := false } } := by
  calc exec .announceWindowOpen s
      = execAnnounceWindowOpen s := rfl
    _ = _ := by simp only [execAnnounceWindowOpen, inputTo_there hr, hp, beq_self_eq_true, when_true]

theorem exec_slotEmptyClose {s : State} (hr : rolesThere s .slotEmptyClose = true) (hp : s.cyc.phase = .window)
    (hb : s.cyc.slotBusy = false) : exec .slotEmptyClose s = .next (slotCloses s) := by
  calc exec .slotEmptyClose s
      = execSlotEmptyClose s := rfl
    _ = _ := by simp [execSlotEmptyClose, inputTo_there hr, hp, hb]

theorem exec_slotGuardEnd {s : State} (hr : rolesThere s .slotGuardEnd = true) (hp : s.cyc.phase = .window)
    (hb : s.cyc.slotBusy = true) : exec .slotGuardEnd s = .next (slotCloses s) := by
  calc exec .slotGuardEnd s
      = execSlotGuardEnd s := rfl
    _ = _ := by simp [execSlotGuardEnd, inputTo_there hr, hp, hb]

/-! ### Announces (R31-R33) -/

/-- An announce can be received: a slot is open, nothing came in it yet, and the receiver is on. -/
def slotListens (s : State) : Bool := s.cyc.phase == .window && !s.cyc.slotBusy && s.sgr.phase == .rx

/-- What any announce leaves: its slot busy and its strength shown. -/
def announceHeard (s : State) (rssi : Int) : State :=
  noteRssi { s with cyc := { s.cyc with slotBusy := true } } rssi

/-- A genuine announce in a free context, in HELD. -/
def announceHeld (s : State) (rssi : Int) (frame : Bytes) : State :=
  let t := announceHeard s rssi
  { t with cyc := { t.cyc with
      ctxs := t.cyc.ctxs ++ [(t.cyc.allocated, heldCtx t rssi frame)], allocated := t.cyc.allocated + 1 } }

theorem slotListens_of {s : State} (hp : s.cyc.phase = .window) (hb : s.cyc.slotBusy = false) (hx : s.sgr.phase = .rx) :
    slotListens s = true := by
  simp [slotListens, hp, hb, hx]

section
variable {s : State} {rssi : Int} {frame : Bytes}

theorem exec_announceFrame_away (hr : rolesThere s (.announceFrame rssi frame) = false) :
    exec (.announceFrame rssi frame) s = .next (inputHeld s (.announceFrame rssi frame)) :=
  inputTo_away hr

variable (hr : rolesThere s (.announceFrame rssi frame) = true)
include hr

theorem exec_announceFrame_unheard (hl : slotListens s = false) : exec (.announceFrame rssi frame) s = .next s := by
  calc exec (.announceFrame rssi frame) s
      = execAnnounceFrame rssi frame s := rfl
    _ = _ := by
      unfold slotListens at hl
      rw [execAnnounceFrame, inputTo_there hr, hl, when_false]

/-- A frame of the wrong length or with a wrong CRC-8 is discarded. -/
theorem exec_announceFrame_corrupt (hl : slotListens s = true)
    (hbad : frame.length ≠ 31 ∨ byteAt frame 30 ≠ crc8 (frame.take 30)) :
    exec (.announceFrame rssi frame) s = .next (announceHeard s rssi) := by
  have hno : (decide (frame.length = 31) && byteAt frame 30 == crc8 (frame.take 30)) = false := by
    rcases hbad with h | h <;> simp [h]
  calc exec (.announceFrame rssi frame) s
      = execAnnounceFrame rssi frame s := rfl
    _ = _ := by
      unfold slotListens at hl
      rw [execAnnounceFrame, inputTo_there hr, hl, when_true, hno]
      rfl

/-- A genuine announce takes a free context, which stays in HELD if R33 does not refuse its token. -/
theorem exec_announceFrame_held (hl : slotListens s = true) (hlen : frame.length = 31)
    (hcrc : byteAt frame 30 = crc8 (frame.take 30)) (hfree : s.cyc.ctxs.length < s.eff Reg.autCtxCount)
    (hok : checkR33 (noteRssi s rssi) (beAt frame 0 8) = none) :
    exec (.announceFrame rssi frame) s = .next (announceHeld s rssi frame) := by
  have hgood : (decide (frame.length = 31) && byteAt frame 30 == crc8 (frame.take 30) &&
      decide ((announceHeard s rssi).cyc.ctxs.length < (announceHeard s rssi).eff Reg.autCtxCount)) = true := by
    rw [show (announceHeard s rssi).cyc.ctxs = s.cyc.ctxs from rfl,
      show (announceHeard s rssi).eff Reg.autCtxCount = s.eff Reg.autCtxCount from rfl]
    simp [hlen, hcrc, hfree]
  have hpass : checkR33 (announceHeld s rssi frame) (beAt frame 0 8) = none := hok
  calc exec (.announceFrame rssi frame) s
      = execAnnounceFrame rssi frame s := rfl
    _ = _ := by
      unfold slotListens at hl
      rw [execAnnounceFrame, inputTo_there hr, hl, when_true]
      refine congrArg Host.Outcome.next ((if_pos hgood).trans ?_)
      dsimp only
      split
      · next oc hoc => cases hpass.symm.trans hoc
      · rfl

end

/-- Settles O2: the window by its slots, and an announce that is heard by whether it is genuine. -/
theorem announceWindow : Obligations.AnnounceWindow := by
  refine ⟨?opens, ?emptyCloses, ?lastCloses, ?busyCloses, ?held, ?corrupt⟩
  case opens =>
    intro s hr hp
    exact exec_announceWindowOpen hr hp
  case emptyCloses =>
    intro s hr hp hb hne
    rw [exec_slotEmptyClose hr hp hb, slotCloses_next hne]
  case lastCloses =>
    intro s hr hp hb hlast
    rw [exec_slotGuardEnd hr hp hb, slotCloses_last hlast]
  case busyCloses =>
    intro s hr hp hb hne
    rw [exec_slotGuardEnd hr hp hb, slotCloses_next hne]
  case held =>
    intro s rssi frame hr hp hb hx hlen hcrc hfree hok
    exact ⟨announceHeld s rssi frame,
      exec_announceFrame_held hr (slotListens_of hp hb hx) hlen hcrc hfree hok,
      rfl, rfl, heldCtx (announceHeard s rssi) rssi frame, rfl, rfl, rfl, rfl, rfl⟩
  case corrupt =>
    intro s rssi frame hr hp hb hx hcrc
    exact exec_announceFrame_corrupt hr (slotListens_of hp hb hx) (.inr hcrc)

/-- Settles O59: a corrupt announce is held for a vacant role, not heard, or heard and discarded. -/
theorem corruptAnnounce : Obligations.CorruptAnnounce := by
  intro s rssi frame hbad
  cases hr : rolesThere s (.announceFrame rssi frame) with
  | false => exact ⟨_, exec_announceFrame_away hr, rfl, rfl, rfl, rfl, rfl⟩
  | true =>
    cases hl : slotListens s with
    | false => exact ⟨s, exec_announceFrame_unheard hr hl, rfl, rfl, rfl, rfl, rfl⟩
    | true => exact ⟨_, exec_announceFrame_corrupt hr hl hbad, rfl, rfl, rfl, rfl, rfl⟩

end Sys2Proof.Machine
end

section
/-! PROOFS. Challenges and responses (02_release_cycle.md R34-R36, R43; 06_proximity.md R141): the turn of a HELD
context, and the classes of what answers it. -/
namespace Sys2Proof.Machine

/-! ### The challenge (R34, R43) -/

section
variable {s : State} {n : Nat} {c : Ctx} {lock : Bool}
variable (hr : rolesThere s (.challengeTurn n lock) = true) (hp : s.cyc.phase = .exchanges) (ha : s.cyc.onAir = none)
  (hn : nextHeld s = some n) (hc : s.ctx n = some c)
include hr hp ha hn hc

/-- With nothing on air the turn comes to the HELD context of the lowest slot, and R33 is checked first. -/
theorem exec_challengeTurn_refused {oc : Nat} (hoc : checkR33 s c.id = some oc) :
    exec (.challengeTurn n lock) s = .next (endCtx s n oc 0) := by
  calc exec (.challengeTurn n lock) s
      = execChallengeTurn n lock s := rfl
    _ = _ := by simp [execChallengeTurn, inputTo_there hr, hp, ha, hn, hc, hoc]

theorem exec_challengeTurn_sent {k : Nat} (hok : checkR33 s c.id = none) (hk : masterSlot s = some k)
    (hmay : sgrRefusal s (airtime s challengeBits) = none) (hcal : sgrNeverCalibrated s = false) :
    exec (.challengeTurn n lock) s = .next (challengeSent s n k c lock (airtime s challengeBits)) := by
  calc exec (.challengeTurn n lock) s
      = execChallengeTurn n lock s := rfl
    _ = _ := by simp [execChallengeTurn, inputTo_there hr, hp, ha, hn, hc, hok, hk, hmay, hcal]

end

/-! ### The response (R35, R36) -/

section
variable {s : State} {n st : Nat} {c : Ctx} (mact : Nat)

theorem classify_late (hw : inWindow s st = false) :
    classify s n c st mact = endCtx (thornFailure s c.id) n ocLate 0 := by
  simp [classify, hw]

variable (hw : inWindow s st = true)
include hw

theorem classify_bad {mact : Nat} (hm : mact ≠ macT 0x54 c.kt c.nd c.nt c.id) :
    classify s n c st mact = endCtx (thornFailure s c.id) n ocBad 0 := by
  simp [classify, hw, hm]

theorem classify_right {mact i : Nat} (hm : mact = macT 0x54 c.kt c.nd c.nt c.id) (hi : findHolly s c.id = some i)
    (hk : s.cyc.keyedIds.contains c.id = false) : classify s n c st mact = keyCtx s n c := by
  rw [classify, hw, ← hm, hi, hk]
  simp

end

section
variable {s : State} {n st : Nat} {c : Ctx} {rssi : Int} {frame : Bytes}
variable (ha : responseAwaited s = some (n, c))
include ha

theorem exec_responseTimeout (hr : rolesThere s .responseTimeout = true) :
    exec .responseTimeout s = .next (endCtx s n ocNoResponse 0) := by
  calc exec .responseTimeout s
      = execResponseTimeout s := rfl
    _ = _ := by rw [execResponseTimeout, inputTo_there hr, ha]

variable (hx : s.sgr.phase = .rx)
include hx

/-- A response that begins after 1.500 ms, whole or not, comes too late to be one. -/
theorem exec_responseFrame_overdue {whole : Bool} (hr : rolesThere s (.responseFrame st rssi frame whole) = true)
    (hst : responseLimit < st) :
    exec (.responseFrame st rssi frame whole) s = .next (endCtx s n ocNoResponse 0) := by
  calc exec (.responseFrame st rssi frame whole) s
      = execResponseFrame st rssi frame whole s := rfl
    _ = _ := by simp [execResponseFrame, inputTo_there hr, ha, hx, hst]

variable (hst : st ≤ responseLimit)
include hst

theorem exec_responseFrame_cut (hr : rolesThere s (.responseFrame st rssi frame false) = true) :
    exec (.responseFrame st rssi frame false) s = .next (endCtx s n ocNoResponse 0) := by
  calc exec (.responseFrame st rssi frame false) s
      = execResponseFrame st rssi frame false s := rfl
    _ = _ := by simp [execResponseFrame, inputTo_there hr, ha, hx, Nat.not_lt_of_le hst]

variable (hr : rolesThere s (.responseFrame st rssi frame true) = true)
include hr

theorem exec_responseFrame_corrupt (hb : responseBody frame = none) :
    exec (.responseFrame st rssi frame true) s = .next (endCtx (noteRssi s rssi) n ocNoResponse 0) := by
  calc exec (.responseFrame st rssi frame true) s
      = execResponseFrame st rssi frame true s := rfl
    _ = _ := by simp [execResponseFrame, inputTo_there hr, ha, hx, Nat.not_lt_of_le hst, hb]

/-- A whole response of the context's own slot is classified with its strength already shown. -/
theorem exec_responseFrame_classified {slot mact : Nat} (hb : responseBody frame = some (slot, mact))
    (hs : slot % 16 = c.slot) :
    exec (.responseFrame st rssi frame true) s = .next (classify (noteRssi s rssi) n c st mact) := by
  calc exec (.responseFrame st rssi frame true) s
      = execResponseFrame st rssi frame true s := rfl
    _ = _ := by simp [execResponseFrame, inputTo_there hr, ha, hx, Nat.not_lt_of_le hst, hb, hs]

end

/-- Settles O3: the turn by its checks, and a response by its start, its wholeness and its classification. -/
theorem challengeAndResponse : Obligations.ChallengeAndResponse := by
  refine ⟨?sent, ?refused, ?corrupt, ?late, ?bad, ?right, ?cut, ?overdue, ?timeout⟩
  case sent =>
    intro s n k c lock hr hp ha hn hc hok hk hmay hcal
    exact exec_challengeTurn_sent hr hp ha hn hc hok hk hmay hcal
  case refused =>
    intro s n oc c lock hr hp ha hn hc hoc
    exact exec_challengeTurn_refused hr hp ha hn hc hoc
  case corrupt =>
    intro s n st c rssi frame hr ha hx hst hb
    exact exec_responseFrame_corrupt ha hx hst hr hb
  case late =>
    intro s n st slot mact c rssi frame hr ha hx hst hb hs hw
    rw [exec_responseFrame_classified ha hx hst hr hb hs, classify_late mact hw]
  case bad =>
    intro s n st slot mact c rssi frame hr ha hx hst hb hs hw hm
    rw [exec_responseFrame_classified ha hx hst hr hb hs, classify_bad hw hm]
  case right =>
    intro s n st slot mact i c rssi frame hr ha hx hst hb hs hw hm hi hk
    rw [exec_responseFrame_classified ha hx hst hr hb hs, classify_right hw hm hi hk]
  case cut =>
    intro s n st c rssi frame hr ha hx hst
    exact exec_responseFrame_cut ha hx hst hr
  case overdue =>
    intro s n st c rssi frame whole hr ha hx hst
    exact exec_responseFrame_overdue ha hx hr hst
  case timeout =>
    intro s n c hr ha
    exact exec_responseTimeout ha hr

end Sys2Proof.Machine
end

section
/-! PROOFS. UWB rounds (02_release_cycle.md R37, R38; 05_radios.md R114-R118; 06_proximity.md R144-R155): how a round
starts, the frames that carry it on, and what ends it. -/
namespace Sys2Proof.Machine

/-! ### UWB rounds: the start (R37, R38) -/

/-- A round starts for its whole duration: an exchange, or the bounding run of a context that has its exchanges. -/
theorem exec_uwbRoundStart {s : State} {n a b counter us : Nat} {c : Ctx} {bounding : Bool}
    (hr : rolesThere s (.uwbRoundStart a b counter) = true) (hn : roundNext s = some (n, c))
    (hfree : uwbFree s = true) (hgov : govLevel s < 3) (hrec : s.rad.regRec.isSome = true)
    (hb : decide (s.eff Reg.uwbRangeAvg ≤ c.exchanges.length) = bounding)
    (hus : (if bounding then boundingTime s else exchangeTime s) = us)
    (hg : grantCovers s us a b = true) (hcal : uwbNeverCalibrated s = false) (hd : uwbDutyOk s us = true) :
    exec (.uwbRoundStart a b counter) s =
      .next (roundStarts (applyTiming .uwbRound s) n c bounding us counter) := by
  have hgo : (!uwbFree s || decide (3 ≤ govLevel s) || s.rad.regRec.isNone) = false := by
    simp [hfree, hgov, hrec]
  calc exec (.uwbRoundStart a b counter) s
      = execUwbRoundStart a b counter s := rfl
    _ = _ := by simp [execUwbRoundStart, inputTo_there hr, hn, hgo, hb, hus, hg, hcal, hd]

theorem exec_rangeGrantTimeout {s : State} {n : Nat} {c : Ctx} (hr : rolesThere s (.rangeGrantTimeout n) = true)
    (hn : roundNext s = some (n, c)) : exec (.rangeGrantTimeout n) s = .next (endCtx s n ocRangeFail 0) := by
  calc exec (.rangeGrantTimeout n) s
      = execRangeGrantTimeout n s := rfl
    _ = _ := by simp [execRangeGrantTimeout, inputTo_there hr, hn]

/-! ### UWB rounds: the frames of an exchange (05 R116-R118; 06 R144-R146) -/

section
variable {s : State} {r : Round} {counter : Nat}

section
variable {ph : List (Option Nat)} {o : Int}
variable (hr : rolesThere s (.uwbResponseFrame counter ph o) = true) (ha : roundAt s .response = some r)
include hr ha

theorem exec_uwbResponseFrame_taken (ho : o.natAbs ≤ 4000) :
    exec (.uwbResponseFrame counter ph o) s =
      .next { s with uwb := { s.uwb with
        phase := .idle, utrsw := false,
        round := some { r with step := .final, t4 := rxStamp s counter 0, phases := ph, offset := o } } } := by
  calc exec (.uwbResponseFrame counter ph o) s
      = execUwbResponseFrame counter ph o s := rfl
    _ = _ := by simp only [execUwbResponseFrame, inputTo_there hr, ha, if_neg (Nat.not_lt_of_le ho)]

theorem exec_uwbResponseFrame_farOff (ho : 4000 < o.natAbs) :
    exec (.uwbResponseFrame counter ph o) s = .next (roundFails s) := by
  calc exec (.uwbResponseFrame counter ph o) s
      = execUwbResponseFrame counter ph o s := rfl
    _ = _ := by simp only [execUwbResponseFrame, inputTo_there hr, ha, if_pos ho]

end

theorem exec_uwbFinalTx (hr : rolesThere s (.uwbFinalTx counter) = true) (ha : roundAt s .final = some r) :
    exec (.uwbFinalTx counter) s =
      .next (({ s with uwb := { s.uwb with
        phase := .tx, lock := true, utrsw := true,
        round := some { r with step := .report, t5 := txStamp s (scheduledAt counter) } } }).emit
          (.uwbFrame 2 r.nine ((s.ctx r.ctx).map (fun c => roundSts c 2)) [])) := by
  calc exec (.uwbFinalTx counter) s
      = execUwbFinalTx counter s := rfl
    _ = _ := by simp only [execUwbFinalTx, inputTo_there hr, ha]

section
variable {c : Ctx} {p : Bytes}
variable (hr : rolesThere s (.uwbReportFrame p) = true) (ha : roundAt s .report = some r) (hc : s.ctx r.ctx = some c)
include hr ha hc

theorem exec_uwbReportFrame_genuine (hok : reportOk c r p = true) :
    exec (.uwbReportFrame p) s = .next ((roundOver s).setCtx r.ctx
      { c with exchanges := c.exchanges ++ [completedExchange s r p] }) := by
  calc exec (.uwbReportFrame p) s
      = execUwbReportFrame p s := rfl
    _ = _ := by simp only [execUwbReportFrame, inputTo_there hr, ha, hc, hok, if_true]

theorem exec_uwbReportFrame_false (hok : reportOk c r p = false) :
    exec (.uwbReportFrame p) s = .next (roundFails s) := by
  calc exec (.uwbReportFrame p) s
      = execUwbReportFrame p s := rfl
    _ = _ := by simp only [execUwbReportFrame, inputTo_there hr, ha, hc, hok, Bool.false_eq_true, if_false]

end

theorem exec_uwbRxWindowEnd (hr : rolesThere s .uwbRxWindowEnd = true) (ha : roundAt s .report = some r) :
    exec .uwbRxWindowEnd s = .next (roundFails s) := by
  calc exec .uwbRxWindowEnd s
      = execUwbRxWindowEnd s := rfl
    _ = _ := by simp [execUwbRxWindowEnd, inputTo_there hr, ha]

/-! ### UWB rounds: the synthesiser's lock (05 R117, R118) -/

theorem exec_uwbLockLoss_onAir (hr : rolesThere s .uwbLockLoss = true) (hl : s.uwb.lock = true)
    (hp : s.uwb.phase = .rx ∨ s.uwb.phase = .tx) :
    exec .uwbLockLoss s = .next ((fun t : State => if t.uwb.phase == .off then t else
        { t with uwb := { t.uwb with phase := .cal, utrsw := false } })
      (roundFails (({ s with uwb := { s.uwb with lock := false } }).raise Reg.uwbFaultUnlock))) := by
  have hon : (s.uwb.lock && s.uwb.phase != .off) = true := by rcases hp with h | h <;> simp [hl, h]
  have hair : (s.uwb.phase == .tx || s.uwb.phase == .rx) = true := by rcases hp with h | h <;> simp [h]
  calc exec .uwbLockLoss s
      = execUwbLockLoss s := rfl
    _ = _ := by simp only [execUwbLockLoss, inputTo_there hr, hon, when_true, hair, if_true]

theorem exec_uwbLockLoss_idle (hr : rolesThere s .uwbLockLoss = true) (hl : s.uwb.lock = true)
    (hp : s.uwb.phase = .idle) :
    exec .uwbLockLoss s =
      .next { s with uwb := { s.uwb with lock := false, phase := .cal, utrsw := false } } := by
  have hon : (s.uwb.lock && s.uwb.phase != .off) = true := by simp [hl, hp]
  have hair : (s.uwb.phase == .tx || s.uwb.phase == .rx) = false := by simp [hp]
  have hphase : (s.uwb.phase == .off) = false := by simp [hp]
  calc exec .uwbLockLoss s
      = execUwbLockLoss s := rfl
    _ = _ := by
      simp only [execUwbLockLoss, inputTo_there hr, hon, when_true, hair, hphase, Bool.false_eq_true, if_false]

theorem exec_uwbTxWaitExpiry_final (hr : rolesThere s .uwbTxWaitExpiry = true) (hp : s.uwb.phase = .cal)
    (ha : roundAt s .final = some r) :
    exec .uwbTxWaitExpiry s = .next (roundFails (s.raise Reg.uwbFaultSynthBusy)) := by
  have hlate : (s.uwb.phase != .off && uwbUnlocked s) = true := by simp [uwbUnlocked, hp]
  calc exec .uwbTxWaitExpiry s
      = execUwbTxWaitExpiry s := rfl
    _ = _ := by rw [execUwbTxWaitExpiry, inputTo_there hr, hlate, when_true, ha]

/-! ### UWB rounds: the bounding run (06 R151, R154) -/

theorem exec_boundingRunComplete {c : Ctx} {rounds : List (Option BoundRound)}
    (hr : rolesThere s (.boundingRunComplete rounds) = true) (ha : roundAt s .bounding = some r)
    (hc : s.ctx r.ctx = some c) :
    exec (.boundingRunComplete rounds) s =
      .next ((fun t : State => cycleCheck { t with cyc := { t.cyc with
          keyed := t.cyc.keyed.filter (fun k => k != r.ctx) } })
        ((roundOver s).setCtx r.ctx { c with phase := .fusing, bound := some (evalRun s c rounds) })) := by
  calc exec (.boundingRunComplete rounds) s
      = execBoundingRunComplete rounds s := rfl
    _ = _ := by simp only [execBoundingRunComplete, inputTo_there hr, ha, hc]

end

/-- Settles O4: each event of a round finds the round at the step that it ends, or the context next in turn. -/
theorem rangingRounds : Obligations.RangingRounds := by
  refine ⟨?exchange, ?bounding, ?timeout, ?taken, ?farOff, ?final, ?genuine, ?false, ?windowEnd, ?lossOnAir,
    ?lossIdle, ?waitExpiry, ?runComplete⟩
  case exchange =>
    intro s n a b counter c hr hn hfree hgov hrec hav hg hcal hd
    exact exec_uwbRoundStart hr hn hfree hgov hrec (decide_eq_false (Nat.not_le_of_lt hav)) rfl hg hcal hd
  case bounding =>
    intro s n a b counter c hr hn hfree hgov hrec hav hg hcal hd
    exact exec_uwbRoundStart hr hn hfree hgov hrec (decide_eq_true hav) rfl hg hcal hd
  case timeout =>
    intro s n c hr hn
    exact exec_rangeGrantTimeout hr hn
  case taken =>
    intro s r counter ph o hr ha ho
    exact exec_uwbResponseFrame_taken hr ha ho
  case farOff =>
    intro s r counter ph o hr ha ho
    exact exec_uwbResponseFrame_farOff hr ha ho
  case final =>
    intro s r counter hr ha
    exact exec_uwbFinalTx hr ha
  case genuine =>
    intro s r c p hr ha hc hok
    exact exec_uwbReportFrame_genuine hr ha hc hok
  case false =>
    intro s r c p hr ha hc hok
    exact exec_uwbReportFrame_false hr ha hc hok
  case windowEnd =>
    intro s r hr ha
    exact exec_uwbRxWindowEnd hr ha
  case lossOnAir =>
    intro s hr hl hp
    exact exec_uwbLockLoss_onAir hr hl hp
  case lossIdle =>
    intro s hr hl hp
    exact exec_uwbLockLoss_idle hr hl hp
  case waitExpiry =>
    intro s r hr hp ha
    exact exec_uwbTxWaitExpiry_final hr hp ha
  case runComplete =>
    intro s r c rounds hr ha hc
    exact exec_boundingRunComplete hr ha hc

end Sys2Proof.Machine
end

section
/-! PROOFS. LF diagnostics (03_lf_field.md R65, R67, R68): what requests them, a channel armed again, and what the end of
a burst finds. -/
namespace Sys2Proof.Machine

/-! ### What requests diagnostics (R65, R67) -/

theorem exec_lfStartWaitEnd {s : State} (hr : rolesThere s .lfStartWaitEnd = true) (hrun : s.running = true)
    (hwait : s.lf.allowed = false) :
    exec .lfStartWaitEnd s = .next (requestDiags { s with lf := { s.lf with allowed := true } }) := by
  have hdue : (s.running && !s.lf.allowed) = true := by simp [hrun, hwait]
  calc exec .lfStartWaitEnd s
      = execLfStartWaitEnd s := rfl
    _ = _ := by rw [execLfStartWaitEnd, inputTo_there hr, hdue, when_true]

theorem exec_lfDiagPeriod {s : State} (hr : rolesThere s .lfDiagPeriod = true) (hrun : s.running = true)
    (hallowed : s.lf.allowed = true) : exec .lfDiagPeriod s = .next (requestDiags s) := by
  have hdue : (s.running && s.lf.allowed) = true := by simp [hrun, hallowed]
  calc exec .lfDiagPeriod s
      = execLfDiagPeriod s := rfl
    _ = _ := by rw [execLfDiagPeriod, inputTo_there hr, hdue, when_true]

/-! ### The write-only actions of LF_CTRL (R67, R68) -/

theorem exec_diagNow {s : State} (hrun : s.running = true) :
    exec .diagNow s = .next (auditedWrite 0 0x1400 requestDiags s) := by
  calc exec .diagNow s
      = execDiagNow s := rfl
    _ = _ := by rw [execDiagNow, hrun, when_true]

theorem exec_lfRearm {s : State} {c : Nat} (hrun : s.running = true) (hc : c < 8) :
    exec (.lfRearm c) s = .next (auditedWrite 0 0x1400 (rearmChan c) s) := by
  have hin : (s.running && decide (c < 8)) = true := by simp [hrun, hc]
  calc exec (.lfRearm c) s
      = execLfRearm c s := rfl
    _ = _ := by rw [execLfRearm, hin, when_true]

/-! ### The end of a burst (R68) -/

/-- What a burst's end does to its channel, by the first finding that applies: a trip, too small a current, or neither. -/
def burstFinding (s : State) (c : Nat) (trip : Bool) (cur res : Nat) : State :=
  if trip then selftestChan (chanFails s c .shortGnd) c false
  else if cur < 20 then selftestChan (chanFails s c .openCircuit) c false
  else chanPasses s c res

section
variable (s : State) (c res : Nat) {cur : Nat}

theorem burstFinding_trip (cur : Nat) :
    burstFinding s c true cur res = selftestChan (chanFails s c .shortGnd) c false := rfl

theorem burstFinding_open (hcur : cur < 20) :
    burstFinding s c false cur res = selftestChan (chanFails s c .openCircuit) c false := by
  rw [burstFinding, if_neg Bool.false_ne_true, if_pos hcur]

theorem burstFinding_sound (hcur : 20 ≤ cur) : burstFinding s c false cur res = chanPasses s c res := by
  rw [burstFinding, if_neg Bool.false_ne_true, if_neg (Nat.not_lt_of_le hcur)]

end

/-- The burst that runs on the channel is over before its finding is set. -/
theorem exec_lfDiagBurstEnd {s : State} {c cur res : Nat} {trip : Bool}
    (hr : rolesThere s (.lfDiagBurstEnd c trip cur res) = true) (hb : s.lf.burst = some c) :
    exec (.lfDiagBurstEnd c trip cur res) s =
      .next (burstFinding { s with lf := { s.lf with burst := none } } c trip cur res) := by
  have hown : (s.lf.burst == some c) = true := by simp [hb]
  calc exec (.lfDiagBurstEnd c trip cur res) s
      = execLfDiagBurstEnd c trip cur res s := rfl
    _ = _ := by
      rw [execLfDiagBurstEnd, inputTo_there hr, hown, when_true]
      rfl

/-- Settles O6: each request under its condition, and a burst's end by the finding that applies to it. -/
theorem lfDiagnostics : Obligations.LfDiagnostics := by
  refine ⟨?startWait, ?period, ?now, ?rearm, ?trips, ?opens, ?sound⟩
  case startWait =>
    intro s hr hrun hwait
    exact exec_lfStartWaitEnd hr hrun hwait
  case period =>
    intro s hr hrun hallowed
    exact exec_lfDiagPeriod hr hrun hallowed
  case now =>
    intro s hrun
    exact exec_diagNow hrun
  case rearm =>
    intro s c hrun hc
    exact exec_lfRearm hrun hc
  case trips =>
    intro s c cur res hr hb
    rw [exec_lfDiagBurstEnd hr hb, burstFinding_trip]
  case opens =>
    intro s c cur res hr hb hcur
    rw [exec_lfDiagBurstEnd hr hb, burstFinding_open _ c res hcur]
  case sound =>
    intro s c cur res hr hb hcur
    rw [exec_lfDiagBurstEnd hr hb, burstFinding_sound _ c res hcur, chanPasses]

end Sys2Proof.Machine
end

section
/-! PROOFS. Ring commands (12_host_interface.md R316, R319, R324; 02_release_cycle.md R46): what becomes of a descriptor
that waits on a served ring, by the form of its operands. -/
namespace Sys2Proof.Machine

section
variable {s : State} {n op tag : Nat} {d : Desc} (h : Waiting s n op tag d)
include h

/-- A command that waits runs on its own descriptor. -/
theorem ringCmd_waiting (f : Desc → State → State) : ringCmd n op tag f s = f d s := by
  obtain ⟨hserved, htake⟩ := h
  rw [ringCmd, if_pos hserved, htake]

section
variable {ok : Desc → Bool} (f : Desc → State → State)

theorem ringCmdIf_legal (hok : ok d = true) : ringCmdIf n op tag ok f s = f d s := by
  rw [ringCmdIf, ringCmd_waiting h, if_pos hok]

theorem ringCmdIf_illegal (hok : ok d = false) : ringCmdIf n op tag ok f s = complete s n tag stBadField 0 := by
  rw [ringCmdIf, ringCmd_waiting h, if_neg (Bool.eq_false_iff.mp hok)]

end

theorem postBuffer_longEnough {minLen : Nat} (hlen : minLen ≤ d.len) :
    postBuffer n op minLen tag s = markTaken s n tag false :=
  ringCmdIf_legal h _ (decide_eq_true hlen)

end

end Sys2Proof.Machine
end

section
/-! PROOFS. The coil and its walk (04_transponder_link.md R73, R74, R86, R87, R89): the start of what is due, the findings
at the coil, and the replies to WALK. -/
namespace Sys2Proof.Machine

/-! ### The field (R73, R74, R89) -/

theorem exec_coilPollStart {s : State} {vlf : Nat} (hr : rolesThere s (.coilPollStart vlf) = true)
    (hmay : coilMayStart s = true) : exec (.coilPollStart vlf) s = .next (coilNext (setVlf s vlf)) := by
  calc exec (.coilPollStart vlf) s
      = execCoilPollStart vlf s := rfl
    _ = _ := by rw [execCoilPollStart, inputTo_there hr, hmay, when_true]

section
variable {s : State} {cur : Nat} {p f : Bool}
variable (hr : rolesThere s (.coilSettleEnd cur p f) = true) (hp : s.tpx.phase = .settle)
include hr hp

theorem exec_coilSettleEnd_open (hf : coilFinding s cur p f = coilOpen) :
    exec (.coilSettleEnd cur p f) s = .next (endJob (classifyCoil s cur coilOpen) st4CoilFault 0) := by
  calc exec (.coilSettleEnd cur p f) s
      = execCoilSettleEnd cur p f s := rfl
    _ = _ := by simp only [execCoilSettleEnd, inputTo_there hr, hp, beq_self_eq_true, when_true, hf, if_true]

theorem exec_coilSettleEnd_walks (hf : coilFinding s cur p f ≠ coilOpen) :
    exec (.coilSettleEnd cur p f) s = .next (walkNext (classifyCoil s cur (coilFinding s cur p f))) := by
  calc exec (.coilSettleEnd cur p f) s
      = execCoilSettleEnd cur p f s := rfl
    _ = _ := by simp only [execCoilSettleEnd, inputTo_there hr, hp, beq_self_eq_true, when_true, if_neg hf]

end

section
variable {s : State} (hon : fieldOn s = true)
include hon

theorem exec_coilOvercurrent (hr : rolesThere s .coilOvercurrent = true) :
    exec .coilOvercurrent s = .next (fieldCollapse (classifyCoil s 255 coilShort) ocNoResponse) := by
  calc exec .coilOvercurrent s
      = execCoilOvercurrent s := rfl
    _ = _ := by rw [execCoilOvercurrent, inputTo_there hr, hon, when_true]

theorem exec_coilVlfCollapse (hr : rolesThere s .coilVlfCollapse = true) :
    exec .coilVlfCollapse s = .next (fieldCollapse s ocNoResponse) := by
  calc exec .coilVlfCollapse s
      = execCoilVlfCollapse s := rfl
    _ = _ := by rw [execCoilVlfCollapse, inputTo_there hr, hon, when_true]

end

theorem exec_tpxRearm {s : State} (hrun : s.running = true) :
    exec .tpxRearm s = .next (auditedWrite 0 0x1800 rearmCoil s) := by
  calc exec .tpxRearm s
      = execTpxRearm s := rfl
    _ = _ := by rw [execTpxRearm, hrun, when_true]

/-! ### The walk (R79, R86, R87) -/

section
variable {s : State} {n p tries start : Nat} {halves : List (Bool × Bool)}
variable (hr : rolesThere s (.walkReply start halves) = true) (hp : s.tpx.phase = .walk n p tries)
include hr hp

theorem exec_walkReply_outside (hw : inTurnaround start turn256 = false) :
    exec (.walkReply start halves) s = .next (walkNext s) := by
  calc exec (.walkReply start halves) s
      = execWalkReply start halves s := rfl
    _ = _ := by simp only [execWalkReply, inputTo_there hr, hp, hw, Bool.not_false, if_true]

variable (hw : inTurnaround start turn256 = true)
include hw

theorem exec_walkReply_whole {bits : Nat} (hread : readWalk (64 - n) 0 0 halves = .whole bits) :
    exec (.walkReply start halves) s = .next (walkFound s (p * 2 ^ (64 - n) + bits)) := by
  calc exec (.walkReply start halves) s
      = execWalkReply start halves s := rfl
    _ = _ := by
      simp only [execWalkReply, inputTo_there hr, hp, hw, hread, Bool.not_true, Bool.false_eq_true, if_false]

/-- The node below the collision splits in two, the 0-branch on top. -/
theorem exec_walkReply_collided {count bits : Nat} (hread : readWalk (64 - n) 0 0 halves = .collided count bits) :
    exec (.walkReply start halves) s = .next (walkNext { s with tpx := { s.tpx with
      stack := (n + count + 1, (p * 2 ^ count + bits) * 2) ::
        (n + count + 1, (p * 2 ^ count + bits) * 2 + 1) :: s.tpx.stack } }) := by
  calc exec (.walkReply start halves) s
      = execWalkReply start halves s := rfl
    _ = _ := by
      simp only [execWalkReply, inputTo_there hr, hp, hw, hread, Bool.not_true, Bool.false_eq_true, if_false]

end

theorem exec_tpxReplyMissing_walk {s : State} {cur n p tries : Nat} {full : Bool}
    (hr : rolesThere s (.tpxReplyMissing cur full) = true) (hp : s.tpx.phase = .walk n p tries) :
    exec (.tpxReplyMissing cur full) s = .next (walkNext s) := by
  calc exec (.tpxReplyMissing cur full) s
      = execTpxReplyMissing cur full s := rfl
    _ = _ := by simp only [execTpxReplyMissing, inputTo_there hr, hp]

/-- Settles O12: the coil by its finding, and a reply to WALK by its window and by what is read of it. -/
theorem coilPollsAndWalk : Obligations.CoilPollsAndWalk := by
  refine ⟨?starts, ?opens, ?walks, ?overcurrent, ?collapse, ?rearm, ?whole, ?collided, ?outside, ?missing⟩
  case starts =>
    intro s vlf hr hmay
    exact exec_coilPollStart hr hmay
  case opens =>
    intro s cur p f hr hp hf
    exact exec_coilSettleEnd_open hr hp hf
  case walks =>
    intro s cur p f hr hp hf
    exact exec_coilSettleEnd_walks hr hp hf
  case overcurrent =>
    intro s hr hon
    exact exec_coilOvercurrent hon hr
  case collapse =>
    intro s hr hon
    exact exec_coilVlfCollapse hon hr
  case rearm =>
    intro s hrun
    exact exec_tpxRearm hrun
  case whole =>
    intro s n p tries start bits halves hr hp hw hread
    exact exec_walkReply_whole hr hp hw hread
  case collided =>
    intro s n p tries start count bits halves hr hp hw hread
    exact exec_walkReply_collided hr hp hw hread
  case outside =>
    intro s n p tries start halves hr hp hw
    exact exec_walkReply_outside hr hp hw
  case missing =>
    intro s cur n p tries full hr hp
    exact exec_tpxReplyMissing_walk hr hp

end Sys2Proof.Machine
end

section
/-! PROOFS. The exchange with a selected tag (04_transponder_link.md R79, R81-R85, R90): SELECTED and the nonce, the
classification of AUTH and PASSWORD replies, and secured replies. -/
namespace Sys2Proof.Machine

/-! ### SELECTED (R90) -/

/-- The context of a tag whose SELECTED carried `b`: its capabilities, and the Holly slot and epoch it is found under. -/
def selectedCtx (s : State) (c : CoilCtx) (b : Bytes) : CoilCtx :=
  { c with cap := beNat b, slot := findHolly s c.id, entry := ((findHolly s c.id).map (holly s)).getD HollySlot.empty,
           epoch := s.aut.table.epoch }

/-- One context more of this field-on interval. -/
def contextCounted (s : State) : State := { s with tpx := { s.tpx with contexts := s.tpx.contexts + 1 } }

section
variable {s : State} {c : CoilCtx} {start cur : Nat} {frame b : Bytes}
variable (hr : rolesThere s (.selectedReply start cur frame) = true) (hp : s.tpx.phase = .select)
  (hc : coilCtx s cur = some c) (hw : inTurnaround start turn256 = true) (hb : replyPayload frame 0x81 1 = some b)
include hr hp hc hw hb

/-- A command makes no checks of R33. -/
theorem exec_selectedReply_command (hserves : servesTags s = false) :
    exec (.selectedReply start cur frame) s = .next (secureTag s (selectedCtx s c b)) := by
  calc exec (.selectedReply start cur frame) s
      = execSelectedReply start cur frame s := rfl
    _ = _ := by
      simp only [execSelectedReply, inputTo_there hr, hp, hc, hw, hb, hserves, Bool.false_eq_true, if_true, if_false,
        selectedCtx]

theorem exec_selectedReply_refused {oc : Nat} (hserves : servesTags s = true)
    (hoc : checkR33 (contextCounted s) c.id = some oc) :
    exec (.selectedReply start cur frame) s =
      .next (endTag (setCoilCtx (contextCounted s) (selectedCtx s c b)) oc 0) := by
  simp only [contextCounted] at hoc
  calc exec (.selectedReply start cur frame) s
      = execSelectedReply start cur frame s := rfl
    _ = _ := by
      rw [execSelectedReply, inputTo_there hr, hp, hc]
      simp only [hw, hb, hserves, if_true, hoc, selectedCtx, contextCounted]

end

/-! ### The nonce (R81) -/

section
variable {s : State} {c : CoilCtx} {start cur : Nat} {frame : Bytes}
variable (hr : rolesThere s (.nonceReply start cur frame) = true) (hp : s.tpx.phase = .getNonce)
  (hc : coilCtx s cur = some c)
include hr hp hc

theorem exec_nonceReply_inside {b : Bytes} (hw : inTurnaround start turn256 = true)
    (hb : replyPayload frame 0x82 16 = some b) :
    exec (.nonceReply start cur frame) s = .next (sendAuth s { c with nt := beNat b }) := by
  calc exec (.nonceReply start cur frame) s
      = execNonceReply start cur frame s := rfl
    _ = _ := by simp only [execNonceReply, inputTo_there hr, hp, hc, hw, hb, if_true]

theorem exec_nonceReply_outside (hw : inTurnaround start turn256 = false) :
    exec (.nonceReply start cur frame) s = .next (endTag (setCoilCtx s c) ocNoResponse 0) := by
  calc exec (.nonceReply start cur frame) s
      = execNonceReply start cur frame s := rfl
    _ = _ := by simp only [execNonceReply, inputTo_there hr, hp, hc, hw, Bool.false_eq_true, if_false]

end

/-! ### The classification of AUTH and PASSWORD replies (R83) -/

theorem inTurnaround_le {start nominal : Nat} (h : inTurnaround start nominal = true) : start ≤ nominal + 96 := by
  simp only [inTurnaround, Bool.and_eq_true, decide_eq_true_eq] at h
  exact h.2

section
variable {s : State} {c : CoilCtx} {start nominal : Nat} {frame : Bytes} (hwhole : replyWhole frame = true)
include hwhole

/-- A whole reply outside its window, begun by 4.096 ms, is late whatever it carries. -/
theorem classifyReply_late (right : Option (Option Bool)) (hst : start ≤ 49152)
    (hw : inTurnaround start nominal = false) :
    classifyReply s c start nominal frame right = endTag (setCoilCtx (thornFailure s c.id) c) ocLate 0 := by
  simp [classifyReply, countedEnd, Nat.not_lt_of_le hst, hwhole, hw]

/-- The windows of AUTH and PASSWORD lie before 4.096 ms, so a reply inside is classified by what it carries. -/
theorem classifyReply_inside (right : Option Bool) (hnominal : nominal ≤ turn2048)
    (hw : inTurnaround start nominal = true) :
    classifyReply s c start nominal frame (some right) = handshakeReply s c right := by
  have hst : ¬ 49152 < start := by
    have hle := inTurnaround_le hw
    simp only [turn2048] at hnominal
    omega
  simp [classifyReply, hst, hwhole, hw]

end

section
variable (s : State) {c : CoilCtx}

theorem handshakeReply_wrong :
    handshakeReply s c (some false) = endTag (setCoilCtx (thornFailure s c.id) c) ocBad 0 := rfl

variable (hin : (findHolly s c.id).isSome = true)
include hin

theorem handshakeReply_right_password (hpath : c.byPassword = true) :
    handshakeReply s c (some true) = coilDecide s c := by
  simp [handshakeReply, Option.ne_none_iff_isSome.mpr hin, hpath]

theorem handshakeReply_right_aes (hpath : c.byPassword = false) :
    handshakeReply s c (some true) = afterSecured s { c with ks := deriveKs c.kt c.nd c.nt, counter := 0 } := by
  simp [handshakeReply, Option.ne_none_iff_isSome.mpr hin, hpath]

end

section
variable {s : State} {c : CoilCtx} {start cur : Nat} {frame m : Bytes} (hc : coilCtx s cur = some c)
include hc

/-- A PROOF is classified with its MACt compared. -/
theorem exec_authReply_proof (hr : rolesThere s (.authReply start cur frame) = true) (hp : s.tpx.phase = .auth)
    (hm : replyPayload frame 0x83 8 = some m) :
    exec (.authReply start cur frame) s = .next (classifyReply s c start turn2048 frame
      (some (some (beNat m == macT 0x74 c.kt c.nd c.nt c.id)))) := by
  calc exec (.authReply start cur frame) s
      = execAuthReply start cur frame s := rfl
    _ = _ := by simp only [execAuthReply, inputTo_there hr, hp, hc, hm]

theorem exec_passwordReply_ack (hr : rolesThere s (.passwordReply start cur frame) = true)
    (hp : s.tpx.phase = .password) (hm : replyPayload frame 0x80 0 = some m) :
    exec (.passwordReply start cur frame) s =
      .next (classifyReply s c start turn256 frame (some (some true))) := by
  calc exec (.passwordReply start cur frame) s
      = execPasswordReply start cur frame s := rfl
    _ = _ := by simp only [execPasswordReply, inputTo_there hr, hp, hc, hm, Option.isSome_some, if_true]

end

/-! ### Secured replies (R82, R85) -/

section
variable {s : State} {c : CoilCtx} {step : SecStep} {start cur : Nat} {frame : Bytes}
variable (hr : rolesThere s (.securedReply start cur frame) = true) (hp : s.tpx.phase = .secured step)
  (hc : coilCtx s cur = some c)
include hr hp hc

theorem exec_securedReply_right {data : Bytes} (hin : secInTime step start = true)
    (hdata : securedPayload c step.op step.replyLen frame = some data) :
    exec (.securedReply start cur frame) s = .next (securedStep (setCoilCtx s c) c step data) := by
  calc exec (.securedReply start cur frame) s
      = execSecuredReply start cur frame s := rfl
    _ = _ := by
      simp only [execSecuredReply, inputTo_there hr, hp, hc, hin, hdata, Bool.not_true, Bool.false_eq_true, if_false]

theorem exec_securedReply_outOfTime (hin : secInTime step start = false) :
    exec (.securedReply start cur frame) s = .next (securedMissing (setCoilCtx s c) c step true) := by
  calc exec (.securedReply start cur frame) s
      = execSecuredReply start cur frame s := rfl
    _ = _ := by simp only [execSecuredReply, inputTo_there hr, hp, hc, hin, Bool.not_false, if_true]

end

/-! ### Missing replies (R79, R83) -/

section
variable {s : State} {c : CoilCtx} {cur : Nat} {full : Bool}
variable (hr : rolesThere s (.tpxReplyMissing cur full) = true) (hc : coilCtx s cur = some c)
include hr hc

theorem exec_tpxReplyMissing_auth (hp : s.tpx.phase = .auth) :
    exec (.tpxReplyMissing cur full) s = .next (endTag (setCoilCtx s c) ocNoResponse 0) := by
  calc exec (.tpxReplyMissing cur full) s
      = execTpxReplyMissing cur full s := rfl
    _ = _ := by simp only [execTpxReplyMissing, inputTo_there hr, hp, hc]

theorem exec_tpxReplyMissing_secured {step : SecStep} (hp : s.tpx.phase = .secured step) :
    exec (.tpxReplyMissing cur full) s = .next (securedMissing (setCoilCtx s c) c step full) := by
  calc exec (.tpxReplyMissing cur full) s
      = execTpxReplyMissing cur full s := rfl
    _ = _ := by simp only [execTpxReplyMissing, inputTo_there hr, hp, hc]

end

/-- Settles O13: each reply of the exchange by its window and, inside it, by what it carries. -/
theorem transponderHandshake : Obligations.TransponderHandshake := by
  refine ⟨?selected, ?refused, ?nonce, ?nonceOutside, ?late, ?wrong, ?right, ?ack, ?secured, ?securedOutOfTime,
    ?proofMissing, ?securedMissing⟩
  case selected =>
    rintro s c start cur cap frame b hr hp hc hw hb rfl hserves
    exact exec_selectedReply_command hr hp hc hw hb hserves
  case refused =>
    intro s c start cur oc frame b hr hp hc hw hb hserves hoc
    exact exec_selectedReply_refused hr hp hc hw hb hserves hoc
  case nonce =>
    intro s c start cur frame b hr hp hc hw hb
    exact exec_nonceReply_inside hr hp hc hw hb
  case nonceOutside =>
    intro s c start cur frame hr hp hc hw
    exact exec_nonceReply_outside hr hp hc hw
  case late =>
    intro s c start cur frame m hr hp hc hwhole hm hst hw
    rw [exec_authReply_proof hc hr hp hm, classifyReply_late hwhole _ hst hw]
  case wrong =>
    intro s c start cur frame m hr hp hc hwhole hm hw hmac
    rw [exec_authReply_proof hc hr hp hm, classifyReply_inside hwhole _ (Nat.le_refl _) hw,
      beq_eq_false_iff_ne.mpr hmac, handshakeReply_wrong]
  case right =>
    intro s c start cur frame m hr hp hc hwhole hm hw hmac hpath hin
    rw [exec_authReply_proof hc hr hp hm, classifyReply_inside hwhole _ (Nat.le_refl _) hw,
      beq_iff_eq.mpr hmac, handshakeReply_right_aes s hin hpath]
  case ack =>
    intro s c start cur frame m hr hp hc hwhole hm hw hpath hin
    rw [exec_passwordReply_ack hc hr hp hm, classifyReply_inside hwhole _ (by decide) hw,
      handshakeReply_right_password s hin hpath]
  case secured =>
    intro s c step start cur frame data hr hp hc hin hdata
    exact exec_securedReply_right hr hp hc hin hdata
  case securedOutOfTime =>
    intro s c step start cur frame hr hp hc hin
    exact exec_securedReply_outOfTime hr hp hc hin
  case proofMissing =>
    intro s c cur full hr hp hc
    exact exec_tpxReplyMissing_auth hr hc hp
  case securedMissing =>
    intro s c step cur full hr hp hc
    exact exec_tpxReplyMissing_secured hr hc hp

end Sys2Proof.Machine
end

section
/-! PROOFS. Ring 4 (04_transponder_link.md R92, R96, R99): the posted report buffer, and the commands that join the coil's
queue. -/
namespace Sys2Proof.Machine

section
variable {s : State} {tag : Nat} {d : Desc}

theorem exec_tpxReportBuffer (hr : rolesThere s (.tpxReportBuffer tag) = true) (hwait : Waiting s 4 0x01 tag d)
    (hlen : 32 ≤ d.len) : exec (.tpxReportBuffer tag) s = .next (markTaken s 4 tag false) := by
  calc exec (.tpxReportBuffer tag) s
      = execTpxReportBuffer tag s := rfl
    _ = _ := by rw [execTpxReportBuffer, inputTo_there hr, postBuffer_longEnough hwait hlen]

theorem exec_pollNow (hr : rolesThere s (.pollNow tag) = true) (hwait : Waiting s 4 0x02 tag d) :
    exec (.pollNow tag) s = .next (coilCommand tag (.pollNow tag) s) := by
  calc exec (.pollNow tag) s
      = execPollNow tag s := rfl
    _ = _ := by rw [execPollNow, inputTo_there hr, ringCmd_waiting hwait]

theorem exec_inventory (hr : rolesThere s (.inventory tag) = true) (hwait : Waiting s 4 0x03 tag d) (hlo : 8 ≤ d.len)
    (hhi : d.len ≤ 64) (hwhole : d.len % 8 = 0) :
    exec (.inventory tag) s = .next (coilCommand tag (.inventory tag (d.len / 8)) s) := by
  calc exec (.inventory tag) s
      = execInventory tag s := rfl
    _ = _ := by rw [execInventory, inputTo_there hr, ringCmdIf_legal hwait _ (by simp [hlo, hhi, hwhole])]

/-- The form that READ_BLOCK and WRITE_BLOCK share: 16 bytes of one of the 16 blocks. -/
theorem blockForm_iff : (d.len = 16 && decide (d.p1 < 16)) = true ↔ d.len = 16 ∧ d.p1 < 16 := by
  simp

theorem exec_readBlock (hr : rolesThere s (.readBlock tag) = true) (hwait : Waiting s 4 0x04 tag d)
    (hform : d.len = 16 ∧ d.p1 < 16) :
    exec (.readBlock tag) s = .next (coilCommand tag (.readBlock tag d.p0 d.p1) s) := by
  calc exec (.readBlock tag) s
      = execReadBlock tag s := rfl
    _ = _ := by rw [execReadBlock, inputTo_there hr, ringCmdIf_legal hwait _ (blockForm_iff.mpr hform)]

theorem exec_readBlock_badField (hr : rolesThere s (.readBlock tag) = true) (hwait : Waiting s 4 0x04 tag d)
    (hform : ¬ (d.len = 16 ∧ d.p1 < 16)) :
    exec (.readBlock tag) s = .next (complete s 4 tag stBadField 0) := by
  calc exec (.readBlock tag) s
      = execReadBlock tag s := rfl
    _ = _ := by
      rw [execReadBlock, inputTo_there hr,
        ringCmdIf_illegal hwait _ (Bool.eq_false_iff.mpr (mt blockForm_iff.mp hform))]

theorem exec_writeBlock {data : Bytes} (hr : rolesThere s (.writeBlock tag data) = true)
    (hwait : Waiting s 4 0x05 tag d) (hform : d.len = 16 ∧ d.p1 < 16) :
    exec (.writeBlock tag data) s =
      .next (coilCommand tag (.writeBlock tag d.p0 d.p1 (padTo 16 data)) s) := by
  calc exec (.writeBlock tag data) s
      = execWriteBlock tag data s := rfl
    _ = _ := by rw [execWriteBlock, inputTo_there hr, ringCmdIf_legal hwait _ (blockForm_iff.mpr hform)]

end

/-- Settles O14: each command runs on the descriptor that waits for it, where the form is legal. -/
theorem coilRing : Obligations.CoilRing := by
  refine ⟨?buffer, ?pollNow, ?inventory, ?read, ?readBadField, ?write⟩
  case buffer =>
    intro s tag d hr hwait hlen
    exact exec_tpxReportBuffer hr hwait hlen
  case pollNow =>
    intro s tag d hr hwait
    exact exec_pollNow hr hwait
  case inventory =>
    intro s tag d hr hwait hlo hhi hwhole
    exact exec_inventory hr hwait hlo hhi hwhole
  case read =>
    intro s tag d hr hwait hlen hblock
    exact exec_readBlock hr hwait ⟨hlen, hblock⟩
  case readBadField =>
    intro s tag d hr hwait hbad
    exact exec_readBlock_badField hr hwait fun ⟨hlen, hblock⟩ =>
      hbad.elim (fun h => h hlen) (fun h => Nat.not_le_of_lt hblock h)
  case write =>
    intro s tag d data hr hwait hlen hblock
    exact exec_writeBlock hr hwait ⟨hlen, hblock⟩

end Sys2Proof.Machine
end

section
/-! PROOFS. The sub-GHz transceiver (05_radios.md R105-R109): lock and its loss, the end of the wait for it, and the end
of a transmission, by the work in hand. -/
namespace Sys2Proof.Machine

/-! ### The synthesiser's lock (R105, R107) -/

section
variable {s : State} (hr : rolesThere s .sgrSynthLock = true) (hp : s.sgr.phase = .synth)
include hr hp

theorem exec_sgrSynthLock_idle (hh : s.sgr.held = false) :
    exec .sgrSynthLock s = .next (sgrIdleAt { s with sgr := { s.sgr with lock := true } } .rx) := by
  calc exec .sgrSynthLock s
      = execSgrSynthLock s := rfl
    _ = _ := by simp [execSgrSynthLock, inputTo_there hr, hp, hh]

theorem exec_sgrSynthLock_challenge (hh : s.sgr.held = true) (hw : s.sgr.work = .cycle) :
    exec .sgrSynthLock s = .next (challengeLeaves { s with sgr := { s.sgr with lock := true } }) := by
  calc exec .sgrSynthLock s
      = execSgrSynthLock s := rfl
    _ = _ := by simp [execSgrSynthLock, inputTo_there hr, hp, hh, hw]

end

/-- The transceiver with its synthesiser starting again, unlocked. -/
def sgrRestarts (s : State) : State :=
  { sgrIdleAt s .synth with sgr := { (sgrIdleAt s .synth).sgr with lock := false } }

section
variable {s : State} (hr : rolesThere s .sgrLockLoss = true)
include hr

theorem exec_sgrLockLoss_rx (hp : s.sgr.phase = .rx) : exec .sgrLockLoss s = .next (sgrRestarts s) := by
  calc exec .sgrLockLoss s
      = execSgrLockLoss s := rfl
    _ = _ := by rw [execSgrLockLoss, inputTo_there hr, hp, sgrRestarts]

/-- The packet on air is cut: nothing of it is sent again (log 27). -/
theorem exec_sgrLockLoss_packet {tag back : Nat} {data : Bytes} (hp : s.sgr.phase = .tx)
    (hw : s.sgr.work = .txPacket tag data back) :
    exec .sgrLockLoss s = .next (sgrNextJob (complete (sgrFree (sgrRestarts
      ((s.raise Reg.sgrFaultUnlock).emit (.sgrSwitch true (switchDown s false))))) 5 tag stSynthBusy 0)) := by
  have hcut : ((s.raise Reg.sgrFaultUnlock).emit (.sgrSwitch true (switchDown s false))).sgr.work =
      .txPacket tag data back := hw
  calc exec .sgrLockLoss s
      = execSgrLockLoss s := rfl
    _ = _ := by
      simp only [execSgrLockLoss, inputTo_there hr, hp, hcut, sgrRestarts]

end

/-! ### The wait for lock ends (R106, R109) -/

section
variable {s : State} (hr : rolesThere s .sgrTxWaitExpiry = true) (hh : s.sgr.held = true)
include hr hh

theorem exec_sgrTxWaitExpiry_packet {tag back : Nat} {data : Bytes} (hp : s.sgr.phase = .synth)
    (hw : s.sgr.work = .txPacket tag data back) :
    exec .sgrTxWaitExpiry s = .next (sgrNextJob (complete (sgrFree (sgrBusy s)) 5 tag stSynthBusy 0)) := by
  calc exec .sgrTxWaitExpiry s
      = execSgrTxWaitExpiry s := rfl
    _ = _ := by simp [execSgrTxWaitExpiry, inputTo_there hr, hh, hp, hw]

theorem exec_sgrTxWaitExpiry_challenge {n : Nat} (hp : s.sgr.phase = .cal) (hw : s.sgr.work = .cycle)
    (ha : s.cyc.onAir = some n) :
    exec .sgrTxWaitExpiry s = .next (endCtx (sgrBusy s) n ocNoResponse 0) := by
  calc exec .sgrTxWaitExpiry s
      = execSgrTxWaitExpiry s := rfl
    _ = _ := by simp [execSgrTxWaitExpiry, inputTo_there hr, hh, hp, hw, ha]

end

/-! ### The end of a transmission (R108) -/

section
variable {s : State} (hr : rolesThere s .sgrTxEnd = true) (hp : s.sgr.phase = .tx)
include hr hp

theorem exec_sgrTxEnd_challenge (hw : s.sgr.work = .cycle) :
    exec .sgrTxEnd s = .next (sgrIdleAt (s.emit (.sgrSwitch true (switchDown s true))) .rx) := by
  calc exec .sgrTxEnd s
      = execSgrTxEnd s := rfl
    _ = _ := by simp [execSgrTxEnd, backToRx, inputTo_there hr, hp, hw]

theorem exec_sgrTxEnd_packet {tag back : Nat} {data : Bytes} (hw : s.sgr.work = .txPacket tag data back) :
    exec .sgrTxEnd s = .next (jobEnds (s.emit (.sgrSwitch true (switchDown s (back == 1)))) tag stOk
      (packetTime s data) back) := by
  have hair : packetTime (s.emit (.sgrSwitch true (switchDown s (back == 1)))) data = packetTime s data := rfl
  calc exec .sgrTxEnd s
      = execSgrTxEnd s := rfl
    _ = _ := by simp [execSgrTxEnd, backToRx, inputTo_there hr, hp, hw, hair]

end

/-- Settles O7: each event finds the transceiver's phase, whether a request is held, and the work in hand. -/
theorem subGhzStates : Obligations.SubGhzStates := by
  refine ⟨?lockIdle, ?lockChallenge, ?lossPacket, ?lossRx, ?waitPacket, ?waitChallenge, ?endChallenge, ?endPacket⟩
  case lockIdle =>
    intro s hr hp hh
    exact exec_sgrSynthLock_idle hr hp hh
  case lockChallenge =>
    intro s hr hp hh hw
    exact exec_sgrSynthLock_challenge hr hp hh hw
  case lossPacket =>
    intro s tag back data hr hp hw
    exact exec_sgrLockLoss_packet hr hp hw
  case lossRx =>
    intro s hr hp
    exact ⟨sgrRestarts s, exec_sgrLockLoss_rx hr hp, rfl, rfl, rfl⟩
  case waitPacket =>
    intro s tag back data hr hh hp hw
    exact exec_sgrTxWaitExpiry_packet hr hh hp hw
  case waitChallenge =>
    intro s n hr hh hp hw ha
    exact exec_sgrTxWaitExpiry_challenge hr hh hp hw ha
  case endChallenge =>
    intro s hr hp hw
    exact exec_sgrTxEnd_challenge hr hp hw
  case endPacket =>
    intro s tag back data hr hp hw
    exact exec_sgrTxEnd_packet hr hp hw

end Sys2Proof.Machine
end

section
/-! PROOFS. Temperature, tasks and calibration (05_radios.md R119-R123; 15_power_and_supervision.md R395, R413, R414): a
sample of the die temperature, the start of a task in a quiet slot or at its deadline, and what ends a calibration. -/
namespace Sys2Proof.Machine

/-! ### Temperature (R395, R414) -/

section
variable {s : State} {tenths : Int} (hr : rolesThere s (.temperatureSample tenths) = true) (hrun : s.running = true)
  (hdeep : s.pwr.deep = none)
include hr hrun hdeep

theorem exec_temperatureSample_tooHot (ht : 1550 ≤ tenths) :
    exec (.temperatureSample tenths) s =
      .next (enterFailed { s with pwr := { s.pwr with temp := tenths } } 0x08 0) := by
  calc exec (.temperatureSample tenths) s
      = execTemperatureSample tenths s := rfl
    _ = _ := by simp [execTemperatureSample, tempTaken, inputTo_there hr, hrun, hdeep, ht]

theorem exec_temperatureSample_governed (ht : tenths < 1550) :
    exec (.temperatureSample tenths) s =
      .next ((fun u : State => requestCal u (driftMask u)) (setGovernor { s with pwr := { s.pwr with temp := tenths } }
        (levelAt { s with pwr := { s.pwr with temp := tenths } } tenths) s.pwr.ntcHot)) := by
  calc exec (.temperatureSample tenths) s
      = execTemperatureSample tenths s := rfl
    _ = _ := by simp [execTemperatureSample, tempTaken, inputTo_there hr, hrun, hdeep, Int.not_le_of_gt ht]

end

/-! ### The scheduler (15 R413) -/

section
variable {s : State} {t : Task} {leakGnd leakVlf : Bool}

theorem exec_quietSlotTask (hr : rolesThere s (.quietSlotTask leakGnd leakVlf) = true)
    (ht : (tasksByDeadline s).find? (taskQuiet s) = some t) :
    exec (.quietSlotTask leakGnd leakVlf) s = .next (startTask s t leakGnd leakVlf) := by
  calc exec (.quietSlotTask leakGnd leakVlf) s
      = execQuietSlotTask leakGnd leakVlf s := rfl
    _ = _ := by rw [execQuietSlotTask, inputTo_there hr, ht]

theorem exec_taskDeadlinePreempt {rest : List Task} (hr : rolesThere s (.taskDeadlinePreempt leakGnd leakVlf) = true)
    (ht : tasksByDeadline s = t :: rest) (hmay : mayPreempt s t = true) :
    exec (.taskDeadlinePreempt leakGnd leakVlf) s =
      .next (startTask (event
        (((endCtxs (stepsStopped s t) (taskHits t) ocPreempted).bump Reg.pwrSchedPreempts).raise Reg.pwrFaultPreempt)
        blkPwr 0x20 ([BitVec.ofNat 8 t.kind.code, 0] ++ leBytes 2 (taskDuration t))) t leakGnd leakVlf) := by
  calc exec (.taskDeadlinePreempt leakGnd leakVlf) s
      = execTaskDeadlinePreempt leakGnd leakVlf s := rfl
    _ = _ := by simp only [execTaskDeadlinePreempt, inputTo_there hr, ht, hmay, if_true]

end

/-! ### The end of a calibration (05 R121-R123) -/

theorem exec_calBlockEnd {s : State} {t : Task} {failed : Nat} (hr : rolesThere s (.calBlockEnd failed) = true)
    (ht : s.pwr.running = some t) (hk : t.kind = .sgrCal ∨ t.kind = .uwbCal) :
    exec (.calBlockEnd failed) s = .next (blockEnds s t failed) := by
  have hradio : (t.kind == .sgrCal || t.kind == .uwbCal) = true := by simpa using hk
  calc exec (.calBlockEnd failed) s
      = execCalBlockEnd failed s := rfl
    _ = _ := by simp only [execCalBlockEnd, inputTo_there hr, ht, hradio, if_true]

section
variable {s : State} {count : Nat} (hr : rolesThere s (.oscMeasureEnd count) = true) (hm : s.sgr.measuring = true)
include hr hm

theorem exec_oscMeasureEnd_passes (hok : oscPasses count = true) :
    exec (.oscMeasureEnd count) s = .next (oscEnds { s with sgr := { s.sgr with
      rtcErr := rtcError count, calDone := setBit s.sgr.calDone 6 } } true) := by
  calc exec (.oscMeasureEnd count) s
      = execOscMeasureEnd count s := rfl
    _ = _ := by simp only [execOscMeasureEnd, inputTo_there hr, hm, when_true, hok, if_true]

theorem exec_oscMeasureEnd_repeats (hok : oscPasses count = false) (hagain : s.sgr.measureAgain = false) :
    exec (.oscMeasureEnd count) s = .next { s with sgr := { s.sgr with measureAgain := true } } := by
  calc exec (.oscMeasureEnd count) s
      = execOscMeasureEnd count s := rfl
    _ = _ := by simp [execOscMeasureEnd, inputTo_there hr, hm, hok, hagain]

theorem exec_oscMeasureEnd_fails (hok : oscPasses count = false) (hagain : s.sgr.measureAgain = true) :
    exec (.oscMeasureEnd count) s = .next (oscEnds (calFails s false) false) := by
  calc exec (.oscMeasureEnd count) s
      = execOscMeasureEnd count s := rfl
    _ = _ := by simp [execOscMeasureEnd, inputTo_there hr, hm, hok, hagain]

end

/-- Settles O8: a sample by its height, a task by what lets it start, and a calibration by its check and its repeat. -/
theorem calibrationAndTasks : Obligations.CalibrationAndTasks := by
  refine ⟨?tooHot, ?governed, ?quiet, ?preempt, ?block, ?passes, ?repeats, ?fails⟩
  case tooHot =>
    intro s tenths hr hrun hdeep ht
    exact exec_temperatureSample_tooHot hr hrun hdeep ht
  case governed =>
    intro s tenths hr hrun hdeep ht
    exact exec_temperatureSample_governed hr hrun hdeep ht
  case quiet =>
    intro s t leakGnd leakVlf hr ht
    exact exec_quietSlotTask hr ht
  case preempt =>
    intro s t rest leakGnd leakVlf hr ht hmay
    exact exec_taskDeadlinePreempt hr ht hmay
  case block =>
    intro s t failed hr ht hk
    exact exec_calBlockEnd hr ht (.inl hk)
  case passes =>
    intro s count hr hm hok
    exact exec_oscMeasureEnd_passes hr hm hok
  case repeats =>
    intro s count hr hm hok hagain
    exact exec_oscMeasureEnd_repeats hr hm hok hagain
  case fails =>
    intro s count hr hm hok hagain
    exact exec_oscMeasureEnd_fails hr hm hok hagain

end Sys2Proof.Machine
end

section
/-! PROOFS. The coexistence grant (05_radios.md R124, R126, R127): withdrawn during a UWB round, given to a packet that
waits for it, and waited for in vain. -/
namespace Sys2Proof.Machine

/-- The device once the grant pin stands at this level. -/
def grantPinAt (s : State) (level : Bool) : State := { s with rad := { s.rad with grantPin := level } }

theorem exec_coexGrantChange_withdrawn {s : State} {level : Bool} (hg : grantSeen (grantPinAt s level) = false)
    (hround : s.uwb.round.isSome = true) :
    exec (.coexGrantChange level) s = .next (roundFails ((grantPinAt s level).raise Reg.uwbFaultGrantLost)) := by
  have hopen : (grantPinAt s level).uwb.round.isSome = true := hround
  calc exec (.coexGrantChange level) s
      = execCoexGrantChange level s := rfl
    _ = _ := by
      rw [grantPinAt] at hg hopen ⊢
      simp only [execCoexGrantChange, hg, hopen, Bool.false_eq_true, if_false, if_true]

section
variable {s : State} {tag back : Nat} {data : Bytes}
variable (hw : s.sgr.work = .txPacket tag data back) (hwait : s.sgr.grantWait = true)
include hw hwait

theorem exec_coexGrantChange_packet {level : Bool} (hg : grantSeen (grantPinAt s level) = true) :
    exec (.coexGrantChange level) s = .next ((fun p : State × Bool => if p.2 then p.1 else sgrNextJob p.1)
      (sgrPacketGoes (grantPinAt s level) tag data)) := by
  calc exec (.coexGrantChange level) s
      = execCoexGrantChange level s := rfl
    _ = _ := by
      rw [grantPinAt] at hg ⊢
      simp only [execCoexGrantChange, hg, hw, hwait, if_true]

theorem exec_coexWaitExpiry (hr : rolesThere s .coexWaitExpiry = true) :
    exec .coexWaitExpiry s = .next (sgrNextJob (complete (sgrFree s) 5 tag 0x34 0)) := by
  calc exec .coexWaitExpiry s
      = execCoexWaitExpiry s := rfl
    _ = _ := by simp only [execCoexWaitExpiry, inputTo_there hr, hw, hwait, if_true]

end

/-- Settles O9: a change of the grant by what it finds, a round or a packet that waits, and the end of that wait. -/
theorem coexistenceGrant : Obligations.CoexistenceGrant := by
  refine ⟨?withdrawn, ?packet, ?expiry⟩
  case withdrawn =>
    intro s hg hround
    exact exec_coexGrantChange_withdrawn hg hround
  case packet =>
    intro s tag back data hg hw hwait
    exact exec_coexGrantChange_packet hw hwait hg
  case expiry =>
    intro s tag back data hr hw hwait
    exact exec_coexWaitExpiry hw hwait hr

end Sys2Proof.Machine
end

section
/-! PROOFS. What a completion leaves of the clamp report (00_scope.md R5; 12_host_interface.md R317-R321): it writes the
queues, the links and the pending vectors of the host interface, and nothing of the report. -/
namespace Sys2Proof.Machine

@[simp] theorem proxyTransmit_hif (s : State) (pos cls : Nat) (f : ProxyFrame) :
    (proxyTransmit s pos cls f).hif = s.hif :=
  (proxyTransmit_within s pos cls f (Within.refl _ s) fun _ => id).untouched.host (by decide)

@[simp] theorem proxySend_clampLog (s : State) (pos ring kind : Nat) (body : Bytes) :
    (proxySend s pos ring kind body).hif.clampLog = s.hif.clampLog := by
  unfold proxySend
  dsimp only
  split
  · rw [proxyTransmit_hif, State.setLink]
  · rw [State.setLink]

/-- Sent piece by piece to the head, every proxy frame leaves the report. -/
@[simp] theorem dma_clampLog (s : State) (ring addr : Nat) (data : Bytes) :
    (dma s ring addr data).hif.clampLog = s.hif.clampLog := by
  unfold dma
  split
  · rfl
  · split
    · split <;> rfl
    · exact List.foldlRecOn (motive := fun acc : State × Nat => acc.1.hif.clampLog = s.hif.clampLog) _ _ rfl
        fun acc h piece _ => (proxySend_clampLog acc.1 0 ring 0x04 _).trans h

@[simp] theorem signalHead_clampLog (s : State) (v : Nat) : (signalHead s v).hif.clampLog = s.hif.clampLog := by
  unfold signalHead
  dsimp only
  split <;> rfl

@[simp] theorem signal_clampLog (s : State) (ring v : Nat) : (signal s ring v).hif.clampLog = s.hif.clampLog := by
  unfold signal
  split
  · split
    · rfl
    · exact signalHead_clampLog s v
  · exact proxySend_clampLog s 0 ring 0x05 _

@[simp] theorem writeCompletion_clampLog (s : State) (n tag status result : Nat) (noInt : Bool) :
    (writeCompletion s n tag status result noInt).hif.clampLog = s.hif.clampLog := by
  unfold writeCompletion
  dsimp only
  split
  · rfl
  · split
    · split <;> simp
    · simp

@[simp] theorem complete_clampLog (s : State) (n tag status result : Nat) :
    (complete s n tag status result).hif.clampLog = s.hif.clampLog := by
  unfold complete
  split
  · rfl
  · dsimp only
    split <;> simp

end Sys2Proof.Machine
end

section
/-! PROOFS. Ring 5 (05_radios.md R129, R130, R136-R139): the jobs that wait for a gap between cycles and their ends,
CALIBRATE, and the regulatory record, which is checked as a whole and written as it is. -/
namespace Sys2Proof.Machine

/-! ### Jobs (R136) -/

section
variable {s : State} {tag : Nat} {d : Desc}

theorem exec_txPacket {data : Bytes} (hr : rolesThere s (.txPacket tag data) = true) (hwait : Waiting s 5 0x01 tag d)
    (hlo : 1 ≤ d.len) (hhi : d.len ≤ 255) (hlen : data.length = d.len) (hp0 : d.p0 < 4) :
    exec (.txPacket tag data) s =
      .next (queueJob s tag (.txPacket tag data (returnState s d.p0 Reg.sgrCtrlTxoff))) := by
  calc exec (.txPacket tag data) s
      = execTxPacket tag data s := rfl
    _ = _ := by rw [execTxPacket, inputTo_there hr, ringCmdIf_legal hwait _ (by simp [hlo, hhi, hlen, hp0])]

theorem exec_rxPacket (hr : rolesThere s (.rxPacket tag) = true) (hwait : Waiting s 5 0x02 tag d) (hlo : 1 ≤ d.len)
    (hhi : d.len ≤ 255) (hp0lo : 100 ≤ d.p0) (hp0hi : d.p0 ≤ 10000000) (hp1 : d.p1 < 4) :
    exec (.rxPacket tag) s =
      .next (queueJob s tag (.rxPacket tag d.len (returnState s d.p1 Reg.sgrCtrlRxoff))) := by
  calc exec (.rxPacket tag) s
      = execRxPacket tag s := rfl
    _ = _ := by rw [execRxPacket, inputTo_there hr, ringCmdIf_legal hwait _ (by simp [hlo, hhi, hp0lo, hp0hi, hp1])]

theorem exec_rssi (hr : rolesThere s (.rssi tag) = true) (hwait : Waiting s 5 0x06 tag d) (hlo : 100 ≤ d.p0)
    (hhi : d.p0 ≤ 10000) : exec (.rssi tag) s = .next (queueJob s tag (.rssi tag)) := by
  calc exec (.rssi tag) s
      = execRssi tag s := rfl
    _ = _ := by rw [execRssi, inputTo_there hr, ringCmdIf_legal hwait _ (by simp [hlo, hhi])]

end

/-! ### The ends of jobs (R137) -/

section
variable {s : State} {tag len back : Nat}

theorem exec_sgrPacketReceived {rssi : Int} {frame : Bytes} {o : Outst}
    (hr : rolesThere s (.sgrPacketReceived rssi frame) = true) (hw : s.sgr.work = .rxPacket tag len back)
    (hp : s.sgr.phase = .rx) (ho : findOut s 5 tag = some o) :
    exec (.sgrPacketReceived rssi frame) s = .next ((fun (u : State) (p : Bytes × Bool) =>
      jobEnds (cmdDma u 5 o.desc.tag o.desc.addr p.1) tag (if p.2 then stOk else 0x33)
        (p.1.length + 65536 * unsignedOf 8 rssi) back) (noteRssi s rssi) (packetData (noteRssi s rssi) len frame)) := by
  have hheard : findOut (noteRssi s rssi) 5 tag = some o := ho
  calc exec (.sgrPacketReceived rssi frame) s
      = execSgrPacketReceived rssi frame s := rfl
    _ = _ := by simp [execSgrPacketReceived, inputTo_there hr, hw, hp, hheard]

theorem exec_sgrRxTimeout (hr : rolesThere s .sgrRxTimeout = true) (hw : s.sgr.work = .rxPacket tag len back) :
    exec .sgrRxTimeout s = .next (jobEnds s tag 0x32 0 back) := by
  calc exec .sgrRxTimeout s
      = execSgrRxTimeout s := rfl
    _ = _ := by rw [execSgrRxTimeout, inputTo_there hr, hw]

theorem exec_rssiMeasureEnd {mean : Int} (hr : rolesThere s (.rssiMeasureEnd mean) = true)
    (hw : s.sgr.work = .rssi tag) :
    exec (.rssiMeasureEnd mean) s =
      .next (jobEnds s tag stOk (unsignedOf 8 mean) (s.eff Reg.sgrCtrlRxoff)) := by
  calc exec (.rssiMeasureEnd mean) s
      = execRssiMeasureEnd mean s := rfl
    _ = _ := by rw [execRssiMeasureEnd, inputTo_there hr, hw]

end

/-! ### Calibrations, and the record in force (R129, R136) -/

section
variable {s : State} {tag : Nat} {d : Desc}

theorem exec_calibrate (hr : rolesThere s (.calibrate tag) = true) (hwait : Waiting s 5 0x03 tag d)
    (hmask : d.p0 < 128) (hsome : d.p0 ≠ 0) :
    exec (.calibrate tag) s = .next ((fun u : State => requestCals
      { u with sgr := { u.sgr with calCmds := u.sgr.calCmds ++ [(tag, d.p0, 0)] } } false d.p0)
        (markTaken s 5 tag false)) := by
  calc exec (.calibrate tag) s
      = execCalibrate tag s := rfl
    _ = _ := by rw [execCalibrate, inputTo_there hr, ringCmdIf_legal hwait _ (decide_eq_true hmask), if_neg hsome]

variable (hr : rolesThere s (.regrecRead tag) = true) (hwait : Waiting s 5 0x04 tag d) (hlen : d.len = 72)
include hr hwait hlen

theorem exec_regrecRead_some {b : Bytes} (hb : s.rad.regRec = some b) :
    exec (.regrecRead tag) s = .next (completeData s 5 d b 1) := by
  calc exec (.regrecRead tag) s
      = execRegrecRead tag s := rfl
    _ = _ := by rw [execRegrecRead, inputTo_there hr, ringCmdIf_legal hwait _ (decide_eq_true hlen), hb]

theorem exec_regrecRead_none (hb : s.rad.regRec = none) :
    exec (.regrecRead tag) s = .next (completeData s 5 d (zeroBytes 72) 0) := by
  calc exec (.regrecRead tag) s
      = execRegrecRead tag s := rfl
    _ = _ := by rw [execRegrecRead, inputTo_there hr, ringCmdIf_legal hwait _ (decide_eq_true hlen), hb]

end

/-! ### A new record (R129, R130) -/

/-- With no write protection and nothing before it at the store, a change is made at once. -/
theorem changeCmd_free {n : Nat} {d : Desc} {p : Bool} {f : State → State} {s : State} (hw : s.nvwp = false)
    (hb : nvBusy s n = false) : changeCmd n d p f s = f s := by
  simp [changeCmd, hw, hb]

/-- The record requested of the store: its 72 bytes as they came, as a critical pair. -/
def regRecRequested (s : State) (tag : Nat) (data : Bytes) : State :=
  nvRequest (markTaken s 5 tag false) (critPair 0x0010 false (.regRec data)) (.regRec tag data)

section
variable {s : State} {tag : Nat} {data : Bytes} {d : Desc}
variable (hr : rolesThere s (.regrecWrite tag data) = true) (hwait : Waiting s 5 0x05 tag d) (hlen : d.len = 72)
  (hdata : data.length = 72)
include hr hwait hlen hdata

/-- A write of 72 bytes is decided by R130 first, then by NVWP and the store, and last by the record's own values. -/
theorem exec_regrecWrite_form :
    exec (.regrecWrite tag data) s = .next (if !regrecAccepted s then refuseSilent s 5 d 0
      else changeCmd 5 d true (fun u =>
        if regRecLegal data then regRecRequested u tag data else complete u 5 tag 0x35 0) s) := by
  calc exec (.regrecWrite tag data) s
      = execRegrecWrite tag data s := rfl
    _ = _ := by
      rw [execRegrecWrite, inputTo_there hr, ringCmdIf_legal hwait _ (by simp [hlen, hdata])]
      rfl

theorem exec_regrecWrite_refused (hacc : regrecAccepted s = false) :
    exec (.regrecWrite tag data) s = .next (refuseSilent s 5 d 0) := by
  rw [exec_regrecWrite_form hr hwait hlen hdata, hacc]
  rfl

variable (hacc : regrecAccepted s = true)
include hacc

theorem exec_regrecWrite_legal (hok : regRecLegal data = true) :
    exec (.regrecWrite tag data) s = .next (changeCmd 5 d true (fun u => regRecRequested u tag data) s) := by
  rw [exec_regrecWrite_form hr hwait hlen hdata, hacc, hok]
  rfl

theorem exec_regrecWrite_illegal (hok : regRecLegal data = false) :
    exec (.regrecWrite tag data) s = .next (changeCmd 5 d true (fun u => complete u 5 tag 0x35 0) s) := by
  rw [exec_regrecWrite_form hr hwait hlen hdata, hacc, hok]
  rfl

end

/-- Settles O10: each command runs on the descriptor that waits for it, and each event ends the job in hand. -/
theorem radioRing : Obligations.RadioRing := by
  refine ⟨?tx, ?rx, ?rssi, ?received, ?timeout, ?rssiEnd, ?calibrate, ?read, ?readNone, ?refused, ?requested⟩
  case tx =>
    intro s tag d data hr hwait hlo hhi hlen hp0
    exact exec_txPacket hr hwait hlo hhi hlen hp0
  case rx =>
    intro s tag d hr hwait hlo hhi hp0lo hp0hi hp1
    exact exec_rxPacket hr hwait hlo hhi hp0lo hp0hi hp1
  case rssi =>
    intro s tag d hr hwait hlo hhi
    exact exec_rssi hr hwait hlo hhi
  case received =>
    intro s tag len back rssi frame o hr hw hp ho
    exact exec_sgrPacketReceived hr hw hp ho
  case timeout =>
    intro s tag len back hr hw
    exact exec_sgrRxTimeout hr hw
  case rssiEnd =>
    intro s tag mean hr hw
    exact exec_rssiMeasureEnd hr hw
  case calibrate =>
    intro s tag d hr hwait hmask hsome
    exact exec_calibrate hr hwait hmask hsome
  case read =>
    intro s tag d b hr hwait hlen hb
    exact exec_regrecRead_some hr hwait hlen hb
  case readNone =>
    intro s tag d hr hwait hlen hb
    exact exec_regrecRead_none hr hwait hlen hb
  case refused =>
    intro s tag d data hr hwait hlen hdata hacc
    exact exec_regrecWrite_refused hr hwait hlen hdata hacc
  case requested =>
    intro s tag d data hr hwait hlen hdata hacc hok
    exact exec_regrecWrite_legal hr hwait hlen hdata hacc hok

/-- Settles O58: an illegal record only completes its command, and a completion writes neither store, record, field nor
    clamp report; a legal one is requested as it is. -/
theorem regulatoryRecordChecked : Obligations.RegulatoryRecordChecked := by
  refine ⟨?illegal, ?legal⟩
  case illegal =>
    intro s tag data d hr hwait hlen hdata hacc hw hb hok
    have hstays : Untouched ringPath s (complete s 5 tag 0x35 0) :=
      (complete_within s 5 tag 0x35 0 (Within.refl _ s) fun _ => id).untouched
    refine ⟨complete s 5 tag 0x35 0, ?_, rfl, hstays.store (by decide), hstays.radio (by decide),
      hstays.held (by decide), complete_clampLog s 5 tag 0x35 0⟩
    rw [exec_regrecWrite_illegal hr hwait hlen hdata hacc hok, changeCmd_free hw hb]
  case legal =>
    intro s tag data d hr hwait hlen hdata hacc hw hb hok
    rw [exec_regrecWrite_legal hr hwait hlen hdata hacc hok, changeCmd_free hw hb, regRecRequested]

end Sys2Proof.Machine
end

section
/-! PROOFS. Fusion and ring 3 (06_proximity.md R158-R160, R163; 02_release_cycle.md R39-R41, R46): what the fusion of a
FUSING context leads to, the posted report buffer, and the zones that hold a point. -/
namespace Sys2Proof.Machine

/-! ### Fusion (06 R158-R160) -/

section
variable {s : State} {n : Nat} {c : Ctx}
variable (hr : rolesThere s (.fusionComplete n) = true) (hc : s.ctx n = some c) (hp : c.phase = .fusing)
include hr hc hp

theorem exec_fusionComplete_implausible {detail : Nat} (hf : fuse s c = .implausible detail) :
    exec (.fusionComplete n) s = .next (endCtx s n ocImplausible detail) := by
  calc exec (.fusionComplete n) s
      = execFusionComplete n s := rfl
    _ = _ := by simp [execFusionComplete, inputTo_there hr, hc, hp, hf]

theorem exec_fusionComplete_plausible {point : List Int} {range az el : Int} {bandA bandB : Option (Int × Option Int)}
    (hf : fuse s c = .plausible point range az el bandA bandB) :
    exec (.fusionComplete n) s = .next (releaseDecision s n c point range az el bandA bandB) := by
  calc exec (.fusionComplete n) s
      = execFusionComplete n s := rfl
    _ = _ := by simp [execFusionComplete, inputTo_there hr, hc, hp, hf]

end

/-! ### Ring 3 (06 R163; 02 R46) -/

section
variable {s : State} {tag : Nat} {d : Desc}

theorem exec_prxReportBuffer (hr : rolesThere s (.prxReportBuffer tag) = true) (hwait : Waiting s 3 0x01 tag d)
    (hlen : 64 ≤ d.len) : exec (.prxReportBuffer tag) s = .next (markTaken s 3 tag false) := by
  calc exec (.prxReportBuffer tag) s
      = execPrxReportBuffer tag s := rfl
    _ = _ := by rw [execPrxReportBuffer, inputTo_there hr, postBuffer_longEnough hwait hlen]

theorem exec_testPoint (hr : rolesThere s (.testPoint tag) = true) (hwait : Waiting s 3 0x02 tag d)
    (hform : d.p0 < 2 ^ 48) :
    exec (.testPoint tag) s = .next (complete s 3 tag stOk
      ((zonesAt s [signed 16 d.p0, signed 16 (d.p0 / 2 ^ 16), signed 16 (d.p0 / 2 ^ 32)]).foldl setBit 0)) := by
  calc exec (.testPoint tag) s
      = execTestPoint tag s := rfl
    _ = _ := by rw [execTestPoint, inputTo_there hr, ringCmdIf_legal hwait _ (decide_eq_true hform)]

end

/-- Settles O5: a FUSING context by what fusion finds, and each command on the descriptor that waits for it. -/
theorem fusionAndZones : Obligations.FusionAndZones := by
  refine ⟨?implausible, ?plausible, ?buffer, ?testPoint⟩
  case implausible =>
    intro s n detail c hr hc hp hf
    exact exec_fusionComplete_implausible hr hc hp hf
  case plausible =>
    intro s n c point range az el bandA bandB hr hc hp hf
    exact exec_fusionComplete_plausible hr hc hp hf
  case buffer =>
    intro s tag d hr hwait hlen
    exact exec_prxReportBuffer hr hwait hlen
  case testPoint =>
    intro s tag d hr hwait hform
    exact exec_testPoint hr hwait hform

end Sys2Proof.Machine
end

section
/-! PROOFS. What every step keeps (07_cipher_and_keys.md R182, R195; 14_live_update.md R379, R390, R392): each command stays
within its row of the frame table, or is held for a role that is vacant (15 R408), and a step is a command, a held input
or a tick. -/
namespace Sys2Proof.Machine

/-! ### Commands whose roles are there -/

/-- A command that reaches its roles keeps what every command keeps and writes only the parts of its row of `touches`. -/
theorem exec_within {s : State} {c : Instr} (hr : rolesThere s c = true) : AnsWithin (touches c) s (exec c s) := by
  have hs {M : List Part} : Within M s s := Within.refl M s
  have hm (M : List Part) : Sub M M := fun _ => id
  cases c with
  | registerWrite => exact execRegisterWrite_within _ _ _ hs (hm _)
  | profileWrite => exact execProfileWrite_within _ _ hs (hm _)
  | pollCycleBoundary => exact execPollCycleBoundary_within _ hs (hm _)
  | wakePatternStart => exact execWakePatternStart_within _ _ hs (hm _) hr
  | dutyTick => exact execDutyTick_within _ hs (hm _) hr
  | vlfLowRetest => exact execVlfLowRetest_within _ _ hs (hm _) hr
  | vlfCollapse => exact execVlfCollapse_within _ _ hs (hm _) hr
  | bridgeOvercurrent => exact execBridgeOvercurrent_within _ _ _ hs (hm _) hr
  | wakePatternEnd => exact execWakePatternEnd_within _ _ _ _ _ hs (hm _) hr
  | lfStartWaitEnd => exact execLfStartWaitEnd_within _ hs (hm _) hr
  | lfDiagPeriod => exact execLfDiagPeriod_within _ hs (hm _) hr
  | diagNow => exact execDiagNow_within _ hs (hm _)
  | lfRearm => exact execLfRearm_within _ _ hs (hm _)
  | lfDiagBurstEnd => exact execLfDiagBurstEnd_within _ _ _ _ _ hs (hm _) hr
  | announceWindowOpen => exact execAnnounceWindowOpen_within _ hs (hm _) hr
  | slotEmptyClose => exact execSlotEmptyClose_within _ hs (hm _) hr
  | slotGuardEnd => exact execSlotGuardEnd_within _ hs (hm _) hr
  | announceFrame => exact execAnnounceFrame_within _ _ _ hs (hm _) hr
  | challengeTurn => exact execChallengeTurn_within _ _ _ hs (hm _) hr
  | responseFrame => exact execResponseFrame_within _ _ _ _ _ hs (hm _) hr
  | responseTimeout => exact execResponseTimeout_within _ hs (hm _) hr
  | uwbRoundStart => exact execUwbRoundStart_within _ _ _ _ hs (hm _) hr
  | rangeGrantTimeout => exact execRangeGrantTimeout_within _ _ hs (hm _) hr
  | uwbResponseFrame => exact execUwbResponseFrame_within _ _ _ _ hs (hm _) hr
  | uwbFinalTx => exact execUwbFinalTx_within _ _ hs (hm _) hr
  | uwbReportFrame => exact execUwbReportFrame_within _ _ hs (hm _) hr
  | uwbRxWindowEnd => exact execUwbRxWindowEnd_within _ hs (hm _) hr
  | uwbLockLoss => exact execUwbLockLoss_within _ hs (hm _) hr
  | uwbTxWaitExpiry => exact execUwbTxWaitExpiry_within _ hs (hm _) hr
  | boundingRunComplete => exact execBoundingRunComplete_within _ _ hs (hm _) hr
  | fusionComplete => exact execFusionComplete_within _ _ hs (hm _) hr
  | grantAnswerTimeout => exact execGrantAnswerTimeout_within _ _ _ hs (hm _) hr
  | releaseLatchTaken => exact execReleaseLatchTaken_within _ _ hs (hm _)
  | coilPollStart => exact execCoilPollStart_within _ _ hs (hm _) hr
  | coilSettleEnd => exact execCoilSettleEnd_within _ _ _ _ hs (hm _) hr
  | coilOvercurrent => exact execCoilOvercurrent_within _ hs (hm _) hr
  | coilVlfCollapse => exact execCoilVlfCollapse_within _ hs (hm _) hr
  | walkReply => exact execWalkReply_within _ _ _ hs (hm _) hr
  | selectedReply => exact execSelectedReply_within _ _ _ _ hs (hm _) hr
  | nonceReply => exact execNonceReply_within _ _ _ _ hs (hm _) hr
  | authReply => exact execAuthReply_within _ _ _ _ hs (hm _) hr
  | passwordReply => exact execPasswordReply_within _ _ _ _ hs (hm _) hr
  | securedReply => exact execSecuredReply_within _ _ _ _ hs (hm _) hr
  | tpxReplyMissing => exact execTpxReplyMissing_within _ _ _ hs (hm _) hr
  | tpxRearm => exact execTpxRearm_within _ hs (hm _)
  | tpxReportBuffer => exact execTpxReportBuffer_within _ _ hs (hm _) hr
  | pollNow => exact execPollNow_within _ _ hs (hm _) hr
  | inventory => exact execInventory_within _ _ hs (hm _) hr
  | readBlock => exact execReadBlock_within _ _ hs (hm _) hr
  | writeBlock => exact execWriteBlock_within _ _ _ hs (hm _) hr
  | sgrSynthLock => exact execSgrSynthLock_within _ hs (hm _) hr
  | sgrLockLoss => exact execSgrLockLoss_within _ hs (hm _) hr
  | sgrTxWaitExpiry => exact execSgrTxWaitExpiry_within _ hs (hm _) hr
  | sgrTxEnd => exact execSgrTxEnd_within _ hs (hm _) hr
  | temperatureSample => exact execTemperatureSample_within _ _ hs (hm _) hr
  | calBlockEnd => exact execCalBlockEnd_within _ _ hs (hm _) hr
  | oscMeasureEnd => exact execOscMeasureEnd_within _ _ hs (hm _) hr
  | coexGrantChange => exact execCoexGrantChange_within _ _ hs (hm _)
  | txPacket => exact execTxPacket_within _ _ _ hs (hm _) hr
  | rxPacket => exact execRxPacket_within _ _ hs (hm _) hr
  | calibrate => exact execCalibrate_within _ _ hs (hm _) hr
  | regrecRead => exact execRegrecRead_within _ _ hs (hm _) hr
  | regrecWrite => exact execRegrecWrite_within _ _ _ hs (hm _) hr
  | rssi => exact execRssi_within _ _ hs (hm _) hr
  | prxReportBuffer => exact execPrxReportBuffer_within _ _ hs (hm _) hr
  | testPoint => exact execTestPoint_within _ _ hs (hm _) hr
  | encrypt => exact execEncrypt_within _ _ _ hs (hm _) hr
  | decrypt => exact execDecrypt_within _ _ _ _ hs (hm _) hr
  | mac => exact execMac_within _ _ _ hs (hm _) hr
  | nonce => exact execNonce_within _ _ hs (hm _) hr
  | counter => exact execCounter_within _ _ hs (hm _) hr
  | privetRemask => exact execPrivetRemask_within _ hs (hm _)
  | drbgReseed => exact execDrbgReseed_within _ _ hs (hm _)
  | entropyWindowEnd => exact execEntropyWindowEnd_within _ _ _ hs (hm _)
  | trngStartupTestEnd => exact execTrngStartupTestEnd_within _ _ hs (hm _)
  | loadClear => exact execLoadClear_within _ _ _ hs (hm _)
  | loadWrapped => exact execLoadWrapped_within _ _ _ hs (hm _)
  | derive => exact execDerive_within _ _ _ hs (hm _)
  | erase => exact execErase_within _ _ hs (hm _)
  | narrow => exact execNarrow_within _ _ hs (hm _)
  | attest => exact execAttest_within _ _ hs (hm _)
  | lcNonce => exact execLcNonce_within _ _ hs (hm _)
  | lcNonceExpiry => exact execLcNonceExpiry_within _ hs (hm _)
  | lcAdvance => exact execLcAdvance_within _ _ _ hs (hm _)
  | enroll => exact execEnroll_within _ _ _ hs (hm _)
  | revoke => exact execRevoke_within _ _ hs (hm _)
  | readSlot => exact execReadSlot_within _ _ hs (hm _)
  | find => exact execFind_within _ _ hs (hm _)
  | learnBegin => exact execLearnBegin_within _ _ hs (hm _)
  | learnEntries => exact execLearnEntries_within _ _ _ hs (hm _)
  | learnCommit => exact execLearnCommit_within _ _ _ hs (hm _)
  | learnCancel => exact execLearnCancel_within _ _ hs (hm _)
  | unlock => exact execUnlock_within _ _ hs (hm _)
  | digest => exact execDigest_within _ _ hs (hm _)
  | learnedSetEffective => exact execLearnedSetEffective_within _ hs (hm _)
  | lockoutEnd => exact execLockoutEnd_within _ _ hs (hm _) hr
  | unknownLockoutEnd => exact execUnknownLockoutEnd_within _ hs (hm _) hr
  | lockoutCheckpoint => exact execLockoutCheckpoint_within _ hs (hm _) hr
  | sessionTimeout => exact execSessionTimeout_within _ _ hs (hm _)
  | auxAdcFrame => exact execAuxAdcFrame_within _ _ _ _ hs (hm _)
  | readbackTimeout => exact execReadbackTimeout_within _ _ hs (hm _)
  | holdSample => exact execHoldSample_within _ hs (hm _) hr
  | holdMaxtimeExpiry => exact execHoldMaxtimeExpiry_within _ _ hs (hm _)
  | queueWaitExpiry => exact execQueueWaitExpiry_within _ _ hs (hm _)
  | faultGraceExpiry => exact execFaultGraceExpiry_within _ hs (hm _)
  | sessionCeilingCommit => exact execSessionCeilingCommit_within _ _ _ hs (hm _) hr
  | releaseGrant => exact execReleaseGrant_within _ _ _ _ _ hs (hm _) hr
  | grantAnswer => exact execGrantAnswer_within _ _ _ _ _ hs (hm _) hr
  | sessionEnd => exact execSessionEnd_within _ _ _ _ _ hs (hm _) hr
  | eventBuffer => exact execEventBuffer_within _ _ hs (hm _)
  | list => exact execList_within _ _ hs (hm _)
  | endSession => exact execEndSession_within _ _ hs (hm _)
  | endGroup => exact execEndGroup_within _ _ hs (hm _)
  | setDeadline => exact execSetDeadline_within _ _ hs (hm _)
  | endRemote => exact execEndRemote_within _ _ hs (hm _) hr
  | groupDisable => exact execGroupDisable_within _ _ hs (hm _)
  | decimatorResult => exact execDecimatorResult_within _ _ _ hs (hm _) hr
  | channelUsableReturn => exact execChannelUsableReturn_within _ _ hs (hm _) hr
  | xchkWindowEnd => exact execXchkWindowEnd_within _ hs (hm _) hr
  | meterCheckpoint => exact execMeterCheckpoint_within _ hs (hm _) hr
  | meterSettingsApply => exact execMeterSettingsApply_within _ hs (hm _) hr
  | receiptFormed => exact execReceiptFormed_within _ hs (hm _) hr
  | receiptCommitted => exact execReceiptCommitted_within _ _ _ hs (hm _) hr
  | receiptKeyUsable => exact execReceiptKeyUsable_within _ hs (hm _) hr
  | receiptBuffer => exact execReceiptBuffer_within _ _ hs (hm _) hr
  | ack => exact execAck_within _ _ hs (hm _) hr
  | readReceipt => exact execReadReceipt_within _ _ hs (hm _) hr
  | counters => exact execCounters_within _ _ hs (hm _) hr
  | rollNonce => exact execRollNonce_within _ _ hs (hm _) hr
  | rollNonceExpiry => exact execRollNonceExpiry_within _ hs (hm _) hr
  | rollover => exact execRollover_within _ _ _ hs (hm _) hr
  | counterLoRead => exact execCounterLoRead_within _ _ hs (hm _)
  | linkLoss => exact execLinkLoss_within _ _ _ hs (hm _)
  | hello => exact execHello_within _ _ _ hs (hm _) hr
  | helloTimeout => exact execHelloTimeout_within _ _ hs (hm _) hr
  | joinReqRetry => exact execJoinReqRetry_within _ hs (hm _) hr
  | joinReq => exact execJoinReq_within _ _ _ hs (Sub.of rfl (hm _)) hr
  | joinAnswer => exact execJoinAnswer_within _ _ _ hs (Sub.of rfl (hm _)) hr
  | addrFullRetry => exact execAddrFullRetry_within _ hs (hm _) hr
  | leave => exact execLeave_within _ _ _ hs (hm _) hr
  | positionLeaveTimeout => exact execPositionLeaveTimeout_within _ _ hs (hm _) hr
  | timeSyncSend => exact execTimeSyncSend_within _ hs (hm _) hr
  | timeSync => exact execTimeSync_within _ _ _ _ hs (hm _) hr
  | timeSyncLoss => exact execTimeSyncLoss_within _ hs (hm _) hr
  | frameReceived => exact execFrameReceived_within _ _ _ _ hs (hm _)
  | frameSent => exact execFrameSent_within _ _ _ hs (hm _)
  | spillReadback => exact execSpillReadback_within _ _ _ _ hs (hm _)
  | portEvent => exact execPortEvent_within _ _ _ hs (hm _) hr
  | prepare => exact execPrepare_within _ _ _ hs (hm _) hr
  | ready => exact execReady_within _ _ _ hs (hm _) hr
  | flip => exact execFlip_within _ _ _ hs (hm _) hr
  | retired => exact execRetired_within _ _ _ hs (hm _) hr
  | cancel => exact execCancel_within _ _ _ hs (hm _) hr
  | readyTimeout => exact execReadyTimeout_within _ hs (hm _) hr
  | retireTimeout => exact execRetireTimeout_within _ hs (hm _) hr
  | updateRepeat => exact execUpdateRepeat_within _ hs (hm _) hr
  | holdTimeExpiry => exact execHoldTimeExpiry_within _ _ hs (hm _)
  | asleepHoldExpiry => exact execAsleepHoldExpiry_within _ _ hs (hm _)
  | wakeSequence => exact execWakeSequence_within _ _ hs (hm _)
  | segAdvertSend => exact execSegAdvertSend_within _ hs (hm _) hr
  | segAdvert => exact execSegAdvert_within _ _ _ hs (hm _) hr
  | rejoin => exact execRejoin_within _ hs (hm _)
  | fabTimeLoRead => exact execFabTimeLoRead_within _ hs (hm _)
  | uwbTimeLoRead => exact execUwbTimeLoRead_within _ hs (hm _)
  | send => exact execSend_within _ _ _ hs (hm _) hr
  | recvBuffer => exact execRecvBuffer_within _ _ hs (hm _) hr
  | peerMessage => exact execPeerMessage_within _ _ _ _ _ _ _ hs (hm _) hr
  | pcieReset => exact execPcieReset_within _ hs (hm _)
  | sqTail => exact execSqTail_within _ _ _ _ _ hs (hm _) hr
  | cqHead => exact execCqHead_within _ _ _ _ _ hs (hm _) hr
  | descriptorFetch => exact execDescriptorFetch_within _ _ _ _ hs (hm _) hr
  | nop => exact execNop_within _ _ _ hs (hm _) hr
  | abort => exact execAbort_within _ _ _ hs (hm _) hr
  | pcieDmaError => exact execPcieDmaError_within _ _ _ _ hs (hm _)
  | interruptCoalesceExpiry => exact execInterruptCoalesceExpiry_within _ _ hs (hm _) hr
  | ringEnable => exact execRingEnable_within _ _ hs (hm _)
  | ringDisable => exact execRingDisable_within _ _ hs (hm _)
  | ringDrained => exact execRingDrained_within _ _ hs (hm _)
  | bar4Access => exact execBar4Access_within _ _ _ _ _ hs (hm _) hr
  | doorbell => exact execDoorbell_within _ _ _ _ _ _ hs (hm _) hr
  | readReq => exact execReadReq_within _ _ _ _ _ _ _ _ _ _ hs (Sub.of rfl (hm _)) hr
  | readData => exact execReadData_within _ _ _ _ _ _ _ hs (hm _) hr
  | proxyWrite => exact execProxyWrite_within _ _ _ _ _ _ _ _ hs (Sub.of rfl (hm _)) hr
  | interrupt => exact execInterrupt_within _ _ _ _ _ _ hs (Sub.of rfl (hm _)) hr
  | regWrite => exact execRegWrite_within _ _ _ _ _ hs (hm _) hr
  | regRead => exact execRegRead_within _ _ _ _ _ hs (Sub.of rfl (hm _)) hr
  | regData => exact execRegData_within _ _ _ _ _ _ hs (Sub.of rfl (hm _)) hr
  | proxyAck => exact execProxyAck_within _ _ _ _ hs (Sub.of rfl (hm _)) hr
  | proxyRtoExpiry => exact execProxyRtoExpiry_within _ _ _ hs (Sub.of rfl (hm _)) hr
  | regwaitExpiry => exact execRegwaitExpiry_within _ _ hs (hm _) hr
  | configApply => exact execConfigApply_within _ _ _ hs (hm _)
  | configExport => exact execConfigExport_within _ _ hs (hm _)
  | auditRead => exact execAuditRead_within _ _ hs (hm _)
  | configSave => exact execConfigSave_within _ _ hs (hm _)
  | auditCommit => exact execAuditCommit_within _ hs (hm _) hr
  | post => exact execPost_within _ _ _ hs (hm _)
  | mailboxRecvBuffer => exact execMailboxRecvBuffer_within _ _ hs (hm _)
  | appMessage => exact execAppMessage_within _ _ _ hs (hm _)
  | recordWriteDone => exact execRecordWriteDone_within _ _ _ hs (hm _) hr
  | sectorEraseDone => exact execSectorEraseDone_within _ _ _ _ hs (hm _) hr
  | vholdReady => exact execVholdReady_within _ _ hs (hm _)
  | mainSupplyFailure => exact execMainSupplyFailure_within _ _ _ _ _ _ _ hs (hm _)
  | scrubPeriod => exact execScrubPeriod_within _ _ _ _ _ hs (hm _) hr
  | read => exact execRead_within _ _ hs (hm _)
  | write => exact execWrite_within _ _ _ hs (hm _)
  | delete => exact execDelete_within _ _ hs (hm _)
  | hostRecordList => exact execHostRecordList_within _ _ hs (hm _)
  | wear => exact execWear_within _ _ hs (hm _)
  | scrubNow => exact execScrubNow_within _ _ _ _ _ _ hs (hm _) hr
  | begin_ => exact execBegin_within _ _ _ _ hs (hm _) hr
  | chunk => exact execChunk_within _ _ _ _ hs (hm _) hr
  | chunkDeferExpiry => exact execChunkDeferExpiry_within _ hs (hm _) hr
  | activate => exact execActivate_within _ _ _ _ hs (hm _)
  | roleHandoverSwap => exact execRoleHandoverSwap_within _ _ hs (hm _)
  | appHandoverPoint => exact execAppHandoverPoint_within _ hs (hm _)
  | appWaitExpiry => exact execAppWaitExpiry_within _ hs (hm _)
  | restart => exact execRestart_within _ _ hs (hm _)
  | exportAsset => exact execExportAsset_within _ _ hs (hm _)
  | importAsset => exact execImportAsset_within _ _ _ _ hs (hm _) hr
  | setAppkey => exact execSetAppkey_within _ _ _ hs (hm _)
  | deepAfterExpiry => exact execDeepAfterExpiry_within _ hs (hm _)
  | wakeSource => exact execWakeSource_within _ _ hs (hm _)
  | vbkLoss => exact execVbkLoss_within _ _ hs (hm _)
  | clockMonitorFlag => exact execClockMonitorFlag_within _ _ hs (hm _)
  | xtal32Recover => exact execXtal32Recover_within _ hs (hm _)
  | setRtc => exact execSetRtc_within _ _ _ hs (hm _)
  | rtcNonce => exact execRtcNonce_within _ _ hs (hm _)
  | rtcNonceExpiry => exact execRtcNonceExpiry_within _ hs (hm _)
  | selftest => exact execSelftest_within _ _ hs (hm _) hr
  | prodTx => exact execProdTx_within _ _ hs (hm _) hr
  | schedule => exact execSchedule_within _ _ hs (hm _) hr
  | monitors => exact execMonitors_within _ _ hs (hm _) hr
  | faults => exact execFaults_within _ _ hs (hm _) hr
  | supervisionEventBuffer => exact execSupervisionEventBuffer_within _ _ hs (hm _) hr
  | powerOnReset => exact execPowerOnReset_within _ _ _ _ hs (hm _)
  | nrst => exact execNrst_within _ hs (hm _)
  | brownOut => exact execBrownOut_within _ _ hs (hm _)
  | pwrRestart => exact execPwrRestart_within _ hs (hm _)
  | autoRestart => exact execAutoRestart_within _ hs (hm _)
  | watchdogReset => exact execWatchdogReset_within _ hs (hm _)
  | startSequence => exact execStartSequence_within _ _ hs (hm _)
  | engineCheckpoint => exact execEngineCheckpoint_within _ _ hs (hm _)
  | eccError => exact execEccError_within _ _ _ _ hs (hm _)
  | engineFault => exact execEngineFault_within _ _ hs (hm _)
  | spareTakeover => exact execSpareTakeover_within _ _ hs (hm _)
  | appFault => exact execAppFault_within _ hs (hm _)
  | quietSlotTask => exact execQuietSlotTask_within _ _ _ hs (hm _) hr
  | taskDeadlinePreempt => exact execTaskDeadlinePreempt_within _ _ _ hs (hm _) hr
  | spareMemoryTest => exact execSpareMemoryTest_within _ _ hs (hm _) hr
  | sgrPacketReceived => exact execSgrPacketReceived_within _ _ _ hs (hm _) hr
  | sgrRxTimeout => exact execSgrRxTimeout_within _ hs (hm _) hr
  | rssiMeasureEnd => exact execRssiMeasureEnd_within _ _ hs (hm _) hr
  | coexWaitExpiry => exact execCoexWaitExpiry_within _ hs (hm _) hr
  | prodTxPeriod => exact execProdTxPeriod_within _ hs (hm _) hr
  | receiptCommitRetry => exact execReceiptCommitRetry_within _ hs (hm _) hr
  | reseedWaitExpiry => exact execReseedWaitExpiry_within _ hs (hm _)
  | idleSequenceRun => exact execIdleSequenceRun_within _ _ hs (hm _) hr
  | helloSend => exact execHelloSend_within _ _ hs (hm _) hr
  | updateHoldoffEnd => exact execUpdateHoldoffEnd_within _ hs (hm _) hr
  | pcieLinkUp => exact execPcieLinkUp_within _ _ _ hs (hm _)
  | pcieLinkDown => exact execPcieLinkDown_within _ hs (hm _)
  | pciePowerState => exact execPciePowerState_within _ _ hs (hm _)
  | mailboxTake => exact execMailboxTake_within _ hs (hm _)
  | tapInstruction => exact execTapInstruction_within _ _ hs (hm _)
  | badAccessRead => exact execBadAccessRead_within _ _ hs (hm _)

/-! ### Commands held for a vacant role (15 R408) -/

/-- A command that is addressed to a role asks first whether that role is there. -/
theorem rolesOf_eq_nil_or_exec_eq_inputTo (c : Instr) (s : State) :
    rolesOf c = [] ∨ ∃ a, exec c s = inputTo s c a := by
  cases c with
  | registerWrite | profileWrite | pollCycleBoundary | diagNow | lfRearm | releaseLatchTaken | tpxRearm
    | coexGrantChange | privetRemask | drbgReseed | entropyWindowEnd | trngStartupTestEnd | loadClear | loadWrapped
    | derive | erase | narrow | attest | lcNonce | lcNonceExpiry | lcAdvance | enroll | revoke | readSlot | find
    | learnBegin | learnEntries | learnCommit | learnCancel | unlock | digest | learnedSetEffective | sessionTimeout
    | auxAdcFrame | readbackTimeout | holdMaxtimeExpiry | queueWaitExpiry | faultGraceExpiry | eventBuffer | list
    | endSession | endGroup | setDeadline | groupDisable | counterLoRead | linkLoss | frameReceived | frameSent
    | spillReadback | holdTimeExpiry | asleepHoldExpiry | wakeSequence | rejoin | fabTimeLoRead | uwbTimeLoRead
    | pcieReset | pcieDmaError | ringEnable | ringDisable | ringDrained | configApply | configExport | auditRead
    | configSave | post | mailboxRecvBuffer | appMessage | vholdReady | mainSupplyFailure | read | write | delete
    | hostRecordList | wear | activate | roleHandoverSwap | appHandoverPoint | appWaitExpiry | restart | exportAsset
    | setAppkey | deepAfterExpiry | wakeSource | vbkLoss | clockMonitorFlag | xtal32Recover | setRtc | rtcNonce
    | rtcNonceExpiry | powerOnReset | nrst | brownOut | pwrRestart | autoRestart | watchdogReset | startSequence
    | engineCheckpoint | eccError | engineFault | spareTakeover | appFault | reseedWaitExpiry | pcieLinkUp
    | pcieLinkDown | pciePowerState | mailboxTake | tapInstruction | badAccessRead =>
    exact .inl rfl
  | _ => exact .inr ⟨_, rfl⟩

theorem rolesThere_of_unaddressed {c : Instr} (s : State) (h : rolesOf c = []) : rolesThere s c = true := by
  cases hr : heldRole s <;> simp [rolesThere, h, hr]

/-- A command with a role that is not there is held and nothing else. -/
theorem exec_away {s : State} {c : Instr} (h : rolesThere s c = false) : exec c s = .next (inputHeld s c) := by
  rcases rolesOf_eq_nil_or_exec_eq_inputTo c s with hfree | ⟨a, ha⟩
  · exact absurd (rolesThere_of_unaddressed s hfree) (by simp [h])
  · rw [ha, inputTo_away h]

/-- Holding an input writes only the list of held inputs. -/
theorem inputHeld_keeps (s : State) (c : Instr) : Keeps s (inputHeld s c) :=
  (Keeps.refl s).of_eq rfl rfl rfl rfl rfl rfl rfl rfl rfl

/-- No command breaks what is kept, whether it acts or is held. -/
theorem exec_keeps {s t : State} {c : Instr} (h : exec c s = .next t) : Keeps s t := by
  by_cases hr : rolesThere s c = true
  · exact (exec_within hr t h).keeps
  · rw [exec_away (Bool.eq_false_iff.mpr hr)] at h
    cases h
    exact inputHeld_keeps s c

/-! ### Steps -/

theorem step_cons {s : State} {c : Instr} {rest : List Instr} (hq : s.pending = c :: rest) :
    step s = exec c { s with pending := rest } := by
  simp only [step, hq]

theorem step_heldInput {s : State} {c : Instr} {rest : List Instr} (hq : s.pending = [])
    (hd : inputDue s = some (c, rest)) :
    step s = inputsKept rest (exec c { s with pwr := { s.pwr with inputs := [] } }) := by
  simp only [step, hq, idle, hd]

theorem step_tick {s : State} (hq : s.pending = []) (hd : inputDue s = none) : step s = .next (tick s) := by
  simp only [step, hq, idle, hd]

/-- Held inputs are kept of a next state only. -/
theorem inputsKept_eq_next {rest : List Instr} {a : Ans} {t : State} (h : inputsKept rest a = .next t) :
    ∃ u, a = .next u ∧ t = { u with pwr := { u.pwr with inputs := rest ++ u.pwr.inputs } } := by
  cases a with
  | next u =>
    cases h
    exact ⟨u, rfl, rfl⟩
  | fault => cases h
  | refused => cases h

/-- A step is the command in front, on an empty queue the first held input that is due, or with neither a tick. -/
theorem step_cases {s t : State} (h : step s = .next t) :
    (∃ c rest, s.pending = c :: rest ∧ exec c { s with pending := rest } = .next t) ∨
    (s.pending = [] ∧ ∃ c rest u, inputDue s = some (c, rest) ∧
      exec c { s with pwr := { s.pwr with inputs := [] } } = .next u ∧
      t = { u with pwr := { u.pwr with inputs := rest ++ u.pwr.inputs } }) ∨
    (s.pending = [] ∧ inputDue s = none ∧ t = tick s) := by
  by_cases hq : s.pending = []
  · rcases hd : inputDue s with _ | ⟨c, rest⟩
    · rw [step_tick hq hd] at h
      cases h
      exact .inr (.inr ⟨hq, rfl, rfl⟩)
    · rw [step_heldInput hq hd] at h
      obtain ⟨u, hx, ht⟩ := inputsKept_eq_next h
      exact .inr (.inl ⟨hq, c, rest, u, rfl, hx, ht⟩)
  · obtain ⟨c, rest, hq⟩ := List.exists_cons_of_ne_nil hq
    rw [step_cons hq] at h
    exact .inl ⟨c, rest, hq, h⟩

/-! ### The identifier and the fuses (07 R182, R195; 14 R379, R390, R392) -/

/-- The device identifier stays, the version floor does not fall, and a key once fused stays. -/
def OneTimeKept (s t : State) : Prop :=
  t.cip.deviceId = s.cip.deviceId ∧ s.upd.floor ≤ t.upd.floor ∧ (s.upd.appKey ≠ 0 → t.upd.appKey = s.upd.appKey) ∧
    (s.cip.uniqueKey.isSome = true → t.cip.uniqueKey = s.cip.uniqueKey)

theorem Keeps.oneTimeKept {s t : State} (h : Keeps s t) : OneTimeKept s t :=
  ⟨h.device, h.floor, h.appKey, h.uniqueKey⟩

/-- The queue, the held inputs and the clocks lie outside the keys and the images, so the state that a command or a tick
    starts from agrees with `s` there. -/
theorem step_oneTimeKept {s t : State} (h : step s = .next t) : OneTimeKept s t := by
  rcases step_cases h with ⟨c, rest, -, hx⟩ | ⟨-, c, rest, u, -, hx, rfl⟩ | ⟨-, -, rfl⟩
  · exact (exec_keeps hx).oneTimeKept
  · exact (exec_keeps hx).oneTimeKept
  · exact (tick_within s).keeps.oneTimeKept

/-- Settles O48: whatever a step is, it keeps the identifier and what has been fused. -/
theorem oneTimeFuses : Obligations.OneTimeFuses := fun _ _ => step_oneTimeKept

end Sys2Proof.Machine
end

section
/-! PROOFS. Ring 7 (07_cipher_and_keys.md R168, R171-R174, R180, R181, R185, R186, R196): a job runs under a slot that
permits it and is refused without a sign under another; nonces and counters. -/
namespace Sys2Proof.Machine

/-! ### Jobs under a slot (R171-R174, R186) -/

section
variable {s : State} {tag : Nat} {d : Desc} {data : Bytes}

section
variable (hr : rolesThere s (.encrypt tag data) = true) (hwait : Waiting s 7 0x01 tag d) (hform : encryptForm d = true)
include hr hwait hform

theorem exec_encrypt_permitted (hslot : slotPermits s (jobSlot d) reqHost false useEnc = true) :
    exec (.encrypt tag data) s = .next (encryptRuns d (padTo d.len data) s) := by
  calc exec (.encrypt tag data) s
      = execEncrypt tag data s := rfl
    _ = _ := by rw [execEncrypt, inputTo_there hr, ringCmdIf_legal hwait _ hform, if_pos hslot]

theorem exec_encrypt_refused (hslot : slotPermits s (jobSlot d) reqHost false useEnc = false) :
    exec (.encrypt tag data) s = .next (encryptRefused d s) := by
  calc exec (.encrypt tag data) s
      = execEncrypt tag data s := rfl
    _ = _ := by
      rw [execEncrypt, inputTo_there hr, ringCmdIf_legal hwait _ hform, if_neg (Bool.eq_false_iff.mp hslot)]

end

section
variable {side : Bytes} (hr : rolesThere s (.decrypt tag data side) = true) (hwait : Waiting s 7 0x02 tag d)
  (hform : decryptForm d = true)
include hr hwait hform

theorem exec_decrypt_permitted (hslot : slotPermits s (jobSlot d) reqHost false useDec = true) :
    exec (.decrypt tag data side) s = .next (decryptRuns d (padTo d.len data) (padTo 32 side) s) := by
  calc exec (.decrypt tag data side) s
      = execDecrypt tag data side s := rfl
    _ = _ := by rw [execDecrypt, inputTo_there hr, ringCmdIf_legal hwait _ hform, if_pos hslot]

theorem exec_decrypt_refused (hslot : slotPermits s (jobSlot d) reqHost false useDec = false) :
    exec (.decrypt tag data side) s =
      .next (complete (cmdDma s 7 d.tag (d.addr + jobAad d) (zeroBytes (d.len - jobAad d))) 7 d.tag stOk 0) := by
  calc exec (.decrypt tag data side) s
      = execDecrypt tag data side s := rfl
    _ = _ := by
      rw [execDecrypt, inputTo_there hr, ringCmdIf_legal hwait _ hform, if_neg (Bool.eq_false_iff.mp hslot)]

end

theorem exec_mac_permitted (hr : rolesThere s (.mac tag data) = true) (hwait : Waiting s 7 0x03 tag d)
    (hform : macForm d = true) (hslot : slotPermits s (jobSlot d) reqHost false useEnc = true) :
    exec (.mac tag data) s =
      .next (complete (cmdDma (useSlot s (jobSlot d)) 7 tag (d.p1 + 16)
        (cmac (s.slot (jobSlot d)).key (padTo d.len data))) 7 tag stOk 0) := by
  calc exec (.mac tag data) s
      = execMac tag data s := rfl
    _ = _ := by
      rw [execMac, inputTo_there hr, ringCmdIf_legal hwait _ hform, if_pos hslot]
      rfl

end

/-! ### Nonces and counters (R180, R181, R196) -/

section
variable {s : State} {tag : Nat} {d : Desc}

theorem exec_nonce (hr : rolesThere s (.nonce tag) = true) (hwait : Waiting s 7 0x04 tag d) (hlo : 16 ≤ d.len)
    (hhi : d.len ≤ 4096) (hblocks : d.len % 16 = 0) :
    exec (.nonce tag) s =
      .next (completeData (drawMany (d.len / 16) s).2 7 d (drawMany (d.len / 16) s).1 d.len) := by
  calc exec (.nonce tag) s
      = execNonce tag s := rfl
    _ = _ := by rw [execNonce, inputTo_there hr, ringCmdIf_legal hwait _ (by simp [hlo, hhi, hblocks])]

variable (hr : rolesThere s (.counter tag) = true) (hwait : Waiting s 7 0x05 tag d) (hslot : d.p0 < 64)
include hr hwait hslot

theorem exec_counter_issued (hsees : slotVisible s d.p0 reqHost false = true)
    (hbelow : counterOf s d.p0 ≠ ceilingOf s d.p0) :
    exec (.counter tag) s = .next (complete (issueCounter s d.p0).2 7 tag stOk (counterOf s d.p0)) := by
  calc exec (.counter tag) s
      = execCounter tag s := rfl
    _ = _ := by
      rw [execCounter, inputTo_there hr, ringCmdIf_legal hwait _ (decide_eq_true hslot), if_neg (by simp [hsees]),
        if_pos (by simpa using hbelow)]
      rfl

theorem exec_counter_refused (hsees : slotVisible s d.p0 reqHost false = false) :
    exec (.counter tag) s = .next (refuseSilent s 7 d 0) := by
  calc exec (.counter tag) s
      = execCounter tag s := rfl
    _ = _ := by
      rw [execCounter, inputTo_there hr, ringCmdIf_legal hwait _ (decide_eq_true hslot), if_pos (by simp [hsees])]

end

/-- Settles O15: each command runs on the descriptor that waits for it, by what its slot permits. -/
theorem cipherJobs : Obligations.CipherJobs := by
  refine ⟨?encrypt, ?encryptNot, ?decrypt, ?decryptNot, ?mac, ?nonce, ?counter, ?counterNot⟩
  case encrypt =>
    intro s tag d data hr hwait hform hslot
    exact exec_encrypt_permitted hr hwait hform hslot
  case encryptNot =>
    intro s tag d data hr hwait hform hslot
    exact exec_encrypt_refused hr hwait hform hslot
  case decrypt =>
    intro s tag d data side hr hwait hform hslot
    exact exec_decrypt_permitted hr hwait hform hslot
  case decryptNot =>
    intro s tag d data side hr hwait hform hslot
    exact exec_decrypt_refused hr hwait hform hslot
  case mac =>
    intro s tag d data hr hwait hform hslot
    exact exec_mac_permitted hr hwait hform hslot
  case nonce =>
    intro s tag d hr hwait hlo hhi hblocks
    exact exec_nonce hr hwait hlo hhi hblocks
  case counter =>
    intro s tag d hr hwait hslot hsees hbelow
    exact exec_counter_issued hr hwait hslot hsees hbelow
  case counterNot =>
    intro s tag d hr hwait hslot hsees
    exact exec_counter_refused hr hwait hslot hsees

end Sys2Proof.Machine
end

section
/-! PROOFS. The random source (07_cipher_and_keys.md R175-R179, R197): the tests of raw bits by their verdict, and the
reseeds of the DRBG. Privet's re-masking (R188, R189): a fresh mask leaves the value of its slot. -/
namespace Sys2Proof.Machine

/-! ### The start-up test (R178, R179) -/

section
variable {s u : State} {bits : List Bool}
variable (hmode : s.mode = .starting) (hready : trngReady s = false)
include hmode hready

/-- The start-up test is awaited. -/
theorem startupTest_awaited : (s.mode != .seed && s.mode != .failed && !trngReady s) = true := by
  rw [hmode, hready]
  rfl

theorem exec_trngStartupTestEnd_passes (ht : startupTested (s.bump Reg.cipTrngStartups) bits = (false, u)) :
    exec (.trngStartupTestEnd bits) s =
      .next { u.setStat Reg.cipStatusTrngReady 1 with
        cip := { u.cip with drbg := u.cip.drbg.start, lastReseed := u.now, startupFails := 0 } } := by
  calc exec (.trngStartupTestEnd bits) s
      = execTrngStartupTestEnd bits s := rfl
    _ = _ := by
      rw [execTrngStartupTestEnd, startupTest_awaited hmode hready, when_true, ht]
      rfl

variable (ht : startupTested (s.bump Reg.cipTrngStartups) bits = (true, u))
include ht

theorem exec_trngStartupTestEnd_firstFailure (hfails : u.cip.startupFails = 0) :
    exec (.trngStartupTestEnd bits) s = .next { u with cip := { u.cip with startupFails := 1 } } := by
  calc exec (.trngStartupTestEnd bits) s
      = execTrngStartupTestEnd bits s := rfl
    _ = _ := by
      rw [execTrngStartupTestEnd, startupTest_awaited hmode hready, when_true, ht]
      simp [hfails]

theorem exec_trngStartupTestEnd_secondFailure (hfails : u.cip.startupFails = 1) :
    exec (.trngStartupTestEnd bits) s = .next (trngFails { u with cip := { u.cip with startupFails := 2 } }) := by
  calc exec (.trngStartupTestEnd bits) s
      = execTrngStartupTestEnd bits s := rfl
    _ = _ := by
      rw [execTrngStartupTestEnd, startupTest_awaited hmode hready, when_true, ht]
      simp [hfails]

end

/-! ### Windows of the running source (R178, R179) -/

section
variable {s u : State} {b : Bool} {bits : List Bool}
variable (hmode : s.mode = .running)
include hmode

/-- The source of a running device is under test. -/
theorem window_tested : (s.mode != .seed && s.mode != .failed) = true := by
  rw [hmode]
  rfl

theorem exec_entropyWindowEnd_passes (ht : windowTested s (b :: bits) = (false, u)) :
    exec (.entropyWindowEnd b bits) s = .next ((fun u : State => if u.cip.reseedDue then reseedStarts u else u)
      { u with cip := { u.cip with windowBad := false } }) := by
  calc exec (.entropyWindowEnd b bits) s
      = execEntropyWindowEnd b bits s := rfl
    _ = _ := by
      rw [execEntropyWindowEnd, window_tested hmode, when_true, ht]
      rfl

/-- A failure alone in its second is far from the three that are persistent. -/
theorem exec_entropyWindowEnd_failsAlone (ht : windowTested s (b :: bits) = (true, u))
    (halone : u.cip.healthFails.filter (fun t => decide (u.now ≤ t + 1000)) = []) :
    exec (.entropyWindowEnd b bits) s =
      .next { u.raise Reg.cipFaultHealth with cip := { u.cip with windowBad := true, healthFails := [u.now] } } := by
  calc exec (.entropyWindowEnd b bits) s
      = execEntropyWindowEnd b bits s := rfl
    _ = _ := by
      rw [execEntropyWindowEnd, window_tested hmode, when_true, ht]
      simp [halone]

end

/-! ### Reseeds (R177, R179, R197) -/

section
variable {s : State} (hready : trngReady s = true)
include hready

section
variable (hidle : s.stat Reg.cipStatusReseeding ≠ 1) (hfalls : reseedFalls s = true)
include hidle hfalls

theorem exec_drbgReseed_starts (hgood : s.cip.windowBad = false) :
    exec (.drbgReseed false) s = .next (reseedStarts s) := by
  calc exec (.drbgReseed false) s
      = execDrbgReseed false s := rfl
    _ = _ := by simp [execDrbgReseed, hready, hidle, hfalls, hgood]

theorem exec_drbgReseed_waits (hbad : s.cip.windowBad = true) :
    exec (.drbgReseed false) s = .next { s with cip := { s.cip with reseedDue := true } } := by
  calc exec (.drbgReseed false) s
      = execDrbgReseed false s := rfl
    _ = _ := by simp [execDrbgReseed, hready, hidle, hfalls, hbad]

end

theorem exec_drbgReseed_ends (hbusy : s.stat Reg.cipStatusReseeding = 1) :
    exec (.drbgReseed true) s =
      .next ((fun u : State => { u with cip := { u.cip with lastReseed := u.now } })
        (applyTiming .reseed (s.setStat Reg.cipStatusReseeding 0))) := by
  calc exec (.drbgReseed true) s
      = execDrbgReseed true s := rfl
    _ = _ := by simp [execDrbgReseed, hready, hbusy]

end

theorem exec_reseedWaitExpiry {s : State} (hdue : s.cip.reseedDue = true) :
    exec .reseedWaitExpiry s = .next (trngFails s) := by
  calc exec .reseedWaitExpiry s
      = execReseedWaitExpiry s := rfl
    _ = _ := by rw [execReseedWaitExpiry, hdue, when_true]

/-! ### What a draw leaves of the keys (R175, R176) -/

/-- The nonce service moves on and nothing else of the keys: slots, working key and the order of re-masking stay. -/
theorem drawMask_cip (s : State) :
    s.drawMask.2.cip =
      { s.cip with drbg := s.drawMask.2.cip.drbg, reseedDue := s.drawMask.2.cip.reseedDue } :=
  (State.drawMask_within s (Within.refl [.status, .nonces] s) fun _ => id).untouched.keys (by decide)

theorem drawMask_loaded (s : State) : s.drawMask.2.cip.loaded = s.cip.loaded := by rw [drawMask_cip]

theorem drawMask_workMasked (s : State) : s.drawMask.2.cip.workMasked = s.cip.workMasked := by rw [drawMask_cip]

/-! ### Re-masking (R188, R189) -/

/-- Masked anew by `old xor new`, a value shows through the new mask as it did through the old. -/
theorem masked_xor_remask (x old new : BitVec 256) : (x ^^^ (old ^^^ new)) ^^^ new = x ^^^ old := by
  rw [BitVec.xor_assoc, BitVec.xor_assoc, BitVec.xor_self, BitVec.xor_zero]

/-- A slot takes a fresh mask and keeps its value. -/
theorem remaskSlot_value (s : State) (n : Nat) : ((remaskSlot s n).slot n).value = (s.slot n).value := by
  simp only [remaskSlot, State.slot, tblGet_tblPut_same, KeySlot.value, masked_xor_remask]

theorem remaskSlot_loaded (s : State) (n : Nat) : (remaskSlot s n).cip.loaded = s.cip.loaded :=
  drawMask_loaded s

theorem remaskSlot_workMasked (s : State) (n : Nat) : (remaskSlot s n).cip.workMasked = s.cip.workMasked :=
  drawMask_workMasked s

/-- A slot other than 0 that no write holds is re-masked, and the next is the one after it. -/
theorem exec_privetRemask {s : State} (hready : trngReady s = true) (hrung : rung s ≤ 1) (hnext : s.cip.remask ≠ 0)
    (hfree : slotBeingWritten s s.cip.remask = false) :
    exec .privetRemask s = .next ((fun u : State => { u with cip := { u.cip with remask := (s.cip.remask + 1) % 64 } })
      (remaskSlot s s.cip.remask)) := by
  calc exec .privetRemask s
      = execPrivetRemask s := rfl
    _ = _ := by simp [execPrivetRemask, hready, hrung, hnext, hfree]

/-- Settles O16: each test by its verdict, each reseed by what it finds; re-masking by the fresh mask's cancelling. -/
theorem randomSource : Obligations.RandomSource := by
  refine ⟨?passes, ?first, ?second, ?window, ?windowFails, ?starts, ?waits, ?ends, fun s hdue =>
    exec_reseedWaitExpiry hdue, ?remask⟩
  case passes =>
    intro s bits hmode hready hf
    exact exec_trngStartupTestEnd_passes hmode hready (Prod.ext hf rfl)
  case first =>
    intro s bits hmode hready hf hfails
    exact exec_trngStartupTestEnd_firstFailure hmode hready (Prod.ext hf rfl) hfails
  case second =>
    intro s bits hmode hready hf hfails
    exact exec_trngStartupTestEnd_secondFailure hmode hready (Prod.ext hf rfl) hfails
  case window =>
    intro s b bits hmode hf
    exact exec_entropyWindowEnd_passes hmode (Prod.ext hf rfl)
  case windowFails =>
    intro s b bits hmode hf halone
    exact exec_entropyWindowEnd_failsAlone hmode (Prod.ext hf rfl) halone
  case starts =>
    intro s hready hidle hfalls hgood
    exact exec_drbgReseed_starts hready hidle hfalls hgood
  case waits =>
    intro s hready hidle hfalls hbad
    exact exec_drbgReseed_waits hready hidle hfalls hbad
  case ends =>
    intro s hready hbusy
    exact exec_drbgReseed_ends hready hbusy
  case remask =>
    intro s hready hrung hnext hfree
    exact ⟨_, exec_privetRemask hready hrung hnext hfree, remaskSlot_value s s.cip.remask, rfl,
      remaskSlot_loaded s s.cip.remask, remaskSlot_workMasked s s.cip.remask⟩

end Sys2Proof.Machine
end

section
/-! PROOFS. Ring 8's slots (07_cipher_and_keys.md R182, R184-R187, R190, R191): loads, ERASE and NARROW on the descriptor
that waits for them. -/
namespace Sys2Proof.Machine

/-! ### Loads (R190, R191) -/

section
variable {s : State} {tag : Nat} {d : Desc} {data : Bytes}

theorem exec_loadClear (hwait : Waiting s 8 0x01 tag d) (hlen : d.len = 32) (hform : oneSlot d = true) :
    exec (.loadClear tag data) s = .next (loadSlot 1 tag
      (fun _ u => u.cip.lifeCycle == .blank || u.cip.lifeCycle == .provisioned) (fun _ => none)
      (fun _ _ => some (padTo 32 data)) d s) := by
  calc exec (.loadClear tag data) s
      = execLoadClear tag data s := rfl
    _ = _ := by rw [execLoadClear, ringCmdIf_legal hwait _ (by simp [hlen, hform])]

theorem exec_loadWrapped (hwait : Waiting s 8 0x02 tag d) (hlen : d.len = 40) (hform : twoSlots d = true) :
    exec (.loadWrapped tag data) s = .next (loadSlot 2 tag
      (fun d u => slotUnwraps u (keySource d) reqHost false) (fun d => some (keySource d))
      (fun d u => keyUnwrap (u.slot (keySource d)).key (padTo 40 data)) d s) := by
  calc exec (.loadWrapped tag data) s
      = execLoadWrapped tag data s := rfl
    _ = _ := by rw [execLoadWrapped, ringCmdIf_legal hwait _ (by simp [hlen, hform])]

theorem exec_derive (hwait : Waiting s 8 0x03 tag d) (hlen : d.len ≤ 64) (hform : twoSlots d = true) :
    exec (.derive tag data) s = .next (loadSlot 3 tag
      (fun d u => slotPermits u (keySource d) reqHost false useDerive) (fun d => some (keySource d))
      (fun d u => some (padTo 32
        (kdf (u.slot (keySource d)).key 0x4B (padTo d.len data) (attrBits (loadAttr d))))) d s) := by
  calc exec (.derive tag data) s
      = execDerive tag data s := rfl
    _ = _ := by rw [execDerive, ringCmdIf_legal hwait _ (by simp [hlen, hform])]

end

/-! ### ERASE and NARROW (R190) -/

section
variable {s : State} {tag : Nat} {d : Desc}

section
variable (hwait : Waiting s 8 0x04 tag d) (hform : oneSlot d = true)
include hwait hform

theorem exec_erase_requested (hsees : hostSees s (keyTarget d) = true) (hw : s.nvwp = false)
    (hb : nvBusy s 8 = false) :
    exec (.erase tag) s =
      .next (requestSlot tag 4 (keyTarget d) KeySlot.empty (markTaken s 8 tag false)) := by
  calc exec (.erase tag) s
      = execErase tag s := rfl
    _ = _ := by rw [execErase, ringCmdIf_legal hwait _ hform, if_neg (by simp [hsees]), changeCmd_free hw hb]

theorem exec_erase_refused (hsees : hostSees s (keyTarget d) = false) :
    exec (.erase tag) s = .next (refuseSilent s 8 d 0) := by
  calc exec (.erase tag) s
      = execErase tag s := rfl
    _ = _ := by rw [execErase, ringCmdIf_legal hwait _ hform, if_pos (by simp [hsees])]

end

theorem exec_narrow_requested (hwait : Waiting s 8 0x05 tag d) (hform : oneSlot d = true)
    (hsees : hostSees s (keyTarget d) = true) (hw : s.nvwp = false) (hb : nvBusy s 8 = false) :
    exec (.narrow tag) s =
      .next (requestSlot tag 5 (keyTarget d) (narrowed (s.slot (keyTarget d)) d) (markTaken s 8 tag false)) := by
  calc exec (.narrow tag) s
      = execNarrow tag s := rfl
    _ = _ := by rw [execNarrow, ringCmdIf_legal hwait _ hform, if_neg (by simp [hsees]), changeCmd_free hw hb]

end

/-- Settles O17: a load of legal form is `loadSlot`; ERASE and NARROW by whether HOST sees the slot. -/
theorem keyLoads : Obligations.KeyLoads := by
  refine ⟨?clear, ?wrapped, ?derive, ?erase, ?eraseNot, ?narrow⟩
  case clear =>
    intro s tag d data hwait hlen hform
    exact exec_loadClear hwait hlen hform
  case wrapped =>
    intro s tag d data hwait hlen hform
    exact exec_loadWrapped hwait hlen hform
  case derive =>
    intro s tag d data hwait hlen hform
    exact exec_derive hwait hlen hform
  case erase =>
    intro s tag d hwait hform hsees hw hb
    exact exec_erase_requested hwait hform hsees hw hb
  case eraseNot =>
    intro s tag d hwait hform hsees
    exact exec_erase_refused hwait hform hsees
  case narrow =>
    intro s tag d hwait hform hsees hw hb
    exact exec_narrow_requested hwait hform hsees hw hb

end Sys2Proof.Machine
end

section
/-! PROOFS. Attestation and the life cycle (07_cipher_and_keys.md R192-R195): the attestation answer, the nonce, the rows of
R192 by what each needs, and the test access port. -/
namespace Sys2Proof.Machine

/-! ### Attestation (R195) -/

section
variable {s : State} {tag : Nat} {d : Desc}

section
variable (hwait : Waiting s 8 0x06 tag d) (hlen : d.len = 116)
include hwait hlen

theorem exec_attest_usable (hslot : attestUsable s = true) :
    exec (.attest tag) s = .next ((fun b : Bytes =>
      completeData (useSlot s 1) 8 d (b ++ cmac (s.slot 1).key (0x41#8 :: b)) 0)
        (attestBody s (leBytes 8 d.p0 ++ leBytes 8 d.p1))) := by
  calc exec (.attest tag) s
      = execAttest tag s := rfl
    _ = _ := by
      rw [execAttest, ringCmdIf_legal hwait _ (decide_eq_true hlen), if_neg (by simp [hslot])]
      rfl

theorem exec_attest_refused (hslot : attestUsable s = false) :
    exec (.attest tag) s = .next (refuseSilent s 8 d 116) := by
  calc exec (.attest tag) s
      = execAttest tag s := rfl
    _ = _ := by rw [execAttest, ringCmdIf_legal hwait _ (decide_eq_true hlen), if_pos (by simp [hslot])]

end

/-! ### The life-cycle nonce (R193) -/

theorem exec_lcNonce (hwait : Waiting s 8 0x07 tag d) (hlen : d.len = 16) :
    exec (.lcNonce tag) s = .next ((fun p : Nat × State =>
      completeData { p.2 with cip := { p.2.cip with lcNonce := some (p.1, p.2.now) } } 8 d (beBytes 16 p.1) 0)
        s.draw) := by
  calc exec (.lcNonce tag) s
      = execLcNonce tag s := rfl
    _ = _ := by rw [execLcNonce, ringCmdIf_legal hwait _ (decide_eq_true hlen)]

theorem exec_lcNonceExpiry (hheld : s.cip.lcNonce.isSome = true) :
    exec .lcNonceExpiry s = .next { s with cip := { s.cip with lcNonce := none } } := by
  calc exec .lcNonceExpiry s
      = execLcNonceExpiry s := rfl
    _ = _ := by rw [execLcNonceExpiry, hheld, when_true]

end

/-! ### LC_ADVANCE (R192) -/

/-- The nonce is gone once a row that needs it has been named, and APP has computed the MAC it was to be compared with. -/
def nonceSpent (s : State) : State :=
  (fun u : State => { u with cip := { u.cip with lcNonce := none } }) (authJob s.cip.lcNonce.isSome s)

section
variable {s : State} {tag : Nat} {d : Desc} {data : Bytes}
variable (hwait : Waiting s 8 0x08 tag d) (hlen : d.len = 16) (hp0 : d.p0 < 8)
include hwait hlen hp0

theorem exec_lcAdvance_noRow (hrow : lcRow s d.p0 = none) :
    exec (.lcAdvance tag data) s = .next (refuseSilent s 8 d 0) := by
  calc exec (.lcAdvance tag data) s
      = execLcAdvance tag data s := rfl
    _ = _ := by
      rw [execLcAdvance, ringCmdIf_legal hwait _ (by simp [hlen, hp0])]
      simp only [hrow]

theorem exec_lcAdvance_free (hrow : lcRow s d.p0 = some false) (hwipes : lcWipes d.p0 = false) :
    exec (.lcAdvance tag data) s = .next (complete (lifeCycleTakes s d.p0) 8 tag stOk 0) := by
  calc exec (.lcAdvance tag data) s
      = execLcAdvance tag data s := rfl
    _ = _ := by
      rw [execLcAdvance, ringCmdIf_legal hwait _ (by simp [hlen, hp0])]
      simp [hrow, hwipes]

section
variable (hrow : lcRow s d.p0 = some true)
include hrow

theorem exec_lcAdvance_unauthorised (hauth : lcAuthorised s d.p0 (padTo 16 data) = false) :
    exec (.lcAdvance tag data) s = .next (refuseSilent (nonceSpent s) 8 d 0) := by
  calc exec (.lcAdvance tag data) s
      = execLcAdvance tag data s := rfl
    _ = _ := by
      rw [execLcAdvance, ringCmdIf_legal hwait _ (by simp [hlen, hp0])]
      simp only [hrow, hauth]
      rfl

/-- An authorised row that wipes slots is a change of the store, taken up before it goes on. -/
theorem exec_lcAdvance_wipes (hauth : lcAuthorised s d.p0 (padTo 16 data) = true) (hwipes : lcWipes d.p0 = true)
    (hw : s.nvwp = false) (hb : nvBusy s 8 = false) :
    exec (.lcAdvance tag data) s = .next ((fun u : State =>
      lcProceeds { u with cip := { u.cip with lcWaits := some (tag, d.p0, false) } })
        (markTaken (nonceSpent s) 8 tag false)) := by
  calc exec (.lcAdvance tag data) s
      = execLcAdvance tag data s := rfl
    _ = _ := by
      rw [execLcAdvance, ringCmdIf_legal hwait _ (by simp [hlen, hp0])]
      simp only [hrow, hauth, hwipes, changeCmd_free hw hb]
      rfl

end

end

/-- Settles O18: each command by the form and the slot or row that it names; the port by the life cycle. -/
theorem lifeCycleAndAttestation : Obligations.LifeCycleAndAttestation := by
  refine ⟨?attest, ?attestNot, ?nonce, fun s hheld => exec_lcNonceExpiry hheld, ?noRow, ?free, ?unauthorised, ?wipes,
    fun _ _ => rfl⟩
  case attest =>
    intro s tag d hwait hlen hslot
    exact exec_attest_usable hwait hlen hslot
  case attestNot =>
    intro s tag d hwait hlen hslot
    exact exec_attest_refused hwait hlen hslot
  case nonce =>
    intro s tag d hwait hlen
    exact exec_lcNonce hwait hlen
  case noRow =>
    intro s tag d data hwait hlen hp0 hrow
    exact exec_lcAdvance_noRow hwait hlen hp0 hrow
  case free =>
    intro s tag d data hwait hlen hp0 hrow hwipes
    exact exec_lcAdvance_free hwait hlen hp0 hrow hwipes
  case unauthorised =>
    intro s tag d data hwait hlen hp0 hrow hauth
    exact exec_lcAdvance_unauthorised hwait hlen hp0 hrow hauth
  case wipes =>
    intro s tag d data hwait hlen hp0 hrow hauth hwipes _ hw hb
    exact exec_lcAdvance_wipes hwait hlen hp0 hrow hauth hwipes hw hb

end Sys2Proof.Machine
end

section
/-! PROOFS. Ring 2 (08_tokens_and_challenge.md R212, R213, R215-R217, R225, R227, R229): the two frames of its commands, one
for those that read the table and one for those that change it, and what each command makes of a legal descriptor. -/
namespace Sys2Proof.Machine

/-! ### The frames of R213 and R229 -/

/-- With NVWP asserted a protected change is refused, whatever waits for the store. -/
theorem changeCmd_protected {n : Nat} {d : Desc} {f : State → State} {s : State} (hw : s.nvwp = true) :
    changeCmd n d true f s = complete s n d.tag stWriteProtected 0 := by
  simp [changeCmd, hw]

section
variable {s : State} {op tag : Nat} {d : Desc} {form : Desc → Bool} {written : Desc → Nat} {f : Desc → State → State}
variable (hwait : Waiting s 2 op tag d) (hform : form d = true)
include hwait hform

theorem hollyCmd_permitted (hp : hollyPermits s = true) : hollyCmd op tag form written f s = f d s := by
  rw [hollyCmd, ringCmdIf_legal hwait _ hform, if_pos hp]

theorem hollyCmd_refused (hp : hollyPermits s = false) :
    hollyCmd op tag form written f s = refuseSilent s 2 d (written d) := by
  rw [hollyCmd, ringCmdIf_legal hwait _ hform, if_neg (Bool.eq_false_iff.mp hp)]

theorem hollyChange_open (hp : hollyPermits s = true) (hw : s.nvwp = false) (hb : nvBusy s 2 = false) :
    hollyChange op tag form f s = f d s := by
  rw [hollyChange, hollyCmd_permitted hwait hform hp, changeCmd_free hw hb]

theorem hollyChange_protected (hp : hollyPermits s = true) (hw : s.nvwp = true) :
    hollyChange op tag form f s = complete s 2 d.tag stWriteProtected 0 := by
  rw [hollyChange, hollyCmd_permitted hwait hform hp, changeCmd_protected hw]

end

/-! ### Commands that read the table (R227) -/

section
variable {s : State} {tag : Nat} {d : Desc}

theorem exec_readSlot_permitted (hwait : Waiting s 2 0x03 tag d) (hlen : d.len = 32) (hp : hollyPermits s = true)
    (hslot : d.p0 < modeSlots s.aut.table.individual) :
    exec (.readSlot tag) s = .next (completeData s 2 d (hollyRead s d.p0) (bit ((holly s d.p0).id != 0))) := by
  calc exec (.readSlot tag) s
      = execReadSlot tag s := rfl
    _ = _ := by rw [execReadSlot, hollyCmd_permitted hwait (decide_eq_true hlen) hp, if_pos hslot]

theorem exec_readSlot_refused (hwait : Waiting s 2 0x03 tag d) (hlen : d.len = 32) (hp : hollyPermits s = false) :
    exec (.readSlot tag) s = .next (refuseSilent s 2 d 32) := by
  calc exec (.readSlot tag) s
      = execReadSlot tag s := rfl
    _ = _ := by rw [execReadSlot, hollyCmd_refused hwait (decide_eq_true hlen) hp]

theorem exec_find_permitted (hwait : Waiting s 2 0x04 tag d) (hp : hollyPermits s = true) :
    exec (.find tag) s = .next (complete s 2 tag stOk ((findHolly s d.p0).elim 0 (fun i => i + 1))) := by
  calc exec (.find tag) s
      = execFind tag s := rfl
    _ = _ := by
      rw [execFind, hollyCmd_permitted hwait rfl hp]
      cases findHolly s d.p0 <;> rfl

theorem exec_digest_permitted (hwait : Waiting s 2 0x0A tag d) (hlen : d.len = 32) (hp : hollyPermits s = true) :
    exec (.digest tag) s = .next (completeData s 2 d
      (sha256 ((List.range (modeSlots s.aut.table.individual)).flatMap (fun i => hollyBytes (holly s i))))
      (slotsUsed s)) := by
  calc exec (.digest tag) s
      = execDigest tag s := rfl
    _ = _ := by rw [execDigest, hollyCmd_permitted hwait (decide_eq_true hlen) hp]

end

/-! ### A changed table requested of the store (R215, R216) -/

/-- Where an edit makes no new set, its command completes at once with the edit's status and result. -/
theorem requestTable_of_noSet {s : State} {tag op st r : Nat} {h : HollySlot} (he : hollyEdit s op h = (st, r, none)) :
    requestTable tag op h s = complete s 2 tag st r := by
  simp [requestTable, he]

/-- To take out an identifier that no slot holds is to change nothing. -/
theorem hollyEdit_revoke_absent {s : State} {h : HollySlot} (ho : individualOpen s = true)
    (hn : findHolly s h.id = none) : hollyEdit s 2 h = (stOk, 0, none) := by
  simp [hollyEdit, ho, hn]

/-! ### Commands that change the table, a learn or a counter (R215-R217, R225, R229) -/

/-- A learn whose LEARN_COMMIT waits for the store. -/
def learnCommitting (s : State) (l : Learn) : State :=
  { s with aut := { s.aut with learn := some { l with committing := true } } }

section
variable {s : State} {tag : Nat} {d : Desc} {data : Bytes} {l : Learn}

theorem exec_enroll_protected (hwait : Waiting s 2 0x01 tag d) (hlen : d.len = 32)
    (hentry : entryLegal (padTo 32 data) = true) (hp : hollyPermits s = true) (hw : s.nvwp = true) :
    exec (.enroll tag data) s = .next (complete s 2 d.tag stWriteProtected 0) := by
  calc exec (.enroll tag data) s
      = execEnroll tag data s := rfl
    _ = _ := by rw [execEnroll, hollyChange_protected hwait (by simp [hlen, hentry]) hp hw]

variable (hp : hollyPermits s = true) (hw : s.nvwp = false) (hb : nvBusy s 2 = false)
include hp hw hb

theorem exec_enroll_open (hwait : Waiting s 2 0x01 tag d) (hlen : d.len = 32)
    (hentry : entryLegal (padTo 32 data) = true) :
    exec (.enroll tag data) s = .next (requestTable tag 1 (hollyOfEntry (padTo 32 data)) s) := by
  calc exec (.enroll tag data) s
      = execEnroll tag data s := rfl
    _ = _ := by rw [execEnroll, hollyChange_open hwait (by simp [hlen, hentry]) hp hw hb]

section
variable (hwait : Waiting s 2 0x02 tag d)
include hwait

theorem exec_revoke_open :
    exec (.revoke tag) s = .next (requestTable tag 2 { HollySlot.empty with id := d.p0 } s) := by
  calc exec (.revoke tag) s
      = execRevoke tag s := rfl
    _ = _ := by rw [execRevoke, hollyChange_open hwait rfl hp hw hb]

theorem exec_revoke_absent (ho : individualOpen s = true) (hn : findHolly s d.p0 = none) :
    exec (.revoke tag) s = .next (complete s 2 tag stOk 0) := by
  rw [exec_revoke_open hp hw hb hwait, requestTable_of_noSet (hollyEdit_revoke_absent ho hn)]

end

/-- An epoch below 2^32 asks for Quickset mode: bit 32 of P0, which would ask for individual mode, is clear. -/
theorem exec_learnBegin_quickset (hwait : Waiting s 2 0x05 tag d) (hp0 : d.p0 < 2 ^ 32)
    (hepoch : s.aut.table.epoch < d.p0) (hlearn : s.aut.learn = none) (hset : s.aut.pendingSet = none) :
    exec (.learnBegin tag) s = .next (complete
      (auditCmd { s with aut := { s.aut with learn := some ⟨false, d.p0, [], false⟩ } } 2 0x05 0) 2 tag stOk 0) := by
  have hform : d.p0 < 2 ^ 33 := by omega
  have hmode : bitAt d.p0 32 = false := by rw [bitAt, Nat.div_eq_of_lt hp0]; rfl
  calc exec (.learnBegin tag) s
      = execLearnBegin tag s := rfl
    _ = _ := by
      rw [execLearnBegin, hollyChange_open hwait (decide_eq_true hform) hp hw hb]
      dsimp only
      rw [Nat.mod_eq_of_lt hp0, if_neg (Nat.not_le_of_lt hepoch), if_neg (by simp [hlearn, hset]),
        if_neg (by simp [hmode]), hmode]

theorem exec_learnEntries_staged {es : List Bytes} (hwait : Waiting s 2 0x06 tag d) (hlo : 32 ≤ d.len)
    (hhi : d.len ≤ 1024) (hwhole : d.len % 32 = 0)
    (hlegal : (pieces 32 (padTo d.len data)).all entryLegal = true) (hlearn : s.aut.learn = some l)
    (hes : l.entries ++ pieces 32 (padTo d.len data) = es) (hdup : hasDuplicate (entryIds es) = false)
    (hfits : es.length ≤ modeSlots l.individual) :
    exec (.learnEntries tag data) s = .next (complete
      (auditCmd { s with aut := { s.aut with learn := some { l with entries := es } } } 2 0x06 0) 2 tag stOk
      es.length) := by
  calc exec (.learnEntries tag data) s
      = execLearnEntries tag data s := rfl
    _ = _ := by
      rw [execLearnEntries, hollyChange_open hwait (by rw [hlegal]; simp [hlo, hhi, hwhole]) hp hw hb]
      simp only [hlearn, hes]
      rw [if_neg (Bool.eq_false_iff.mp hdup), if_neg (Nat.not_lt_of_le hfits)]

theorem exec_learnCommit_matching (hwait : Waiting s 2 0x07 tag d) (hlen : d.len = 32) (hp1 : d.p1 < 2 ^ 32)
    (hlearn : s.aut.learn = some l) (hcount : d.p0 = l.entries.length)
    (hdigest : sha256 l.entries.flatten = padTo 32 data) :
    exec (.learnCommit tag data) s = .next (nvRequest (markTaken (learnCommitting s l) 2 tag false)
      (hollyItems (nextHollyGen (learnCommitting s l)) (learnedSet l d.p1)) (.learn tag (learnedSet l d.p1))) := by
  calc exec (.learnCommit tag data) s
      = execLearnCommit tag data s := rfl
    _ = _ := by
      rw [execLearnCommit, hollyChange_open hwait (by simp only [hlen, hp1]; rfl) hp hw hb]
      simp only [hlearn]
      rw [if_neg (by simp [hcount, hdigest]), learnCommitting]

section
variable (hwait : Waiting s 2 0x08 tag d)
include hwait

theorem exec_learnCancel_openLearn (hlearn : s.aut.learn = some l) :
    exec (.learnCancel tag) s =
      .next (complete (auditCmd { s with aut := { s.aut with learn := none } } 2 0x08 0) 2 tag stOk 0) := by
  calc exec (.learnCancel tag) s
      = execLearnCancel tag s := rfl
    _ = _ := by rw [execLearnCancel, hollyChange_open hwait rfl hp hw hb, if_pos (by simp [hlearn])]

theorem exec_learnCancel_pendingSet (hlearn : s.aut.learn = none) (hset : s.aut.pendingSet.isSome = true) :
    exec (.learnCancel tag) s = .next (requestTable tag 8 HollySlot.empty s) := by
  calc exec (.learnCancel tag) s
      = execLearnCancel tag s := rfl
    _ = _ := by
      rw [execLearnCancel, hollyChange_open hwait rfl hp hw hb, if_neg (by simp [hlearn]), if_pos hset]

end

section
variable (hwait : Waiting s 2 0x09 tag d)
include hwait

theorem exec_unlock_requested (hitems : (unlockItems s d.p0).isEmpty = false) :
    exec (.unlock tag) s = .next (nvRequest (markTaken s 2 tag false) (unlockItems s d.p0) (.unlock tag d.p0)) := by
  calc exec (.unlock tag) s
      = execUnlock tag s := rfl
    _ = _ := by rw [execUnlock, hollyChange_open hwait rfl hp hw hb, if_neg (Bool.eq_false_iff.mp hitems)]

theorem exec_unlock_atOnce (hitems : (unlockItems s d.p0).isEmpty = true) :
    exec (.unlock tag) s = .next (commitEffect s (.unlock tag d.p0)) := by
  calc exec (.unlock tag) s
      = execUnlock tag s := rfl
    _ = _ := by rw [execUnlock, hollyChange_open hwait rfl hp hw hb, if_pos hitems]

end

end

/-- Settles O19: a reading command by what R213 permits, a change by its frame and then by the table, learn or counter. -/
theorem hollyRing : Obligations.HollyRing := by
  refine ⟨?enroll, ?enrollProtected, ?revoke, ?revokeAbsent, ?readSlot, ?readSlotRefused, ?find, ?learnBegin,
    ?learnEntries, ?learnCommit, ?cancelOpen, ?cancelPending, ?unlock, ?unlockAtOnce, ?digest⟩
  case enroll =>
    intro s tag d data hwait hlen hentry hp hw hb
    exact exec_enroll_open hp hw hb hwait hlen hentry
  case enrollProtected =>
    intro s tag d data hwait hlen hentry hp hw
    exact exec_enroll_protected hwait hlen hentry hp hw
  case revoke =>
    intro s tag d hwait hp hw hb
    exact exec_revoke_open hp hw hb hwait
  case revokeAbsent =>
    intro s tag d hwait hp hw hb ho hn
    exact exec_revoke_absent hp hw hb hwait ho hn
  case readSlot =>
    intro s tag d hwait hlen hp hslot
    exact exec_readSlot_permitted hwait hlen hp hslot
  case readSlotRefused =>
    intro s tag d hwait hlen hp
    exact exec_readSlot_refused hwait hlen hp
  case find =>
    intro s tag d hwait hp
    exact exec_find_permitted hwait hp
  case learnBegin =>
    intro s tag d hwait hp0 hp hw hb hepoch hlearn hset
    exact exec_learnBegin_quickset hp hw hb hwait hp0 hepoch hlearn hset
  case learnEntries =>
    intro s tag d data l hwait hlo hhi hwhole hlegal hp hw hb hlearn hdup hfits
    exact exec_learnEntries_staged hp hw hb hwait hlo hhi hwhole hlegal hlearn rfl hdup hfits
  case learnCommit =>
    intro s tag d data l hwait hlen hp1 hp hw hb hlearn hcount hdigest
    exact exec_learnCommit_matching hp hw hb hwait hlen hp1 hlearn hcount hdigest
  case cancelOpen =>
    intro s tag d l hwait hp hw hb hlearn
    exact exec_learnCancel_openLearn hp hw hb hwait hlearn
  case cancelPending =>
    intro s tag d hwait hp hw hb hlearn hset
    exact exec_learnCancel_pendingSet hp hw hb hwait hlearn hset
  case unlock =>
    intro s tag d hwait hp hw hb hitems
    exact exec_unlock_requested hp hw hb hwait hitems
  case unlockAtOnce =>
    intro s tag d hwait hp hw hb hitems
    exact exec_unlock_atOnce hp hw hb hwait hitems
  case digest =>
    intro s tag d hwait hlen hp
    exact exec_digest_permitted hwait hlen hp

end Sys2Proof.Machine
end

section
/-! PROOFS. Lock-outs and learned sets (08_tokens_and_challenge.md R218, R221, R223, R224): the time of a learned set, the
ends of lock-outs and their checkpoint. -/
namespace Sys2Proof.Machine

/-! ### The time of a learned set (R218) -/

section
variable {s : State} {h : HollySet} (hset : s.aut.pendingSet = some h)
include hset

/-- A set that waits replaces the table where the RTC is set and has reached its time and no write of the table runs. -/
theorem exec_learnedSetEffective_pending :
    exec .learnedSetEffective s = .next
      (s.when (s.rtcSet && decide (h.time ≤ s.rtc) && !hollyWriting s) fun u => tableReplaced u h) := by
  calc exec .learnedSetEffective s
      = execLearnedSetEffective s := rfl
    _ = _ := by rw [execLearnedSetEffective, hset]

theorem exec_learnedSetEffective_due (hrtc : s.rtcSet = true) (htime : h.time ≤ s.rtc) (hw : hollyWriting s = false) :
    exec .learnedSetEffective s = .next (tableReplaced s h) := by
  rw [exec_learnedSetEffective_pending hset, hrtc, decide_eq_true htime, hw]
  rfl

theorem exec_learnedSetEffective_rtcLost (hrtc : s.rtcSet = false) : exec .learnedSetEffective s = .next s := by
  rw [exec_learnedSetEffective_pending hset, hrtc]
  rfl

end

/-! ### Lock-outs (R221, R223, R224) -/

theorem exec_lockoutEnd {s : State} {slot : Nat} (hr : rolesThere s (.lockoutEnd slot) = true) :
    exec (.lockoutEnd slot) s = .next s := by
  calc exec (.lockoutEnd slot) s
      = execLockoutEnd slot s := rfl
    _ = _ := by rw [execLockoutEnd, inputTo_there hr]

theorem exec_unknownLockoutEnd {s : State} (hr : rolesThere s .unknownLockoutEnd = true) :
    exec .unknownLockoutEnd s = .next s := by
  calc exec .unknownLockoutEnd s
      = execUnknownLockoutEnd s := rfl
    _ = _ := by rw [execUnknownLockoutEnd, inputTo_there hr]

theorem exec_lockoutCheckpoint_changed {s : State} (hr : rolesThere s .lockoutCheckpoint = true)
    (hchanged : s.aut.locksChanged = true) :
    exec .lockoutCheckpoint s = .next (requestLockCheckpoint s) := by
  calc exec .lockoutCheckpoint s
      = execLockoutCheckpoint s := rfl
    _ = _ := by rw [execLockoutCheckpoint, inputTo_there hr, hchanged, when_true]

/-- Settles O20: a pending set by the RTC and the store, and each lock-out's event with its role there. -/
theorem lockOuts : Obligations.LockOuts := by
  refine ⟨?due, ?rtcLost, fun _ _ hr => exec_lockoutEnd hr, fun _ hr => exec_unknownLockoutEnd hr, ?checkpoint⟩
  case due =>
    intro s h hset hrtc htime hw
    exact exec_learnedSetEffective_due hset hrtc htime hw
  case rtcLost =>
    intro s h hset hrtc
    exact exec_learnedSetEffective_rtcLost hset hrtc
  case checkpoint =>
    intro s hr hchanged
    exact exec_lockoutCheckpoint_changed hr hchanged

end Sys2Proof.Machine
end

section
/-! PROOFS. What ends sessions and requests (09_release_and_sessions.md R232, R234, R240, R242, R243, R246, R253, R256;
10_energy_metrology.md R270): the KEEP latch, the times that run out, the auxiliary ADC's frame and the readback. -/
namespace Sys2Proof.Machine

/-! ### The KEEP latch (R232; 02 R41) -/

/-- The latch has taken the group: none of its opens waits for RELAg any longer. -/
def latchTaken (s : State) (g : Nat) : State :=
  { s with rel := { s.rel with latch := s.rel.latch.filter (fun l => l.2.2 != g) } }

/-- In `u`, the opens of the group that waited for RELAg in `s` are settled with their session's number. -/
def latchSettled (s : State) (g : Nat) (u : State) : State :=
  (s.rel.latch.filter (fun l => l.2.2 == g)).foldl
    (fun u l => settle u l.1 l.2.1 (some (.opened (numberOn u g (ctxId u l.1))))) u

section
variable {s : State} {g : Nat} (hg : g < 2)
include hg

theorem exec_releaseLatchTaken_falls (ha : bitAt s.rel.relA g = true) (hrel : groupReleased s g = false) :
    exec (.releaseLatchTaken g) s = .next (setRelA (latchTaken s g) g false) := by
  calc exec (.releaseLatchTaken g) s
      = execReleaseLatchTaken g s := rfl
    _ = _ := by simp [execReleaseLatchTaken, latchTaken, hg, ha, hrel]

theorem exec_releaseLatchTaken_rises (ha : bitAt s.rel.relA g = false) (hrel : groupReleased s g = true) :
    exec (.releaseLatchTaken g) s = .next (latchSettled s g (setRelA (latchTaken s g) g true)) := by
  calc exec (.releaseLatchTaken g) s
      = execReleaseLatchTaken g s := rfl
    _ = _ := by simp [execReleaseLatchTaken, latchTaken, latchSettled, hg, ha, hrel]

/-- Released again before RELAg fell: the latch finds only the opens that wait. -/
theorem exec_releaseLatchTaken_stays (ha : bitAt s.rel.relA g = true) (hrel : groupReleased s g = true)
    (hwaits : s.rel.latch.any (fun l => l.2.2 == g) = true) :
    exec (.releaseLatchTaken g) s = .next (latchSettled s g (latchTaken s g)) := by
  have hdue : (decide (g < 2) && (bitAt s.rel.relA g != groupReleased s g ||
      s.rel.latch.any (fun l => l.2.2 == g))) = true := by
    rw [decide_eq_true hg, hwaits, Bool.or_true, Bool.and_true]
  calc exec (.releaseLatchTaken g) s
      = execReleaseLatchTaken g s := rfl
    _ = _ := by
      rw [execReleaseLatchTaken, hdue, when_true]
      simp only [ha, hrel, beq_self_eq_true, if_true, latchSettled, latchTaken]

end

/-! ### Requests (R240, R242; 02 R41) -/

theorem exec_grantAnswerTimeout {s : State} {c g : Nat} (hr : rolesThere s (.grantAnswerTimeout c g) = true) :
    exec (.grantAnswerTimeout c g) s = .next (settle s c g none) := by
  calc exec (.grantAnswerTimeout c g) s
      = execGrantAnswerTimeout c g s := rfl
    _ = _ := by rw [execGrantAnswerTimeout, inputTo_there hr]

theorem exec_queueWaitExpiry {s : State} {n : Nat} {r : OpenReq} (hq : s.rel.queue[n]? = some r) :
    exec (.queueWaitExpiry n) s =
      .next (refuseReq { s with rel := { s.rel with queue := s.rel.queue.eraseIdx n } } r rsExpired) := by
  calc exec (.queueWaitExpiry n) s
      = execQueueWaitExpiry n s := rfl
    _ = _ := by rw [execQueueWaitExpiry, hq]

theorem exec_sessionCeilingCommit {s : State} {q : NvReq} {l : List NvReq} {c : Nat} {ok : Bool}
    (hr : rolesThere s (.sessionCeilingCommit ok) = true) (hq : s.nvs.queue = q :: l) (he : q.eff = .sessionCeiling c) :
    exec (.sessionCeilingCommit ok) s = .next (commitFront ok true s) := by
  calc exec (.sessionCeilingCommit ok) s
      = execSessionCeilingCommit ok s := rfl
    _ = _ := by simp only [execSessionCeilingCommit, inputTo_there hr, hq, he]

/-! ### Sessions (R243, R246, R253, R256) -/

theorem exec_sessionTimeout {s : State} {i : Nat} (hi : i < 8) (hp : (s.sess i).phase = .open) :
    exec (.sessionTimeout i) s = .next (endEntry s i 0x01) := by
  calc exec (.sessionTimeout i) s
      = execSessionTimeout i s := rfl
    _ = _ := by rw [execSessionTimeout, decide_eq_true hi, hp, beq_self_eq_true, Bool.and_self, when_true]

theorem exec_holdMaxtimeExpiry {s : State} {i : Nat} (hi : i < 8) (hp : (s.sess i).phase = .holding) :
    exec (.holdMaxtimeExpiry i) s = .next (endEntry s i 0x0C) := by
  calc exec (.holdMaxtimeExpiry i) s
      = execHoldMaxtimeExpiry i s := rfl
    _ = _ := by rw [execHoldMaxtimeExpiry, decide_eq_true hi, hp, beq_self_eq_true, Bool.and_self, when_true]

/-- The block's mean is the hold sample, valid while pair A is usable, and the next block is empty. -/
def holdSampled (s : State) : State :=
  { s with rel := { s.rel with
    hold := (s.rel.holdBlock.1 / s.rel.holdBlock.2, pairUsable s false), holdBlock := (0, 0) } }

theorem exec_holdSample_notHigh {s : State} (hr : rolesThere s .holdSample = true) (hblock : 80 ≤ s.rel.holdBlock.2)
    (hlow : holdHigh (holdSampled s) = false) :
    exec .holdSample s = .next (endEntries (holdSampled s) (fun e => e.phase == .holding) 0x0B) := by
  rw [holdSampled] at hlow ⊢
  calc exec .holdSample s
      = execHoldSample s := rfl
    _ = _ := by
      simp only [execHoldSample, inputTo_there hr, decide_eq_true hblock, when_true, hlow, Bool.false_eq_true, if_false]

theorem exec_faultGraceExpiry {s : State} (hm : s.mode = .failed) (hgrace : s.pwr.graceEnd.isSome = true) :
    exec .faultGraceExpiry s = .next (endGrace s) := by
  calc exec .faultGraceExpiry s
      = execFaultGraceExpiry s := rfl
    _ = _ := by rw [execFaultGraceExpiry, hm, hgrace, beq_self_eq_true, Bool.and_self, when_true]

theorem exec_groupDisable {s : State} {g : Nat} (hg : g < 2) (hm : s.mode = .running) :
    exec (.groupDisable g) s = .next (auditedWrite 0 ((Reg.relGroupEn g).key / 32)
      (fun u => groupDisabled g (storeField u (Reg.relGroupEn g) .immediate 0)) s) := by
  calc exec (.groupDisable g) s
      = execGroupDisable g s := rfl
    _ = _ := by rw [execGroupDisable, decide_eq_true hg, hm, beq_self_eq_true, Bool.and_self, when_true]

/-! ### The auxiliary ADC (R236, R237; 10 R270) -/

/-- The doors of one frame, in order. -/
def doorsSampled (d : List Nat) (s : State) : State :=
  [0, 1, 2, 3].foldl (fun u n => doorSample u n (auxCode (nth 0 d n))) s

/-- The readbacks of one frame, in order. -/
def readbacksSampled (r : List Nat) (s : State) : State :=
  [0, 1].foldl (fun u g => rbSample u g (auxCode (nth 0 r g))) s

/-- The two AUX pins whose turn it is. -/
def auxPinsSampled (a : List Nat) (s : State) : State :=
  auxSample (auxSample s (2 * s.mtr.auxTurn) (auxCode (nth 0 a 0))) (2 * s.mtr.auxTurn + 1) (auxCode (nth 0 a 1))

/-- The next two AUX pins of the rotation have their turn. -/
def auxTurned (s : State) : State := { s with mtr := { s.mtr with auxTurn := (s.mtr.auxTurn + 1) % 4 } }

theorem exec_auxAdcFrame {s : State} {d r a : List Nat} (hm : (s.mode == .running || s.mode == .failed) = true)
    (hdeep : s.pwr.deep = none) :
    exec (.auxAdcFrame d r a) s = .next ((fun u : State => setGovernor u u.pwr.thermLevel (hotPins u))
      (auxTurned (auxPinsSampled a (readbacksSampled r (doorsSampled d s))))) := by
  calc exec (.auxAdcFrame d r a) s
      = execAuxAdcFrame d r a s := rfl
    _ = _ := by
      rw [execAuxAdcFrame, hm, hdeep, Option.isNone_none, Bool.and_self, when_true]
      rfl

/-! ### The readback (R234) -/

section
variable {s : State} {g : Nat} (hg : g < 2) (hen : rbEnabled s g = true)
  (hmis : (s.readback g).mismatch.isSome = true)
include hg hen hmis

theorem exec_readbackTimeout_low (ha : bitAt s.rel.relA g = true) :
    exec (.readbackTimeout g) s = .next (event (s.raiseBit Reg.relFaultRbLow g) blkRel g []) := by
  calc exec (.readbackTimeout g) s
      = execReadbackTimeout g s := rfl
    _ = _ := by
      rw [execReadbackTimeout, decide_eq_true hg, hen, hmis, Bool.and_self, Bool.and_self, when_true, if_pos ha]

theorem exec_readbackTimeout_stuck (ha : bitAt s.rel.relA g = false) :
    exec (.readbackTimeout g) s =
      .next (event ((s.setReadback g { s.readback g with stuck := true }).raiseBit Reg.relFaultRbStuck g) blkRel
        (2 + g) []) := by
  calc exec (.readbackTimeout g) s
      = execReadbackTimeout g s := rfl
    _ = _ := by
      rw [execReadbackTimeout, decide_eq_true hg, hen, hmis, Bool.and_self, Bool.and_self, when_true,
        if_neg (Bool.eq_false_iff.mp ha)]

end

/-- Settles O21: the latch by RELAg and the group, each time that runs out by what still waits for it, the auxiliary ADC's
frame in its order, and the readback by RELAg. -/
theorem sessionEndsAndOutputs : Obligations.SessionEndsAndOutputs := by
  refine ⟨?falls, ?rises, ?stays, fun _ _ _ hr => exec_grantAnswerTimeout hr, ?session, ?hold, ?sample, ?queue, ?grace,
    ?ceiling, ?aux, ?low, ?stuck, ?disable⟩
  case falls =>
    intro s g hg ha hrel
    exact exec_releaseLatchTaken_falls hg ha hrel
  case rises =>
    intro s g hg ha hrel
    exact exec_releaseLatchTaken_rises hg ha hrel
  case stays =>
    intro s g hg ha hrel hwaits
    exact exec_releaseLatchTaken_stays hg ha hrel hwaits
  case session =>
    intro s i hi hp
    exact exec_sessionTimeout hi hp
  case hold =>
    intro s i hi hp
    exact exec_holdMaxtimeExpiry hi hp
  case sample =>
    intro s hr hblock hlow
    exact exec_holdSample_notHigh hr hblock hlow
  case queue =>
    intro s n r hq
    exact exec_queueWaitExpiry hq
  case grace =>
    intro s hm hgrace
    exact exec_faultGraceExpiry hm hgrace
  case ceiling =>
    intro s q l c ok hr hq he
    exact exec_sessionCeilingCommit hr hq he
  case aux =>
    intro s d r a hm hdeep
    exact exec_auxAdcFrame hm hdeep
  case low =>
    intro s g hg hen hmis ha
    exact exec_readbackTimeout_low hg hen hmis ha
  case stuck =>
    intro s g hg hen hmis ha
    exact exec_readbackTimeout_stuck hg hen hmis ha
  case disable =>
    intro s g hg hm
    exact exec_groupDisable hg hm

end Sys2Proof.Machine
end

section
/-! PROOFS. Release-class frames of peers (09_release_and_sessions.md R241, R248-R251): one that passes R249 does what it
says, every other is dropped and counted. -/
namespace Sys2Proof.Machine

/-! ### The check of R249 -/

theorem releaseFrameOk_keyless {s : State} (src dst seq typ len : Nat) (p : Bytes) (hk : fabricSlot s = none) :
    releaseFrameOk s src dst seq typ len p = false := by
  rw [releaseFrameOk, hk]

section
variable {s : State} {src dst seq typ len : Nat} {p : Bytes} (f : State → State) (hrun : s.mode = .running)
include hrun

theorem releaseFrame_keyless (hk : fabricSlot s = none) : releaseFrame src dst seq typ len p f s = dropRelease s := by
  simp [releaseFrame, hrun, hk, releaseFrameOk_keyless]

variable {k : Nat} (hk : fabricSlot s = some k)
include hk

theorem releaseFrame_passes (hok : releaseFrameOk (useSlot s k) src dst seq typ len p = true) :
    releaseFrame src dst seq typ len p f s = f (seqAccept (useSlot s k) src clsRelease seq) := by
  simp [releaseFrame, hrun, hk, hok]

theorem releaseFrame_fails (hok : releaseFrameOk (useSlot s k) src dst seq typ len p = false) :
    releaseFrame src dst seq typ len p f s = dropRelease (useSlot s k) := by
  simp [releaseFrame, hrun, hk, hok]

end

/-! ### The three frames (R248-R250) -/

section
variable {s : State} {src dst seq : Nat} {p : Bytes} (hrun : s.mode = .running)
include hrun

theorem exec_releaseGrant_keyless (hr : rolesThere s (.releaseGrant src dst seq p) = true) (hk : fabricSlot s = none) :
    exec (.releaseGrant src dst seq p) s = .next (dropRelease s) := by
  calc exec (.releaseGrant src dst seq p) s
      = execReleaseGrant src dst seq p s := rfl
    _ = _ := by rw [execReleaseGrant, inputTo_there hr, releaseFrame_keyless _ hrun hk]

variable {k : Nat} (hk : fabricSlot s = some k)
include hk

section
variable (hr : rolesThere s (.releaseGrant src dst seq p) = true)
include hr

theorem exec_releaseGrant_passes (hok : releaseFrameOk (useSlot s k) src dst seq 0x01 40 p = true) :
    exec (.releaseGrant src dst seq p) s =
      .next (decide_ ((seqAccept (useSlot s k) src clsRelease seq).bump Reg.relStatAccepted)
        ⟨byteAt p 1 % 2, beAt p 10 8, byteAt p 18, byteAt p 19 = 1, some src, beAt p 2 2, none, 0,
          (useSlot s k).now⟩) := by
  calc exec (.releaseGrant src dst seq p) s
      = execReleaseGrant src dst seq p s := rfl
    _ = _ := by
      rw [execReleaseGrant, inputTo_there hr, releaseFrame_passes _ hrun hk hok]
      rfl

theorem exec_releaseGrant_fails (hok : releaseFrameOk (useSlot s k) src dst seq 0x01 40 p = false) :
    exec (.releaseGrant src dst seq p) s = .next (dropRelease (useSlot s k)) := by
  calc exec (.releaseGrant src dst seq p) s
      = execReleaseGrant src dst seq p s := rfl
    _ = _ := by rw [execReleaseGrant, inputTo_there hr, releaseFrame_fails _ hrun hk hok]

end

section
variable (hr : rolesThere s (.grantAnswer src dst seq p) = true)
include hr

theorem exec_grantAnswer_passes {g : SentGrant} {a : Answer}
    (hok : releaseFrameOk (useSlot s k) src dst seq 0x02 24 p = true)
    (hg : (seqAccept (useSlot s k) src clsRelease seq).rel.sent.find?
      (fun x => x.reqNo == beAt p 2 2 && x.owner == src && x.group == byteAt p 1 % 2) = some g)
    (ha : answerOf p = some a) :
    exec (.grantAnswer src dst seq p) s =
      .next (grantAnswered (seqAccept (useSlot s k) src clsRelease seq) g a.code a.number a) := by
  calc exec (.grantAnswer src dst seq p) s
      = execGrantAnswer src dst seq p s := rfl
    _ = _ := by
      rw [execGrantAnswer, inputTo_there hr, releaseFrame_passes _ hrun hk hok]
      simp only [hg, ha]

theorem exec_grantAnswer_fails (hok : releaseFrameOk (useSlot s k) src dst seq 0x02 24 p = false) :
    exec (.grantAnswer src dst seq p) s = .next (dropRelease (useSlot s k)) := by
  calc exec (.grantAnswer src dst seq p) s
      = execGrantAnswer src dst seq p s := rfl
    _ = _ := by rw [execGrantAnswer, inputTo_there hr, releaseFrame_fails _ hrun hk hok]

end

section
variable (hr : rolesThere s (.sessionEnd src dst seq p) = true)
include hr

theorem exec_sessionEnd_passes {i : Nat} (hok : releaseFrameOk (useSlot s k) src dst seq 0x03 32 p = true)
    (hi : findSess (seqAccept (useSlot s k) src clsRelease seq) (fun e => e.live && e.number == beAt p 10 4 &&
      e.id == beAt p 14 8 && e.peer == some src) = some i) :
    exec (.sessionEnd src dst seq p) s = .next (endEntry (seqAccept (useSlot s k) src clsRelease seq) i 0x07) := by
  calc exec (.sessionEnd src dst seq p) s
      = execSessionEnd src dst seq p s := rfl
    _ = _ := by
      rw [execSessionEnd, inputTo_there hr, releaseFrame_passes _ hrun hk hok]
      simp only [hi]

theorem exec_sessionEnd_fails (hok : releaseFrameOk (useSlot s k) src dst seq 0x03 32 p = false) :
    exec (.sessionEnd src dst seq p) s = .next (dropRelease (useSlot s k)) := by
  calc exec (.sessionEnd src dst seq p) s
      = execSessionEnd src dst seq p s := rfl
    _ = _ := by rw [execSessionEnd, inputTo_there hr, releaseFrame_fails _ hrun hk hok]

end

end

/-- Settles O22: each frame by the check of R249, and one that passes it by what its payload names. -/
theorem releaseFrames : Obligations.ReleaseFrames := by
  refine ⟨?grant, ?grantKeyless, ?grantFails, ?answerFails, ?endFails, ?answer, ?ends⟩
  case grant =>
    intro s src dst seq k p hr hrun hk hok
    exact exec_releaseGrant_passes hrun hk hr hok
  case grantKeyless =>
    intro s src dst seq p hr hrun hk
    exact exec_releaseGrant_keyless hrun hr hk
  case grantFails =>
    intro s src dst seq k p hr hrun hk hok
    exact exec_releaseGrant_fails hrun hk hr hok
  case answerFails =>
    intro s src dst seq k p hr hrun hk hok
    exact exec_grantAnswer_fails hrun hk hr hok
  case endFails =>
    intro s src dst seq k p hr hrun hk hok
    exact exec_sessionEnd_fails hrun hk hr hok
  case answer =>
    intro s src dst seq k p g a hr hrun hk hok hg ha
    exact exec_grantAnswer_passes hrun hk hr hok hg ha
  case ends =>
    intro s src dst seq k i p hr hrun hk hok hi
    exact exec_sessionEnd_passes hrun hk hr hok hi

end Sys2Proof.Machine
end

section
/-! PROOFS. Ring 1 (09_release_and_sessions.md R244, R254, R255): the posted event buffer, LIST by its eight entries, and
the commands that end or prolong sessions by the number or the group that they name. -/
namespace Sys2Proof.Machine

/-! ### LIST (R255) -/

/-- Entry `i` as LIST gives it: its record in state 1 OPEN or 2 HOLDING, or kind 0x04 and zeros where it is free. -/
def listEntry (s : State) (i : Nat) : Bytes :=
  if (s.sess i).live then
    relRecord s 4 (if (s.sess i).phase == .holding then 2 else 1)
      (relFlags (s.sess i).group (s.sess i).peer.isSome (s.sess i).coil) 0 (s.sess i).id (s.sess i).number
      ((s.sess i).peer.getD s.addr) (s.sess i).role (s.sess i).opened (rtcAt s (s.sess i).deadline)
  else 0x04#8 :: zeroBytes 31

section
variable {s : State} {tag : Nat} {d : Desc}

theorem exec_eventBuffer (hwait : Waiting s 1 0x01 tag d) (hlen : 32 ≤ d.len) :
    exec (.eventBuffer tag) s = .next (markTaken s 1 tag false) := by
  calc exec (.eventBuffer tag) s
      = execEventBuffer tag s := rfl
    _ = _ := by rw [execEventBuffer, postBuffer_longEnough hwait hlen]

theorem exec_list (hwait : Waiting s 1 0x02 tag d) (hlen : d.len = 256) :
    exec (.list tag) s = .next (completeData s 1 d (entries.flatMap (listEntry s)) (liveCount s)) := by
  calc exec (.list tag) s
      = execList tag s := rfl
    _ = _ := by
      rw [execList, ringCmdIf_legal hwait _ (decide_eq_true hlen)]
      refine congrArg (fun entry : Nat → Bytes =>
        (.next (completeData s 1 d (entries.flatMap entry) (liveCount s)) : Ans)) (funext fun i => ?_)
      match hp : (s.sess i).phase with
      | .free => simp [listEntry, SessionEntry.live, hp]
      | .open => simp [listEntry, SessionEntry.live, hp]
      | .holding => simp [listEntry, SessionEntry.live, hp]

/-! ### END and END_GROUP (R244, R254) -/

section
variable (hwait : Waiting s 1 0x03 tag d) (hp0 : d.p0 < 2 ^ 32) (hp1 : d.p1 < 2)
include hwait hp0 hp1

theorem exec_endSession_live {i : Nat}
    (hi : findSess (auditCmd s 1 0x03 d.p0) (fun e => e.live && e.number == d.p0) = some i) :
    exec (.endSession tag) s =
      .next (complete (endEntry (auditCmd s 1 0x03 d.p0) i (if bitAt d.p1 0 then 0x06 else 0x05)) 1 tag stOk 1) := by
  calc exec (.endSession tag) s
      = execEndSession tag s := rfl
    _ = _ := by
      rw [execEndSession, ringCmdIf_legal hwait _ (by simp only [hp0, hp1, decide_true, Bool.and_self])]
      simp only [hi]

theorem exec_endSession_absent (hi : findSess (auditCmd s 1 0x03 d.p0) (fun e => e.live && e.number == d.p0) = none) :
    exec (.endSession tag) s = .next (complete (auditCmd s 1 0x03 d.p0) 1 tag stOk 0) := by
  calc exec (.endSession tag) s
      = execEndSession tag s := rfl
    _ = _ := by
      rw [execEndSession, ringCmdIf_legal hwait _ (by simp only [hp0, hp1, decide_true, Bool.and_self])]
      simp only [hi]

end

theorem exec_endGroup (hwait : Waiting s 1 0x04 tag d) (hp0 : d.p0 < 2) (hp1 : d.p1 < 2) :
    exec (.endGroup tag) s = .next (complete (endEntries (auditCmd s 1 0x04 0) (fun e => e.live && e.group == d.p0)
      (if bitAt d.p1 0 then 0x06 else 0x05)) 1 tag stOk (entries.filter (fun i => (s.sess i).group == d.p0 &&
        endsOrHolds (s.sess i) (if bitAt d.p1 0 then 0x06 else 0x05))).length) := by
  calc exec (.endGroup tag) s
      = execEndGroup tag s := rfl
    _ = _ := by rw [execEndGroup, ringCmdIf_legal hwait _ (by simp [hp0, hp1])]

/-! ### SET_DEADLINE (R254) -/

section
variable (hwait : Waiting s 1 0x05 tag d) (hp0 : d.p0 < 2 ^ 32) (hlo : 1 ≤ d.p1) (hhi : d.p1 ≤ 86400)
include hwait hp0 hlo hhi

theorem exec_setDeadline_open {i : Nat}
    (hi : findSess (auditCmd s 1 0x05 d.p0) (fun e => e.phase == .open && e.number == d.p0) = some i) :
    exec (.setDeadline tag) s = .next (complete ((auditCmd s 1 0x05 d.p0).setSess i
      { (auditCmd s 1 0x05 d.p0).sess i with deadline := (auditCmd s 1 0x05 d.p0).now + 1000 * d.p1 }) 1 tag stOk 1) := by
  calc exec (.setDeadline tag) s
      = execSetDeadline tag s := rfl
    _ = _ := by
      rw [execSetDeadline, ringCmdIf_legal hwait _ (by simp only [hp0, hlo, hhi, decide_true, Bool.and_self])]
      simp only [hi]

theorem exec_setDeadline_absent
    (hi : findSess (auditCmd s 1 0x05 d.p0) (fun e => e.phase == .open && e.number == d.p0) = none) :
    exec (.setDeadline tag) s = .next (complete (auditCmd s 1 0x05 d.p0) 1 tag stOk 0) := by
  calc exec (.setDeadline tag) s
      = execSetDeadline tag s := rfl
    _ = _ := by
      rw [execSetDeadline, ringCmdIf_legal hwait _ (by simp only [hp0, hlo, hhi, decide_true, Bool.and_self])]
      simp only [hi]

end

/-! ### END_REMOTE (R250, R254) -/

/-- The SESSION_END frame that END_REMOTE sends over route `g`, under the key in slot `k`. -/
def sendSessionEnd (s : State) (k g : Nat) (d : Desc) : State :=
  sendRelease s k (s.addr / 64 * 64 + d.p1) 0x03 ([0x03, BitVec.ofNat 8 (s.eff (relRouteTarget g)), 0, 0] ++
    beBytes 6 s.fab.time ++ beBytes 4 d.p0 ++ beBytes 8 d.addr ++ [0, 0])

section
variable (hr : rolesThere s (.endRemote tag) = true) (hwait : Waiting s 1 0x06 tag d) (hlen : d.len = 0)
  (hp1 : d.p1 < 64) (hp0 : d.p0 < 2 ^ 32)
include hr hwait hlen hp1 hp0

theorem exec_endRemote_routed {g k : Nat} (hroute : routeTo (auditCmd s 1 0x06 d.addr) d.p1 = some g)
    (hk : fabricSlot (auditCmd s 1 0x06 d.addr) = some k) :
    exec (.endRemote tag) s = .next (complete (sendSessionEnd (auditCmd s 1 0x06 d.addr) k g d) 1 tag stOk 1) := by
  calc exec (.endRemote tag) s
      = execEndRemote tag s := rfl
    _ = _ := by
      rw [execEndRemote, inputTo_there hr,
        ringCmdIf_legal hwait _ (by simp only [hlen, hp1, hp0, decide_true, Bool.and_self])]
      simp only [hroute, hk, sendSessionEnd]

theorem exec_endRemote_unrouted (hroute : routeTo (auditCmd s 1 0x06 d.addr) d.p1 = none) :
    exec (.endRemote tag) s = .next (complete (auditCmd s 1 0x06 d.addr) 1 tag stOk 0) := by
  calc exec (.endRemote tag) s
      = execEndRemote tag s := rfl
    _ = _ := by
      rw [execEndRemote, inputTo_there hr,
        ringCmdIf_legal hwait _ (by simp only [hlen, hp1, hp0, decide_true, Bool.and_self])]
      simp only [hroute]

end

end

/-- Settles O23: each command runs on the descriptor that waits for it, by the session or the route that it names. -/
theorem releaseRing : Obligations.ReleaseRing := by
  refine ⟨?buffer, ?list, ?ends, ?endAbsent, ?group, ?deadline, ?deadlineAbsent, ?remote, ?remoteUnrouted⟩
  case buffer =>
    intro s tag d hwait hlen
    exact exec_eventBuffer hwait hlen
  case list =>
    intro s tag d hwait hlen
    exact exec_list hwait hlen
  case ends =>
    intro s tag i d hwait hp0 hp1 hi
    exact exec_endSession_live hwait hp0 hp1 hi
  case endAbsent =>
    intro s tag d hwait hp0 hp1 hi
    exact exec_endSession_absent hwait hp0 hp1 hi
  case group =>
    intro s tag d hwait hp0 hp1
    exact exec_endGroup hwait hp0 hp1
  case deadline =>
    intro s tag i d hwait hp0 hlo hhi hi
    exact exec_setDeadline_open hwait hp0 hlo hhi hi
  case deadlineAbsent =>
    intro s tag d hwait hp0 hlo hhi hi
    exact exec_setDeadline_absent hwait hp0 hlo hhi hi
  case remote =>
    intro s tag g k d hr hwait hlen hp1 hp0 hroute hk
    exact exec_endRemote_routed hr hwait hlen hp1 hp0 hroute hk
  case remoteUnrouted =>
    intro s tag d hr hwait hlen hp1 hp0 hroute
    exact exec_endRemote_unrouted hr hwait hlen hp1 hp0 hroute

end Sys2Proof.Machine
end

section
/-! PROOFS. Metrology (10_energy_metrology.md R257-R269): what a decimator result is taken for, a channel's return, the
end of a cross-check window by its verdict, the checkpoint and the settings. -/
namespace Sys2Proof.Machine

/-! ### Results (R259, R260, R264-R266) -/

/-- The channels have taken these results. -/
def channelsTaken (s : State) (codes : List Int) (still : List Bool) : State :=
  meterChannels s (meterCodes s codes) still

/-- In `t`, whose channels have taken `codes`, the result counts for its source and goes into the cross-check window. -/
def resultTaken (s : State) (codes : List Int) (t : State) : State :=
  meterTake t (meterSource t) (pairSample s (meterCodes s codes) 0) (pairSample s (meterCodes s codes) 1)
    (pairKept s (meterSource t)) (pairKept s 0 && pairKept s 1)
    (!(pairIsUsable t 0 && pairIsUsable t 1) || meterSource t = 1)

section
variable {s : State} {codes : List Int} {still : List Bool}
  (hr : rolesThere s (.decimatorResult codes still) = true) (hruns : meterRuns s = true) (hcodes : codes.length = 4)
  (hstill : still.length = 4)
include hr hruns hcodes hstill

/-- MTR_CTRL.EN decides whether a result that the channels have taken counts. -/
theorem exec_decimatorResult :
    exec (.decimatorResult codes still) s = .next
      (if !(channelsTaken s codes still).on Reg.mtrCtrlEn then
        { channelsTaken s codes still with mtr := { (channelsTaken s codes still).mtr with delivered := true } }
      else resultTaken s codes (channelsTaken s codes still)) := by
  calc exec (.decimatorResult codes still) s
      = execDecimatorResult codes still s := rfl
    _ = _ := by
      rw [execDecimatorResult, inputTo_there hr, hruns, decide_eq_true hcodes, decide_eq_true hstill, Bool.and_self,
        Bool.and_self, when_true]
      rfl

theorem exec_decimatorResult_disabled (hen : (channelsTaken s codes still).on Reg.mtrCtrlEn = false) :
    exec (.decimatorResult codes still) s = .next
      { channelsTaken s codes still with mtr := { (channelsTaken s codes still).mtr with delivered := true } } := by
  rw [exec_decimatorResult hr hruns hcodes hstill, if_pos (by simp [hen])]

theorem exec_decimatorResult_enabled (hen : (channelsTaken s codes still).on Reg.mtrCtrlEn = true) :
    exec (.decimatorResult codes still) s = .next (resultTaken s codes (channelsTaken s codes still)) := by
  rw [exec_decimatorResult hr hruns hcodes hstill, if_neg (by simp [hen])]

end

theorem exec_channelUsableReturn {s : State} {c : Nat} (hr : rolesThere s (.channelUsableReturn c) = true) (hc : c < 4)
    (husable : (s.mchan c).usable = false) (hstill : (s.mchan c).still = false) (hrun : (s.mchan c).satRun < 16) :
    exec (.channelUsableReturn c) s = .next
      (raiseEvent (s.setMchan c { s.mchan c with usable := true, discard := 3, satRun := 0 }) Reg.mtrFaultChanLost
        blkMtr [BitVec.ofNat 8 c]) := by
  have hdue : (decide (c < 4) && !(s.mchan c).usable && !(s.mchan c).still && decide ((s.mchan c).satRun < 16))
      = true := by simp [hc, husable, hstill, hrun]
  calc exec (.channelUsableReturn c) s
      = execChannelUsableReturn c s := rfl
    _ = _ := by rw [execChannelUsableReturn, inputTo_there hr, hdue, when_true]

/-! ### The cross-check (R268, R269) -/

/-- MTR_PWR and MTR_CURR have taken the means of the window, and the next window is empty. -/
def windowTaken (s : State) : State :=
  ({ s with mtr := { s.mtr with window := XchkWindow.reset } }.setStat Reg.mtrPwr
    (unsignedOf 32 (divRound s.mtr.window.powSrc (1000000 * s.mtr.window.count)))).setStat Reg.mtrCurr
      (unsignedOf 32 (divRound s.mtr.window.curSrc (100 * s.mtr.window.count)))

/-- R269's verdict on the window `w` in `u`: it is bad, or deviates too far. -/
def windowTampers (u : State) (w : XchkWindow) : Bool := w.bad || u.eff Reg.mtrXchkDev < windowDeviation u w

section
variable {s : State} (hr : rolesThere s .xchkWindowEnd = true) (hcount : 0 < s.mtr.window.count)
include hr hcount

/-- A window's sessions are marked, by the verdict on it, only under the cross-check. -/
theorem exec_xchkWindowEnd :
    exec .xchkWindowEnd s = .next
      (if !(windowTaken s).on Reg.mtrCtrlXchkEn then windowTaken s
      else if windowTampers (windowTaken s) s.mtr.window then
        tamperWindow (markSessions (windowTaken s) s.mtr.window (windowDeviation (windowTaken s) s.mtr.window)
          (windowTampers (windowTaken s) s.mtr.window))
      else markSessions (windowTaken s) s.mtr.window (windowDeviation (windowTaken s) s.mtr.window)
          (windowTampers (windowTaken s) s.mtr.window)) := by
  calc exec .xchkWindowEnd s
      = execXchkWindowEnd s := rfl
    _ = _ := by
      rw [execXchkWindowEnd, inputTo_there hr, decide_eq_true hcount, when_true]
      rfl

theorem exec_xchkWindowEnd_unchecked (hoff : (windowTaken s).on Reg.mtrCtrlXchkEn = false) :
    exec .xchkWindowEnd s = .next (windowTaken s) := by
  rw [exec_xchkWindowEnd hr hcount, if_pos (by simp [hoff])]

theorem exec_xchkWindowEnd_tampered (hon : (windowTaken s).on Reg.mtrCtrlXchkEn = true)
    (htamper : windowTampers (windowTaken s) s.mtr.window = true) :
    exec .xchkWindowEnd s = .next (tamperWindow
      (markSessions (windowTaken s) s.mtr.window (windowDeviation (windowTaken s) s.mtr.window) true)) := by
  rw [exec_xchkWindowEnd hr hcount, if_neg (by simp [hon]), htamper, if_pos rfl]

theorem exec_xchkWindowEnd_agreed (hon : (windowTaken s).on Reg.mtrCtrlXchkEn = true)
    (hagree : windowTampers (windowTaken s) s.mtr.window = false) :
    exec .xchkWindowEnd s = .next
      (markSessions (windowTaken s) s.mtr.window (windowDeviation (windowTaken s) s.mtr.window) false) := by
  rw [exec_xchkWindowEnd hr hcount, if_neg (by simp [hon]), hagree, if_neg Bool.false_ne_true]

end

/-! ### The checkpoint and the settings (R261, R267) -/

theorem exec_meterCheckpoint {s : State} (hr : rolesThere s .meterCheckpoint = true)
    (hm : (s.mode == .running || s.mode == .failed) = true) (hchanged : s.mtr.changed = true)
    (hnone : nvWaits s (· == .checkpoint) = false) :
    exec .meterCheckpoint s = .next
      (nvRequest { s with mtr := { s.mtr with changed := false } } (meterItems s false) .checkpoint) := by
  calc exec .meterCheckpoint s
      = execMeterCheckpoint s := rfl
    _ = _ := by
      rw [execMeterCheckpoint, inputTo_there hr, hm, hchanged, hnone, Bool.not_false, Bool.and_self, Bool.and_self,
        when_true]

theorem exec_meterSettingsApply {s : State} (hr : rolesThere s .meterSettingsApply = true)
    (hpending : s.mtr.settingsPending = true) (hlive : liveCount s = 0) :
    exec .meterSettingsApply s = .next
      ([0, 1, 2, 3].foldl (fun u n => u.setMchan n { u.mchan n with discard := 3 })
        (applyTiming .meterSettings { s with mtr := { s.mtr with settingsPending := false } })) := by
  calc exec .meterSettingsApply s
      = execMeterSettingsApply s := rfl
    _ = _ := by
      rw [execMeterSettingsApply, inputTo_there hr, hpending, decide_eq_true hlive, Bool.and_self, when_true]

/-- Settles O24: a result by MTR_CTRL.EN, a window by the cross-check and its verdict, the rest by what is due. -/
theorem meterSamples : Obligations.MeterSamples := by
  refine ⟨?disabled, ?enabled, ?returns, ?unchecked, ?tampered, ?agreed, ?checkpoint, ?settings⟩
  case disabled =>
    intro s codes still hr hruns hcodes hstill hen
    exact exec_decimatorResult_disabled hr hruns hcodes hstill hen
  case enabled =>
    intro s codes still hr hruns hcodes hstill hen
    exact exec_decimatorResult_enabled hr hruns hcodes hstill hen
  case returns =>
    intro s c hr hc husable hstill hrun
    exact exec_channelUsableReturn hr hc husable hstill hrun
  case unchecked =>
    rintro s u hr rfl hcount hoff
    exact exec_xchkWindowEnd_unchecked hr hcount hoff
  case tampered =>
    rintro s u hr rfl hcount hon htamper
    exact exec_xchkWindowEnd_tampered hr hcount hon htamper
  case agreed =>
    rintro s u hr rfl hcount hon hagree
    exact exec_xchkWindowEnd_agreed hr hcount hon hagree
  case checkpoint =>
    intro s hr hm hchanged hnone
    exact exec_meterCheckpoint hr hm hchanged hnone
  case settings =>
    intro s hr hpending hlive
    exact exec_meterSettingsApply hr hpending hlive

end Sys2Proof.Machine
end

section
/-! PROOFS. Receipts and ring 6 (10_energy_metrology.md R271-R279, R282): a session's figures formed or rolled up, the
way of a receipt through the store, and the commands of ring 6 on the descriptor that waits for them. -/
namespace Sys2Proof.Machine

/-! ### Receipts formed (R271, R276) -/

/-- The oldest draft has left the queue, and the flag of a missing power-fail checkpoint with it. -/
def draftTaken (s : State) (l : List Draft) : State :=
  { s with mtr := { s.mtr with due := l }, nvs := { s.nvs with firstReceiptFlag := false } }

/-- The figures of a draft, with bit 4 after a start that found no power-fail checkpoint (R267). -/
def draftFigures (s : State) (d : Draft) : Draft :=
  if s.nvs.firstReceiptFlag then { d with flags := setBit d.flags 4 } else d

/-- A receipt formed waits behind those before it. -/
def receiptHeld (s : State) (d : Draft) : State := { s with mtr := { s.mtr with formed := s.mtr.formed ++ [d] } }

/-- MTR_FAULT.ROLLUP tells of a roll-up that opens. -/
def rollUpReported (s : State) : State := if s.mtr.rollup.isNone then s.raise Reg.mtrFaultRollup else s

/-- The figures are added to the roll-up, which opens with them where none was open. -/
def rolledUp (s : State) (d : Draft) : State :=
  { s with mtr := { s.mtr with rollup := some (rollUpAdd s.mtr.rollup d) } }

section
variable {s : State} {d : Draft} {l : List Draft} (hr : rolesThere s .receiptFormed = true) (hdue : s.mtr.due = d :: l)
  (hrole : s.roleThere 9 = true)
include hr hdue hrole

/-- A draft becomes a receipt, or part of the roll-up while the log is full. -/
theorem exec_receiptFormed :
    exec .receiptFormed s = .next (lcProceeds
      (if logFull (draftTaken s l) then requestRollUp (rolledUp (rollUpReported (draftTaken s l)) (draftFigures s d))
      else startReceipt (receiptHeld (draftTaken s l) (draftFigures s d)))) := by
  calc exec .receiptFormed s
      = execReceiptFormed s := rfl
    _ = _ := by
      rw [execReceiptFormed, inputTo_there hr, hdue, hrole]
      rfl

theorem exec_receiptFormed_held (hfull : logFull (draftTaken s l) = false) :
    exec .receiptFormed s = .next (lcProceeds (startReceipt (receiptHeld (draftTaken s l) (draftFigures s d)))) := by
  rw [exec_receiptFormed hr hdue hrole, if_neg (Bool.eq_false_iff.mp hfull)]

theorem exec_receiptFormed_rolledUp (hfull : logFull (draftTaken s l) = true) :
    exec .receiptFormed s = .next (lcProceeds
      (requestRollUp (rolledUp (rollUpReported (draftTaken s l)) (draftFigures s d)))) := by
  rw [exec_receiptFormed hr hdue hrole, if_pos hfull]

end

/-! ### Receipts committed (R273, R274, R276) -/

theorem exec_receiptCommitted {s : State} {q : NvReq} {l : List NvReq} {i : RecItem} {r : List RecItem} {n : Nat}
    {b : Bytes} {ok v : Bool} (hr : rolesThere s (.receiptCommitted ok v) = true) (hq : s.nvs.queue = q :: l)
    (he : q.eff = .receipt n b) (hi : q.items = i :: r) (ha : i.area = .receipt) :
    exec (.receiptCommitted ok v) s = .next (commitFront ok v s) := by
  calc exec (.receiptCommitted ok v) s
      = execReceiptCommitted ok v s := rfl
    _ = _ := by
      simp only [execReceiptCommitted, inputTo_there hr, hq, he, hi, ha, beq_self_eq_true, when_true]

theorem exec_receiptKeyUsable {s : State} (hr : rolesThere s .receiptKeyUsable = true)
    (hslot : (receiptSlot s).isSome = true) :
    exec .receiptKeyUsable s = .next (startReceipt s) := by
  calc exec .receiptKeyUsable s
      = execReceiptKeyUsable s := rfl
    _ = _ := by rw [execReceiptKeyUsable, inputTo_there hr, hslot, when_true]

/-- A record of the roll-up waits for the store. -/
def rollUpQueued (s : State) : Bool := s.nvs.queue.any (fun q => q.items.any (fun i => i.key == 0x0142))

section
variable {s : State} (hr : rolesThere s .receiptCommitRetry = true)
  (hstand : standing (startReceipt (ackAgain s)) 0x0142 = none)
include hr hstand

/-- Where no record of a roll-up stands, one is asked for while a roll-up is open and none is queued. -/
theorem exec_receiptCommitRetry :
    exec .receiptCommitRetry s = .next
      (if (startReceipt (ackAgain s)).mtr.rollup.isNone || rollUpQueued (startReceipt (ackAgain s)) then
        startReceipt (ackAgain s)
      else requestRollUp (startReceipt (ackAgain s))) := by
  calc exec .receiptCommitRetry s
      = execReceiptCommitRetry s := rfl
    _ = _ := by
      rw [execReceiptCommitRetry, inputTo_there hr]
      simp only [hstand]
      rfl

theorem exec_receiptCommitRetry_noRollUp (hroll : (startReceipt (ackAgain s)).mtr.rollup = none) :
    exec .receiptCommitRetry s = .next (startReceipt (ackAgain s)) := by
  rw [exec_receiptCommitRetry hr hstand, if_pos (by simp [hroll])]

theorem exec_receiptCommitRetry_rollUp (hroll : (startReceipt (ackAgain s)).mtr.rollup.isSome = true)
    (hqueue : rollUpQueued (startReceipt (ackAgain s)) = false) :
    exec .receiptCommitRetry s = .next (requestRollUp (startReceipt (ackAgain s))) := by
  rw [exec_receiptCommitRetry hr hstand, if_neg (by simp [Option.ne_none_iff_isSome.mpr hroll, hqueue])]

end

/-! ### Ring 6: buffers and acknowledgements (R274, R275, R279) -/

/-- NVWP leaves an unprotected change alone: it is made once none of its ring waits. -/
theorem changeCmd_unprotected {n : Nat} {d : Desc} {f : State → State} {s : State} (hb : nvBusy s n = false) :
    changeCmd n d false f s = f s := by
  rw [changeCmd, Bool.false_and, if_neg Bool.false_ne_true, if_neg (Bool.eq_false_iff.mp hb)]

section
variable {s : State} {tag : Nat} {d : Desc}

theorem exec_receiptBuffer (hr : rolesThere s (.receiptBuffer tag) = true) (hwait : Waiting s 6 0x01 tag d)
    (hlen : 112 ≤ d.len) :
    exec (.receiptBuffer tag) s = .next (postReceipts 2048 (markTaken s 6 tag false)) := by
  calc exec (.receiptBuffer tag) s
      = execReceiptBuffer tag s := rfl
    _ = _ := by rw [execReceiptBuffer, inputTo_there hr, postBuffer_longEnough hwait hlen]

section
variable (hr : rolesThere s (.ack tag) = true) (hwait : Waiting s 6 0x02 tag d)
include hr hwait

theorem exec_ack_unissued (hnext : s.mtr.rcptNext ≤ d.p0) :
    exec (.ack tag) s = .next (complete s 6 tag stBadField 0) := by
  calc exec (.ack tag) s
      = execAck tag s := rfl
    _ = _ := by rw [execAck, inputTo_there hr, ringCmd_waiting hwait, if_pos hnext]

section
variable (hissued : d.p0 < s.mtr.rcptNext)
include hissued

theorem exec_ack_again (hold : d.p0 ≤ s.mtr.rcptAck) :
    exec (.ack tag) s = .next (complete s 6 tag stOk (unackedCount s)) := by
  calc exec (.ack tag) s
      = execAck tag s := rfl
    _ = _ := by
      rw [execAck, inputTo_there hr, ringCmd_waiting hwait, if_neg (Nat.not_le_of_lt hissued), if_pos hold]

theorem exec_ack_requested (hnew : s.mtr.rcptAck < d.p0) (hb : nvBusy s 6 = false) :
    exec (.ack tag) s =
      .next (nvRequest (markTaken s 6 tag true) (ackItems s d.p0) (.ack (some tag) d.p0)) := by
  calc exec (.ack tag) s
      = execAck tag s := rfl
    _ = _ := by
      rw [execAck, inputTo_there hr, ringCmd_waiting hwait, if_neg (Nat.not_le_of_lt hissued),
        if_neg (Nat.not_le_of_lt hnew), changeCmd_unprotected hb]

end

end

/-! ### Ring 6: what it reads (R279, R282) -/

section
variable (hr : rolesThere s (.readReceipt tag) = true) (hwait : Waiting s 6 0x03 tag d) (hlen : d.len = 112)
include hr hwait hlen

theorem exec_readReceipt_absent (hlog : loggedReceipt s d.p0 = none) :
    exec (.readReceipt tag) s = .next (completeData s 6 d (zeroBytes 112) 0) := by
  calc exec (.readReceipt tag) s
      = execReadReceipt tag s := rfl
    _ = _ := by
      rw [execReadReceipt, inputTo_there hr, ringCmdIf_legal hwait _ (decide_eq_true hlen), hlog]

section
variable {b : Bytes} (hlog : loggedReceipt s d.p0 = some b)
include hlog

theorem exec_readReceipt_logged (hnew : s.mtr.rcptAck < d.p0) (hissued : d.p0 < s.mtr.rcptNext) :
    exec (.readReceipt tag) s = .next (completeData s 6 d b 1) := by
  calc exec (.readReceipt tag) s
      = execReadReceipt tag s := rfl
    _ = _ := by
      rw [execReadReceipt, inputTo_there hr, ringCmdIf_legal hwait _ (decide_eq_true hlen), hlog]
      exact congrArg Host.Outcome.next (if_pos (by simp [hnew, hissued]))

theorem exec_readReceipt_acknowledged (hold : d.p0 ≤ s.mtr.rcptAck) :
    exec (.readReceipt tag) s = .next (completeData s 6 d (zeroBytes 112) 0) := by
  calc exec (.readReceipt tag) s
      = execReadReceipt tag s := rfl
    _ = _ := by
      rw [execReadReceipt, inputTo_there hr, ringCmdIf_legal hwait _ (decide_eq_true hlen), hlog]
      exact congrArg Host.Outcome.next (if_neg (by simp [Nat.not_lt_of_le hold]))

end

end

theorem exec_counters (hr : rolesThere s (.counters tag) = true) (hwait : Waiting s 6 0x04 tag d) (hlen : d.len = 32) :
    exec (.counters tag) s = .next (completeData s 6 d ((lifeCounters s).flatMap (leBytes 6) ++ leBytes 4 s.rtc ++
      leBytes 2 s.mtr.epoch ++ [BitVec.ofNat 8 (setupValue s 0x300C), 0]) 0) := by
  calc exec (.counters tag) s
      = execCounters tag s := rfl
    _ = _ := by rw [execCounters, inputTo_there hr, ringCmdIf_legal hwait _ (decide_eq_true hlen)]

theorem exec_counterLoRead {n : Nat} (hn : n < 4) :
    exec (.counterLoRead n) s = .next (answerRead ((Reg.mtrLifeLo n).key / 32) s) := by
  calc exec (.counterLoRead n) s
      = execCounterLoRead n s := rfl
    _ = _ := by rw [execCounterLoRead, decide_eq_true hn, when_true]

/-! ### Ring 6: the rollover (R278) -/

theorem exec_rollNonce (hr : rolesThere s (.rollNonce tag) = true) (hwait : Waiting s 6 0x05 tag d)
    (hlen : d.len = 16) :
    exec (.rollNonce tag) s = .next ((fun p : Nat × State =>
      completeData { p.2 with mtr := { p.2.mtr with rollNonce := some (p.1, true) } } 6 d (beBytes 16 p.1) 0)
        s.draw) := by
  calc exec (.rollNonce tag) s
      = execRollNonce tag s := rfl
    _ = _ := by rw [execRollNonce, inputTo_there hr, ringCmdIf_legal hwait _ (decide_eq_true hlen)]

theorem exec_rollNonceExpiry {v : Nat} {f : Bool} (hr : rolesThere s .rollNonceExpiry = true)
    (hheld : s.mtr.rollNonce = some (v, f)) :
    exec .rollNonceExpiry s = .next { s with mtr := { s.mtr with rollNonce := some (v, false) } } := by
  calc exec .rollNonceExpiry s
      = execRollNonceExpiry s := rfl
    _ = _ := by rw [execRollNonceExpiry, inputTo_there hr, hheld, Option.map_some]

/-- The roll nonce serves no further rollover. -/
def rollNonceUsed (s : State) : State :=
  { s with mtr := { s.mtr with rollNonce := s.mtr.rollNonce.map (fun e => (e.1, false)) } }

/-- The command is taken up and the records of the new epoch are asked of SE12. -/
def rolloverRequested (s : State) (tag epoch : Nat) : State :=
  nvRequest (markTaken s 6 tag true)
    [dataItem .state 0x0141 (.receiptState 0 epoch 1 false), dataItem .state 0x0140 (.ceilings s.cip.ceilings 1)]
    (.rollover tag epoch)

section
variable {data : Bytes} (hr : rolesThere s (.rollover tag data) = true) (hwait : Waiting s 6 0x06 tag d)
  (hlen : d.len = 16) (hp0 : d.p0 < 2 ^ 16) (hw : s.nvwp = false) (hb : nvBusy s 6 = false)
include hr hwait hlen hp0 hw hb

theorem exec_rollover_refused {r : Nat} (href : rollRefusal s d.p0 (padTo 16 data) = some r) :
    exec (.rollover tag data) s =
      .next (complete (authJob s.mtr.rollNonce.isSome s) 6 tag stRollRefused r) := by
  calc exec (.rollover tag data) s
      = execRollover tag data s := rfl
    _ = _ := by
      rw [execRollover, inputTo_there hr,
        ringCmdIf_legal hwait _ (by simp only [hlen, hp0, decide_true, Bool.and_self]), changeCmd_free hw hb, href]

theorem exec_rollover_requested (href : rollRefusal s d.p0 (padTo 16 data) = none) :
    exec (.rollover tag data) s =
      .next (rolloverRequested (rollNonceUsed (authJob s.mtr.rollNonce.isSome s)) tag d.p0) := by
  calc exec (.rollover tag data) s
      = execRollover tag data s := rfl
    _ = _ := by
      rw [execRollover, inputTo_there hr,
        ringCmdIf_legal hwait _ (by simp only [hlen, hp0, decide_true, Bool.and_self]), changeCmd_free hw hb, href]
      rfl

end

end

/-- Settles O25: a draft by the room in the log, a commit by the queue's front, and each command of ring 6 on the
descriptor that waits for it. -/
theorem receipts : Obligations.Receipts := by
  refine ⟨?held, ?rolledUp, ?committed, ?keyUsable, ?retry, ?retryRollUp, ?buffer, ?ackUnissued, ?ackAgain, ?ack,
    ?read, ?readAbsent, ?readAcknowledged, ?counters, ?nonce, ?nonceExpiry, ?rolloverNot, ?rollover,
    fun _ _ hn => exec_counterLoRead hn⟩
  case held =>
    rintro s u d l hr rfl hdue hrole hfull
    exact exec_receiptFormed_held hr hdue hrole hfull
  case rolledUp =>
    rintro s u d l hr rfl hdue hrole hfull
    exact exec_receiptFormed_rolledUp hr hdue hrole hfull
  case committed =>
    intro s q l i r n b ok v hr hq he hi ha
    exact exec_receiptCommitted hr hq he hi ha
  case keyUsable =>
    intro s hr hslot
    exact exec_receiptKeyUsable hr hslot
  case retry =>
    rintro s u hr rfl hstand hroll
    exact exec_receiptCommitRetry_noRollUp hr hstand hroll
  case retryRollUp =>
    rintro s u hr rfl hstand hroll hqueue
    exact exec_receiptCommitRetry_rollUp hr hstand hroll hqueue
  case buffer =>
    intro s tag d hr hwait hlen
    exact exec_receiptBuffer hr hwait hlen
  case ackUnissued =>
    intro s tag d hr hwait hnext
    exact exec_ack_unissued hr hwait hnext
  case ackAgain =>
    intro s tag d hr hwait hissued hold
    exact exec_ack_again hr hwait hissued hold
  case ack =>
    intro s tag d hr hwait hissued hnew hb
    exact exec_ack_requested hr hwait hissued hnew hb
  case read =>
    intro s tag d b hr hwait hlen hlog hnew hissued
    exact exec_readReceipt_logged hr hwait hlen hlog hnew hissued
  case readAbsent =>
    intro s tag d hr hwait hlen hlog
    exact exec_readReceipt_absent hr hwait hlen hlog
  case readAcknowledged =>
    intro s tag d b hr hwait hlen hlog hold
    exact exec_readReceipt_acknowledged hr hwait hlen hlog hold
  case counters =>
    intro s tag d hr hwait hlen
    exact exec_counters hr hwait hlen
  case nonce =>
    intro s tag d hr hwait hlen
    exact exec_rollNonce hr hwait hlen
  case nonceExpiry =>
    intro s v f hr hheld
    exact exec_rollNonceExpiry hr hheld
  case rolloverNot =>
    intro s tag r d data hr hwait hlen hp0 hw hb href
    exact exec_rollover_refused hr hwait hlen hp0 hw hb href
  case rollover =>
    intro s tag d data hr hwait hlen hp0 hw hb href
    exact exec_rollover_requested hr hwait hlen hp0 hw hb href

end Sys2Proof.Machine
end
section
/-! PROOFS. Steps as a whole (00_scope.md; 12_host_interface.md R318-R321, R347; 13_laurel_store.md R350, R351, R366;
15_power_and_supervision.md R408): legal rings, the store's form, the frame of each command, the queue and the clock are
read off `exec_within` and `step_cases`. -/
namespace Sys2Proof.Machine

/-! ### Rings and store at reset and after every step (12 R318-R321, R347; 13 R350, R351, R366) -/

/-- An area of a new device writes its first sector, has taken none and holds no record. -/
theorem areaForm_reset (a : Area) : AreaForm a (State.reset.area a) State.reset.nvs.recs := by
  have hnew : AreaForm a AreaState.reset [] := by
    have hsectors : 0 < a.sectors := by cases a <;> decide
    exact ⟨hsectors, hsectors, nofun, Nat.le_refl 16, rfl, fun _ hr => absurd hr List.not_mem_nil⟩
  exact hnew

/-- Settles O46: no ring pair and no area has left its reset value yet. -/
theorem ringsLegalAtReset : Obligations.RingsLegalAtReset := ⟨fun _ => ringLegal_reset, areaForm_reset⟩

/-- The queue, the held inputs and the clocks lie outside the rings and the store, so what a command or a tick keeps of
    the state it starts from, it keeps of `s`. -/
theorem step_keeps_legal {s t : State} (h : step s = .next t) :
    (RingsLegal s → RingsLegal t) ∧ (StoreForm s → StoreForm t) := by
  rcases step_cases h with ⟨c, rest, -, hx⟩ | ⟨-, c, rest, u, -, hx, rfl⟩ | ⟨-, -, rfl⟩
  · exact ⟨(exec_keeps hx).rings, (exec_keeps hx).form⟩
  · exact ⟨(exec_keeps hx).rings, (exec_keeps hx).form⟩
  · exact ⟨(tick_within s).keeps.rings, (tick_within s).keeps.form⟩

/-- Settles O47: every command and every tick keeps legal rings and a store in form. -/
theorem ringsStayLegal : Obligations.RingsStayLegal := fun _ _ => step_keeps_legal

/-! ### Frames (15 R408) -/

/-- Settles O50: a command whose roles are there stays within its row of `touches`; another is only held. -/
theorem framesOfCommands : Obligations.FramesOfCommands := by
  intro c s t hx
  refine ⟨fun hr => ?there, fun hr => ?away⟩
  case there =>
    have hw : Within (touches c) s t := exec_within hr t hx
    exact ⟨hw.untouched, hw.keeps.pending⟩
  case away =>
    rw [exec_away hr] at hx
    exact (Host.Outcome.next.inj hx).symm

/-! ### The front of the queue, and the clock (log 1, log 2) -/

/-- Settles O43: `step` is by definition the front command on the rest of the queue. -/
theorem stepTakesTheFront : Obligations.StepTakesTheFront := fun _ _ _ => step_cons rfl

/-- A step leaves the queue's tail and moves the clock only where it is a tick. -/
theorem step_queue_clock {s t : State} (h : step s = .next t) :
    t.pending = s.pending.tail ∧ t.now = if s.pending = [] ∧ inputDue s = none then s.now + 1 else s.now := by
  rcases step_cases h with ⟨c, rest, hq, hx⟩ | ⟨hq, c, rest, u, hd, hx, rfl⟩ | ⟨hq, hd, rfl⟩
  · have hk := exec_keeps hx
    exact ⟨by rw [hk.pending, hq]; rfl, by simp [hk.now, hq]⟩
  · have hk := exec_keeps hx
    exact ⟨by rw [hq]; exact hk.pending.trans hq, by simpa [hd] using hk.now⟩
  · have hk := (tick_within s).keeps
    exact ⟨by rw [hk.pending, hq]; exact hq, by rw [if_pos ⟨hq, hd⟩]; exact hk.now⟩

/-- Settles O49: a step is the front command, a held input or a tick, and only the tick moves the clock. -/
theorem queueAndClock : Obligations.QueueAndClock := fun _ _ => step_queue_clock

/-! ### Every command answers (15 R408; log 9, log 86) -/

theorem inputTo_answers (s : State) (c : Instr) (t : State) : ∃ u, inputTo s c (.next t) = .next u := by
  by_cases hr : rolesThere s c = true
  · exact ⟨t, inputTo_there hr⟩
  · exact ⟨inputHeld s c, inputTo_away (Bool.eq_false_iff.mpr hr)⟩

/-- A command with no role to reach answers its effect; one with a role, its effect or the input held. -/
theorem exec_answers (c : Instr) (s : State) : ∃ t, exec c s = .next t := by
  cases c with
  | registerWrite | profileWrite | pollCycleBoundary | diagNow | lfRearm | releaseLatchTaken | tpxRearm
    | coexGrantChange | privetRemask | drbgReseed | entropyWindowEnd | trngStartupTestEnd | loadClear | loadWrapped
    | derive | erase | narrow | attest | lcNonce | lcNonceExpiry | lcAdvance | enroll | revoke | readSlot | find
    | learnBegin | learnEntries | learnCommit | learnCancel | unlock | digest | learnedSetEffective | sessionTimeout
    | auxAdcFrame | readbackTimeout | holdMaxtimeExpiry | queueWaitExpiry | faultGraceExpiry | eventBuffer | list
    | endSession | endGroup | setDeadline | groupDisable | counterLoRead | linkLoss | frameReceived | frameSent
    | spillReadback | holdTimeExpiry | asleepHoldExpiry | wakeSequence | rejoin | fabTimeLoRead | uwbTimeLoRead
    | pcieReset | pcieDmaError | ringEnable | ringDisable | ringDrained | configApply | configExport | auditRead
    | configSave | post | mailboxRecvBuffer | appMessage | vholdReady | mainSupplyFailure | read | write | delete
    | hostRecordList | wear | activate | roleHandoverSwap | appHandoverPoint | appWaitExpiry | restart | exportAsset
    | setAppkey | deepAfterExpiry | wakeSource | vbkLoss | clockMonitorFlag | xtal32Recover | setRtc | rtcNonce
    | rtcNonceExpiry | powerOnReset | nrst | brownOut | pwrRestart | autoRestart | watchdogReset | startSequence
    | engineCheckpoint | eccError | engineFault | spareTakeover | appFault | reseedWaitExpiry | pcieLinkUp
    | pcieLinkDown | pciePowerState | mailboxTake | tapInstruction | badAccessRead =>
    exact ⟨_, rfl⟩
  | _ => exact inputTo_answers _ _ _

/-- Settles O51: every arm of `exec` gives a meaning, and a command for a role that is not there is held. -/
theorem everyCommandCompletes : Obligations.EveryCommandCompletes := ⟨exec_answers, fun _ _ => exec_away⟩

/-! ### A step on an empty queue (15 R398, R400; 11 R292; 05 R114) -/

/-- What a transceiver does in a tick leaves the time counter, which the RADIO island alone drives. -/
theorem tickRound_time (u : Uwb) : (tickRound u).time = u.time := by
  unfold tickRound
  split <;> (repeat' split) <;> rfl

theorem tickUwb_time (s : State) (u : Uwb) :
    (tickUwb s u).time = if rung s ≤ 1 then (u.time + 63897600) % 2 ^ 40 else 0 := by
  unfold tickUwb
  dsimp only
  (repeat' split) <;> exact tickRound_time _

/-- Settles O44: a due input is delivered; with none due, what the clocks of `tickClocks` move and `tickBody` leaves. -/
theorem idleStepTicks : Obligations.IdleStepTicks := by
  intro s hq
  refine ⟨fun c rest hd => step_heldInput hq hd, fun hd => ?tick⟩
  have hw : Within [.power, .keys, .subGhz] (tickClocks s) (tickBody s) := tickBody_within s
  obtain ⟨hrtc, hphase⟩ := tickBody_rtc s
  refine ⟨tickBody s, _, step_tick hq hd, fun hlc hact => ?_, hw.keeps.now, hw.keeps.pending.trans hq, rfl, hphase, hrtc,
    ?_, ?_, hw.untouched.held (by decide), hw.untouched.rings (by decide), hw.untouched.store (by decide)⟩
  · rw [lcProceeds_idle _ ((tickBody_lcWaits s).trans hlc), refillEnds_idle _ ((tickBody_act s).trans hact)]
  · rw [hw.untouched.fabric (by decide)]
    rfl
  · rw [hw.untouched.uwb (by decide)]
    exact tickUwb_time s s.uwb

end Sys2Proof.Machine
end
section
/-! PROOFS. What is laid out in bytes (12_host_interface.md R316, R317): numbers written one behind the other, least
significant byte first, are read back at their offsets; so a descriptor and a completion hold their fields. -/
namespace Sys2Proof.Machine

/-! ### Fields one behind the other -/

theorem slice_append_left {a b : Bytes} {off n : Nat} (h : off + n ≤ a.length) : slice (a ++ b) off n = slice a off n := by
  rw [slice, slice, List.drop_append_of_le_length (by omega), List.take_append_of_le_length (by simp; omega)]

theorem leAt_append_left {a b : Bytes} {off n : Nat} (h : off + n ≤ a.length) : leAt (a ++ b) off n = leAt a off n := by
  rw [leAt, leAt, slice_append_left h]

/-- A number written behind `a` is read back at the length of `a`. -/
theorem leAt_append_leBytes {a : Bytes} {off n : Nat} (w : Nat) (h : a.length = off) :
    leAt (a ++ leBytes n w) off n = w % 256 ^ n := by
  rw [leAt, slice, ← h, List.drop_left, ← leAt_leBytes n w, leAt, slice, List.drop_zero]

theorem byteAt_eq_leAt {b : Bytes} {i : Nat} (h : i < b.length) : byteAt b i = leAt b i 1 := by
  rw [byteAt, leAt, slice, List.drop_eq_getElem_cons h, List.getD_eq_getElem?_getD,
    List.getElem?_eq_getElem h]
  rfl

/-! ### Descriptors (R316) -/

/-- Settles O56: each field stands behind those before it, at the offset that `descOf` reads. -/
theorem descriptorLayout : Obligations.DescriptorLayout := by
  intro op flags tag len addr p0 p1 hop hflags htag hlen haddr hp0 hp1
  simp (disch := simp) only [descOf, byteAt_eq_leAt, leAt_append_left, leAt_append_leBytes, leAt_leBytes]
  simp (disch := omega) only [Nat.mod_eq_of_lt]

/-! ### Completions (R317) -/

/-- The 16 bytes of a completion. -/
def completionBytes (tag status head result : Nat) (phase : Bool) : Bytes :=
  leBytes 2 tag ++ leBytes 1 status ++ leBytes 1 (bit phase) ++ leBytes 2 head ++ leBytes 2 0 ++ leBytes 8 result

section
variable {tag status head result : Nat} {phase : Bool}

theorem length_completionBytes : (completionBytes tag status head result phase).length = 16 := by
  simp [completionBytes]

theorem completionBytes_fields (htag : tag < 2 ^ 16) (hstatus : status < 2 ^ 8) (hhead : head < 2 ^ 16)
    (hresult : result < 2 ^ 64) :
    leAt (completionBytes tag status head result phase) 0 2 = tag ∧
    leAt (completionBytes tag status head result phase) 2 1 = status ∧
    leAt (completionBytes tag status head result phase) 3 1 = bit phase ∧
    leAt (completionBytes tag status head result phase) 4 2 = head ∧
    leAt (completionBytes tag status head result phase) 6 2 = 0 ∧
    leAt (completionBytes tag status head result phase) 8 8 = result := by
  have hphase : bit phase < 2 := by cases phase <;> decide
  simp (disch := simp) only [completionBytes, leAt_append_left, leAt_append_leBytes, leAt_leBytes]
  simp (disch := omega) only [Nat.mod_eq_of_lt, and_self]

end

/-- On a ring that works the completion goes to the tail of the completion ring, and the interrupt may follow. -/
theorem writeCompletion_writes {s : State} {n : Nat} (tag status result : Nat) (noInt : Bool)
    (herr : (s.ring n).phase ≠ .error) (hdis : (s.ring n).phase ≠ .disabled) (hsilent : ringsSilent s = false) :
    ∃ r, writeCompletion s n tag status result noInt =
        (dma s n ((s.ring n).cqBase + 16 * (s.ring n).cqTail)
          (completionBytes tag status (s.ring n).sqHead result (s.ring n).cqPhase)).setRing n r ∨
      writeCompletion s n tag status result noInt =
        signal ((dma s n ((s.ring n).cqBase + 16 * (s.ring n).cqTail)
          (completionBytes tag status (s.ring n).sqHead result (s.ring n).cqPhase)).setRing n r) n (ringVector s n) := by
  have hworks : ((s.ring n).phase == .error || (s.ring n).phase == .disabled || ringsSilent s) = false := by
    simp [herr, hdis, hsilent]
  have hbytes : completionBytes tag status (s.ring n).sqHead result (s.ring n).cqPhase =
      leBytes 2 tag ++ [BitVec.ofNat 8 status, BitVec.ofNat 8 (bit (s.ring n).cqPhase)] ++ leBytes 2 (s.ring n).sqHead ++
        zeroBytes 2 ++ leBytes 8 result := rfl
  rw [hbytes]
  unfold writeCompletion
  rw [if_neg (Bool.eq_false_iff.mp hworks)]
  dsimp only
  split
  · split
    · exact ⟨_, .inr rfl⟩
    · exact ⟨_, .inl rfl⟩
  · exact ⟨_, .inl rfl⟩

/-- Settles O54: the bytes are those of `completionBytes`. -/
theorem completionLayout : Obligations.CompletionLayout := by
  intro s n tag status result noInt htag hstatus hresult hhead herr hdis hsilent
  obtain ⟨r, hwrites⟩ := writeCompletion_writes tag status result noInt herr hdis hsilent
  obtain ⟨h0, h2, h3, h4, h6, h8⟩ := completionBytes_fields (phase := (s.ring n).cqPhase) htag hstatus hhead hresult
  exact ⟨_, r, length_completionBytes, h0, h2, h3, h4, h6, h8, hwrites⟩

/-! ### One ring's completion and the other rings (R317-R320) -/

theorem proxySend_rings (s : State) (pos ring kind : Nat) (body : Bytes) :
    (proxySend s pos ring kind body).rings = s.rings :=
  (proxySend_within s pos ring kind body (Within.refl (sendPath ++ [Part.host]) s) fun _ => id).untouched.rings (by decide)

theorem dma_rings (s : State) (ring addr : Nat) (data : Bytes) : (dma s ring addr data).rings = s.rings :=
  (dma_within s ring addr data (Within.refl (sendPath ++ [Part.host]) s) fun _ => id).untouched.rings (by decide)

theorem signal_rings (s : State) (ring v : Nat) : (signal s ring v).rings = s.rings :=
  (signal_within s ring v (Within.refl (sendPath ++ [Part.host]) s) fun _ => id).untouched.rings (by decide)

/-- Ring pairs that agree are read alike. -/
theorem ring_congr {s t : State} (h : t.rings = s.rings) (m : Nat) : t.ring m = s.ring m := by
  rw [State.ring, State.ring, h]

theorem writeCompletion_otherRing (s : State) (n tag status result : Nat) (noInt : Bool) {m : Nat} (hm : m ≠ n) :
    (writeCompletion s n tag status result noInt).ring m = s.ring m := by
  by_cases hrests : ((s.ring n).phase == .error || (s.ring n).phase == .disabled || ringsSilent s) = true
  · rw [writeCompletion, if_pos hrests]
  · simp only [Bool.or_eq_true, beq_iff_eq, not_or, Bool.not_eq_true] at hrests
    obtain ⟨⟨herr, hdis⟩, hsilent⟩ := hrests
    obtain ⟨r, hw | hw⟩ := writeCompletion_writes tag status result noInt herr hdis hsilent
    · rw [hw, ring_setRing_other _ _ hm, ring_congr (dma_rings ..)]
    · rw [hw, ring_congr (signal_rings ..), ring_setRing_other _ _ hm, ring_congr (dma_rings ..)]

theorem complete_otherRing (s : State) (n tag status result : Nat) {m : Nat} (hm : m ≠ n) :
    (complete s n tag status result).ring m = s.ring m := by
  unfold complete
  split
  · rfl
  · dsimp only
    split
    · rw [ring_setRing_other _ _ hm]
    · rw [writeCompletion_otherRing _ _ _ _ _ _ hm, ring_setRing_other _ _ hm]

/-- Settles O53: beyond the ring pairs a completion writes only the parts of `ringPath`. -/
theorem ringsApart : Obligations.RingsApart := by
  intro s n m tag status result hm
  have hw : Within ringPath s (complete s n tag status result) :=
    complete_within s n tag status result (Within.refl _ s) fun _ => id
  exact ⟨complete_otherRing s n tag status result hm, hw.untouched.mode (by decide), hw.untouched.held (by decide),
    hw.untouched.force (by decide), hw.untouched.release (by decide), hw.untouched.store (by decide),
    hw.untouched.keys (by decide)⟩

/-! ### The reset values (R347; 07 R182, R195) -/

/-- Settles O45: no table of the reset state lists anything, so every entry reads its default. -/
theorem resetState : Obligations.ResetState :=
  ⟨fun _ => ⟨rfl, rfl, rfl⟩,
    fun _ => ⟨rfl, rfl, rfl, rfl, rfl, rfl, rfl, rfl, rfl, rfl, rfl, rfl, rfl, rfl, rfl⟩,
    fun _ => rfl, fun _ => ⟨rfl, rfl⟩, rfl, rfl, rfl, rfl, rfl, rfl⟩

end Sys2Proof.Machine
end
section
/-! PROOFS. How a command reaches its effect (12_host_interface.md R316, R319; 15_power_and_supervision.md R408): where its
roles are there, its guard holds and its descriptor waits, the command is its effect. -/
namespace Sys2Proof.Machine

section
variable {s : State} {g : Bool} {f : State → State}

theorem next_when (hg : g = true) : (.next (s.when g f) : Ans) = .next (f s) := by rw [hg, when_true]

theorem next_when_not (hg : g = false) : (.next (s.when g f) : Ans) = .next s := by rw [hg, when_false]

variable {c : Instr} (hr : rolesThere s c = true)
include hr

theorem inputTo_when (hg : g = true) : inputTo s c (.next (s.when g f)) = .next (f s) := by
  rw [inputTo_there hr, next_when hg]

section
variable {n op tag : Nat} {d : Desc} (hwait : Waiting s n op tag d)
include hwait

theorem inputTo_ringCmd (f : Desc → State → State) : inputTo s c (.next (ringCmd n op tag f s)) = .next (f d s) := by
  rw [inputTo_there hr, ringCmd_waiting hwait]

theorem inputTo_ringCmdIf {ok : Desc → Bool} (f : Desc → State → State) (hok : ok d = true) :
    inputTo s c (.next (ringCmdIf n op tag ok f s)) = .next (f d s) := by
  rw [inputTo_there hr, ringCmdIf_legal hwait f hok]

end
end

section
variable {s : State} {n op tag : Nat} {d : Desc} (hwait : Waiting s n op tag d)
include hwait

theorem next_ringCmd (f : Desc → State → State) : (.next (ringCmd n op tag f s) : Ans) = .next (f d s) := by
  rw [ringCmd_waiting hwait]

theorem next_ringCmdIf {ok : Desc → Bool} (f : Desc → State → State) (hok : ok d = true) :
    (.next (ringCmdIf n op tag ok f s) : Ans) = .next (f d s) := by
  rw [ringCmdIf_legal hwait f hok]

end

end Sys2Proof.Machine
end

section
/-! PROOFS. Doorbells, fetches and the rings' own events (12_host_interface.md R312, R314, R318-R323, R347): a doorbell
changes its own ring, goes on to another position or is refused; the events do what R322 and R347 say. -/
namespace Sys2Proof.Machine

/-! ### Doorbells (R312, R318) -/

section
variable {s : State} {n v : Nat} (hn : n < 16) (hp : (s.ring n).phase ≠ .disabled)
include hn hp

theorem acceptDoorbell_sqTail (hv : v < 2 ^ (s.ring n).sqk) :
    acceptDoorbell n 0 v s = s.setRing n { s.ring n with sqTail := v } := by
  simp [acceptDoorbell, Nat.not_le_of_lt hn, Nat.not_le_of_lt hv, hp]

theorem acceptDoorbell_cqHead (hv : v < 2 ^ (s.ring n).cqk) :
    acceptDoorbell n 1 v s = s.setRing n { s.ring n with cqHead := v, unread := unreadFrom (s.ring n) v } := by
  simp [acceptDoorbell, Nat.not_le_of_lt hn, Nat.not_le_of_lt hv, hp]

/-- A value that the ring does not hold sets bit 0 of RING_ERR. -/
theorem acceptDoorbell_beyond {kind : Nat} (hk : kind < 2)
    (hv : 2 ^ (if kind = 0 then (s.ring n).sqk else (s.ring n).cqk) ≤ v) :
    acceptDoorbell n kind v s = s.setRing n { s.ring n with err := setBit (s.ring n).err 0 } := by
  have hbad : decide (2 ^ (if kind = 0 then (s.ring n).sqk else (s.ring n).cqk) ≤ v) = true := decide_eq_true hv
  simp only [acceptDoorbell, hbad]
  simp [Nat.not_le_of_lt hn, Nat.not_le_of_lt hk, hp]

end

section
variable {s : State} {n v kind : Nat} (hd : s.hif.d3hot = false)
include hd

theorem bar2Write_own (hv : v < 65536) : bar2Write true 0 n kind v s = acceptDoorbell n kind v s := by
  simp [bar2Write, doorbellWritten, hd, Nat.mod_eq_of_lt hv]

theorem bar2Write_member {p : Nat} (hp : 1 ≤ p) (hm : isMember s p = true) (hrun : s.running = true) :
    bar2Write true p n kind v s = doorbellOn s p n kind (v % 65536) := by
  simp [bar2Write, doorbellWritten, hd, Nat.ne_of_gt hp, hm, hrun]

end

section
variable {s : State} {p n v : Nat} {word : Bool} (hp : p < 64) (hn : n < 16)
include hp hn

theorem exec_sqTail (hr : rolesThere s (.sqTail p n v word) = true) :
    exec (.sqTail p n v word) s = .next (bar2Write word p n 0 v s) :=
  inputTo_when hr (by simp [hp, hn])

theorem exec_cqHead (hr : rolesThere s (.cqHead p n v word) = true) :
    exec (.cqHead p n v word) s = .next (bar2Write word p n 1 v s) :=
  inputTo_when hr (by simp [hp, hn])

end

/-! ### Fetches (R316, R319) -/

/-- NVWP, sampled with the fetch, says nothing of whether one may be made. -/
theorem mayFetch_sampleNvwp (s : State) (v : Option Bool) (n : Nat) : mayFetch (s.sampleNvwp v) n = mayFetch s n := rfl

theorem exec_descriptorFetch {s : State} {n : Nat} {b : Bytes} {v : Option Bool}
    (hr : rolesThere s (.descriptorFetch n b v) = true) (hmay : mayFetch s n = true) (hb : b.length = 32) :
    exec (.descriptorFetch n b v) s = .next (descFetched n (descOf b) (s.sampleNvwp v)) := by
  calc exec (.descriptorFetch n b v) s
      = execDescriptorFetch n b s v := rfl
    _ = _ := by rw [execDescriptorFetch, inputTo_there hr, next_when (by simp [hmay, hb])]

/-! ### Events of a ring (R322, R347) -/

theorem exec_pcieDmaError {s : State} {n : Nat} (hn : n < 16) (kind tag : Nat) :
    exec (.pcieDmaError n kind tag) s = .next
      (match kind with
       | 0 => s.when ((s.ring n).phase == .enabled) (ringFails n 2)
       | 1 => s.when ((s.ring n).phase == .enabled || (s.ring n).phase == .draining) (ringFails n 3)
       | 2 => bufferFails n tag s
       | _ => s) :=
  next_when (decide_eq_true hn)

/-- Settles O31: a doorbell by what `bar2Write` does with it, each event by its guard. -/
theorem ringEvents : Obligations.RingEvents := by
  refine ⟨?sqTail, ?sqTailBeyond, ?sqTailOn, ?sqTailUnaligned, ?cqHead, ?cqHeadBeyond, ?cqHeadOn, ?cqHeadUnaligned,
    ?fetch, ?nop, ?abortWon, ?abortLate, ?fetchError, ?writeError, ?bufferError, ?coalesce, ?enable, ?disable, ?drained⟩
  case sqTail =>
    intro s n v hr hn hd hp hv hw
    rw [exec_sqTail (by decide) hn hr, bar2Write_own hd hw, acceptDoorbell_sqTail hn hp hv]
  case sqTailBeyond =>
    intro s n v hr hn hd hp hv hw
    rw [exec_sqTail (by decide) hn hr, bar2Write_own hd hw, acceptDoorbell_beyond hn hp (by decide) hv]
  case sqTailOn =>
    intro s p n v hr hp1 hp hn hd hm hrun
    rw [exec_sqTail hp hn hr, bar2Write_member hd hp1 hm hrun]
  case sqTailUnaligned =>
    intro s p n v hr hp hn
    exact exec_sqTail hp hn hr
  case cqHead =>
    intro s n v hr hn hd hp hv hw
    rw [exec_cqHead (by decide) hn hr, bar2Write_own hd hw, acceptDoorbell_cqHead hn hp hv]
  case cqHeadBeyond =>
    intro s n v hr hn hd hp hv hw
    rw [exec_cqHead (by decide) hn hr, bar2Write_own hd hw, acceptDoorbell_beyond hn hp (by decide) hv]
  case cqHeadOn =>
    intro s p n v hr hp1 hp hn hd hm hrun
    rw [exec_cqHead hp hn hr, bar2Write_member hd hp1 hm hrun]
  case cqHeadUnaligned =>
    intro s p n v hr hp hn
    exact exec_cqHead hp hn hr
  case fetch => exact fun s n b v hr hmay hb => exec_descriptorFetch hr hmay hb
  case nop => exact fun s n tag d hr hwait => inputTo_ringCmd hr hwait _
  case abortWon =>
    intro s n tag d hr hwait hwon
    exact (inputTo_ringCmd hr hwait _).trans (congrArg _ (if_pos hwon))
  case abortLate =>
    intro s n tag d hr hwait hlate
    exact (inputTo_ringCmd hr hwait _).trans (congrArg _ (if_neg (Bool.eq_false_iff.mp hlate)))
  case fetchError =>
    intro s n tag hn hp
    exact (exec_pcieDmaError hn 0 tag).trans (next_when (by simp [hp]))
  case writeError =>
    intro s n tag hn hp
    exact (exec_pcieDmaError hn 1 tag).trans (next_when hp)
  case bufferError => exact fun s n tag hn => exec_pcieDmaError hn 2 tag
  case coalesce =>
    intro s n hr hn hpend
    exact inputTo_when hr (by simp [hn, hpend])
  case enable =>
    intro s n hn hans
    exact next_when (by simp [hn, hans])
  case disable =>
    intro s n hn hans
    exact next_when (by simp [hn, hans])
  case drained => exact fun s n hn => next_when (decide_eq_true hn)

end Sys2Proof.Machine
end
section
/-! PROOFS. Proxy frames (12_host_interface.md R325-R329): a numbered frame on an open link is taken by `proxyTake`, with
the effect of its kind. -/
namespace Sys2Proof.Machine

/-- A closed read delivers its bytes; a number with no open read is ignored. -/
theorem exec_readData {s : State} {q a n r : Nat} {fail : Bool} {data : Bytes}
    (hr : rolesThere s (.readData q a n r fail data) = true) (hhead : s.fab.head = false) (hopen : linkOpen s 0 = true) :
    exec (.readData q a n r fail data) s = .next (proxyTake 0 (ringProxyClass n) q a (fun u =>
      (u.hif.readsOpen.find? (fun e => e.req == r)).elim u (fun e => readFails fail n e
        { u with hif := { u.hif with
          readsOpen := removeFirst (fun e => e.req == r) u.hif.readsOpen,
          readData := (r, fail, data) :: u.hif.readData.take 63 } })) s) := by
  refine (inputTo_when hr (by simp [hhead, hopen])).trans ?_
  congr 2
  funext u
  cases u.hif.readsOpen.find? (fun e => e.req == r) <;> rfl

/-- Settles O32: each frame by its guard; the numbers of R326 are `proxyTake`'s. -/
theorem proxyFrames : Obligations.ProxyFrames := by
  refine ⟨?doorbell, ?readReq, fun s q a n r fail data hr hhead hopen => exec_readData hr hhead hopen, ?write,
    ?writeFails, ?interrupt, ?regWrite, ?regRead, ?regData, ?ack, ?rto, ?regwait⟩
  case doorbell =>
    intro s q a n k v hr hhead hopen
    exact inputTo_when hr (by simp [hhead, hopen])
  case readReq =>
    intro s p q a n r len ad fail data hr hhead hopen hd hlo hhi
    have hlen : (decide (1 ≤ len) && decide (len ≤ 1008)) = true := by simp [hlo, hhi]
    exact (inputTo_when hr (by simp [hhead, hopen, hd])).trans
      (congrArg (fun f => Host.Outcome.next (proxyTake p (ringProxyClass n) q a f s)) (funext fun _ => if_pos hlen))
  case write =>
    intro s p q a n ad data hr hhead hopen
    exact inputTo_when hr (by simp [hhead, hopen])
  case writeFails =>
    intro s p q a n ad data hr hhead hopen
    exact inputTo_when hr (by simp [hhead, hopen])
  case interrupt =>
    intro s p q a n v hr hhead hopen hv
    exact inputTo_when hr (by simp [hhead, hopen, hv])
  case regWrite =>
    intro s q a off v hr hhead hopen
    exact inputTo_when hr (by simp [hhead, hopen])
  case regRead =>
    intro s q a r off hr hhead hopen
    exact inputTo_when hr (by simp [hhead, hopen])
  case regData =>
    intro s p q a r v hr hhead hopen
    exact inputTo_when hr (by simp [hhead, hopen])
  case ack =>
    intro s p c a hr hopen hc
    exact inputTo_when hr (by simp [hopen, hc])
  case rto =>
    intro s p c hr hopen hc
    exact inputTo_when hr (by simp [hopen, hc])
  case regwait => exact fun s r hr hwaits => inputTo_when hr hwaits

end Sys2Proof.Machine
end

section
/-! PROOFS. The PCIe link (12_host_interface.md R311, R314; 11_gaten_fabric.md R288; 15_power_and_supervision.md R394): up,
down, D3hot and reset. What a reset cancels on one ring leaves the phases of all, so the rings it has disabled stay so. -/
namespace Sys2Proof.Machine

/-! ### Phases of the rings, kept by what a reset cancels -/

/-- Every ring pair of `t` has the phase that it has in `s`. -/
def PhasesKept (s t : State) : Prop := ∀ n, (t.ring n).phase = (s.ring n).phase

theorem PhasesKept.refl (s : State) : PhasesKept s s := fun _ => rfl

theorem PhasesKept.trans {s t u : State} (h : PhasesKept s t) (g : PhasesKept t u) : PhasesKept s u :=
  fun n => (g n).trans (h n)

/-- What does not write the ring pairs keeps their phases. -/
theorem Within.phasesKept {M : List Part} {s t : State} (h : Within M s t) (hM : Part.rings ∉ M) : PhasesKept s t :=
  fun n => congrArg RingState.phase (ring_congr (h.untouched.rings hM) n)

theorem phasesKept_setRing {s : State} {n : Nat} {r : RingState} (h : r.phase = (s.ring n).phase) :
    PhasesKept s (s.setRing n r) := by
  intro m
  by_cases hm : m = n
  · rw [hm, ring_setRing, h]
  · rw [ring_setRing_other s r hm]

theorem phasesKept_foldl {β : Type} {f : State → β → State} (hf : ∀ t b, PhasesKept t (f t b)) (l : List β) (s : State) :
    PhasesKept s (l.foldl f s) :=
  List.foldlRecOn (motive := PhasesKept s) l f (PhasesKept.refl s) fun t ht b _ => ht.trans (hf t b)

theorem writeCompletion_phases (s : State) (n tag status result : Nat) (noInt : Bool) :
    PhasesKept s (writeCompletion s n tag status result noInt) := by
  have hdma (addr : Nat) (data : Bytes) : PhasesKept s (dma s n addr data) :=
    fun m => congrArg RingState.phase (ring_congr (dma_rings s n addr data) m)
  have hsignal (t : State) (v : Nat) : PhasesKept t (signal t n v) :=
    fun m => congrArg RingState.phase (ring_congr (signal_rings t n v) m)
  unfold writeCompletion
  dsimp only
  split
  · exact PhasesKept.refl s
  · have hset (addr : Nat) (data : Bytes) {r : RingState} (hr : r.phase = (s.ring n).phase) :
        PhasesKept s ((dma s n addr data).setRing n r) :=
      (hdma addr data).trans (phasesKept_setRing (hr.trans (hdma addr data n).symm))
    split
    · split
      · exact (hset _ _ (by rfl)).trans (hsignal _ _)
      · exact hset _ _ (by rfl)
    · exact hset _ _ (by rfl)

theorem complete_phases (s : State) (n tag status result : Nat) : PhasesKept s (complete s n tag status result) := by
  unfold complete
  split
  · exact PhasesKept.refl s
  · dsimp only
    have hset : PhasesKept s (s.setRing n { s.ring n with
        outstanding := removeFirst (fun x => x.desc.tag == tag) (s.ring n).outstanding }) := phasesKept_setRing rfl
    split
    · exact hset
    · exact hset.trans (writeCompletion_phases _ _ _ _ _ _)

theorem markTaken_phases (s : State) (n tag : Nat) (past : Bool) : PhasesKept s (markTaken s n tag past) :=
  phasesKept_setRing rfl

/-! ### Ring 5: the job after one that a reset cancels -/

theorem sgrRefusal_phases {s t : State} {us st : Nat} (h : sgrRefusal s us = some (st, t)) : PhasesKept s t :=
  (sgrRefusal_within s us (Within.refl _ s) (fun _ => id) _ h).phasesKept (by decide)

theorem sgrIdleAt_phases (s : State) (p : SgrPhase) : PhasesKept s (sgrIdleAt s p) := fun _ => rfl

theorem sgrFree_phases (s : State) : PhasesKept s (sgrFree s) := fun _ => rfl

theorem packetLeaves_phases (s : State) (t : Nat) (data : Bytes) : PhasesKept s (packetLeaves s t data).1 := by
  have hidle (u : State) : PhasesKept u (if u.sgr.held then sgrIdleAt u .rx else u) := by
    split
    · exact sgrIdleAt_phases u .rx
    · exact PhasesKept.refl u
  unfold packetLeaves
  split
  · next h =>
    exact (sgrRefusal_phases h).trans ((hidle _).trans ((sgrFree_phases _).trans (complete_phases _ _ _ _ _)))
  · split
    · have hsent : PhasesKept s (sgrTransmit s (packetFrame s data) (packetTime s data)) :=
        (sgrTransmit_within s _ _ (Within.refl _ s) fun _ => id).phasesKept (by decide)
      exact hsent.trans (markTaken_phases _ _ _ _)
    · exact hidle s

theorem sgrPacketGoes_phases (s : State) (t : Nat) (data : Bytes) : PhasesKept s (sgrPacketGoes s t data).1 := by
  unfold sgrPacketGoes
  dsimp only
  split
  · exact packetLeaves_phases { s with sgr := { s.sgr with grantWait := false } } t data
  · split
    · exact complete_phases (sgrFree (sgrBusy { s with sgr := { s.sgr with grantWait := false } })) 5 t stSynthBusy 0
    · exact fun _ => rfl

theorem sgrReceive_phases (s : State) : PhasesKept s (sgrReceive s) :=
  (sgrReceive_within s (Within.refl _ s) fun _ => id).phasesKept (by decide)

theorem jobStarts_phases (s : State) (w : SgrWork) : PhasesKept s (jobStarts s w).1 := by
  unfold jobStarts
  split
  · split
    · next h => exact (sgrRefusal_phases h).trans (complete_phases _ _ _ _ _)
    · split
      · exact complete_phases _ _ _ _ _
      · dsimp only
        split
        · exact sgrPacketGoes_phases { s with sgr := { s.sgr with work := _, coexReq := true } } _ _
        · exact fun _ => rfl
  · exact sgrReceive_phases { s with sgr := { s.sgr with work := _, coexReq := true } }
  · exact sgrReceive_phases { s with sgr := { s.sgr with work := _, coexReq := true } }
  · exact PhasesKept.refl s
  · exact PhasesKept.refl s
  · exact PhasesKept.refl s

theorem sgrNextFuel_phases (fuel : Nat) (s : State) : PhasesKept s (sgrNextFuel fuel s) := by
  induction fuel generalizing s with
  | zero => exact PhasesKept.refl s
  | succ fuel ih =>
    unfold sgrNextFuel
    split
    · exact PhasesKept.refl s
    · next w rest _ =>
      have hstarts := jobStarts_phases { s with sgr := { s.sgr with jobs := rest } } w
      split
      · dsimp only
        split
        · exact hstarts
        · exact PhasesKept.trans hstarts (ih _)
      · exact PhasesKept.refl s

theorem sgrNextJob_phases (s : State) : PhasesKept s (sgrNextJob s) := sgrNextFuel_phases _ s

theorem sgrReturn_phases (s : State) (back : Nat) : PhasesKept s (sgrReturn s back) :=
  (sgrReturn_within s back (Within.refl _ s) fun _ => id).phasesKept (by decide)

theorem cancelSgr_phases (tag : Nat) (s : State) : PhasesKept s (cancelSgr tag s) := by
  have hreturn (u : State) (back : Nat) : PhasesKept u (sgrNextJob (sgrReturn (sgrFree u) back)) :=
    (sgrFree_phases u).trans ((sgrReturn_phases _ back).trans (sgrNextJob_phases _))
  have hfree (u : State) : PhasesKept u (sgrNextJob (sgrFree u)) := (sgrFree_phases u).trans (sgrNextJob_phases _)
  unfold cancelSgr
  dsimp only
  split
  · split
    · exact fun n => hreturn _ _ n
    · exact fun n => hreturn _ _ n
    · exact fun n => hfree _ n
    · exact fun n => hfree _ n
    · exact fun n => hfree _ n
    · exact fun n => hfree _ n
  · exact fun _ => rfl

/-! ### A ring reset (R314) -/

/-- Only ring 5's work completes other descriptors of its ring; the rest writes no ring pair. -/
theorem cancelWork_phases (n tag : Nat) (s : State) : PhasesKept s (cancelWork n tag s) := by
  unfold cancelWork
  dsimp only
  split
  · split <;> exact fun _ => rfl
  · have hlate (u : State) : PhasesKept u (remasksLate u) :=
      (remasksLate_within u (Within.refl _ u) fun _ => id).phasesKept (by decide)
    refine PhasesKept.trans ?_ (hlate _)
    split <;> exact fun _ => rfl
  · exact fun _ => rfl
  · exact cancelSgr_phases tag (dropRequests 5 tag s)
  · exact (cancelUpd_within tag (dropRequests 10 tag s) (Within.refl _ _) fun _ => id).phasesKept (by decide)
  · exact fun _ => rfl
  · exact fun _ => rfl
  · exact fun _ => rfl

theorem ringReset_self (s : State) (n : Nat) : ((ringReset s n).ring n).phase = .disabled := by
  rw [ringReset, ring_setRing]

theorem ringReset_other (s : State) {n m : Nat} (hm : m ≠ n) : ((ringReset s n).ring m).phase = (s.ring m).phase := by
  rw [ringReset, ring_setRing_other _ _ hm]
  have hcancel (t : State) (o : Outst) : PhasesKept t (cancelWork n o.desc.tag t) := cancelWork_phases n o.desc.tag t
  exact phasesKept_foldl hcancel _ s m

/-- A ring that has been reset is not undone by the resets after it. -/
theorem ringResets_disable (k : Nat) (s : State) (n : Nat) (hn : n < k) :
    (((List.range k).foldl ringReset s).ring n).phase = .disabled := by
  induction k with
  | zero => omega
  | succ k ih =>
    rw [List.range_succ, List.foldl_append, List.foldl_cons, List.foldl_nil]
    by_cases hk : n = k
    · rw [hk, ringReset_self]
    · rw [ringReset_other _ hk, ih (by omega)]

theorem presentFunction_hif (s : State) : (presentFunction s).hif = s.hif := by
  unfold presentFunction
  split <;> rfl

theorem presentFunction_rings (s : State) : (presentFunction s).rings = s.rings := by
  unfold presentFunction
  split <;> rfl

theorem exec_pcieReset {s u : State} (hu : u = (List.range 16).foldl ringReset s) :
    exec .pcieReset s = .next (presentFunction { u with hif := { u.hif with
      d3hot := false, subsys := heldWord u 0x0430, maxRead := 512, stalled := [], msixTable := [], pba := 0, links := [],
      barReads := [], readsOpen := [], readData := [] } }) := by
  rw [hu]
  rfl

/-- Settles O33: the link's events by their guards; a reset leaves what `presentFunction` presents, with the rings as
    `ringResets_disable` says. -/
theorem pcieLink : Obligations.PcieLink := by
  refine ⟨?upHead, ?upConflict, ?upJudged, fun _ => rfl, ?d3hot, ?d0, ?reset, ?afterReset⟩
  case upHead =>
    rintro s _ m g rfl hmode hhead
    exact (next_when hmode).trans (congrArg _ (if_pos hhead))
  case upConflict =>
    rintro s _ m g rfl hmode hother haddr
    exact (next_when hmode).trans (congrArg _ ((if_neg (Bool.eq_false_iff.mp hother)).trans (if_pos haddr)))
  case upJudged =>
    rintro s _ m g rfl hmode hother hnone
    exact (next_when hmode).trans
      (congrArg _ ((if_neg (Bool.eq_false_iff.mp hother)).trans (if_neg (Bool.eq_false_iff.mp hnone))))
  case d3hot => exact fun s hup => next_when (bne_iff_ne.mpr hup)
  case d0 => exact fun s hup => next_when (bne_iff_ne.mpr hup)
  case reset => exact fun s u hu => exec_pcieReset hu
  case afterReset =>
    intro s
    obtain ⟨u, hu⟩ : ∃ u, u = (List.range 16).foldl ringReset s := ⟨_, rfl⟩
    refine ⟨_, exec_pcieReset hu, ?_, ?_, ?_, ?_, ?_, fun n hn => ?_⟩
    case refine_6 =>
      have hdis : (u.ring n).phase = .disabled := by rw [hu, ringResets_disable 16 s n hn]
      rw [ring_congr (presentFunction_rings _)]
      exact hdis
    all_goals rw [presentFunction_hif]

end Sys2Proof.Machine
end
section
/-! PROOFS. Rings 0, 12 and 15 (12_host_interface.md R331-R344): configuration and the audit log, messages to and from
peers, and APP's mailbox. -/
namespace Sys2Proof.Machine

/-! ### Ring 0, CONFIG_SAVE and AUDIT_COMMIT (R331-R341) -/

/-- What CONFIG_APPLY makes of its blob. -/
theorem exec_configApply {s : State} {tag : Nat} {d : Desc} (data : Bytes) (hwait : Waiting s 0 0x01 tag d)
    (hlo : 24 ≤ d.len) (hhi : d.len ≤ 16400) :
    exec (.configApply tag data) s = .next
      (if blobStatus 2 (padTo d.len data) = stOk then
        complete (applyBlob 2 (padTo d.len data) s).1 0 tag stOk (applyBlob 2 (padTo d.len data) s).2
      else complete s 0 tag (blobStatus 2 (padTo d.len data)) 0) := by
  have hform : (decide (24 ≤ d.len) && decide (d.len ≤ 16400)) = true := by simp [hlo, hhi]
  calc exec (.configApply tag data) s
      = execConfigApply tag data s := rfl
    _ = _ := by rw [execConfigApply, ringCmdIf_legal hwait _ hform]

/-- NVWP, sampled with the command, does not decide whether there is something to save. -/
theorem exec_configSave {s : State} (v : Option Bool) (hrun : s.running = true)
    (hdue : (s.hif.cfgChanged || s.stat Reg.hifStatusCfgUnsaved != 0) = true)
    (hfree : nvWaits s (· == .config) = false) :
    exec (.configSave v) s = .next
      (if (s.sampleNvwp v).nvwp then (s.sampleNvwp v).setStat Reg.hifStatusCfgUnsaved 1
      else nvRequest { s.sampleNvwp v with hif := { (s.sampleNvwp v).hif with cfgChanged := false } }
        (configItems (s.sampleNvwp v) (nextConfigGen (s.sampleNvwp v))) .config) :=
  next_when (by rw [hrun, hdue, hfree]; rfl)

/-- Settles O34: each command by its form, each event by its guard. -/
theorem configurationRing : Obligations.ConfigurationRing := by
  refine ⟨?apply, ?applyBad, ?exported, ?auditRead, ?saveProtected, ?save, ?commit⟩
  case apply =>
    intro s tag d data hwait hlo hhi hgood
    rw [exec_configApply data hwait hlo hhi, if_pos hgood]
  case applyBad =>
    intro s tag d data hwait hlo hhi hbad
    rw [exec_configApply data hwait hlo hhi, if_neg hbad]
  case exported => exact fun s tag d hwait hroom => next_ringCmdIf hwait _ (decide_eq_true hroom)
  case auditRead =>
    intro s tag d hwait hlo hhi hwhole hp0
    exact next_ringCmdIf hwait _ (by simp only [hlo, hhi, hwhole, hp0, decide_true, Bool.and_self])
  case saveProtected =>
    rintro s _ v rfl hrun hdue hfree hprot
    rw [exec_configSave v hrun hdue hfree, if_pos hprot]
  case save =>
    rintro s _ v rfl hrun hdue hfree hhigh
    rw [exec_configSave v hrun hdue hfree, if_neg (Bool.eq_false_iff.mp hhigh)]
  case commit =>
    intro s hr hmode hsome hfree
    exact inputTo_when hr (by simp [hmode, hsome, hfree])

/-! ### Ring 12 (R342, R343) -/

/-- SEND of legal form: whether the device holds an address, and whether the message has somebody to reach. -/
theorem exec_send {s : State} {tag : Nat} {d : Desc} {data : Bytes} (hr : rolesThere s (.send tag data) = true)
    (hwait : Waiting s 12 0x01 tag d) (hlo : 1 ≤ d.len) (hhi : d.len ≤ 1000) (hp0 : d.p0 < 2 ^ 17) (hp1 : d.p1 < 256) :
    exec (.send tag data) s = .next
      (if s.fab.addr.isNone then complete s 12 tag stAddrFull 0
      else if !bitAt d.p0 16 && !reachable s (d.p0 % 65536) then complete s 12 tag stPeerUnreachable 0
      else (fun (r : Nat × State) => complete r.2 12 tag stOk r.1)
        (sendFrame s (d.p0 % 65536) (bitAt d.p0 16) false clsBulk 0x10
          ([BitVec.ofNat 8 d.p1, 0] ++ beBytes 2 d.len ++ padTo d.len data))) :=
  inputTo_ringCmdIf hr hwait _ (by simp only [hlo, hhi, hp0, hp1, decide_true, Bool.and_self])

/-! ### Ring 15 (R344) -/

/-- POST of legal form: whether the mailbox has room. -/
theorem exec_post {s : State} {tag : Nat} {d : Desc} (data : Bytes) (hwait : Waiting s 15 0x01 tag d)
    (hlo : 1 ≤ d.len) (hhi : d.len ≤ 4096) (hp0 : d.p0 < 65536) :
    exec (.post tag data) s = .next
      (if 8 ≤ s.hif.mailbox.length then complete s 15 tag stMailboxFull 0
      else markTaken { s with hif := { s.hif with
        mailbox := s.hif.mailbox ++ [⟨tag, d.p0, padTo d.len data⟩] } } 15 tag false) :=
  next_ringCmdIf hwait _ (by simp [hlo, hhi, hp0])

theorem exec_mailboxTake {s : State} {m : MailboxMsg} {l : List MailboxMsg} (hserves : appServes s = true)
    (hm : s.hif.mailbox = m :: l) :
    exec .mailboxTake s = .next (complete
      (({ s with hif := { s.hif with mailbox := l } }).emit (.toApp m.channel m.data)) 15 m.tag stOk 0) := by
  calc exec .mailboxTake s
      = execMailboxTake s := rfl
    _ = _ := by rw [execMailboxTake, next_when hserves, hm]

/-- Settles O35: SEND and POST by their conditions, buffers as posted buffers, events by their guards. -/
theorem messageRings : Obligations.MessageRings := by
  refine ⟨?send, ?sendUnreachable, ?sendNoAddress, ?recvBuffer, ?peerMessage, ?post, ?postFull, ?mailboxBuffer,
    ?appMessage, fun s m l hserves hm => exec_mailboxTake hserves hm⟩
  case send =>
    intro s tag d data hr hwait hlo hhi hp0 hp1 haddr hreach
    have hreached : (!bitAt d.p0 16 && !reachable s (d.p0 % 65536)) = false := by rw [← Bool.not_or, hreach]; rfl
    rw [exec_send hr hwait hlo hhi hp0 hp1, if_neg (Bool.eq_false_iff.mp haddr), if_neg (Bool.eq_false_iff.mp hreached)]
  case sendUnreachable =>
    intro s tag d data hr hwait hlo hhi hp0 hp1 haddr hreach
    have hnone : (!bitAt d.p0 16 && !reachable s (d.p0 % 65536)) = true := by rw [← Bool.not_or, hreach]; rfl
    rw [exec_send hr hwait hlo hhi hp0 hp1, if_neg (Bool.eq_false_iff.mp haddr), if_pos hnone]
  case sendNoAddress =>
    intro s tag d data hr hwait hlo hhi hp0 hp1 haddr
    rw [exec_send hr hwait hlo hhi hp0 hp1, if_pos haddr]
  case recvBuffer =>
    intro s tag d hr hwait hlen
    exact inputTo_ringCmdIf hr hwait _ (decide_eq_true hlen)
  case peerMessage =>
    intro s src q t c m data hr hrun hlen
    exact inputTo_when hr (by simp [hrun, hlen])
  case post =>
    intro s tag d data hwait hlo hhi hp0 hroom
    rw [exec_post data hwait hlo hhi hp0, if_neg (Nat.not_le_of_lt hroom)]
  case postFull =>
    intro s tag d data hwait hlo hhi hp0 hfull
    rw [exec_post data hwait hlo hhi hp0, if_pos hfull]
  case mailboxBuffer => exact fun s tag d hwait hlen => congrArg _ (postBuffer_longEnough hwait hlen)
  case appMessage =>
    intro s c data hserves hlen
    exact next_when (by simp [hserves, hlen])

end Sys2Proof.Machine
end
section
/-! PROOFS. Fabric links (11_gaten_fabric.md R283-R287, R294, R305, R307, R309): training and HELLO, loss of link, and the
hold times. -/
namespace Sys2Proof.Machine

/-! ### HELLO (R287, R294, R309) -/

/-- A port that has heard the HELLO `f`: its peer and the peer's time are noted, and while it trains and was heard there
    itself, the link delay. -/
def portHeard (s : State) (p : Nat) (f : Bytes) : Port :=
  { s.port p with
    heard := true, peer := beAt (framePayload f) 8 2, peerId := beAt (framePayload f) 0 8,
    peerTime := beAt (framePayload f) 12 6, heardAt := s.fab.time,
    delay := if bitAt (byteAt (framePayload f) 11) 0 && (s.port p).phase != .up then
        (((s.fab.time + 2 ^ 48 - beAt (framePayload f) 18 6) % 2 ^ 48) * 1000 - beAt (framePayload f) 24 4) / 2
      else (s.port p).delay }

/-- The device that has noted a HELLO; a head that sees another one on the ring may yield. -/
def helloNoted (s : State) (p : Nat) (f : Bytes) : State :=
  if bitAt (byteAt (framePayload f) 11) 1 && decide (p < 2) then
    yieldHead (s.setPort p (portHeard s p f)) (beAt (framePayload f) 12 6) (beAt (framePayload f) 0 8)
  else s.setPort p (portHeard s p f)

theorem State.when_of {s : State} {g : Bool} {f : State → State} (hg : g = true) : s.when g f = f s := by
  rw [hg, when_true]

section
variable {s : State} {p : Nat} {f : Bytes} (hr : rolesThere s (.hello p f) = true) (hruns : fabricRuns s = true)
  (hp : p < 4) (hen : portEnabled s p = true)
include hr hruns hp hen

theorem exec_hello_corrupt (hbad : frameOk f = false) :
    exec (.hello p f) s = .next (noteModeConflict (linkError s p)) := by
  calc exec (.hello p f) s
      = execHello p f s := rfl
    _ = _ := by rw [execHello, inputTo_there hr, State.when_of (by simp [hruns, hp, hen]), if_pos (by simp [hbad])]

/-- What a whole HELLO does, by its sleep flag and by whether it completes the training. -/
theorem exec_hello_whole (hok : frameOk f = true) (htyp : frameType f = 0x01) (hcls : frameCls f = clsCtrl)
    (hlen : 28 ≤ frameLen f) :
    exec (.hello p f) s = .next (noteModeConflict
      (if bitAt (byteAt (framePayload f) 11) 2 then portAsleep (helloNoted s p f) p
      else if bitAt (byteAt (framePayload f) 11) 0 && (portHeard s p f).sendsHello && (portHeard s p f).phase != .up then
        portUp (helloNoted s p f) p
      else helloNoted s p f)) := by
  calc exec (.hello p f) s
      = execHello p f s := rfl
    _ = _ := by
      rw [execHello, inputTo_there hr, State.when_of (by simp [hruns, hp, hen]), if_neg (by simp [hok]),
        State.when_of (by simp [htyp, hcls, hlen])]
      rfl

end

/-! ### HELLO_TIMEOUT (R287, R302) -/

/-- The port trains again, or stays DOWN: it sends idle sequences and has heard no HELLO. -/
def helloMissed (s : State) (p : Nat) : State :=
  sendIdle ((stopTx s p).setPort p { s.port p with
    phase := if (s.port p).phase == .up then .training else (s.port p).phase, sendsHello := false, heard := false }) p

theorem exec_helloTimeout {s : State} {p : Nat} (hr : rolesThere s (.helloTimeout p) = true)
    (hruns : fabricRuns s = true) (hp : p < 4) (hen : portEnabled s p = true) :
    exec (.helloTimeout p) s = .next
      (if (s.port p).phase == .up && decide (p < 2) then
        retireCheck (releaseHeld (portDownFrames (helloMissed s p) p) p)
      else helloMissed s p) :=
  inputTo_when hr (by simp [hruns, hp, hen])

/-- Settles O26: HELLO and its time-out by the state of the port, the other events by their guards. -/
theorem fabricLinks : Obligations.FabricLinks := by
  refine ⟨?idle, ?send, ?timeoutUp, ?timeout, fun s p f hr hruns hp hen hbad => exec_hello_corrupt hr hruns hp hen hbad,
    ?asleep, ?up, ?noted, ?loss, ?holdExpiry, ?asleepExpiry⟩
  case idle =>
    intro s p hr hruns hp hen
    exact inputTo_when hr (by simp [hruns, hp, hen])
  case send =>
    intro s p hr hruns hp hen hsends
    exact inputTo_when hr (by simp [hruns, hp, hen, hsends])
  case timeoutUp =>
    rintro s _ p hr hruns hp hen hup rfl
    have hring : ((s.port p).phase == .up && decide (p < 2)) = true := by simp [hup, hp]
    have htrains : (if (s.port p).phase == .up then PortPhase.training else (s.port p).phase) = .training :=
      if_pos (by simp [hup])
    rw [exec_helloTimeout hr hruns (by omega) hen, if_pos hring, helloMissed, htrains]
  case timeout =>
    intro s p hr hruns hp hen hother
    rw [exec_helloTimeout hr hruns hp hen, if_neg (Bool.eq_false_iff.mp hother)]
    rfl
  case asleep =>
    rintro s _ p f _ hr hruns hp hen hok htyp hcls hlen rfl rfl hsleep
    rw [exec_hello_whole hr hruns hp hen hok htyp hcls hlen, if_pos hsleep]
    rfl
  case up =>
    rintro s _ p f _ hr hruns hp hen hok htyp hcls hlen rfl rfl hawake htrained
    rw [exec_hello_whole hr hruns hp hen hok htyp hcls hlen, if_neg (Bool.eq_false_iff.mp hawake)]
    exact congrArg (fun t => Host.Outcome.next (noteModeConflict t)) (if_pos htrained)
  case noted =>
    rintro s _ p f _ hr hruns hp hen hok htyp hcls hlen rfl rfl hawake hnot
    rw [exec_hello_whole hr hruns hp hen hok htyp hcls hlen, if_neg (Bool.eq_false_iff.mp hawake)]
    exact congrArg (fun t => Host.Outcome.next (noteModeConflict t)) (if_neg (Bool.eq_false_iff.mp hnot))
  case loss =>
    rintro s _ p codes hruns hp hup rfl
    exact next_when (by simp [hruns, hp, hup])
  case holdExpiry =>
    intro s p hruns hp hheld
    exact next_when (by simp [hruns, hp, hheld])
  case asleepExpiry =>
    intro s p hruns hp hasleep
    exact next_when (by simp [hruns, hp, hasleep])

end Sys2Proof.Machine
end

section
/-! PROOFS. Joining, addresses and fabric time (11_gaten_fabric.md R288-R292, R295, R308, R310). -/
namespace Sys2Proof.Machine

/-- A fresh CTRL frame is taken, and its sequence noted. -/
theorem ctrlTake_fresh {s : State} {typ len : Nat} {f : Bytes} (hf : FreshCtrl s typ len f)
    (g : Bytes → State → State) : ctrlTake typ len f g s = g (framePayload f) (ctrlAccepted s f) := by
  obtain ⟨hcls, htyp, hlen, hseq, hrun, hruns⟩ := hf
  exact if_pos (by simp only [hcls, htyp, hlen, hseq, hrun, hruns, decide_true, Bool.and_self])

/-! ### Joining (R288-R290, R295) -/

/-- What the head does with the JOIN_REQ of a device in no position that asks for none, by the lowest free position. -/
theorem exec_joinReq_new {s : State} {port : Nat} {f : Bytes} {pick : Option Nat}
    (hr : rolesThere s (.joinReq port f) = true) (hhead : s.fab.head = true) (honce : joinRepeated s f = false)
    (hf : FreshCtrl s 0x02 9 f) (hany : byteAt (framePayload f) 8 = 0xFF)
    (hnew : ∀ e ∈ s.fab.members, e.2.id ≠ beAt (framePayload f) 0 8) (hpick : lowestFree (positions s) = pick) :
    exec (.joinReq port f) s = .next (noteModeConflict (pick.elim
      ((fun u : State => sendGroup15 (u.raise Reg.fabFaultAddrFull) 0x03
        (beBytes 8 (beAt (framePayload f) 0 8) ++ [0x01, 0] ++ beBytes 2 (u.addr / 64) ++ beBytes 6 u.fab.time))
        (ctrlAccepted s f))
      (fun p => (fun v : State => startUpdate (sendGroup15 v 0x03 (beBytes 8 (beAt (framePayload f) 0 8) ++
          [0x00, BitVec.ofNat 8 p] ++ beBytes 2 (s.addr / 64) ++ beBytes 6 v.fab.time)))
        ((fun u : State => forgetSeq { u with fab := { u.fab with
            members := placeMember u.fab.members p (beAt (framePayload f) 0 8) (port != 0) (1023 - frameHops f)
              (frameSeq f),
            joined := if u.fab.joined.contains (beAt (framePayload f) 0 8) then u.fab.joined
              else u.fab.joined ++ [beAt (framePayload f) 0 8],
            inuse := setBit u.fab.inuse p } } (s.addr / 64 * 64 + p) (beAt (framePayload f) 0 8))
          ((fun v : State => dropPosition
            (if v.fab.joined.contains (beAt (framePayload f) 0 8) then noteRestart v p else v) p)
            (ctrlAccepted s f)))))) := by
  have hknown : (ctrlAccepted s f).fab.members.find? (fun e => e.2.id == beAt (framePayload f) 0 8) = none :=
    List.find?_eq_none.mpr fun e he => by simpa using hnew e he
  have hused : (positions (ctrlAccepted s f)).filter (fun p => some p != none) = positions s :=
    List.filter_eq_self.mpr fun _ _ => rfl
  calc exec (.joinReq port f) s
      = execJoinReq port f s := rfl
    _ = _ := by
      rw [execJoinReq, inputTo_there hr, State.when_of (by simp [hhead, honce]), ctrlTake_fresh hf]
      simp only [hknown, hany, Option.map_none, hused, Option.any_none, Bool.not_false, Bool.and_true]
      cases pick with
      | none =>
        rw [if_neg (by simp), hpick]
        rfl
      | some p =>
        rw [if_neg (by simp), hpick]
        rfl

/-! ### The answer (R289, R292, R308) -/

/-- The device that has taken the address of a good JOIN_ANSWER: HEAD_CONFLICT stays, and the position is stored. -/
def addressTaken (u : State) (f : Bytes) : State :=
  (fun v : State => { v with hif := { v.hif with cfgChanged := true } })
    (((resetLink { u with fab := { u.fab with
        addr := some (beAt (framePayload f) 10 2 % 1024 * 64 + byteAt (framePayload f) 9 % 64), asking := false,
        time := beAt (framePayload f) 12 6,
        join := if u.fab.join == .headConflict then .headConflict else .joined,
        inuse := setBit u.fab.inuse (byteAt (framePayload f) 9 % 64) } } 0).setHeld Reg.fabAddrPos
      (byteAt (framePayload f) 9 % 64)).setForce Reg.fabAddrPos (byteAt (framePayload f) 9 % 64))

theorem addressTaken_eff (u : State) (f : Bytes) :
    (addressTaken u f).eff Reg.fabAddrPos = byteAt (framePayload f) 9 % 64 :=
  (eff_setForce _ Reg.fabAddrPos _).trans (Nat.mod_mod _ 64)

/-- What a device does with a JOIN_ANSWER: one that names it gives it its address or none, another shows a position in
    use. -/
theorem exec_joinAnswer {s : State} {port : Nat} {f : Bytes} (hr : rolesThere s (.joinAnswer port f) = true)
    (hf : FreshCtrl s 0x03 18 f) :
    exec (.joinAnswer port f) s = .next (noteModeConflict
      (if beAt (framePayload f) 0 8 = s.cip.deviceId && !s.fab.head then
        if byteAt (framePayload f) 8 = 0 then uplinkTold (addressTaken (ctrlAccepted s f) f)
        else (fun u : State => ({ u with fab := { u.fab with
          addr := none, join := .addrFull, asking := false } }).raise Reg.fabFaultAddrFull) (ctrlAccepted s f)
      else if byteAt (framePayload f) 8 = 0 then
        (fun u : State => forgetSeq
          { u with fab := { u.fab with inuse := setBit u.fab.inuse (byteAt (framePayload f) 9 % 64) } }
          (beAt (framePayload f) 10 2 % 1024 * 64 + byteAt (framePayload f) 9 % 64) (beAt (framePayload f) 0 8))
          (ctrlAccepted s f)
      else ctrlAccepted s f)) := by
  calc exec (.joinAnswer port f) s
      = execJoinAnswer port f s := rfl
    _ = _ := by
      rw [execJoinAnswer, inputTo_there hr, ctrlTake_fresh hf]
      rfl

/-! ### Leaving (R290) -/

theorem exec_leave {s : State} {port : Nat} {f : Bytes} {e : Nat × Member} (hr : rolesThere s (.leave port f) = true)
    (hhead : s.fab.head = true) (hf : FreshCtrl s 0x0C 8 f)
    (he : s.fab.members.find? (fun x => x.2.id == beAt (framePayload f) 0 8 && x.1 != 0) = some e) :
    exec (.leave port f) s = .next (removePosition ((fun u : State =>
      { u with fab := { u.fab with joined := u.fab.joined.filter (fun id => id != e.2.id) } }) (ctrlAccepted s f)) e.1) := by
  have hmember : (ctrlAccepted s f).fab.members.find? (fun x => x.2.id == beAt (framePayload f) 0 8 && x.1 != 0) =
      some e := he
  calc exec (.leave port f) s
      = execLeave port f s := rfl
    _ = _ := by rw [execLeave, inputTo_there hr, State.when_of hhead, ctrlTake_fresh hf, hmember]

/-! ### Fabric time (R292) -/

/-- The device that has taken the time of a TIME_SYNC: the carried time plus the link delay plus the residence, one hop
    more, and the uplink that the frame shows. -/
def timeTaken (s : State) (p res : Nat) (f : Bytes) : State :=
  (learnUplink { ctrlAccepted s f with fab := { (ctrlAccepted s f).fab with
      time := (beAt (framePayload f) 0 6 + (s.port p).delay / 1000 + res) % 2 ^ 48, synced := true,
      hops := (beAt (framePayload f) 6 2 + 1) % 65536 } }
    (uplinkShown s p (frameHops f) (beAt (framePayload f) 6 2) (frameSrc f))).setStat Reg.fabStatusTimeOk 1

/-- The frame that goes on around the ring, with that time and hop, but for its CRC. -/
def timeFrame (s : State) (p res : Nat) (f : Bytes) : Bytes :=
  slice f 0 16 ++ (beBytes 6 ((beAt (framePayload f) 0 6 + (s.port p).delay / 1000 + res) % 2 ^ 48) ++
    beBytes 2 ((beAt (framePayload f) 6 2 + 1) % 65536))

/-- A TIME_SYNC that shows no second head: the time is taken, and one from the ring goes on. -/
theorem exec_timeSync {s : State} {p res : Nat} {f : Bytes} (hr : rolesThere s (.timeSync p res f) = true) (hp : p < 4)
    (hother : sentBySelf s f = false) (hf : FreshCtrl s 0x04 8 f)
    (hone : (s.fab.head && decide (p < 2) && decide (frameSrc f % 64 = 0)) = false) :
    exec (.timeSync p res f) s = .next (noteModeConflict
      (if 2 ≤ p then timeTaken s p res f
      else (fun g => linkCopy (linkCopy (timeTaken s p res f) (oppositeOut (p + 2)) (g ++ beBytes 4 (frameCrc g))) 5
        (g ++ beBytes 4 (frameCrc g))) (timeFrame s p res f))) := by
  calc exec (.timeSync p res f) s
      = execTimeSync p res f s := rfl
    _ = _ := by
      rw [execTimeSync, inputTo_there hr, State.when_of (by simp [hother, hp]), ctrlTake_fresh hf]
      exact congrArg (fun t => Host.Outcome.next (noteModeConflict t)) (if_neg (Bool.eq_false_iff.mp hone))

/-- Settles O27: the frames are fresh and taken once (`ctrlTake_fresh`); the rest by its guards. -/
theorem fabricJoining : Obligations.FabricJoining := by
  refine ⟨?joinRetry, ?fullRetry, ?joinReq, ?joinReqFull, ?joined, ?refused, ?otherJoined,
    fun s port f e hr hhead hf he => exec_leave hr hhead hf he, ?leaveTimeout, fun s hrun => next_when hrun, ?timeSend,
    ?timeBranch, ?timeRing, ?timeLoss, fun _ => rfl⟩
  case joinRetry =>
    intro s hr hruns hhead hasks hport
    exact inputTo_when hr (by simp only [hruns, hhead, hasks, hport, Bool.not_false, Bool.and_self])
  case fullRetry =>
    intro s hr hruns hhead hfull
    exact inputTo_when hr (by simp only [hruns, hhead, hfull, Bool.not_false, Bool.and_self])
  case joinReq =>
    rintro s _ port p f hr hhead honce hf hany hnew hfree rfl
    rw [exec_joinReq_new hr hhead honce hf hany hnew hfree, Option.elim_some]
  case joinReqFull =>
    intro s port f hr hhead honce hf hany hnew hfull
    exact exec_joinReq_new hr hhead honce hf hany hnew hfull
  case joined =>
    intro s port f hr hhead hf hme hgood
    have hmine : (decide (beAt (framePayload f) 0 8 = s.cip.deviceId) && !s.fab.head) = true := by simp [hme, hhead]
    rw [exec_joinAnswer hr hf, if_pos hmine, if_pos hgood]
    exact ⟨_, rfl, addressTaken (ctrlAccepted s f) f, rfl, rfl, rfl, rfl, rfl, addressTaken_eff _ f⟩
  case refused =>
    intro s port f hr hhead hf hme hbad
    have hmine : (decide (beAt (framePayload f) 0 8 = s.cip.deviceId) && !s.fab.head) = true := by simp [hme, hhead]
    rw [exec_joinAnswer hr hf, if_pos hmine, if_neg hbad]
  case otherJoined =>
    intro s port f hr hf hother hgood
    rw [exec_joinAnswer hr hf, if_neg (by simp [hother]), if_pos hgood]
  case leaveTimeout =>
    intro s p hr hruns hhead hp hmember
    exact inputTo_when hr (by simp only [hruns, hhead, bne_iff_ne.mpr hp, hmember, Bool.and_self])
  case timeSend =>
    intro s hr hruns hsource
    exact inputTo_when hr (by simp [hruns, hsource])
  case timeBranch =>
    rintro s _ p res f hr hlo hhi hother hf rfl
    rw [exec_timeSync hr hhi hother hf (by simp [Nat.not_lt_of_le hlo]), if_pos hlo]
    rfl
  case timeRing =>
    rintro s _ p res f hr hp hone hother hf rfl
    rw [exec_timeSync hr (by omega) hother hf (by rw [Bool.and_right_comm, hone]; rfl), if_neg (Nat.not_le_of_lt hp)]
    rfl
  case timeLoss =>
    intro s hr hruns hfollows
    exact inputTo_when hr (by simp only [hruns, hfollows, Bool.not_false, Bool.and_self])

end Sys2Proof.Machine
end
section
/-! PROOFS. Frames through the core (11_gaten_fabric.md R284, R285, R291, R294, R297-R303): what becomes of the frame that
the blocks on a port carry, of one that leaves an output, and of one read back from the spill. -/
namespace Sys2Proof.Machine

/-! ### Reception (R284, R285, R291, R294, R299-R303) -/

theorem exec_frameReceived (s : State) (p : Nat) (b : LinkBlock) (l : List LinkBlock) :
    exec (.frameReceived p b l) s = .next (blocksArrive p (b :: l) s) := rfl

section
variable {s u : State} {p : Nat} {bl : List LinkBlock} {f : Bytes} (hruns : fabricRuns s = true) (hp : p < 4)
  (hen : portEnabled s p = true) (hf : f = bl.flatMap LinkBlock.data)
  (hu : u = countCodes s p (bl.map LinkBlock.violations).sum)
include hruns hp hen hf hu

theorem blocksArrive_bad (hbad : (blocksOk bl && frameOk f) = false) :
    blocksArrive p bl s = noteModeConflict (linkError u p) := by
  have herr : (!blocksOk bl || !frameOk f) = true := by rw [← Bool.not_and, hbad]; rfl
  subst hf hu
  rw [blocksArrive, State.when_of (by simp [hruns, hp, hen])]
  exact congrArg noteModeConflict (if_pos herr)

variable (hblocks : blocksOk bl = true) (hframe : frameOk f = true)
include hblocks hframe

theorem blocksArrive_notUp (hdown : portPhase u p ≠ .up) : blocksArrive p bl s = noteModeConflict u := by
  subst hf hu
  rw [blocksArrive, State.when_of (by simp [hruns, hp, hen])]
  dsimp only
  rw [if_neg (by simp [hblocks, hframe]), beq_false_of_ne hdown, when_false]

/-- A good frame of a class other than CTRL on an UP port: by its address and what is left of its hop limit. -/
theorem blocksArrive_up {g : Bytes} (hg : g = frameWithHops f (frameHops f - 1)) (hup : portPhase u p = .up)
    (hcls : frameCls f ≠ clsCtrl) :
    blocksArrive p bl s = noteModeConflict
      (if frameMcast g then
        if frameHops f - 1 = 0 then
          (countDrop (receiveMcast u p g (decide (0 < frameHops f - 1))) (frameCls f)).raise Reg.fabFaultHopExpired
        else receiveMcast u p g (decide (0 < frameHops f - 1))
      else if !frameMcast g && some (frameDst g) == u.fab.addr then toLocal u (pickBank u (decide (p < 2)) g).2
      else if frameHops f - 1 = 0 then (countDrop u (frameCls f)).raise Reg.fabFaultHopExpired
      else if u.fab.addr.isNone then
        if p < 2 then forward u (oppositeOut (p + 2)) g else countDrop u (frameCls f)
      else lookupForward u (p + 2) g) := by
  subst hf hu hg
  rw [blocksArrive, State.when_of (by simp [hruns, hp, hen])]
  dsimp only
  rw [if_neg (by simp [hblocks, hframe]), State.when_of (beq_iff_eq.mpr hup), if_neg (by simp [hcls])]

end

/-! ### Departure (R284, R297) -/

section
variable {s : State} {o c k : Nat} (hruns : fabricRuns s = true) (ho : o < 6) (hc : c < 4) (hopen : outputOpen s o = true)
  (htx : txClass s o = some k)
include hruns ho hc hopen htx

/-- What is in transmission at an open output when a frame of class `c` is said to have left. -/
theorem exec_frameSent :
    exec (.frameSent o c) s = .next
      (if blocksLeft s o k ≤ 1 then (if k = c then frameLeaves s o k else s)
      else if pickClass s o = some c then frameLeaves (sendBlock s o k) o c else s) := by
  calc exec (.frameSent o c) s
      = execFrameSent o c s := rfl
    _ = _ := by rw [execFrameSent, next_when (by simp [hruns, ho, hc, hopen]), htx]

end

/-! ### The spill (R300) -/

theorem queue_setQueue (s : State) (o c : Nat) (q : OutQ) : (s.setQueue o c q).queue o c = q := by
  simp [State.queue, State.setQueue]

section
variable {s : State} {o c : Nat} {f : QFrame} (hruns : fabricRuns s = true) (ho : o < 6) (hc : c < 4)
  (hroom : (decide (chipCells (s.queue o c) < s.eff Reg.fabBufMin) || decide (s.fab.sharedUsed < threshCells s)) = true)
  (hone : (s.queue o c).frames = [f]) (hspilled : f.spilled = true)
include hruns ho hc hroom hone hspilled

theorem exec_spillReadback (corrupt : Bool) :
    exec (.spillReadback o c corrupt) s = .next
      (let n := frameCells f.bytes
       let shared := if corrupt || chipCells (s.queue o c) + n ≤ s.eff Reg.fabBufMin then 0 else n
       let t := s.setQueue o c (if corrupt then ⟨[], false⟩ else ⟨[{ f with spilled := false, shared := shared }], false⟩)
       let t := { t with fab := { t.fab with spilled := t.fab.spilled - n, sharedUsed := t.fab.sharedUsed + shared } }
       if corrupt then retireCheck (t.raise Reg.fabFaultSpillErr) else kick t o) := by
  have hfirst : (s.queue o c).frames.find? QFrame.spilled = some f := by simp [hone, hspilled]
  calc exec (.spillReadback o c corrupt) s
      = execSpillReadback o c corrupt s := rfl
    _ = _ := by
      rw [execSpillReadback]
      dsimp only
      rw [next_when (by simp only [hruns, ho, hc, hroom, decide_true, Bool.and_self]), hfirst]
      dsimp only
      rw [hone]
      cases corrupt <;> simp [unspill, hspilled]

end

/-- Settles O28: a good frame on an UP port by its address, a sent one by what is in transmission, a spilled one by its
    CRC. -/
theorem fabricFrames : Obligations.FabricFrames := by
  refine ⟨fun s u p b l f hruns hp hen hf hu hbad => congrArg _ (blocksArrive_bad hruns hp hen hf hu hbad),
    fun s u p b l f hruns hp hen hf hu hblocks hframe hdown =>
      congrArg _ (blocksArrive_notUp hruns hp hen hf hu hblocks hframe hdown),
    ?mine, ?expired, ?forward, ?multicast, ?sent, ?sentAfter, ?spillBad, ?spillWhole⟩
  case mine =>
    intro s u p b l f g hruns hp hen hf hu hg hblocks hframe hup hcls hone hme
    rw [exec_frameReceived, blocksArrive_up hruns hp hen hf hu hblocks hframe hg hup hcls, if_neg (by simp [hone]),
      if_pos (by simp [hone, hme])]
  case expired =>
    intro s u p b l f g hruns hp hen hf hu hg hblocks hframe hup hcls hone hother hhops
    rw [exec_frameReceived, blocksArrive_up hruns hp hen hf hu hblocks hframe hg hup hcls, if_neg (by simp [hone]),
      if_neg (by simp [hother.symm]), if_pos (by omega)]
  case forward =>
    intro s u p b l f g hruns hp hen hf hu hg hblocks hframe hup hcls hone hother hhops haddr
    rw [exec_frameReceived, blocksArrive_up hruns hp hen hf hu hblocks hframe hg hup hcls, if_neg (by simp [hone]),
      if_neg (by simp [hother.symm]), if_neg (by omega), if_neg (by simp [Option.ne_none_iff_isSome, haddr])]
  case multicast =>
    intro s u p b l f g hruns hp hen hf hu hg hblocks hframe hup hcls hmcast hhops
    rw [exec_frameReceived, blocksArrive_up hruns hp hen hf hu hblocks hframe hg hup hcls, if_pos hmcast, if_neg (by omega),
      decide_eq_true (by omega)]
  case sent =>
    intro s o c hruns ho hc hopen htx hlast
    rw [exec_frameSent hruns ho hc hopen htx, if_pos hlast, if_pos rfl]
  case sentAfter =>
    intro s o c k hruns ho hc hopen htx hmore hpick
    rw [exec_frameSent hruns ho hc hopen htx, if_neg (by omega), if_pos hpick]
  case spillBad =>
    intro s o c f hruns ho hc hroom hone hspilled
    exact ⟨_, exec_spillReadback hruns ho hc hroom hone hspilled true, _, rfl,
      congrArg OutQ.frames (queue_setQueue s o c ⟨[], false⟩), rfl, stat_setStat _ Reg.fabFaultSpillErr 1⟩
  case spillWhole =>
    rintro s o c _ f hruns ho hc hroom hone hspilled rfl
    rw [exec_spillReadback hruns ho hc hroom hone hspilled false]
    simp

end Sys2Proof.Machine
end
section
/-! PROOFS. The tables' update (11_gaten_fabric.md R289, R303-R305, R308): the CTRL frames of an update, its time-outs, port
events and advertisements. -/
namespace Sys2Proof.Machine

theorem bank_setBank (s : State) (e : Nat) (b : Bank) : (s.setBank e b).bank e = b := by
  simp [State.bank, State.setBank]

/-! ### The frames of an update (R289, R304) -/

section
variable {s : State} {port : Nat} {f : Bytes}

/-- PREPARE at a downstream device; `u` is the device with CUR as the head has it (log 20). -/
theorem exec_prepare {u : State} (hr : rolesThere s (.prepare port f) = true) (hdown : s.fab.head = false)
    (haddr : s.fab.addr.isSome = true) (hf : FreshCtrl s 0x06 7 f)
    (hu : u = if decide (byteAt (framePayload f) 4 % 2 = s.fab.epoch) && (s.bank s.fab.epoch).state == .invalid then
        { ctrlAccepted s f with fab := { (ctrlAccepted s f).fab with epoch := 1 - byteAt (framePayload f) 4 % 2 } }
      else ctrlAccepted s f)
    (hidle : byteAt (framePayload f) 4 % 2 ≠ u.fab.epoch) :
    exec (.prepare port f) s = .next (noteModeConflict (sendToHead (prepareBank u (beAt (framePayload f) 0 4)
      (byteAt (framePayload f) 4 % 2) (byteAt (framePayload f) 5 = 1)
      (((framePayload f).drop 7).take (byteAt (framePayload f) 6) |>.map (fun x => x.toNat % 64))) 0x07
      (slice (framePayload f) 0 4))) := by
  have hcur : u = if decide (byteAt (framePayload f) 4 % 2 = (ctrlAccepted s f).fab.epoch) &&
      ((ctrlAccepted s f).bank (byteAt (framePayload f) 4 % 2)).state == .invalid then
        { ctrlAccepted s f with fab := { (ctrlAccepted s f).fab with epoch := 1 - byteAt (framePayload f) 4 % 2 } }
      else ctrlAccepted s f := by
    rw [hu]
    by_cases he : byteAt (framePayload f) 4 % 2 = s.fab.epoch
    · rw [he]
      rfl
    · have hne : ¬ byteAt (framePayload f) 4 % 2 = (ctrlAccepted s f).fab.epoch := he
      simp [he, hne]
  calc exec (.prepare port f) s
      = execPrepare port f s := rfl
    _ = _ := by
      rw [execPrepare, inputTo_there hr, State.when_of (by simp [hdown, haddr]), ctrlTake_fresh hf]
      dsimp only
      rw [← hcur, if_neg hidle]

/-- READY for the head's update: one position less is missing. -/
theorem exec_ready {m : List Nat} (hr : rolesThere s (.ready port f) = true) (hhead : s.fab.head = true)
    (hf : FreshCtrl s 0x07 4 f) (hupd : s.fab.upd = .preparing m) (hnum : beAt (framePayload f) 0 4 = s.fab.update) :
    exec (.ready port f) s = .next
      (if (m.filter (fun p => p != frameSrc f % 64)).isEmpty then startFlip (ctrlAccepted s f)
      else (fun u : State => { u with fab := { u.fab with
        upd := .preparing (m.filter (fun p => p != frameSrc f % 64)) } }) (ctrlAccepted s f)) := by
  have hwaits : (ctrlAccepted s f).fab.upd = .preparing m := hupd
  calc exec (.ready port f) s
      = execReady port f s := rfl
    _ = _ := by
      rw [execReady, inputTo_there hr, State.when_of hhead, ctrlTake_fresh hf, hwaits]
      exact congrArg _ (if_pos hnum)

theorem exec_flip (hr : rolesThere s (.flip port f) = true) (hdown : s.fab.head = false)
    (haddr : s.fab.addr.isSome = true) (hf : FreshCtrl s 0x08 4 f) (hnum : beAt (framePayload f) 0 4 = s.fab.update)
    (hvalid : (s.bank (1 - s.fab.epoch)).state = .valid) :
    exec (.flip port f) s = .next (noteModeConflict (retireCheck (flipBank (ctrlAccepted s f)))) := by
  have hready : (decide (beAt (framePayload f) 0 4 = s.fab.update) && (s.bank (1 - s.fab.epoch)).state == .valid) = true := by
    simp [hnum, hvalid]
  calc exec (.flip port f) s
      = execFlip port f s := rfl
    _ = _ := by
      rw [execFlip, inputTo_there hr, State.when_of (by simp [hdown, haddr]), ctrlTake_fresh hf]
      exact congrArg (fun t => Host.Outcome.next (noteModeConflict t)) (if_pos hready)

end

/-! ### Time-outs (R304) -/

theorem exec_readyTimeout {s : State} {m : List Nat} (hr : rolesThere s .readyTimeout = true)
    (hruns : fabricRuns s = true) (hupd : s.fab.upd = .preparing m) :
    exec .readyTimeout s = .next ((fun u : State => { u with fab := { u.fab with upd := .cancelled } })
      (abandonBank (sendGroup15 s 0x0A (beBytes 4 s.fab.update)))) := by
  calc exec .readyTimeout s
      = execReadyTimeout s := rfl
    _ = _ := by rw [execReadyTimeout, inputTo_there hr, hupd, next_when hruns]

theorem exec_retireTimeout {s : State} {m : List Nat} (hr : rolesThere s .retireTimeout = true)
    (hruns : fabricRuns s = true) (hupd : s.fab.upd = .retiring m)
    (hbank : (s.bank (1 - s.fab.epoch)).state = .retiring) :
    exec .retireTimeout s = .next ((fun u : State => { u with fab := { u.fab with upd := .holdoff } })
      (s.setBank (1 - s.fab.epoch) { s.bank (1 - s.fab.epoch) with state := .invalid })) := by
  have hwaits (b : Bank) : (s.setBank (1 - s.fab.epoch) b).fab.upd = .retiring m := hupd
  calc exec .retireTimeout s
      = execRetireTimeout s := rfl
    _ = _ := by
      rw [execRetireTimeout, inputTo_there hr, next_when hruns]
      dsimp only
      rw [if_pos (by rw [hbank]; rfl), hwaits]

/-! ### Advertisements (R308) -/

/-- SEG_ADVERT: `u` has told the segment what came from branch B, and `q` is the position that the advert is for. -/
theorem exec_segAdvert {s u : State} {port q : Nat} {f : Bytes} (hr : rolesThere s (.segAdvert port f) = true)
    (haddr : s.fab.addr.isSome = true) (hport : port ≠ 2) (hf : FreshCtrl s 0x0B 128 f)
    (hu : u = if port = 3 then sendGroup15 (ctrlAccepted s f) 0x0B (beBytes 128 (beNat ((framePayload f).take 128)))
      else ctrlAccepted s f)
    (hq : q = if port = 3 then (ctrlAccepted s f).pos else frameSrc f % 64) :
    exec (.segAdvert port f) s = .next (noteModeConflict
      (if tblGet 0 u.fab.adverts q = beNat ((framePayload f).take 128) then u
      else (fun u : State => startUpdate (if portUsable u 2 then sendAdvert u else u))
        ((fun u : State => if segConflicts u ≠ 0 then u.raise Reg.fabFaultSegConflict else u)
          ((fun v : State => { v with fab := { v.fab with
            adverts := tblPut 0 v.fab.adverts q (beNat ((framePayload f).take 128)) } }) u)))) := by
  subst hu hq
  calc exec (.segAdvert port f) s
      = execSegAdvert port f s := rfl
    _ = _ := by
      rw [execSegAdvert, inputTo_there hr, State.when_of (by simp [haddr, hport]), ctrlTake_fresh hf]
      simp only [bne_iff_ne]

/-- Settles O29: fresh frames by `ctrlTake_fresh`, time-outs by the state of the update. -/
theorem fabricTables : Obligations.FabricTables := by
  refine ⟨?portEvent, ?prepare, ?prepareOwn, ?readyLast, ?ready,
    fun s port f hr hdown haddr hf hnum hvalid => exec_flip hr hdown haddr hf hnum hvalid, ?retired, ?cancel,
    fun s m hr hruns hupd => exec_readyTimeout hr hruns hupd, ?retireTimeout, ?updateRepeat, ?holdoffDue, ?holdoffIdle,
    ?advertSend, ?advertNew, ?advertSame⟩
  case portEvent =>
    intro s port f hr hhead hf
    calc exec (.portEvent port f) s
        = execPortEvent port f s := rfl
      _ = _ := by rw [execPortEvent, inputTo_there hr, State.when_of hhead, ctrlTake_fresh hf]
  case prepare =>
    intro s port f hr hdown haddr hf hother
    exact exec_prepare hr hdown haddr hf (by simp [hother]) hother
  case prepareOwn =>
    intro s u port f hr hdown haddr hf hown hinv hu
    refine exec_prepare hr hdown haddr hf (hu.trans (if_pos (by simp [hown, hinv])).symm) ?_
    rw [hu]
    dsimp only
    omega
  case readyLast =>
    intro s port f m hr hhead hf hupd hnum hlast
    rw [exec_ready hr hhead hf hupd hnum, if_pos (List.isEmpty_iff.mpr hlast)]
  case ready =>
    intro s port f m hr hhead hf hupd hnum hmore
    rw [exec_ready hr hhead hf hupd hnum, if_neg (fun h => hmore (List.isEmpty_iff.mp h))]
  case retired =>
    intro s port f hr hhead hf hnum
    calc exec (.retired port f) s
        = execRetired port f s := rfl
      _ = _ := by
        rw [execRetired, inputTo_there hr, State.when_of hhead, ctrlTake_fresh hf]
        exact congrArg _ (if_pos hnum)
  case cancel =>
    intro s port f hr hdown haddr hf hnum
    calc exec (.cancel port f) s
        = execCancel port f s := rfl
      _ = _ := by
        rw [execCancel, inputTo_there hr, State.when_of (by simp [hdown, haddr]), ctrlTake_fresh hf]
        exact congrArg _ (if_pos hnum)
  case retireTimeout =>
    intro s m hr hruns hupd hbank
    exact ⟨_, exec_retireTimeout hr hruns hupd hbank, rfl, congrArg Bank.state (bank_setBank s _ _), rfl⟩
  case updateRepeat =>
    intro s hr hruns hupd
    exact inputTo_when hr (by simp [hruns, hupd])
  case holdoffDue =>
    intro s hr hruns hupd hdue
    exact (inputTo_when hr (by simp [hruns, hupd])).trans (congrArg _ (if_pos hdue))
  case holdoffIdle =>
    intro s hr hruns hupd hnone
    exact (inputTo_when hr (by simp [hruns, hupd])).trans (congrArg _ (if_neg (Bool.eq_false_iff.mp hnone)))
  case advertSend =>
    intro s hr hruns haddr hport
    exact inputTo_when hr (by simp only [hruns, haddr, hport, Bool.and_self])
  case advertNew =>
    intro s u port q f hr haddr hport hf hu hq hnew
    rw [exec_segAdvert hr haddr hport hf hu hq, if_neg hnew]
  case advertSame =>
    intro s u port q f hr haddr hport hf hu hq hsame
    rw [exec_segAdvert hr haddr hport hf hu hq, if_pos hsame]

end Sys2Proof.Machine
end
section
/-! PROOFS. The store's events (13_laurel_store.md R350, R352, R358-R362, R366; 15_power_and_supervision.md R405): records
written, sectors erased, VHOLD, the failure of the main supply and the scrub. -/
namespace Sys2Proof.Machine

/-! ### Sectors and VHOLD (R350, R360, R361) -/

/-- An erase that ends: deferred where it may not be made, repeated where the sector does not read blank. -/
theorem exec_sectorEraseDone {s : State} {n : Nat} {a : Area} {blank ok : Bool}
    (hr : rolesThere s (.sectorEraseDone n blank ok) = true) (ha : areaAt n = some a)
    (hdue : (eraseTarget (s.area a) a).isSome = true) (hfail : s.nvs.failing = false) :
    exec (.sectorEraseDone n blank ok) s = .next
      (if ok && s.nvs.holdSeen then s.when blank fun s => sectorErased s a else noteDeferred s) := by
  calc exec (.sectorEraseDone n blank ok) s
      = execSectorEraseDone n blank s ok := rfl
    _ = _ := by
      rw [execSectorEraseDone, inputTo_there hr, ha, next_when (by simp [hdue, hfail])]
      cases ok && s.nvs.holdSeen <;> rfl

theorem exec_vholdReady {s : State} (us : Nat) (hon : chargerOn s = true) (hnew : s.nvs.holdSeen = false) :
    exec (.vholdReady us) s = .next
      (if us < 2000 then
        raiseEvent { s with nvs := { s.nvs with holdSeen := true }, pwr := { s.pwr with
          supplies := s.pwr.supplies.set 6 (max 4500 (vhold s)) } } Reg.nvsFaultHoldSmall blkNvs []
      else { s with nvs := { s.nvs with holdSeen := true }, pwr := { s.pwr with
          supplies := s.pwr.supplies.set 6 (max 4500 (vhold s)) } }) :=
  next_when (by rw [hon, hnew]; rfl)

/-! ### Main supply failure (R362; 15 R405) -/

/-- The first report of a main supply's failure, with the header flag or erase that it cuts. -/
def supplyFailed (s : State) (v mv : Nat) (fl : Option (Nat × Nat)) : State :=
  (fl.bind (fun e => (areaAt e.1).map (fun a => (a, e.2)))).elim
    { s with
      nvs := { s.nvs with failing := true },
      pwr := { s.pwr with failedSupply := some v, supplies := s.pwr.supplies.set v mv } }
    (fun e => headerCut e.2 e.1 { s with
      nvs := { s.nvs with failing := true },
      pwr := { s.pwr with failedSupply := some v, supplies := s.pwr.supplies.set v mv } })

/-- The records that the energy of HOLD lets through, with the fuses and the import before them. -/
def finalWritten (u : State) (n : Nat) (un : List Nat) : State :=
  programAll (importCut (fusesFollow u n) n) ((finalItems u).take n) un

/-- What becomes of the record behind the last one written: cut at byte `c`, where one is named. -/
def nextCut (c : Option Nat) (i : Option RecItem) (t : State) : State :=
  match c, i with
  | some k, some i => cutItem t i k
  | _, _ => t

section
variable {s : State} {v mv : Nat} (hv : v < 4) (hmv : mv < failsBelow s v) (hmode : (s.mode != .seed) = true)
  (hfail : s.nvs.failing = false)
include hv hmv hmode hfail

theorem exec_mainSupplyFailure (n : Nat) (c : Option Nat) (fl : Option (Nat × Nat)) (un : List Nat) {u : State}
    (hu : u = supplyFailed s v mv fl) :
    exec (.mainSupplyFailure v n mv c fl un) s = .next
      (if u.nvs.holdSeen then nextCut c (finalItems u)[n]? (finalWritten u n un) else u) := by
  subst hu
  calc exec (.mainSupplyFailure v n mv c fl un) s
      = execMainSupplyFailure v n s mv c fl un := rfl
    _ = _ := by
      rw [execMainSupplyFailure, next_when (by simp [hv, hmv, hmode, hfail])]
      unfold supplyFailed
      cases fl.bind (fun e => (areaAt e.1).map (fun a => (a, e.2))) <;> rfl

end

/-! ### Scrub (R366) -/

theorem scrubFit_of {s : State} (hseen : s.nvs.holdSeen = true) (hfail : s.nvs.failing = false) :
    scrubFit s true = true := by simp [scrubFit, hseen, hfail]

/-- Settles O36: each event by its guard; R362 by what becomes of the record behind the last one written. -/
theorem storeEvents : Obligations.StoreEvents := by
  refine ⟨?written, ?erased, ?notBlank, ?deferred, ?vhold, ?vholdSoon, ?finals, ?cut, ?unheld, ?scrub, ?scrubUnfit,
    fun s t i w hform harea hw hsec hhead hprog => programItem_stands hform harea hw hsec hhead hprog⟩
  case written =>
    intro s ok v hr hmode hfail hfront
    exact inputTo_when hr (by rw [hmode, hfail, hfront]; rfl)
  case erased =>
    intro s n a hr ha hdue hseen hfail
    rw [exec_sectorEraseDone hr ha hdue hfail, if_pos (by rw [hseen]; rfl), when_true]
  case notBlank =>
    intro s n a hr ha hdue hseen hfail
    rw [exec_sectorEraseDone hr ha hdue hfail, if_pos (by rw [hseen]; rfl), when_false]
  case deferred =>
    intro s n a b ok hr ha hdue hok hfail
    rw [exec_sectorEraseDone hr ha hdue hfail, if_neg (by rw [hok]; decide)]
  case vhold =>
    intro s us hon hnew hus
    rw [exec_vholdReady us hon hnew, if_neg (Nat.not_lt_of_le hus)]
  case vholdSoon =>
    intro s us hon hnew hus
    rw [exec_vholdReady us hon hnew, if_pos hus]
  case finals =>
    intro s u v mv n fl un hv hmv hmode hfail hu hseen
    rw [exec_mainSupplyFailure hv hmv hmode hfail n none fl un hu, if_pos hseen]
    rfl
  case cut =>
    intro s u v mv n k i fl un hv hmv hmode hfail hu hseen hi
    rw [exec_mainSupplyFailure hv hmv hmode hfail n (some k) fl un hu, if_pos hseen, hi]
    rfl
  case unheld =>
    intro s u v mv n c fl un hv hmv hmode hfail hu hseen
    rw [exec_mainSupplyFailure hv hmv hmode hfail n c fl un hu, if_neg (by rw [hseen]; decide)]
  case scrub =>
    intro s w un h hr hen hmode hseen hfail
    refine (inputTo_when hr (by rw [hen, hmode, hfail]; rfl)).trans ?_
    rw [if_pos (scrubFit_of hseen hfail)]
  case scrubUnfit =>
    intro s w un h ok hr hen hmode hok hfail hweak
    refine (inputTo_when hr (by rw [hen, hmode, hfail]; rfl)).trans ?_
    rw [if_neg (by simp [scrubFit, hok]), if_neg (by rw [hweak]; decide)]

end Sys2Proof.Machine
end

section
/-! PROOFS. The commands of ring 9 (13_laurel_store.md R348, R359, R366, R368, R369): the host records, the store's wear
and a scrub on request. -/
namespace Sys2Proof.Machine

section
variable {s : State} {tag : Nat} {d : Desc}

theorem exec_read (hwait : Waiting s 9 0x01 tag d) (hlen : 1024 ≤ d.len) (hkey : hostKey d.p0 = true) :
    exec (.read tag) s = .next ((hostRecord s d.p0).elim (complete s 9 tag stNoRecord 0)
      (fun b => completeData s 9 d b b.length)) := by
  calc exec (.read tag) s
      = execRead tag s := rfl
    _ = _ := by
      rw [execRead, next_ringCmdIf hwait _ (by simp [hlen, hkey])]
      cases hostRecord s d.p0 <;> rfl

theorem exec_write (hwait : Waiting s 9 0x02 tag d) (hlen : d.len ≤ 1024) (hkey : hostKey d.p0 = true) (data : Bytes) :
    exec (.write tag data) s = .next (changeCmd 9 d true (fun s =>
      if 131072 < hostBytes s d.p0 + d.len then complete s 9 tag stStoreFull 0
      else nvRequest (markTaken s 9 tag false) (critPair d.p0 false (.host (padTo d.len data)))
        (.hostWrite tag d.p0 (nextRecSeq s d.p0))) s) :=
  next_ringCmdIf hwait _ (by simp [hlen, hkey])

theorem exec_delete (hwait : Waiting s 9 0x03 tag d) (hkey : hostKey d.p0 = true) :
    exec (.delete tag) s = .next (changeCmd 9 d true (fun s =>
      nvRequest (markTaken s 9 tag false) (critPair d.p0 true (.host []))
        (.hostDelete tag d.p0 (bit (hostRecord s d.p0).isSome))) s) :=
  next_ringCmdIf hwait _ hkey

theorem exec_scrubNow {w un : List Nat} {h : List (Nat × Nat)} {ok : Bool}
    (hr : rolesThere s (.scrubNow tag w h ok un) = true) (hwait : Waiting s 9 0x06 tag d) (hmask : d.p0 < 64) :
    exec (.scrubNow tag w h ok un) s = .next
      (if w.isEmpty && h.isEmpty then complete s 9 tag stOk 0
      else if !scrubFit s ok then complete (noteDeferred s) 9 tag stNvDeferred 0
      else complete (scrubPass s d.p0 w h un).1 9 tag stOk (scrubPass s d.p0 w h un).2) :=
  inputTo_ringCmdIf hr hwait _ (decide_eq_true hmask)

end

/-- Settles O37: a command on its served ring is its effect; a change goes by NVWP and by what waits before it. -/
theorem storeRing : Obligations.StoreRing := by
  refine ⟨?read, ?noRecord, ?write, ?full, ?protectedWrite, ?delete, ?list, ?wear, ?scrub, ?unfit, ?nothingWeak⟩
  case read =>
    intro s tag d b hwait hlen hkey hrec
    rw [exec_read hwait hlen hkey, hrec]
    rfl
  case noRecord =>
    intro s tag d hwait hlen hkey hrec
    rw [exec_read hwait hlen hkey, hrec]
    rfl
  case write =>
    intro s tag d data hwait hlen hkey hw hb hroom
    rw [exec_write hwait hlen hkey, changeCmd_free hw hb, if_neg (Nat.not_lt_of_le hroom)]
  case full =>
    intro s tag d data hwait hlen hkey hw hb hfull
    rw [exec_write hwait hlen hkey, changeCmd_free hw hb, if_pos hfull]
  case protectedWrite =>
    intro s tag d data hwait hlen hkey hw
    rw [exec_write hwait hlen hkey, changeCmd_protected hw]
  case delete =>
    intro s tag d hwait hkey hw hb
    rw [exec_delete hwait hkey, changeCmd_free hw hb]
  case list =>
    intro s tag d hwait hlen
    exact next_ringCmdIf hwait _ (decide_eq_true hlen)
  case wear =>
    intro s tag d hwait hlen
    exact next_ringCmdIf hwait _ (decide_eq_true hlen)
  case scrub =>
    intro s tag d w un h hr hwait hmask hweak hseen hfail
    rw [exec_scrubNow hr hwait hmask, if_neg (by rw [hweak]; decide), if_neg (by rw [scrubFit_of hseen hfail]; decide)]
  case unfit =>
    intro s tag d w un h ok hr hwait hmask hweak hok
    rw [exec_scrubNow hr hwait hmask, if_neg (by rw [hweak]; decide), if_pos (by rw [scrubFit, hok]; rfl)]
  case nothingWeak =>
    intro s tag d un ok hr hwait hmask
    exact exec_scrubNow hr hwait hmask

end Sys2Proof.Machine
end

section
/-! PROOFS. Ring 10 (14_live_update.md R371-R391): the images, their activation, the assets and the integrator's key. -/
namespace Sys2Proof.Machine

section
variable {s : State} {tag : Nat} {d : Desc} {data : Bytes}

/-! ### BEGIN and CHUNK (R374-R376) -/

/-- NVWP high and no activation under way: BEGIN goes by the header's status and by what is left to program. -/
theorem exec_begin {ok : Bool} (hr : rolesThere s (.begin_ tag data ok) = true) (hwait : Waiting s 10 0x01 tag d)
    (hlen : d.len = 4096) (hopt : onlyLow 1 d.p0 = true) (hw : s.nvwp = false) (hphase : s.upd.phase ≠ .activating)
    (hfail : s.nvs.failing = false) :
    exec (.begin_ tag data ok) s = .next
      (if headerStatus s (padTo 4096 data) (bitAt d.p0 0) ≠ stOk then
        complete s 10 tag (headerStatus s (padTo 4096 data) (bitAt d.p0 0)) 0
      else if (allMatch s (padTo 4096 data) (bitAt d.p0 0) && !(ok && s.nvs.holdSeen)) = true then
        complete (noteDeferred s) 10 tag stNvDeferred 0
      else beginAccepted d (padTo 4096 data) s) := by
  calc exec (.begin_ tag data ok) s
      = execBegin tag data s ok := rfl
    _ = _ := by
      rw [execBegin, inputTo_ringCmdIf hr hwait _ (by rw [hlen, hopt]; rfl)]
      simp only [hw, hfail, Bool.and_false, Bool.false_eq_true, if_false]
      rw [if_neg (by simpa using hphase)]

/-- A chunk of which only `n` sectors were let through: those are programmed, and it waits in the chunk buffer. -/
def chunkDeferred (s : State) (tag i : Nat) (c : Bytes) (n : Nat) : State :=
  (fun u : State => noteDeferred { u with upd := { u.upd with deferred := some (tag, c) } })
    (if n = 0 then s else passAbort (sectorsProgrammed s i c n) 10 tag)

section
variable {n : Nat} {c : Bytes} (hr : rolesThere s (.chunk tag data n) = true) (hwait : Waiting s 10 0x02 tag d)
  (hpos : 1 ≤ d.len) (hlen : d.len ≤ 131072) (hopt : onlyLow 9 d.p0 = true) (hw : s.nvwp = false)
  (hphase : s.upd.phase = .receiving) (hnext : d.p0 % 256 = nextChunk s)
  (hc : chunkContent s d (padTo d.len data) = some c)
include hr hwait hpos hlen hopt hw hphase hnext hc

/-- The next chunk, while receiving: its content goes by its digest and by the sectors that are let through. -/
theorem exec_chunk :
    exec (.chunk tag data n) s = .next
      (if !chunkMatches s.upd.header (d.p0 % 256) c then complete s 10 tag stChunkMismatch 0
      else if s.nvs.failing then s
      else if sectorsDue s (d.p0 % 256) c ≤ (if s.nvs.holdSeen then n else 0) then chunkProgrammed s tag (d.p0 % 256) c
      else chunkDeferred s tag (d.p0 % 256) c (if s.nvs.holdSeen then n else 0)) := by
  calc exec (.chunk tag data n) s
      = execChunk tag data n s := rfl
    _ = _ := by
      rw [execChunk, inputTo_ringCmdIf hr hwait _ (by simp only [hpos, hlen, hopt, decide_true, Bool.and_self])]
      simp only [hw, Bool.false_eq_true, if_false]
      rw [if_neg (by simp [hphase, hnext]), hc]
      rfl

theorem exec_chunk_mismatch (hm : chunkMatches s.upd.header (d.p0 % 256) c = false) :
    exec (.chunk tag data n) s = .next (complete s 10 tag stChunkMismatch 0) := by
  rw [exec_chunk hr hwait hpos hlen hopt hw hphase hnext hc, if_pos (by rw [hm]; rfl)]

theorem exec_chunk_match (hm : chunkMatches s.upd.header (d.p0 % 256) c = true) (hfail : s.nvs.failing = false) :
    exec (.chunk tag data n) s = .next
      (if sectorsDue s (d.p0 % 256) c ≤ (if s.nvs.holdSeen then n else 0) then chunkProgrammed s tag (d.p0 % 256) c
      else chunkDeferred s tag (d.p0 % 256) c (if s.nvs.holdSeen then n else 0)) := by
  rw [exec_chunk hr hwait hpos hlen hopt hw hphase hnext hc, if_neg (by rw [hm]; decide), if_neg (by rw [hfail]; decide)]

end

theorem exec_chunkDeferExpiry {c : Bytes} (hr : rolesThere s .chunkDeferExpiry = true)
    (hdef : s.upd.deferred = some (tag, c)) :
    exec .chunkDeferExpiry s = .next (complete { s with upd := { s.upd with deferred := none } } 10 tag stNvDeferred 0) := by
  calc exec .chunkDeferExpiry s
      = execChunkDeferExpiry s := rfl
    _ = _ := by rw [execChunkDeferExpiry, inputTo_there hr, hdef]

/-! ### ACTIVATE and RESTART (R379, R380, R390) -/

/-- The ACTIVATE that a live activation answers: taken up, and role 0 is next. -/
def activateTaken (s : State) (tag : Nat) (b : Bytes) : State :=
  markTaken ({ s with upd := { s.upd with
    phase := .activating, act := some ⟨tag, .role 0, 0, if b.isEmpty then none else some b, s.upd.running⟩ } }.setStat
    Reg.updProgressRoles 0) 10 tag false

section
variable (hwait : Waiting s 10 0x03 tag d) (hopt : onlyLow 1 d.p0 = true)
  (hblob : (decide (d.len = 0) || newBlob s (padTo d.len data)) = true) (hphase : s.upd.phase = .written)
  (hmain : s.upd.loader = false)
include hwait hopt hblob hphase hmain

/-- A written main image, with no blob or a good one of its format. -/
theorem exec_activate (ok : Bool) :
    exec (.activate tag data ok) s = .next
      (if !bitAt d.p0 0 then complete ((auditCmd s 10 0x03 0).setStat Reg.updProgressRoles 0) 10 tag stOk 0
      else if activateStatus s (padTo d.len data) ≠ stOk then
        complete (restartNeeded s) 10 tag (activateStatus s (padTo d.len data)) 0
      else if !ok then complete s 10 tag stBadImage 0
      else activateTaken (auditCmd (applyTiming .update s) 10 0x03 0) tag (padTo d.len data)) := by
  calc exec (.activate tag data ok) s
      = execActivate tag data s ok := rfl
    _ = _ := by
      rw [execActivate, next_ringCmdIf hwait _ (by rw [hopt, hblob]; rfl), if_neg (by simp [hphase, hmain])]
      rfl

theorem exec_activate_live (hlive : bitAt d.p0 0 = true) (ok : Bool) :
    exec (.activate tag data ok) s = .next
      (if activateStatus s (padTo d.len data) ≠ stOk then
        complete (restartNeeded s) 10 tag (activateStatus s (padTo d.len data)) 0
      else if !ok then complete s 10 tag stBadImage 0
      else activateTaken (auditCmd (applyTiming .update s) 10 0x03 0) tag (padTo d.len data)) := by
  rw [exec_activate hwait hopt hblob hphase hmain, if_neg (by rw [hlive]; decide)]

end

/-! ### Assets and the integrator's key (R386-R388, R390) -/

theorem exec_exportAsset (hwait : Waiting s 10 0x05 tag d) :
    exec (.exportAsset tag) s = .next
      (if !exportPermits s then refuseSilent s 10 d d.len
      else if d.len < (assetRecord s).length then complete s 10 tag stBadField 0
      else completeData (useSlot s 1) 10 d (assetRecord s) (assetRecord s).length) :=
  next_ringCmd hwait _

/-- NVWP high and no change before it: an import goes by its reason, its contents and the supplies. -/
theorem exec_importAsset {ok : Bool} (hr : rolesThere s (.importAsset tag data ok) = true)
    (hwait : Waiting s 10 0x06 tag d) (hform : assetForm (padTo d.len data) = true) (hw : s.nvwp = false)
    (hb : nvBusy s 10 = false) :
    exec (.importAsset tag data ok) s = .next
      (if assetReason s (padTo d.len data) (leBytes 8 d.p0 ++ leBytes 8 d.p1) ≠ 0 then
        complete (authJob true s) 10 tag stAssetRefused
          (assetReason s (padTo d.len data) (leBytes 8 d.p0 ++ leBytes 8 d.p1))
      else if !assetBody (padTo d.len data) then complete (authJob true s) 10 tag stBadField 0
      else if !ok || !(authJob true s).nvs.holdSeen then
        complete (noteDeferred (authJob true s)) 10 tag stNvDeferred 0
      else nvRequest (markTaken (authJob true s) 10 tag false) (importItems (authJob true s) (some tag) (padTo d.len data))
        (.import (some tag) (padTo d.len data))) :=
  (inputTo_ringCmdIf hr hwait _ hform).trans (congrArg Host.Outcome.next (changeCmd_free hw hb))

theorem exec_setAppkey (hwait : Waiting s 10 0x07 tag d) (hlen : d.len = 64) :
    exec (.setAppkey tag data) s = .next
      (if !(s.upd.appKey = 0 && (s.cip.lifeCycle == .blank || s.cip.lifeCycle == .provisioned)) then refuseSilent s 10 d 0
      else if s.nvwp then complete s 10 tag stWriteProtected 0
      else complete (auditCmd { s with upd := { s.upd with appKey := beNat (sha256 (padTo 64 data)) } } 10 0x07 0)
        10 tag stOk 0) :=
  next_ringCmdIf hwait _ (decide_eq_true hlen)

end

/-- Settles O38: each command on its served ring is its effect, chosen by its conditions in the rules' order. -/
theorem updateRing : Obligations.UpdateRing := by
  refine ⟨fun s tag d data ok hr hwait hlen hopt hw hphase hfail => exec_begin hr hwait hlen hopt hw hphase hfail,
    ?chunkDone, ?chunkWaits, ?chunkMismatch, fun s tag c hr hdef => exec_chunkDeferExpiry hr hdef, ?live, ?badBundle,
    ?refused, ?notLive, ?restart, ?exported, ?exportRefused, ?importRefused, ?imported, ?appKey, ?appKeyRefused⟩
  case chunkDone =>
    intro s tag n d data c hr hwait hpos hlen hopt hw hphase hnext hc hm hfail hseen hdue
    rw [exec_chunk_match hr hwait hpos hlen hopt hw hphase hnext hc hm hfail, if_pos (by rwa [if_pos hseen])]
  case chunkWaits =>
    intro s tag n d data c hr hwait hpos hlen hopt hw hphase hnext hc hm hfail hdue
    rw [exec_chunk_match hr hwait hpos hlen hopt hw hphase hnext hc hm hfail, if_neg (Nat.not_le_of_lt hdue)]
    rfl
  case chunkMismatch =>
    intro s tag n d data c hr hwait hpos hlen hopt hw hphase hnext hc hm
    exact exec_chunk_mismatch hr hwait hpos hlen hopt hw hphase hnext hc hm
  case live =>
    intro s tag d data hwait hopt hblob hphase hmain hlive hst
    rw [exec_activate_live hwait hopt hblob hphase hmain hlive, if_neg (not_not_intro hst), if_neg (by decide)]
    rfl
  case badBundle =>
    intro s tag d data hwait hopt hblob hphase hmain hlive hst
    rw [exec_activate_live hwait hopt hblob hphase hmain hlive, if_neg (not_not_intro hst), if_pos (by decide)]
  case refused =>
    intro s tag d data b hwait hopt hblob hphase hmain hlive hst
    rw [exec_activate_live hwait hopt hblob hphase hmain hlive, if_pos hst]
  case notLive =>
    intro s tag d data b hwait hopt hblob hphase hmain hlive
    rw [exec_activate hwait hopt hblob hphase hmain, if_pos (by rw [hlive]; rfl)]
  case restart =>
    intro s tag d hwait
    exact next_ringCmd hwait _
  case exported =>
    intro s tag d hwait hperm hlen
    rw [exec_exportAsset hwait, if_neg (by rw [hperm]; decide), if_neg (Nat.not_lt_of_le hlen)]
  case exportRefused =>
    intro s tag d hwait hperm
    rw [exec_exportAsset hwait, if_pos (by rw [hperm]; rfl)]
  case importRefused =>
    intro s tag d data ok hr hwait hform hw hb hwhy
    rw [exec_importAsset hr hwait hform hw hb, if_pos hwhy]
  case imported =>
    intro s tag d data hr hwait hform hw hb hwhy hbody hseen
    rw [exec_importAsset hr hwait hform hw hb, if_neg (not_not_intro hwhy), if_neg (by rw [hbody]; decide),
      if_neg (by rw [hseen]; decide)]
  case appKey =>
    intro s tag d data hwait hlen hkey hlife hw
    rw [exec_setAppkey hwait hlen, if_neg (by rw [hkey, hlife]; decide), if_neg (by rw [hw]; decide)]
  case appKeyRefused =>
    intro s tag d data hwait hlen hno
    rw [exec_setAppkey hwait hlen, if_pos (by rw [hno]; rfl)]

end Sys2Proof.Machine
end

section
/-! PROOFS. A live activation, role by role and then APP (14_live_update.md R379-R383). -/
namespace Sys2Proof.Machine

section
variable {s : State} {a : Activation}

theorem exec_roleHandoverSwap {n : Nat} (hrun : s.running = true) (ha : s.upd.act = some a) (hn : a.step = .role n)
    (ok : Bool) :
    exec (.roleHandoverSwap ok) s = .next (if ok then roleSwapped s a n else abandonMixed s) := by
  calc exec (.roleHandoverSwap ok) s
      = execRoleHandoverSwap ok s := rfl
    _ = _ := by
      rw [execRoleHandoverSwap, next_when hrun]
      simp only [ha, hn]

theorem exec_appHandoverPoint (ha : atAppStep s = some a) : exec .appHandoverPoint s = .next (appSwitches s a) := by
  calc exec .appHandoverPoint s
      = execAppHandoverPoint s := rfl
    _ = _ := by rw [execAppHandoverPoint, ha]

theorem exec_appWaitExpiry (ha : atAppStep s = some a) :
    exec .appWaitExpiry s = .next
      (if s.on Reg.updCtrlAppForce then appSwitches (restartNeeded s) a else abandonActivation s) := by
  calc exec .appWaitExpiry s
      = execAppWaitExpiry s := rfl
    _ = _ := by rw [execAppWaitExpiry, ha]

end

/-- Settles O39: a swap goes by its section's digest, APP's step by whether its handover is forced. -/
theorem liveActivation : Obligations.LiveActivation := by
  refine ⟨fun s a n hrun ha hn => exec_roleHandoverSwap hrun ha hn true,
    fun s a n hrun ha hn => exec_roleHandoverSwap hrun ha hn false, fun s a ha => exec_appHandoverPoint ha,
    ?abandoned, ?forced⟩
  case abandoned =>
    intro s a ha hforce
    rw [exec_appWaitExpiry ha, if_neg (by rw [hforce]; decide)]
  case forced =>
    intro s a ha hforce
    rw [exec_appWaitExpiry ha, if_pos hforce]

end Sys2Proof.Machine
end

section
/-! PROOFS. Ring 13's SELFTEST, PROD_TX and SCHEDULE (15_power_and_supervision.md R413, R417). -/
namespace Sys2Proof.Machine

section
variable {s : State} {tag : Nat} {d : Desc}

/-! ### SELFTEST (R413, R417) -/

/-- A SELFTEST that is taken up is noted with its mask, the tasks that it waits for and its LF channels. -/
def selftestNoted (s : State) (t : SelfTest) : State :=
  { s with pwr := { s.pwr with selftests := s.pwr.selftests ++ [t] } }

/-- Of the oscillator alone, only the task of the oscillator is requested. -/
theorem exec_selftest_oscillator (hr : rolesThere s (.selftest tag) = true) (hwait : Waiting s 13 0x01 tag d)
    (hmask : d.p0 = 8) (hmin : 10 ≤ d.p1) (hmax : d.p1 ≤ 4000) :
    exec (.selftest tag) s = .next (selftestBit
      (requestTask (selftestNoted (markTaken s 13 tag false) ⟨tag, 8, 0, 8, 0⟩) .oscTrim 64 64 d.p1 [tag]) [tag] 4 false) := by
  have hlf : bitAt 8 0 = false := by decide
  have hsgr : bitAt 8 1 = false := by decide
  have huwb : bitAt 8 2 = false := by decide
  have hosc : bitAt 8 3 = true := by decide
  have hspare : bitAt 8 4 = false := by decide
  calc exec (.selftest tag) s
      = execSelftest tag s := rfl
    _ = _ := by
      rw [execSelftest, inputTo_ringCmdIf hr hwait _ (by simp [hmask, hmin, hmax]), hmask, if_neg (by decide)]
      simp only [hlf, hsgr, huwb, hosc, hspare, Bool.false_eq_true, if_false, if_true, Bool.false_and, List.foldl_nil]
      rfl

/-! ### PROD_TX and SCHEDULE (R417) -/

/-- The first frame of a PROD_TX that is taken up. -/
def prodStarted (u : State) (tag : Nat) (d : Desc) : State :=
  prodFrame { u with pwr := { u.pwr with
    prodTx := some ⟨tag, bitAt d.p0 0, bitField d.p0 16 16, 0, d.p1, u.now⟩ } }

theorem exec_prodTx (hr : rolesThere s (.prodTx tag) = true) (hwait : Waiting s 13 0x04 tag d) (hp0 : d.p0 < 2 ^ 32)
    (hzero : bitField d.p0 1 15 = 0) (hcount : 1 ≤ bitField d.p0 16 16) (hmin : 1000 ≤ d.p1) (hmax : d.p1 ≤ 1000000) :
    exec (.prodTx tag) s = .next
      (if s.cip.lifeCycle != .blank && s.cip.lifeCycle != .returned then refuseSilent s 13 d 0
      else if s.pwr.prodTx.isSome then s
      else prodStarted (markTaken s 13 tag true) tag d) :=
  inputTo_ringCmdIf hr hwait _ (by simp only [hp0, hzero, hcount, hmin, hmax, decide_true, Bool.and_self])

end

/-- Settles O11: each command on its served ring is its effect; PROD_TX goes by the life cycle. -/
theorem testRing : Obligations.TestRing := by
  refine ⟨?selftestNone, ?selftestOscillator, ?prodRefused, ?prod, ?period, ?schedule⟩
  case selftestNone =>
    intro s tag d hr hwait hmask hmin hmax
    refine (inputTo_ringCmdIf hr hwait _ (by simp [hmask, hmin, hmax])).trans ?_
    rw [if_pos hmask]
  case selftestOscillator =>
    intro s tag d hr hwait hmask hmin hmax
    exact exec_selftest_oscillator hr hwait hmask hmin hmax
  case prodRefused =>
    intro s tag d hr hwait hp0 hzero hcount hmin hmax hblank hreturned
    rw [exec_prodTx hr hwait hp0 hzero hcount hmin hmax, if_pos (by simp [hblank, hreturned])]
  case prod =>
    intro s tag d hr hwait hp0 hzero hcount hmin hmax hlife hnone
    rw [exec_prodTx hr hwait hp0 hzero hcount hmin hmax, if_neg (by rcases hlife with h | h <;> simp [h]),
      if_neg (by simp [hnone])]
    rfl
  case period =>
    intro s hr hrun hwork
    exact inputTo_when hr (by simp [hrun, hwork])
  case schedule =>
    intro s tag d hr hwait hlen
    exact inputTo_ringCmdIf hr hwait _ (decide_eq_true hlen)

end Sys2Proof.Machine
end

section
/-! PROOFS. The deep rungs, the loss of VBK and the clock monitors (15_power_and_supervision.md R395-R399). -/
namespace Sys2Proof.Machine

/-- CLOCK_MONITOR_FLAG outside SEED: what the source's relock or stop is. -/
theorem exec_clockMonitorFlag {s : State} (hmode : (s.mode != .seed) = true) (k : Nat) :
    exec (.clockMonitorFlag k) s = .next
      (match k with
       | 0 => pllStops s
       | 1 => s.when s.pwr.deep.isNone lfRelocks
       | 2 => s.when (rung s ≤ 1) rfRelocks
       | 3 => s.when (rung s ≤ 1) meterRelocks
       | 5 => s.when (s.stat Reg.pwrStatusKeepRc = 0) crystalStops
       | _ => s) :=
  next_when hmode

/-- Settles O40: each event by its guard; a clock monitor by its source. -/
theorem powerLadder : Obligations.PowerLadder := by
  refine ⟨fun s hmay => next_when hmay, ?wake, fun s hw => next_when hw, ?wakeSequence, ?vbk, ?vbkHeld,
    fun s hmode => exec_clockMonitorFlag hmode 0, ?lf, ?rf, ?meter, ?crystal, ?host, fun s hrc => next_when (decide_eq_true hrc)⟩
  case wake =>
    intro s n hw hn
    refine (next_when hw).trans ?_
    rw [if_neg hn]
  case wakeSequence =>
    intro s p hp hdeep
    exact next_when (by simp [hp, hdeep])
  case vbk =>
    intro s mv hmode hmv
    exact next_when (by simp [hmode, hmv])
  case vbkHeld =>
    intro s mv hmode
    exact next_when_not (by simp [hmode])
  case lf =>
    intro s hmode hdeep
    exact (exec_clockMonitorFlag hmode 1).trans (next_when (by rw [hdeep]; rfl))
  case rf =>
    intro s hmode hrung
    exact (exec_clockMonitorFlag hmode 2).trans (next_when (decide_eq_true hrung))
  case meter =>
    intro s hmode hrung
    exact (exec_clockMonitorFlag hmode 3).trans (next_when (decide_eq_true hrung))
  case crystal =>
    intro s hmode hrc
    exact (exec_clockMonitorFlag hmode 5).trans (next_when (decide_eq_true hrc))
  case host =>
    intro s
    cases hmode : s.mode != .seed
    · exact next_when_not hmode
    · exact exec_clockMonitorFlag hmode 4

end Sys2Proof.Machine
end

section
/-! PROOFS. The real-time clock and rings 11 and 14 (15_power_and_supervision.md R400, R416-R418). -/
namespace Sys2Proof.Machine

/-- The nonce held, where there is one, has served an authorisation and is gone. -/
def rtcNonceSpent (s : State) : State :=
  (fun u : State => { u with pwr := { u.pwr with rtcNonce := none } }) (authJob s.pwr.rtcNonce.isSome s)

section
variable {s : State} {tag : Nat} {d : Desc} {data : Bytes} (hwait : Waiting s 13 0x02 tag d) (hp0 : d.p0 < 2 ^ 32)
  (hmac : (d.len = 0 || d.len = 16) = true) (hlen : d.len = data.length)
include hwait hp0 hmac hlen

/-- SET_RTC of legal form: by whether the RTC is set, whether a small step is due and whether the value is authorised. -/
theorem exec_setRtc :
    exec (.setRtc tag data) s = .next
      (if !s.rtcSet then rtcSets s tag d.p0
      else if smallStepAllowed s d.p0 then rtcSets { s with pwr := { s.pwr with smallStep := some s.now } } tag d.p0
      else if rtcAuthorised s d.p0 data then
        rtcSets (rtcNonceSpent s) tag d.p0
      else complete (rtcNonceSpent s) 13 tag stRtcRefused 0) :=
  next_ringCmdIf hwait _ (by simp only [hp0, hmac, decide_eq_true hlen, decide_true, Bool.and_self])

theorem exec_setRtc_set (hset : s.rtcSet = true) (hstep : smallStepAllowed s d.p0 = false) :
    exec (.setRtc tag data) s = .next
      (if rtcAuthorised s d.p0 data then
        rtcSets (rtcNonceSpent s) tag d.p0
      else complete (rtcNonceSpent s) 13 tag stRtcRefused 0) := by
  rw [exec_setRtc hwait hp0 hmac hlen, if_neg (by rw [hset]; decide), if_neg (by rw [hstep]; decide)]

end

/-- Settles O41: SET_RTC by its three grounds; the other commands on their served rings are their effects. -/
theorem realTimeClockAndReports : Obligations.RealTimeClockAndReports := by
  refine ⟨?unset, ?smallStep, ?authorised, ?refused, ?nonce, fun s hn => next_when hn, ?monitors, ?faults, ?buffer⟩
  case unset =>
    intro s tag d data hwait hp0 hmac hlen hset
    rw [exec_setRtc hwait hp0 hmac hlen, if_pos (by rw [hset]; rfl)]
  case smallStep =>
    intro s tag d data hwait hp0 hmac hlen hset hstep
    rw [exec_setRtc hwait hp0 hmac hlen, if_neg (by rw [hset]; decide), if_pos hstep]
  case authorised =>
    intro s tag d data hwait hp0 hmac hlen hset hstep hok
    rw [exec_setRtc_set hwait hp0 hmac hlen hset hstep, if_pos hok]
    rfl
  case refused =>
    intro s tag d data hwait hp0 hmac hlen hset hstep hok
    rw [exec_setRtc_set hwait hp0 hmac hlen hset hstep, if_neg (by rw [hok]; decide)]
    rfl
  case nonce =>
    intro s tag d hwait hlen
    exact next_ringCmdIf hwait _ (decide_eq_true hlen)
  case monitors =>
    intro s tag d hr hwait hlen
    exact ⟨_, inputTo_ringCmdIf hr hwait _ (decide_eq_true hlen), _, rfl⟩
  case faults =>
    intro s tag d hr hwait hlen
    exact ⟨_, inputTo_ringCmdIf hr hwait _ (decide_eq_true hlen), _, rfl⟩
  case buffer =>
    intro s tag d hr hwait hlen
    calc exec (.supervisionEventBuffer tag) s
        = execSupervisionEventBuffer tag s := rfl
      _ = _ := by rw [execSupervisionEventBuffer, inputTo_there hr, postBuffer_longEnough hwait hlen]

end Sys2Proof.Machine
end

section
/-! PROOFS. Faults, resets and the start sequence (15_power_and_supervision.md R401-R413; 14_live_update.md R373;
01_system_view.md R11). -/
namespace Sys2Proof.Machine

section
variable {s : State}

/-! ### Engines and memories (R406-R408; 01 R11) -/

/-- The instant of a role's latest checkpoint is noted. -/
def checkpointNoted (s : State) (r : Nat) : State :=
  { s with pwr := { s.pwr with checkpoints := tblPut 0 s.pwr.checkpoints r (s.now + 1) } }

theorem exec_engineCheckpoint {r : Nat} (hrun : s.running = true) (hlt : r < 14) (hthere : s.roleThere r = true) :
    exec (.engineCheckpoint r) s = .next
      (if r = 2 then (fun u : State => { u with tpx := { u.tpx with mark := u.tpx.phase } }) (checkpointNoted s r)
      else checkpointNoted s r) :=
  next_when (by simp [hrun, hlt, hthere])

theorem exec_eccError {m : Nat} (hmode : (s.mode != .seed) = true) (hm : m < 5) (u : Nat) (double : Bool) :
    exec (.eccError m u double) s = .next (if double then doubleError s m u else s.bump Reg.pwrEccCorrected) :=
  next_when (by simp [hmode, hm])

theorem exec_spareTakeover {v : VacantRole} (hv : s.pwr.vacant = some v) (hrun : s.running = true) (loaded : Bool) :
    exec (.spareTakeover loaded) s = .next (if loaded then takesOver s v.role else enterFailed s 0x07 v.role) := by
  calc exec (.spareTakeover loaded) s
      = execSpareTakeover loaded s := rfl
    _ = _ := by rw [execSpareTakeover, hv, next_when hrun]

/-- With the spare free its memory is tested; a failure is kept until the next start. -/
theorem exec_spareMemoryTest {pass : Bool} (hr : rolesThere s (.spareMemoryTest pass) = true) (hrun : s.running = true)
    (hspare : s.upd.spareRole = none) (hvacant : s.pwr.vacant = none) :
    exec (.spareMemoryTest pass) s = .next
      (selftestBit (if pass then s else s.setStat Reg.pwrStatusSpareBad 1) (s.pwr.selftests.map SelfTest.tag) 4 pass) := by
  refine (inputTo_when hr (by simp [hrun, hspare, hvacant])).trans ?_
  cases pass <;> rfl

/-! ### Resets (R401, R404, R405) -/

/-- The reset of a brown-out, with the level of the failed supply held. -/
def brownedOut (s : State) (k mv : Nat) : State :=
  resetDevice 0x03 { s with pwr := { s.pwr with supplies := s.pwr.supplies.set k mv } }

theorem exec_brownOut {k : Nat} (hk : s.pwr.failedSupply = some k) (mv : Nat) :
    exec (.brownOut mv) s = .next (s.when (s.mode != .seed && failureEnds s k mv) fun s =>
      if k = 0 && mv < 700 then { brownedOut s k mv with mode := .seed } else brownedOut s k mv) := by
  calc exec (.brownOut mv) s
      = execBrownOut s mv := rfl
    _ = _ := by
      rw [execBrownOut, hk]
      rfl

/-- VDD_CORE below its reset threshold ends its failure. -/
theorem failureEnds_core {mv : Nat} (hmv : mv < 700) : failureEnds s 0 mv = true := by
  simp [failureEnds, resetsBelow, hmv]

/-! ### The start sequence (R402; 14 R373) -/

theorem exec_startSequence (r : StartResult) (hmode : s.mode = .starting) (htrng : s.stat Reg.cipStatusTrngReady = 1) :
    exec (.startSequence r) s = .next
      ((codeVerified r (sourceTaken r.swing38 { s with nvwp := r.nvwp })).elim
        (recovers (loaderChosen (sourceTaken r.swing38 { s with nvwp := r.nvwp }) r.loader0 r.loader1)
          (sourceTaken r.swing38 { s with nvwp := r.nvwp }))
        (fun c => startRuns r c (sourceTaken r.swing38 { s with nvwp := r.nvwp }))) := by
  calc exec (.startSequence r) s
      = execStartSequence r s := rfl
    _ = _ := by
      rw [execStartSequence, next_when (by simp [hmode, htrng])]
      dsimp only
      cases codeVerified r (sourceTaken r.swing38 { s with nvwp := r.nvwp }) <;> rfl

end

/-- Settles O42: each fault, reset and start by its guard, then by what it finds. -/
theorem faultsAndResets : Obligations.FaultsAndResets := by
  refine ⟨?checkpoint, ?checkpointCoil, fun s m u hmode hm => exec_eccError hmode hm u false,
    fun s m u hmode hm => exec_eccError hmode hm u true, ?engineFault,
    fun s v hv hrun => exec_spareTakeover hv hrun true, fun s v hv hrun => exec_spareTakeover hv hrun false,
    fun s hmode => next_when hmode, fun s hr hrun hspare hvacant => exec_spareMemoryTest hr hrun hspare hvacant,
    fun s hr hrun hspare hvacant => exec_spareMemoryTest hr hrun hspare hvacant, fun s v b l => rfl, ?nrst, ?brownOut,
    ?brownOutCore, ?brownOutNot, fun s => rfl, fun s hallowed => next_when hallowed, fun s hrun => next_when hrun,
    ?starts, ?recovery⟩
  case checkpoint =>
    intro s r hrun hlt hthere hr
    rw [exec_engineCheckpoint hrun hlt hthere, if_neg hr]
    rfl
  case checkpointCoil =>
    intro s hrun hthere
    exact exec_engineCheckpoint hrun (by decide) hthere
  case engineFault =>
    intro s r hrun hlt
    exact exec_engineFault (by simpa [State.running] using hrun) hlt
  case nrst =>
    intro s hmode
    exact next_when (by simp [hmode])
  case brownOut =>
    intro s k mv hk hmode hends hlevel
    have hcore : (decide (k = 0) && decide (mv < 700)) = false := by
      rcases hlevel with hne | hge
      · simp [hne]
      · simp [Nat.not_lt_of_le hge]
    rw [exec_brownOut hk, next_when (by rw [hmode, hends]; rfl), if_neg (by rw [hcore]; decide)]
    rfl
  case brownOutCore =>
    intro s mv hk hmode hmv
    rw [exec_brownOut hk, next_when (by rw [hmode, failureEnds_core hmv]; rfl), if_pos (by simp [hmv])]
    rfl
  case brownOutNot =>
    intro s k mv hk hends
    rw [exec_brownOut hk, next_when_not (by rw [hends, Bool.and_false])]
  case starts =>
    intro s r c hmode htrng hc
    rw [exec_startSequence r hmode htrng, hc]
    rfl
  case recovery =>
    intro s r hmode htrng hc
    rw [exec_startSequence r hmode htrng, hc]
    rfl

end Sys2Proof.Machine
end
